-- ==== Sys2Proof/Word.lean ====
section
/-!
DEFINITION. The plainest types of the model: bytes, the 64-bit word of the Hamper and of the Clove engines, the two halves of the package (R4), and the sorted maps with list keys in which all sparse state is held.
-/

namespace Sys2Proof

/-- One byte, bit 0 the least significant (R13). -/
abbrev Byte := BitVec 8

/-- One 64-bit word: a Hamper word (R312) or a Clove general register (R295). -/
abbrev Word := BitVec 64

/-- The two core dies, East and West (R4, R18). -/
inductive Half where
  | E
  | W
deriving DecidableEq, Repr

/-- The number a half carries in registers and events: 0 East, 1 West (R328). -/
def Half.n : Half → Nat
  | .E => 0
  | .W => 1

/-- The half of a number, East for 0 and West for any other. -/
def Half.of (n : Nat) : Half := if n = 0 then .E else .W

/-- The other half. -/
def Half.other : Half → Half
  | .E => .W
  | .W => .E

/-- Key order of the sparse maps: lexicographic on lists of numbers. -/
def keyLt : List Nat → List Nat → Bool
  | [], [] => false
  | [], _ :: _ => true
  | _ :: _, [] => false
  | a :: as, b :: bs => if a < b then true else if b < a then false else keyLt as bs

/-- A sparse map: key and value pairs, keys rising. -/
abbrev SMap (α : Type) := List (List Nat × α)

/-- The value listed at a key. -/
def SMap.get? {α : Type} : SMap α → List Nat → Option α
  | [], _ => none
  | (k, v) :: m, x => if k = x then some v else SMap.get? m x

/-- The value at a key, or a default where the map lists none. -/
def SMap.getD {α : Type} (m : SMap α) (k : List Nat) (d : α) : α :=
  match SMap.get? m k with
  | some v => v
  | none => d

/-- The map with one key set to a value, its keys kept rising. -/
def SMap.set {α : Type} : SMap α → List Nat → α → SMap α
  | [], x, a => [(x, a)]
  | (k, v) :: m, x, a =>
    if k = x then (x, a) :: m
    else if keyLt x k then (x, a) :: (k, v) :: m
    else (k, v) :: SMap.set m x a

/-- The map without a key. -/
def SMap.erase {α : Type} : SMap α → List Nat → SMap α
  | [], _ => []
  | (k, v) :: m, x => if k = x then SMap.erase m x else (k, v) :: SMap.erase m x

/-- Sets a key, or takes it away when the value is the default, so that no entry equals what an unlisted key reads as. -/
def SMap.put {α : Type} [DecidableEq α] (m : SMap α) (k : List Nat) (v d : α) : SMap α :=
  if v = d then SMap.erase m k else SMap.set m k v

/-- The keys rise strictly. -/
def SMap.sorted {α : Type} : SMap α → Bool
  | [] => true
  | [_] => true
  | (k, _) :: (k', v') :: m => keyLt k k' && SMap.sorted ((k', v') :: m)

end Sys2Proof
end

