-- ==== Sys2Proof/Syntax.lean ====
section
/-!
DEFINITION. The commands of the block: one constructor of Instr for every row of spec/opcode_table.json, with the operands that the rule of the row gives it. The table names no bits, so the operands are those of the rules: descriptor fields for the descriptor rows, and what the outside world or the device's own timing supplies for the events.
-/

namespace Sys2Proof

/-- What every descriptor carries besides its arguments (R336), and what the device's read of its host buffer returns (R338).
For an opcode that writes its buffer, `buf` only says whether the write succeeds. `buf` is none where the access fails; an opcode that names no buffer ignores it. -/
structure Hdr where
  /-- Issuing function: 0 for PF0, v for VF v (R323). -/
  fn : Nat
  /-- Command ring, 0-3 (R331). -/
  ring : Nat
  /-- The ring's count of the descriptor, which names its slot (R332). -/
  cnt : Nat
  tag : Nat
  irq : Bool
  fence : Bool
  halfE : Bool
  halfW : Bool
  slice : Nat
  token : Nat
  haddr : Nat
  hlen : Nat
  buf : Option (List Byte)
deriving DecidableEq, Repr

/-- The key arguments of an FDB descriptor (R341); the slice is the descriptor's. -/
structure KeyArg where
  kind : Nat
  scope : Nat
  addr : Nat
deriving DecidableEq, Repr

/-- A block as a function's Layout Directory lists it (R328, R329): the function and the block type. -/
structure BlkAt where
  fn : Nat
  blk : Nat
deriving DecidableEq, Repr

/-- The commands. -/
inductive Instr where
  /-- R341: a descriptor that does nothing. -/
  | nop (d : Hdr)
  /-- R83: kind 0 ADD, 1 CLOSE, 2 REPLACE_NOW; `index` is the TCAM index; the record is in the host buffer. -/
  | tblWrite (d : Hdr) (kind tableId index : Nat)
  /-- R92. -/
  | tblRead (d : Hdr) (tableId index key : Nat)
  /-- R85. -/
  | sliceCommit (d : Hdr)
  /-- R84. -/
  | sliceAbort (d : Hdr)
  /-- R79. -/
  | sliceQuota (d : Hdr) (em tcam : Nat)
  /-- R57. -/
  | vniMapWrite (d : Hdr) (vni : Nat)
  /-- R57. -/
  | vniMapDelete (d : Hdr) (vni : Nat)
  /-- R89: copy 0 A, 1 B. -/
  | progLoad (d : Hdr) (copy : Nat)
  /-- R91. -/
  | progSwap (d : Hdr)
  /-- R91: the drain timer reaches `drain_limit`. -/
  | progDrainLimit
  /-- R91: old-tag frames reach zero. -/
  | progSwapDrained
  /-- R119. -/
  | fdbInsert (d : Hdr) (key : KeyArg) (port : Nat) (static replace : Bool) (adata : Nat)
  /-- R119. -/
  | fdbDelete (d : Hdr) (key : KeyArg)
  /-- R119: mode 0 key, 1 bucket, 2 overflow index. -/
  | fdbRead (d : Hdr) (mode : Nat) (key : KeyArg) (idx : Nat)
  /-- R115. -/
  | lock (d : Hdr) (bucket : Nat)
  /-- R115. -/
  | unlock (d : Hdr) (bucket : Nat)
  /-- R118: the entry is in the host buffer. -/
  | fdbWayWrite (d : Hdr) (bucket way : Nat)
  /-- R111. -/
  | fdbUnfreeze (d : Hdr) (key : KeyArg)
  /-- R119. -/
  | fdbFlush (d : Hdr) (bySlice byPort byScope inclStatic : Bool) (scope port : Nat)
  /-- R149: eight sizes in `BUF_PART` order. -/
  | bufPartSet (d : Hdr) (sizes : List Nat)
  /-- R148. -/
  | portFlush (d : Hdr) (port : Nat)
  /-- R175. -/
  | policerSet (d : Hdr) (n cir pir cbs pbs : Nat) (aware redDrop en : Bool) (owner : Nat)
  /-- R209: base time and cycle; the entries are in the host buffer. -/
  | gateLoad (d : Hdr) (port entries bsec bns cycle : Nat)
  /-- R225: the maps are in the host buffer. -/
  | epochLoad (d : Hdr) (sec ns epLen slots openGuard closeGuard : Nat)
  /-- R224. -/
  | epochStop (d : Hdr)
  /-- R244. -/
  | toaGroupOpen (d : Hdr)
  /-- R244. -/
  | toaGroupClose (d : Hdr) (group : Nat)
  /-- R246. -/
  | toaMemberSet (d : Hdr) (group member : Nat)
  /-- R263. -/
  | toaGroupRead (d : Hdr) (group : Nat)
  /-- R293. -/
  | cntSnap (d : Hdr) (mask : Nat)
  /-- R311. -/
  | patchLoad (d : Hdr)
  /-- R310: mode 0 ROUTINE, 1 WORD. -/
  | patchArm (d : Hdr) (mode : Nat)
  /-- R310: no engine carries the old tag. -/
  | patchArmDrained
  /-- R321. -/
  | hamRead (d : Hdr) (addr count : Nat)
  /-- R321: `als` 0 none, 1 set, 2 clear. -/
  | hamWrite (d : Hdr) (addr count als : Nat)
  /-- R367. -/
  | imageWrite (d : Hdr)
  /-- R367: programming and read-back end; `ok` says whether the read-back verified. -/
  | imageWriteDone (ok : Bool)
  /-- R368. -/
  | bootRetry (d : Hdr)
  /-- R370. -/
  | cfgCommit (d : Hdr)
  /-- R371. -/
  | cfgRead (d : Hdr)
  /-- R377: a 32-byte nonce. -/
  | attest (d : Hdr) (nonce : List Byte)
  /-- R376: 0 Ed25519, 1 ML-DSA-65. -/
  | idCertRead (d : Hdr) (alg : Nat)
  /-- R375; `fuseOk` says whether the fuse read-back agrees. -/
  | ownerEnroll (d : Hdr) (vendorImgOff fuseOk : Bool)
  /-- R382: `fail` 0 when every test passes, else the failed test of R386; `alg` the algorithm index of a known-answer test. -/
  | trbSelftest (d : Hdr) (fail alg : Nat)
  /-- R390. -/
  | hostClaim (d : Hdr)
  /-- R409. -/
  | bankRetire (d : Hdr) (cls inst bank : Nat)
  /-- R402: `link` 255 names every failed link. -/
  | linkRetrain (d : Hdr) (glb link : Nat)
  /-- R415: kind 1 single-bit, 2 double-bit. -/
  | eccInject (d : Hdr) (cls inst bank row kind : Nat)
  /-- R430: the port map entry, its flag byte and its reserved bits. -/
  | portSet (d : Hdr) (firstLane width rate pflags rsvd : Nat)
  /-- R429: the table is in the host buffer. -/
  | laneEqSet (d : Hdr) (restart : Bool)
  /-- R435. -/
  | laneTest (d : Hdr) (first lanes loop pattern : Nat) (check : Bool)
  /-- R432. -/
  | portRestart (d : Hdr) (port : Nat)
  /-- R443. -/
  | portRead (d : Hdr)
  /-- R443. -/
  | eqRead (d : Hdr)
  /-- R332. -/
  | doorbell (fn ring count : Nat)
  /-- R338: `bytes` is what the fetch of the 64-byte slot returns, none where it fails. -/
  | descriptorFetch (fn ring : Nat) (bytes : Option (List Byte))
  /-- R339: the descriptor of count `cnt` on the ring. -/
  | descriptorStart (fn ring cnt : Nat)
  /-- R335: the 64-bit value written to HST_RING_CFG. -/
  | ringCfgWrite (fn ring value : Nat)
  /-- R345: the 32-byte entry and the frame, without FCS, as read from host memory. -/
  | txEntry (fn ring : Nat) (entry frame : Option (List Byte))
  /-- R346: the frame that waits first at host port index k (port 1056 + k); `bufs` are the buffer addresses read from its RXB slots. -/
  | rxDelivery (k : Nat) (bufs : List Nat)
  /-- R347: ring `ring` of VF `v` has lacked slots for `rx_stall_us`. -/
  | ringStalled (v ring : Nat)
  /-- R352. -/
  | msixHoldoffEnd (fn vec : Nat)
  /-- R354: VF v. -/
  | flr (v : Nat)
  /-- R354. -/
  | hotReset
  /-- R468: the pin goes low (`low`) or is released. -/
  | perstN (low : Bool)
  /-- R469, R326: a configuration read, or a write of a value. -/
  | configRequest (fn off : Nat) (write : Option Nat)
  /-- R476: the bytes from destination address to FCS, whether the frame touched an uncorrectable codeword, the capture time and the bit position of R187. -/
  | frameReceive (port : Nat) (bytes : List Byte) (uncorr : Bool) (bitPos : Nat)
  /-- R422: `sym` symbols corrected; `uncorr` marks a codeword that cannot be corrected; `inner` inner-code corrections. -/
  | codewordDecode (port sym : Nat) (uncorr : Bool) (inner : Nat)
  /-- R423: the end of 8,192 codewords. -/
  | hiSer (port : Nat)
  /-- R51: pipe Pk. -/
  | parse (pipe : Nat)
  /-- R71: the frame's next stage. -/
  | stagePass (frame : Nat)
  /-- R102: the notice first in the bridge queue toward half `h`. -/
  | hitNotice (h : Half)
  /-- R102: the frame's lookup tag ends with its stamp write pending. -/
  | hitStampSkip (h : Half)
  /-- R315: the REG operation of the frame's next stage is refused for 8 clocks. -/
  | regMissed (frame : Nat)
  /-- R174. -/
  | tmFrontEnd (frame : Nat)
  /-- R140. -/
  | pfcRefresh (port pg : Nat)
  /-- R150. -/
  | pfcStorm (port pg : Nat)
  /-- R135: the first request waiting at half `h`. -/
  | admissionDecision (h : Half)
  /-- R130: the first grant travelling toward ingress half `h`. -/
  | admissionGrant (h : Half)
  /-- R139: the first release notice travelling toward half `h`. -/
  | pgReleaseNotice (h : Half)
  /-- R86: the first release message travelling toward half `h`. -/
  | refcntRelease (h : Half)
  /-- R35: the cells of a granted copy arrive at its egress half. -/
  | bridgeCellArrival (copy : Nat)
  /-- R34. -/
  | enqueue (copy : Nat)
  /-- R164. -/
  | schedulerSelect (port : Nat)
  /-- R217. -/
  | launchTest (port : Nat)
  /-- R160. -/
  | refill (h : Half)
  /-- R170: the class-enable vector and the eight times. -/
  | pfcRx (port vec : Nat) (times : List Nat)
  /-- R170. -/
  | pauseTimerExpiry (port prio : Nat)
  /-- R67. -/
  | deparse (copy : Nat)
  /-- R204: `bitPos` is the bit position b of R187. -/
  | transmit (copy bitPos : Nat)
  /-- R195. -/
  | txtsEntry (h : Half)
  /-- R196. -/
  | txtsPop (h : Half)
  /-- R199. -/
  | tioEdge (pin : Nat) (rising : Bool)
  /-- R199. -/
  | tioCapPop (pin : Nat)
  /-- R200. -/
  | tioOutputEdge (pin : Nat)
  /-- R179. -/
  | timeApplyEdge
  /-- R180. -/
  | timIncWrite (value : Nat)
  /-- R181. -/
  | stepGo
  /-- R183. -/
  | gmSet
  /-- R183. -/
  | holdoverExit
  /-- R183. -/
  | timCfgWrite (value : Nat)
  /-- R183. -/
  | watchdogExpiry
  /-- R178. -/
  | timeRefLost
  /-- R184: TIM_NOW_LO, or TIM_ELAPSED when `elapsed`. -/
  | timeRead (elapsed : Bool)
  /-- R112. -/
  | nowTickAdvance
  /-- R107: the first learn event travelling toward owner `h`. -/
  | learnEventEnqueue (h : Half)
  /-- R108. -/
  | learnApply (h : Half)
  /-- R108: the first remote write travelling toward half `h`. -/
  | fdbRemoteWrite (h : Half)
  /-- R108: the first acknowledgement travelling toward owner `h`. -/
  | fdbWriteAck (h : Half)
  /-- R113. -/
  | agerVisit (bucket : Nat)
  /-- R115. -/
  | lockLeaseExpiry (bucket : Nat)
  /-- R117. -/
  | lockRetry (fn ring cnt : Nat)
  /-- R122: owner `h` finishes. -/
  | fdbResyncDone (h : Half)
  /-- R87. -/
  | genRetire (slice : Nat)
  /-- R432. -/
  | portAcquired (port : Nat)
  /-- R432. -/
  | portAligned (port : Nat)
  /-- R432: causes 1-6 of R445. -/
  | portLinkLoss (port cause : Nat)
  /-- R144. -/
  | debounceExpiry (port : Nat)
  /-- R146. -/
  | flushFenceRetire (port : Nat)
  /-- R210. -/
  | gateListStart (port : Nat)
  /-- R223. -/
  | epochBoundary
  /-- R224. -/
  | epochGridStart
  /-- R224. -/
  | epochGridSwap
  /-- R223. -/
  | epochPurge (h : Half)
  /-- R255: the first frame of the unit's input FIFO, unless it is an ACK. -/
  | toaData (unit : Nat)
  /-- R255: the first frame of the unit's input FIFO, unless it is DATA. -/
  | toaAck (unit : Nat)
  /-- R257. -/
  | toaResultEmit (unit : Nat)
  /-- R249. -/
  | toaStallTimer (group block : Nat)
  /-- R249. -/
  | toaRetainExpiry (group block : Nat)
  /-- R244. -/
  | toaCloseDone (group : Nat)
  /-- R274. -/
  | exportFlushTimer (h : Half)
  /-- R284. -/
  | histWindowEdge (h : Half)
  /-- R284. -/
  | histAck (h : Half)
  /-- R285. -/
  | snapPeriodicTrigger (h : Half)
  /-- R287. -/
  | cntSnapReady (h : Half)
  /-- R291. -/
  | pmcSampPop (h : Half)
  /-- R9, R323: the block as the reading function sees it, instance, offset, and whether the read is 64 bits wide. -/
  | rcCounterRead (blk : BlkAt) (inst off : Nat) (wide : Bool)
  /-- R302: local engine e of half h. -/
  | cloveDispatch (h : Half) (e : Nat)
  /-- R296. -/
  | microwordExecute (h : Half) (e : Nat)
  /-- R306. -/
  | irqLatch (h : Half) (e line : Nat)
  /-- R306. -/
  | routineTimer (h : Half) (e : Nat)
  /-- R305. -/
  | engineRestart (h : Half) (e : Nat)
  /-- R393. -/
  | leaseRenewal
  /-- R393. -/
  | leaseRenewalRx
  /-- R393. -/
  | leaseAck
  /-- R393. -/
  | leaseLapse (h : Half)
  /-- R395. -/
  | prepare
  /-- R395: half `h` reaches the edge of its next prepared step. -/
  | twoHalfStepEdge (h : Half)
  /-- R395. -/
  | stepAppliedReport
  /-- R397: written to half `h`. -/
  | ownerClaim (h : Half) (term owner : Nat)
  /-- R398. -/
  | termExchange
  /-- R473, R43: the oldest write still owed to instance `target`. -/
  | mirroredWrite (target : Nat)
  /-- R439: link n of GLB_ instance. -/
  | gulubLinkFail (inst link : Nat)
  /-- R439. -/
  | flitCrcError (inst link : Nat)
  /-- R401. -/
  | bridgeLost
  /-- R401. -/
  | bridgeRestored
  /-- R402: the group of GLB_ instance. -/
  | autoRetrain (inst : Nat)
  /-- R441: `pass` says whether training passed, `wire` the wire mapped onto the spare (32 for none). -/
  | linkTrainDone (inst link : Nat) (pass : Bool) (wire : Nat)
  /-- R440. -/
  | linkRecentre (inst link : Nat)
  /-- R389. -/
  | maintQueuedStart
  /-- R405. -/
  | scrub (h : Half) (cls inst bank row : Nat)
  /-- R404. -/
  | ueRepair (h : Half) (cls inst bank row : Nat)
  /-- R407. -/
  | audit (h : Half)
  /-- R409. -/
  | bankCopy (h : Half)
  /-- R413: pair numbered as `RAS_XRST`. -/
  | xingStuck (h : Half) (pair tile : Nat)
  /-- R413: the value written to RAS_XRST. -/
  | xingReset (h : Half) (value : Nat)
  /-- R414. -/
  | rasErrPop (h : Half)
  /-- R96: a write through half `h`. -/
  | fdbSeedWrite (h : Half) (value : Nat)
  /-- R479: 0 FDB_REQ, 1 TIM_PTP_REQ, 2 GTE_LT_SRC, 3 TEL_REQ; entry c; through half `h`. -/
  | protectedCopyRegWrite (which : Nat) (h : Half) (c value : Nat)
  /-- R9: function, block type, instance, offset, access width and value. -/
  | registerWrite (fn blk inst off : Nat) (wide : Bool) (value : Nat)
  /-- R355. -/
  | supplyValid
  /-- R454: rail bit of R448. -/
  | supplyInvalid (rail : Nat)
  /-- R471. -/
  | railBelowRange (rail : Nat)
  /-- R356: the straps as sampled, the timing PLL's lock and the bridge links that trained. -/
  | resetEnd (tmode fsafe : Bool) (sba bridgeLinks : Nat)
  /-- R382: as in trbSelftest. -/
  | selftestDone (fail alg : Nat)
  /-- R359: whether SFDP was read, and whether it offers 8D-8D-8D. -/
  | flashDiscovery (ok octal : Bool)
  /-- R366: the best untried candidate. -/
  | slotBodyRead
  /-- R364: the next record of the image being applied. -/
  | recordApply
  /-- R356: `ms` milliseconds from the last supply valid. -/
  | forwardingStart (ms : Nat)
  /-- R457: hottest readings of the East die, the West die and the tiles, 1/16 degree two's complement, and a sensor fault. -/
  | thermSample (east west tiles : Int) (fault : Bool)
  /-- R458. -/
  | thermCrit
  /-- R452. -/
  | avsStep (h : Half)
  /-- R452. -/
  | avsReadback (h : Half) (mv amps : Nat)
  /-- R452. -/
  | avsTimeout (h : Half)
  /-- R470. -/
  | caps
  /-- R470. -/
  | ident
  /-- R470. -/
  | mode
  /-- R470. -/
  | boot
  /-- R470. -/
  | temp
  /-- R470. -/
  | alarm
  /-- R470. -/
  | supply
  /-- R470. -/
  | power
  /-- R471. -/
  | alertResponse
  /-- R472. -/
  | bypass
  /-- R472. -/
  | idcode
  /-- R472. -/
  | samplePreload
  /-- R472. -/
  | extest
  /-- R472. -/
  | extestPulse
  /-- R472. -/
  | extestTrain
  /-- R472. -/
  | highz
  /-- R472. -/
  | clamp
  /-- R472: TRST_N low. -/
  | tapReset
  /-- R178. -/
  | timeRefRestored
deriving DecidableEq, Repr

end Sys2Proof
end

