-- ==== Sys2Proof/Decode.lean ====
section
/-!
DEFINITION. The decoder of table words. The table of this block gives bits to none of its rows: its commands are operations and events, not words of a program.
-/

namespace Sys2Proof

/-- The command that a word spells by the table's bits: none, since no row has bits (log entry 1). -/
def decodeTableWord (_nbits _w : Nat) : Option Instr := none

end Sys2Proof
end

