-- ==== Sys2Proof/Config.lean ====
section
/-!
DEFINITION. What an implementation fixes and the free values: constants without a body, which nothing in Lean can evaluate. A statement that uses one holds for every value of it.
-/

namespace Sys2Proof.Config

/-- A piece of a lookup key: bits of a container (class 0, 1, 2 for 8, 16, 32 bits), of the metadata, or of the range vector (R69). -/
inductive KeySel where
  | ctr (cls idx lo w : Nat)
  | mdata (lo w : Nat)
  | range (lo w : Nat)
deriving DecidableEq, Repr

/-- What a key builder does: the table whose lookup it serves, if any, and the pieces of the key, the first piece the least significant. -/
structure KeyBuilder where
  table : Option Nat
  sel : List KeySel
deriving DecidableEq, Repr, Inhabited

/-- A source operand of an action (R76). -/
inductive Src where
  | imm (v : Nat)
  | ctr (cls idx : Nat)
  | adata (lo w : Nat)
  | mdata (lo w : Nat)
deriving DecidableEq, Repr

/-- A destination of an action: a container or a field of the stage area (R76, R77). -/
inductive Dst where
  | ctr (cls idx : Nat)
  | mdata (lo w : Nat)
deriving DecidableEq, Repr

/-- The arithmetic and logic of R76. -/
inductive AluOp where
  | add
  | sub
  | and
  | or
  | xor
  | shl
  | shr
deriving DecidableEq, Repr

/-- The read-modify-writes of R76 and R315. -/
inductive RmwOp where
  | add
  | max
  | min
  | swap
  | cas
deriving DecidableEq, Repr

/-- The operations of an action program (R76). -/
inductive Op where
  | set (d : Dst) (a : Src)
  | alu (op : AluOp) (w : Nat) (d : Dst) (a b : Src)
  | hash (ctrs : List (Nat × Nat)) (cls idx : Nat)
  | fwd (dest : Src)
  | drop
  | trap (reason : Src)
  | mirror (sess : Src)
  | recirc (k : Src)
  | meter (n : Src)
  | hdrIns (slot : Nat) (typ off lvl : Src)
  | hdrRem (slot : Nat)
  | reg (op : RmwOp) (addr arg cmp : Src) (cls idx : Nat)
deriving DecidableEq, Repr

/-- A table of an Izbe object's table map (R88): kind 0 exact, 1 TCAM, 2 wide TCAM; `size` is the bucket count or the number of indices from `base`. -/
structure TableMap where
  id : Nat
  kind : Nat
  stage : Nat
  keyW : Nat
  base : Nat
  size : Nat
  seed : Nat
  miss : Nat
deriving DecidableEq, Repr, Inhabited

/-- The meaning of the 256 bits of a key builder record, whose layout the manual does not give (R88, log entry 12). -/
opaque decodeKeyBuilder : Nat → KeyBuilder

/-- The meaning of the 512 bits of an action program, whose layout the manual does not give (R88, log entry 12). -/
opaque decodeActionProgram : Nat → List Op

/-- The meaning of a 32-byte table map record, of which the manual names the fields and not their places (R88, log entry 12). -/
opaque decodeTableMap : List (BitVec 8) → TableMap

/-- The bank and row that hold a word of a memory class of R404, which the manual does not give: class, then the word's own address. -/
opaque eccPlace : Nat → List Nat → Nat × Nat

/-- The word of a memory class that a bank and row hold, the other way round (R404): class, bank, row. -/
opaque eccWord : Nat → Nat → Nat → List Nat

/-- The byte address by which the address filter of a performance counter sees a word of a memory class other than the Hamper: class, then the word's own address; the manual does not give it (R289, log entry 76). -/
opaque eccAddr : Nat → List Nat → Nat

/-- A fresh free value for each value of the counter State.fresh: the random draws of R142, R269 and every value the spec leaves open at one moment (log entry 4). -/
opaque freeValue : Nat → Nat

/-- Spare columns in use of Hamper bank b of a half, a fuse value (R319). -/
opaque spareCols : Nat → Nat → Nat

/-- The boot ROM version, a ROM value (`TRB_ROM_VER`). -/
opaque romVer : Nat

/-- V_fuse of a half, in steps of 5 mV above 0.700 V (R452). -/
opaque vFuseStep : Nat → Nat

/-- The fused vendor key-set digest (R374). -/
opaque vendorDigest : Nat

/-- The contents of the microcode ROM: 49,152 microwords of 192 bits, which the manual does not give (R295). -/
opaque rom : Nat → BitVec 192

/-- The entry address of each routine of the ROM (R302), which the manual does not give. -/
opaque routineEntry : Nat → Nat

/-- What a dispatched engine finds in a register: routine, event body and register; none where the register keeps its value (R302). -/
opaque dispatchReg : Nat → List (BitVec 64) → Nat → Option (BitVec 64)

/-- The events that a routine queue can hold, beyond the one that every queue takes (R301). -/
opaque routineCap : Nat

/-- The group that the host buffer of a TOA_GROUP_OPEN names, of which the model learns with the command: by the count of free values and the buffer's address (R339). -/
opaque openGroup : Nat → Nat → Nat

/-- The register that holds the value a CAS expects, from its microword (R297). -/
opaque casReg : BitVec 192 → Nat

/-- The word that a byte address of the table port names: kind 0 exact-match entry, 1 TCAM action word, 2 FDB entry, and its place; none outside the table SRAM (R304). -/
opaque tablePort : Nat → Option (Nat × List Nat)

/-- The alias of a table port address: 1 bit-set, 2 bit-clear, else the word itself (R318, R320); the manual gives the alias bits of a Hamper address only. -/
opaque tableAlias : Nat → Nat

/-- What a word of the Hamper's device region holds (R312): 0 the lock bits of 64 buckets, 1 the learn queue, 2 the deferred list, 3 the host lock table, 4 a routine queue, 5 the state of a ring, and which 64 buckets, which routine, or which ring (64 times its function plus its number); none for a word that the model keeps as memory. The manual does not give the layout. -/
opaque devWord : Nat → Option (Nat × Nat)

/-- The byte address of a word named by class, instance, bank and row, for the address filters (R289, R404); class 0 is a Hamper, whose layout R312 gives. -/
opaque bankAddr : Nat → List Nat → Nat

/-- The Hamper address of the lock bit of a bucket (R312, R318); the manual does not give it. -/
opaque lockAddr : Nat → Nat

/-- The value of a word of the device region, from the entries of the structure that it holds (R312). -/
opaque devView : Nat → List (List Nat) → Nat

/-- The entries of a structure of the device region after a word of it is written: address, value, entries before (R312). -/
opaque devEdit : Nat → Nat → List (List Nat) → List (List Nat)

/-- How many of the eight registers a BRIDGE message posts, and its destination: a routine queue or an engine (R301). -/
opaque bridgeMsg : List (BitVec 64) → Nat × (Nat ⊕ Nat)

/-- The code and the 32 payload bytes of the event record that an EVENT message posts (R301). -/
opaque eventMsg : List (BitVec 64) → Nat × List (BitVec 8)

/-- The byte address and the 256-bit word of a TBL_BCAST message (R301). -/
opaque bcastMsg : List (BitVec 64) → Nat × Nat

/-- The routine and the event body of a QUEUE message (R301). -/
opaque queueMsg : List (BitVec 64) → Nat × List (BitVec 64)

/-- Ed25519 verification (RFC 8032): public key, message, signature, each as bytes. -/
opaque ed25519Verify : List (BitVec 8) → List (BitVec 8) → List (BitVec 8) → Bool

/-- ML-DSA-65 verification (FIPS 204) with an empty context string. -/
opaque mldsaVerify : List (BitVec 8) → List (BitVec 8) → List (BitVec 8) → Bool

/-- The Ed25519 signature of the device identity over a message (R376, R377). -/
opaque ed25519Sign : List (BitVec 8) → List (BitVec 8)

/-- The ML-DSA-65 signature of the device identity over a message, hedged by a fresh number (R381). -/
opaque mldsaSign : Nat → List (BitVec 8) → List (BitVec 8)

/-- The certificate chain of each algorithm (R376). -/
opaque certChain : Nat → List (BitVec 8)

/-- Where a function's PCI Express and Advanced Error Reporting capabilities lie in its configuration space; the manual does not say (R326). -/
opaque pcieCap : Nat
opaque aerCap : Nat

/-- The bit pairs of a test pattern of IEEE 802.3 Clause 120 that a lane sends: 1 PRBS13Q, 2 PRBS31Q, 3 SSPRBS (R436). -/
opaque pattern : Nat → List Nat

/-- The answer to a PCI Express configuration read: function and offset (R326 gives only some of the space). -/
opaque pcieConfig : Nat → Nat → Nat

/-- The offset of the power management control and status register in a function's configuration space (R326). -/
opaque pmcsr : Nat

/-- The continuous entropy test fails on the samples behind a signature (R382). -/
opaque entropyFails : Nat → Bool

/-- The bit pairs, as 2A + B, with which a frame fills the logical lane i of a port of some width and rate: the manual gives no PCS and no FEC encoding (R418-R422). -/
opaque pcsPairs : Nat → List (BitVec 8) → Nat → Nat → Nat → List Nat

/-- The levels at the balls of a physical lane that brought a frame. -/
opaque lineLevels : Nat → List (BitVec 8) → Nat → List Nat

/-- What a frame becomes whose codewords are not corrected (R421). -/
opaque bypassBytes : Nat → List (BitVec 8) → List (BitVec 8)

/-- The offsets of the MSI-X capability and of PF0's SR-IOV capability in a function's configuration space (R326). -/
opaque msixCap : Nat
opaque sriovCap : Nat

/-- The base of a block in PF0's BAR0: block type and number (R8, R328). -/
opaque blockBase : Nat → Nat → Nat

/-- The window size of a block in BAR0 (R328). -/
opaque blockSize : Nat → Nat → Nat

/-- The level that the contents of the boundary register hold at an output, by the output's number in the model: the manual gives no layout of that register (R472). -/
opaque boundaryCell : Nat → Nat → Bool

/-- The power of the rails other than the core rails, as modelled by the device, in W (R470). -/
opaque otherRailPower : Nat → Nat

end Sys2Proof.Config
end

