-- ==== Sys2Proof/Machine/RegTable.lean ====
section
/-!
DEFINITION. The registers of the device: every register of every register table of spec/, with its block, the kind of its instances, its offset, its index ranges, its width and its fields (bits, access code, reset value). The state holds one number per field; a register read or written whole is assembled from its fields. Each constructor of Fld is <register>_<field> as the tables name them; v stands for the single value of a counter or of a register without fields.
-/

namespace Sys2Proof.Machine

/-- The access codes of R9. -/
inductive Acc where
  | RO
  | RW
  | W1C
  | W1S
  | RC
  | WO
deriving DecidableEq, Repr

/-- What the instances of a register belong to (R329, R41): a pipe 0-31; the common instance 32; a half 0-1; MAT_ instances 33-34; a Toanton unit 0-31; the block's only instance; PF0's instance 0; a function 0-64; a tile 0-7; a Gulub die view 0-13. -/
inductive Cls where
  | pipe
  | common
  | half
  | matHalf
  | unit
  | one
  | pf0
  | fn
  | tile
  | glb
deriving DecidableEq, Repr

/-- The registers. -/
inductive Reg where
  | PAR_ARB_CFG
  | PAR_RECIRC_LIMIT
  | PAR_PORT_CFG
  | PAR_PROFILE
  | PAR_EVT_CNT
  | PAR_HASH_SEED
  | PAR_HASH_SEL
  | MAT_RANGE
  | SLC_QUOTA
  | SLC_USAGE
  | SLC_GEN
  | SLC_REFCNT
  | SLC_CNT
  | MAT_PROG_CTL
  | MAT_PROG_DIGEST
  | MAT_DRAIN_CNT
  | FDB_SEED
  | FDB_AGE_CFG
  | FDB_LEARN_CFG
  | FDB_LOCK_CFG
  | FDB_REQ
  | FDB_SLICE_CFG
  | FDB_SLICE_USE
  | FDB_OCC
  | FDB_PORT_CFG
  | FDB_STAT
  | FDB_CNT
  | BUF_PART
  | BUF_FREE
  | BUF_ECN_CFG
  | BUF_IPOOL
  | BUF_Q_CFG
  | BUF_Q_STAT
  | BUF_PORT_CFG
  | BUF_PORT_STAT
  | BUF_PG_CFG
  | BUF_MISC
  | BUF_Q_CNT
  | BUF_CNT
  | TMG_QMAP
  | TMG_SLICE_CFG
  | TMG_PORT_CFG
  | TMG_Q_CFG
  | TMG_GRP_CFG
  | TMG_PFC_STAT
  | TMG_Q_CNT
  | TMG_PORT_CNT
  | SHP_LEN_PROF
  | SHP_Q_CREDIT
  | SHP_POL_CFG
  | SHP_POL_CNT
  | SHP_SLICE_CNT
  | TIM_CFG
  | TIM_CTL
  | TIM_STAT
  | TIM_INC
  | TIM_GUARD
  | TIM_ELAPSED
  | TIM_PTP_REQ
  | TIM_TIO_CFG
  | TIM_PORT_CFG
  | TIM_CNT
  | GTE_PROF
  | GTE_LT_SRC
  | GTE_MEM
  | GTE_Q_CFG
  | GTE_PORT_STAT
  | GTE_LIST
  | GTE_ADJ_N
  | GTE_CNT
  | GTE_HALF_CNT
  | EPC_STAT
  | EPC_EPOCH
  | EPC_GRID
  | EPC_ADJ_N
  | EPC_CNT
  | TOA_CFG
  | TOA_SLICE_CFG
  | TOA_SLICE_USE
  | TOA_UNIT_STAT
  | TOA_UNIT_CNT
  | TEL_CFG
  | TEL_REQ
  | TEL_SESS
  | TEL_EXP_CFG
  | TEL_EXP_HDR
  | TEL_EXP_STAT
  | TEL_HIST_CFG
  | TEL_SNAP_STAT
  | TEL_Q_HIST
  | TEL_PORT_CNT
  | TEL_SLICE_CNT
  | TEL_DROP_CNT
  | TEL_CNT
  | PMC_CFG
  | PMC_ADDR
  | PMC_SAMP_CFG
  | PMC_SAMP_LOST
  | CLV_ROUTE
  | CLV_ENG_CTL
  | CLV_ENG_STAT
  | CLV_FAULT
  | CLV_PATCH_CTL
  | CLV_PAGES
  | CLV_MATCH
  | CLV_CNT
  | HAM_BANK_STAT
  | HAM_CNT
  | HST_FN
  | HST_RX_CFG
  | HST_DB
  | HST_RING_BASE
  | HST_RING_CFG
  | HST_RING_STAT
  | HST_RING_WB
  | HST_CNT
  | SYS_ID
  | SYS_BOOT_STAT
  | TRB_STAT
  | TRB_ROM_VER
  | TRB_SLOT
  | TRB_CFG_SEQ
  | TRB_CNT
  | SYS_MODE
  | RAS_OWN_CFG
  | RAS_OWN_STAT
  | RAS_OWN_CLAIM
  | RAS_LINK_CFG
  | RAS_LINK_STAT
  | RAS_ECC_CFG
  | RAS_SPARE
  | RAS_RETIRE_STAT
  | RAS_XRST
  | RAS_XSTAT
  | RAS_CNT
  | LAN_CFG
  | LAN_EQ_ID
  | LAN_LANE_STAT
  | LAN_PORT_STAT
  | LAN_PRBS_CNT
  | LAN_PORT_CNT
  | GLB_CFG
  | GLB_LINK_STAT
  | GLB_CNT
  | SYS_STRAP
  | SYS_THERM
  | SYS_SUPPLY
  | SYS_AVS
  | TIM_STEP_LO
  | TIM_STEP_HI
  | TIM_NOW_LO
  | TIM_NOW_HI
  | TIM_TXTS_W0
  | TIM_TXTS_W1
  | TIM_TIO_OUT
  | TIM_TIO_START
  | TIM_TIO_CAP_LO
  | TIM_TIO_CAP_HI
  | PMC_SAMP_W0
  | PMC_SAMP_W1
  | RAS_ERR_W0
  | RAS_ERR_W1
  | PAR_VLAN_MAP
  | BUF_PG_REMOTE
  | BUF_WRED
  | BUF_WRED_W
  | PMC_CNT
  | PMC_THRESH
  | TRB_VENDOR_DIGEST
  | TRB_OWNER_DIGEST
  | TEL_HIST_BIN
  | TEL_HIST_SUM
  | TEL_HIST_MAX
  | TEL_SNAP_CFG
  | TEL_SNAP_ADDR
  | LAN_LANE_EQ
  | SHP_S_SHP
  | SHP_Q_SHP
  | SHP_G_SHP
  | SHP_P_SHP
deriving DecidableEq, Repr

/-- The fields of the registers, reserved fields left out: they read as 0 and ignore writes (R11). -/
inductive Fld where
  | PAR_ARB_CFG_recirc_weight
  | PAR_ARB_CFG_intport_weight
  | PAR_RECIRC_LIMIT_count
  | PAR_PORT_CFG_profile
  | PAR_PORT_CFG_slice_mode
  | PAR_PORT_CFG_def_slice
  | PAR_PORT_CFG_def_pcp
  | PAR_PROFILE_act_trunc
  | PAR_PROFILE_act_len
  | PAR_PROFILE_act_short
  | PAR_PROFILE_act_nomatch
  | PAR_PROFILE_depth_limit
  | PAR_PROFILE_hdr_limit
  | PAR_PROFILE_trap_port
  | PAR_PROFILE_trap_tc
  | PAR_PROFILE_nm_port
  | PAR_EVT_CNT_v
  | PAR_HASH_SEED_seed
  | PAR_HASH_SEL_l3_addr
  | PAR_HASH_SEL_l3_proto
  | PAR_HASH_SEL_l4_ports
  | PAR_HASH_SEL_flow_label
  | PAR_HASH_SEL_mac
  | PAR_HASH_SEL_ethertype
  | PAR_HASH_SEL_vid
  | PAR_HASH_SEL_vni
  | PAR_HASH_SEL_level
  | MAT_RANGE_low
  | MAT_RANGE_high
  | MAT_RANGE_ctr
  | MAT_RANGE_point
  | MAT_RANGE_en
  | SLC_QUOTA_em_quota
  | SLC_QUOTA_tcam_quota
  | SLC_USAGE_em_used
  | SLC_USAGE_tcam_used
  | SLC_USAGE_log_used
  | SLC_GEN_cur_gen
  | SLC_GEN_oldest_live
  | SLC_GEN_retiring
  | SLC_GEN_evt_retired
  | SLC_GEN_committed
  | SLC_REFCNT_count
  | SLC_CNT_v
  | MAT_PROG_CTL_active
  | MAT_PROG_CTL_state
  | MAT_PROG_CTL_a_loaded
  | MAT_PROG_CTL_b_loaded
  | MAT_PROG_CTL_drain_limit
  | MAT_PROG_CTL_old_count
  | MAT_PROG_DIGEST_v
  | MAT_DRAIN_CNT_v
  | FDB_SEED_seed
  | FDB_SEED_rejected
  | FDB_AGE_CFG_tick
  | FDB_AGE_CFG_sweep
  | FDB_AGE_CFG_age_run
  | FDB_AGE_CFG_lf_life
  | FDB_LEARN_CFG_move_limit
  | FDB_LEARN_CFG_learn_run
  | FDB_LOCK_CFG_lease_us
  | FDB_LOCK_CFG_read_retry
  | FDB_REQ_en
  | FDB_REQ_issue_stage
  | FDB_REQ_kb_lookup
  | FDB_REQ_kb_learn
  | FDB_REQ_learn_en
  | FDB_REQ_res_ctr16
  | FDB_REQ_res_ctr32
  | FDB_REQ_wr_ignored
  | FDB_SLICE_CFG_quota
  | FDB_SLICE_CFG_age_limit
  | FDB_SLICE_CFG_learn_en
  | FDB_SLICE_CFG_age_en
  | FDB_SLICE_USE_used
  | FDB_OCC_bucket_used
  | FDB_OCC_ovf_used
  | FDB_PORT_CFG_learn_en
  | FDB_PORT_CFG_flush_on_down
  | FDB_STAT_host_locks
  | FDB_STAT_lq_depth
  | FDB_STAT_defer_depth
  | FDB_STAT_resync
  | FDB_CNT_v
  | BUF_PART_size
  | BUF_PART_use
  | BUF_FREE_phys_free
  | BUF_FREE_desc_free
  | BUF_ECN_CFG_ip4_type
  | BUF_ECN_CFG_ip6_type
  | BUF_IPOOL_size
  | BUF_IPOOL_use
  | BUF_Q_CFG_pool
  | BUF_Q_CFG_alpha
  | BUF_Q_CFG_lossless
  | BUF_Q_CFG_q_min
  | BUF_Q_CFG_q_max
  | BUF_Q_CFG_wred_prof
  | BUF_Q_CFG_wred_en
  | BUF_Q_CFG_ecn_en
  | BUF_Q_CFG_ecn_th
  | BUF_Q_STAT_q_rsv
  | BUF_Q_STAT_q_shr
  | BUF_Q_STAT_peak
  | BUF_PORT_CFG_debounce_us
  | BUF_PORT_CFG_pg_map
  | BUF_PORT_CFG_pfc_quanta
  | BUF_PORT_CFG_pfc_refresh
  | BUF_PORT_STAT_state
  | BUF_PORT_STAT_up_seen
  | BUF_PORT_STAT_relaunch
  | BUF_PORT_STAT_xoff
  | BUF_PG_CFG_lossless
  | BUF_PG_CFG_ipool
  | BUF_PG_CFG_alpha_in
  | BUF_PG_CFG_pg_min
  | BUF_PG_CFG_xoff_static
  | BUF_PG_CFG_xon_offset
  | BUF_PG_CFG_hdrm_max
  | BUF_PG_CFG_pg_use
  | BUF_PG_CFG_pg_hdrm
  | BUF_MISC_storm_ms
  | BUF_Q_CNT_v
  | BUF_CNT_v
  | TMG_QMAP_queue
  | TMG_SLICE_CFG_qclass
  | TMG_PORT_CFG_qmap_prof
  | TMG_PORT_CFG_rel_limit
  | TMG_PORT_CFG_q_unit
  | TMG_PORT_CFG_pfc_rx_en
  | TMG_Q_CFG_group
  | TMG_Q_CFG_prio
  | TMG_Q_CFG_weight
  | TMG_Q_CFG_len_prof
  | TMG_Q_CFG_pfc_prio
  | TMG_Q_CFG_pfc_en
  | TMG_GRP_CFG_prio
  | TMG_GRP_CFG_weight
  | TMG_GRP_CFG_slice_shp
  | TMG_PFC_STAT_paused
  | TMG_Q_CNT_v
  | TMG_PORT_CNT_v
  | SHP_LEN_PROF_overhead
  | SHP_Q_CREDIT_credit
  | SHP_POL_CFG_cir_inc
  | SHP_POL_CFG_pir_inc
  | SHP_POL_CFG_cbs
  | SHP_POL_CFG_pbs
  | SHP_POL_CFG_aware
  | SHP_POL_CFG_red_drop
  | SHP_POL_CFG_en
  | SHP_POL_CFG_owner
  | SHP_POL_CNT_v
  | SHP_SLICE_CNT_v
  | TIM_CFG_ref_src
  | TIM_CFG_hold_en
  | TIM_CFG_guard_en
  | TIM_CFG_wd_ms
  | TIM_CTL_step_go
  | TIM_CTL_gm_set
  | TIM_STAT_holdover
  | TIM_STAT_step_pend
  | TIM_STAT_step_refused
  | TIM_STAT_step_busy
  | TIM_STAT_inc_refused
  | TIM_STAT_inc_range
  | TIM_STAT_lockstep_lost
  | TIM_STAT_txts_ovf_e
  | TIM_STAT_txts_ovf_w
  | TIM_STAT_ref_lost
  | TIM_STAT_pll_lock
  | TIM_INC_inc
  | TIM_GUARD_guard_ns
  | TIM_ELAPSED_ticks
  | TIM_PTP_REQ_en
  | TIM_PTP_REQ_ctr
  | TIM_PTP_REQ_udp_type
  | TIM_PTP_REQ_wr_ignored
  | TIM_TIO_CFG_mode
  | TIM_TIO_CFG_edge
  | TIM_TIO_CFG_cfg_err
  | TIM_TIO_CFG_period
  | TIM_PORT_CFG_rx_adj
  | TIM_PORT_CFG_tx_adj
  | TIM_PORT_CFG_p2p_delay
  | TIM_CNT_v
  | GTE_PROF_over_act
  | GTE_PROF_late_act
  | GTE_PROF_lt_tol
  | GTE_PROF_lt_max
  | GTE_PROF_trap_port
  | GTE_PROF_trap_tc
  | GTE_PROF_trap_reason
  | GTE_PROF_left_trap
  | GTE_PROF_left_samp
  | GTE_LT_SRC_en
  | GTE_LT_SRC_word
  | GTE_LT_SRC_wr_ignored
  | GTE_MEM_free
  | GTE_Q_CFG_prof
  | GTE_Q_CFG_lt_en
  | GTE_Q_CFG_ep_en
  | GTE_PORT_STAT_gl_state
  | GTE_PORT_STAT_timed
  | GTE_PORT_STAT_entry
  | GTE_PORT_STAT_gates
  | GTE_PORT_STAT_adjusted
  | GTE_LIST_start_sec
  | GTE_LIST_start_ns
  | GTE_LIST_cycle_ns
  | GTE_ADJ_N_v
  | GTE_CNT_v
  | GTE_HALF_CNT_v
  | EPC_STAT_state
  | EPC_STAT_slot
  | EPC_STAT_adjusted
  | EPC_EPOCH_v
  | EPC_GRID_start
  | EPC_GRID_ep_len
  | EPC_GRID_slots
  | EPC_GRID_open_guard
  | EPC_GRID_close_guard
  | EPC_ADJ_N_v
  | EPC_CNT_v
  | TOA_CFG_udp_port
  | TOA_CFG_en
  | TOA_CFG_csum_chk
  | TOA_SLICE_CFG_max_groups
  | TOA_SLICE_CFG_max_granules
  | TOA_SLICE_CFG_max_members
  | TOA_SLICE_USE_groups
  | TOA_SLICE_USE_granules
  | TOA_SLICE_USE_members
  | TOA_UNIT_STAT_gran_free
  | TOA_UNIT_STAT_blocks
  | TOA_UNIT_STAT_mem_free
  | TOA_UNIT_STAT_groups
  | TOA_UNIT_STAT_bp
  | TOA_UNIT_CNT_v
  | TEL_CFG_dev_id
  | TEL_CFG_tel_type
  | TEL_CFG_drop_sess
  | TEL_CFG_drop_en
  | TEL_REQ_en
  | TEL_REQ_ctr
  | TEL_REQ_wr_ignored
  | TEL_SESS_dest
  | TEL_SESS_tc
  | TEL_SESS_trunc
  | TEL_SESS_samp
  | TEL_SESS_rate
  | TEL_EXP_CFG_target
  | TEL_EXP_CFG_exp_port
  | TEL_EXP_CFG_exp_tc
  | TEL_EXP_CFG_batch
  | TEL_EXP_CFG_flush_us
  | TEL_EXP_HDR_exp_dmac
  | TEL_EXP_HDR_exp_smac
  | TEL_EXP_HDR_exp_etype
  | TEL_EXP_STAT_fifo
  | TEL_EXP_STAT_seq
  | TEL_HIST_CFG_unit_shift
  | TEL_HIST_CFG_win_us
  | TEL_HIST_CFG_hist_ack
  | TEL_HIST_CFG_closed
  | TEL_HIST_CFG_merged
  | TEL_SNAP_STAT_busy
  | TEL_SNAP_STAT_snap_ovr
  | TEL_SNAP_STAT_seq
  | TEL_Q_HIST_hist
  | TEL_Q_HIST_hist_en
  | TEL_PORT_CNT_v
  | TEL_SLICE_CNT_v
  | TEL_DROP_CNT_v
  | TEL_CNT_v
  | PMC_CFG_event
  | PMC_CFG_priv
  | PMC_CFG_vf
  | PMC_CFG_mst
  | PMC_CFG_mst_lo
  | PMC_CFG_mst_hi
  | PMC_CFG_cls
  | PMC_CFG_addr_en
  | PMC_ADDR_lo
  | PMC_ADDR_hi
  | PMC_SAMP_CFG_en
  | PMC_SAMP_CFG_ctr
  | PMC_SAMP_CFG_period
  | PMC_SAMP_CFG_samp_ovf
  | PMC_SAMP_LOST_v
  | CLV_ROUTE_mask
  | CLV_ROUTE_timer_us
  | CLV_ENG_CTL_online
  | CLV_ENG_CTL_irq_en
  | CLV_ENG_STAT_state
  | CLV_ENG_STAT_tag
  | CLV_ENG_STAT_pc
  | CLV_ENG_STAT_routine
  | CLV_ENG_STAT_irq_pend
  | CLV_ENG_STAT_irq_ovr
  | CLV_FAULT_cause
  | CLV_FAULT_uaddr
  | CLV_FAULT_patched
  | CLV_PATCH_CTL_active
  | CLV_PATCH_CTL_state
  | CLV_PATCH_CTL_mode
  | CLV_PAGES_v
  | CLV_MATCH_match
  | CLV_MATCH_target
  | CLV_MATCH_valid
  | CLV_CNT_v
  | HAM_BANK_STAT_spare_cols
  | HAM_BANK_STAT_retired
  | HAM_CNT_v
  | HST_FN_desc_en
  | HST_FN_tx_en
  | HST_FN_rx_en
  | HST_FN_evt_fwd
  | HST_RX_CFG_rx_stall_us
  | HST_DB_count
  | HST_RING_BASE_base
  | HST_RING_CFG_log2_size
  | HST_RING_CFG_en
  | HST_RING_CFG_half
  | HST_RING_CFG_vec
  | HST_RING_CFG_host_port
  | HST_RING_CFG_coal_us
  | HST_RING_CFG_buf_kib
  | HST_RING_STAT_dev_idx
  | HST_RING_STAT_busy
  | HST_RING_STAT_stalled
  | HST_RING_STAT_cfg_err
  | HST_RING_STAT_dma_err
  | HST_RING_WB_wb_addr
  | HST_CNT_v
  | SYS_ID_device
  | SYS_ID_stepping
  | SYS_BOOT_STAT_phase
  | SYS_BOOT_STAT_slot
  | SYS_BOOT_STAT_res_a
  | SYS_BOOT_STAT_res_b
  | SYS_BOOT_STAT_fwd_ms
  | SYS_BOOT_STAT_fail_type
  | SYS_BOOT_STAT_fail_index
  | SYS_BOOT_STAT_slow_flash
  | TRB_STAT_approved
  | TRB_STAT_error
  | TRB_STAT_testing
  | TRB_STAT_owner_enrolled
  | TRB_STAT_vendor_img_off
  | TRB_STAT_err_cause
  | TRB_ROM_VER_rom_ver
  | TRB_SLOT_seq
  | TRB_SLOT_valid
  | TRB_SLOT_booted
  | TRB_CFG_SEQ_cfg_seq
  | TRB_CNT_v
  | SYS_MODE_mode
  | SYS_MODE_base_mode
  | SYS_MODE_maint_op
  | SYS_MODE_maint_queued
  | RAS_OWN_CFG_lease_ms
  | RAS_OWN_CFG_auto_resolve
  | RAS_OWN_STAT_state
  | RAS_OWN_STAT_owner
  | RAS_OWN_STAT_bridge_up
  | RAS_OWN_STAT_claim_pend
  | RAS_OWN_STAT_conflict
  | RAS_OWN_STAT_claim_stale
  | RAS_OWN_STAT_mirror_split
  | RAS_OWN_STAT_term
  | RAS_OWN_CLAIM_term
  | RAS_OWN_CLAIM_owner
  | RAS_LINK_CFG_min_links
  | RAS_LINK_CFG_auto_retrain
  | RAS_LINK_STAT_bridge_ok
  | RAS_LINK_STAT_bridge_spares
  | RAS_LINK_STAT_degraded
  | RAS_LINK_STAT_lost
  | RAS_LINK_STAT_pipe_rl
  | RAS_ECC_CFG_scrub_en
  | RAS_ECC_CFG_scrub_s
  | RAS_ECC_CFG_ce_thresh
  | RAS_ECC_CFG_ce_window_s
  | RAS_ECC_CFG_ue_retire
  | RAS_ECC_CFG_audit_s
  | RAS_SPARE_total
  | RAS_SPARE_used
  | RAS_RETIRE_STAT_state
  | RAS_RETIRE_STAT_class
  | RAS_RETIRE_STAT_instance
  | RAS_RETIRE_STAT_bank
  | RAS_RETIRE_STAT_done
  | RAS_XRST_lane_core
  | RAS_XRST_lane_tb
  | RAS_XRST_core_tb
  | RAS_XRST_core_clove
  | RAS_XRST_clove_tb
  | RAS_XRST_clove_host
  | RAS_XRST_core_host
  | RAS_XRST_tile
  | RAS_XSTAT_ovr
  | RAS_XSTAT_stuck
  | RAS_CNT_v
  | LAN_CFG_ser_thresh
  | LAN_EQ_ID_v
  | LAN_LANE_STAT_pwr
  | LAN_LANE_STAT_rate
  | LAN_LANE_STAT_loop
  | LAN_LANE_STAT_pattern
  | LAN_LANE_STAT_sig
  | LAN_LANE_STAT_cdr_lock
  | LAN_LANE_STAT_prbs_lock
  | LAN_LANE_STAT_eq_default
  | LAN_LANE_STAT_rx_pos
  | LAN_PORT_STAT_state
  | LAN_PORT_STAT_rate
  | LAN_PORT_STAT_width
  | LAN_PORT_STAT_tx_rev
  | LAN_PORT_STAT_fec_corr
  | LAN_PORT_STAT_fec_ind
  | LAN_PORT_STAT_cause
  | LAN_PORT_STAT_hi_ser
  | LAN_PORT_STAT_rl
  | LAN_PRBS_CNT_v
  | LAN_PORT_CNT_v
  | GLB_CFG_crc_limit
  | GLB_LINK_STAT_state
  | GLB_LINK_STAT_wire_repaired
  | GLB_LINK_STAT_repaired_wire
  | GLB_CNT_v
  | SYS_STRAP_tmode
  | SYS_STRAP_fsafe
  | SYS_STRAP_sba
  | SYS_THERM_t_max
  | SYS_THERM_t_east
  | SYS_THERM_t_west
  | SYS_THERM_warn
  | SYS_THERM_crit
  | SYS_THERM_sens_fault
  | SYS_SUPPLY_low
  | SYS_AVS_v_fuse
  | SYS_AVS_v_target
  | SYS_AVS_v_read
  | SYS_AVS_i_read
  | SYS_AVS_avs_err
  | TIM_STEP_LO_frac
  | TIM_STEP_LO_ns
  | TIM_STEP_LO_neg
  | TIM_STEP_LO_abs
  | TIM_STEP_HI_sec
  | TIM_NOW_LO_frac
  | TIM_NOW_LO_ns
  | TIM_NOW_HI_sec
  | TIM_TXTS_W0_valid
  | TIM_TXTS_W0_port
  | TIM_TXTS_W0_id
  | TIM_TXTS_W0_ns
  | TIM_TXTS_W1_frac
  | TIM_TXTS_W1_sec
  | TIM_TIO_OUT_start_ns
  | TIM_TIO_OUT_width
  | TIM_TIO_START_start_sec
  | TIM_TIO_CAP_LO_valid
  | TIM_TIO_CAP_LO_fall
  | TIM_TIO_CAP_LO_ns
  | TIM_TIO_CAP_HI_frac
  | TIM_TIO_CAP_HI_sec
  | PMC_SAMP_W0_valid
  | PMC_SAMP_W0_ce
  | PMC_SAMP_W0_uaddr
  | PMC_SAMP_W0_patched
  | PMC_SAMP_W0_stall
  | PMC_SAMP_W0_ns
  | PMC_SAMP_W1_cycle
  | PMC_SAMP_W1_sec
  | RAS_ERR_W0_valid
  | RAS_ERR_W0_ue
  | RAS_ERR_W0_class
  | RAS_ERR_W0_instance
  | RAS_ERR_W0_bank
  | RAS_ERR_W0_row
  | RAS_ERR_W1_ns
  | RAS_ERR_W1_sec
  | PAR_VLAN_MAP_slice0
  | PAR_VLAN_MAP_valid0
  | PAR_VLAN_MAP_slice1
  | PAR_VLAN_MAP_valid1
  | PAR_VLAN_MAP_slice2
  | PAR_VLAN_MAP_valid2
  | PAR_VLAN_MAP_slice3
  | PAR_VLAN_MAP_valid3
  | BUF_PG_REMOTE_pg_remote
  | BUF_WRED_min
  | BUF_WRED_max
  | BUF_WRED_max_p
  | BUF_WRED_W_avg_w
  | PMC_CNT_v
  | PMC_THRESH_v
  | TRB_VENDOR_DIGEST_v
  | TRB_OWNER_DIGEST_v
  | TEL_HIST_BIN_v
  | TEL_HIST_SUM_v
  | TEL_HIST_MAX_v
  | TEL_SNAP_CFG_period_ms
  | TEL_SNAP_CFG_groups
  | TEL_SNAP_CFG_size
  | TEL_SNAP_ADDR_v
  | LAN_LANE_EQ_entry
  | SHP_S_SHP_inc
  | SHP_S_SHP_burst
  | SHP_S_SHP_en
  | SHP_Q_SHP_inc
  | SHP_Q_SHP_burst
  | SHP_Q_SHP_en
  | SHP_G_SHP_inc
  | SHP_G_SHP_burst
  | SHP_G_SHP_en
  | SHP_P_SHP_inc
  | SHP_P_SHP_burst
  | SHP_P_SHP_en
deriving DecidableEq, Repr

/-- Where a register lies: block type (R329), kind of instance, offset of its first element, its index ranges with their strides, its width in bits, and whether writes of it are mirrored to the other half (R21, R473). -/
structure RegInfo where
  blk : Nat
  cls : Cls
  base : Nat
  dims : List (Nat × Nat)
  width : Nat
  mirrored : Bool
deriving DecidableEq, Repr

/-- The place of a register. -/
def Reg.info : Reg → RegInfo
  | .PAR_ARB_CFG => ⟨3, .pipe, 64, [], 32, false⟩
  | .PAR_RECIRC_LIMIT => ⟨3, .pipe, 72, [], 64, false⟩
  | .PAR_PORT_CFG => ⟨3, .pipe, 256, [(34, 4)], 32, false⟩
  | .PAR_PROFILE => ⟨3, .common, 256, [(16, 8)], 64, false⟩
  | .PAR_EVT_CNT => ⟨3, .pipe, 4096, [(34, 64), (8, 8)], 64, false⟩
  | .PAR_HASH_SEED => ⟨3, .common, 0, [], 32, false⟩
  | .PAR_HASH_SEL => ⟨3, .common, 512, [(64, 4)], 32, false⟩
  | .MAT_RANGE => ⟨4, .pipe, 8192, [(2, 512), (64, 8)], 64, false⟩
  | .SLC_QUOTA => ⟨5, .half, 1024, [(64, 8)], 64, true⟩
  | .SLC_USAGE => ⟨5, .half, 1536, [(64, 8)], 64, false⟩
  | .SLC_GEN => ⟨5, .half, 0, [(64, 8)], 64, true⟩
  | .SLC_REFCNT => ⟨5, .half, 4096, [(64, 16), (4, 4)], 32, false⟩
  | .SLC_CNT => ⟨5, .half, 8192, [(64, 32), (4, 8)], 64, false⟩
  | .MAT_PROG_CTL => ⟨4, .common, 0, [], 64, false⟩
  | .MAT_PROG_DIGEST => ⟨4, .common, 256, [(2, 64)], 384, false⟩
  | .MAT_DRAIN_CNT => ⟨4, .matHalf, 16, [], 64, false⟩
  | .FDB_SEED => ⟨6, .half, 0, [], 64, true⟩
  | .FDB_AGE_CFG => ⟨6, .half, 8, [], 64, true⟩
  | .FDB_LEARN_CFG => ⟨6, .half, 16, [], 32, true⟩
  | .FDB_LOCK_CFG => ⟨6, .half, 24, [], 32, true⟩
  | .FDB_REQ => ⟨6, .half, 32, [(2, 8)], 64, true⟩
  | .FDB_SLICE_CFG => ⟨6, .half, 256, [(64, 8)], 64, true⟩
  | .FDB_SLICE_USE => ⟨6, .half, 768, [(64, 4)], 32, true⟩
  | .FDB_OCC => ⟨6, .half, 1024, [], 64, true⟩
  | .FDB_PORT_CFG => ⟨6, .half, 4096, [(1088, 4)], 32, true⟩
  | .FDB_STAT => ⟨6, .half, 33024, [], 32, false⟩
  | .FDB_CNT => ⟨6, .half, 32768, [(32, 8)], 64, false⟩
  | .BUF_PART => ⟨7, .half, 0, [(8, 8)], 64, false⟩
  | .BUF_FREE => ⟨7, .half, 64, [], 64, false⟩
  | .BUF_ECN_CFG => ⟨7, .half, 72, [], 32, false⟩
  | .BUF_IPOOL => ⟨7, .half, 128, [(4, 8)], 64, false⟩
  | .BUF_Q_CFG => ⟨7, .half, 65536, [(8704, 8)], 64, false⟩
  | .BUF_Q_STAT => ⟨7, .half, 655360, [(8704, 8)], 64, false⟩
  | .BUF_PORT_CFG => ⟨7, .half, 262144, [(544, 8)], 64, false⟩
  | .BUF_PORT_STAT => ⟨7, .half, 327680, [(544, 4)], 32, false⟩
  | .BUF_PG_CFG => ⟨7, .half, 393216, [(512, 128), (8, 16)], 128, false⟩
  | .BUF_MISC => ⟨7, .half, 80, [], 32, false⟩
  | .BUF_Q_CNT => ⟨7, .half, 1048576, [(8704, 64), (8, 8)], 64, false⟩
  | .BUF_CNT => ⟨7, .half, 256, [(8, 8)], 64, false⟩
  | .TMG_QMAP => ⟨8, .half, 0, [(16, 16)], 128, false⟩
  | .TMG_SLICE_CFG => ⟨8, .half, 512, [(64, 4)], 32, false⟩
  | .TMG_PORT_CFG => ⟨8, .half, 4096, [(544, 4)], 32, false⟩
  | .TMG_Q_CFG => ⟨8, .half, 65536, [(8704, 4)], 32, false⟩
  | .TMG_GRP_CFG => ⟨8, .half, 131072, [(544, 16), (4, 4)], 32, false⟩
  | .TMG_PFC_STAT => ⟨8, .half, 196608, [(544, 4)], 32, false⟩
  | .TMG_Q_CNT => ⟨8, .half, 1048576, [(8704, 16), (2, 8)], 64, false⟩
  | .TMG_PORT_CNT => ⟨8, .half, 2097152, [(544, 64), (8, 8)], 64, false⟩
  | .SHP_LEN_PROF => ⟨9, .half, 0, [(16, 4)], 32, true⟩
  | .SHP_Q_CREDIT => ⟨9, .half, 327680, [(8704, 8)], 64, false⟩
  | .SHP_POL_CFG => ⟨9, .half, 1048576, [(16384, 16)], 128, false⟩
  | .SHP_POL_CNT => ⟨9, .half, 2097152, [(16384, 48), (6, 8)], 64, false⟩
  | .SHP_SLICE_CNT => ⟨9, .half, 2048, [(64, 8)], 64, false⟩
  | .TIM_CFG => ⟨10, .one, 0, [], 32, false⟩
  | .TIM_CTL => ⟨10, .one, 8, [], 32, false⟩
  | .TIM_STAT => ⟨10, .one, 16, [], 32, false⟩
  | .TIM_INC => ⟨10, .one, 24, [], 64, false⟩
  | .TIM_GUARD => ⟨10, .one, 48, [], 32, false⟩
  | .TIM_ELAPSED => ⟨10, .one, 80, [], 64, false⟩
  | .TIM_PTP_REQ => ⟨10, .one, 96, [(2, 4)], 32, false⟩
  | .TIM_TIO_CFG => ⟨10, .one, 256, [(8, 32)], 64, false⟩
  | .TIM_PORT_CFG => ⟨10, .one, 4096, [(1024, 8)], 64, false⟩
  | .TIM_CNT => ⟨10, .one, 1024, [(16, 8)], 64, false⟩
  | .GTE_PROF => ⟨11, .half, 0, [(16, 8)], 64, true⟩
  | .GTE_LT_SRC => ⟨11, .half, 144, [(2, 4)], 32, true⟩
  | .GTE_MEM => ⟨11, .half, 128, [], 32, false⟩
  | .GTE_Q_CFG => ⟨11, .half, 65536, [(8192, 4)], 32, false⟩
  | .GTE_PORT_STAT => ⟨11, .half, 131072, [(512, 8)], 64, false⟩
  | .GTE_LIST => ⟨11, .half, 196608, [(512, 32), (2, 16)], 128, false⟩
  | .GTE_ADJ_N => ⟨11, .half, 262144, [(512, 8)], 64, false⟩
  | .GTE_CNT => ⟨11, .half, 1048576, [(8192, 64), (8, 8)], 64, false⟩
  | .GTE_HALF_CNT => ⟨11, .half, 256, [(4, 8)], 64, false⟩
  | .EPC_STAT => ⟨12, .one, 0, [], 64, false⟩
  | .EPC_EPOCH => ⟨12, .one, 8, [], 64, false⟩
  | .EPC_GRID => ⟨12, .one, 64, [(2, 32)], 256, false⟩
  | .EPC_ADJ_N => ⟨12, .one, 128, [], 64, false⟩
  | .EPC_CNT => ⟨12, .one, 256, [(4, 8)], 64, false⟩
  | .TOA_CFG => ⟨13, .common, 0, [], 32, false⟩
  | .TOA_SLICE_CFG => ⟨13, .common, 256, [(64, 8)], 64, false⟩
  | .TOA_SLICE_USE => ⟨13, .common, 768, [(64, 8)], 64, false⟩
  | .TOA_UNIT_STAT => ⟨13, .unit, 0, [], 64, false⟩
  | .TOA_UNIT_CNT => ⟨13, .unit, 256, [(24, 8)], 64, false⟩
  | .TEL_CFG => ⟨14, .half, 0, [], 32, true⟩
  | .TEL_REQ => ⟨14, .half, 16, [(2, 4)], 32, true⟩
  | .TEL_SESS => ⟨14, .half, 256, [(64, 8)], 64, true⟩
  | .TEL_EXP_CFG => ⟨14, .half, 32768, [], 64, false⟩
  | .TEL_EXP_HDR => ⟨14, .half, 32776, [], 128, false⟩
  | .TEL_EXP_STAT => ⟨14, .half, 32800, [], 64, false⟩
  | .TEL_HIST_CFG => ⟨14, .half, 32832, [], 64, false⟩
  | .TEL_SNAP_STAT => ⟨14, .half, 32880, [], 64, false⟩
  | .TEL_Q_HIST => ⟨14, .half, 65536, [(8704, 4)], 32, false⟩
  | .TEL_PORT_CNT => ⟨14, .half, 131072, [(544, 64), (8, 8)], 64, false⟩
  | .TEL_SLICE_CNT => ⟨14, .half, 196608, [(64, 32), (4, 8)], 64, false⟩
  | .TEL_DROP_CNT => ⟨14, .half, 200704, [(32, 8)], 64, false⟩
  | .TEL_CNT => ⟨14, .half, 204800, [(8, 8)], 64, false⟩
  | .PMC_CFG => ⟨15, .half, 0, [(16, 32)], 64, false⟩
  | .PMC_ADDR => ⟨15, .half, 8, [(16, 32)], 64, false⟩
  | .PMC_SAMP_CFG => ⟨15, .half, 512, [], 64, false⟩
  | .PMC_SAMP_LOST => ⟨15, .half, 552, [], 64, false⟩
  | .CLV_ROUTE => ⟨16, .half, 0, [(10, 4)], 32, true⟩
  | .CLV_ENG_CTL => ⟨16, .half, 256, [(16, 4)], 32, false⟩
  | .CLV_ENG_STAT => ⟨16, .half, 512, [(16, 8)], 64, false⟩
  | .CLV_FAULT => ⟨16, .half, 768, [(16, 8)], 64, false⟩
  | .CLV_PATCH_CTL => ⟨16, .half, 1024, [], 64, true⟩
  | .CLV_PAGES => ⟨16, .half, 1032, [(2, 8)], 64, false⟩
  | .CLV_MATCH => ⟨16, .half, 4096, [(2, 256), (64, 4)], 32, false⟩
  | .CLV_CNT => ⟨16, .half, 8192, [(16, 32), (4, 8)], 64, false⟩
  | .HAM_BANK_STAT => ⟨17, .half, 0, [(128, 4)], 32, false⟩
  | .HAM_CNT => ⟨17, .half, 1024, [(4, 8)], 64, false⟩
  | .HST_FN => ⟨18, .pf0, 0, [(65, 8)], 64, false⟩
  | .HST_RX_CFG => ⟨18, .pf0, 1024, [], 32, false⟩
  | .HST_DB => ⟨18, .fn, 4096, [(64, 4)], 32, false⟩
  | .HST_RING_BASE => ⟨18, .fn, 8192, [(64, 32)], 64, false⟩
  | .HST_RING_CFG => ⟨18, .fn, 8200, [(64, 32)], 64, false⟩
  | .HST_RING_STAT => ⟨18, .fn, 8208, [(64, 32)], 64, false⟩
  | .HST_RING_WB => ⟨18, .fn, 8216, [(64, 32)], 64, false⟩
  | .HST_CNT => ⟨18, .pf0, 12288, [(8, 8)], 64, false⟩
  | .SYS_ID => ⟨1, .one, 0, [], 64, false⟩
  | .SYS_BOOT_STAT => ⟨1, .one, 16, [], 64, false⟩
  | .TRB_STAT => ⟨19, .one, 0, [], 32, false⟩
  | .TRB_ROM_VER => ⟨19, .one, 8, [], 32, false⟩
  | .TRB_SLOT => ⟨19, .one, 16, [(2, 16)], 128, false⟩
  | .TRB_CFG_SEQ => ⟨19, .one, 48, [], 64, false⟩
  | .TRB_CNT => ⟨19, .one, 512, [(8, 8)], 64, false⟩
  | .SYS_MODE => ⟨1, .one, 32, [], 32, false⟩
  | .RAS_OWN_CFG => ⟨22, .half, 0, [], 32, true⟩
  | .RAS_OWN_STAT => ⟨22, .half, 8, [], 64, false⟩
  | .RAS_OWN_CLAIM => ⟨22, .half, 16, [], 64, false⟩
  | .RAS_LINK_CFG => ⟨22, .half, 32, [], 32, true⟩
  | .RAS_LINK_STAT => ⟨22, .half, 40, [], 64, false⟩
  | .RAS_ECC_CFG => ⟨22, .half, 64, [], 64, true⟩
  | .RAS_SPARE => ⟨22, .half, 128, [(5, 8)], 64, false⟩
  | .RAS_RETIRE_STAT => ⟨22, .half, 192, [], 64, false⟩
  | .RAS_XRST => ⟨22, .half, 256, [], 32, false⟩
  | .RAS_XSTAT => ⟨22, .half, 264, [], 32, false⟩
  | .RAS_CNT => ⟨22, .half, 768, [(16, 8)], 64, false⟩
  | .LAN_CFG => ⟨20, .tile, 20480, [], 32, false⟩
  | .LAN_EQ_ID => ⟨20, .tile, 20488, [], 32, false⟩
  | .LAN_LANE_STAT => ⟨20, .tile, 0, [(128, 8)], 64, false⟩
  | .LAN_PORT_STAT => ⟨20, .tile, 12288, [(128, 8)], 64, false⟩
  | .LAN_PRBS_CNT => ⟨20, .tile, 16384, [(128, 8)], 64, false⟩
  | .LAN_PORT_CNT => ⟨20, .tile, 65536, [(128, 256), (32, 8)], 64, false⟩
  | .GLB_CFG => ⟨21, .glb, 0, [], 32, false⟩
  | .GLB_LINK_STAT => ⟨21, .glb, 256, [(128, 8)], 64, false⟩
  | .GLB_CNT => ⟨21, .glb, 4096, [(128, 32), (4, 8)], 64, false⟩
  | .SYS_STRAP => ⟨1, .one, 48, [], 32, false⟩
  | .SYS_THERM => ⟨1, .one, 64, [], 64, false⟩
  | .SYS_SUPPLY => ⟨1, .one, 72, [], 32, false⟩
  | .SYS_AVS => ⟨1, .one, 80, [(2, 8)], 64, false⟩
  | .TIM_STEP_LO => ⟨10, .one, 32, [], 64, false⟩
  | .TIM_STEP_HI => ⟨10, .one, 40, [], 64, false⟩
  | .TIM_NOW_LO => ⟨10, .one, 64, [], 64, false⟩
  | .TIM_NOW_HI => ⟨10, .one, 72, [], 64, false⟩
  | .TIM_TXTS_W0 => ⟨10, .one, 128, [(2, 16)], 64, false⟩
  | .TIM_TXTS_W1 => ⟨10, .one, 136, [(2, 16)], 64, false⟩
  | .TIM_TIO_OUT => ⟨10, .one, 264, [(8, 32)], 64, false⟩
  | .TIM_TIO_START => ⟨10, .one, 272, [(8, 32)], 64, false⟩
  | .TIM_TIO_CAP_LO => ⟨10, .one, 512, [(8, 16)], 64, false⟩
  | .TIM_TIO_CAP_HI => ⟨10, .one, 520, [(8, 16)], 64, false⟩
  | .PMC_SAMP_W0 => ⟨15, .half, 528, [], 64, false⟩
  | .PMC_SAMP_W1 => ⟨15, .half, 536, [], 64, false⟩
  | .RAS_ERR_W0 => ⟨22, .half, 512, [], 64, false⟩
  | .RAS_ERR_W1 => ⟨22, .half, 520, [], 64, false⟩
  | .PAR_VLAN_MAP => ⟨3, .common, 4096, [(1024, 4)], 32, false⟩
  | .BUF_PG_REMOTE => ⟨7, .half, 524288, [(512, 32), (8, 4)], 32, false⟩
  | .BUF_WRED => ⟨7, .half, 196608, [(32, 32), (3, 8)], 64, false⟩
  | .BUF_WRED_W => ⟨7, .half, 196632, [(32, 32)], 64, false⟩
  | .PMC_CNT => ⟨15, .half, 16, [(16, 32)], 64, false⟩
  | .PMC_THRESH => ⟨15, .half, 24, [(16, 32)], 64, false⟩
  | .TRB_VENDOR_DIGEST => ⟨19, .one, 256, [], 384, false⟩
  | .TRB_OWNER_DIGEST => ⟨19, .one, 320, [], 384, false⟩
  | .TEL_HIST_BIN => ⟨14, .half, 4194304, [(2, 1048576), (1024, 1024), (64, 8)], 64, false⟩
  | .TEL_HIST_SUM => ⟨14, .half, 4194816, [(2, 1048576), (1024, 1024)], 64, false⟩
  | .TEL_HIST_MAX => ⟨14, .half, 4194824, [(2, 1048576), (1024, 1024)], 64, false⟩
  | .TEL_SNAP_CFG => ⟨14, .half, 32864, [], 64, false⟩
  | .TEL_SNAP_ADDR => ⟨14, .half, 32872, [], 64, false⟩
  | .LAN_LANE_EQ => ⟨20, .tile, 4096, [(128, 64), (3, 16)], 128, false⟩
  | .SHP_S_SHP => ⟨9, .half, 1024, [(64, 8)], 64, false⟩
  | .SHP_Q_SHP => ⟨9, .half, 65536, [(8704, 8)], 64, false⟩
  | .SHP_G_SHP => ⟨9, .half, 196608, [(544, 32), (4, 8)], 64, false⟩
  | .SHP_P_SHP => ⟨9, .half, 262144, [(544, 8)], 64, false⟩

/-- A field: lowest bit, width, access code and the reset value of its table. -/
structure FldInfo where
  reg : Reg
  lo : Nat
  w : Nat
  acc : Acc
  rst : Nat
deriving DecidableEq, Repr

/-- The place of a field. A reset value that the table gives by reference is 0 here and stands in Fld.reset. -/
def Fld.info : Fld → FldInfo
  | .PAR_ARB_CFG_recirc_weight => ⟨.PAR_ARB_CFG, 0, 8, .RW, 4⟩
  | .PAR_ARB_CFG_intport_weight => ⟨.PAR_ARB_CFG, 8, 8, .RW, 4⟩
  | .PAR_RECIRC_LIMIT_count => ⟨.PAR_RECIRC_LIMIT, 0, 64, .RC, 0⟩
  | .PAR_PORT_CFG_profile => ⟨.PAR_PORT_CFG, 0, 4, .RW, 0⟩
  | .PAR_PORT_CFG_slice_mode => ⟨.PAR_PORT_CFG, 4, 2, .RW, 0⟩
  | .PAR_PORT_CFG_def_slice => ⟨.PAR_PORT_CFG, 6, 6, .RW, 0⟩
  | .PAR_PORT_CFG_def_pcp => ⟨.PAR_PORT_CFG, 12, 3, .RW, 0⟩
  | .PAR_PROFILE_act_trunc => ⟨.PAR_PROFILE, 0, 2, .RW, 0⟩
  | .PAR_PROFILE_act_len => ⟨.PAR_PROFILE, 2, 2, .RW, 1⟩
  | .PAR_PROFILE_act_short => ⟨.PAR_PROFILE, 4, 2, .RW, 1⟩
  | .PAR_PROFILE_act_nomatch => ⟨.PAR_PROFILE, 6, 2, .RW, 1⟩
  | .PAR_PROFILE_depth_limit => ⟨.PAR_PROFILE, 8, 10, .RW, 512⟩
  | .PAR_PROFILE_hdr_limit => ⟨.PAR_PROFILE, 18, 5, .RW, 16⟩
  | .PAR_PROFILE_trap_port => ⟨.PAR_PROFILE, 23, 4, .RW, 0⟩
  | .PAR_PROFILE_trap_tc => ⟨.PAR_PROFILE, 27, 3, .RW, 6⟩
  | .PAR_PROFILE_nm_port => ⟨.PAR_PROFILE, 30, 11, .RW, 0⟩
  | .PAR_EVT_CNT_v => ⟨.PAR_EVT_CNT, 0, 64, .RC, 0⟩
  | .PAR_HASH_SEED_seed => ⟨.PAR_HASH_SEED, 0, 32, .RW, 0⟩
  | .PAR_HASH_SEL_l3_addr => ⟨.PAR_HASH_SEL, 0, 1, .RW, 1⟩
  | .PAR_HASH_SEL_l3_proto => ⟨.PAR_HASH_SEL, 1, 1, .RW, 1⟩
  | .PAR_HASH_SEL_l4_ports => ⟨.PAR_HASH_SEL, 2, 1, .RW, 1⟩
  | .PAR_HASH_SEL_flow_label => ⟨.PAR_HASH_SEL, 3, 1, .RW, 0⟩
  | .PAR_HASH_SEL_mac => ⟨.PAR_HASH_SEL, 4, 1, .RW, 0⟩
  | .PAR_HASH_SEL_ethertype => ⟨.PAR_HASH_SEL, 5, 1, .RW, 0⟩
  | .PAR_HASH_SEL_vid => ⟨.PAR_HASH_SEL, 6, 1, .RW, 0⟩
  | .PAR_HASH_SEL_vni => ⟨.PAR_HASH_SEL, 7, 1, .RW, 0⟩
  | .PAR_HASH_SEL_level => ⟨.PAR_HASH_SEL, 8, 2, .RW, 0⟩
  | .MAT_RANGE_low => ⟨.MAT_RANGE, 0, 16, .RO, 0⟩
  | .MAT_RANGE_high => ⟨.MAT_RANGE, 16, 16, .RO, 0⟩
  | .MAT_RANGE_ctr => ⟨.MAT_RANGE, 32, 7, .RO, 0⟩
  | .MAT_RANGE_point => ⟨.MAT_RANGE, 39, 1, .RO, 0⟩
  | .MAT_RANGE_en => ⟨.MAT_RANGE, 40, 1, .RO, 0⟩
  | .SLC_QUOTA_em_quota => ⟨.SLC_QUOTA, 0, 18, .RW, 0⟩
  | .SLC_QUOTA_tcam_quota => ⟨.SLC_QUOTA, 18, 17, .RW, 0⟩
  | .SLC_USAGE_em_used => ⟨.SLC_USAGE, 0, 18, .RO, 0⟩
  | .SLC_USAGE_tcam_used => ⟨.SLC_USAGE, 18, 17, .RO, 0⟩
  | .SLC_USAGE_log_used => ⟨.SLC_USAGE, 35, 17, .RO, 0⟩
  | .SLC_GEN_cur_gen => ⟨.SLC_GEN, 0, 16, .RO, 0⟩
  | .SLC_GEN_oldest_live => ⟨.SLC_GEN, 16, 16, .RO, 0⟩
  | .SLC_GEN_retiring => ⟨.SLC_GEN, 32, 1, .RO, 0⟩
  | .SLC_GEN_evt_retired => ⟨.SLC_GEN, 33, 1, .RW, 0⟩
  | .SLC_GEN_committed => ⟨.SLC_GEN, 34, 1, .RO, 0⟩
  | .SLC_REFCNT_count => ⟨.SLC_REFCNT, 0, 24, .RO, 0⟩
  | .SLC_CNT_v => ⟨.SLC_CNT, 0, 64, .RC, 0⟩
  | .MAT_PROG_CTL_active => ⟨.MAT_PROG_CTL, 0, 1, .RO, 0⟩
  | .MAT_PROG_CTL_state => ⟨.MAT_PROG_CTL, 1, 2, .RO, 0⟩
  | .MAT_PROG_CTL_a_loaded => ⟨.MAT_PROG_CTL, 3, 1, .RO, 0⟩
  | .MAT_PROG_CTL_b_loaded => ⟨.MAT_PROG_CTL, 4, 1, .RO, 0⟩
  | .MAT_PROG_CTL_drain_limit => ⟨.MAT_PROG_CTL, 5, 10, .RW, 100⟩
  | .MAT_PROG_CTL_old_count => ⟨.MAT_PROG_CTL, 15, 24, .RO, 0⟩
  | .MAT_PROG_DIGEST_v => ⟨.MAT_PROG_DIGEST, 0, 384, .RO, 0⟩
  | .MAT_DRAIN_CNT_v => ⟨.MAT_DRAIN_CNT, 0, 64, .RC, 0⟩
  | .FDB_SEED_seed => ⟨.FDB_SEED, 0, 32, .RW, 0⟩
  | .FDB_SEED_rejected => ⟨.FDB_SEED, 32, 1, .W1C, 0⟩
  | .FDB_AGE_CFG_tick => ⟨.FDB_AGE_CFG, 0, 16, .RW, 1000⟩
  | .FDB_AGE_CFG_sweep => ⟨.FDB_AGE_CFG, 16, 15, .RW, 10⟩
  | .FDB_AGE_CFG_age_run => ⟨.FDB_AGE_CFG, 31, 1, .RW, 1⟩
  | .FDB_AGE_CFG_lf_life => ⟨.FDB_AGE_CFG, 32, 8, .RW, 2⟩
  | .FDB_LEARN_CFG_move_limit => ⟨.FDB_LEARN_CFG, 0, 8, .RW, 8⟩
  | .FDB_LEARN_CFG_learn_run => ⟨.FDB_LEARN_CFG, 8, 1, .RW, 1⟩
  | .FDB_LOCK_CFG_lease_us => ⟨.FDB_LOCK_CFG, 0, 16, .RW, 1000⟩
  | .FDB_LOCK_CFG_read_retry => ⟨.FDB_LOCK_CFG, 16, 16, .RW, 1280⟩
  | .FDB_REQ_en => ⟨.FDB_REQ, 0, 1, .RW, 0⟩
  | .FDB_REQ_issue_stage => ⟨.FDB_REQ, 1, 4, .RW, 6⟩
  | .FDB_REQ_kb_lookup => ⟨.FDB_REQ, 5, 2, .RW, 0⟩
  | .FDB_REQ_kb_learn => ⟨.FDB_REQ, 7, 2, .RW, 1⟩
  | .FDB_REQ_learn_en => ⟨.FDB_REQ, 9, 1, .RW, 0⟩
  | .FDB_REQ_res_ctr16 => ⟨.FDB_REQ, 10, 7, .RW, 0⟩
  | .FDB_REQ_res_ctr32 => ⟨.FDB_REQ, 17, 6, .RW, 0⟩
  | .FDB_REQ_wr_ignored => ⟨.FDB_REQ, 23, 1, .W1C, 0⟩
  | .FDB_SLICE_CFG_quota => ⟨.FDB_SLICE_CFG, 0, 23, .RW, 0⟩
  | .FDB_SLICE_CFG_age_limit => ⟨.FDB_SLICE_CFG, 23, 15, .RW, 300⟩
  | .FDB_SLICE_CFG_learn_en => ⟨.FDB_SLICE_CFG, 38, 1, .RW, 0⟩
  | .FDB_SLICE_CFG_age_en => ⟨.FDB_SLICE_CFG, 39, 1, .RW, 1⟩
  | .FDB_SLICE_USE_used => ⟨.FDB_SLICE_USE, 0, 23, .RO, 0⟩
  | .FDB_OCC_bucket_used => ⟨.FDB_OCC, 0, 23, .RO, 0⟩
  | .FDB_OCC_ovf_used => ⟨.FDB_OCC, 23, 15, .RO, 0⟩
  | .FDB_PORT_CFG_learn_en => ⟨.FDB_PORT_CFG, 0, 1, .RW, 1⟩
  | .FDB_PORT_CFG_flush_on_down => ⟨.FDB_PORT_CFG, 1, 1, .RW, 1⟩
  | .FDB_STAT_host_locks => ⟨.FDB_STAT, 0, 9, .RO, 0⟩
  | .FDB_STAT_lq_depth => ⟨.FDB_STAT, 9, 13, .RO, 0⟩
  | .FDB_STAT_defer_depth => ⟨.FDB_STAT, 22, 9, .RO, 0⟩
  | .FDB_STAT_resync => ⟨.FDB_STAT, 31, 1, .RO, 0⟩
  | .FDB_CNT_v => ⟨.FDB_CNT, 0, 64, .RC, 0⟩
  | .BUF_PART_size => ⟨.BUF_PART, 0, 20, .RO, 0⟩
  | .BUF_PART_use => ⟨.BUF_PART, 20, 20, .RO, 0⟩
  | .BUF_FREE_phys_free => ⟨.BUF_FREE, 0, 20, .RO, 786431⟩
  | .BUF_FREE_desc_free => ⟨.BUF_FREE, 20, 20, .RO, 786432⟩
  | .BUF_ECN_CFG_ip4_type => ⟨.BUF_ECN_CFG, 0, 6, .RW, 63⟩
  | .BUF_ECN_CFG_ip6_type => ⟨.BUF_ECN_CFG, 6, 6, .RW, 63⟩
  | .BUF_IPOOL_size => ⟨.BUF_IPOOL, 0, 20, .RW, 0⟩
  | .BUF_IPOOL_use => ⟨.BUF_IPOOL, 20, 20, .RO, 0⟩
  | .BUF_Q_CFG_pool => ⟨.BUF_Q_CFG, 0, 3, .RW, 0⟩
  | .BUF_Q_CFG_alpha => ⟨.BUF_Q_CFG, 3, 4, .RW, 7⟩
  | .BUF_Q_CFG_lossless => ⟨.BUF_Q_CFG, 7, 1, .RW, 0⟩
  | .BUF_Q_CFG_q_min => ⟨.BUF_Q_CFG, 8, 16, .RW, 0⟩
  | .BUF_Q_CFG_q_max => ⟨.BUF_Q_CFG, 24, 20, .RW, 1048575⟩
  | .BUF_Q_CFG_wred_prof => ⟨.BUF_Q_CFG, 44, 5, .RW, 0⟩
  | .BUF_Q_CFG_wred_en => ⟨.BUF_Q_CFG, 49, 1, .RW, 0⟩
  | .BUF_Q_CFG_ecn_en => ⟨.BUF_Q_CFG, 50, 1, .RW, 0⟩
  | .BUF_Q_CFG_ecn_th => ⟨.BUF_Q_CFG, 51, 12, .RW, 0⟩
  | .BUF_Q_STAT_q_rsv => ⟨.BUF_Q_STAT, 0, 16, .RO, 0⟩
  | .BUF_Q_STAT_q_shr => ⟨.BUF_Q_STAT, 16, 20, .RO, 0⟩
  | .BUF_Q_STAT_peak => ⟨.BUF_Q_STAT, 36, 20, .RC, 0⟩
  | .BUF_PORT_CFG_debounce_us => ⟨.BUF_PORT_CFG, 0, 16, .RW, 0⟩
  | .BUF_PORT_CFG_pg_map => ⟨.BUF_PORT_CFG, 16, 24, .RW, 0⟩
  | .BUF_PORT_CFG_pfc_quanta => ⟨.BUF_PORT_CFG, 40, 16, .RW, 65535⟩
  | .BUF_PORT_CFG_pfc_refresh => ⟨.BUF_PORT_CFG, 56, 8, .RW, 128⟩
  | .BUF_PORT_STAT_state => ⟨.BUF_PORT_STAT, 0, 2, .RO, 0⟩
  | .BUF_PORT_STAT_up_seen => ⟨.BUF_PORT_STAT, 2, 1, .RO, 0⟩
  | .BUF_PORT_STAT_relaunch => ⟨.BUF_PORT_STAT, 3, 1, .RO, 0⟩
  | .BUF_PORT_STAT_xoff => ⟨.BUF_PORT_STAT, 4, 8, .RO, 0⟩
  | .BUF_PG_CFG_lossless => ⟨.BUF_PG_CFG, 0, 1, .RW, 0⟩
  | .BUF_PG_CFG_ipool => ⟨.BUF_PG_CFG, 1, 2, .RW, 0⟩
  | .BUF_PG_CFG_alpha_in => ⟨.BUF_PG_CFG, 3, 4, .RW, 7⟩
  | .BUF_PG_CFG_pg_min => ⟨.BUF_PG_CFG, 7, 16, .RW, 0⟩
  | .BUF_PG_CFG_xoff_static => ⟨.BUF_PG_CFG, 23, 20, .RW, 16384⟩
  | .BUF_PG_CFG_xon_offset => ⟨.BUF_PG_CFG, 43, 16, .RW, 256⟩
  | .BUF_PG_CFG_hdrm_max => ⟨.BUF_PG_CFG, 59, 20, .RW, 0⟩
  | .BUF_PG_CFG_pg_use => ⟨.BUF_PG_CFG, 79, 20, .RO, 0⟩
  | .BUF_PG_CFG_pg_hdrm => ⟨.BUF_PG_CFG, 99, 20, .RO, 0⟩
  | .BUF_MISC_storm_ms => ⟨.BUF_MISC, 0, 16, .RW, 0⟩
  | .BUF_Q_CNT_v => ⟨.BUF_Q_CNT, 0, 64, .RC, 0⟩
  | .BUF_CNT_v => ⟨.BUF_CNT, 0, 64, .RC, 0⟩
  | .TMG_QMAP_queue => ⟨.TMG_QMAP, 0, 128, .RW, 157286071863488798684961284326620934672⟩
  | .TMG_SLICE_CFG_qclass => ⟨.TMG_SLICE_CFG, 0, 2, .RW, 0⟩
  | .TMG_PORT_CFG_qmap_prof => ⟨.TMG_PORT_CFG, 0, 4, .RW, 0⟩
  | .TMG_PORT_CFG_rel_limit => ⟨.TMG_PORT_CFG, 4, 8, .RW, 64⟩
  | .TMG_PORT_CFG_q_unit => ⟨.TMG_PORT_CFG, 12, 4, .RW, 4⟩
  | .TMG_PORT_CFG_pfc_rx_en => ⟨.TMG_PORT_CFG, 16, 1, .RW, 1⟩
  | .TMG_Q_CFG_group => ⟨.TMG_Q_CFG, 0, 2, .RW, 0⟩
  | .TMG_Q_CFG_prio => ⟨.TMG_Q_CFG, 2, 3, .RW, 0⟩
  | .TMG_Q_CFG_weight => ⟨.TMG_Q_CFG, 5, 8, .RW, 1⟩
  | .TMG_Q_CFG_len_prof => ⟨.TMG_Q_CFG, 13, 4, .RW, 0⟩
  | .TMG_Q_CFG_pfc_prio => ⟨.TMG_Q_CFG, 17, 3, .RW, 0⟩
  | .TMG_Q_CFG_pfc_en => ⟨.TMG_Q_CFG, 20, 1, .RW, 0⟩
  | .TMG_GRP_CFG_prio => ⟨.TMG_GRP_CFG, 0, 3, .RW, 0⟩
  | .TMG_GRP_CFG_weight => ⟨.TMG_GRP_CFG, 3, 8, .RW, 1⟩
  | .TMG_GRP_CFG_slice_shp => ⟨.TMG_GRP_CFG, 11, 7, .RW, 127⟩
  | .TMG_PFC_STAT_paused => ⟨.TMG_PFC_STAT, 0, 8, .RO, 0⟩
  | .TMG_Q_CNT_v => ⟨.TMG_Q_CNT, 0, 64, .RC, 0⟩
  | .TMG_PORT_CNT_v => ⟨.TMG_PORT_CNT, 0, 64, .RC, 0⟩
  | .SHP_LEN_PROF_overhead => ⟨.SHP_LEN_PROF, 0, 7, .RW, 20⟩
  | .SHP_Q_CREDIT_credit => ⟨.SHP_Q_CREDIT, 0, 40, .RO, 0⟩
  | .SHP_POL_CFG_cir_inc => ⟨.SHP_POL_CFG, 0, 28, .RO, 0⟩
  | .SHP_POL_CFG_pir_inc => ⟨.SHP_POL_CFG, 28, 28, .RO, 0⟩
  | .SHP_POL_CFG_cbs => ⟨.SHP_POL_CFG, 56, 24, .RO, 0⟩
  | .SHP_POL_CFG_pbs => ⟨.SHP_POL_CFG, 80, 24, .RO, 0⟩
  | .SHP_POL_CFG_aware => ⟨.SHP_POL_CFG, 104, 1, .RO, 0⟩
  | .SHP_POL_CFG_red_drop => ⟨.SHP_POL_CFG, 105, 1, .RO, 0⟩
  | .SHP_POL_CFG_en => ⟨.SHP_POL_CFG, 106, 1, .RO, 0⟩
  | .SHP_POL_CFG_owner => ⟨.SHP_POL_CFG, 107, 6, .RO, 0⟩
  | .SHP_POL_CNT_v => ⟨.SHP_POL_CNT, 0, 64, .RC, 0⟩
  | .SHP_SLICE_CNT_v => ⟨.SHP_SLICE_CNT, 0, 64, .RC, 0⟩
  | .TIM_CFG_ref_src => ⟨.TIM_CFG, 0, 2, .RW, 2⟩
  | .TIM_CFG_hold_en => ⟨.TIM_CFG, 2, 1, .RW, 1⟩
  | .TIM_CFG_guard_en => ⟨.TIM_CFG, 3, 1, .RW, 0⟩
  | .TIM_CFG_wd_ms => ⟨.TIM_CFG, 4, 16, .RW, 0⟩
  | .TIM_CTL_step_go => ⟨.TIM_CTL, 0, 1, .WO, 0⟩
  | .TIM_CTL_gm_set => ⟨.TIM_CTL, 1, 1, .WO, 0⟩
  | .TIM_STAT_holdover => ⟨.TIM_STAT, 0, 1, .W1C, 0⟩
  | .TIM_STAT_step_pend => ⟨.TIM_STAT, 1, 1, .RO, 0⟩
  | .TIM_STAT_step_refused => ⟨.TIM_STAT, 2, 1, .W1C, 0⟩
  | .TIM_STAT_step_busy => ⟨.TIM_STAT, 3, 1, .W1C, 0⟩
  | .TIM_STAT_inc_refused => ⟨.TIM_STAT, 4, 1, .W1C, 0⟩
  | .TIM_STAT_inc_range => ⟨.TIM_STAT, 5, 1, .W1C, 0⟩
  | .TIM_STAT_lockstep_lost => ⟨.TIM_STAT, 6, 1, .RO, 0⟩
  | .TIM_STAT_txts_ovf_e => ⟨.TIM_STAT, 7, 1, .W1C, 0⟩
  | .TIM_STAT_txts_ovf_w => ⟨.TIM_STAT, 8, 1, .W1C, 0⟩
  | .TIM_STAT_ref_lost => ⟨.TIM_STAT, 9, 1, .RO, 0⟩
  | .TIM_STAT_pll_lock => ⟨.TIM_STAT, 10, 1, .RO, 0⟩
  | .TIM_INC_inc => ⟨.TIM_INC, 0, 40, .RW, 4294967296⟩
  | .TIM_GUARD_guard_ns => ⟨.TIM_GUARD, 0, 32, .RW, 1000⟩
  | .TIM_ELAPSED_ticks => ⟨.TIM_ELAPSED, 0, 64, .RO, 0⟩
  | .TIM_PTP_REQ_en => ⟨.TIM_PTP_REQ, 0, 1, .RW, 0⟩
  | .TIM_PTP_REQ_ctr => ⟨.TIM_PTP_REQ, 1, 6, .RW, 0⟩
  | .TIM_PTP_REQ_udp_type => ⟨.TIM_PTP_REQ, 7, 6, .RW, 63⟩
  | .TIM_PTP_REQ_wr_ignored => ⟨.TIM_PTP_REQ, 13, 1, .W1C, 0⟩
  | .TIM_TIO_CFG_mode => ⟨.TIM_TIO_CFG, 0, 2, .RW, 0⟩
  | .TIM_TIO_CFG_edge => ⟨.TIM_TIO_CFG, 2, 2, .RW, 1⟩
  | .TIM_TIO_CFG_cfg_err => ⟨.TIM_TIO_CFG, 4, 1, .RO, 0⟩
  | .TIM_TIO_CFG_period => ⟨.TIM_TIO_CFG, 32, 32, .RW, 1000000000⟩
  | .TIM_PORT_CFG_rx_adj => ⟨.TIM_PORT_CFG, 0, 16, .RW, 0⟩
  | .TIM_PORT_CFG_tx_adj => ⟨.TIM_PORT_CFG, 16, 16, .RW, 0⟩
  | .TIM_PORT_CFG_p2p_delay => ⟨.TIM_PORT_CFG, 32, 32, .RW, 0⟩
  | .TIM_CNT_v => ⟨.TIM_CNT, 0, 64, .RC, 0⟩
  | .GTE_PROF_over_act => ⟨.GTE_PROF, 0, 1, .RW, 0⟩
  | .GTE_PROF_late_act => ⟨.GTE_PROF, 1, 1, .RW, 0⟩
  | .GTE_PROF_lt_tol => ⟨.GTE_PROF, 2, 24, .RW, 1000⟩
  | .GTE_PROF_lt_max => ⟨.GTE_PROF, 26, 16, .RW, 0⟩
  | .GTE_PROF_trap_port => ⟨.GTE_PROF, 42, 3, .RW, 0⟩
  | .GTE_PROF_trap_tc => ⟨.GTE_PROF, 45, 3, .RW, 6⟩
  | .GTE_PROF_trap_reason => ⟨.GTE_PROF, 48, 8, .RW, 16⟩
  | .GTE_PROF_left_trap => ⟨.GTE_PROF, 56, 1, .RW, 0⟩
  | .GTE_PROF_left_samp => ⟨.GTE_PROF, 57, 4, .RW, 0⟩
  | .GTE_LT_SRC_en => ⟨.GTE_LT_SRC, 0, 1, .RW, 0⟩
  | .GTE_LT_SRC_word => ⟨.GTE_LT_SRC, 1, 2, .RW, 0⟩
  | .GTE_LT_SRC_wr_ignored => ⟨.GTE_LT_SRC, 3, 1, .W1C, 0⟩
  | .GTE_MEM_free => ⟨.GTE_MEM, 0, 17, .RO, 65536⟩
  | .GTE_Q_CFG_prof => ⟨.GTE_Q_CFG, 0, 4, .RW, 0⟩
  | .GTE_Q_CFG_lt_en => ⟨.GTE_Q_CFG, 4, 1, .RW, 0⟩
  | .GTE_Q_CFG_ep_en => ⟨.GTE_Q_CFG, 5, 1, .RW, 0⟩
  | .GTE_PORT_STAT_gl_state => ⟨.GTE_PORT_STAT, 0, 2, .RO, 0⟩
  | .GTE_PORT_STAT_timed => ⟨.GTE_PORT_STAT, 2, 1, .RO, 0⟩
  | .GTE_PORT_STAT_entry => ⟨.GTE_PORT_STAT, 3, 10, .RO, 0⟩
  | .GTE_PORT_STAT_gates => ⟨.GTE_PORT_STAT, 13, 16, .RO, 65535⟩
  | .GTE_PORT_STAT_adjusted => ⟨.GTE_PORT_STAT, 29, 1, .RO, 0⟩
  | .GTE_LIST_start_sec => ⟨.GTE_LIST, 0, 64, .RO, 0⟩
  | .GTE_LIST_start_ns => ⟨.GTE_LIST, 64, 30, .RO, 0⟩
  | .GTE_LIST_cycle_ns => ⟨.GTE_LIST, 96, 32, .RO, 0⟩
  | .GTE_ADJ_N_v => ⟨.GTE_ADJ_N, 0, 64, .RO, 0⟩
  | .GTE_CNT_v => ⟨.GTE_CNT, 0, 64, .RC, 0⟩
  | .GTE_HALF_CNT_v => ⟨.GTE_HALF_CNT, 0, 64, .RC, 0⟩
  | .EPC_STAT_state => ⟨.EPC_STAT, 0, 3, .RO, 0⟩
  | .EPC_STAT_slot => ⟨.EPC_STAT, 3, 10, .RO, 0⟩
  | .EPC_STAT_adjusted => ⟨.EPC_STAT, 13, 1, .RO, 0⟩
  | .EPC_EPOCH_v => ⟨.EPC_EPOCH, 0, 64, .RO, 0⟩
  | .EPC_GRID_start => ⟨.EPC_GRID, 0, 96, .RO, 0⟩
  | .EPC_GRID_ep_len => ⟨.EPC_GRID, 96, 27, .RO, 0⟩
  | .EPC_GRID_slots => ⟨.EPC_GRID, 128, 11, .RO, 0⟩
  | .EPC_GRID_open_guard => ⟨.EPC_GRID, 144, 16, .RO, 0⟩
  | .EPC_GRID_close_guard => ⟨.EPC_GRID, 160, 16, .RO, 0⟩
  | .EPC_ADJ_N_v => ⟨.EPC_ADJ_N, 0, 64, .RO, 0⟩
  | .EPC_CNT_v => ⟨.EPC_CNT, 0, 64, .RC, 0⟩
  | .TOA_CFG_udp_port => ⟨.TOA_CFG, 0, 16, .RW, 10768⟩
  | .TOA_CFG_en => ⟨.TOA_CFG, 16, 1, .RW, 0⟩
  | .TOA_CFG_csum_chk => ⟨.TOA_CFG, 17, 1, .RW, 1⟩
  | .TOA_SLICE_CFG_max_groups => ⟨.TOA_SLICE_CFG, 0, 13, .RW, 0⟩
  | .TOA_SLICE_CFG_max_granules => ⟨.TOA_SLICE_CFG, 13, 16, .RW, 0⟩
  | .TOA_SLICE_CFG_max_members => ⟨.TOA_SLICE_CFG, 29, 19, .RW, 0⟩
  | .TOA_SLICE_USE_groups => ⟨.TOA_SLICE_USE, 0, 13, .RO, 0⟩
  | .TOA_SLICE_USE_granules => ⟨.TOA_SLICE_USE, 13, 16, .RO, 0⟩
  | .TOA_SLICE_USE_members => ⟨.TOA_SLICE_USE, 29, 19, .RO, 0⟩
  | .TOA_UNIT_STAT_gran_free => ⟨.TOA_UNIT_STAT, 0, 11, .RO, 1024⟩
  | .TOA_UNIT_STAT_blocks => ⟨.TOA_UNIT_STAT, 11, 11, .RO, 0⟩
  | .TOA_UNIT_STAT_mem_free => ⟨.TOA_UNIT_STAT, 22, 14, .RO, 8192⟩
  | .TOA_UNIT_STAT_groups => ⟨.TOA_UNIT_STAT, 36, 13, .RO, 0⟩
  | .TOA_UNIT_STAT_bp => ⟨.TOA_UNIT_STAT, 49, 1, .RO, 0⟩
  | .TOA_UNIT_CNT_v => ⟨.TOA_UNIT_CNT, 0, 64, .RC, 0⟩
  | .TEL_CFG_dev_id => ⟨.TEL_CFG, 0, 16, .RW, 0⟩
  | .TEL_CFG_tel_type => ⟨.TEL_CFG, 16, 6, .RW, 63⟩
  | .TEL_CFG_drop_sess => ⟨.TEL_CFG, 22, 6, .RW, 0⟩
  | .TEL_CFG_drop_en => ⟨.TEL_CFG, 28, 1, .RW, 0⟩
  | .TEL_REQ_en => ⟨.TEL_REQ, 0, 1, .RW, 0⟩
  | .TEL_REQ_ctr => ⟨.TEL_REQ, 1, 6, .RW, 0⟩
  | .TEL_REQ_wr_ignored => ⟨.TEL_REQ, 7, 1, .W1C, 0⟩
  | .TEL_SESS_dest => ⟨.TEL_SESS, 0, 11, .RW, 0⟩
  | .TEL_SESS_tc => ⟨.TEL_SESS, 11, 3, .RW, 0⟩
  | .TEL_SESS_trunc => ⟨.TEL_SESS, 14, 6, .RW, 0⟩
  | .TEL_SESS_samp => ⟨.TEL_SESS, 20, 2, .RW, 0⟩
  | .TEL_SESS_rate => ⟨.TEL_SESS, 22, 16, .RW, 1⟩
  | .TEL_EXP_CFG_target => ⟨.TEL_EXP_CFG, 0, 1, .RW, 0⟩
  | .TEL_EXP_CFG_exp_port => ⟨.TEL_EXP_CFG, 1, 3, .RW, 0⟩
  | .TEL_EXP_CFG_exp_tc => ⟨.TEL_EXP_CFG, 4, 3, .RW, 0⟩
  | .TEL_EXP_CFG_batch => ⟨.TEL_EXP_CFG, 7, 6, .RW, 32⟩
  | .TEL_EXP_CFG_flush_us => ⟨.TEL_EXP_CFG, 13, 16, .RW, 10⟩
  | .TEL_EXP_HDR_exp_dmac => ⟨.TEL_EXP_HDR, 0, 48, .RW, 0⟩
  | .TEL_EXP_HDR_exp_smac => ⟨.TEL_EXP_HDR, 48, 48, .RW, 0⟩
  | .TEL_EXP_HDR_exp_etype => ⟨.TEL_EXP_HDR, 96, 16, .RW, 0⟩
  | .TEL_EXP_STAT_fifo => ⟨.TEL_EXP_STAT, 0, 13, .RO, 0⟩
  | .TEL_EXP_STAT_seq => ⟨.TEL_EXP_STAT, 13, 32, .RO, 0⟩
  | .TEL_HIST_CFG_unit_shift => ⟨.TEL_HIST_CFG, 0, 4, .RW, 3⟩
  | .TEL_HIST_CFG_win_us => ⟨.TEL_HIST_CFG, 4, 24, .RW, 1000000⟩
  | .TEL_HIST_CFG_hist_ack => ⟨.TEL_HIST_CFG, 28, 1, .WO, 0⟩
  | .TEL_HIST_CFG_closed => ⟨.TEL_HIST_CFG, 29, 1, .RO, 0⟩
  | .TEL_HIST_CFG_merged => ⟨.TEL_HIST_CFG, 30, 1, .W1C, 0⟩
  | .TEL_SNAP_STAT_busy => ⟨.TEL_SNAP_STAT, 0, 1, .RO, 0⟩
  | .TEL_SNAP_STAT_snap_ovr => ⟨.TEL_SNAP_STAT, 1, 1, .W1C, 0⟩
  | .TEL_SNAP_STAT_seq => ⟨.TEL_SNAP_STAT, 2, 62, .RO, 0⟩
  | .TEL_Q_HIST_hist => ⟨.TEL_Q_HIST, 0, 10, .RW, 0⟩
  | .TEL_Q_HIST_hist_en => ⟨.TEL_Q_HIST, 10, 1, .RW, 0⟩
  | .TEL_PORT_CNT_v => ⟨.TEL_PORT_CNT, 0, 64, .RC, 0⟩
  | .TEL_SLICE_CNT_v => ⟨.TEL_SLICE_CNT, 0, 64, .RC, 0⟩
  | .TEL_DROP_CNT_v => ⟨.TEL_DROP_CNT, 0, 64, .RC, 0⟩
  | .TEL_CNT_v => ⟨.TEL_CNT, 0, 64, .RC, 0⟩
  | .PMC_CFG_event => ⟨.PMC_CFG, 0, 6, .RW, 0⟩
  | .PMC_CFG_priv => ⟨.PMC_CFG, 6, 2, .RW, 0⟩
  | .PMC_CFG_vf => ⟨.PMC_CFG, 8, 6, .RW, 0⟩
  | .PMC_CFG_mst => ⟨.PMC_CFG, 14, 3, .RW, 0⟩
  | .PMC_CFG_mst_lo => ⟨.PMC_CFG, 17, 5, .RW, 0⟩
  | .PMC_CFG_mst_hi => ⟨.PMC_CFG, 22, 5, .RW, 31⟩
  | .PMC_CFG_cls => ⟨.PMC_CFG, 27, 4, .RW, 15⟩
  | .PMC_CFG_addr_en => ⟨.PMC_CFG, 31, 1, .RW, 0⟩
  | .PMC_ADDR_lo => ⟨.PMC_ADDR, 0, 32, .RW, 0⟩
  | .PMC_ADDR_hi => ⟨.PMC_ADDR, 32, 32, .RW, 4294967295⟩
  | .PMC_SAMP_CFG_en => ⟨.PMC_SAMP_CFG, 0, 1, .RW, 0⟩
  | .PMC_SAMP_CFG_ctr => ⟨.PMC_SAMP_CFG, 1, 4, .RW, 0⟩
  | .PMC_SAMP_CFG_period => ⟨.PMC_SAMP_CFG, 5, 24, .RW, 4096⟩
  | .PMC_SAMP_CFG_samp_ovf => ⟨.PMC_SAMP_CFG, 29, 1, .W1C, 0⟩
  | .PMC_SAMP_LOST_v => ⟨.PMC_SAMP_LOST, 0, 64, .RC, 0⟩
  | .CLV_ROUTE_mask => ⟨.CLV_ROUTE, 0, 16, .RW, 0⟩
  | .CLV_ROUTE_timer_us => ⟨.CLV_ROUTE, 16, 16, .RW, 0⟩
  | .CLV_ENG_CTL_online => ⟨.CLV_ENG_CTL, 0, 1, .RW, 1⟩
  | .CLV_ENG_CTL_irq_en => ⟨.CLV_ENG_CTL, 1, 8, .RW, 31⟩
  | .CLV_ENG_STAT_state => ⟨.CLV_ENG_STAT, 0, 2, .RO, 0⟩
  | .CLV_ENG_STAT_tag => ⟨.CLV_ENG_STAT, 2, 1, .RO, 0⟩
  | .CLV_ENG_STAT_pc => ⟨.CLV_ENG_STAT, 3, 16, .RO, 0⟩
  | .CLV_ENG_STAT_routine => ⟨.CLV_ENG_STAT, 19, 4, .RO, 15⟩
  | .CLV_ENG_STAT_irq_pend => ⟨.CLV_ENG_STAT, 23, 8, .RO, 0⟩
  | .CLV_ENG_STAT_irq_ovr => ⟨.CLV_ENG_STAT, 31, 1, .W1C, 0⟩
  | .CLV_FAULT_cause => ⟨.CLV_FAULT, 0, 3, .RO, 0⟩
  | .CLV_FAULT_uaddr => ⟨.CLV_FAULT, 3, 16, .RO, 0⟩
  | .CLV_FAULT_patched => ⟨.CLV_FAULT, 19, 1, .RO, 0⟩
  | .CLV_PATCH_CTL_active => ⟨.CLV_PATCH_CTL, 0, 1, .RO, 0⟩
  | .CLV_PATCH_CTL_state => ⟨.CLV_PATCH_CTL, 1, 1, .RO, 0⟩
  | .CLV_PATCH_CTL_mode => ⟨.CLV_PATCH_CTL, 2, 1, .RO, 0⟩
  | .CLV_PAGES_v => ⟨.CLV_PAGES, 0, 64, .RO, 0⟩
  | .CLV_MATCH_match => ⟨.CLV_MATCH, 0, 16, .RO, 0⟩
  | .CLV_MATCH_target => ⟨.CLV_MATCH, 16, 14, .RO, 0⟩
  | .CLV_MATCH_valid => ⟨.CLV_MATCH, 30, 1, .RO, 0⟩
  | .CLV_CNT_v => ⟨.CLV_CNT, 0, 64, .RC, 0⟩
  | .HAM_BANK_STAT_spare_cols => ⟨.HAM_BANK_STAT, 0, 2, .RO, 0⟩
  | .HAM_BANK_STAT_retired => ⟨.HAM_BANK_STAT, 2, 1, .RO, 0⟩
  | .HAM_CNT_v => ⟨.HAM_CNT, 0, 64, .RC, 0⟩
  | .HST_FN_desc_en => ⟨.HST_FN, 0, 1, .RW, 1⟩
  | .HST_FN_tx_en => ⟨.HST_FN, 1, 1, .RW, 1⟩
  | .HST_FN_rx_en => ⟨.HST_FN, 2, 1, .RW, 0⟩
  | .HST_FN_evt_fwd => ⟨.HST_FN, 3, 1, .RW, 1⟩
  | .HST_RX_CFG_rx_stall_us => ⟨.HST_RX_CFG, 0, 16, .RW, 100⟩
  | .HST_DB_count => ⟨.HST_DB, 0, 32, .WO, 0⟩
  | .HST_RING_BASE_base => ⟨.HST_RING_BASE, 12, 52, .RW, 0⟩
  | .HST_RING_CFG_log2_size => ⟨.HST_RING_CFG, 0, 5, .RW, 6⟩
  | .HST_RING_CFG_en => ⟨.HST_RING_CFG, 5, 1, .RW, 0⟩
  | .HST_RING_CFG_half => ⟨.HST_RING_CFG, 6, 1, .RW, 0⟩
  | .HST_RING_CFG_vec => ⟨.HST_RING_CFG, 7, 11, .RW, 0⟩
  | .HST_RING_CFG_host_port => ⟨.HST_RING_CFG, 18, 4, .RW, 0⟩
  | .HST_RING_CFG_coal_us => ⟨.HST_RING_CFG, 22, 8, .RW, 0⟩
  | .HST_RING_CFG_buf_kib => ⟨.HST_RING_CFG, 30, 5, .RW, 16⟩
  | .HST_RING_STAT_dev_idx => ⟨.HST_RING_STAT, 0, 32, .RO, 0⟩
  | .HST_RING_STAT_busy => ⟨.HST_RING_STAT, 32, 1, .RO, 0⟩
  | .HST_RING_STAT_stalled => ⟨.HST_RING_STAT, 33, 1, .W1C, 0⟩
  | .HST_RING_STAT_cfg_err => ⟨.HST_RING_STAT, 34, 1, .W1C, 0⟩
  | .HST_RING_STAT_dma_err => ⟨.HST_RING_STAT, 35, 1, .W1C, 0⟩
  | .HST_RING_WB_wb_addr => ⟨.HST_RING_WB, 2, 62, .RW, 0⟩
  | .HST_CNT_v => ⟨.HST_CNT, 0, 64, .RC, 0⟩
  | .SYS_ID_device => ⟨.SYS_ID, 0, 32, .RO, 590340⟩
  | .SYS_ID_stepping => ⟨.SYS_ID, 32, 16, .RO, 177⟩
  | .SYS_BOOT_STAT_phase => ⟨.SYS_BOOT_STAT, 0, 3, .RO, 0⟩
  | .SYS_BOOT_STAT_slot => ⟨.SYS_BOOT_STAT, 3, 1, .RO, 0⟩
  | .SYS_BOOT_STAT_res_a => ⟨.SYS_BOOT_STAT, 4, 3, .RO, 0⟩
  | .SYS_BOOT_STAT_res_b => ⟨.SYS_BOOT_STAT, 7, 3, .RO, 0⟩
  | .SYS_BOOT_STAT_fwd_ms => ⟨.SYS_BOOT_STAT, 10, 16, .RO, 0⟩
  | .SYS_BOOT_STAT_fail_type => ⟨.SYS_BOOT_STAT, 26, 4, .RO, 0⟩
  | .SYS_BOOT_STAT_fail_index => ⟨.SYS_BOOT_STAT, 30, 24, .RO, 0⟩
  | .SYS_BOOT_STAT_slow_flash => ⟨.SYS_BOOT_STAT, 54, 1, .RO, 0⟩
  | .TRB_STAT_approved => ⟨.TRB_STAT, 0, 1, .RO, 0⟩
  | .TRB_STAT_error => ⟨.TRB_STAT, 1, 1, .RO, 0⟩
  | .TRB_STAT_testing => ⟨.TRB_STAT, 2, 1, .RO, 0⟩
  | .TRB_STAT_owner_enrolled => ⟨.TRB_STAT, 3, 1, .RO, 0⟩
  | .TRB_STAT_vendor_img_off => ⟨.TRB_STAT, 4, 1, .RO, 0⟩
  | .TRB_STAT_err_cause => ⟨.TRB_STAT, 5, 3, .RO, 0⟩
  | .TRB_ROM_VER_rom_ver => ⟨.TRB_ROM_VER, 0, 32, .RO, 0⟩
  | .TRB_SLOT_seq => ⟨.TRB_SLOT, 0, 64, .RO, 18446744073709551615⟩
  | .TRB_SLOT_valid => ⟨.TRB_SLOT, 64, 1, .RO, 0⟩
  | .TRB_SLOT_booted => ⟨.TRB_SLOT, 65, 1, .RO, 0⟩
  | .TRB_CFG_SEQ_cfg_seq => ⟨.TRB_CFG_SEQ, 0, 64, .RO, 0⟩
  | .TRB_CNT_v => ⟨.TRB_CNT, 0, 64, .RC, 0⟩
  | .SYS_MODE_mode => ⟨.SYS_MODE, 0, 3, .RO, 0⟩
  | .SYS_MODE_base_mode => ⟨.SYS_MODE, 3, 3, .RO, 0⟩
  | .SYS_MODE_maint_op => ⟨.SYS_MODE, 6, 3, .RO, 0⟩
  | .SYS_MODE_maint_queued => ⟨.SYS_MODE, 9, 1, .RO, 0⟩
  | .RAS_OWN_CFG_lease_ms => ⟨.RAS_OWN_CFG, 0, 4, .RW, 3⟩
  | .RAS_OWN_CFG_auto_resolve => ⟨.RAS_OWN_CFG, 4, 1, .RW, 0⟩
  | .RAS_OWN_STAT_state => ⟨.RAS_OWN_STAT, 0, 2, .RO, 2⟩
  | .RAS_OWN_STAT_owner => ⟨.RAS_OWN_STAT, 2, 1, .RO, 0⟩
  | .RAS_OWN_STAT_bridge_up => ⟨.RAS_OWN_STAT, 3, 1, .RO, 0⟩
  | .RAS_OWN_STAT_claim_pend => ⟨.RAS_OWN_STAT, 4, 1, .RO, 0⟩
  | .RAS_OWN_STAT_conflict => ⟨.RAS_OWN_STAT, 5, 1, .RO, 0⟩
  | .RAS_OWN_STAT_claim_stale => ⟨.RAS_OWN_STAT, 6, 1, .W1C, 0⟩
  | .RAS_OWN_STAT_mirror_split => ⟨.RAS_OWN_STAT, 7, 1, .W1C, 0⟩
  | .RAS_OWN_STAT_term => ⟨.RAS_OWN_STAT, 32, 32, .RO, 0⟩
  | .RAS_OWN_CLAIM_term => ⟨.RAS_OWN_CLAIM, 0, 32, .WO, 0⟩
  | .RAS_OWN_CLAIM_owner => ⟨.RAS_OWN_CLAIM, 32, 1, .WO, 0⟩
  | .RAS_LINK_CFG_min_links => ⟨.RAS_LINK_CFG, 0, 7, .RW, 16⟩
  | .RAS_LINK_CFG_auto_retrain => ⟨.RAS_LINK_CFG, 7, 1, .RW, 1⟩
  | .RAS_LINK_STAT_bridge_ok => ⟨.RAS_LINK_STAT, 0, 8, .RO, 0⟩
  | .RAS_LINK_STAT_bridge_spares => ⟨.RAS_LINK_STAT, 8, 4, .RO, 0⟩
  | .RAS_LINK_STAT_degraded => ⟨.RAS_LINK_STAT, 12, 1, .RO, 0⟩
  | .RAS_LINK_STAT_lost => ⟨.RAS_LINK_STAT, 13, 1, .RO, 0⟩
  | .RAS_LINK_STAT_pipe_rl => ⟨.RAS_LINK_STAT, 14, 16, .RO, 0⟩
  | .RAS_ECC_CFG_scrub_en => ⟨.RAS_ECC_CFG, 0, 1, .RW, 1⟩
  | .RAS_ECC_CFG_scrub_s => ⟨.RAS_ECC_CFG, 1, 16, .RW, 60⟩
  | .RAS_ECC_CFG_ce_thresh => ⟨.RAS_ECC_CFG, 17, 8, .RW, 16⟩
  | .RAS_ECC_CFG_ce_window_s => ⟨.RAS_ECC_CFG, 25, 8, .RW, 60⟩
  | .RAS_ECC_CFG_ue_retire => ⟨.RAS_ECC_CFG, 33, 1, .RW, 1⟩
  | .RAS_ECC_CFG_audit_s => ⟨.RAS_ECC_CFG, 34, 16, .RW, 600⟩
  | .RAS_SPARE_total => ⟨.RAS_SPARE, 0, 16, .RO, 0⟩
  | .RAS_SPARE_used => ⟨.RAS_SPARE, 16, 16, .RO, 0⟩
  | .RAS_RETIRE_STAT_state => ⟨.RAS_RETIRE_STAT, 0, 2, .RO, 0⟩
  | .RAS_RETIRE_STAT_class => ⟨.RAS_RETIRE_STAT, 2, 3, .RO, 0⟩
  | .RAS_RETIRE_STAT_instance => ⟨.RAS_RETIRE_STAT, 5, 5, .RO, 0⟩
  | .RAS_RETIRE_STAT_bank => ⟨.RAS_RETIRE_STAT, 10, 12, .RO, 0⟩
  | .RAS_RETIRE_STAT_done => ⟨.RAS_RETIRE_STAT, 22, 31, .RO, 0⟩
  | .RAS_XRST_lane_core => ⟨.RAS_XRST, 0, 1, .WO, 0⟩
  | .RAS_XRST_lane_tb => ⟨.RAS_XRST, 1, 1, .WO, 0⟩
  | .RAS_XRST_core_tb => ⟨.RAS_XRST, 2, 1, .WO, 0⟩
  | .RAS_XRST_core_clove => ⟨.RAS_XRST, 3, 1, .WO, 0⟩
  | .RAS_XRST_clove_tb => ⟨.RAS_XRST, 4, 1, .WO, 0⟩
  | .RAS_XRST_clove_host => ⟨.RAS_XRST, 5, 1, .WO, 0⟩
  | .RAS_XRST_core_host => ⟨.RAS_XRST, 6, 1, .WO, 0⟩
  | .RAS_XRST_tile => ⟨.RAS_XRST, 7, 2, .WO, 0⟩
  | .RAS_XSTAT_ovr => ⟨.RAS_XSTAT, 0, 7, .W1C, 0⟩
  | .RAS_XSTAT_stuck => ⟨.RAS_XSTAT, 7, 7, .RO, 0⟩
  | .RAS_CNT_v => ⟨.RAS_CNT, 0, 64, .RC, 0⟩
  | .LAN_CFG_ser_thresh => ⟨.LAN_CFG, 0, 16, .RW, 417⟩
  | .LAN_EQ_ID_v => ⟨.LAN_EQ_ID, 0, 32, .RO, 0⟩
  | .LAN_LANE_STAT_pwr => ⟨.LAN_LANE_STAT, 0, 2, .RO, 0⟩
  | .LAN_LANE_STAT_rate => ⟨.LAN_LANE_STAT, 2, 2, .RO, 3⟩
  | .LAN_LANE_STAT_loop => ⟨.LAN_LANE_STAT, 4, 2, .RO, 0⟩
  | .LAN_LANE_STAT_pattern => ⟨.LAN_LANE_STAT, 6, 3, .RO, 0⟩
  | .LAN_LANE_STAT_sig => ⟨.LAN_LANE_STAT, 9, 1, .RO, 0⟩
  | .LAN_LANE_STAT_cdr_lock => ⟨.LAN_LANE_STAT, 10, 1, .RO, 0⟩
  | .LAN_LANE_STAT_prbs_lock => ⟨.LAN_LANE_STAT, 11, 1, .RO, 0⟩
  | .LAN_LANE_STAT_eq_default => ⟨.LAN_LANE_STAT, 12, 1, .RO, 0⟩
  | .LAN_LANE_STAT_rx_pos => ⟨.LAN_LANE_STAT, 13, 3, .RO, 0⟩
  | .LAN_PORT_STAT_state => ⟨.LAN_PORT_STAT, 0, 3, .RO, 0⟩
  | .LAN_PORT_STAT_rate => ⟨.LAN_PORT_STAT, 3, 2, .RO, 0⟩
  | .LAN_PORT_STAT_width => ⟨.LAN_PORT_STAT, 5, 4, .RO, 0⟩
  | .LAN_PORT_STAT_tx_rev => ⟨.LAN_PORT_STAT, 9, 1, .RO, 0⟩
  | .LAN_PORT_STAT_fec_corr => ⟨.LAN_PORT_STAT, 10, 1, .RO, 0⟩
  | .LAN_PORT_STAT_fec_ind => ⟨.LAN_PORT_STAT, 11, 1, .RO, 0⟩
  | .LAN_PORT_STAT_cause => ⟨.LAN_PORT_STAT, 12, 4, .RO, 0⟩
  | .LAN_PORT_STAT_hi_ser => ⟨.LAN_PORT_STAT, 16, 1, .RO, 0⟩
  | .LAN_PORT_STAT_rl => ⟨.LAN_PORT_STAT, 17, 1, .W1C, 0⟩
  | .LAN_PRBS_CNT_v => ⟨.LAN_PRBS_CNT, 0, 64, .RC, 0⟩
  | .LAN_PORT_CNT_v => ⟨.LAN_PORT_CNT, 0, 64, .RC, 0⟩
  | .GLB_CFG_crc_limit => ⟨.GLB_CFG, 0, 16, .RW, 64⟩
  | .GLB_LINK_STAT_state => ⟨.GLB_LINK_STAT, 0, 3, .RO, 0⟩
  | .GLB_LINK_STAT_wire_repaired => ⟨.GLB_LINK_STAT, 3, 1, .RO, 0⟩
  | .GLB_LINK_STAT_repaired_wire => ⟨.GLB_LINK_STAT, 4, 6, .RO, 0⟩
  | .GLB_CNT_v => ⟨.GLB_CNT, 0, 64, .RC, 0⟩
  | .SYS_STRAP_tmode => ⟨.SYS_STRAP, 0, 1, .RO, 0⟩
  | .SYS_STRAP_fsafe => ⟨.SYS_STRAP, 1, 1, .RO, 0⟩
  | .SYS_STRAP_sba => ⟨.SYS_STRAP, 2, 3, .RO, 0⟩
  | .SYS_THERM_t_max => ⟨.SYS_THERM, 0, 16, .RO, 0⟩
  | .SYS_THERM_t_east => ⟨.SYS_THERM, 16, 16, .RO, 0⟩
  | .SYS_THERM_t_west => ⟨.SYS_THERM, 32, 16, .RO, 0⟩
  | .SYS_THERM_warn => ⟨.SYS_THERM, 48, 1, .RO, 0⟩
  | .SYS_THERM_crit => ⟨.SYS_THERM, 49, 1, .RO, 0⟩
  | .SYS_THERM_sens_fault => ⟨.SYS_THERM, 50, 1, .RO, 0⟩
  | .SYS_SUPPLY_low => ⟨.SYS_SUPPLY, 0, 9, .W1C, 0⟩
  | .SYS_AVS_v_fuse => ⟨.SYS_AVS, 0, 8, .RO, 0⟩
  | .SYS_AVS_v_target => ⟨.SYS_AVS, 8, 8, .RO, 150⟩
  | .SYS_AVS_v_read => ⟨.SYS_AVS, 16, 16, .RO, 0⟩
  | .SYS_AVS_i_read => ⟨.SYS_AVS, 32, 16, .RO, 0⟩
  | .SYS_AVS_avs_err => ⟨.SYS_AVS, 48, 1, .W1C, 0⟩
  | .TIM_STEP_LO_frac => ⟨.TIM_STEP_LO, 0, 16, .RW, 0⟩
  | .TIM_STEP_LO_ns => ⟨.TIM_STEP_LO, 16, 32, .RW, 0⟩
  | .TIM_STEP_LO_neg => ⟨.TIM_STEP_LO, 48, 1, .RW, 0⟩
  | .TIM_STEP_LO_abs => ⟨.TIM_STEP_LO, 49, 1, .RW, 0⟩
  | .TIM_STEP_HI_sec => ⟨.TIM_STEP_HI, 0, 64, .RW, 0⟩
  | .TIM_NOW_LO_frac => ⟨.TIM_NOW_LO, 0, 16, .RO, 0⟩
  | .TIM_NOW_LO_ns => ⟨.TIM_NOW_LO, 16, 32, .RO, 0⟩
  | .TIM_NOW_HI_sec => ⟨.TIM_NOW_HI, 0, 64, .RO, 0⟩
  | .TIM_TXTS_W0_valid => ⟨.TIM_TXTS_W0, 0, 1, .RO, 0⟩
  | .TIM_TXTS_W0_port => ⟨.TIM_TXTS_W0, 1, 11, .RO, 0⟩
  | .TIM_TXTS_W0_id => ⟨.TIM_TXTS_W0, 12, 16, .RO, 0⟩
  | .TIM_TXTS_W0_ns => ⟨.TIM_TXTS_W0, 32, 32, .RO, 0⟩
  | .TIM_TXTS_W1_frac => ⟨.TIM_TXTS_W1, 0, 16, .RC, 0⟩
  | .TIM_TXTS_W1_sec => ⟨.TIM_TXTS_W1, 16, 48, .RC, 0⟩
  | .TIM_TIO_OUT_start_ns => ⟨.TIM_TIO_OUT, 0, 30, .RW, 0⟩
  | .TIM_TIO_OUT_width => ⟨.TIM_TIO_OUT, 32, 32, .RW, 100⟩
  | .TIM_TIO_START_start_sec => ⟨.TIM_TIO_START, 0, 64, .RW, 0⟩
  | .TIM_TIO_CAP_LO_valid => ⟨.TIM_TIO_CAP_LO, 0, 1, .RO, 0⟩
  | .TIM_TIO_CAP_LO_fall => ⟨.TIM_TIO_CAP_LO, 1, 1, .RO, 0⟩
  | .TIM_TIO_CAP_LO_ns => ⟨.TIM_TIO_CAP_LO, 32, 32, .RO, 0⟩
  | .TIM_TIO_CAP_HI_frac => ⟨.TIM_TIO_CAP_HI, 0, 16, .RC, 0⟩
  | .TIM_TIO_CAP_HI_sec => ⟨.TIM_TIO_CAP_HI, 16, 48, .RC, 0⟩
  | .PMC_SAMP_W0_valid => ⟨.PMC_SAMP_W0, 0, 1, .RO, 0⟩
  | .PMC_SAMP_W0_ce => ⟨.PMC_SAMP_W0, 1, 5, .RO, 0⟩
  | .PMC_SAMP_W0_uaddr => ⟨.PMC_SAMP_W0, 6, 16, .RO, 0⟩
  | .PMC_SAMP_W0_patched => ⟨.PMC_SAMP_W0, 22, 1, .RO, 0⟩
  | .PMC_SAMP_W0_stall => ⟨.PMC_SAMP_W0, 23, 4, .RO, 0⟩
  | .PMC_SAMP_W0_ns => ⟨.PMC_SAMP_W0, 32, 32, .RO, 0⟩
  | .PMC_SAMP_W1_cycle => ⟨.PMC_SAMP_W1, 0, 32, .RC, 0⟩
  | .PMC_SAMP_W1_sec => ⟨.PMC_SAMP_W1, 32, 32, .RC, 0⟩
  | .RAS_ERR_W0_valid => ⟨.RAS_ERR_W0, 0, 1, .RO, 0⟩
  | .RAS_ERR_W0_ue => ⟨.RAS_ERR_W0, 1, 1, .RO, 0⟩
  | .RAS_ERR_W0_class => ⟨.RAS_ERR_W0, 2, 3, .RO, 0⟩
  | .RAS_ERR_W0_instance => ⟨.RAS_ERR_W0, 5, 5, .RO, 0⟩
  | .RAS_ERR_W0_bank => ⟨.RAS_ERR_W0, 10, 12, .RO, 0⟩
  | .RAS_ERR_W0_row => ⟨.RAS_ERR_W0, 22, 12, .RO, 0⟩
  | .RAS_ERR_W1_ns => ⟨.RAS_ERR_W1, 0, 32, .RC, 0⟩
  | .RAS_ERR_W1_sec => ⟨.RAS_ERR_W1, 32, 32, .RC, 0⟩
  | .PAR_VLAN_MAP_slice0 => ⟨.PAR_VLAN_MAP, 0, 6, .RW, 0⟩
  | .PAR_VLAN_MAP_valid0 => ⟨.PAR_VLAN_MAP, 6, 1, .RW, 0⟩
  | .PAR_VLAN_MAP_slice1 => ⟨.PAR_VLAN_MAP, 8, 6, .RW, 0⟩
  | .PAR_VLAN_MAP_valid1 => ⟨.PAR_VLAN_MAP, 14, 1, .RW, 0⟩
  | .PAR_VLAN_MAP_slice2 => ⟨.PAR_VLAN_MAP, 16, 6, .RW, 0⟩
  | .PAR_VLAN_MAP_valid2 => ⟨.PAR_VLAN_MAP, 22, 1, .RW, 0⟩
  | .PAR_VLAN_MAP_slice3 => ⟨.PAR_VLAN_MAP, 24, 6, .RW, 0⟩
  | .PAR_VLAN_MAP_valid3 => ⟨.PAR_VLAN_MAP, 30, 1, .RW, 0⟩
  | .BUF_PG_REMOTE_pg_remote => ⟨.BUF_PG_REMOTE, 0, 20, .RO, 0⟩
  | .BUF_WRED_min => ⟨.BUF_WRED, 0, 20, .RW, 1048575⟩
  | .BUF_WRED_max => ⟨.BUF_WRED, 20, 20, .RW, 1048575⟩
  | .BUF_WRED_max_p => ⟨.BUF_WRED, 40, 9, .RW, 0⟩
  | .BUF_WRED_W_avg_w => ⟨.BUF_WRED_W, 0, 4, .RW, 0⟩
  | .PMC_CNT_v => ⟨.PMC_CNT, 0, 64, .RW, 0⟩
  | .PMC_THRESH_v => ⟨.PMC_THRESH, 0, 64, .RW, 18446744073709551615⟩
  | .TRB_VENDOR_DIGEST_v => ⟨.TRB_VENDOR_DIGEST, 0, 384, .RO, 0⟩
  | .TRB_OWNER_DIGEST_v => ⟨.TRB_OWNER_DIGEST, 0, 384, .RO, 0⟩
  | .TEL_HIST_BIN_v => ⟨.TEL_HIST_BIN, 0, 64, .RO, 0⟩
  | .TEL_HIST_SUM_v => ⟨.TEL_HIST_SUM, 0, 64, .RO, 0⟩
  | .TEL_HIST_MAX_v => ⟨.TEL_HIST_MAX, 0, 64, .RO, 0⟩
  | .TEL_SNAP_CFG_period_ms => ⟨.TEL_SNAP_CFG, 0, 16, .RW, 0⟩
  | .TEL_SNAP_CFG_groups => ⟨.TEL_SNAP_CFG, 16, 7, .RW, 0⟩
  | .TEL_SNAP_CFG_size => ⟨.TEL_SNAP_CFG, 23, 32, .RW, 0⟩
  | .TEL_SNAP_ADDR_v => ⟨.TEL_SNAP_ADDR, 0, 64, .RW, 0⟩
  | .LAN_LANE_EQ_entry => ⟨.LAN_LANE_EQ, 0, 128, .RO, 0⟩
  | .SHP_S_SHP_inc => ⟨.SHP_S_SHP, 0, 28, .RW, 0⟩
  | .SHP_S_SHP_burst => ⟨.SHP_S_SHP, 28, 24, .RW, 16384⟩
  | .SHP_S_SHP_en => ⟨.SHP_S_SHP, 52, 1, .RW, 0⟩
  | .SHP_Q_SHP_inc => ⟨.SHP_Q_SHP, 0, 28, .RW, 0⟩
  | .SHP_Q_SHP_burst => ⟨.SHP_Q_SHP, 28, 24, .RW, 16384⟩
  | .SHP_Q_SHP_en => ⟨.SHP_Q_SHP, 52, 1, .RW, 0⟩
  | .SHP_G_SHP_inc => ⟨.SHP_G_SHP, 0, 28, .RW, 0⟩
  | .SHP_G_SHP_burst => ⟨.SHP_G_SHP, 28, 24, .RW, 16384⟩
  | .SHP_G_SHP_en => ⟨.SHP_G_SHP, 52, 1, .RW, 0⟩
  | .SHP_P_SHP_inc => ⟨.SHP_P_SHP, 0, 28, .RW, 0⟩
  | .SHP_P_SHP_burst => ⟨.SHP_P_SHP, 28, 24, .RW, 16384⟩
  | .SHP_P_SHP_en => ⟨.SHP_P_SHP, 52, 1, .RW, 0⟩

/-- The fields of each register, lowest bit first. -/
def Reg.fields : Reg → List Fld
  | .PAR_ARB_CFG => [.PAR_ARB_CFG_recirc_weight, .PAR_ARB_CFG_intport_weight]
  | .PAR_RECIRC_LIMIT => [.PAR_RECIRC_LIMIT_count]
  | .PAR_PORT_CFG => [.PAR_PORT_CFG_profile, .PAR_PORT_CFG_slice_mode, .PAR_PORT_CFG_def_slice, .PAR_PORT_CFG_def_pcp]
  | .PAR_PROFILE => [.PAR_PROFILE_act_trunc, .PAR_PROFILE_act_len, .PAR_PROFILE_act_short, .PAR_PROFILE_act_nomatch, .PAR_PROFILE_depth_limit, .PAR_PROFILE_hdr_limit, .PAR_PROFILE_trap_port, .PAR_PROFILE_trap_tc, .PAR_PROFILE_nm_port]
  | .PAR_EVT_CNT => [.PAR_EVT_CNT_v]
  | .PAR_HASH_SEED => [.PAR_HASH_SEED_seed]
  | .PAR_HASH_SEL => [.PAR_HASH_SEL_l3_addr, .PAR_HASH_SEL_l3_proto, .PAR_HASH_SEL_l4_ports, .PAR_HASH_SEL_flow_label, .PAR_HASH_SEL_mac, .PAR_HASH_SEL_ethertype, .PAR_HASH_SEL_vid, .PAR_HASH_SEL_vni, .PAR_HASH_SEL_level]
  | .MAT_RANGE => [.MAT_RANGE_low, .MAT_RANGE_high, .MAT_RANGE_ctr, .MAT_RANGE_point, .MAT_RANGE_en]
  | .SLC_QUOTA => [.SLC_QUOTA_em_quota, .SLC_QUOTA_tcam_quota]
  | .SLC_USAGE => [.SLC_USAGE_em_used, .SLC_USAGE_tcam_used, .SLC_USAGE_log_used]
  | .SLC_GEN => [.SLC_GEN_cur_gen, .SLC_GEN_oldest_live, .SLC_GEN_retiring, .SLC_GEN_evt_retired, .SLC_GEN_committed]
  | .SLC_REFCNT => [.SLC_REFCNT_count]
  | .SLC_CNT => [.SLC_CNT_v]
  | .MAT_PROG_CTL => [.MAT_PROG_CTL_active, .MAT_PROG_CTL_state, .MAT_PROG_CTL_a_loaded, .MAT_PROG_CTL_b_loaded, .MAT_PROG_CTL_drain_limit, .MAT_PROG_CTL_old_count]
  | .MAT_PROG_DIGEST => [.MAT_PROG_DIGEST_v]
  | .MAT_DRAIN_CNT => [.MAT_DRAIN_CNT_v]
  | .FDB_SEED => [.FDB_SEED_seed, .FDB_SEED_rejected]
  | .FDB_AGE_CFG => [.FDB_AGE_CFG_tick, .FDB_AGE_CFG_sweep, .FDB_AGE_CFG_age_run, .FDB_AGE_CFG_lf_life]
  | .FDB_LEARN_CFG => [.FDB_LEARN_CFG_move_limit, .FDB_LEARN_CFG_learn_run]
  | .FDB_LOCK_CFG => [.FDB_LOCK_CFG_lease_us, .FDB_LOCK_CFG_read_retry]
  | .FDB_REQ => [.FDB_REQ_en, .FDB_REQ_issue_stage, .FDB_REQ_kb_lookup, .FDB_REQ_kb_learn, .FDB_REQ_learn_en, .FDB_REQ_res_ctr16, .FDB_REQ_res_ctr32, .FDB_REQ_wr_ignored]
  | .FDB_SLICE_CFG => [.FDB_SLICE_CFG_quota, .FDB_SLICE_CFG_age_limit, .FDB_SLICE_CFG_learn_en, .FDB_SLICE_CFG_age_en]
  | .FDB_SLICE_USE => [.FDB_SLICE_USE_used]
  | .FDB_OCC => [.FDB_OCC_bucket_used, .FDB_OCC_ovf_used]
  | .FDB_PORT_CFG => [.FDB_PORT_CFG_learn_en, .FDB_PORT_CFG_flush_on_down]
  | .FDB_STAT => [.FDB_STAT_host_locks, .FDB_STAT_lq_depth, .FDB_STAT_defer_depth, .FDB_STAT_resync]
  | .FDB_CNT => [.FDB_CNT_v]
  | .BUF_PART => [.BUF_PART_size, .BUF_PART_use]
  | .BUF_FREE => [.BUF_FREE_phys_free, .BUF_FREE_desc_free]
  | .BUF_ECN_CFG => [.BUF_ECN_CFG_ip4_type, .BUF_ECN_CFG_ip6_type]
  | .BUF_IPOOL => [.BUF_IPOOL_size, .BUF_IPOOL_use]
  | .BUF_Q_CFG => [.BUF_Q_CFG_pool, .BUF_Q_CFG_alpha, .BUF_Q_CFG_lossless, .BUF_Q_CFG_q_min, .BUF_Q_CFG_q_max, .BUF_Q_CFG_wred_prof, .BUF_Q_CFG_wred_en, .BUF_Q_CFG_ecn_en, .BUF_Q_CFG_ecn_th]
  | .BUF_Q_STAT => [.BUF_Q_STAT_q_rsv, .BUF_Q_STAT_q_shr, .BUF_Q_STAT_peak]
  | .BUF_PORT_CFG => [.BUF_PORT_CFG_debounce_us, .BUF_PORT_CFG_pg_map, .BUF_PORT_CFG_pfc_quanta, .BUF_PORT_CFG_pfc_refresh]
  | .BUF_PORT_STAT => [.BUF_PORT_STAT_state, .BUF_PORT_STAT_up_seen, .BUF_PORT_STAT_relaunch, .BUF_PORT_STAT_xoff]
  | .BUF_PG_CFG => [.BUF_PG_CFG_lossless, .BUF_PG_CFG_ipool, .BUF_PG_CFG_alpha_in, .BUF_PG_CFG_pg_min, .BUF_PG_CFG_xoff_static, .BUF_PG_CFG_xon_offset, .BUF_PG_CFG_hdrm_max, .BUF_PG_CFG_pg_use, .BUF_PG_CFG_pg_hdrm]
  | .BUF_MISC => [.BUF_MISC_storm_ms]
  | .BUF_Q_CNT => [.BUF_Q_CNT_v]
  | .BUF_CNT => [.BUF_CNT_v]
  | .TMG_QMAP => [.TMG_QMAP_queue]
  | .TMG_SLICE_CFG => [.TMG_SLICE_CFG_qclass]
  | .TMG_PORT_CFG => [.TMG_PORT_CFG_qmap_prof, .TMG_PORT_CFG_rel_limit, .TMG_PORT_CFG_q_unit, .TMG_PORT_CFG_pfc_rx_en]
  | .TMG_Q_CFG => [.TMG_Q_CFG_group, .TMG_Q_CFG_prio, .TMG_Q_CFG_weight, .TMG_Q_CFG_len_prof, .TMG_Q_CFG_pfc_prio, .TMG_Q_CFG_pfc_en]
  | .TMG_GRP_CFG => [.TMG_GRP_CFG_prio, .TMG_GRP_CFG_weight, .TMG_GRP_CFG_slice_shp]
  | .TMG_PFC_STAT => [.TMG_PFC_STAT_paused]
  | .TMG_Q_CNT => [.TMG_Q_CNT_v]
  | .TMG_PORT_CNT => [.TMG_PORT_CNT_v]
  | .SHP_LEN_PROF => [.SHP_LEN_PROF_overhead]
  | .SHP_Q_CREDIT => [.SHP_Q_CREDIT_credit]
  | .SHP_POL_CFG => [.SHP_POL_CFG_cir_inc, .SHP_POL_CFG_pir_inc, .SHP_POL_CFG_cbs, .SHP_POL_CFG_pbs, .SHP_POL_CFG_aware, .SHP_POL_CFG_red_drop, .SHP_POL_CFG_en, .SHP_POL_CFG_owner]
  | .SHP_POL_CNT => [.SHP_POL_CNT_v]
  | .SHP_SLICE_CNT => [.SHP_SLICE_CNT_v]
  | .TIM_CFG => [.TIM_CFG_ref_src, .TIM_CFG_hold_en, .TIM_CFG_guard_en, .TIM_CFG_wd_ms]
  | .TIM_CTL => [.TIM_CTL_step_go, .TIM_CTL_gm_set]
  | .TIM_STAT => [.TIM_STAT_holdover, .TIM_STAT_step_pend, .TIM_STAT_step_refused, .TIM_STAT_step_busy, .TIM_STAT_inc_refused, .TIM_STAT_inc_range, .TIM_STAT_lockstep_lost, .TIM_STAT_txts_ovf_e, .TIM_STAT_txts_ovf_w, .TIM_STAT_ref_lost, .TIM_STAT_pll_lock]
  | .TIM_INC => [.TIM_INC_inc]
  | .TIM_GUARD => [.TIM_GUARD_guard_ns]
  | .TIM_ELAPSED => [.TIM_ELAPSED_ticks]
  | .TIM_PTP_REQ => [.TIM_PTP_REQ_en, .TIM_PTP_REQ_ctr, .TIM_PTP_REQ_udp_type, .TIM_PTP_REQ_wr_ignored]
  | .TIM_TIO_CFG => [.TIM_TIO_CFG_mode, .TIM_TIO_CFG_edge, .TIM_TIO_CFG_cfg_err, .TIM_TIO_CFG_period]
  | .TIM_PORT_CFG => [.TIM_PORT_CFG_rx_adj, .TIM_PORT_CFG_tx_adj, .TIM_PORT_CFG_p2p_delay]
  | .TIM_CNT => [.TIM_CNT_v]
  | .GTE_PROF => [.GTE_PROF_over_act, .GTE_PROF_late_act, .GTE_PROF_lt_tol, .GTE_PROF_lt_max, .GTE_PROF_trap_port, .GTE_PROF_trap_tc, .GTE_PROF_trap_reason, .GTE_PROF_left_trap, .GTE_PROF_left_samp]
  | .GTE_LT_SRC => [.GTE_LT_SRC_en, .GTE_LT_SRC_word, .GTE_LT_SRC_wr_ignored]
  | .GTE_MEM => [.GTE_MEM_free]
  | .GTE_Q_CFG => [.GTE_Q_CFG_prof, .GTE_Q_CFG_lt_en, .GTE_Q_CFG_ep_en]
  | .GTE_PORT_STAT => [.GTE_PORT_STAT_gl_state, .GTE_PORT_STAT_timed, .GTE_PORT_STAT_entry, .GTE_PORT_STAT_gates, .GTE_PORT_STAT_adjusted]
  | .GTE_LIST => [.GTE_LIST_start_sec, .GTE_LIST_start_ns, .GTE_LIST_cycle_ns]
  | .GTE_ADJ_N => [.GTE_ADJ_N_v]
  | .GTE_CNT => [.GTE_CNT_v]
  | .GTE_HALF_CNT => [.GTE_HALF_CNT_v]
  | .EPC_STAT => [.EPC_STAT_state, .EPC_STAT_slot, .EPC_STAT_adjusted]
  | .EPC_EPOCH => [.EPC_EPOCH_v]
  | .EPC_GRID => [.EPC_GRID_start, .EPC_GRID_ep_len, .EPC_GRID_slots, .EPC_GRID_open_guard, .EPC_GRID_close_guard]
  | .EPC_ADJ_N => [.EPC_ADJ_N_v]
  | .EPC_CNT => [.EPC_CNT_v]
  | .TOA_CFG => [.TOA_CFG_udp_port, .TOA_CFG_en, .TOA_CFG_csum_chk]
  | .TOA_SLICE_CFG => [.TOA_SLICE_CFG_max_groups, .TOA_SLICE_CFG_max_granules, .TOA_SLICE_CFG_max_members]
  | .TOA_SLICE_USE => [.TOA_SLICE_USE_groups, .TOA_SLICE_USE_granules, .TOA_SLICE_USE_members]
  | .TOA_UNIT_STAT => [.TOA_UNIT_STAT_gran_free, .TOA_UNIT_STAT_blocks, .TOA_UNIT_STAT_mem_free, .TOA_UNIT_STAT_groups, .TOA_UNIT_STAT_bp]
  | .TOA_UNIT_CNT => [.TOA_UNIT_CNT_v]
  | .TEL_CFG => [.TEL_CFG_dev_id, .TEL_CFG_tel_type, .TEL_CFG_drop_sess, .TEL_CFG_drop_en]
  | .TEL_REQ => [.TEL_REQ_en, .TEL_REQ_ctr, .TEL_REQ_wr_ignored]
  | .TEL_SESS => [.TEL_SESS_dest, .TEL_SESS_tc, .TEL_SESS_trunc, .TEL_SESS_samp, .TEL_SESS_rate]
  | .TEL_EXP_CFG => [.TEL_EXP_CFG_target, .TEL_EXP_CFG_exp_port, .TEL_EXP_CFG_exp_tc, .TEL_EXP_CFG_batch, .TEL_EXP_CFG_flush_us]
  | .TEL_EXP_HDR => [.TEL_EXP_HDR_exp_dmac, .TEL_EXP_HDR_exp_smac, .TEL_EXP_HDR_exp_etype]
  | .TEL_EXP_STAT => [.TEL_EXP_STAT_fifo, .TEL_EXP_STAT_seq]
  | .TEL_HIST_CFG => [.TEL_HIST_CFG_unit_shift, .TEL_HIST_CFG_win_us, .TEL_HIST_CFG_hist_ack, .TEL_HIST_CFG_closed, .TEL_HIST_CFG_merged]
  | .TEL_SNAP_STAT => [.TEL_SNAP_STAT_busy, .TEL_SNAP_STAT_snap_ovr, .TEL_SNAP_STAT_seq]
  | .TEL_Q_HIST => [.TEL_Q_HIST_hist, .TEL_Q_HIST_hist_en]
  | .TEL_PORT_CNT => [.TEL_PORT_CNT_v]
  | .TEL_SLICE_CNT => [.TEL_SLICE_CNT_v]
  | .TEL_DROP_CNT => [.TEL_DROP_CNT_v]
  | .TEL_CNT => [.TEL_CNT_v]
  | .PMC_CFG => [.PMC_CFG_event, .PMC_CFG_priv, .PMC_CFG_vf, .PMC_CFG_mst, .PMC_CFG_mst_lo, .PMC_CFG_mst_hi, .PMC_CFG_cls, .PMC_CFG_addr_en]
  | .PMC_ADDR => [.PMC_ADDR_lo, .PMC_ADDR_hi]
  | .PMC_SAMP_CFG => [.PMC_SAMP_CFG_en, .PMC_SAMP_CFG_ctr, .PMC_SAMP_CFG_period, .PMC_SAMP_CFG_samp_ovf]
  | .PMC_SAMP_LOST => [.PMC_SAMP_LOST_v]
  | .CLV_ROUTE => [.CLV_ROUTE_mask, .CLV_ROUTE_timer_us]
  | .CLV_ENG_CTL => [.CLV_ENG_CTL_online, .CLV_ENG_CTL_irq_en]
  | .CLV_ENG_STAT => [.CLV_ENG_STAT_state, .CLV_ENG_STAT_tag, .CLV_ENG_STAT_pc, .CLV_ENG_STAT_routine, .CLV_ENG_STAT_irq_pend, .CLV_ENG_STAT_irq_ovr]
  | .CLV_FAULT => [.CLV_FAULT_cause, .CLV_FAULT_uaddr, .CLV_FAULT_patched]
  | .CLV_PATCH_CTL => [.CLV_PATCH_CTL_active, .CLV_PATCH_CTL_state, .CLV_PATCH_CTL_mode]
  | .CLV_PAGES => [.CLV_PAGES_v]
  | .CLV_MATCH => [.CLV_MATCH_match, .CLV_MATCH_target, .CLV_MATCH_valid]
  | .CLV_CNT => [.CLV_CNT_v]
  | .HAM_BANK_STAT => [.HAM_BANK_STAT_spare_cols, .HAM_BANK_STAT_retired]
  | .HAM_CNT => [.HAM_CNT_v]
  | .HST_FN => [.HST_FN_desc_en, .HST_FN_tx_en, .HST_FN_rx_en, .HST_FN_evt_fwd]
  | .HST_RX_CFG => [.HST_RX_CFG_rx_stall_us]
  | .HST_DB => [.HST_DB_count]
  | .HST_RING_BASE => [.HST_RING_BASE_base]
  | .HST_RING_CFG => [.HST_RING_CFG_log2_size, .HST_RING_CFG_en, .HST_RING_CFG_half, .HST_RING_CFG_vec, .HST_RING_CFG_host_port, .HST_RING_CFG_coal_us, .HST_RING_CFG_buf_kib]
  | .HST_RING_STAT => [.HST_RING_STAT_dev_idx, .HST_RING_STAT_busy, .HST_RING_STAT_stalled, .HST_RING_STAT_cfg_err, .HST_RING_STAT_dma_err]
  | .HST_RING_WB => [.HST_RING_WB_wb_addr]
  | .HST_CNT => [.HST_CNT_v]
  | .SYS_ID => [.SYS_ID_device, .SYS_ID_stepping]
  | .SYS_BOOT_STAT => [.SYS_BOOT_STAT_phase, .SYS_BOOT_STAT_slot, .SYS_BOOT_STAT_res_a, .SYS_BOOT_STAT_res_b, .SYS_BOOT_STAT_fwd_ms, .SYS_BOOT_STAT_fail_type, .SYS_BOOT_STAT_fail_index, .SYS_BOOT_STAT_slow_flash]
  | .TRB_STAT => [.TRB_STAT_approved, .TRB_STAT_error, .TRB_STAT_testing, .TRB_STAT_owner_enrolled, .TRB_STAT_vendor_img_off, .TRB_STAT_err_cause]
  | .TRB_ROM_VER => [.TRB_ROM_VER_rom_ver]
  | .TRB_SLOT => [.TRB_SLOT_seq, .TRB_SLOT_valid, .TRB_SLOT_booted]
  | .TRB_CFG_SEQ => [.TRB_CFG_SEQ_cfg_seq]
  | .TRB_CNT => [.TRB_CNT_v]
  | .SYS_MODE => [.SYS_MODE_mode, .SYS_MODE_base_mode, .SYS_MODE_maint_op, .SYS_MODE_maint_queued]
  | .RAS_OWN_CFG => [.RAS_OWN_CFG_lease_ms, .RAS_OWN_CFG_auto_resolve]
  | .RAS_OWN_STAT => [.RAS_OWN_STAT_state, .RAS_OWN_STAT_owner, .RAS_OWN_STAT_bridge_up, .RAS_OWN_STAT_claim_pend, .RAS_OWN_STAT_conflict, .RAS_OWN_STAT_claim_stale, .RAS_OWN_STAT_mirror_split, .RAS_OWN_STAT_term]
  | .RAS_OWN_CLAIM => [.RAS_OWN_CLAIM_term, .RAS_OWN_CLAIM_owner]
  | .RAS_LINK_CFG => [.RAS_LINK_CFG_min_links, .RAS_LINK_CFG_auto_retrain]
  | .RAS_LINK_STAT => [.RAS_LINK_STAT_bridge_ok, .RAS_LINK_STAT_bridge_spares, .RAS_LINK_STAT_degraded, .RAS_LINK_STAT_lost, .RAS_LINK_STAT_pipe_rl]
  | .RAS_ECC_CFG => [.RAS_ECC_CFG_scrub_en, .RAS_ECC_CFG_scrub_s, .RAS_ECC_CFG_ce_thresh, .RAS_ECC_CFG_ce_window_s, .RAS_ECC_CFG_ue_retire, .RAS_ECC_CFG_audit_s]
  | .RAS_SPARE => [.RAS_SPARE_total, .RAS_SPARE_used]
  | .RAS_RETIRE_STAT => [.RAS_RETIRE_STAT_state, .RAS_RETIRE_STAT_class, .RAS_RETIRE_STAT_instance, .RAS_RETIRE_STAT_bank, .RAS_RETIRE_STAT_done]
  | .RAS_XRST => [.RAS_XRST_lane_core, .RAS_XRST_lane_tb, .RAS_XRST_core_tb, .RAS_XRST_core_clove, .RAS_XRST_clove_tb, .RAS_XRST_clove_host, .RAS_XRST_core_host, .RAS_XRST_tile]
  | .RAS_XSTAT => [.RAS_XSTAT_ovr, .RAS_XSTAT_stuck]
  | .RAS_CNT => [.RAS_CNT_v]
  | .LAN_CFG => [.LAN_CFG_ser_thresh]
  | .LAN_EQ_ID => [.LAN_EQ_ID_v]
  | .LAN_LANE_STAT => [.LAN_LANE_STAT_pwr, .LAN_LANE_STAT_rate, .LAN_LANE_STAT_loop, .LAN_LANE_STAT_pattern, .LAN_LANE_STAT_sig, .LAN_LANE_STAT_cdr_lock, .LAN_LANE_STAT_prbs_lock, .LAN_LANE_STAT_eq_default, .LAN_LANE_STAT_rx_pos]
  | .LAN_PORT_STAT => [.LAN_PORT_STAT_state, .LAN_PORT_STAT_rate, .LAN_PORT_STAT_width, .LAN_PORT_STAT_tx_rev, .LAN_PORT_STAT_fec_corr, .LAN_PORT_STAT_fec_ind, .LAN_PORT_STAT_cause, .LAN_PORT_STAT_hi_ser, .LAN_PORT_STAT_rl]
  | .LAN_PRBS_CNT => [.LAN_PRBS_CNT_v]
  | .LAN_PORT_CNT => [.LAN_PORT_CNT_v]
  | .GLB_CFG => [.GLB_CFG_crc_limit]
  | .GLB_LINK_STAT => [.GLB_LINK_STAT_state, .GLB_LINK_STAT_wire_repaired, .GLB_LINK_STAT_repaired_wire]
  | .GLB_CNT => [.GLB_CNT_v]
  | .SYS_STRAP => [.SYS_STRAP_tmode, .SYS_STRAP_fsafe, .SYS_STRAP_sba]
  | .SYS_THERM => [.SYS_THERM_t_max, .SYS_THERM_t_east, .SYS_THERM_t_west, .SYS_THERM_warn, .SYS_THERM_crit, .SYS_THERM_sens_fault]
  | .SYS_SUPPLY => [.SYS_SUPPLY_low]
  | .SYS_AVS => [.SYS_AVS_v_fuse, .SYS_AVS_v_target, .SYS_AVS_v_read, .SYS_AVS_i_read, .SYS_AVS_avs_err]
  | .TIM_STEP_LO => [.TIM_STEP_LO_frac, .TIM_STEP_LO_ns, .TIM_STEP_LO_neg, .TIM_STEP_LO_abs]
  | .TIM_STEP_HI => [.TIM_STEP_HI_sec]
  | .TIM_NOW_LO => [.TIM_NOW_LO_frac, .TIM_NOW_LO_ns]
  | .TIM_NOW_HI => [.TIM_NOW_HI_sec]
  | .TIM_TXTS_W0 => [.TIM_TXTS_W0_valid, .TIM_TXTS_W0_port, .TIM_TXTS_W0_id, .TIM_TXTS_W0_ns]
  | .TIM_TXTS_W1 => [.TIM_TXTS_W1_frac, .TIM_TXTS_W1_sec]
  | .TIM_TIO_OUT => [.TIM_TIO_OUT_start_ns, .TIM_TIO_OUT_width]
  | .TIM_TIO_START => [.TIM_TIO_START_start_sec]
  | .TIM_TIO_CAP_LO => [.TIM_TIO_CAP_LO_valid, .TIM_TIO_CAP_LO_fall, .TIM_TIO_CAP_LO_ns]
  | .TIM_TIO_CAP_HI => [.TIM_TIO_CAP_HI_frac, .TIM_TIO_CAP_HI_sec]
  | .PMC_SAMP_W0 => [.PMC_SAMP_W0_valid, .PMC_SAMP_W0_ce, .PMC_SAMP_W0_uaddr, .PMC_SAMP_W0_patched, .PMC_SAMP_W0_stall, .PMC_SAMP_W0_ns]
  | .PMC_SAMP_W1 => [.PMC_SAMP_W1_cycle, .PMC_SAMP_W1_sec]
  | .RAS_ERR_W0 => [.RAS_ERR_W0_valid, .RAS_ERR_W0_ue, .RAS_ERR_W0_class, .RAS_ERR_W0_instance, .RAS_ERR_W0_bank, .RAS_ERR_W0_row]
  | .RAS_ERR_W1 => [.RAS_ERR_W1_ns, .RAS_ERR_W1_sec]
  | .PAR_VLAN_MAP => [.PAR_VLAN_MAP_slice0, .PAR_VLAN_MAP_valid0, .PAR_VLAN_MAP_slice1, .PAR_VLAN_MAP_valid1, .PAR_VLAN_MAP_slice2, .PAR_VLAN_MAP_valid2, .PAR_VLAN_MAP_slice3, .PAR_VLAN_MAP_valid3]
  | .BUF_PG_REMOTE => [.BUF_PG_REMOTE_pg_remote]
  | .BUF_WRED => [.BUF_WRED_min, .BUF_WRED_max, .BUF_WRED_max_p]
  | .BUF_WRED_W => [.BUF_WRED_W_avg_w]
  | .PMC_CNT => [.PMC_CNT_v]
  | .PMC_THRESH => [.PMC_THRESH_v]
  | .TRB_VENDOR_DIGEST => [.TRB_VENDOR_DIGEST_v]
  | .TRB_OWNER_DIGEST => [.TRB_OWNER_DIGEST_v]
  | .TEL_HIST_BIN => [.TEL_HIST_BIN_v]
  | .TEL_HIST_SUM => [.TEL_HIST_SUM_v]
  | .TEL_HIST_MAX => [.TEL_HIST_MAX_v]
  | .TEL_SNAP_CFG => [.TEL_SNAP_CFG_period_ms, .TEL_SNAP_CFG_groups, .TEL_SNAP_CFG_size]
  | .TEL_SNAP_ADDR => [.TEL_SNAP_ADDR_v]
  | .LAN_LANE_EQ => [.LAN_LANE_EQ_entry]
  | .SHP_S_SHP => [.SHP_S_SHP_inc, .SHP_S_SHP_burst, .SHP_S_SHP_en]
  | .SHP_Q_SHP => [.SHP_Q_SHP_inc, .SHP_Q_SHP_burst, .SHP_Q_SHP_en]
  | .SHP_G_SHP => [.SHP_G_SHP_inc, .SHP_G_SHP_burst, .SHP_G_SHP_en]
  | .SHP_P_SHP => [.SHP_P_SHP_inc, .SHP_P_SHP_burst, .SHP_P_SHP_en]

/-- Every register of a block type. -/
def regsOf (blk : Nat) : List Reg :=
  match blk with
  | 1 => [.SYS_ID, .SYS_BOOT_STAT, .SYS_MODE, .SYS_STRAP, .SYS_THERM, .SYS_SUPPLY, .SYS_AVS]
  | 3 => [.PAR_ARB_CFG, .PAR_RECIRC_LIMIT, .PAR_PORT_CFG, .PAR_PROFILE, .PAR_EVT_CNT, .PAR_HASH_SEED, .PAR_HASH_SEL, .PAR_VLAN_MAP]
  | 4 => [.MAT_RANGE, .MAT_PROG_CTL, .MAT_PROG_DIGEST, .MAT_DRAIN_CNT]
  | 5 => [.SLC_QUOTA, .SLC_USAGE, .SLC_GEN, .SLC_REFCNT, .SLC_CNT]
  | 6 => [.FDB_SEED, .FDB_AGE_CFG, .FDB_LEARN_CFG, .FDB_LOCK_CFG, .FDB_REQ, .FDB_SLICE_CFG, .FDB_SLICE_USE, .FDB_OCC, .FDB_PORT_CFG, .FDB_STAT, .FDB_CNT]
  | 7 => [.BUF_PART, .BUF_FREE, .BUF_ECN_CFG, .BUF_IPOOL, .BUF_Q_CFG, .BUF_Q_STAT, .BUF_PORT_CFG, .BUF_PORT_STAT, .BUF_PG_CFG, .BUF_MISC, .BUF_Q_CNT, .BUF_CNT, .BUF_PG_REMOTE, .BUF_WRED, .BUF_WRED_W]
  | 8 => [.TMG_QMAP, .TMG_SLICE_CFG, .TMG_PORT_CFG, .TMG_Q_CFG, .TMG_GRP_CFG, .TMG_PFC_STAT, .TMG_Q_CNT, .TMG_PORT_CNT]
  | 9 => [.SHP_LEN_PROF, .SHP_Q_CREDIT, .SHP_POL_CFG, .SHP_POL_CNT, .SHP_SLICE_CNT, .SHP_S_SHP, .SHP_Q_SHP, .SHP_G_SHP, .SHP_P_SHP]
  | 10 => [.TIM_CFG, .TIM_CTL, .TIM_STAT, .TIM_INC, .TIM_GUARD, .TIM_ELAPSED, .TIM_PTP_REQ, .TIM_TIO_CFG, .TIM_PORT_CFG, .TIM_CNT, .TIM_STEP_LO, .TIM_STEP_HI, .TIM_NOW_LO, .TIM_NOW_HI, .TIM_TXTS_W0, .TIM_TXTS_W1, .TIM_TIO_OUT, .TIM_TIO_START, .TIM_TIO_CAP_LO, .TIM_TIO_CAP_HI]
  | 11 => [.GTE_PROF, .GTE_LT_SRC, .GTE_MEM, .GTE_Q_CFG, .GTE_PORT_STAT, .GTE_LIST, .GTE_ADJ_N, .GTE_CNT, .GTE_HALF_CNT]
  | 12 => [.EPC_STAT, .EPC_EPOCH, .EPC_GRID, .EPC_ADJ_N, .EPC_CNT]
  | 13 => [.TOA_CFG, .TOA_SLICE_CFG, .TOA_SLICE_USE, .TOA_UNIT_STAT, .TOA_UNIT_CNT]
  | 14 => [.TEL_CFG, .TEL_REQ, .TEL_SESS, .TEL_EXP_CFG, .TEL_EXP_HDR, .TEL_EXP_STAT, .TEL_HIST_CFG, .TEL_SNAP_STAT, .TEL_Q_HIST, .TEL_PORT_CNT, .TEL_SLICE_CNT, .TEL_DROP_CNT, .TEL_CNT, .TEL_HIST_BIN, .TEL_HIST_SUM, .TEL_HIST_MAX, .TEL_SNAP_CFG, .TEL_SNAP_ADDR]
  | 15 => [.PMC_CFG, .PMC_ADDR, .PMC_SAMP_CFG, .PMC_SAMP_LOST, .PMC_SAMP_W0, .PMC_SAMP_W1, .PMC_CNT, .PMC_THRESH]
  | 16 => [.CLV_ROUTE, .CLV_ENG_CTL, .CLV_ENG_STAT, .CLV_FAULT, .CLV_PATCH_CTL, .CLV_PAGES, .CLV_MATCH, .CLV_CNT]
  | 17 => [.HAM_BANK_STAT, .HAM_CNT]
  | 18 => [.HST_FN, .HST_RX_CFG, .HST_DB, .HST_RING_BASE, .HST_RING_CFG, .HST_RING_STAT, .HST_RING_WB, .HST_CNT]
  | 19 => [.TRB_STAT, .TRB_ROM_VER, .TRB_SLOT, .TRB_CFG_SEQ, .TRB_CNT, .TRB_VENDOR_DIGEST, .TRB_OWNER_DIGEST]
  | 20 => [.LAN_CFG, .LAN_EQ_ID, .LAN_LANE_STAT, .LAN_PORT_STAT, .LAN_PRBS_CNT, .LAN_PORT_CNT, .LAN_LANE_EQ]
  | 21 => [.GLB_CFG, .GLB_LINK_STAT, .GLB_CNT]
  | 22 => [.RAS_OWN_CFG, .RAS_OWN_STAT, .RAS_OWN_CLAIM, .RAS_LINK_CFG, .RAS_LINK_STAT, .RAS_ECC_CFG, .RAS_SPARE, .RAS_RETIRE_STAT, .RAS_XRST, .RAS_XSTAT, .RAS_CNT, .RAS_ERR_W0, .RAS_ERR_W1]
  | _ => []

/-- The value a field holds when its supply first becomes valid (R10), at the index list of its instance and element. -/
def Fld.reset (f : Fld) (ix : List Nat) : Nat :=
  match f with
  | .BUF_PART_size => (([0, 720895, 0, 0, 0, 32768, 32768, 0] : List Nat)[ix.getD 1 0]?).getD 0
  | .CLV_ROUTE_mask =>
    (([0xC000, 0xA000, 0x8100, 0x9000, 0x8040, 0x8080, 0x8030, 0x8C00, 0x800F, 0x8200] : List Nat)[ix.getD 1 0]?).getD 0
  | .HAM_BANK_STAT_spare_cols => Config.spareCols (ix.getD 0 0) (ix.getD 1 0) % 3
  | .TRB_STAT_owner_enrolled => 0
  | .TRB_STAT_vendor_img_off => 0
  | .TRB_ROM_VER_rom_ver => Config.romVer % 2 ^ 32
  | .RAS_SPARE_total => (([4, 32, 8, 16, 32] : List Nat)[ix.getD 1 0]?).getD 0
  | .SYS_AVS_v_fuse => 100 + 5 * (Config.vFuseStep (ix.getD 1 0) % 18)
  | .TRB_VENDOR_DIGEST_v => Config.vendorDigest % 2 ^ 384
  | .LAN_LANE_EQ_entry =>
    128 * ix.getD 0 0 + ix.getD 1 0 + ix.getD 2 0 * 2 ^ 24 + 20 * 2 ^ 32 + 64 * 2 ^ 64 + 12 * 2 ^ 80 + 8 * 2 ^ 88
  | f => f.info.rst

end Sys2Proof.Machine
end

