-- ==== Sys2Proof/Machine/State.lean ====
section
/-!
DEFINITION. The state of the OX9-T204 as plain data: the field store of its registers, the memories, tables, queues and sequencers behind them, the commands that wait, and the state right after reset.
-/

namespace Sys2Proof.Machine

/-- Why a command stops. -/
inductive Fault where
  /-- REGISTER_WRITE and RC_COUNTER_READ of a block type or instance that R329 does not list: the manual gives such an address no block. Safe. -/
  | noSuchBlock
deriving DecidableEq, Repr

/-- Why a command has no meaning. -/
inductive Refusal where
  /-- A row of the table whose meaning is not written. Safe. -/
  | notModelled (mnemonic : String)
deriving DecidableEq, Repr

/-- An addressed memory: cells with strictly rising addresses. -/
abbrev Memory := List Host.Cell

/-- The canonical form of a memory: addresses strictly rising. -/
def Memory.wf : Memory → Bool
  | [] => true
  | [_] => true
  | (a, _) :: (b, y) :: m => decide (a < b) && Memory.wf ((b, y) :: m)

/-- The canonical form of a memory whose unlisted bytes read as 0: no listed byte is 0. -/
def Memory.wf0 (m : Memory) : Bool := Memory.wf m && m.all (fun c => decide (c.2 ≠ 0))

/-- A header-table entry (R53); `len` is the parsed length, which the deparser needs (R67). -/
structure HdrEnt where
  typ : Nat
  off : Nat
  lvl : Nat
  len : Nat
  valid : Bool
deriving DecidableEq, Repr

/-- Where a frame or copy is on its path (R32). -/
inductive Loc where
  /-- Waits at the input of its pipe (R26, R27). -/
  | input
  /-- In the ingress or egress stages. -/
  | stages
  /-- After I19, before the front end of the traffic manager (step 5). -/
  | front
  /-- Its admission request waits at the egress half (R33). -/
  | request
  /-- Its grant travels to the ingress half (R130). -/
  | granted
  /-- Its cells cross the bridge (R130). -/
  | crossing
  /-- Its cells are written; it waits for enqueue (R34). -/
  | written
  /-- In its queue. -/
  | queued
  /-- Through the egress stages, before the deparser. -/
  | deparse
  /-- At the lane tile (R204). -/
  | tile
  /-- At a host port, waiting for receive slots (R346). -/
  | hostPort
  /-- In the input FIFO of a Toanton unit pair (R234). -/
  | toa
deriving DecidableEq, Repr

/-- A network time value, in units of 2^-32 ns since second 0 (R176). -/
abbrev Ts := Nat

/-- An FDB key (R94). -/
structure FKey where
  slice : Nat
  kind : Nat
  scope : Nat
  addr : Nat
deriving DecidableEq, Repr

/-- A learn event (R107). -/
structure LearnEv where
  key : FKey
  port : Nat
  src : Half
deriving DecidableEq, Repr

/-- A frame or a copy of one, with all that travels with it. -/
structure Frame where
  id : Nat
  loc : Loc
  /-- Destination address to FCS. -/
  bytes : List Byte
  /-- The metadata block (R54, R77). -/
  md : BitVec 512
  /-- Valid containers (R53), keyed class and index. -/
  ctr : SMap Nat
  hdrs : List HdrEnt
  pipe : Nat
  /-- Half whose reference count it holds (R86). -/
  rhalf : Half
  /-- Next stage, 0-19 for I00-I19 and 20-31 for E00-E11. -/
  stage : Nat
  /-- A mirror copy, which runs no action program (R277). -/
  mirror : Bool
  regMiss : Bool
  /-- Result of the FDB lookup on its way: stage of arrival, 16-bit and 32-bit values (R101). -/
  fdbRes : Option (Nat × Nat × Nat)
  learn : Option LearnEv
  /-- Level-0 IP header offset and version (R125). -/
  ip : Nat × Nat
  launch : Option Nat
  /-- The range vector in force (R72). -/
  range : Nat
  out : Nat
  tc : Nat
  cells : Nat
  /-- Copies that share cells carry one number (R127). -/
  share : Nat
  pg : Option Nat
  hdrmReq : Bool
  hdrm : Bool
  queue : Nat
  rsv : Nat
  pool : Nat
  ce : Bool
  epoch : Nat
  depth : Nat
  poolFree : Nat
  enqNs : Nat
  /-- Reference instant of R267. -/
  tRef : Ts
  timed : Bool
  /-- Projected start in units of 2^-32 / 200 ns (R203). -/
  tStart : Nat
  lateDone : Bool
  lMiss : Option Nat
  sizeTested : Bool
  counted : Nat
  /-- A poisoned cell or link: its FCS is sent inverted (R404). -/
  stomp : Bool
  /-- Its telemetry record is to be exported (R271). -/
  telExp : Bool
  /-- The Toanton unit whose input FIFO holds it (R234). -/
  unit : Nat
  /-- Sent from a host ring, so that its launch value is that of its packet descriptor (R216). -/
  ring : Bool
  /-- The default actions of its ingress port's profile, as they stood when it entered its pipe (R43, R63): `act_nomatch`, `nm_port`, `trap_port` and `trap_tc`. -/
  nmAct : Nat
  nmPort : Nat
  trapPort : Nat
  trapTc : Nat
  /-- Its frame descriptor's index in its egress half (R125). -/
  fd : Nat
  /-- The cells it is stored in, in the order of their links (R124). -/
  chain : List Nat
  /-- The ingress time, of which the metadata holds the low part `ts_in` (R54, R194). -/
  tIn : Ts
  /-- It stood in an epoch queue at the change of epoch: left over, it cannot be selected, and the purge frees it (R223). -/
  purge : Bool
  /-- Where its payload begins in its bytes: `payload_off` as parsed, and the end of the emitted headers behind a deparser (R54, R67). -/
  payAt : Nat
  /-- The containers that extraction filled: class and index, and the header's offset and the offset in it of the bytes they hold (R50, R143). -/
  fills : SMap (Nat × Nat)
deriving DecidableEq, Repr

/-- One copy of the pipeline program (R46, R88). -/
structure Prog where
  loaded : Bool
  states : SMap Nat
  tcam : SMap Nat
  xmap : SMap Nat
  dep : SMap Nat
  rng : SMap Nat
  kb : SMap Nat
  act : SMap Nat
  tmap : List Config.TableMap
  digest : Nat
deriving DecidableEq, Repr

/-- A stage-table entry, exact match or TCAM (R73, R75). -/
structure Ent where
  key : Nat
  mask : Nat
  adata : Nat
  act : Nat
  slice : Nat
  genLo : Nat
  genHi : Nat
  opn : Bool
  settled : Bool
  table : Nat
  wide : Bool
  /-- What the word of a wide entry's odd index holds: its qualifier and action word, which do not apply (R75, R92). -/
  odd : Nat
deriving DecidableEq, Repr

/-- A write of a generation's log (R84): kind 0 ADD, 1 CLOSE, 2 REPLACE_NOW; the entry's place; the host record (R378). -/
structure LogW where
  kind : Nat
  tcam : Bool
  place : List Nat
  bytes : List Byte
deriving DecidableEq, Repr

/-- Stage tables, write logs and slice digests (R69-R87, R378), and the VNI map (R57). -/
structure Tables where
  em : SMap Ent
  tcam : SMap Ent
  plog : SMap (List LogW)
  clog : SMap (List LogW)
  dlog : SMap (List LogW)
  digest : SMap Nat
  vni : SMap (Nat × Nat)
  /-- Release messages on the bridge: stamping half, slice, counter (R86). -/
  refRel : List (Half × Nat × Nat)
  /-- TCAM cells that differ from their shadow after an upset, keyed pipe, stage, index: what the cells hold (R406). -/
  upset : SMap (Option Ent)
  /-- Commits that have passed their checks and wait for earlier writes of the slice (R85). -/
  passed : List Hdr
deriving DecidableEq, Repr

/-- A program swap in progress (R91). -/
structure Swap where
  desc : Hdr
  old : Nat
  flipped : Bool
  /-- Elapsed time of the flip, from which the drain timer counts. -/
  since : Nat
  forced : Nat
deriving DecidableEq, Repr

/-- An FDB entry (R97). -/
structure FdbEnt where
  key : FKey
  stamp : Nat
  port : Nat
  adata : Nat
  moves : Nat
  mwin : Nat
  frozen : Bool
  static : Bool
  learned : Bool
deriving DecidableEq, Repr

/-- A bucket lock (R115): `fn` is the holding function of a host lock, or the engine. -/
structure Lock where
  host : Bool
  token : Nat
  fn : Nat
  expiry : Nat
deriving DecidableEq, Repr

/-- A write of the other half's copy, travelling over the bridge (R108): the place and the new entry. -/
structure FdbMsg where
  dst : Half
  bucket : Nat
  place : List Nat
  ent : Option FdbEnt
deriving DecidableEq, Repr

/-- A descriptor that retries a lock (R117). -/
structure Retry where
  desc : Hdr
  cmd : Instr
  left : Nat
deriving DecidableEq, Repr

/-- The forwarding database (R93-R123). -/
structure Fdb where
  /-- Keyed half, bucket, way; overflow entries under bucket 1,048,576. -/
  ents : SMap FdbEnt
  locks : SMap Lock
  broken : SMap Nat
  tokE : Nat
  tokW : Nat
  filter : SMap (Nat × Nat × Nat)
  learnQ : List (Half × LearnEv)
  defer : List (Half × LearnEv)
  busyE : Bool
  busyW : Bool
  msgs : List FdbMsg
  acks : List (Half × Nat)
  learns : List (Half × LearnEv)
  hits : List (Half × List Nat × FKey)
  nowTick : Nat
  tickDue : Nat
  resync : List Half
  /-- Buckets of a resynchronisation that a lock holds, which are copied when it is released: owner, bucket (R122). -/
  resyncLeft : List (Half × Nat)
  /-- Ticks until the next ager sweep of a half, and the buckets that the sweep in progress has visited, keyed half, bucket (R113). -/
  sweepLeft : SMap Nat
  swept : SMap Bool
  retries : List Retry
  /-- Lookups whose tag may still be held: half, place, key, stamp before the hit, time (R102). -/
  tags : List (Half × List Nat × FKey × Nat × Nat)
  /-- Port deletions that wait for a bucket's lock: owner, bucket, port (R115, R120). -/
  portDel : List (Half × Nat × Nat)
  /-- Port deletions that no engine of the FLUSH routine has taken yet: owner, port (R120, R302). -/
  portDue : List (Half × Nat)
deriving DecidableEq, Repr

/-- A port flush in progress (R145, R146): `left` are the queues of the port that no engine has emptied yet (R303). -/
structure Flush where
  desc : Option Hdr
  freed : Nat
  left : List Nat
deriving DecidableEq, Repr

/-- Buffer bookkeeping beyond the registers (R124-R151). -/
structure Buf where
  queues : SMap (List Nat)
  avg : SMap Rat
  notices : List (Half × Nat × Nat × Nat × Bool)
  reqs : List (Half × Nat)
  grants : List (Half × Nat)
  flush : SMap Flush
  poolLow : SMap Nat
  share : SMap Nat
  pgTimes : SMap (Nat × Nat)
deriving DecidableEq, Repr

/-- A shaper's token bucket: the values in force and the credit in 2^-12 byte (R159). The register holds what the next refill takes (R162). -/
structure Bucket where
  inc : Nat
  burst : Nat
  en : Bool
  credit : Int
deriving DecidableEq, Repr

/-- What POLICER_SET gives a policer (R175). -/
structure PolCfg where
  cir : Nat
  pir : Nat
  cbs : Nat
  pbs : Nat
  aware : Bool
  redDrop : Bool
  en : Bool
deriving DecidableEq, Repr

/-- A policer: the values in force and both credits (R173). `SHP_POL_CFG` holds what the next refill takes (R175). -/
structure Pol where
  cur : PolCfg
  tp : Int
  tc : Int
deriving DecidableEq, Repr

/-- Scheduler state beyond the registers (R159-R171). -/
structure Sched where
  shp : SMap Bucket
  pol : SMap Pol
  deficit : SMap Int
  last : SMap Nat
  /-- Pause timers, keyed port and priority: the instant the pause applies from, and its end, in 1/200 ns of elapsed time (R170, R171). -/
  pause : SMap (Nat × Nat)
  /-- Elapsed time of the last refill of each half (R160). -/
  refE : Nat
  refW : Nat
  arbDef : SMap Int
  arbW : SMap Nat
  txRR : SMap Nat
  /-- The weight in force of a queue or group: that of its level's last quantum addition (R165). -/
  wgt : SMap Nat
deriving DecidableEq, Repr

/-- A step that waits for its apply edge (R181). -/
structure StepReq where
  due : Nat
  neg : Bool
  abs : Bool
  value : Ts
deriving DecidableEq, Repr

/-- An entry of a transmit timestamp queue (R195). -/
structure TxTs where
  port : Nat
  id : Nat
  t : Ts
deriving DecidableEq, Repr

/-- The time base (R176-R201). -/
structure Time where
  elapsed : Nat
  tE : Ts
  tW : Ts
  incE : Nat
  incW : Nat
  pendStep : Option StepReq
  /-- Writes that wait for their apply edge: its elapsed time, the field, its index, the value (R179). -/
  pendCfg : List (Nat × Fld × List Nat × Nat)
  resyncDue : Option Nat
  wdStart : Nat
  recE : List (Ts × Int)
  recW : List (Ts × Int)
  txtsE : List TxTs
  txtsW : List TxTs
  txtsReq : List (Half × TxTs)
  tio : SMap (List (Bool × Ts))
  tioLast : SMap Nat
  tioHigh : SMap Nat
  tioFirst : SMap Nat
  tioPin : SMap Bool
deriving DecidableEq, Repr

/-- A gate list (R206): start S and cycle C in ns. -/
structure GList where
  start : Nat
  cycle : Nat
  ents : List (Nat × Nat)
deriving DecidableEq, Repr

/-- An epoch grid (R219): S in ns, maps as 1,024-bit numbers. -/
structure Grid where
  start : Nat
  len : Nat
  slots : Nat
  og : Nat
  cg : Nat
  maps : List Nat
deriving DecidableEq, Repr

/-- Gate lists, horizons and the epoch grid (R202-R231). -/
structure Timed where
  gl : SMap GList
  horizon : SMap Nat
  gridA : Option Grid
  gridP : Option Grid
  /-- The epoch number of each half's timer (R219). -/
  epE : Int
  epW : Int
  chgE : Nat
  chgW : Nat
  stopDesc : Option Hdr
  leftCnt : SMap Nat
deriving DecidableEq, Repr

/-- A member entry (R242). -/
structure Member where
  mac : Nat
  vid : Nat
  pcp : Nat
  tagged : Bool
  ip : Nat
  udp : Nat
deriving DecidableEq, Repr

/-- State of a window position (R247). -/
inductive BState where
  | free
  | accum
  | cached
  | done
deriving DecidableEq, Repr

/-- A block record (R249). -/
structure Blk where
  st : BState
  data : List Nat
  ack : List Nat
  count : Nat
  flags : Nat
  acc : List Int
  result : List Byte
  t0 : Nat
  stalled : Bool
deriving DecidableEq, Repr

/-- A group (R241, R244): st 0 CLOSED, 1 OPEN, 2 CLOSING. -/
structure Grp where
  st : Nat
  inc : Nat
  slice : Nat
  unit : Nat
  members : Nat
  fmtIn : Nat
  fmtOut : Nat
  nakEn : Bool
  ip6 : Bool
  stallEvt : Bool
  retainEvt : Bool
  blkElems : Nat
  winLsb : Int
  winTop : Int
  maxBlocks : Nat
  retainUs : Nat
  stallUs : Nat
  srcMac : Nat
  dscp : Nat
  ttl : Nat
  srcIp : Nat
  srcUdp : Nat
  resTc : Nat
  base : Nat
  mem : SMap Member
  blks : SMap Blk
  done : Nat
  expired : Nat
  satB : Nat
  inexB : Nat
  dups : Nat
  noSlot : Nat
  closeDesc : Option Hdr
  discarded : Nat
  /-- Member entries that apply from the next frame the unit handles (R246). -/
  memNext : SMap Member
deriving DecidableEq, Repr

/-- A frame that a unit has to emit: member, operation, block, count, flags, reason, payload (R243). -/
structure Emit where
  group : Nat
  member : Nat
  op : Nat
  block : Nat
  count : Nat
  flags : Nat
  reason : Nat
  payload : List Byte
deriving DecidableEq, Repr

/-- Toanton groups and emission queues (R232-R265). -/
structure Toa where
  grp : SMap Grp
  emitQ : SMap (List Emit)
deriving DecidableEq, Repr

/-- A snapshot being taken (R285). -/
structure Snap where
  half : Half
  mask : Nat
  seq : Nat
  due : Nat
  taken : Bool
  valid : Nat
  t : Ts
  image : List Byte
  desc : Option Hdr
deriving DecidableEq, Repr

/-- Telemetry state beyond the registers (R266-R294). -/
structure Tel where
  samp : SMap Nat
  fifoE : List (List Byte)
  fifoW : List (List Byte)
  firstE : Nat
  firstW : Nat
  bankE : Nat
  bankW : Nat
  ackE : Bool
  ackW : Bool
  snaps : List Snap
  snapDueE : Nat
  snapDueW : Nat
  raised : SMap Nat
  sampCnt : SMap Nat
  fifoS : List (Half × Nat × Nat)
  /-- Window edges whose swap no engine of the TEL routine has made yet (R284, R302). -/
  histDue : List (Half × Ts)
deriving DecidableEq, Repr

/-- An event in a routine queue: a body, whether it was retried, and the descriptor it carries, if any (R302, R305). -/
structure RtEv where
  body : List Word
  retried : Bool
  desc : Option Hdr
deriving DecidableEq, Repr

/-- A Clove engine (R295); its state, program address, tag, routine and pending lines are the fields of `CLV_ENG_STAT`. -/
structure Eng where
  g : SMap Nat
  link : Nat
  ilink : Nat
  loop : Nat
  z : Bool
  c : Bool
  n : Bool
  memOk : Bool
  msgOk : Bool
  /-- The handler that runs was entered at a DISPATCH boundary, and returns to it (R307). -/
  fromIdle : Bool
  ev : Option RtEv
  /-- Elapsed times of its faults (R305). -/
  faults : List Nat
  /-- The elapsed tick it last read (R299). -/
  lastTick : Nat
  bridgeAck : Bool
deriving DecidableEq, Repr

/-- A patch-set activation in progress (R310). -/
structure Arm where
  desc : Option Hdr
  mode : Nat
  old : Nat
  lost : Bool
deriving DecidableEq, Repr

/-- Clove engines and the Hamper (R295-R322). `patch` is the patch RAM, keyed half and offset; the digests are those of the objects in the two match sets (R373). -/
structure Clove where
  eng : SMap Eng
  rq : SMap (List RtEv)
  patch : SMap Nat
  digest0 : Nat
  digest1 : Nat
  arm : Option Arm
  hamE : Memory
  hamW : Memory
  /-- Words of table SRAM as an engine wrote them, with the bits that no entry has, keyed kind, half, place (R320). -/
  port : SMap Nat
deriving DecidableEq, Repr

/-- A descriptor taken from a ring and not yet finished (R339): `cmd` is the command that its 64 bytes spell (R341), without what its host buffer returns; `ran` says that its operation has begun to take effect. -/
structure Taken where
  hdr : Hdr
  opcode : Nat
  object : List Nat
  started : Bool
  cmd : Instr
  ran : Bool
deriving DecidableEq, Repr

/-- A completion, as written or discarded (R337): the status history that software sees. -/
structure Cpl where
  fn : Nat
  ring : Nat
  tag : Nat
  status : Nat
  st : Nat
  result : Nat
deriving DecidableEq, Repr

/-- An event record (R349): payload is bytes 16-47. -/
structure Evt where
  code : Nat
  half : Nat
  payload : List Byte
deriving DecidableEq, Repr

/-- An MSI-X table entry: address, data, mask bit and pending bit (R326, R352). -/
structure Msix where
  addr : Nat
  data : Nat
  masked : Bool
  pend : Bool
deriving DecidableEq, Repr

/-- A completion whose event waits in the queue of the RING routine: what the ring entry and the extended result will hold (R302, R337). -/
structure CplWait where
  hdr : Hdr
  status : Nat
  st : Nat
  result : Nat
  ext : Option (List Byte)
deriving DecidableEq, Repr

/-- The host interface beyond the registers (R323-R354). -/
structure HostIf where
  swCnt : SMap Nat
  /-- Rings that are stopped: true by RING_ERROR or `dma_err` (R332, R474), false by the receive stall of R347. -/
  stopped : SMap Bool
  taken : List Taken
  /-- The descriptors that have started and are not finished, in the order in which they started (R371, R382). -/
  starts : List Hdr
  cpls : List Cpl
  /-- Completions that wait for an engine of the RING routine (R302). -/
  late : List CplWait
  events : List Evt
  evtSeq : SMap Nat
  evtLost : SMap Nat
  msix : SMap Msix
  hold : SMap Bool
  /-- The end of a vector's hold-off, and the ring whose `coal_us` it has (R352). -/
  holdEnd : SMap (Nat × Nat)
  /-- Message control of a function's MSI-X capability (R326, R352). -/
  msixCtl : SMap Nat
  /-- Base address registers and the other writable words of a function's configuration space (R324, R326). -/
  cfgSpace : SMap Nat
  /-- Since when a VF's receive ring has lacked slots for the frame that waits (R347). -/
  lack : SMap Nat
  /-- Descriptors whose completion is discarded, and functions whose reset waits for started descriptors (R354). -/
  voidC : List Hdr
  flr : List Nat
  msgs : List (Nat × Nat)
  mem : Memory
  resp : Nat
  cfgResp : Option Nat
  d3 : SMap Bool
deriving DecidableEq, Repr

/-- An entry of the configuration store (R369). -/
structure CfgEnt where
  typ : Nat
  inst : Nat
  off : Nat
  wide : Bool
  value : Nat
deriving DecidableEq, Repr

/-- Start-up, flash and the configuration store (R355-R386). -/
structure Boot where
  flashA : List Byte
  flashB : List Byte
  cand : List Nat
  selfDone : Bool
  discovered : Bool
  cur : Option Nat
  /-- Records still to apply, in the order of R364: type, index in the body, payload, arg. -/
  recs : List (Nat × Nat × List Byte × Nat)
  tblSlices : List Nat
  retry : Option Hdr
  store0 : List CfgEnt
  store1 : List CfgEnt
  writing : Option (Hdr × Nat × List Byte)
deriving DecidableEq, Repr

/-- What a two-half step does (R395). -/
inductive StepKind where
  | commit (slice : Nat)
  | flip
  | patch (mode : Nat)
  | cfg (ents : List CfgEnt)
  | hostClaim
  | adopt (term owner : Nat)
deriving DecidableEq, Repr

/-- A two-half step whose PREPARE the owner has sent (R395): its number, its edge E, and whether the PREPARE has reached the follower or was lost on the way. -/
structure Step2 where
  kind : StepKind
  desc : Option Hdr
  own : Half
  seq : Nat
  edge : Nat
  reached : Bool
  lost : Bool
  doneE : Bool
  doneW : Bool
  result : Nat
deriving DecidableEq, Repr

/-- A maintenance operation that waits or runs (R389): 3 bank retirement, 4 link retrain. -/
structure Maint where
  op : Nat
  half : Half
  cls : Nat
  inst : Nat
  bank : Nat
  desc : Option Hdr
deriving DecidableEq, Repr

/-- A crossing whose request is not acknowledged (R411): the network time and the rate that its held value carries, and the elapsed time of the request. -/
structure XCh where
  val : Nat
  inc : Nat
  since : Nat
deriving DecidableEq, Repr

/-- A retrain that runs (R402): its group's instance, the links still to train with the one in training first, its descriptor, and the links trained. -/
structure Train where
  inst : Nat
  links : List (Nat × Nat)
  desc : Option Hdr
  trained : Nat
deriving DecidableEq, Repr

/-- Modes, ownership and repair beyond the registers (R387-R417). -/
structure Ras where
  steps : List Step2
  nextSeq : Nat
  /-- The highest step number each half has applied (R395). -/
  lastE : Nat
  lastW : Nat
  renewSent : List (Half × Nat × Nat)
  acksSent : Nat
  rxAt : Nat
  ackAt : Nat
  deferred : SMap Nat
  queueM : List Maint
  job : Option Maint
  /-- The retrains that run: one, and beside it those of the bridge group that a lost bridge allows (R403). -/
  train : List Train
  poison : SMap Nat
  ceLog : SMap (List Nat)
  retired : SMap Bool
  logE : List (Nat × Nat)
  logW : List (Nat × Nat)
  logAt : SMap Nat
  /-- Times of recent CRC errors of a link (R439). -/
  crc : SMap (List Nat)
  mirrorQ : List (List (Fld × List Nat × Nat) × List Nat)
  held : SMap Nat
  /-- The crossings whose request is not acknowledged, keyed half, pair, tile (0 for the pairs without one); every other pair's flags agree (R411-R413, log entry 53). -/
  xing : SMap XCh
deriving DecidableEq, Repr

/-- A configured port (R430). -/
structure PortCfg where
  width : Nat
  rate : Nat
  enable : Bool
  txRev : Bool
  fecCorr : Bool
  fecInd : Bool
deriving DecidableEq, Repr

/-- The judgement of `hi_ser` (R423): codewords decoded, the count at the last raising, and of the last 8,192 those with symbol errors, each with its number. -/
structure SerWin where
  n : Nat
  since : Nat
  errs : List (Nat × Nat)
deriving DecidableEq, Repr

/-- Lanes and ports beyond the registers (R418-R445). -/
structure Lanes where
  ports : SMap PortCfg
  /-- The equalisation entry loaded into the SerDes of a lane (R429). -/
  eq : SMap (List Byte)
  /-- `check` of a lane in test (R436). -/
  test : SMap Bool
  /-- Rate-limit bucket of a port in 1/768 byte, and its time (R434). -/
  bucket : SMap (Int × Nat)
  win : SMap SerWin
  sent : List (Nat × List Byte)
  pfcSent : List (Nat × Nat × Nat)
  /-- Ports removed whose lanes are not yet OFF, with their width (R432, R443). -/
  removing : List (Nat × Nat × Option Hdr)
  /-- The last precoded level that a lane sent, and that it received (R424). -/
  preT : SMap Nat
  preR : SMap Nat
  /-- The levels sent at the balls of a physical lane, and the bit pairs that a receiver recovered on one, in order (R424, R425, R431). -/
  line : List (Nat × List Nat)
  got : List (Nat × List Nat)
  /-- Ports whose last codewords carried symbol errors that no correction removed (R421). -/
  raw : SMap Bool
  /-- Ports that send Remote Fault (R432). -/
  rf : SMap Bool
deriving DecidableEq, Repr

/-- Pins, supplies, sideband and JTAG (R446-R472). -/
structure Pkg where
  valid : Nat
  allValidAt : Nat
  resetEnded : Bool
  /-- Elapsed time of the end of RESET (R456). -/
  resetAt : Nat
  perstLow : Bool
  ready : Bool
  warnN : Bool
  critN : Bool
  alertN : Bool
  alarmAck : Nat
  hotSince : Option Nat
  /-- How long the temperature had been at the critical limit when a supply loss restarted elapsed time (R455, R458). -/
  hotHeld : Nat
  /-- The temperature conditions of the alarms, without a sensor fault (R458). -/
  hot : Bool
  burnt : Bool
  /-- Time of the last AVS write, last valid response, per half. -/
  avsAt : SMap Nat
  /-- The data of the last sideband answer, and its PEC (R470). -/
  sideband : List Byte
  pec : Nat
  ir : Nat
  /-- The bit at TDO; none while it is at high impedance (R454, R472). -/
  tdo : Option Nat
  /-- The boundary register's latched contents (R472). -/
  bsr : Nat
  /-- The sensors' own rails are known to be valid, whatever the others are (R455). -/
  therm : Bool
deriving DecidableEq, Repr

/-- The whole machine. -/
structure State where
  /-- Commands that wait, first in, first out. -/
  pending : List Instr
  /-- The register fields that do not hold their reset value, keyed field, instance, indices (R10). -/
  regs : SMap Nat
  /-- The model's own counter of free values, no state of the manual. -/
  fresh : Nat
  nextId : Nat
  frames : List Frame
  progA : Prog
  progB : Prog
  swap : Option Swap
  tables : Tables
  fdb : Fdb
  buf : Buf
  sched : Sched
  time : Time
  timed : Timed
  toa : Toa
  tel : Tel
  clove : Clove
  host : HostIf
  boot : Boot
  ras : Ras
  lanes : Lanes
  pkg : Pkg
deriving DecidableEq, Repr

/-- An EMPTY program copy (R90). -/
def Prog.empty : Prog := ⟨false, [], [], [], [], [], [], [], [], 0⟩

/-- An engine from reset: idle, all registers 0 (log entry 2). -/
def Eng.reset : Eng := ⟨[], 0, 0, 0, false, false, false, false, false, false, none, [], 0, false⟩

/-- A group id that is CLOSED with incarnation 0 (R244). -/
def Grp.reset : Grp :=
  ⟨0, 0, 0, 0, 0, 0, 0, false, false, false, false, 0, 0, 0, 0, 0, 0, 0, 0, 0, 0, 0, 0, 0, [], [], 0, 0, 0, 0, 0, 0, none, 0, []⟩

/-- A window position that is FREE (R247). -/
def Blk.reset : Blk := ⟨.free, [], [], 0, 0, [], [], 0, false⟩

/-- The host interface right after reset (R354). -/
def HostIf.reset : HostIf := ⟨[], [], [], [], [], [], [], [], [], [], [], [], [], [], [], [], [], [], [], 0, none, []⟩

/-- The machine right after reset: every register field at the value of its table (R10), every memory and queue empty. -/
def State.reset : State where
  pending := []
  regs := []
  fresh := 0
  nextId := 0
  frames := []
  progA := Prog.empty
  progB := Prog.empty
  swap := none
  tables := ⟨[], [], [], [], [], [], [], [], [], []⟩
  fdb := ⟨[], [], [], 0, 0, [], [], [], false, false, [], [], [], [], 0, 1000000000, [], [], [], [], [], [], [], []⟩
  buf := ⟨[], [], [], [], [], [], [], [], []⟩
  sched := ⟨[], [], [], [], [], 0, 0, [], [], [], []⟩
  time := ⟨0, 0, 0, 4294967296, 4294967296, none, [], none, 0, [], [], [], [], [], [], [], [], [], []⟩
  timed := ⟨[], [], none, none, 0, 0, 0, 0, none, []⟩
  toa := ⟨[], []⟩
  tel := ⟨[], [], [], 0, 0, 0, 0, true, true, [], 0, 0, [], [], [], []⟩
  clove := ⟨[], [], [], 0, 0, none, [], [], []⟩
  host := HostIf.reset
  boot := ⟨[], [], [], false, false, none, [], [], none, [], [], none⟩
  ras := ⟨[], 0, 0, 0, [], 0, 0, 0, [], [], none, [], [], [], [], [], [], [], [], [], [], []⟩
  lanes := ⟨[], [], [], [], [], [], [], [], [], [], [], [], [], []⟩
  pkg := ⟨0, 0, false, 0, false, false, true, true, true, 0, none, 0, false, false, [], [], 0, 0, none, 0, false⟩

end Sys2Proof.Machine
end

