-- ==== Sys2Proof/Machine/Operands.lean ====
section
/-!
DEFINITION. Operand forms: byte and bit fields, byte orders (R13, R14), the metadata block (R54, R77), the numbering of ports, pipes, halves and queues (R4-R7, R25, R126), and network time values (R176).
-/

namespace Sys2Proof.Machine

/-- Bits lo to lo+w-1 of a number. -/
def bits (v lo w : Nat) : Nat := v / 2 ^ lo % 2 ^ w

/-- One bit of a number. -/
def bit (v i : Nat) : Bool := v / 2 ^ i % 2 = 1

/-- A number with bits lo to lo+w-1 replaced. -/
def putBits (v lo w x : Nat) : Nat :=
  v % 2 ^ lo + x % 2 ^ w * 2 ^ lo + v / 2 ^ (lo + w) * 2 ^ (lo + w)

/-- 1 for true. -/
def b2n (b : Bool) : Nat := if b then 1 else 0

/-- The two's complement value of a w-bit field. -/
def signed (w v : Nat) : Int := if v % 2 ^ w < 2 ^ (w - 1) then ((v % 2 ^ w : Nat) : Int) else ((v % 2 ^ w : Nat) : Int) - ((2 ^ w : Nat) : Int)

/-- The w-bit two's complement code of an integer. -/
def unsigned (w : Nat) (i : Int) : Nat := (i % ((2 ^ w : Nat) : Int)).toNat

/-- The byte of a number. -/
def byteOf (v : Nat) : Byte := BitVec.ofNat 8 v

/-- A little-endian number (R13). -/
def leNat : List Byte → Nat
  | [] => 0
  | b :: bs => b.toNat + 256 * leNat bs

/-- A number as n little-endian bytes. -/
def leBytes : Nat → Nat → List Byte
  | 0, _ => []
  | n + 1, v => byteOf v :: leBytes n (v / 256)

/-- A big-endian number (R14). -/
def beNat (bs : List Byte) : Nat := leNat bs.reverse

/-- A number as n big-endian bytes. -/
def beBytes (n v : Nat) : List Byte := (leBytes n v).reverse

/-- The byte at an offset, 0 beyond the end. -/
def byteAt (bs : List Byte) (i : Nat) : Nat := (bs.getD i 0).toNat

/-- The n bytes at an offset, zeros beyond the end. -/
def slice (bs : List Byte) (off n : Nat) : List Byte :=
  let x := (bs.drop off).take n
  x ++ List.replicate (n - x.length) 0

/-- The little-endian field of n bytes at an offset. -/
def le (bs : List Byte) (off n : Nat) : Nat := leNat (slice bs off n)

/-- The big-endian field of n bytes at an offset. -/
def be (bs : List Byte) (off n : Nat) : Nat := beNat (slice bs off n)

/-- Bytes with those from an offset on overwritten, within their length. -/
def overlay (bs : List Byte) (off : Nat) (x : List Byte) : List Byte :=
  bs.take off ++ x.take (bs.length - off) ++ bs.drop (off + x.length)

/-- Bytes padded with zeros to a length. -/
def padTo (n : Nat) (bs : List Byte) : List Byte := bs ++ List.replicate (n - bs.length) 0

/-- A record from (offset, size, value) fields, little-endian, zeros elsewhere. -/
def record (n : Nat) (fs : List (Nat × Nat × Nat)) : List Byte :=
  fs.foldl (fun bs f => overlay bs f.1 (leBytes f.2.1 f.2.2)) (List.replicate n 0)

/-- Rounded-up division. -/
def ceilDiv (a b : Nat) : Nat := (a + b - 1) / b

/-- The bits lo to lo+w-1 of the metadata (R54, R77). -/
def Frame.m (f : Frame) (lo w : Nat) : Nat := bits f.md.toNat lo w

/-- The metadata with a field replaced. -/
def Frame.mset (f : Frame) (lo w v : Nat) : Frame := { f with md := BitVec.ofNat 512 (putBits f.md.toNat lo w v) }

def Frame.inPort (f : Frame) : Nat := f.m 0 11
def Frame.slice (f : Frame) : Nat := f.m 11 6
def Frame.gen (f : Frame) : Nat := f.m 17 16
def Frame.tag (f : Frame) : Nat := f.m 33 1
def Frame.pass (f : Frame) : Nat := f.m 34 3
def Frame.hash (f : Frame) : Nat := f.m 37 32
def Frame.len (f : Frame) : Nat := f.m 69 14
def Frame.payOff (f : Frame) : Nat := f.m 83 10
def Frame.dest (f : Frame) : Nat := f.m 257 11
def Frame.color (f : Frame) : Nat := f.m 271 2
def Frame.tsId (f : Frame) : Nat := f.m 179 16

/-- A container exists: 64 of 8 bits, 96 of 16 bits and 64 of 32 bits (R53). -/
def ctrOk (cls idx : Nat) : Bool := match cls with | 0 | 2 => decide (idx < 64) | 1 => decide (idx < 96) | _ => false

/-- The value of a container, 0 where it is not valid (R53) or does not exist (log entry 11). -/
def Frame.c (f : Frame) (cls idx : Nat) : Nat := if ctrOk cls idx then f.ctr.getD [cls, idx] 0 else 0

/-- Width in bits of a container class. -/
def clsW (cls : Nat) : Nat := if cls = 0 then 8 else if cls = 1 then 16 else 32

/-- Writes a container and marks it valid; an index that names none writes nothing (log entry 11). -/
def Frame.cset (f : Frame) (cls idx v : Nat) : Frame :=
  if ctrOk cls idx then { f with ctr := f.ctr.set [cls, idx] (v % 2 ^ clsW cls) } else f

/-- The half of a port (R4, R6). -/
def portHalf (p : Nat) : Half :=
  if p < 1024 then Half.of (p / 512) else if p < 1056 then Half.of ((p - 1024) / 16) else Half.of ((p - 1056) % 16 / 8)

/-- The half of a pipe. -/
def pipeHalf (p : Nat) : Half := Half.of (p / 16)

/-- The pipe whose ingress a port enters, and whose egress it leaves (R4, R25). -/
def portPipe (p : Nat) : Nat :=
  if p < 1024 then p / 32 else if p < 1056 then p - 1024 else if p < 1072 then 2 * (p - 1056) else 2 * (p - 1072) + 1

/-- The local index of a port in its half (R126). -/
def localIdx (p : Nat) : Nat :=
  if p < 1024 then p % 512 else if p < 1056 then 512 + p % 16 else if p < 1072 then 528 + p % 8 else 536 + p % 8

/-- The port of a local index of a half. -/
def portOf (h : Half) (k : Nat) : Nat :=
  if k < 512 then 512 * h.n + k else if k < 528 then 1024 + 16 * h.n + (k - 512)
  else if k < 536 then 1056 + 8 * h.n + (k - 528) else 1072 + 8 * h.n + (k - 536)

/-- The entry of a port in its pipe's PAR_ arrays (R63). -/
def parEntry (p : Nat) : Nat := if p < 1024 then p % 32 else if p < 1056 then 32 else 33

/-- The MAC rate of a port in Gb/s (R158). -/
def macRate (c : PortCfg) : Nat := c.width * (if c.rate = 0 then 200 else if c.rate = 1 then 100 else 50)

/-- Units of a network time value per nanosecond. -/
def tsNs : Nat := 4294967296

/-- Units per second. -/
def tsSec : Nat := 1000000000 * tsNs

/-- The modulus of network time: 64-bit seconds (R176). -/
def tsMod : Nat := 18446744073709551616 * tsSec

def tSec (t : Ts) : Nat := t / tsSec
def tNs (t : Ts) : Nat := t % tsSec / tsNs

/-- The 32-bit internal fraction rounded to 16 bits, a carry included (R176). -/
def tRound (t : Ts) : Ts := (t + 32768) / 65536 * 65536

/-- The rounded value's fraction in 2^-16 ns. -/
def tFrac (t : Ts) : Nat := tRound t % tsNs / 65536

/-- The 64-bit form of `ts_in`: seconds, nanoseconds, fraction (R54). -/
def tsIn (t : Ts) : Nat :=
  let r := tRound t
  tSec r % 65536 * 2 ^ 48 + tNs r * 2 ^ 16 + r % tsNs / 65536

/-- Whole nanoseconds of a time value. -/
def tTotalNs (t : Ts) : Nat := t / tsNs

/-- CRC-32C of a byte string from a start register, reflected polynomial 0x1EDC6F41, without the final XOR (R64). -/
def crcStep (r : Nat) (b : Byte) : Nat :=
  (List.range 8).foldl (fun r _ => if r % 2 = 1 then (r / 2) ^^^ 0x82F63B78 else r / 2) (r ^^^ b.toNat)

/-- CRC-32C with a seed (R64). -/
def crc32c (seed : Nat) (bs : List Byte) : Nat :=
  (bs.foldl crcStep (seed % 2 ^ 32 ^^^ 0xFFFFFFFF)) ^^^ 0xFFFFFFFF

/-- The frame check sequence of IEEE 802.3: CRC-32 with the reflected polynomial 0x04C11DB7 (PRESUMED: log entry 10). -/
def fcsStep (r : Nat) (b : Byte) : Nat :=
  (List.range 8).foldl (fun r _ => if r % 2 = 1 then (r / 2) ^^^ 0xEDB88320 else r / 2) (r ^^^ b.toNat)

/-- The four FCS bytes of a frame's other bytes, as transmitted. -/
def fcs (bs : List Byte) : List Byte := leBytes 4 ((bs.foldl fcsStep 0xFFFFFFFF) ^^^ 0xFFFFFFFF)

/-- Bytes with an FCS appended, padded to 64 bytes in all (R67). -/
def withFcs (bs : List Byte) : List Byte := let x := padTo 60 bs; x ++ fcs x

/-- The frame's last four bytes are its FCS. -/
def fcsOk (bs : List Byte) : Bool := bs.drop (bs.length - 4) = fcs (bs.take (bs.length - 4))

end Sys2Proof.Machine
end

