-- ==== Sys2Proof/Machine/Flags.lean ====
section
/-!
DEFINITION. Arithmetic with its side results: the operations of the action units, whose results wrap (R76), and the ALU of a Clove engine with its flags Z, C and N (R297).
-/

namespace Sys2Proof.Machine

/-- The arithmetic and logic of an action program on w-bit operands; results wrap (R76). A shift by the operand width or more gives 0 (DESIGN CHOICE: log entry 23). -/
def aluOp (op : Config.AluOp) (w a b : Nat) : Nat :=
  let a := a % 2 ^ w
  let b := b % 2 ^ w
  match op with
  | .add => (a + b) % 2 ^ w
  | .sub => (a + 2 ^ w - b) % 2 ^ w
  | .and => a &&& b
  | .or => a ||| b
  | .xor => a ^^^ b
  | .shl => if w ≤ b then 0 else a * 2 ^ b % 2 ^ w
  | .shr => if w ≤ b then 0 else a / 2 ^ b

/-- The result of a Clove ALU operation, none for the codes that write nothing: NOP and CMP (R300). `tick` is the elapsed time. -/
def cloveAlu (op a b tick : Nat) : Option Nat :=
  let m := 2 ^ 64
  match op with
  | 1 => some ((a + b) % m)
  | 2 => some ((a + m - b) % m)
  | 3 => some (a &&& b)
  | 4 => some (a ||| b)
  | 5 => some (a ^^^ b)
  | 6 => some (a * 2 ^ (b % 64) % m)
  | 7 => some (a / 2 ^ (b % 64))
  | 8 => some (unsigned 64 (signed 64 a / ((2 ^ (b % 64) : Nat) : Int)))
  | 9 => some b
  | 11 => some (min a b)
  | 12 => some (max a b)
  | 13 => some (crc32c (a % 2 ^ 32) (leBytes 8 b))
  | 14 => some (bits a (b % 64) (bits b 8 6))
  | 15 => some (tick % m)
  | _ => none

/-- The value whose sign and zero test set N and Z: the result, and A − B for CMP (R300). -/
def cloveFlagValue (op a b tick : Nat) : Nat :=
  if op = 10 then (a + 2 ^ 64 - b) % 2 ^ 64 else (cloveAlu op a b tick).getD 0

/-- The carry of ADD; the manual does not say what C holds after another operation, where `free` stands for it (R300, log entry 22). -/
def cloveCarry (op a b : Nat) (free : Bool) : Bool := if op = 1 then decide (2 ^ 64 ≤ a + b) else free

end Sys2Proof.Machine
end

