-- ==== Sys2Proof/Machine/Ops.lean ====
section
/-!
DEFINITION. The shared operations over the state: the register field store (R9, R10), memories, network time, host memory writes, interrupts, events (R349-R352), descriptor checks and completions (R336-R343), and the mode (R387-R391).
-/

namespace Sys2Proof.Machine

/-- The value a field holds, at its instance and element. -/
def State.rd (s : State) (f : Fld) (ix : List Nat) : Nat :=
  match s.regs.get? (f.ctorIdx :: ix) with
  | some v => v
  | none => f.reset ix

/-- Sets a field to a value of its width. -/
def State.st (s : State) (f : Fld) (ix : List Nat) (v : Nat) : State :=
  { s with regs := s.regs.put (f.ctorIdx :: ix) (v % 2 ^ f.info.w) (f.reset ix) }

/-- A field read as a flag. -/
def State.on (s : State) (f : Fld) (ix : List Nat) : Bool := s.rd f ix ≠ 0

/-- Adds to a counter or count field, modulo its width (R278). -/
def State.bump (s : State) (f : Fld) (ix : List Nat) (n : Nat) : State := s.st f ix (s.rd f ix + n)

/-- Takes from a count field. -/
def State.lower (s : State) (f : Fld) (ix : List Nat) (n : Nat) : State := s.st f ix (s.rd f ix - n)

/-- Several fields set in order. -/
def State.sts (s : State) (ws : List (Fld × List Nat × Nat)) : State :=
  ws.foldl (fun s w => s.st w.1 w.2.1 w.2.2) s

/-- A fresh free value, and the counter advanced. -/
def State.draw (s : State) : Nat × State := (Config.freeValue s.fresh, { s with fresh := s.fresh + 1 })

/-- The byte a memory lists at an address. -/
def Memory.get? : Memory → Nat → Option Byte
  | [], _ => none
  | (b, v) :: m, a => if b = a then some v else Memory.get? m a

/-- A memory with one byte set. -/
def Memory.set : Memory → Nat → Byte → Memory
  | [], a, v => [(a, v)]
  | (b, w) :: m, a, v =>
    if a = b then (a, v) :: m else if a < b then (a, v) :: (b, w) :: m else (b, w) :: Memory.set m a v

/-- A memory without an address. -/
def Memory.erase : Memory → Nat → Memory
  | [], _ => []
  | (b, w) :: m, a => if a = b then m else (b, w) :: Memory.erase m a

/-- Writes a byte of a memory whose unlisted bytes read as 0. -/
def Memory.put (m : Memory) (a : Nat) (v : Byte) : Memory := if v = 0 then m.erase a else m.set a v

/-- Writes bytes at rising addresses. -/
def Memory.setBytes : Memory → Nat → List Byte → Memory
  | m, _, [] => m
  | m, a, b :: bs => Memory.setBytes (m.set a b) (a + 1) bs

/-- Writes bytes of a memory whose unlisted bytes read as 0. -/
def Memory.putBytes : Memory → Nat → List Byte → Memory
  | m, _, [] => m
  | m, a, b :: bs => Memory.putBytes (m.put a b) (a + 1) bs

/-- Reads n bytes, unlisted bytes as 0. -/
def Memory.bytes (m : Memory) (a n : Nat) : List Byte := (List.range n).map (fun i => (m.get? (a + i)).getD 0)

/-- The device's writes to host memory (R334). -/
def State.hostWrite (s : State) (a : Nat) (bs : List Byte) : State :=
  { s with host := { s.host with mem := s.host.mem.setBytes a bs } }

/-- Network time as a half holds it (R179). -/
def State.now (s : State) (h : Half) : Ts := match h with | .E => s.time.tE | .W => s.time.tW

/-- Time-base elapsed time in ticks of 1 ns (R177). -/
def State.elapsed (s : State) : Nat := s.time.elapsed

/-- The device's mode (R387). -/
def State.mode (s : State) : Nat := s.rd .SYS_MODE_mode [0]

/-- The bridge is not lost. -/
def State.bridgeUp (s : State) : Bool := s.on .RAS_OWN_STAT_bridge_up [0]

/-- A half's ownership state: 0 OWNER, 1 FOLLOWER, 2 UNRESOLVED (R394). -/
def State.own (s : State) (h : Half) : Nat := s.rd .RAS_OWN_STAT_state [h.n]

/-- Ownership between the halves is unresolved (R338, R394). -/
def State.unresolved (s : State) : Bool := s.own .E = 2 || s.own .W = 2

/-- The owner half; East while neither half is OWNER. -/
def State.owner (s : State) : Half := if s.own .W = 0 then .W else .E

/-- Both halves. -/
def halves : List Half := [.E, .W]

/-- The frame or copy of a number. -/
def State.fr? (s : State) (id : Nat) : Option Frame := s.frames.find? (fun f => f.id = id)

/-- Replaces a frame. -/
def State.setFr (s : State) (f : Frame) : State :=
  { s with frames := s.frames.map (fun g => if g.id = f.id then f else g) }

/-- Takes a frame out of the device. -/
def State.delFr (s : State) (id : Nat) : State := { s with frames := s.frames.filter (fun g => g.id ≠ id) }

/-- Adds a new frame under the next number. -/
def State.addFr (s : State) (f : Frame) : State :=
  { s with frames := s.frames ++ [{ f with id := s.nextId }], nextId := s.nextId + 1 }

/-- A frame goes to the end of the frames: within a pipe, a queue or a FIFO the order of the list is the order of waiting (R35, log entry 69). -/
def State.toEnd (s : State) (f : Frame) : State := { s with frames := s.frames.filter (fun g => g.id ≠ f.id) ++ [f] }

/-- Some frame that came before a frame meets a test (R35). -/
def State.behind (s : State) (f : Frame) (p : Frame → Bool) : Bool := (s.frames.takeWhile (fun g => decide (g.id ≠ f.id))).any p

/-- The entries of a ring (R331, HST_RING_CFG). -/
def State.ringSize (s : State) (fn r : Nat) : Nat := 2 ^ (max 6 (min 16 (s.rd .HST_RING_CFG_log2_size [fn, r])))

/-- The host address of a ring's slot for a count. -/
def State.slotAddr (s : State) (fn r esz n : Nat) : Nat :=
  s.rd .HST_RING_BASE_base [fn, r] * 4096 + esz * (n % s.ringSize fn r)

/-- The phase bit of a count (R333). -/
def State.phase (s : State) (fn r n : Nat) : Nat := (n / s.ringSize fn r + 1) % 2

/-- The device's count of a ring. -/
def State.devIdx (s : State) (fn r : Nat) : Nat := s.rd .HST_RING_STAT_dev_idx [fn, r]

/-- Software's count of a ring. -/
def State.swIdx (s : State) (fn r : Nat) : Nat := s.host.swCnt.getD [fn, r] 0

/-- A ring is enabled and not stopped, and its function is neither in D3hot nor being reset (R326, R332, R354). -/
def State.ringUp (s : State) (fn r : Nat) : Bool :=
  s.on .HST_RING_CFG_en [fn, r] && (s.host.stopped.get? [fn, r]).isNone && !(s.host.d3.getD [fn] false) && !s.host.flr.contains fn

/-- Free entries of a ring that the device produces. -/
def State.ringSpace (s : State) (fn r : Nat) : Nat :=
  s.ringSize fn r - (s.devIdx fn r + 2 ^ 32 - s.swIdx fn r) % 2 ^ 32

/-- Entries waiting in a ring that software produces. -/
def State.ringWaiting (s : State) (fn r : Nat) : Nat := (s.swIdx fn r + 2 ^ 32 - s.devIdx fn r) % 2 ^ 32

/-- MSI-X Enable and Function Mask of a function's message control (R326, R352, log entry 31). -/
def State.msixEn (s : State) (fn : Nat) : Bool := bit (s.host.msixCtl.getD [fn] 0) 15
def State.msixFnMask (s : State) (fn : Nat) : Bool := bit (s.host.msixCtl.getD [fn] 0) 14

/-- Sends an MSI-X message, or sets the pending bit of a masked vector (R352); a function whose MSI-X is not enabled signals nothing. -/
def State.msixSend (s : State) (fn vec : Nat) : State :=
  let e := s.host.msix.getD [fn, vec] (Msix.mk 0 0 true false)
  if ¬ s.msixEn fn then s
  else if e.masked || s.msixFnMask fn then { s with host := { s.host with msix := s.host.msix.set [fn, vec] { e with pend := true } } }
  else { s with host := { s.host with msgs := s.host.msgs ++ [(fn, vec)] } }

/-- A hold-off of a vector begins, for the `coal_us` of the ring that signalled it; none where that is 0 (R352). -/
def State.holdBegin (s : State) (fn vec r : Nat) : State :=
  let us := s.rd .HST_RING_CFG_coal_us [fn, r]
  if us = 0 then s
  else { s with host := { s.host with hold := s.host.hold.set [fn, vec] false, holdEnd := s.host.holdEnd.set [fn, vec] (s.elapsed + us * 1000, r) } }

/-- Signals the vector of a ring, at most once per `coal_us` (R352). -/
def State.signal (s : State) (fn r : Nat) : State :=
  let vec := s.rd .HST_RING_CFG_vec [fn, r]
  match s.host.hold.get? [fn, vec] with
  | some _ => { s with host := { s.host with hold := s.host.hold.set [fn, vec] true } }
  | none => (s.msixSend fn vec).holdBegin fn vec r

/-- Writes an entry to a ring that the device produces, its last byte position carrying the phase in `phaseAt` bit `phaseBit`, and signals it on demand (R333, R334). -/
def State.ringPut (s : State) (fn r : Nat) (ent : List Byte) (phaseAt phaseBit : Nat) (sig : Bool) : State :=
  let n := s.devIdx fn r
  let b := byteAt ent phaseAt + s.phase fn r n * 2 ^ phaseBit
  let ent := overlay ent phaseAt [byteOf b]
  let s := s.hostWrite (s.slotAddr fn r ent.length n) ent
  let s := s.st .HST_RING_STAT_dev_idx [fn, r] (n + 1)
  if sig then s.signal fn r else s

/-- Writes one event record to a function's event ring, or counts it lost (R349, R351). In Fallback mode only PF0's rings are served (R392). -/
def State.eventTo (s : State) (fn : Nat) (e : Evt) : State :=
  let t := s.now (Half.of (e.half % 2))
  let one (s : State) (code : Nat) (pl : List Byte) : State :=
    let sq := s.host.evtSeq.getD [fn] 0
    let s := { s with host := { s.host with evtSeq := s.host.evtSeq.set [fn] ((sq + 1) % 2 ^ 32) } }
    s.ringPut fn 8 (record 16 [(0, 2, code), (2, 1, e.half), (4, 4, sq), (8, 4, tNs t), (12, 4, tSec t)] ++ padTo 48 (pl.take 32)) 3 7 true
  let lost := s.host.evtLost.getD [fn] 0
  let drop (s : State) : State :=
    { s with host := { s.host with evtLost := s.host.evtLost.set [fn] (s.host.evtLost.getD [fn] 0 + 1) } }.bump .HST_CNT_v [0, 0] 1
  if ¬ s.ringUp fn 8 ∨ (fn ≠ 0 ∧ s.mode = 6) then s
  else if s.ringSpace fn 8 = 0 then drop s
  else if lost = 0 then one s e.code e.payload
  else
    let s := one { s with host := { s.host with evtLost := s.host.evtLost.erase [fn] } } 0x0001 (leBytes 4 lost)
    if s.ringSpace fn 8 = 0 then drop s else one s e.code e.payload

/-- Raises an event: PF0 receives every event; `vf` names the function that receives a copy while its `evt_fwd` is 1 (R351). -/
def State.raise (s : State) (code half : Nat) (fs : List (Nat × Nat × Nat)) (vf : Option Nat := none) : State :=
  let e : Evt := ⟨code, half, record 32 fs⟩
  let s := { s with host := { s.host with events := s.host.events ++ [e] } }
  let s := s.eventTo 0 e
  match vf with
  | some v => if v ≠ 0 && s.on .HST_FN_evt_fwd [0, v] then s.eventTo v e else s
  | none => s

/-- What a performance counter's filters look at: master 1 pipeline, 2 engine, 3 unit, 4 host DMA, and its index; the byte address; the class bit; the function whose descriptor caused the work, none for the device (R289). -/
structure PmcEv where
  mst : Nat
  idx : Nat
  addr : Nat
  cls : Nat
  fn : Option Nat
deriving DecidableEq, Repr

/-- A performance counter counts an event (R288, R289). -/
def State.pmcPass (s : State) (h : Half) (i ev : Nat) (e : PmcEv) : Bool :=
  let ix := [h.n, i]
  let all := decide (1 ≤ ev ∧ ev ≤ 3)
  let priv := match s.rd .PMC_CFG_priv ix with
    | 0 => true
    | 1 => e.fn = some 0
    | 2 => e.fn = some (s.rd .PMC_CFG_vf ix + 1)
    | _ => e.fn = none
  let m := s.rd .PMC_CFG_mst ix
  let mst := m = 0 || 4 < m || (m = e.mst && (3 < m || (decide (s.rd .PMC_CFG_mst_lo ix ≤ e.idx) && decide (e.idx ≤ s.rd .PMC_CFG_mst_hi ix))))
  let addr := !s.on .PMC_CFG_addr_en ix || (decide (s.rd .PMC_ADDR_lo ix ≤ e.addr) && decide (e.addr ≤ s.rd .PMC_ADDR_hi ix))
  let cls := bit (s.rd .PMC_CFG_cls ix) e.cls
  s.rd .PMC_CFG_event ix = ev
    && (!(all || ev = 5 || ev = 6 || ev = 8 || ev = 10) || priv)
    && (!(all || (4 ≤ ev && ev ≤ 7) || ev = 13) || mst)
    && (!(all || ev = 13) || addr)
    && (!(all || ev = 9) || cls)

/-- Raises PMC_THRESH of a counter whose count has passed its threshold, once (R289). -/
def State.pmcThresh (s : State) (h : Half) (i : Nat) : State :=
  if s.rd .PMC_CNT_v [h.n, i] ≤ s.rd .PMC_THRESH_v [h.n, i] ∨ s.tel.raised.getD [h.n, i] 0 = 1 then s
  else ({ s with tel := { s.tel with raised := s.tel.raised.set [h.n, i] 1 } }).raise 0x0062 h.n [(0, 1, h.n), (1, 1, i)]

/-- Counts n occurrences of an event in the performance counters of a half. -/
def State.pmc (s : State) (h : Half) (ev : Nat) (e : PmcEv) (n : Nat) : State :=
  (List.range 16).foldl (fun s i => if s.pmcPass h i ev e then (s.bump .PMC_CNT_v [h.n, i] n).pmcThresh h i else s) s

/-- The device itself as the cause of an access. -/
def pmcDev (mst idx addr cls : Nat) : PmcEv := ⟨mst, idx, addr, cls, none⟩

/-- The ring engine's half of a descriptor (R338). -/
def State.ringHalf (s : State) (d : Hdr) : Half := Half.of (s.rd .HST_RING_CFG_half [d.fn, d.ring])

/-- The completion status codes of R342, R385 and R416. -/
def stOk : Nat := 0
def stReject : Nat := 1
def stOwner : Nat := 2
def stParam : Nat := 3
def stBadOp : Nat := 4
def stDma : Nat := 5

/-- Some engine that a routine's mask names serves it: none that is OFFLINE does (R302, R305). -/
def State.routineUp (s : State) (h : Half) (r : Nat) : Bool :=
  (List.range 16).any (fun e => bit (s.rd .CLV_ROUTE_mask [h.n, r]) e && decide (s.rd .CLV_ENG_STAT_state [h.n, e] ≠ 3))

/-- A message on the bridge that is no frame cell, counted in the half that sends it (R21, R288, R289). -/
def State.bridgeMsg (s : State) (h : Half) : State := s.pmc h 9 (pmcDev 0 0 0 1) 1

/-- The lowest engine named in the mask of a routine. -/
def State.routineEngine (s : State) (h : Half) (r : Nat) : Nat :=
  ((List.range 16).find? (fun e => bit (s.rd .CLV_ROUTE_mask [h.n, r]) e)).getD 15

/-- The routine queue of a half (R302). -/
def State.rq (s : State) (h : Half) (r : Nat) : List RtEv := s.clove.rq.getD [h.n, r] []

/-- Replaces a routine queue. -/
def State.setRq (s : State) (h : Half) (r : Nat) (q : List RtEv) : State :=
  { s with clove := { s.clove with rq := s.clove.rq.put [h.n, r] q [] } }

/-- A routine queue takes another event: the manual gives no capacity, and an empty queue takes one (R301, log entry 45). -/
def State.rqRoom (s : State) (h : Half) (r : Nat) : Bool := (s.rq h r).isEmpty || decide ((s.rq h r).length < Config.routineCap)

/-- Posts an event to a routine queue; a full queue takes none (R301). -/
def State.rqPost (s : State) (h : Half) (r : Nat) (ev : RtEv) : Bool × State :=
  if 10 ≤ r ∨ ¬ s.rqRoom h r then (false, s) else (true, s.setRq h r (s.rq h r ++ [ev]))

/-- An event without a descriptor stands in a routine queue. -/
def State.posted (s : State) (h : Half) (r : Nat) (body : List Word) : Bool := (s.rq h r).contains ⟨body, false, none⟩

/-- Posts an event without a descriptor to a routine queue (R302), unless it stands there already or the queue is full (R301). -/
def State.postWork (s : State) (h : Half) (r : Nat) (body : List Word) : State :=
  if s.posted h r body then s else (s.rqPost h r ⟨body, false, none⟩).2

/-- A piece of work is taken: its event leaves its routine's queue, if it stands there (R302). -/
def State.takeWork (s : State) (h : Half) (r : Nat) (body : List Word) : State :=
  if s.posted h r body then s.setRq h r ((s.rq h r).erase ⟨body, false, none⟩) else s

/-- Work of a routine: its event is posted, and an engine that the routine's mask names takes it and does the work. Without such an engine the event waits in the queue; where the queue is full, the work waits outside it (R301, R302). -/
def State.viaRoutine (s : State) (h : Half) (r : Nat) (body : List Word) (op : State → State) : State :=
  if ¬ s.routineUp h r then s.postWork h r body
  else if s.posted h r body || s.rqRoom h r then op (s.takeWork h r body) else s

/-- Work of a routine is done when its command comes: an engine serves it, and its queue holds its event or has room for it (R301, R302). -/
def State.serves (s : State) (h : Half) (r : Nat) (body : List Word) : Bool := s.routineUp h r && (s.posted h r body || s.rqRoom h r)

/-- The value that a crossing holds while its request is not acknowledged (R411). -/
def State.xingAt (s : State) (h : Half) (pair tile : Nat) : Option XCh := s.ras.xing.get? [h.n, pair, tile]

/-- A crossing's request is not acknowledged. -/
def State.xingBusy (s : State) (h : Half) (pair tile : Nat) : Bool := (s.xingAt h pair tile).isSome

/-- An event is lost at a crossing that has not acknowledged the value before it (R412). -/
def State.xingLost (s : State) (h : Half) (pair : Nat) : State :=
  let v := s.rd .RAS_XSTAT_ovr [h.n]
  (if bit v pair then s else s.st .RAS_XSTAT_ovr [h.n] (v + 2 ^ pair)).bump .RAS_CNT_v [h.n, 10] 1

/-- An event crosses a pair and does `op`, or is lost there (R411, R412). -/
def State.xingSend (s : State) (h : Half) (pair tile : Nat) (op : State → State) : State :=
  if s.xingBusy h pair tile then s.xingLost h pair else op s

/-- Refreshes `busy` of a ring from the descriptors taken and not finished. -/
def State.busyOf (s : State) (fn r : Nat) : State :=
  s.st .HST_RING_STAT_busy [fn, r] (b2n (s.host.taken.any (fun t => t.hdr.fn = fn && t.hdr.ring = r)))

/-- Two descriptor headers name one descriptor: function, ring and count (R332). -/
def sameHdr (a b : Hdr) : Bool := a.fn = b.fn && a.ring = b.ring && a.cnt = b.cnt

/-- The routine queues without the event of a descriptor. -/
def State.unpost (s : State) (d : Hdr) : State :=
  let own (v : RtEv) : Bool := match v.desc with | some x => sameHdr x d | none => false
  { s with clove := { s.clove with rq := s.clove.rq.filterMap (fun q =>
      let l := q.2.filter (fun v => !own v)
      if l.isEmpty then none else some (q.1, l)) } }

/-- Writes a completion: the extended result to the descriptor's slot, then the entry of the paired ring (R334, R337, R340). -/
def State.cplWrite (s : State) (w : CplWait) : State :=
  let d := w.hdr
  let s := match w.ext with
    | some x => s.hostWrite (s.slotAddr d.fn d.ring 64 d.cnt + 32) (padTo 32 (x.take 32))
    | none => s
  s.ringPut d.fn (d.ring + 4)
    (record 16 [(0, 4, d.tag), (4, 2, w.status), (6, 1, w.st), (7, 1, 2 * b2n w.ext.isSome), (8, 8, w.result)]) 7 0 d.irq

/-- An engine of the RING routine writes the completions that wait in a half, in order (R302). One that meets a crossing not acknowledged is lost there (R411, R412, log entry 53). -/
def State.lateRun (s : State) (h : Half) : State :=
  if ¬ s.routineUp h 8 then s
  else
    let ws := s.host.late.filter (fun w => s.ringHalf w.hdr = h)
    let s := { s with host := { s.host with late := s.host.late.filter (fun w => s.ringHalf w.hdr ≠ h) } }
    ws.foldl (fun (s : State) w => (s.unpost w.hdr).xingSend h 5 0 (fun s => s.cplWrite w)) s

/-- Finishes a descriptor: it leaves its ring's list, and its completion is an event of the RING routine, whose engine writes it (R302, R334, R337, R340). The completion of a descriptor that a function reset found started is discarded (R354). -/
def State.completeX (s : State) (d : Hdr) (status st result : Nat) (ext : Option (List Byte)) : State :=
  let lost := s.host.voidC.any (fun x => sameHdr x d)
  let s := { s with host := { s.host with
    cpls := s.host.cpls ++ [Cpl.mk d.fn d.ring d.tag status st result]
    taken := s.host.taken.filter (fun t => !sameHdr t.hdr d)
    starts := s.host.starts.filter (fun x => !sameHdr x d)
    voidC := s.host.voidC.filter (fun x => !sameHdr x d) } }
  let s := (s.unpost d).busyOf d.fn d.ring
  let s := if d.ring < 4 then s.pmc (s.ringHalf d) 8 ⟨2, 0, 0, 0, some d.fn⟩ 1 else s
  if lost ∨ ¬ s.on .HST_RING_CFG_en [d.fn, d.ring + 4] then s
  else
    let h := s.ringHalf d
    let s := { s with host := { s.host with late := s.host.late ++ [CplWait.mk d status st result ext] } }
    if s.routineUp h 8 then s.lateRun h else (s.rqPost h 8 ⟨[BitVec.ofNat 64 d.tag], false, some d⟩).2

/-- Finishes a descriptor without an extended result. -/
def State.complete (s : State) (d : Hdr) (status st result : Nat) : State := s.completeX d status st result none

/-- Completes OK with a result. -/
def State.ok (s : State) (d : Hdr) (result : Nat) : State := s.complete d stOk 0 result

/-- Completes with a failed status. -/
def State.fail (s : State) (d : Hdr) (status : Nat) : State := s.complete d status 0 0

/-- Completes STATE_REJECT with a state. -/
def State.reject (s : State) (d : Hdr) (st : Nat) : State := s.complete d stReject st 0

/-- The rows of the table of R391. -/
inductive Legal where
  | any
  | reads
  | claim
  | config
  | maint
  | inject
  | imageWrite
  | enroll
  | retry
deriving DecidableEq, Repr

/-- What R336, R338, R353 and R391 ask of an opcode. -/
structure Rule where
  code : Nat
  legal : Legal
  changes : Bool
  vf : Bool
  /-- 0: `halves` must be zero; 1: one bit; 2: at least one bit. -/
  halves : Nat
deriving DecidableEq, Repr

/-- The `halves` of a descriptor fit its opcode (R336, R338). -/
def halvesFit (d : Hdr) (k : Nat) : Bool :=
  match k with
  | 0 => !d.halfE && !d.halfW
  | 1 => d.halfE != d.halfW
  | _ => d.halfE || d.halfW

/-- The half that a one-bit `halves` names. -/
def Hdr.half (d : Hdr) : Half := if d.halfW then .W else .E

/-- The halves that a descriptor names. -/
def Hdr.hs (d : Hdr) : List Half := (if d.halfE then [Half.E] else []) ++ (if d.halfW then [Half.W] else [])

/-- The mode check of R338 and R391: none when legal, else state and result of STATE_REJECT. In start-up, mode 0, no descriptor is legal (log entry 7). An operation that began in Autonomous mode can still run after a claim, and refuses a second one (R389). -/
def State.illegal (s : State) (l : Legal) : Option (Nat × Nat) :=
  let m := s.mode
  let bad : Option (Nat × Nat) := some (m, 0)
  match l with
  | .any => if m = 0 then bad else none
  | .reads => if m = 0 ∨ m = 1 then bad else none
  | .claim => if m = 2 then none else bad
  | .config => if m = 3 ∨ m = 4 ∨ m = 5 then none else bad
  | .maint =>
    if (m = 3 ∨ m = 4) ∧ s.rd .SYS_MODE_maint_op [0] = 0 then none
    else if 3 ≤ m ∧ m ≤ 5 then some (0x2A, s.rd .SYS_MODE_maint_op [0]) else bad
  | .inject => if m = 3 ∨ m = 4 then none else bad
  | .imageWrite => if m = 0 ∨ m = 1 then bad else none
  | .enroll => if m = 3 ∨ m = 4 ∨ m = 6 then none else bad
  | .retry => if m = 6 then none else bad

/-- A descriptor has been fetched and is not finished (R339). -/
def State.isTaken (s : State) (d : Hdr) : Bool := s.host.taken.any (fun t => sameHdr t.hdr d)

/-- The checks of R338 in their order: none when the descriptor may run, else its completion. `own` says that it names what its function may name, and `desc_en` is tested when it is fetched (R353); `clean` that every reserved byte is zero; `bridgeTrain` marks a LINK_RETRAIN of the bridge group, which R415 accepts without resolved ownership, and R403 in Maintenance mode while the bridge is lost. -/
def State.refusal (s : State) (d : Hdr) (r : Rule) (own clean bridgeTrain : Bool) : Option (Nat × Nat × Nat) :=
  if d.fn ≠ 0 ∧ (¬ r.vf ∨ ¬ own ∨ (¬ s.on .HST_FN_desc_en [0, d.fn] ∧ ¬ s.isTaken d)) then some (stReject, 0x10, 0)
  else if ¬ clean ∨ ¬ halvesFit d r.halves then some (stParam, 0, 0)
  else if r.changes ∧ s.unresolved ∧ ¬ bridgeTrain then some (stOwner, 0, 0)
  else if s.mode = 6 ∧ d.fn ≠ 0 then some (stReject, 6, 0)
  else match s.illegal r.legal with
    | some (st, res) => if bridgeTrain ∧ ¬ s.bridgeUp ∧ 3 ≤ s.mode ∧ s.mode ≤ 5 then none else some (stReject, st, res)
    | none => none

/-- Runs a descriptor: its checks, then its operation (R338). -/
def State.serveX (s : State) (d : Hdr) (r : Rule) (own clean bridgeTrain : Bool) (op : State → State) : State :=
  match s.refusal d r own clean bridgeTrain with
  | some (st, stt, res) => s.complete d st stt res
  | none => op s

/-- Runs a descriptor without a special case. -/
def State.serve (s : State) (d : Hdr) (r : Rule) (own clean : Bool) (op : State → State) : State :=
  s.serveX d r own clean false op

/-- Runs a descriptor that reads its host buffer: DMA_ERROR where the read fails (R338). -/
def State.withBuf (s : State) (d : Hdr) (op : List Byte → State) : State :=
  match d.buf with
  | none => (s.fail d stDma).bump .HST_CNT_v [0, 3] 1
  | some b => op b

/-- The slice that a function owns: S(v-1) of VF v (R323). -/
def fnSlice (fn : Nat) : Nat := fn - 1

/-- A VF names its own slice; PF0 any (R353). -/
def ownSlice (d : Hdr) (sl : Nat) : Bool := d.fn = 0 || sl = fnSlice d.fn

/-- The 21-byte string of a key (R95). -/
def FKey.bytes (k : FKey) : List Byte := beBytes 1 (k.slice % 64) ++ beBytes 1 k.kind ++ beBytes 3 k.scope ++ beBytes 16 k.addr

/-- The hash of a key under a half's seed (R95). -/
def State.fdbHash (s : State) (h : Half) (k : FKey) : Nat := crc32c (s.rd .FDB_SEED_seed [h.n]) k.bytes

/-- The bucket of a key (R95). -/
def State.fdbBucket (s : State) (h : Half) (k : FKey) : Nat := s.fdbHash h k % 1048576

/-- The key of a descriptor. -/
def fkeyOf (k : KeyArg) (d : Hdr) : FKey := ⟨d.slice, k.kind, k.scope, k.addr⟩

/-- A descriptor as its 64 bytes spell it, without what its host buffer returns (R336). -/
def bareHdr (d : Hdr) : Hdr := { d with buf := none }

/-- The object that a descriptor's command names, empty for none (R339). The group of TOA_GROUP_OPEN stands in its host buffer: as long as the model has not been given the buffer, a free value stands for the group (log entry 70). -/
def State.objectOf (s : State) (c : Instr) : List Nat :=
  match c with
  | .tblWrite d .. | .tblRead d .. | .sliceCommit d | .sliceAbort d | .sliceQuota d .. => [1, d.slice]
  | .fdbInsert d k .. | .fdbDelete d k | .fdbUnfreeze d k => [2, s.fdbBucket .E (fkeyOf k d)]
  | .fdbRead d mode k idx => if mode = 0 then [2, s.fdbBucket .E (fkeyOf k d)] else if mode = 1 then [2, idx] else []
  | .lock _ b | .unlock _ b | .fdbWayWrite _ b _ => [2, b]
  | .portFlush _ p | .portRestart _ p | .portSet _ p .. => [3, p]
  | .policerSet _ n .. => [4, n]
  | .toaGroupOpen d => [5, match d.buf with | some b => le b 0 2 | none => Config.openGroup s.fresh d.haddr]
  | .toaGroupClose _ g | .toaMemberSet _ g _ | .toaGroupRead _ g => [5, g]
  | .gateLoad _ p .. => [6, p]
  | .epochLoad .. | .epochStop _ => [7]
  | .patchLoad _ | .patchArm .. => [8]
  | _ => []

/-- Two descriptors name the same object (R339). -/
def sameObject (a b : List Nat) : Bool := a ≠ [] && a = b

/-- The descriptors taken from a ring and not finished, in ring order. -/
def State.takenOf (s : State) (fn r : Nat) : List Taken := s.host.taken.filter (fun t => t.hdr.fn = fn && t.hdr.ring = r)

/-- A descriptor of an object and a `fence` is held by those ahead of it in its ring (R339). -/
def heldBy (ahead : List Taken) (object : List Nat) (fence : Bool) : Bool :=
  ahead.any (fun a => sameObject a.object object || (a.hdr.fence && !a.started)) || (fence && !ahead.isEmpty)

/-- A taken descriptor. -/
def State.taken? (s : State) (d : Hdr) : Option Taken := s.host.taken.find? (fun t => sameHdr t.hdr d)

/-- The object of a command as its descriptor's buffer, once given, spells it (R339). -/
def State.objectNow (s : State) (c : Instr) (d : Hdr) : List Nat :=
  match c with
  | .toaGroupOpen _ => s.objectOf (.toaGroupOpen d)
  | c => s.objectOf c

/-- The operation of a descriptor may take effect: the descriptor has been fetched, spells this command, and has started, and nothing ahead of it names the group that the buffer of a TOA_GROUP_OPEN turns out to hold; one that was never fetched stands behind those its ring has taken (R339, R341, log entry 70). -/
def State.descDue (s : State) (c : Instr) (d : Hdr) : Bool :=
  match s.taken? d with
  | some t => t.started && !t.ran && decide (t.cmd = c)
      && (t.object = s.objectNow c d || !heldBy ((s.takenOf d.fn d.ring).takeWhile (fun a => !sameHdr a.hdr d)) (s.objectNow c d) false)
  | none => !heldBy (s.takenOf d.fn d.ring) (s.objectNow c d) d.fence

/-- Of the descriptors of some opcodes that have started and wait for their turn, none started earlier (R371, R382). -/
def State.turnOf (s : State) (d : Hdr) (codes : List Nat) : Bool :=
  !(s.host.starts.takeWhile (fun x => !sameHdr x d)).any (fun x => match s.taken? x with | some t => !t.ran && codes.contains t.opcode | none => false)

/-- A taken descriptor's operation takes effect once. -/
def State.descRun (s : State) (d : Hdr) : State :=
  match s.taken? d with
  | some _ => { s with host := { s.host with taken := s.host.taken.map (fun (t : Taken) => if sameHdr t.hdr d then { t with ran := true } else t) } }
  | none => s

/-- A descriptor's operation waits and is tried again when its command comes again: it has not taken effect. -/
def State.descWait (s : State) (d : Hdr) : State :=
  { s with host := { s.host with taken := s.host.taken.map (fun (t : Taken) => if sameHdr t.hdr d then { t with ran := false } else t) } }

/-- Changes mode, base mode and maintenance report, and raises MODE_CHANGE (R388). -/
def State.setMode (s : State) (mode base op : Nat) : State :=
  let old := s.mode
  let oldB := s.rd .SYS_MODE_base_mode [0]
  let s := s.sts [(.SYS_MODE_mode, [0], mode), (.SYS_MODE_base_mode, [0], base), (.SYS_MODE_maint_op, [0], op)]
  if old = mode ∧ oldB = base then s
  else s.raise 0x0110 2 [(0, 1, old), (1, 1, mode), (2, 1, base), (3, 1, op)]

/-- Starts a Maintenance operation (R388, R389): in Autonomous mode the mode stays. -/
def State.maintStart (s : State) (op : Nat) : State :=
  if s.mode = 3 ∨ s.mode = 4 then s.setMode 5 s.mode op else s.st .SYS_MODE_maint_op [0] op

/-- Ends a Maintenance operation (R388); a retrain that ran beside it goes on as the operation in progress (R403). -/
def State.maintEnd (s : State) : State :=
  if ¬ s.ras.train.isEmpty then s.st .SYS_MODE_maint_op [0] 4
  else if s.mode = 5 then s.setMode (s.rd .SYS_MODE_base_mode [0]) (s.rd .SYS_MODE_base_mode [0]) 0
  else s.st .SYS_MODE_maint_op [0] 0

/-- Starts a two-half step: the owner sends PREPARE with the next number; E is the first multiple of 256 ticks at least 1,024 ticks away (R395). -/
def State.request (s : State) (k : StepKind) (d : Option Hdr) (result : Nat) : State :=
  let n := (s.ras.nextSeq + 1) % 2 ^ 32
  { s with ras := { s.ras with
    nextSeq := n
    steps := s.ras.steps ++ [⟨k, d, s.owner, n, ceilDiv (s.elapsed + 1024) 256 * 256, false, false, false, false, result⟩] } }

/-- The ALARM byte (R470, R471). -/
def State.alarm (s : State) : Nat :=
  b2n (s.on .SYS_THERM_warn [0]) + 2 * b2n (s.on .SYS_THERM_crit [0]) + 4 * b2n (s.on .SYS_THERM_sens_fault [0])
    + 8 * b2n (s.on .SYS_AVS_avs_err [0, 0] || s.on .SYS_AVS_avs_err [0, 1]) + 16 * b2n (s.on .SYS_SUPPLY_low [0])

/-- Recomputes the pins that follow the registers: READY (R468), THERM_WARN_N and THERM_CRIT_N (R458), and SMB_ALERT_N, which from the end of RESET is low while a bit of ALARM is set that was clear at its last release (R454, R471). -/
def settle (s : State) : State :=
  { s with pkg := { s.pkg with
    ready := decide (2 ≤ s.mode ∧ s.mode ≤ 5)
    warnN := !s.on .SYS_THERM_warn [0]
    critN := !s.on .SYS_THERM_crit [0]
    alertN := !s.pkg.resetEnded || decide (s.alarm &&& s.pkg.alarmAck = s.alarm) } }

/-- Ends a command: the pins settle and the machine goes on. -/
def done (s : State) : Host.Outcome State Fault Refusal := .next (settle s)

/-- Runs the operation of a descriptor that the command `c` spells; while the descriptor is held or has not started, nothing happens (R339). -/
def doneDesc (c : Instr) (d : Hdr) (op : State → State) (s : State) : Host.Outcome State Fault Refusal :=
  if s.descDue c d then done (op (s.descRun d)) else done s

end Sys2Proof.Machine
end

