-- ==== Sys2Proof/Machine/Drops.lean ====
section
/-!
DEFINITION. What happens where a frame ends: release of its reference count (R86, R396), drop counters and drop records (R40, R272, R281), the telemetry record (R266, R267), the samplers (R269) and the exporter (R273-R275).
-/

namespace Sys2Proof.Machine

/-- A frame with nothing set. -/
def Frame.blank : Frame where
  id := 0
  loc := .input
  bytes := []
  md := 0
  ctr := []
  hdrs := List.replicate 24 ⟨0, 0, 0, 0, false⟩
  pipe := 0
  rhalf := .E
  stage := 0
  mirror := false
  regMiss := false
  fdbRes := none
  learn := none
  ip := (0, 0)
  launch := none
  range := 0
  out := 0x7FF
  tc := 0
  cells := 0
  share := 0
  pg := none
  hdrmReq := false
  hdrm := false
  queue := 0x3FFF
  rsv := 0
  pool := 0
  ce := false
  epoch := 0
  depth := 0
  poolFree := 0
  enqNs := 0
  tRef := 0
  timed := false
  tStart := 0
  lateDone := false
  lMiss := none
  sizeTested := false
  counted := 0
  stomp := false
  telExp := false
  unit := 0
  ring := false
  nmAct := 0
  nmPort := 0
  trapPort := 0
  trapTc := 0
  fd := 0
  chain := []
  tIn := 0
  purge := false
  payAt := 0
  fills := []

/-- A frame that waits at the ingress of an internal port, with its slice and class (R55, R56, R54). -/
def Frame.atPort (bytes : List Byte) (port sl tc : Nat) : Frame :=
  (({ Frame.blank with bytes := bytes, pipe := portPipe port }.mset 0 11 port).mset 11 6 sl).mset 268 3 tc

/-- Releases the frame's reference count; `h` is the half where it ends (R86). While that half is UNRESOLVED a release owed to the other half is deferred (R396). -/
def State.release (s : State) (h : Half) (f : Frame) : State :=
  let k := f.gen % 4
  if f.rhalf = h then s.lower .SLC_REFCNT_count [h.n, f.slice, k] 1
  else if s.own h = 2 then
    { s with ras := { s.ras with deferred := s.ras.deferred.set [f.rhalf.n, f.slice, k] (s.ras.deferred.getD [f.rhalf.n, f.slice, k] 0 + 1) } }.bump .RAS_CNT_v [h.n, 13] 1
  else { s with tables := { s.tables with refRel := s.tables.refRel ++ [(f.rhalf, f.slice, k)] } }.bridgeMsg h

/-- Adds one to the reference counter that a copy of a frame holds (R45, R86). -/
def State.refAdd (s : State) (f : Frame) : State := s.bump .SLC_REFCNT_count [f.rhalf.n, f.slice, f.gen % 4] 1

/-- The latency field: from `ts_in` to an instant, by the low 16 bits of the seconds (R267). -/
def latency (f : Frame) (t : Ts) : Nat :=
  let a := f.m 115 64
  let sec (x : Nat) : Int := ((x / 2 ^ 48 : Nat) : Int)
  let sub (x : Nat) : Int := (((x / 2 ^ 16 % 2 ^ 32) * 65536 + x % 2 ^ 16 : Nat) : Int)
  let b := tsIn t
  let d := signed 16 (unsigned 16 (sec b - sec a)) * 65536000000000 + (sub b - sub a)
  if d < 0 then 0 else min 0xFFFFFFFF (d.toNat / 65536)

/-- A telemetry record: type 1 transit or 2 drop (R266). -/
def telRecord (s : State) (h : Half) (f : Frame) (typ cause : Nat) (t : Ts) : List Byte :=
  [byteOf (16 + typ),
   byteOf (b2n f.timed + 2 * b2n f.ce + 4 * b2n (f.pass > 0) + 8 * f.m 103 1 + 16 * b2n f.hdrm + 32 * (f.tc % 8))]
  ++ beBytes 2 (s.rd .TEL_CFG_dev_id [h.n]) ++ beBytes 2 f.inPort ++ beBytes 2 f.out ++ beBytes 2 f.queue
  ++ [byteOf f.slice, byteOf cause] ++ beBytes 2 f.gen ++ [byteOf (f.pass + 8 * f.tag), 0]
  ++ beBytes 4 f.hash ++ beBytes 4 (f.m 131 32) ++ beBytes 4 (latency f t)
  ++ beBytes 4 (f.depth % 2 ^ 20 + f.poolFree / 256 % 2 ^ 12 * 2 ^ 20)

/-- A session's sampler: `who` is the pipe, or 32 + half for drops (R269, R272). -/
def State.sample (s : State) (h : Half) (who sess hash : Nat) : Bool × State :=
  let rate := s.rd .TEL_SESS_rate [h.n, sess]
  match s.rd .TEL_SESS_samp [h.n, sess] with
  | 0 => (true, s)
  | 1 =>
    let c := s.tel.samp.getD [who, sess] 0 + 1
    let hit := decide (max 1 rate ≤ c)
    (hit, { s with tel := { s.tel with samp := s.tel.samp.put [who, sess] (if hit then 0 else c) 0 } })
  | 2 => let (u, s) := s.draw; (decide (u % 65536 < rate), s)
  | _ => (decide (hash % 65536 < rate), s)

/-- The records in a half's exporter FIFO. -/
def State.expFifo (s : State) (h : Half) : List (List Byte) := match h with | .E => s.tel.fifoE | .W => s.tel.fifoW

/-- Replaces a half's exporter FIFO and its occupancy field. -/
def State.setExpFifo (s : State) (h : Half) (q : List (List Byte)) : State :=
  (match h with
    | .E => { s with tel := { s.tel with fifoE := q } }
    | .W => { s with tel := { s.tel with fifoW := q } }).st .TEL_EXP_STAT_fifo [h.n] q.length

/-- The records that make an export frame full (R274). -/
def State.expBatch (s : State) (h : Half) : Nat := max 1 (min 32 (s.rd .TEL_EXP_CFG_batch [h.n]))

/-- No frame waits at the input of an internal port (R27). -/
def State.portClear (s : State) (port : Nat) : Bool :=
  !(s.frames.any (fun f => f.loc = .input && f.inPort = port))

/-- An engine of the TEL routine emits an export frame of up to a batch of records (R274, R302); the records wait while the host port has no ingress slot. -/
def State.exportEmit (s : State) (h : Half) : State :=
  let q := s.expFifo h
  let n := min q.length (s.expBatch h)
  let port := 1056 + 8 * h.n + s.rd .TEL_EXP_CFG_exp_port [h.n]
  if n = 0 ∨ ¬ s.portClear port then s
  else s.viaRoutine h 9 [0, 1] fun s =>
    let sq := s.rd .TEL_EXP_STAT_seq [h.n]
    let bytes := withFcs (beBytes 6 (s.rd .TEL_EXP_HDR_exp_dmac [h.n]) ++ beBytes 6 (s.rd .TEL_EXP_HDR_exp_smac [h.n])
      ++ beBytes 2 (s.rd .TEL_EXP_HDR_exp_etype [h.n]) ++ [1, byteOf n, byteOf h.n, 0] ++ beBytes 4 sq ++ (q.take n).flatten)
    let s := s.setExpFifo h (q.drop n)
    let s := match h with
      | .E => { s with tel := { s.tel with firstE := s.elapsed } }
      | .W => { s with tel := { s.tel with firstW := s.elapsed } }
    let s := (s.st .TEL_EXP_STAT_seq [h.n] (sq + 1)).bump .TEL_CNT_v [h.n, 3] 1
    s.addFr (Frame.atPort bytes port 0 (s.rd .TEL_EXP_CFG_exp_tc [h.n]))

/-- Writes the device's count of a ring to its write-back address and signals it (R332, R352). -/
def State.writeBack (s : State) (fn r : Nat) : State :=
  let a := s.rd .HST_RING_WB_wb_addr [fn, r]
  if a = 0 then s else (s.hostWrite (a * 4) (leBytes 4 (s.devIdx fn r))).signal fn r

/-- Writes a record as one entry of PF0's telemetry ring of a half, or loses it there (R275). -/
def State.telRing (s : State) (h : Half) (rec : List Byte) : State :=
  let r := 9 + h.n
  if ¬ s.ringUp 0 r ∨ s.ringSpace 0 r = 0 then s.bump .TEL_CNT_v [h.n, 1] 1
  else
    let n := s.devIdx 0 r
    let s := s.hostWrite (s.slotAddr 0 r 32 n) rec
    (s.st .HST_RING_STAT_dev_idx [0, r] (n + 1)).writeBack 0 r

/-- With `target` = 1 the records leave the FIFO for the ring, in the order in which they entered (R273, R275). -/
def State.telDrain (s : State) (h : Half) : State :=
  if s.rd .TEL_EXP_CFG_target [h.n] ≠ 1 ∨ (s.expFifo h).isEmpty then s
  else (s.expFifo h).foldl (fun s r => s.telRing h r) (s.setExpFifo h [])

/-- Offers a record to a half's exporter, which takes it into its FIFO (R273, R274, R275). -/
def State.telOffer (s : State) (h : Half) (rec : List Byte) : State :=
  let q := s.expFifo h
  if 4096 ≤ q.length then s.bump .TEL_CNT_v [h.n, 0] 1
  else
    let s := if q.isEmpty then
        match h with
        | .E => { s with tel := { s.tel with firstE := s.elapsed } }
        | .W => { s with tel := { s.tel with firstW := s.elapsed } }
      else s
    let s := s.setExpFifo h (q ++ [rec])
    if s.rd .TEL_EXP_CFG_target [h.n] = 1 then s.telDrain h
    else if s.expBatch h ≤ (s.expFifo h).length then s.exportEmit h else s

/-- Counts a drop by cause and offers its record (R272, R281). -/
def State.dropCount (s : State) (h : Half) (cause : Nat) (f : Frame) (record : Bool) : State :=
  let s := s.bump .TEL_DROP_CNT_v [h.n, cause] 1
  if record && s.on .TEL_CFG_drop_en [h.n] then
    let (hit, s) := s.sample h (32 + h.n) (s.rd .TEL_CFG_drop_sess [h.n]) f.hash
    if hit then s.telOffer h (telRecord s h f 2 cause (s.now h)) else s
  else s

/-- A frame ends at a drop point: counted, its reference count released, taken out (R40, R86). -/
def State.dropFr (s : State) (h : Half) (cause : Nat) (f : Frame) : State :=
  ((s.dropCount h cause f true).release h f).delFr f.id

end Sys2Proof.Machine
end

