-- ==== Sys2Proof/Machine/Common.lean ====
section
/-!
DEFINITION. Operations that many blocks share: the passing of time (R177, R179), interrupt lines of the Clove engines (R306), performance counters (R288, R289), ECC errors and the retirement they trigger (R404, R408, R414), crossings, and the checks of descriptor fields that an opcode does not use (R336).
-/

namespace Sys2Proof.Machine

/-- The edges of a clock of num/den GHz after elapsed time a, up to elapsed time b (R17). -/
def clocksIn (num den a b : Nat) : Nat := num * b / den - num * a / den

/-- The performance counters of a half count the core clocks (1.5 GHz) and the Clove clocks (750 MHz) of a time that passes (R17, R288). -/
def State.pmcClocks (s : State) (a b : Nat) (h : Half) : State :=
  (s.pmc h 11 (pmcDev 0 0 0 0) (clocksIn 3 2 a b)).pmc h 12 (pmcDev 0 0 0 0) (clocksIn 3 4 a b)

/-- Time passes up to an elapsed time: both halves' network time counts on at its increment (R177, R179), and the cycle events are counted (R288). The past is left as it is. -/
def State.runTo (s : State) (t : Nat) : State :=
  if t ≤ s.time.elapsed then s
  else
    let a := s.time.elapsed
    let d := t - a
    let s := { s with time := { s.time with
      elapsed := t
      tE := (s.time.tE + d * s.time.incE) % tsMod
      tW := (s.time.tW + d * s.time.incW) % tsMod } }
    halves.foldl (fun (s : State) (h : Half) => s.pmcClocks a t h) s

/-- Time passes by some nanoseconds. -/
def State.runFor (s : State) (d : Nat) : State := s.runTo (s.time.elapsed + d)

/-- The next multiple of m after t. -/
def nextMultiple (m t : Nat) : Nat := (t / m + 1) * m

/-- The rate of a half's network time (R180). -/
def State.incOf (s : State) (h : Half) : Nat := match h with | .E => s.time.incE | .W => s.time.incW

/-- Network time as the far side of a crossing has it: the half's own, or what the last acknowledged value has become at its rate (R189, R411). -/
def State.timeAcross (s : State) (h : Half) (pair tile : Nat) : Ts :=
  match s.xingAt h pair tile with
  | some x => (x.val + (s.elapsed - x.since) * x.inc) % tsMod
  | none => s.now h

/-- The tile, within its half, of a front-panel port (R4). -/
def portTile (p : Nat) : Nat := p / 128 % 4

/-- The tile's copy of the time counter (R189). -/
def State.tileNow (s : State) (port : Nat) : Ts := s.timeAcross (portHalf port) 1 (portTile port)

/-- A request at an interrupt line of a local engine; one that finds the line pending, or the crossing held, overruns (R306, R412). -/
def State.irq (s : State) (h : Half) (e line : Nat) : State :=
  let p := s.rd .CLV_ENG_STAT_irq_pend [h.n, e]
  let pair := if line = 4 then 4 else 3
  if bit p line || s.xingBusy h pair 0 then ((s.st .CLV_ENG_STAT_irq_ovr [h.n, e] 1).bump .CLV_CNT_v [h.n, e, 2] 1).xingLost h pair
  else s.st .CLV_ENG_STAT_irq_pend [h.n, e] (p + 2 ^ line)

/-- A request at a line of every engine named in the mask of a routine (R302, R306). -/
def State.irqRoutine (s : State) (h : Half) (r line : Nat) : State :=
  (List.range 16).foldl (fun s e => if bit (s.rd .CLV_ROUTE_mask [h.n, r]) e then s.irq h e line else s) s

/-- A request at a line of every engine of a half. -/
def State.irqAll (s : State) (h : Half) (line : Nat) : State := (List.range 16).foldl (fun s e => s.irq h e line) s

/-- Spare banks of a class for one pipe, unit or half (R404). -/
def spareTotal (cls : Nat) : Nat := match cls with | 0 => 4 | 1 => 2 | 2 => 8 | 3 => 16 | 4 => 2 | _ => 0

/-- Spares of a class still free for an instance of a half. -/
def State.spareLeft (s : State) (cls : Nat) (h : Half) (inst : Nat) : Nat :=
  spareTotal cls - (s.ras.retired.filter (fun r => r.1.take 3 = [cls, h.n, inst])).length

/-- A bank is retired, or its retirement waits or runs. -/
def State.retireKnown (s : State) (cls : Nat) (h : Half) (inst bank : Nat) : Bool :=
  let same (m : Maint) : Bool := m.op = 3 && m.half = h && m.cls = cls && m.inst = inst && m.bank = bank
  s.ras.retired.getD [cls, h.n, inst, bank] false || s.ras.queueM.any same || (match s.ras.job with | some m => same m | none => false)

/-- A retirement starts: a spare is taken, and the copy begins as an event of the RAS routine (R303, R409). -/
def State.retireStart (s : State) (m : Maint) : State :=
  let s := { s with ras := { s.ras with job := some m } }
  let h := m.half.n
  let s := s.sts [(.RAS_RETIRE_STAT_state, [h], 2), (.RAS_RETIRE_STAT_class, [h], m.cls), (.RAS_RETIRE_STAT_instance, [h], m.inst),
    (.RAS_RETIRE_STAT_bank, [h], m.bank), (.RAS_RETIRE_STAT_done, [h], 0)]
  (s.maintStart 3).postWork m.half 1 [BitVec.ofNat 64 m.bank]

/-- A Maintenance operation runs, a retrain alongside another included (R389, R403). -/
def State.maintBusy (s : State) : Bool := s.on .SYS_MODE_maint_op [0] || !s.ras.train.isEmpty

/-- An automatic trigger of a bank retirement (R408): it starts at once, waits while another operation runs (R389), or no spare is left. -/
def State.retireAuto (s : State) (cls : Nat) (h : Half) (inst bank : Nat) : State :=
  if 5 ≤ cls ∨ s.retireKnown cls h inst bank then s
  else if s.spareLeft cls h inst = 0 then s.raise 0x011A h.n [(0, 1, cls), (1, 1, h.n), (2, 1, inst)]
  else if ¬ s.maintBusy ∧ s.ras.queueM.isEmpty then s.retireStart (Maint.mk 3 h cls inst bank none)
  else
    let s := { s with ras := { s.ras with queueM := s.ras.queueM ++ [Maint.mk 3 h cls inst bank none] } }
    let s := s.st .SYS_MODE_maint_queued [0] 1
    if s.rd .RAS_RETIRE_STAT_state [h.n] = 0 then
      s.sts [(.RAS_RETIRE_STAT_state, [h.n], 1), (.RAS_RETIRE_STAT_class, [h.n], cls), (.RAS_RETIRE_STAT_instance, [h.n], inst),
        (.RAS_RETIRE_STAT_bank, [h.n], bank), (.RAS_RETIRE_STAT_done, [h.n], 0)]
    else s

/-- The entries of a half's ECC log. -/
def State.eccLog (s : State) (h : Half) : List (Nat × Nat) := match h with | .E => s.ras.logE | .W => s.ras.logW

/-- Replaces a half's ECC log. -/
def State.setEccLog (s : State) (h : Half) (q : List (Nat × Nat)) : State :=
  match h with
  | .E => { s with ras := { s.ras with logE := q } }
  | .W => { s with ras := { s.ras with logW := q } }

/-- Logs an ECC event: the two words of RAS_ERR (R414). -/
def State.eccLogPut (s : State) (h : Half) (ue : Bool) (cls inst bank row : Nat) : State :=
  let k := [cls, h.n, inst, bank]
  let us := s.elapsed / 1000
  if ¬ ue ∧ s.ras.logAt.get? k = some us then s
  else
    let s := if ue then s else { s with ras := { s.ras with logAt := s.ras.logAt.set k us } }
    if 64 ≤ (s.eccLog h).length then s.bump .RAS_CNT_v [h.n, 12] 1
    else
      let t := s.now h
      let w0 := 1 + 2 * b2n ue + 4 * cls + 32 * inst + 1024 * bank + 4194304 * row
      s.setEccLog h (s.eccLog h ++ [(w0, tNs t + tSec t % 2 ^ 32 * 2 ^ 32)])

/-- A poisoned word has a copy from which it can be repaired: class 1 another pipe of the half, class 2 the other half while the bridge is up, class 5 the ROM's duplicate (R404). -/
def State.ueCan (s : State) (h : Half) (cls inst bank row : Nat) : Bool :=
  let good (h : Half) (i : Nat) : Bool := decide (s.ras.poison.getD [cls, h.n, i, bank, row] 0 < 2)
  match cls with
  | 1 => (List.range 16).any (fun p => p ≠ inst && good h p)
  | 2 => s.bridgeUp && good h.other inst
  | 5 => decide (row + bank * 4096 < 0xC000)
  | _ => false

/-- A read finds an ECC error in a word: kind 1 corrected, 2 uncorrectable (R404, R408). ECC_UE shows whether the word has a repair (log entry 71). -/
def State.eccError (s : State) (h : Half) (cls inst bank row kind : Nat) (e : PmcEv) : State :=
  if kind = 1 then
    let s := (s.bump .RAS_CNT_v [h.n, 0] 1).eccLogPut h false cls inst bank row
    let s := s.pmc h 13 e 1
    let k := [cls, h.n, inst, bank]
    let win := max 1 (s.rd .RAS_ECC_CFG_ce_window_s [h.n]) * 1000000000
    let log := ((s.ras.ceLog.getD k []).filter (fun t => decide (s.elapsed < t + win))) ++ [s.elapsed]
    let s := { s with ras := { s.ras with ceLog := s.ras.ceLog.set k log } }
    let th := s.rd .RAS_ECC_CFG_ce_thresh [h.n]
    if th ≠ 0 ∧ th ≤ log.length then s.retireAuto cls h inst bank else s
  else
    let s := (s.bump .RAS_CNT_v [h.n, 1] 1).eccLogPut h true cls inst bank row
    let s := s.raise 0x0118 h.n [(0, 1, cls), (1, 1, h.n), (2, 1, inst), (4, 2, bank), (6, 2, row), (8, 1, b2n (s.ueCan h cls inst bank row))]
    let s := s.irqRoutine h 1 3
    if s.on .RAS_ECC_CFG_ue_retire [h.n] then s.retireAuto cls h inst bank else s

/-- A read of a word by bank and row: whether it is poisoned, and the effects of its errors. A single-bit error stays until the word is written or scrubbed. -/
def State.eccRead (s : State) (h : Half) (cls inst bank row : Nat) (e : PmcEv) : Bool × State :=
  match s.ras.poison.getD [cls, h.n, inst, bank, row] 0 with
  | 0 => (false, s)
  | 1 => (false, s.eccError h cls inst bank row 1 e)
  | _ => (true, s.eccError h cls inst bank row 2 e)

/-- A write of a word clears its error (R404). -/
def State.eccClear (s : State) (h : Half) (cls inst bank row : Nat) : State :=
  { s with ras := { s.ras with poison := s.ras.poison.erase [cls, h.n, inst, bank, row] } }

/-- A read of a word of classes 1-4 by its own address, whose bank and row the manual does not give. -/
def State.eccReadAt (s : State) (h : Half) (cls inst : Nat) (addr : List Nat) (e : PmcEv) : Bool × State :=
  let p := Config.eccPlace cls addr
  s.eccRead h cls inst p.1 p.2 { e with addr := Config.eccAddr cls addr }

/-- A write of a word of classes 1-4 by its own address. -/
def State.eccClearAt (s : State) (h : Half) (cls inst : Nat) (addr : List Nat) : State :=
  let p := Config.eccPlace cls addr
  s.eccClear h cls inst p.1 p.2

/-- The host port index of a packet ring (R331, `host_port`). -/
def State.ringPort (s : State) (fn r : Nat) : Nat := if fn = 0 then r % 16 else s.rd .HST_RING_CFG_host_port [fn, r]

/-- The half whose ring engine serves a ring: `half` for a command ring and its completions, the half of the host port for a packet ring (R6, R331); a telemetry ring lies in its own half, and the rest in East. -/
def State.ringEngine (s : State) (fn r : Nat) : Half :=
  if r < 8 then Half.of (s.rd .HST_RING_CFG_half [fn, r % 4])
  else if r < 16 then Half.of (r - 9)
  else if s.ringPort fn r < 8 then .E else .W

/-- The frame that waits first at a host port. -/
def State.rxHead (s : State) (k : Nat) : Option Frame := s.frames.find? (fun f => f.loc = .hostPort && f.out = 1056 + k)

/-- A receive ring pair can be used: enabled and not stopped, by an error or by a stall (R346, R347). -/
def State.rxUsable (s : State) (fn r : Nat) : Bool := s.ringUp fn r && s.ringUp fn (r + 16)

/-- The function and RXB ring of a frame at a host port, and whether it was sent to PF0 because its VF's ring could not be used (R346, R347). -/
def State.rxRing (s : State) (k : Nat) (f : Frame) : Nat × Nat × Bool :=
  let v := f.slice + 1
  if ¬ s.on .HST_FN_rx_en [0, v] then (0, 32 + k, false)
  else match [32, 33].find? (fun r => s.ringPort v (r + 16) = k && s.rxUsable v r) with
    | some r => (v, r, false)
    | none => (0, 32 + k, [32, 33].any (fun r => s.ringPort v (r + 16) = k))

/-- RXB slots that a frame needs (R346). -/
def State.rxNeed (s : State) (fn r len : Nat) : Nat := ceilDiv len (max 2 (min 16 (s.rd .HST_RING_CFG_buf_kib [fn, r])) * 1024)

/-- Slots and a completion entry are free for a frame (R346). -/
def State.rxFits (s : State) (fn r len : Nat) : Bool := decide (s.rxNeed fn r len ≤ s.ringWaiting fn r) && decide (1 ≤ s.ringSpace fn (r + 16))

/-- PF0's ring of host port index k lacks free slots for the frame that waits, or for any, or is disabled (R347). -/
def State.pf0Full (s : State) (k : Nat) : Bool :=
  !s.rxUsable 0 (32 + k) || !s.rxFits 0 (32 + k) (match s.rxHead k with | some f => (if (s.rxRing k f).1 = 0 then f.bytes.length else 1) | none => 1)

/-- Keeps since when a VF's receive ring has lacked slots for the frame that waits first at host port index k (R347). -/
def State.lackNote (s : State) (k : Nat) : State :=
  let here := s.host.lack.filter (fun e => match e.1 with | [v, r] => decide (s.ringPort v (r + 16) ≠ k) | _ => false)
  match s.rxHead k with
  | none => { s with host := { s.host with lack := here } }
  | some f =>
    let (v, r, _) := s.rxRing k f
    if v = 0 ∨ s.rxFits v r f.bytes.length then { s with host := { s.host with lack := here } }
    else { s with host := { s.host with lack := SMap.set here [v, r] (s.host.lack.getD [v, r] s.elapsed) } }

/-- The fields that every descriptor carries are zero where its opcode does not use them, and the slice exists (R336, R338). -/
def cleanHdr (d : Hdr) (slice token buf : Bool) : Bool :=
  (if slice then decide (d.slice < 64) else d.slice = 0) && (token || d.token = 0) && (buf || (d.haddr = 0 && d.hlen = 0))

/-- A host's access to a register does not reach the device: it is held in reset (R355), or the register lies in West and no host link works (R401). -/
def State.regOff (s : State) (west : Bool) : Bool :=
  !s.pkg.resetEnded || (west && (List.range 2).all (fun l => s.rd .GLB_LINK_STAT_state [10, l] ≠ 2 && s.rd .GLB_LINK_STAT_state [10, l] ≠ 3))

/-- Runs an access of a host to a register of a half, where it reaches the device. -/
def doneReg (west : Bool) (op : State → State) (s : State) : Host.Outcome State Fault Refusal := done (if s.regOff west then s else op s)

/-- The rule of an opcode. -/
def opRule (code : Nat) (legal : Legal) (changes vf : Bool) (halves : Nat) : Rule := ⟨code, legal, changes, vf, halves⟩

end Sys2Proof.Machine
end

