-- ==== Sys2Proof/Machine/Fdb.lean ====
section
/-!
DEFINITION. The forwarding database (R93-R123): keys, buckets and the two copies, lookups and their stamps, learning, ageing, bucket locks, the FDB descriptors, port flush deletion, the bridge outage and the resynchronisation.
-/

namespace Sys2Proof.Machine

/-- The bucket number under which the overflow store is kept. -/
def ovfBucket : Nat := 1048576

/-- A key with a kind the manual reserves, or a nonzero bit that its kind requires to be zero (R94). -/
def FKey.bad (k : FKey) : Bool :=
  match k.kind with
  | 0 => decide (2 ^ 24 ≤ k.scope) || decide (2 ^ 48 ≤ k.addr)
  | 1 => decide (2 ^ 16 ≤ k.scope) || decide (2 ^ 32 ≤ k.addr)
  | 2 => decide (2 ^ 16 ≤ k.scope) || decide (2 ^ 128 ≤ k.addr)
  | _ => true

/-- The owner of a bucket (R95). -/
def bucketOwner (b : Nat) : Half := Half.of (b % 2)

/-- The entry at a place, bucket and way, or overflow bucket and index, in a half's copy. -/
def State.fdbAt (s : State) (h : Half) (place : List Nat) : Option FdbEnt := s.fdb.ents.get? (h.n :: place)

/-- The overflow entries of a half's copy: index and entry. -/
def State.fdbOvf (s : State) (h : Half) : List (Nat × FdbEnt) :=
  s.fdb.ents.filterMap (fun e => match e.1 with
    | [x, b, i] => if x = h.n ∧ b = ovfBucket then some (i, e.2) else none
    | _ => none)

/-- The overflow entries of a bucket in a half's copy. -/
def State.fdbOvfOf (s : State) (h : Half) (b : Nat) : List (Nat × FdbEnt) := (s.fdbOvf h).filter (fun e => s.fdbBucket h e.2.key = b)

/-- The places where a key may stand in a half's copy, ways first (R101). -/
def State.fdbPlaces (s : State) (h : Half) (k : FKey) : List (List Nat) :=
  let b := s.fdbBucket h k
  ((List.range 4).map (fun w => [b, w]) ++ (s.fdbOvf h).map (fun e => [ovfBucket, e.1])).filter
    (fun p => match s.fdbAt h p with | some e => e.key = k | none => false)

/-- The place of a key in a half's copy: a way before the overflow store, the lower way first. -/
def State.fdbFind (s : State) (h : Half) (k : FKey) : Option (List Nat) := (s.fdbPlaces h k).head?

/-- Counts an entry of a half's copy in or out (FDB_OCC, FDB_SLICE_USE). -/
def State.fdbCount (s : State) (h : Half) (place : List Nat) (e : Option FdbEnt) (up : Bool) : State :=
  match e with
  | none => s
  | some x =>
    let f : Fld := if place.head? = some ovfBucket then .FDB_OCC_ovf_used else .FDB_OCC_bucket_used
    if up then (s.bump f [h.n] 1).bump .FDB_SLICE_USE_used [h.n, x.key.slice] 1
    else (s.lower f [h.n] 1).lower .FDB_SLICE_USE_used [h.n, x.key.slice] 1

/-- Writes an entry of one copy, which clears any error of its word (R97, R404); a lookup tag of the place then holds the stamp written, which is what stands if the tag's own stamp write is skipped (R102). -/
def State.fdbPut (s : State) (h : Half) (place : List Nat) (e : Option FdbEnt) : State :=
  let s := s.fdbCount h place (s.fdbAt h place) false
  let s := s.fdbCount h place e true
  let s := s.eccClearAt h 2 0 place
  match e with
  | some x => { s with fdb := { s.fdb with ents := s.fdb.ents.set (h.n :: place) x, tags := s.fdb.tags.map (fun t => if t.1 = h ∧ t.2.1 = place then (t.1, t.2.1, t.2.2.1, x.stamp, t.2.2.2.2) else t) } }
  | none => { s with fdb := { s.fdb with ents := s.fdb.ents.erase (h.n :: place) } }

/-- An access of an engine of a routine to a table, for a function's descriptor or for the device (R289). -/
def State.engEv (s : State) (h : Half) (r : Nat) (fn : Option Nat) : PmcEv := ⟨2, s.routineEngine h r, 0, 0, fn⟩

/-- Counts an engine's access to a word of a table: class 0 a read, 1 a write (R288, R289). -/
def State.dma (s : State) (h : Half) (ev : PmcEv) (mem : Nat) (addr : List Nat) (cls : Nat) : State :=
  if ev.mst = 2 then s.pmc h 3 { ev with addr := Config.eccAddr mem addr, cls := cls } 1 else s

/-- An engine of the owner writes its own copy and, while the bridge is up, the other copy (R119, R121). -/
def State.fdbBoth (s : State) (o : Half) (place : List Nat) (e : Option FdbEnt) (ev : PmcEv) : State :=
  let s := (s.fdbPut o place e).dma o ev 2 place 1
  if s.bridgeUp then (s.fdbPut o.other place e).bridgeMsg o else s

/-- Reads words of a half's copy for a cause: those that are not poisoned, with every error reported (R104, R404). -/
def State.fdbScan (s : State) (h : Half) (places : List (List Nat)) (ev : PmcEv) : List (List Nat) × State :=
  places.foldl (fun (a : List (List Nat) × State) p =>
    let r := (a.2.dma h ev 2 p 0).eccReadAt h 2 0 p ev
    (if r.1 then a.1 else a.1 ++ [p], r.2)) ([], s)

/-- A half's copy has a word with an error. A word without one and without an entry has no effect on a search, and so the searches below name such words only where this holds. -/
def State.fdbFlawed (s : State) (h : Half) : Bool := s.ras.poison.any (fun e => e.1.take 2 = [2, h.n])

/-- The words of a half's copy that a pipeline lookup compares: the ways of the bucket and the whole overflow store (R101). -/
def State.fdbWords (s : State) (h : Half) (b : Nat) : List (List Nat) :=
  (List.range 4).map (fun w => [b, w]) ++ (if s.fdbFlawed h then List.range 16384 else (s.fdbOvf h).map (fun e => e.1)).map (fun i => [ovfBucket, i])

/-- The words that an engine searches: the ways of the bucket and its overflow entries (R108). -/
def State.fdbOwnWords (s : State) (h : Half) (b : Nat) : List (List Nat) := (List.range 4).map (fun w => [b, w]) ++ (s.fdbOvfOf h b).map (fun e => [ovfBucket, e.1])

/-- The first of some places whose entry holds a key. -/
def State.fdbPick (s : State) (h : Half) (k : FKey) (ps : List (List Nat)) : Option (List Nat) :=
  ps.find? (fun p => match s.fdbAt h p with | some e => e.key = k | none => false)

/-- An engine's search for a key in a half's copy (R108, R404). -/
def State.fdbSeek (s : State) (h : Half) (k : FKey) (ev : PmcEv) : Option (List Nat) × State :=
  let r := s.fdbScan h (s.fdbOwnWords h (s.fdbBucket h k)) ev
  (r.2.fdbPick h k r.1, r.2)

/-- Where a new entry of a bucket goes: the lowest free way, else the lowest free overflow index of the owner's range (R98). -/
def State.fdbFree (s : State) (o : Half) (b : Nat) : Option (List Nat) :=
  match (List.range 4).find? (fun w => (s.fdbAt o [b, w]).isNone) with
  | some w => some [b, w]
  | none =>
    let used := (s.fdbOvf o).map (fun e => e.1)
    let base := 8192 * o.n
    ((List.range (used.length + 1)).find? (fun i => !used.contains (base + i) && decide (i < 8192))).map (fun i => [ovfBucket, base + i])

/-- Moves overflow entries of a bucket into its free ways (R99). Where several wait, the one of the lowest index goes first, and one that cannot be read stays (DESIGN CHOICE: log entry 82). -/
def State.fdbMoveIn (s : State) (o : Half) (b : Nat) (ev : PmcEv) : State :=
  (List.range 4).foldl (fun s w =>
    if (s.fdbAt o [b, w]).isSome then s
    else
      let r := s.fdbScan o ((s.fdbOvfOf o b).map (fun e => [ovfBucket, e.1])) ev
      match r.1.head? with
      | some p => (r.2.fdbBoth o [b, w] (r.2.fdbAt o p) ev).fdbBoth o p none ev
      | none => r.2) s

/-- The bucket at which a place's key is locked. -/
def State.fdbBucketAt (s : State) (h : Half) (place : List Nat) : Nat :=
  match place with
  | [b, _] => if b = ovfBucket then (match s.fdbAt h place with | some e => s.fdbBucket h e.key | none => ovfBucket) else b
  | _ => ovfBucket

/-- The lock of a bucket, in its owner's lock array (R115). -/
def State.lockOf (s : State) (b : Nat) : Option Lock := s.fdb.locks.get? [(bucketOwner b).n, b]

/-- n accesses to the lock bit of a bucket through an alias of its owner's Hamper, by the engine of a routine, for a function's descriptor or for the device (R288, R289, R318). -/
def State.lockAlias (s : State) (b r n : Nat) (fn : Option Nat) : State :=
  let o := bucketOwner b
  (s.bump .HAM_CNT_v [o.n, 1] n).pmc o 1 ⟨2, s.routineEngine o r, Config.lockAddr b, 3, fn⟩ n

/-- Sets or clears the lock bit of a bucket through an alias of its owner's Hamper, and keeps what the lock's record says (R115, R318). -/
def State.setLock (s : State) (b : Nat) (l : Option Lock) (r : Nat) (fn : Option Nat) : State :=
  let locks := match l with
    | some x => s.fdb.locks.set [(bucketOwner b).n, b] x
    | none => s.fdb.locks.erase [(bucketOwner b).n, b]
  ({ s with fdb := { s.fdb with locks := locks } }).lockAlias b r 1 fn

/-- The lock bit of a bucket is set and cleared around an update that no other can see (R115, R119, R318). -/
def State.lockPulse (s : State) (b r : Nat) (fn : Option Nat) : State := s.lockAlias b r 2 fn

/-- Deletes the learned entries of a bucket that name a port and are not static (R120). -/
def State.portDelBucket (s : State) (o : Half) (b port : Nat) : State :=
  let ev := s.engEv o 2 none
  let r := s.fdbScan o (s.fdbOwnWords o b) ev
  let s := r.2
  let ps := r.1.filter (fun p => match s.fdbAt o p with | some e => e.learned && !e.static && e.port = port | none => false)
  if ps.isEmpty then s
  else ((((ps.foldl (fun s p => s.fdbBoth o p none ev) s).fdbMoveIn o b ev).lockPulse b 2 none).bump .FDB_CNT_v [o.n, 17] ps.length)

/-- Port deletions whose bucket is no longer locked are done (R115, R120). -/
def State.portDelRun (s : State) : State :=
  let due := s.fdb.portDel.filter (fun d => (s.lockOf d.2.1).isNone)
  let s := { s with fdb := { s.fdb with portDel := s.fdb.portDel.filter (fun d => (s.lockOf d.2.1).isSome) } }
  due.foldl (fun s d => s.portDelBucket d.1 d.2.1 d.2.2) s

/-- The places of the buckets that a half owns, with their entries, in a half's copy. -/
def State.fdbOwnedIn (s : State) (o x : Half) : List (List Nat × FdbEnt) :=
  s.fdb.ents.filterMap (fun e => match e.1 with
    | [y, b, w] =>
      let mine := if b = ovfBucket then decide (w / 8192 = o.n) else decide (b % 2 = o.n)
      if y = x.n && mine then some ([b, w], e.2) else none
    | _ => none)

/-- The places of a half's copy that belong to buckets the half owns, with their entries. -/
def State.fdbOwned (s : State) (o : Half) : List (List Nat × FdbEnt) := s.fdbOwnedIn o o

/-- The words of all buckets that a half owns, and of its range of the overflow store. -/
def ownWords (o : Half) : List (List Nat) :=
  (List.range 524288).flatMap (fun i => (List.range 4).map (fun w => [2 * i + o.n, w])) ++ (List.range 8192).map (fun i => [ovfBucket, 8192 * o.n + i])

/-- The words that an engine reads which goes through all buckets of its half. -/
def State.fdbAllWords (s : State) (o : Half) : List (List Nat) := if s.fdbFlawed o then ownWords o else (s.fdbOwned o).map (fun e => e.1)

/-- The bucket of a word that a resynchronisation copies: by the owner's entry, or else by the one it replaces. -/
def State.resyncBucket (s : State) (o : Half) (w : List Nat) : Nat := if (s.fdbAt o w).isSome then s.fdbBucketAt o w else s.fdbBucketAt o.other w

/-- The owner copies its words of some buckets, free ones included, into the other half's copy (R122). A word that it cannot read is reported and not copied, and what the other copy holds there stands (R404, log entry 82). -/
def State.resyncCopy (s : State) (o : Half) (p : Nat → Bool) : State :=
  let words := if s.fdbFlawed .E || s.fdbFlawed .W then ownWords o
    else ((s.fdbOwned o).map (fun e => e.1) ++ (s.fdbOwnedIn o o.other).map (fun e => e.1)).eraseDups
  (words.filter (fun w => p (s.resyncBucket o w))).foldl (fun (s : State) w =>
    let r := (s.dma o (s.engEv o 1 none) 2 w 0).eccReadAt o 2 0 w (s.engEv o 1 none)
    if r.1 then r.2 else r.2.fdbPut o.other w (r.2.fdbAt o w)) s

/-- The resynchronisation of a half's buckets ends (R122). -/
def State.resyncEnd (s : State) (h : Half) : State :=
  let s := { s with fdb := { s.fdb with resync := s.fdb.resync.filter (fun x => x ≠ h) } }.st .FDB_STAT_resync [h.n] 0
  s.raise 0x0013 h.n [(0, 1, h.n), (4, 4, 524288)]

/-- Buckets that a resynchronisation found locked are copied once their lock is free; the last one ends it (R115, R122). -/
def State.resyncRun (s : State) : State :=
  let due := s.fdb.resyncLeft.filter (fun d => (s.lockOf d.2).isNone)
  let s := { s with fdb := { s.fdb with resyncLeft := s.fdb.resyncLeft.filter (fun d => (s.lockOf d.2).isSome) } }
  let s := due.foldl (fun s d => (s.resyncCopy d.1 (fun b => b = d.2)).lockPulse d.2 1 none) s
  halves.foldl (fun (s : State) h => if due.any (fun d => d.1 = h) ∧ ¬ s.fdb.resyncLeft.any (fun d => d.1 = h) then s.resyncEnd h else s) s

/-- What waited for a bucket's lock goes on (R115). -/
def State.lockFreed (s : State) : State := s.portDelRun.resyncRun

/-- Frees the lock of a bucket; what waited for it goes on (R115). -/
def State.unlockBucket (s : State) (b r : Nat) (fn : Option Nat) : State := (s.setLock b none r fn).lockFreed

/-- A bucket is held by a host lock. -/
def State.hostHeld (s : State) (b : Nat) : Bool := match s.lockOf b with | some l => l.host | none => false

/-- Host locks of a half. -/
def State.hostLocks (s : State) (h : Half) : Nat := (s.fdb.locks.filter (fun l => l.2.host && l.1.head? = some h.n)).length

/-- When a lock taken now expires (R115). -/
def State.leaseEnd (s : State) (h : Half) : Nat := s.elapsed + max 1 (s.rd .FDB_LOCK_CFG_lease_us [h.n]) * 1000

/-- The next token of a half: increasing, never 0 (R115). -/
def nextToken (t : Nat) : Nat := if 65535 ≤ t then 1 else t + 1

/-- The lookup tags of a half's place and key that may still be held (R42, R102). -/
def State.tagsOf (s : State) (h : Half) (p : List Nat) (k : FKey) : List (Half × List Nat × FKey × Nat × Nat) :=
  s.fdb.tags.filter (fun t => t.1 = h && t.2.1 = p && t.2.2.1 = k && decide (s.elapsed < t.2.2.2.2 + 256))

/-- The stamp write of a hit, with the hit notice to the owner (R102). The write counts as landed unless HIT_STAMP_SKIP follows; while an earlier hit's may not have landed, this hit makes its own. -/
def State.hitStamp (s : State) (h : Half) (p : List Nat) (e : FdbEnt) : State :=
  if e.stamp = s.fdb.nowTick ∧ (s.tagsOf h p e.key).isEmpty then s
  else
    let keep := s.fdb.tags.filter (fun t => decide (s.elapsed < t.2.2.2.2 + 256))
    let ents := s.fdb.ents.set (h.n :: p) { e with stamp := s.fdb.nowTick }
    let s : State := { s with fdb := { s.fdb with ents := ents, tags := keep ++ [(h, p, e.key, e.stamp, s.elapsed)] } }
    let o : Half := bucketOwner (s.fdbBucket h e.key)
    if o = h ∨ ¬ s.bridgeUp then s else ({ s with fdb := { s.fdb with hits := s.fdb.hits ++ [(o, p, e.key)] } }).bridgeMsg h

/-- A pipeline lookup of the copy of a half: the result and the state after the stamp write, the hit notice and the counters (R101, R102, R104). -/
def State.fdbLookup (s : State) (pipe : Nat) (h : Half) (k : FKey) : Option FdbEnt × State :=
  let ev := pmcDev 1 pipe 0 0
  let s := s.pmc h 4 ev 1
  let r := s.fdbScan h (s.fdbWords h (s.fdbBucket h k)) ev
  let s := r.2
  match (if k.bad then none else s.fdbPick h k r.1).bind (fun p => (s.fdbAt h p).map (fun e => (p, e))) with
  | none => (none, s.bump .FDB_CNT_v [h.n, 1] 1)
  | some (p, e) => (some e, (s.bump .FDB_CNT_v [h.n, 0] 1).hitStamp h p e)

/-- The learn filter lets a candidate pass (R106). -/
def State.learnPass (s : State) (pipe port : Nat) (k : FKey) : Bool :=
  let h := pipeHalf pipe
  let x := s.fdbHash h k
  let life := s.rd .FDB_AGE_CFG_lf_life [h.n]
  match s.fdb.filter.get? [pipe, x % 8192] with
  | some (chk, p, t) => !(chk = x / 65536 && p = port && decide ((s.fdb.nowTick + 65536 - t) % 65536 < life))
  | none => true

/-- Enqueues a learn event at its owner (R107). -/
def State.learnEnqueue (s : State) (o : Half) (ev : LearnEv) : State :=
  if s.xingBusy o 3 0 then s.xingLost o 3
  else if 4096 ≤ (s.fdb.learnQ.filter (fun e => e.1 = o)).length then s.bump .FDB_CNT_v [o.n, 6] 1
  else (({ s with fdb := { s.fdb with learnQ := s.fdb.learnQ ++ [(o, ev)] } }).postWork o 4 [BitVec.ofNat 64 ev.key.addr]).bump .FDB_CNT_v [o.n, 2] 1

/-- Emits a learn event after I19 (R105, R106, R107). An event whose owner the lost bridge hides counts in LEARN_NO_OWNER of the half that emits it (DESIGN CHOICE: log entry 82). -/
def State.learnEmit (s : State) (pipe : Nat) (ev : LearnEv) : State :=
  let h := pipeHalf pipe
  let x := s.fdbHash h ev.key
  let s := { s with fdb := { s.fdb with filter := s.fdb.filter.set [pipe, x % 8192] (x / 65536, ev.port, s.fdb.nowTick) } }
  let o := bucketOwner (x % 1048576)
  if o = h then s.learnEnqueue o ev
  else if s.bridgeUp then ({ s with fdb := { s.fdb with learns := s.fdb.learns ++ [(o, ev)] } }).bridgeMsg h
  else s.bump .FDB_CNT_v [h.n, 12] 1

/-- LEARN_EVENT_ENQUEUE: the first learn event on the bridge toward an owner reaches its queue (R107). -/
def doLearnEventEnqueue (h : Half) (s : State) : State :=
  match s.fdb.learns.find? (fun e => e.1 = h) with
  | some e => ({ s with fdb := { s.fdb with learns := s.fdb.learns.erase e } }).learnEnqueue h e.2
  | none => s

def execLearnEventEnqueue (h : Half) (s : State) : Host.Outcome State Fault Refusal := done (doLearnEventEnqueue h s)

/-- What the owner writes for a learn event: the place and the entry, none where nothing is written, and the state with the event counted (R109, R110). `mwin` of a new entry is 0 (DESIGN CHOICE: log entry 82). -/
def State.learnDecide (s : State) (o : Half) (ev : LearnEv) : Option (List Nat × FdbEnt) × State :=
  let cnt (s : State) (e : Nat) : State := s.bump .FDB_CNT_v [o.n, e] 1
  let now := s.fdb.nowTick
  let r := s.fdbSeek o ev.key (s.engEv o 4 none)
  let s := r.2
  match r.1 with
  | none =>
    if s.rd .FDB_SLICE_CFG_quota [o.n, ev.key.slice] ≤ s.rd .FDB_SLICE_USE_used [o.n, ev.key.slice] then (none, cnt s 8)
    else match s.fdbFree o (s.fdbBucket o ev.key) with
      | none => (none, cnt s 7)
      | some p => (some (p, FdbEnt.mk ev.key now ev.port 0 0 0 false false true), cnt s 3)
  | some p => match s.fdbAt o p with
    | none => (none, s)
    | some e =>
      if e.static then (none, cnt s 10)
      else if e.port = ev.port then (some (p, { e with stamp := now }), cnt s 4)
      else if e.frozen then (none, cnt s 9)
      else
        let sec := tSec (s.now o) % 65536
        let n := if e.mwin = sec then e.moves + 1 else 1
        let lim := s.rd .FDB_LEARN_CFG_move_limit [o.n]
        let e1 := { e with moves := min n 255, mwin := sec }
        if lim ≠ 0 ∧ lim < n then
          (some (p, { e1 with frozen := true }),
            (cnt s 9).raise 0x0011 o.n [(0, 21, leNat ev.key.bytes), (22, 2, e.port), (24, 2, ev.port), (26, 1, min n 255)] (some (ev.key.slice + 1)))
        else (some (p, { e1 with port := ev.port, stamp := now }), cnt s 5)

/-- The owner has a learn update whose other copy is not yet acknowledged (R108). -/
def State.learnBusy (s : State) (h : Half) : Bool := match h with | .E => s.fdb.busyE | .W => s.fdb.busyW

/-- Marks the owner's learn engine busy or free. -/
def State.setLearnBusy (s : State) (h : Half) (b : Bool) : State :=
  match h with
  | .E => { s with fdb := { s.fdb with busyE := b } }
  | .W => { s with fdb := { s.fdb with busyW := b } }

/-- Applies one learn event under the bucket lock (R108): the own copy now, the other copy over the bridge, the lock until its acknowledgement. -/
def State.learnOne (s : State) (o : Half) (ev : LearnEv) : State :=
  let b := s.fdbBucket o ev.key
  match s.learnDecide o ev with
  | (none, s) => s.lockPulse b 4 none
  | (some (p, e), s) =>
    let s := (s.fdbPut o p (some e)).dma o (s.engEv o 4 none) 2 p 1
    if ¬ s.bridgeUp then s.lockPulse b 4 none
    else
      let s := s.setLock b (some (Lock.mk false 0 (16 * o.n + s.routineEngine o 4) (s.leaseEnd o))) 4 none
      let s := { s with fdb := { s.fdb with msgs := s.fdb.msgs ++ [FdbMsg.mk o.other b p (some e)] } }
      (s.setLearnBusy o true).bridgeMsg o

/-- LEARN_APPLY: an engine of the LEARN routine (R302) applies the owner's next event: the first deferred event whose bucket is free, else the head of its queue, which joins the deferred list while its bucket is held by a host lock or has deferred events (R108). -/
def doLearnApply (h : Half) (s : State) : State :=
  if s.learnBusy h ∨ ¬ s.routineUp h 4 then s
  else match s.fdb.defer.find? (fun e => e.1 = h && (s.lockOf (s.fdbBucket h e.2.key)).isNone) with
    | some e => ({ s with fdb := { s.fdb with defer := s.fdb.defer.erase e } }).learnOne h e.2
    | none =>
      if ¬ s.on .FDB_LEARN_CFG_learn_run [h.n] then s
      else match s.fdb.learnQ.find? (fun e => e.1 = h) with
        | none => s
        | some e =>
          let b := s.fdbBucket h e.2.key
          if ¬ s.serves h 4 [BitVec.ofNat 64 e.2.key.addr] then s else
          let s1 := ({ s with fdb := { s.fdb with learnQ := s.fdb.learnQ.erase e } } : State).takeWork h 4 [BitVec.ofNat 64 e.2.key.addr]
          if s.hostHeld b ∨ s.fdb.defer.any (fun x => x.1 = h && s.fdbBucket h x.2.key = b) then
            if 256 ≤ (s.fdb.defer.filter (fun x => x.1 = h)).length then s1.bump .FDB_CNT_v [h.n, 11] 1
            else { s1 with fdb := { s1.fdb with defer := s1.fdb.defer ++ [e] } }
          else if (s.lockOf b).isSome then s
          else s1.learnOne h e.2

def execLearnApply (h : Half) (s : State) : Host.Outcome State Fault Refusal := done (doLearnApply h s)

/-- FDB_REMOTE_WRITE: the first write travelling toward a half's copy lands and is acknowledged (R97, R108). -/
def doFdbRemoteWrite (h : Half) (s : State) : State :=
  match s.fdb.msgs.find? (fun m => m.dst = h) with
  | some m =>
    let s := { s with fdb := { s.fdb with msgs := s.fdb.msgs.erase m } }
    let s := s.fdbPut h m.place m.ent
    ({ s with fdb := { s.fdb with acks := s.fdb.acks ++ [(h.other, m.bucket)] } }).bridgeMsg h
  | none => s

def execFdbRemoteWrite (h : Half) (s : State) : Host.Outcome State Fault Refusal := done (doFdbRemoteWrite h s)

/-- FDB_WRITE_ACK: the first acknowledgement reaches the owner, which releases the bucket lock (R108, R115). -/
def doFdbWriteAck (h : Half) (s : State) : State :=
  match s.fdb.acks.find? (fun m => m.1 = h) with
  | some m =>
    let s := { s with fdb := { s.fdb with acks := s.fdb.acks.erase m } }
    let s := s.setLearnBusy h false
    if s.hostHeld m.2 ∨ (s.lockOf m.2).isNone then s else s.unlockBucket m.2 4 none
  | none => s

def execFdbWriteAck (h : Half) (s : State) : Host.Outcome State Fault Refusal := done (doFdbWriteAck h s)

/-- Writes a stamp into an entry; a lookup tag of the place then holds it as what stands if its own write is skipped (R102). -/
def State.stampPut (s : State) (h : Half) (p : List Nat) (e : FdbEnt) (x : Nat) : State :=
  { s with fdb := { s.fdb with
    ents := s.fdb.ents.set (h.n :: p) { e with stamp := x }
    tags := s.fdb.tags.map (fun t => if t.1 = h ∧ t.2.1 = p then (t.1, t.2.1, t.2.2.1, x, t.2.2.2.2) else t) } }

/-- HIT_NOTICE: the first notice on the bridge toward an owner: the owner's stamp is written if the key still stands there; the conditional write reads the word (R102, R404). -/
def doHitNotice (h : Half) (s : State) : State :=
  match s.fdb.hits.find? (fun m => m.1 = h) with
  | some m =>
    let s := { s with fdb := { s.fdb with hits := s.fdb.hits.erase m } }
    let r := s.eccReadAt h 2 0 m.2.1 (pmcDev 0 0 0 0)
    match (if r.1 then none else r.2.fdbAt h m.2.1) with
    | some e => if e.key = m.2.2 then r.2.stampPut h m.2.1 e s.fdb.nowTick else r.2
    | none => r.2
  | none => s

def execHitNotice (h : Half) (s : State) : Host.Outcome State Fault Refusal := done (doHitNotice h s)

/-- A later hit of the same key at the same place makes its own stamp write (R102). -/
def sameTag (t u : Half × List Nat × FKey × Nat × Nat) : Bool := u.1 = t.1 && u.2.1 = t.2.1 && u.2.2.1 = t.2.2.1

/-- HIT_STAMP_SKIP: the tag of the oldest hit of a half ends before its stamp write has landed: the write does not land, and is counted (R102). What the entry held before it stands, or is what a later hit's write found. -/
def doHitStampSkip (h : Half) (s : State) : State :=
  match s.fdb.tags.find? (fun t => t.1 = h) with
  | some t =>
    let rest := s.fdb.tags.erase t
    let s := ({ s with fdb := { s.fdb with tags := rest } }).bump .FDB_CNT_v [h.n, 15] 1
    match rest.find? (sameTag t) with
    | some u => { s with fdb := { s.fdb with tags := rest.map (fun v => if v = u then (u.1, u.2.1, u.2.2.1, t.2.2.2.1, u.2.2.2.2) else v) } }
    | none =>
      match s.fdbAt h t.2.1 with
      | some e =>
        if e.key = t.2.2.1 then { s with fdb := { s.fdb with ents := s.fdb.ents.set (h.n :: t.2.1) { e with stamp := t.2.2.2.1 } } } else s
      | none => s
  | none => s

def execHitStampSkip (h : Half) (s : State) : Host.Outcome State Fault Refusal := done (doHitStampSkip h s)

/-- An ageing tick of a half's ager: every `sweep` ticks a new sweep begins, which is an event of the AGE routine (R113, R302). The first tick from reset begins one (log entry 82). -/
def State.sweepTick (s : State) (h : Half) : State :=
  if ¬ s.on .FDB_AGE_CFG_age_run [h.n] then s
  else
    let left := s.fdb.sweepLeft.getD [h.n] 0
    if 1 < left then { s with fdb := { s.fdb with sweepLeft := s.fdb.sweepLeft.set [h.n] (left - 1) } }
    else
      ({ s with fdb := { s.fdb with
        sweepLeft := s.fdb.sweepLeft.set [h.n] (max 1 (min 16384 (s.rd .FDB_AGE_CFG_sweep [h.n])))
        swept := s.fdb.swept.filter (fun e => e.1.head? ≠ some h.n) } }).postWork h 5 []

/-- NOW_TICK_ADVANCE: the next ageing tick, which crosses pair 4 to each half's engines (R31, R112, R411). -/
def doNowTickAdvance (s : State) : State :=
  let s := halves.foldl (fun (s : State) h => s.xingSend h 4 0 (fun s => s.sweepTick h)) (s.runTo s.fdb.tickDue)
  { s with fdb := { s.fdb with
      nowTick := (s.fdb.nowTick + 1) % 65536
      tickDue := s.fdb.tickDue + max 1 (s.rd .FDB_AGE_CFG_tick [0]) * 1000000 } }

def execNowTickAdvance (s : State) : Host.Outcome State Fault Refusal := done (doNowTickAdvance s)

/-- The age that a stamp gives has reached the limit of its slice (R113). -/
def State.aged (s : State) (o : Half) (sl stamp : Nat) : Bool :=
  decide (max 1 (s.rd .FDB_SLICE_CFG_age_limit [o.n, sl]) ≤ (s.fdb.nowTick + 65536 - stamp) % 65536)

/-- The ager's compare-and-clear of an entry that has aged (R113). A hit notice that is on the bridge may reach the entry between the ager's read and its clear, and so may a hit's stamp write that has not landed: whether it does is free, and then the clear fails on the fresh stamp and AGE_LOST counts (log entry 19). -/
def State.ageOut (s : State) (o : Half) (p : List Nat) (e : FdbEnt) : State :=
  let lost (s : State) : State := s.bump .FDB_CNT_v [o.n, 14] 1
  let cleared (s : State) : State := (s.fdbBoth o p none (s.engEv o 5 none)).bump .FDB_CNT_v [o.n, 13] 1
  if e.static ∨ ¬ s.on .FDB_SLICE_CFG_age_en [o.n, e.key.slice] then s
  else if s.aged o e.key.slice e.stamp then
    match s.fdb.hits.find? (fun m => decide (m = (o, p, e.key))) with
    | none => cleared s
    | some m =>
      let (u, s) := s.draw
      if u % 2 = 0 then cleared s
      else lost (({ s with fdb := { s.fdb with hits := s.fdb.hits.erase m } }).stampPut o p e s.fdb.nowTick)
  else if (s.tagsOf o p e.key).any (fun t => s.aged o e.key.slice t.2.2.2.1) then
    let (u, s) := s.draw
    if u % 2 = 0 then s else lost s
  else s

/-- AGER_VISIT: an engine of the AGE routine (R302) visits a bucket of its half and its overflow entries, holding the bucket's lock: once in each sweep; a bucket that a host lock holds is skipped until the next sweep, and one that an engine holds is visited when it is free (R113, R115). -/
def doAgerVisit (b : Nat) (s : State) : State :=
  let o := bucketOwner b
  if ¬ s.on .FDB_AGE_CFG_age_run [o.n] ∨ 1048576 ≤ b ∨ ¬ s.serves o 5 [] ∨ s.fdb.swept.getD [o.n, b] false
      ∨ ((s.lockOf b).isSome ∧ ¬ s.hostHeld b) then s
  else
    let s := s.takeWork o 5 []
    let s := { s with fdb := { s.fdb with swept := s.fdb.swept.set [o.n, b] true } }
    if s.hostHeld b then s
    else
      let ev := s.engEv o 5 none
      let r := s.fdbScan o (s.fdbOwnWords o b) ev
      ((r.1.foldl (fun s p => match s.fdbAt o p with | some e => s.ageOut o p e | none => s) r.2).fdbMoveIn o b ev).lockPulse b 5 none

def execAgerVisit (b : Nat) (s : State) : Host.Outcome State Fault Refusal := done (doAgerVisit b s)

/-- Frees a host lock's record. -/
def State.breakLock (s : State) (b : Nat) (l : Lock) : State :=
  let o := bucketOwner b
  let s := s.unlockBucket b 0 none
  let s := if l.host then { s with fdb := { s.fdb with broken := s.fdb.broken.set [o.n, b, l.token] 1 } } else s
  let s := s.bump .FDB_CNT_v [o.n, 16] 1
  let s := s.irqAll o 1
  s.raise 0x0012 o.n [(0, 4, b), (4, 1, b2n l.host), (5, 1, l.fn), (6, 2, l.token)]

/-- LOCK_LEASE_EXPIRY: the lease of a bucket's lock ends, and an engine of the LEASE routine breaks it (R115, R116, R302). The lease timer's event crosses pair 4 (R31, R411). -/
def doLockLeaseExpiry (b : Nat) (s : State) : State :=
  match s.lockOf b with
  | some l =>
    let o := bucketOwner b
    (s.runTo l.expiry).xingSend o 4 0 (fun s => s.viaRoutine o 0 [BitVec.ofNat 64 b] (fun s => s.breakLock b l))
  | none => s

def execLockLeaseExpiry (b : Nat) (s : State) : Host.Outcome State Fault Refusal := done (doLockLeaseExpiry b s)

/-- Keeps a descriptor that found its bucket locked, for LOCK_RETRY (R117). -/
def State.lockWait (s : State) (d : Hdr) (cmd : Instr) (left : Nat) : State :=
  if s.fdb.retries.any (fun r => r.desc.fn = d.fn && r.desc.ring = d.ring && r.desc.cnt = d.cnt) then s
  else if left = 0 then s.fail d 0x18
  else { s with fdb := { s.fdb with retries := s.fdb.retries ++ [Retry.mk d cmd left] } }

/-- A descriptor no longer waits for a lock. -/
def State.lockDone (s : State) (d : Hdr) : State :=
  { s with fdb := { s.fdb with retries := s.fdb.retries.filter (fun r => ¬ (r.desc.fn = d.fn ∧ r.desc.ring = d.ring ∧ r.desc.cnt = d.cnt)) } }

/-- An engine update that waits for a host lock waits without a limit (log entry 20). -/
def noLimit : Nat := 4294967296

/-- The rule of the FDB descriptors that change the FDB; LOCK and UNLOCK are taken to be among them, and so complete OWNER_UNRESOLVED (R119; DESIGN CHOICE: log entry 82). -/
def fdbRule (code : Nat) (vf : Bool) : Rule := ⟨code, .config, true, vf, 0⟩

/-- FDB_INSERT of a key whose bucket is not locked (R98, R119); `mwin` of a new entry is 0 (DESIGN CHOICE: log entry 82). -/
def State.fdbInsertNow (s : State) (d : Hdr) (k : FKey) (port : Nat) (static replace : Bool) (adata : Nat) : State :=
  let b := s.fdbBucket (s.ringHalf d) k
  let o := bucketOwner b
  let ev := s.engEv o 6 (some d.fn)
  let r := (s.lockPulse b 6 (some d.fn)).fdbSeek o k ev
  let s := r.2
  match r.1 with
  | some p => match s.fdbAt o p with
    | some e =>
      if ¬ replace then s.fail d 0x12
      else (s.fdbBoth o p (some { e with port := port, adata := adata, static := static, stamp := s.fdb.nowTick }) ev).ok d 0
    | none => s.fail d 0x12
  | none =>
    if s.rd .FDB_SLICE_CFG_quota [o.n, k.slice] ≤ s.rd .FDB_SLICE_USE_used [o.n, k.slice] then s.fail d 0x11
    else match s.fdbFree o b with
      | none => s.fail d 0x10
      | some p => (s.fdbBoth o p (some (FdbEnt.mk k s.fdb.nowTick port adata 0 0 false static false)) ev).ok d 0

/-- FDB_INSERT (R119). -/
def doFdbInsert (d : Hdr) (ka : KeyArg) (port : Nat) (static replace : Bool) (adata : Nat) (s : State) : State :=
  let k := fkeyOf ka d
  s.serve d (fdbRule 0x20 true) (ownSlice d d.slice) (cleanHdr d true false false && decide (port < 1088)) fun s =>
    if k.bad then s.fail d 0x15
    else if (s.lockOf (s.fdbBucket (s.ringHalf d) k)).isSome then s.lockWait d (.fdbInsert d ka port static replace adata) noLimit
    else (s.lockDone d).fdbInsertNow d k port static replace adata

def execFdbInsert (d : Hdr) (ka : KeyArg) (port : Nat) (static replace : Bool) (adata : Nat) (s : State) : Host.Outcome State Fault Refusal :=
  doneDesc (.fdbInsert (bareHdr d) ka port static replace adata) d (doFdbInsert d ka port static replace adata) s

/-- FDB_DELETE (R119). -/
def doFdbDelete (d : Hdr) (ka : KeyArg) (s : State) : State :=
  let k := fkeyOf ka d
  s.serve d (fdbRule 0x21 true) (ownSlice d d.slice) (cleanHdr d true false false) fun s =>
    let b := s.fdbBucket (s.ringHalf d) k
    let o := bucketOwner b
    if k.bad then s.fail d 0x15
    else if (s.lockOf b).isSome then s.lockWait d (.fdbDelete d ka) noLimit
    else
      let ev := s.engEv o 6 (some d.fn)
      let r := ((s.lockDone d).lockPulse b 6 (some d.fn)).fdbSeek o k ev
      let s := r.2
      match r.1 with
      | some p => ((s.fdbBoth o p none ev).fdbMoveIn o b ev).ok d 0
      | none => s.fail d 0x14

def execFdbDelete (d : Hdr) (ka : KeyArg) (s : State) : Host.Outcome State Fault Refusal := doneDesc (.fdbDelete (bareHdr d) ka) d (doFdbDelete d ka) s

/-- The 32 bytes of an entry (R97). -/
def entBytes (e : Option FdbEnt) : List Byte :=
  match e with
  | none => List.replicate 32 0
  | some e => leBytes 32 (e.key.addr % 2 ^ 128 + e.key.scope % 2 ^ 24 * 2 ^ 128 + e.key.slice % 64 * 2 ^ 152 + e.key.kind % 4 * 2 ^ 158
      + e.stamp % 65536 * 2 ^ 160 + e.port % 2048 * 2 ^ 176 + e.adata % 2 ^ 32 * 2 ^ 187 + e.moves % 256 * 2 ^ 219
      + e.mwin % 65536 * 2 ^ 227 + b2n e.frozen * 2 ^ 243 + b2n e.static * 2 ^ 244 + b2n e.learned * 2 ^ 245 + 2 ^ 246)

/-- The entry of 32 bytes, none where `valid` is 0 (R97). -/
def entOf (bs : List Byte) : Option FdbEnt :=
  let v := leNat (slice bs 0 32)
  if bit v 246 then
    some ⟨⟨bits v 152 6, bits v 158 2, bits v 128 24, bits v 0 128⟩, bits v 160 16, bits v 176 11, bits v 187 32, bits v 219 8, bits v 227 16,
      bit v 243, bit v 244, bit v 245⟩
  else none

/-- The 32 bytes of a word as a descriptor reads it; a poisoned word's are free values (R404, log entry 73). -/
def State.fdbWordRead (s : State) (o : Half) (p : List Nat) (fn : Nat) : List Byte × State :=
  let ev := s.engEv o 6 (some fn)
  let r := (s.dma o ev 2 p 0).eccReadAt o 2 0 p ev
  if r.1 then
    let (u, s) := r.2.draw
    (leBytes 32 u, s)
  else (entBytes (r.2.fdbAt o p), r.2)

/-- FDB_READ of an unlocked bucket, or under its token (R117, R118, R119, R121). -/
def State.fdbReadNow (s : State) (d : Hdr) (o : Half) (mode : Nat) (k : FKey) (idx : Nat) : State :=
  s.withBuf d fun _ =>
    match mode with
    | 0 =>
      let r := s.fdbSeek o k (s.engEv o 6 (some d.fn))
      match r.1 with
      | some p => (r.2.hostWrite d.haddr (entBytes (r.2.fdbAt o p))).ok d 0
      | none => r.2.fail d 0x14
    | 1 =>
      let r := (List.range 4).foldl (fun (a : List Byte × State) w =>
        let x := a.2.fdbWordRead o [idx, w] d.fn
        (a.1 ++ x.1, x.2)) ([], s)
      (r.2.hostWrite d.haddr r.1).ok d (r.2.fdbOvfOf o idx).length
    | _ => match s.fdbAt o [ovfBucket, idx] with
      | some _ =>
        let r := s.fdbWordRead o [ovfBucket, idx] d.fn
        (r.2.hostWrite d.haddr r.1).ok d 0
      | none => s.fail d 0x14

/-- FDB_READ: mode 0 by key, 1 a bucket, 2 an overflow index (R119, R341). -/
def doFdbRead (d : Hdr) (mode : Nat) (ka : KeyArg) (idx : Nat) (s : State) : State :=
  let k := fkeyOf ka d
  let need := if mode = 1 then 128 else 32
  let inRange := match mode with | 0 => true | 1 => decide (idx < 1048576) | 2 => decide (idx < 16384) | _ => false
  s.serve d ⟨0x22, .reads, false, true, 0⟩ (ownSlice d d.slice && (d.fn = 0 || mode = 0))
    (cleanHdr d true true true && inRange && decide (need ≤ d.hlen)) fun s =>
    let b := match mode with | 0 => s.fdbBucket (s.ringHalf d) k | 1 => idx | _ => s.fdbBucketAt (Half.of (idx / 8192)) [ovfBucket, idx]
    let o := if mode = 2 then Half.of (idx / 8192) else bucketOwner b
    if mode = 0 ∧ k.bad then s.fail d 0x15
    else if ¬ s.bridgeUp ∧ o ≠ s.ringHalf d then s.fail d stOwner
    else if d.token ≠ 0 ∧ (s.fdb.broken.get? [o.n, b, d.token]).isSome then s.fail d 0x19
    else match s.lockOf b with
      | some l =>
        if l.host ∧ l.token = d.token then (s.lockDone d).fdbReadNow d o mode k idx
        else s.lockWait d (.fdbRead d mode ka idx) (s.rd .FDB_LOCK_CFG_read_retry [o.n])
      | none => (s.lockDone d).fdbReadNow d o mode k idx

def execFdbRead (d : Hdr) (mode : Nat) (ka : KeyArg) (idx : Nat) (s : State) : Host.Outcome State Fault Refusal := doneDesc (.fdbRead (bareHdr d) mode ka idx) d (doFdbRead d mode ka idx) s

/-- The last token issued by a half. -/
def State.lastToken (s : State) (h : Half) : Nat := match h with | .E => s.fdb.tokE | .W => s.fdb.tokW

/-- Issues a token. -/
def State.takeToken (s : State) (h : Half) (b : Nat) : Nat × State :=
  let t := nextToken (s.lastToken h)
  let s := { s with fdb := { s.fdb with broken := s.fdb.broken.erase [h.n, b, t] } }
  (t, match h with
    | .E => { s with fdb := { s.fdb with tokE := t } }
    | .W => { s with fdb := { s.fdb with tokW := t } })

/-- LOCK (R115, R117). -/
def doLock (d : Hdr) (b : Nat) (s : State) : State :=
  s.serve d (fdbRule 0x23 false) true (cleanHdr d false false false && decide (b < 1048576)) fun s =>
    let o := bucketOwner b
    if (s.lockOf b).isSome then s.lockWait d (.lock d b) (s.rd .FDB_LOCK_CFG_read_retry [o.n])
    else if 256 ≤ s.hostLocks o then (s.lockDone d).fail d 0x10
    else
      let (t, s) := (s.lockDone d).takeToken o b
      (s.setLock b (some (Lock.mk true t d.fn (s.leaseEnd o))) 6 (some d.fn)).ok d t

def execLock (d : Hdr) (b : Nat) (s : State) : Host.Outcome State Fault Refusal := doneDesc (.lock (bareHdr d) b) d (doLock d b) s

/-- A bucket is held by a host lock with a token. -/
def State.heldBy (s : State) (b t : Nat) : Bool := match s.lockOf b with | some l => l.host && l.token = t | none => false

/-- Completes a descriptor whose token does not hold its bucket: LOCK_LOST for a broken token, else LOCK_NOT_HELD (R116, R119). -/
def State.lockMissing (s : State) (d : Hdr) (b : Nat) : State :=
  if (s.fdb.broken.get? [(bucketOwner b).n, b, d.token]).isSome then s.fail d 0x19 else s.reject d 0x48

/-- UNLOCK (R115, R116). -/
def doUnlock (d : Hdr) (b : Nat) (s : State) : State :=
  s.serve d (fdbRule 0x24 false) true (cleanHdr d false true false && decide (b < 1048576)) fun s =>
    if s.heldBy b d.token then (s.unlockBucket b 6 (some d.fn)).ok d 0 else s.lockMissing d b

def execUnlock (d : Hdr) (b : Nat) (s : State) : Host.Outcome State Fault Refusal := doneDesc (.unlock (bareHdr d) b) d (doUnlock d b) s

/-- FDB_WAY_WRITE (R118). -/
def doFdbWayWrite (d : Hdr) (b way : Nat) (s : State) : State :=
  s.serve d (fdbRule 0x25 false) true (cleanHdr d false true true && decide (b < 1048576) && decide (way < 4) && decide (32 ≤ d.hlen)) fun s =>
    s.withBuf d fun bs =>
      let o := bucketOwner b
      let ev := s.engEv o 6 (some d.fn)
      if ¬ s.heldBy b d.token then s.lockMissing d b
      else match entOf bs with
        | none => ((s.fdbBoth o [b, way] none ev).fdbMoveIn o b ev).ok d 0
        | some e =>
          let twin := (List.range 4).any (fun w => w ≠ way && (match s.fdbAt o [b, w] with | some x => x.key = e.key | none => false))
            || (s.fdbOvf o).any (fun x => x.2.key = e.key)
          if twin then s.fail d 0x12 else (s.fdbBoth o [b, way] (some e) ev).ok d 0

def execFdbWayWrite (d : Hdr) (b way : Nat) (s : State) : Host.Outcome State Fault Refusal := doneDesc (.fdbWayWrite (bareHdr d) b way) d (doFdbWayWrite d b way) s

/-- FDB_UNFREEZE (R111). -/
def doFdbUnfreeze (d : Hdr) (ka : KeyArg) (s : State) : State :=
  let k := fkeyOf ka d
  s.serve d (fdbRule 0x26 true) (ownSlice d d.slice) (cleanHdr d true false false) fun s =>
    let b := s.fdbBucket (s.ringHalf d) k
    let o := bucketOwner b
    if k.bad then s.fail d 0x15
    else if (s.lockOf b).isSome then s.lockWait d (.fdbUnfreeze d ka) noLimit
    else
      let ev := s.engEv o 6 (some d.fn)
      let r := ((s.lockDone d).lockPulse b 6 (some d.fn)).fdbSeek o k ev
      let s := r.2
      match r.1.bind (fun p => (s.fdbAt o p).map (fun e => (p, e))) with
      | some (p, e) => (s.fdbBoth o p (some { e with frozen := false, moves := 0 }) ev).ok d 0
      | none => s.fail d 0x14

def execFdbUnfreeze (d : Hdr) (ka : KeyArg) (s : State) : Host.Outcome State Fault Refusal := doneDesc (.fdbUnfreeze (bareHdr d) ka) d (doFdbUnfreeze d ka) s

/-- Deletes the owned entries of a half that a test names, and moves overflow entries in, for a function's descriptor: the number deleted (R99, R119). An entry that cannot be read does not match (R404). -/
def State.fdbDeleteAll (s : State) (o : Half) (p : FdbEnt → Bool) (fn : Nat) : Nat × State :=
  let ev := s.engEv o 6 (some fn)
  let r := s.fdbScan o (s.fdbAllWords o) ev
  let hit := r.1.filter (fun w => match r.2.fdbAt o w with | some e => p e | none => false)
  let bs := (hit.map (r.2.fdbBucketAt o)).eraseDups
  let s := hit.foldl (fun s w => s.fdbBoth o w none ev) r.2
  (hit.length, bs.foldl (fun s b => (s.fdbMoveIn o b ev).lockPulse b 6 (some fn)) s)

/-- FDB_FLUSH: it waits while a bucket it touches is locked (R119, log entry 20). -/
def doFdbFlush (d : Hdr) (bySlice byPort byScope inclStatic : Bool) (scope port : Nat) (s : State) : State :=
  let sel (e : FdbEnt) : Bool :=
    (!bySlice || e.key.slice = d.slice) && (!byPort || e.port = port) && (!byScope || e.key.scope = scope) && (inclStatic || !e.static)
  s.serve d (fdbRule 0x27 true) (d.fn = 0 || (bySlice && ownSlice d d.slice))
    (cleanHdr d bySlice false false && (byPort || port = 0) && (byScope || scope = 0) && decide (port < 1088)) fun s =>
    let busy := halves.any (fun o => (s.fdbOwned o).any (fun e => sel e.2 && (s.lockOf (s.fdbBucket o e.2.key)).isSome))
    if busy then s.lockWait d (.fdbFlush d bySlice byPort byScope inclStatic scope port) noLimit
    else
      let a := (s.lockDone d).fdbDeleteAll .E sel d.fn
      let b := a.2.fdbDeleteAll .W sel d.fn
      b.2.ok d (a.1 + b.1)

def execFdbFlush (d : Hdr) (bySlice byPort byScope inclStatic : Bool) (scope port : Nat) (s : State) : Host.Outcome State Fault Refusal :=
  doneDesc (.fdbFlush (bareHdr d) bySlice byPort byScope inclStatic scope port) d (doFdbFlush d bySlice byPort byScope inclStatic scope port) s

/-- The FDB port deletion of a half at the beginning of a port's flush: learned entries that name the port and are not static (R120). Every bucket of the half is read (R404); one whose lock is held waits until it is free (R115). -/
def State.fdbPortFlush (s : State) (port : Nat) (o : Half) : State :=
  if ¬ s.on .FDB_PORT_CFG_flush_on_down [o.n, port] then s
  else
    let ws := s.fdbAllWords o
    let bs := ((ws.filter (fun w => match s.fdbAt o w with | some e => e.learned && !e.static && e.port = port | none => false)).map (s.fdbBucketAt o)).eraseDups
    let todo := (bs.map (fun b => (o, b, port))).filter (fun d => !s.fdb.portDel.contains d)
    let s := (s.fdbScan o (ws.filter (fun w => !bs.contains (s.fdbBucketAt o w))) (s.engEv o 2 none)).2
    ({ s with fdb := { s.fdb with portDel := s.fdb.portDel ++ todo } }).portDelRun

/-- An engine of a half's FLUSH routine takes the port deletions that wait (R120, R302). -/
def State.portDueRun (s : State) (o : Half) : State :=
  (s.fdb.portDue.filter (fun d => d.1 = o)).foldl (fun s d => s.viaRoutine o 2 [BitVec.ofNat 64 d.2, 16]
    (fun s => ({ s with fdb := { s.fdb with portDue := s.fdb.portDue.filter (fun x => x ≠ d) } } : State).fdbPortFlush d.2 o)) s

/-- LOCK_RETRY: a waiting descriptor tries its bucket again (R117). -/
def doLockRetry (fn ring cnt : Nat) (s : State) : State :=
  match s.fdb.retries.find? (fun r => r.desc.fn = fn && r.desc.ring = ring && r.desc.cnt = cnt) with
  | none => s
  | some r =>
    let s := (s.pmc (s.ringHalf r.desc) 10 ⟨2, 0, 0, 0, some fn⟩ 1).lockDone r.desc
    let s := match r.cmd with
      | .fdbInsert d ka port static replace adata => doFdbInsert d ka port static replace adata s
      | .fdbDelete d ka => doFdbDelete d ka s
      | .fdbRead d mode ka idx => doFdbRead d mode ka idx s
      | .lock d b => doLock d b s
      | .fdbUnfreeze d ka => doFdbUnfreeze d ka s
      | .fdbFlush d a b c e scope port => doFdbFlush d a b c e scope port s
      | _ => s
    match s.fdb.retries.find? (fun x => x.desc.fn = fn && x.desc.ring = ring && x.desc.cnt = cnt) with
    | none => s
    | some x =>
      if r.left = noLimit then s
      else if r.left ≤ 1 then (s.lockDone x.desc).fail x.desc 0x18
      else { s with fdb := { s.fdb with retries := s.fdb.retries.map (fun y => if y = x then { x with left := r.left - 1 } else y) } }

def execLockRetry (fn ring cnt : Nat) (s : State) : Host.Outcome State Fault Refusal := done (doLockRetry fn ring cnt s)

/-- The lock bits of all buckets of a half that are not held are set and cleared in turn (R122, R318). Each access is looked at by itself only where a counter counts it (R288). -/
def State.lockSweep (s : State) (o : Half) (held : List Nat) : State :=
  if (List.range 16).any (fun i => s.rd .PMC_CFG_event [o.n, i] = 1) then
    (List.range 524288).foldl (fun s i => if held.contains (2 * i + o.n) then s else s.lockPulse (2 * i + o.n) 1 none) s
  else s.bump .HAM_CNT_v [o.n, 1] (2 * (524288 - held.length))

/-- FDB_RESYNC_DONE: the owner has copied every bucket it owns, with its overflow entries, into the other half's copy, under each bucket's lock in turn; those that are locked follow when they are released, and the last of them ends the resynchronisation (R122). -/
def doFdbResyncDone (h : Half) (s : State) : State :=
  if ¬ s.fdb.resync.contains h ∨ s.fdb.resyncLeft.any (fun d => d.1 = h) then s
  else
    let held := (s.fdb.locks.filter (fun l => l.1.head? = some h.n)).map (fun l => l.1.getD 1 0)
    let s := (s.resyncCopy h (fun b => !held.contains b)).lockSweep h held
    if held.isEmpty then s.resyncEnd h
    else { s with fdb := { s.fdb with resyncLeft := s.fdb.resyncLeft ++ held.map (fun b => (h, b)) } }

def execFdbResyncDone (h : Half) (s : State) : Host.Outcome State Fault Refusal := done (doFdbResyncDone h s)

/-- What the bridge carried for the FDB is lost with it (R121), and the engines' locks, which waited for the other half, are released through their aliases (R115, R318). -/
def State.fdbBridgeLost (s : State) : State :=
  let s := s.fdb.learns.foldl (fun s e => s.bump .FDB_CNT_v [e.2.src.n, 12] 1) s
  let ce := (s.fdb.locks.filter (fun l => !l.2.host)).map (fun l => l.1.getD 1 0)
  let s := { s with fdb := { s.fdb with learns := [], hits := [], msgs := [], acks := [], busyE := false, busyW := false, resync := [], resyncLeft := [] } }
  let s := ce.foldl (fun s b => s.setLock b none 4 none) s
  ((s.st .FDB_STAT_resync [0] 0).st .FDB_STAT_resync [1] 0).portDelRun

/-- FDB_SEED_WRITE: the seed changes only while the FDB is empty in both halves (R96). -/
def doFdbSeedWrite (h : Half) (value : Nat) (s : State) : State :=
  let used := halves.any (fun x => s.on .FDB_OCC_bucket_used [x.n] || s.on .FDB_OCC_ovf_used [x.n])
  let s := if bit value 32 then halves.foldl (fun s x => s.st .FDB_SEED_rejected [x.n] 0) s else s
  if used then s.sts [(.FDB_SEED_rejected, [0], 1), (.FDB_SEED_rejected, [1], 1)]
  else
    let s := s.st .FDB_SEED_seed [h.n] value
    if s.bridgeUp then
      { s with ras := { s.ras with mirrorQ := s.ras.mirrorQ ++ [([(.FDB_SEED_seed, [h.other.n], value)], [33 + h.other.n])] } }
    else s.st .RAS_OWN_STAT_mirror_split [h.n] 1

def execFdbSeedWrite (h : Half) (value : Nat) (s : State) : Host.Outcome State Fault Refusal := doneReg (h = .W) (doFdbSeedWrite h value) s

end Sys2Proof.Machine
end

