-- ==== Sys2Proof/Machine/Buffer.lean ====
section
/-!
DEFINITION. The shared buffer (R124-R151): the traffic manager front end (R174), priority groups and PFC (R138-R140), admission (R135, R136), WRED and congestion marking (R141, R142), the bridge crossing (R130-R132), enqueue (R34), the freeing of copies (R128) and the beginning of a port's flush (R145).
-/

namespace Sys2Proof.Machine

/-- The `alpha` of a code times a free count, rounded down (R136). -/
def alphaOf (code x : Nat) : Nat :=
  if code < 7 then x / 2 ^ (7 - code) else if code = 8 then 2 * x else if code = 9 then 4 * x else if code = 10 then 8 * x else x

/-- The `BUF_PART` index of a pool code (R133, BUF_Q_CFG). -/
def poolIx (code : Nat) : Nat := match code with | 0 => 1 | 1 => 2 | 2 => 3 | 3 => 4 | 4 => 6 | 5 => 7 | _ => 1

/-- The free count of a pool (R134). -/
def State.poolFree (s : State) (h : Half) (i : Nat) : Nat := s.rd .BUF_PART_size [h.n, i] - s.rd .BUF_PART_use [h.n, i]

/-- Raises POOL_EMPTY when a pool's free count falls to 0 from above, and arms it again above 1/16 of the size (R150). -/
def State.poolWatch (s : State) (h : Half) (i before : Nat) : State :=
  let f := s.poolFree h i
  let s := if s.rd .BUF_PART_size [h.n, i] < 16 * f then { s with buf := { s.buf with poolLow := s.buf.poolLow.erase [h.n, i] } } else s
  if before = 0 ∨ f ≠ 0 ∨ (s.buf.poolLow.get? [h.n, i]).isSome then s
  else ({ s with buf := { s.buf with poolLow := s.buf.poolLow.set [h.n, i] 1 } }).raise 0x0022 h.n [(0, 1, h.n), (1, 1, i)]

/-- Charges cells to a pool. -/
def State.poolCharge (s : State) (h : Half) (i n : Nat) : State :=
  let b := s.poolFree h i
  (s.bump .BUF_PART_use [h.n, i] n).poolWatch h i b

/-- Returns cells to a pool. -/
def State.poolReturn (s : State) (h : Half) (i n : Nat) : State :=
  let b := s.poolFree h i
  (s.lower .BUF_PART_use [h.n, i] n).poolWatch h i b

/-- The counted length of a frame under a profile (R155). -/
def State.counted (s : State) (h : Half) (prof len : Nat) : Nat :=
  let o := max (-32) (signed 7 (s.rd .SHP_LEN_PROF_overhead [h.n, prof]))
  ((len : Int) + o).toNat

/-- Shared cells of a priority group (R139). -/
def State.pgShr (s : State) (h : Half) (j g : Nat) : Nat := s.rd .BUF_PG_CFG_pg_use [h.n, j, g] - s.rd .BUF_PG_CFG_pg_min [h.n, j, g]

/-- Use of an ingress pool: the shared cells of the lossless groups that name it (R139). -/
def State.ipUse (s : State) (h : Half) (i : Nat) : Nat :=
  s.regs.foldl (fun n e => match e.1 with
    | [f, x, j, g] =>
      if f = Fld.BUF_PG_CFG_pg_use.ctorIdx ∧ x = h.n ∧ s.on .BUF_PG_CFG_lossless [x, j, g] ∧ s.rd .BUF_PG_CFG_ipool [x, j, g] = i
      then n + s.pgShr h j g else n
    | _ => n) 0

/-- Refreshes the use fields of the ingress pools of a half. -/
def State.ipRefresh (s : State) (h : Half) : State :=
  (List.range 4).foldl (fun s i => s.st .BUF_IPOOL_use [h.n, i] (s.ipUse h i)) s

/-- The XOFF limit L of a group (R140). -/
def State.pgLimit (s : State) (h : Half) (j g : Nat) : Nat :=
  let a := s.rd .BUF_PG_CFG_alpha_in [h.n, j, g]
  if a = 15 then s.rd .BUF_PG_CFG_xoff_static [h.n, j, g]
  else
    let i := s.rd .BUF_PG_CFG_ipool [h.n, j, g]
    alphaOf a (s.rd .BUF_IPOOL_size [h.n, i] - s.ipUse h i)

/-- A group is in XOFF. -/
def State.inXoff (s : State) (h : Half) (j g : Nat) : Bool := bit (s.rd .BUF_PORT_STAT_xoff [h.n, j]) g

/-- The priorities mapped to a group of a port. -/
def State.pgPrios (s : State) (h : Half) (j g : Nat) : Nat :=
  (List.range 8).foldl (fun v p => if bits (s.rd .BUF_PORT_CFG_pg_map [h.n, j]) (3 * p) 3 = g then v + 2 ^ p else v) 0

/-- Sends a PFC frame for a group from the port's MAC (R140). -/
def State.pfcSend (s : State) (h : Half) (j g quanta : Nat) : State :=
  { s with lanes := { s.lanes with pfcSent := s.lanes.pfcSent ++ [(portOf h j, s.pgPrios h j g, quanta)] } }

/-- The next PFC refresh of a group. -/
def State.pfcNext (s : State) (h : Half) (j : Nat) : Nat := s.elapsed + s.rd .BUF_PORT_CFG_pfc_refresh [h.n, j] * 512

/-- Evaluates the state table of a lossless group (R140). -/
def State.pgEval (s : State) (h : Half) (j g : Nat) : State :=
  if ¬ s.on .BUF_PG_CFG_lossless [h.n, j, g] then s
  else
    let l := s.pgLimit h j g
    let x := s.rd .BUF_PORT_STAT_xoff [h.n, j]
    if ¬ s.inXoff h j g then
      if l ≤ s.pgShr h j g then
        let s := (s.st .BUF_PORT_STAT_xoff [h.n, j] (x + 2 ^ g)).bump .BUF_CNT_v [h.n, 2] 1
        let s := s.pfcSend h j g (s.rd .BUF_PORT_CFG_pfc_quanta [h.n, j])
        { s with buf := { s.buf with pgTimes := s.buf.pgTimes.set [h.n, j, g] (s.elapsed, s.pfcNext h j) } }
      else s
    else if s.pgShr h j g + s.rd .BUF_PG_CFG_xon_offset [h.n, j, g] ≤ l ∧ s.rd .BUF_PG_CFG_pg_hdrm [h.n, j, g] = 0 then
      let s := (s.st .BUF_PORT_STAT_xoff [h.n, j] (x - 2 ^ g)).pfcSend h j g 0
      { s with buf := { s.buf with pgTimes := (s.buf.pgTimes.erase [h.n, j, g]).erase [h.n, j, g, 1] } }
    else s

/-- Charges a copy to its priority group: `remote` when it is held in the other half (R139). The state table is evaluated at the next arrival or release (R140). -/
def State.pgCharge (s : State) (h : Half) (j g n : Nat) (hdrm remote : Bool) : State :=
  let s := s.bump .BUF_PG_CFG_pg_use [h.n, j, g] n
  let s := if hdrm then s.bump .BUF_PG_CFG_pg_hdrm [h.n, j, g] n else s
  let s := if remote then s.bump .BUF_PG_REMOTE_pg_remote [h.n, j, g] n else s
  s.ipRefresh h

/-- Returns a copy's charge to its priority group: a release, at which the state table is evaluated (R140). -/
def State.pgReturn (s : State) (h : Half) (j g n : Nat) (hdrm remote : Bool) : State :=
  let s := s.lower .BUF_PG_CFG_pg_use [h.n, j, g] n
  let s := if hdrm then s.lower .BUF_PG_CFG_pg_hdrm [h.n, j, g] n else s
  let s := if remote then s.lower .BUF_PG_REMOTE_pg_remote [h.n, j, g] n else s
  (s.ipRefresh h).pgEval h j g

/-- The egress half of a copy (R32). -/
def Frame.egress (f : Frame) : Half := portHalf f.out

/-- The half whose pipe offers a copy to admission. -/
def Frame.ingress (f : Frame) : Half := pipeHalf f.pipe

/-- The priority group of a copy: that of its ingress port; none for internal ports and recirculated passes (R138), nor where the port's half cannot be told of it (R121, R139). -/
def State.pgOf (s : State) (f : Frame) : Option Nat :=
  if 1024 ≤ f.inPort ∨ f.pass ≠ 0 ∨ (portHalf f.inPort ≠ f.ingress ∧ ¬ s.bridgeUp) then none
  else some (bits (s.rd .BUF_PORT_CFG_pg_map [(portHalf f.inPort).n, localIdx f.inPort]) (3 * f.m 195 3) 3)

/-- The copy is stored in the other half than its ingress port's (R125, R139). -/
def Frame.remote (f : Frame) : Bool := decide (f.inPort < 1024) && decide (portHalf f.inPort ≠ f.egress)

/-- The cells of a frame (R124). -/
def cellsOf (len : Nat) : Nat := ceilDiv len 256

/-- An earlier frame of a pipe is still on its way to the traffic manager's front end (R35). -/
def State.frontHeld (s : State) (f : Frame) : Bool :=
  s.behind f (fun g => g.pipe = f.pipe && g.mirror = f.mirror && decide (g.stage ≤ 20) = decide (f.stage ≤ 20)
    && (g.loc = .front || (g.loc = .stages && decide (g.stage < 20))))

/-- An earlier frame from the same source pipe to the same half has still to arrive there, or to be written where `w` (R35). -/
def State.cellsHeldBack (s : State) (f : Frame) (w : Bool) : Bool :=
  s.behind f (fun g => g.pipe = f.pipe && g.egress = f.egress && (g.loc = .granted || g.loc = .crossing || (w && g.loc = .written)))

/-- TM_FRONT_END: a frame after the ingress stages, or a copy made for a mirror or a trap: colour 3 is dropped (R174), a frame for an unreachable half is dropped (R131), the priority group is evaluated (R140), and admission is requested (R33). -/
def doTmFrontEnd (id : Nat) (s : State) : State :=
  match s.fr? id with
  | none => s
  | some f =>
    let h := f.ingress
    if f.loc ≠ .front ∨ s.frontHeld f then s
    else if f.color = 3 then (s.bump .SHP_SLICE_CNT_v [h.n, f.slice] 1).dropFr h 3 f
    else if f.egress ≠ h ∧ ¬ s.bridgeUp then (s.bump .BUF_CNT_v [h.n, 0] 1).dropFr h 0x0A f
    else
      let n := cellsOf f.len
      let j := localIdx f.inPort
      let o := portHalf f.inPort
      let pg := s.pgOf f
      let s := match pg with | some g => s.pgEval o j g | none => s
      let xoff : Bool := match pg with | some g => s.on .BUF_PG_CFG_lossless [o.n, j, g] && s.inXoff o j g | none => false
      let full : Bool := match pg with
        | some g => decide (s.rd .BUF_PG_CFG_hdrm_max [o.n, j, g] < s.rd .BUF_PG_CFG_pg_hdrm [o.n, j, g] + n)
        | none => false
      if xoff ∧ full then (s.bump .BUF_CNT_v [h.n, 1] 1).dropFr h 9 f
      else
        let s := s.setFr { f with loc := .request, cells := n, pg := pg, hdrmReq := xoff }
        let s := { s with buf := { s.buf with reqs := s.buf.reqs ++ [(f.egress, id)] } }
        if f.egress = h then s else s.bridgeMsg h

def execTmFrontEnd (id : Nat) (s : State) : Host.Outcome State Fault Refusal := done (doTmFrontEnd id s)

/-- The queue of a copy in its egress half (R152, R154). -/
def State.queueOf (s : State) (h : Half) (f : Frame) : Nat :=
  let k := localIdx f.out
  let m := s.rd .TMG_PORT_CFG_qmap_prof [h.n, k]
  let e := 8 * s.rd .TMG_SLICE_CFG_qclass [h.n, f.slice] + f.tc % 8
  16 * k + bits (s.rd .TMG_QMAP_queue [h.n, m]) (4 * e) 4

/-- Level-0 IP header: offset and version, 0 for none, by the types that the ingress half's segmenter looks for (R32, R125). -/
def State.ipOf (s : State) (h : Half) (f : Frame) : Nat × Nat :=
  let t4 := s.rd .BUF_ECN_CFG_ip4_type [h.n]
  let t6 := s.rd .BUF_ECN_CFG_ip6_type [h.n]
  match f.hdrs.find? (fun e => e.valid && e.lvl = 0 && ((e.typ = t4 && t4 ≠ 63) || (e.typ = t6 && t6 ≠ 63))) with
  | some e => (e.off, if e.typ = t4 ∧ t4 ≠ 63 then 1 else 2)
  | none => (0, 0)

/-- The ECN field of a frame as received (R125). -/
def ecnOf (bytes : List Byte) (ip : Nat × Nat) : Nat :=
  if ip.2 = 1 then byteAt bytes (ip.1 + 1) % 4 else if ip.2 = 2 then byteAt bytes (ip.1 + 1) / 16 % 4 else 0

/-- The average occupancy of a queue, updated at every decision (R141). -/
def State.avgStep (s : State) (h : Half) (q prof : Nat) : Rat × State :=
  let occ : Rat := ((s.rd .BUF_Q_STAT_q_rsv [h.n, q] + s.rd .BUF_Q_STAT_q_shr [h.n, q] : Nat) : Rat)
  let a := s.buf.avg.getD [h.n, q] 0
  let w := s.rd .BUF_WRED_W_avg_w [h.n, prof]
  let a := a + (occ - a) / ((2 ^ w : Nat) : Rat)
  (a, { s with buf := { s.buf with avg := s.buf.avg.put [h.n, q] a 0 } })

/-- The WRED hit: u against p (R142). -/
def wredHit (d : Rat) (mn mx maxp u : Nat) : Bool :=
  if d < (mn : Rat) then false
  else if (mx : Rat) ≤ d ∨ mx ≤ mn then true
  else decide ((u : Rat) < (maxp : Rat) * (d - (mn : Rat)) / (((mx - mn : Nat)) : Rat) / 256 * 65536)

/-- What the mark-or-drop decision needs: the WRED hit or step, and the ECN rules (R142). -/
structure MarkTest where
  mark : Bool
  drop : Bool
deriving DecidableEq, Repr

/-- The mark-or-drop decision of a copy before its own charge (R142). -/
def State.markTest (s : State) (h : Half) (q : Nat) (f : Frame) (d : Rat) (u : Nat) : MarkTest :=
  let ix := [h.n, q]
  let prof := s.rd .BUF_Q_CFG_wred_prof ix
  let c := min 2 f.color
  let hit := wredHit d (s.rd .BUF_WRED_min [h.n, prof, c]) (s.rd .BUF_WRED_max [h.n, prof, c]) (s.rd .BUF_WRED_max_p [h.n, prof, c]) (u % 65536)
  let th := s.rd .BUF_Q_CFG_ecn_th ix
  let step := decide (th ≠ 0) && decide (16 * th ≤ s.rd .BUF_Q_STAT_q_rsv ix + s.rd .BUF_Q_STAT_q_shr ix)
  let ecn := ecnOf f.bytes (s.ipOf f.ingress f)
  let en := s.on .BUF_Q_CFG_ecn_en ix
  if en && (ecn = 1 || ecn = 2) && (hit || step) then ⟨true, false⟩
  else if en && ecn = 3 then ⟨false, false⟩
  else ⟨false, hit && s.on .BUF_Q_CFG_wred_en ix && !s.on .BUF_Q_CFG_lossless ix⟩

/-- The charges of a grant: reserved cells, shared cells, whether in headroom. -/
structure Charge where
  r : Nat
  shr : Nat
  hdrm : Bool
deriving DecidableEq, Repr

/-- The tests of R135 before congestion marking: the drop counter and cause, or the charges; `wred` is WRED's decision. -/
def State.admitTest (s : State) (h : Half) (q n : Nat) (hdrmReq wred : Bool) : (Nat × Nat) ⊕ Charge :=
  let ix := [h.n, q]
  let rsv := s.rd .BUF_Q_STAT_q_rsv ix
  let shr := s.rd .BUF_Q_STAT_q_shr ix
  let st := s.rd .BUF_PORT_STAT_state [h.n, q / 16]
  let p := poolIx (s.rd .BUF_Q_CFG_pool ix)
  let r := min n (min (s.rd .BUF_Q_CFG_q_min ix - rsv) (s.poolFree h 0))
  let sh := n - r
  let a := s.rd .BUF_Q_CFG_alpha ix
  if 2 ≤ st then .inl (1, 4)
  else if s.rd .BUF_FREE_desc_free [h.n] = 0 then .inl (8, 0x17)
  else if s.rd .BUF_Q_CFG_q_max ix < rsv + shr + n then .inl (2, 5)
  else if hdrmReq then (if s.poolFree h 5 < n then .inl (6, 9) else .inr ⟨0, n, true⟩)
  else if s.on .BUF_Q_CFG_lossless ix then
    if s.poolFree h p < sh then (if s.poolFree h 5 < n then .inl (6, 9) else .inr ⟨0, n, true⟩)
    else .inr ⟨r, sh, false⟩
  else if 0 < sh ∧ a ≠ 15 ∧ alphaOf a (s.poolFree h p) < shr + sh then .inl (3, 6)
  else if s.poolFree h p < sh then .inl (4, 7)
  else if wred then .inl (5, 8)
  else .inr ⟨r, sh, false⟩

/-- The cells of a half that copies hold. -/
def State.cellsUsed (s : State) (h : Half) : List Nat := (s.frames.filter (fun f => f.egress = h)).flatMap (fun f => f.chain)

/-- The descriptors of a half that copies hold. -/
def State.fdsUsed (s : State) (h : Half) : List Nat := (s.frames.filter (fun f => f.egress = h && !f.chain.isEmpty)).map (fun f => f.fd)

/-- The first index from x on, below m and cyclically, that is not used. -/
def freeFrom (used : List Nat) (m x : Nat) : Nat :=
  (x + ((List.range (used.length + 1)).find? (fun i => !used.contains ((x + i) % m))).getD 0) % m

/-- n free cells; which free cell is taken is open (R124, log entry 37). -/
def State.takeCells : Nat → List Nat → State → List Nat × State
  | 0, _, s => ([], s)
  | n + 1, used, s =>
    let (u, s) := s.draw
    let c := freeFrom used 786432 u
    let r := State.takeCells n (c :: used) s
    (c :: r.1, r.2)

/-- The cells that a copy shares with the longest of its frame's copies stored in the half (R127). -/
def State.sharedCells (s : State) (h : Half) (f : Frame) : List Nat :=
  if f.share = 0 then []
  else (s.frames.filter (fun g => g.share = f.share && g.egress = h && g.id ≠ f.id)).foldl (fun a g => if a.length < g.chain.length then g.chain else a) []

/-- Gives a granted copy its cells, in the order of their links, and a frame descriptor (R124, R125, R127). -/
def State.place (s : State) (h : Half) (f : Frame) : Frame × State :=
  let own := if f.chain.isEmpty then (s.sharedCells h f).take f.cells else f.chain
  let r := State.takeCells (f.cells - own.length) (s.cellsUsed h) s
  let (u, s) := r.2.draw
  ({ f with chain := own ++ r.1, fd := freeFrom (s.fdsUsed h) 786432 u }, s)

/-- The link memory of a half: the cell after a cell in its copy's chain (R124). -/
def State.nextCell (s : State) (h : Half) (c : Nat) : Option Nat :=
  (s.frames.filter (fun f => f.egress = h)).findSome? (fun f => if f.chain.contains c then f.chain[f.chain.findIdx (fun x => x = c) + 1]? else none)

/-- The descriptor after a copy's in its queue (R125). -/
def State.nextFd (s : State) (f : Frame) : Option Nat :=
  let q := s.buf.queues.getD [f.egress.n, f.queue] []
  ((q[q.findIdx (fun i => i = f.id) + 1]?).bind s.fr?).map (fun g => g.fd)

/-- The 256 bits of a copy's frame descriptor (R125); `next_fd` of the last copy of a queue, and `pg` of a copy without a group, are given as 0 (log entry 37). -/
def State.descWord (s : State) (f : Frame) : Nat :=
  [(0, 20, f.chain.headD 0), (20, 20, f.chain.getLastD 0), (40, 14, f.bytes.length), (54, 7, f.cells), (61, 10, f.ip.1), (71, 2, f.ip.2),
    (73, 2, ecnOf f.bytes f.ip), (75, 1, b2n f.ce), (76, 1, b2n f.hdrm), (77, 7, f.rsv), (84, 11, f.inPort), (95, 3, f.pg.getD 0),
    (98, 1, b2n (decide (portHalf f.inPort ≠ f.egress))), (99, 20, (s.nextFd f).getD 0), (119, 14, f.queue), (133, 32, f.enqNs)].foldl (fun v x => putBits v x.1 x.2.1 x.2.2) 0

/-- The ECC words of a copy's descriptor, and of its cells and their links (R404). -/
def Frame.fdWords (f : Frame) : List (List Nat) := (List.range 4).map (fun i => [2, f.fd, i])
def Frame.cellWords (f : Frame) : List (List Nat) := f.chain.flatMap (fun c => [1, c] :: (List.range 32).map (fun i => [0, c, i]))

/-- A copy's cells, links and descriptor are written, which clears their errors (R404). -/
def State.cellsWritten (s : State) (f : Frame) : State :=
  (f.fdWords ++ f.cellWords).foldl (fun s w => s.eccClearAt f.egress 3 0 w) s

/-- Takes physical cells for a copy, which shares them with the copies of its frame stored in the same half; a scheduler's trap copy holds its cells already (R127, R214). -/
def State.physTake (s : State) (h : Half) (f : Frame) : State :=
  if ¬ f.chain.isEmpty then s
  else if f.share = 0 then s.lower .BUF_FREE_phys_free [h.n] f.cells
  else
    let v := s.buf.share.getD [h.n, f.share] 0
    let held := v % 128
    let s := s.lower .BUF_FREE_phys_free [h.n] (f.cells - held)
    { s with buf := { s.buf with share := s.buf.share.set [h.n, f.share] ((v / 128 + 1) * 128 + max held f.cells) } }

/-- Frees a copy's hold on physical cells: those that no other copy of its frame stored in the half holds (R127). -/
def State.physFree (s : State) (h : Half) (f : Frame) : State :=
  if f.share = 0 then s.bump .BUF_FREE_phys_free [h.n] f.cells
  else
    let v := s.buf.share.getD [h.n, f.share] 0
    let rest := min (v % 128) (s.sharedCells h f).length
    if v / 128 ≤ 1 then
      { s with buf := { s.buf with share := s.buf.share.erase [h.n, f.share] } }.bump .BUF_FREE_phys_free [h.n] (v % 128)
    else { s with buf := { s.buf with share := s.buf.share.set [h.n, f.share] ((v / 128 - 1) * 128 + rest) } }.bump .BUF_FREE_phys_free [h.n] (v % 128 - rest)

/-- The change count of epochs in a half (R222). -/
def State.epochCnt (s : State) (h : Half) : Nat := match h with | .E => s.timed.chgE | .W => s.timed.chgW

/-- Charges a granted copy to its priority group (R138, R139). -/
def State.pgTake (s : State) (f : Frame) : State :=
  match f.pg with
  | some g => s.pgCharge (portHalf f.inPort) (localIdx f.inPort) g f.cells f.hdrm f.remote
  | none => s

/-- Makes the charges of a grant and grants the copy (R129, R135). -/
def State.grant (s : State) (h : Half) (q : Nat) (f : Frame) (c : Charge) (mark : Bool) : State :=
  let ix := [h.n, q]
  let p := poolIx (s.rd .BUF_Q_CFG_pool ix)
  let occ := s.rd .BUF_Q_STAT_q_rsv ix + s.rd .BUF_Q_STAT_q_shr ix
  let f := { f with
    queue := q, rsv := c.r, pool := p, hdrm := c.hdrm, ce := mark, epoch := s.epochCnt h, ip := s.ipOf f.ingress f
    depth := occ, poolFree := s.poolFree h p }
  let (f, s) := (s.physTake h f).place h f
  let s := if c.hdrm then s.poolCharge h 5 c.shr else (if 0 < c.r then s.poolCharge h 0 c.r else s)
  let s := if c.hdrm ∨ c.shr = 0 then s else s.poolCharge h p c.shr
  let s := (s.bump .BUF_Q_STAT_q_rsv ix c.r).bump .BUF_Q_STAT_q_shr ix c.shr
  let s := s.st .BUF_Q_STAT_peak ix (max (s.rd .BUF_Q_STAT_peak ix) (s.rd .BUF_Q_STAT_q_rsv ix + s.rd .BUF_Q_STAT_q_shr ix))
  let s := (s.lower .BUF_FREE_desc_free [h.n] 1).bump .BUF_Q_CNT_v [h.n, q, 0] 1
  let s := if mark then s.bump .BUF_Q_CNT_v [h.n, q, 7] 1 else s
  let s := if f.ingress = h ∨ portHalf f.inPort ≠ f.ingress then s.pgTake f else s
  if f.ingress = h then (s.setFr { f with loc := .written }).cellsWritten f
  else { s.setFr { f with loc := .granted } with buf := { s.buf with grants := s.buf.grants ++ [(f.ingress, f.id)] } }.bridgeMsg h

/-- Refuses a copy at admission: the queue's counter, or DESC_DROP of the half (R135). -/
def State.refuse (s : State) (h : Half) (q : Nat) (f : Frame) (cnt cause : Nat) : State :=
  let s := if cnt = 8 then s.bump .BUF_CNT_v [h.n, 5] 1 else s.bump .BUF_Q_CNT_v [h.n, q, cnt] 1
  let s := if f.chain.isEmpty then s else s.physFree h f
  s.dropFr h cause { f with queue := q }

/-- Whether a copy reaches the random draw of R142: every test before WRED and marking passes. -/
def State.drawsU (s : State) (h : Half) (q n : Nat) (hdrmReq : Bool) : Bool :=
  match s.admitTest h q n hdrmReq false with | .inl _ => false | .inr _ => true

/-- ADMISSION_DECISION: the first request waiting at a half is decided (R129, R135, R141, R142). -/
def doAdmissionDecision (h : Half) (s : State) : State :=
  match s.buf.reqs.find? (fun r => r.1 = h) with
  | none => s
  | some r =>
    let s := { s with buf := { s.buf with reqs := s.buf.reqs.erase r } }
    match s.fr? r.2 with
    | none => s
    | some f =>
      if f.loc ≠ .request then s
      else
        let q := s.queueOf h f
        let (d, s) := s.avgStep h q (s.rd .BUF_Q_CFG_wred_prof [h.n, q])
        let (u, s) := if s.drawsU h q f.cells f.hdrmReq then s.draw else (0, s)
        let m := s.markTest h q f d u
        match s.admitTest h q f.cells f.hdrmReq m.drop with
        | .inl (cnt, cause) => s.refuse h q f cnt cause
        | .inr c => s.grant h q f c m.mark

def execAdmissionDecision (h : Half) (s : State) : Host.Outcome State Fault Refusal := done (doAdmissionDecision h s)

/-- ADMISSION_GRANT: the first grant travelling toward an ingress half arrives; the frame's cells start across the bridge (R130, R139). -/
def doAdmissionGrant (h : Half) (s : State) : State :=
  match s.buf.grants.find? (fun r => r.1 = h) with
  | none => s
  | some r =>
    let s := { s with buf := { s.buf with grants := s.buf.grants.erase r } }
    match s.fr? r.2 with
    | none => s
    | some f =>
      if f.loc ≠ .granted then s
      else
        let s := (s.setFr { f with loc := .crossing }).pmc h 9 (pmcDev 0 0 0 0) f.cells
        if portHalf f.inPort = h then s.pgTake f else s

def execAdmissionGrant (h : Half) (s : State) : Host.Outcome State Fault Refusal := done (doAdmissionGrant h s)

/-- BRIDGE_CELL_ARRIVAL, in the order of each source pipe (R35): the last cell of a granted copy arrives at its egress half and is written (R35, R130). -/
def doBridgeCellArrival (id : Nat) (s : State) : State :=
  match s.fr? id with
  | some f => if f.loc = .crossing ∧ ¬ s.cellsHeldBack f false then (s.setFr { f with loc := .written }).cellsWritten f else s
  | none => s

def execBridgeCellArrival (id : Nat) (s : State) : Host.Outcome State Fault Refusal := done (doBridgeCellArrival id s)

/-- Returns a copy's charges, cells and descriptor (R128); `notice` says whether a charge in the other half is returned by a release notice. -/
def State.bufFree (s : State) (f : Frame) (notice : Bool) : State :=
  let h := f.egress
  let ix := [h.n, f.queue]
  let shr := f.cells - f.rsv
  let s := (s.lower .BUF_Q_STAT_q_rsv ix f.rsv).lower .BUF_Q_STAT_q_shr ix shr
  let s := if f.hdrm then s.poolReturn h 5 f.cells
    else (let s := if 0 < f.rsv then s.poolReturn h 0 f.rsv else s; if 0 < shr then s.poolReturn h f.pool shr else s)
  let s := (s.bump .BUF_FREE_desc_free [h.n] 1).physFree h f
  match f.pg with
  | none => s
  | some g =>
    let ih := portHalf f.inPort
    let j := localIdx f.inPort
    if ih = h then s.pgReturn h j g f.cells f.hdrm false
    else if notice ∧ s.bridgeUp then { s with buf := { s.buf with notices := s.buf.notices ++ [(ih, j, g, f.cells, f.hdrm)] } }.bridgeMsg h
    else s

/-- A positive deficit of a member that becomes empty is cleared (R165): the member's key. -/
def State.deficitClear (s : State) (k : List Nat) : State :=
  if 0 < s.sched.deficit.getD k 0 then { s with sched := { s.sched with deficit := s.sched.deficit.erase k } } else s

/-- The queues of a group of a port, in index order (R163). -/
def State.groupQueues (s : State) (h : Half) (k g : Nat) : List Nat :=
  ((List.range 16).map (fun i => 16 * k + i)).filter (fun q => s.rd .TMG_Q_CFG_group [h.n, q] = g)

/-- Groups of a port none of whose queues holds a copy lose a positive deficit (R165). -/
def State.groupsClear (s : State) (h : Half) (k : Nat) : State :=
  (List.range 4).foldl (fun s g => if (s.groupQueues h k g).all (fun x => (s.buf.queues.getD [h.n, x] []).isEmpty) then s.deficitClear [h.n, 1, 4 * k + g] else s) s

/-- Takes a copy out of its queue's list; a queue or group that becomes empty loses a positive deficit. -/
def State.unqueue (s : State) (h : Half) (q id : Nat) : State :=
  let l := (s.buf.queues.getD [h.n, q] []).filter (fun x => x ≠ id)
  let s := { s with buf := { s.buf with queues := s.buf.queues.put [h.n, q] l [] } }
  if l ≠ [] then s
  else
    let g := s.rd .TMG_Q_CFG_group [h.n, q]
    let s := s.deficitClear [h.n, 0, q]
    if (s.groupQueues h (q / 16) g).all (fun x => (s.buf.queues.getD [h.n, x] []).isEmpty) then s.deficitClear [h.n, 1, 4 * (q / 16) + g] else s

/-- The copies of a queue, the head first. -/
def State.queueIds (s : State) (h : Half) (q : Nat) : List Nat := s.buf.queues.getD [h.n, q] []

/-- A queued or written copy is freed at a drop point of its egress half. -/
def State.freeDrop (s : State) (f : Frame) (cause : Nat) : State :=
  let h := f.egress
  ((s.unqueue h f.queue f.id).bufFree f true).dropFr h cause f

/-- The grid runs: RUNNING, RUNNING_PEND or STOPPING (R221). -/
def State.gridRuns (s : State) : Bool := let st := s.rd .EPC_STAT_state [0]; decide (2 ≤ st ∧ st ≤ 4)

/-- A queue is an epoch queue (R221). -/
def State.epQueue (s : State) (h : Half) (q : Nat) : Bool := decide (q < 8192) && s.on .GTE_Q_CFG_ep_en [h.n, q]

/-- A copy carries the old tag in the FORCED state, and its egress half has made its flip (R91, R403). -/
def State.forcedOld (s : State) (f : Frame) : Bool :=
  match s.swap with
  | some w => s.rd .MAT_PROG_CTL_state [32] = 2 && f.tag = w.old && decide (s.rd .MAT_PROG_CTL_active [33 + f.egress.n] ≠ w.old)
  | none => false

/-- Adds to the forced count of a swap. -/
def State.forcedAdd (s : State) (n : Nat) : State :=
  { s with swap := s.swap.map (fun w => { w with forced := w.forced + n }) }

/-- Frees a copy with the old tag in the FORCED state (R91). -/
def State.drainDrop (s : State) (f : Frame) : State :=
  ((s.bump .MAT_DRAIN_CNT_v [33 + f.egress.n] 1).forcedAdd 1).freeDrop f 0x10

/-- ENQUEUE, in the order of each source pipe (R35): a copy whose last cell is written enters its queue, unless its port is flushing (R147), it is stale (R222), or it has the old tag in the FORCED state (R91). -/
def doEnqueue (id : Nat) (s : State) : State :=
  match s.fr? id with
  | none => s
  | some f =>
    let h := f.egress
    if f.loc ≠ .written ∨ s.cellsHeldBack f true then s
    else if s.rd .BUF_PORT_STAT_state [h.n, localIdx f.out] = 2 then
      let s := { s with buf := { s.buf with flush := match s.buf.flush.get? [f.out] with
        | some x => s.buf.flush.set [f.out] { x with freed := x.freed + 1 }
        | none => s.buf.flush } }
      (s.bump .BUF_Q_CNT_v [h.n, f.queue, 1] 1).freeDrop f 4
    else if s.forcedOld f then s.drainDrop f
    else if s.gridRuns ∧ s.epQueue h f.queue ∧ f.epoch ≠ s.epochCnt h then
      (s.bump .GTE_CNT_v [h.n, f.queue, 5] 1).freeDrop f 0x0E
    else
      let s := s.setFr { f with loc := .queued, enqNs := tNs (s.now h) }
      { s with buf := { s.buf with queues := s.buf.queues.set [h.n, f.queue] (s.queueIds h f.queue ++ [id]) } }

def execEnqueue (id : Nat) (s : State) : Host.Outcome State Fault Refusal := done (doEnqueue id s)

/-- PG_RELEASE_NOTICE: the first release notice on the bridge toward a half (R128, R139). -/
def doPgReleaseNotice (h : Half) (s : State) : State :=
  match s.buf.notices.find? (fun m => m.1 = h) with
  | none => s
  | some m =>
    let s := { s with buf := { s.buf with notices := s.buf.notices.erase m } }
    s.pgReturn h m.2.1 m.2.2.1 m.2.2.2.1 m.2.2.2.2 true

def execPgReleaseNotice (h : Half) (s : State) : Host.Outcome State Fault Refusal := done (doPgReleaseNotice h s)

/-- PFC_REFRESH: a lossless group in XOFF sends its PFC frame again (R138, R140). -/
def doPfcRefresh (port pg : Nat) (s : State) : State :=
  let h := portHalf port
  let j := localIdx port
  match (if s.on .BUF_PG_CFG_lossless [h.n, j, pg] then s.buf.pgTimes.get? [h.n, j, pg] else none) with
  | some t =>
    let s := s.runTo t.2
    let s := s.pfcSend h j pg (s.rd .BUF_PORT_CFG_pfc_quanta [h.n, j])
    { s with buf := { s.buf with pgTimes := s.buf.pgTimes.set [h.n, j, pg] (t.1, s.pfcNext h j) } }
  | none => s

def execPfcRefresh (port pg : Nat) (s : State) : Host.Outcome State Fault Refusal := done (doPfcRefresh port pg s)

/-- PFC_STORM: a lossless group has stayed in XOFF longer than `storm_ms` (R150); once for each stay. -/
def doPfcStorm (port pg : Nat) (s : State) : State :=
  let h := portHalf port
  let j := localIdx port
  let ms := s.rd .BUF_MISC_storm_ms [h.n]
  match (if s.on .BUF_PG_CFG_lossless [h.n, j, pg] then s.buf.pgTimes.get? [h.n, j, pg] else none) with
  | some t =>
    if ms = 0 ∨ (s.buf.pgTimes.get? [h.n, j, pg, 1]).isSome then s
    else
      let s := s.runTo (t.1 + ms * 1000000)
      let s := { s with buf := { s.buf with pgTimes := s.buf.pgTimes.set [h.n, j, pg, 1] (1, 0) } }
      s.raise 0x0021 h.n [(0, 2, port), (2, 1, pg)]
  | none => s

def execPfcStorm (port pg : Nat) (s : State) : Host.Outcome State Fault Refusal := done (doPfcStorm port pg s)

/-- A port that is configured: the internal ports always (R126, R148). -/
def State.configured (s : State) (p : Nat) : Bool := decide (1024 ≤ p ∧ p < 1088) || (s.lanes.ports.get? [p]).isSome

/-- An engine of the FLUSH routine frees every queued copy of one queue of a port whose flush has begun (R145). -/
def State.flushPiece (s : State) (port i : Nat) : State :=
  match s.buf.flush.get? [port] with
  | none => s
  | some x =>
    let ids := s.queueIds (portHalf port) (16 * localIdx port + i)
    let s := { s with buf := { s.buf with flush := s.buf.flush.set [port] { x with freed := x.freed + ids.length, left := x.left.erase i } } }
    ids.foldl (fun s id => match s.fr? id with
      | some f => (s.bump .BUF_Q_CNT_v [f.egress.n, f.queue, 1] 1).freeDrop f 4
      | none => s) s

/-- The event of the FLUSH routine for a queue of a port: the flush is split queue by queue (R303). -/
def flushBody (port i : Nat) : List Word := [BitVec.ofNat 64 port, BitVec.ofNat 64 i]

/-- The queues of a port that its flush has not emptied yet are events of the FLUSH routine (R145, R302, R303). -/
def State.flushRun (s : State) (port : Nat) : State :=
  ((s.buf.flush.getD [port] ⟨none, 0, []⟩).left).foldl (fun s i => s.viaRoutine (portHalf port) 2 (flushBody port i) (fun s => s.flushPiece port i)) s

/-- FLUSH_BEGIN: the port refuses admission, its groups return to XON without a PFC frame, its pause timers, deficits and horizon clear, the FDB port deletion starts, and then an engine frees its queued copies (R120, R140, R145, R169, R205). -/
def State.flushBegin (s : State) (port : Nat) (relaunch : Bool) (desc : Option Hdr) : State :=
  let h := portHalf port
  let k := localIdx port
  let s := s.sts [(.BUF_PORT_STAT_state, [h.n, k], 2), (.BUF_PORT_STAT_relaunch, [h.n, k], b2n relaunch), (.BUF_PORT_STAT_up_seen, [h.n, k], 0)]
  let s := (s.st .BUF_PORT_STAT_xoff [h.n, k] 0).st .TMG_PFC_STAT_paused [h.n, k] 0
  let s := { s with
    fdb := { s.fdb with portDue := if port < 1024 then s.fdb.portDue.filter (fun (d : Half × Nat) => d.2 ≠ port) ++ [(Half.E, port), (Half.W, port)] else s.fdb.portDue }
    buf := { s.buf with
      flush := s.buf.flush.set [port] (Flush.mk desc 0 (List.range 16))
      pgTimes := s.buf.pgTimes.filter (fun e => e.1.take 2 ≠ [h.n, k]) }
    timed := { s.timed with horizon := s.timed.horizon.erase [port] }
    sched := { s.sched with
      pause := s.sched.pause.filter (fun e => e.1.head? ≠ some port)
      deficit := s.sched.deficit.filter (fun e => match e.1 with
        | [x, c, i] => ¬ (x = h.n ∧ ((c = 0 ∧ i / 16 = k) ∨ (c = 1 ∧ i / 4 = k)))
        | _ => true) } }
  let s := (s.irqAll h 2).flushRun port
  (s.portDueRun .E).portDueRun .W

/-- PORT_FLUSH (R148): completed when the fence retires. -/
def doPortFlush (d : Hdr) (port : Nat) (s : State) : State :=
  s.serve d ⟨0x31, .config, true, false, 0⟩ true (cleanHdr d false false false) fun s =>
    if ¬ s.configured port then s.reject d 0x31
    else if s.rd .BUF_PORT_STAT_state [(portHalf port).n, localIdx port] ≠ 0 then s.reject d 0x30
    else s.flushBegin port true (some d)

def execPortFlush (d : Hdr) (port : Nat) (s : State) : Host.Outcome State Fault Refusal := doneDesc (.portFlush (bareHdr d) port) d (doPortFlush d port) s

/-- BUF_PART_SET (R133, R148, R149). -/
def doBufPartSet (d : Hdr) (sizes : List Nat) (s : State) : State :=
  s.serve d ⟨0x30, .config, true, false, 1⟩ true (cleanHdr d false false false) fun s =>
    let z := (List.range 8).map (fun i => sizes.getD i 0)
    if 786431 < z.sum then s.fail d 0x1C
    else
      let h : Half := if d.halfW then .W else .E
      let old := (List.range 8).map (fun i => s.poolFree h i)
      let s := (List.range 8).foldl (fun s i => s.st .BUF_PART_size [h.n, i] (z.getD i 0)) s
      let s := (List.range 8).foldl (fun s i => s.poolWatch h i (old.getD i 0)) s
      s.ok d 0

def execBufPartSet (d : Hdr) (sizes : List Nat) (s : State) : Host.Outcome State Fault Refusal := doneDesc (.bufPartSet (bareHdr d) sizes) d (doBufPartSet d sizes) s

/-- Frames between admission and the egress buffer when the bridge is lost (R132), and the charges held in the other half (R139). R139 sets only `pg_remote` to 0; the model also takes what the other half holds off `pg_use`, and its headroom cells off `pg_hdrm`, since no release notice can return them any more (DESIGN CHOICE: log entry 21). -/
def State.bufBridgeLost (s : State) : State :=
  let cut := s.frames.filter (fun f => f.egress ≠ f.ingress && (f.loc = .request || f.loc = .granted || f.loc = .crossing))
  let s := cut.foldl (fun s f =>
    let h := f.ingress
    let s := if f.loc = .request then s else s.bufFree (if f.remote then { f with pg := none } else f) false
    let s := s.bump .BUF_CNT_v [h.n, 0] 1
    s.dropFr h 0x0A { f with queue := if f.loc = .request then 0x3FFF else f.queue }) s
  let gone := cut.map (fun f => f.id)
  let owed := s.buf.notices
  let s := { s with buf := { s.buf with reqs := s.buf.reqs.filter (fun r => !gone.contains r.2), grants := [], notices := [] } }
  let remote := s.regs.filterMap (fun e => match e.1 with
    | [f, x, j, g] => if f = Fld.BUF_PG_REMOTE_pg_remote.ctorIdx then some (x, j, g, e.2) else none
    | _ => none)
  let held := (s.frames.filterMap (fun f => match f.pg with
      | some g => if f.hdrm ∧ f.remote ∧ ¬ gone.contains f.id then some (portHalf f.inPort, localIdx f.inPort, g, f.cells) else none
      | none => none))
    ++ ((cut.filter (fun f => f.loc = .crossing && f.hdrm && f.remote)).filterMap (fun f => f.pg.map (fun g => (f.ingress, localIdx f.inPort, g, f.cells))))
    ++ (owed.filter (fun m => m.2.2.2.2)).map (fun m => (m.1, m.2.1, m.2.2.1, m.2.2.2.1))
  let s := held.foldl (fun s m => s.lower .BUF_PG_CFG_pg_hdrm [m.1.n, m.2.1, m.2.2.1] m.2.2.2) s
  let s := remote.foldl (fun s r =>
    (s.lower .BUF_PG_CFG_pg_use [r.1, r.2.1, r.2.2.1] r.2.2.2).st .BUF_PG_REMOTE_pg_remote [r.1, r.2.1, r.2.2.1] 0) s
  let s := (s.ipRefresh .E).ipRefresh .W
  let s := remote.foldl (fun s r => s.pgEval (Half.of r.1) r.2.1 r.2.2.1) s
  { s with frames := s.frames.map (fun f => if f.remote then { f with pg := none } else f) }

end Sys2Proof.Machine
end

