-- ==== Sys2Proof/Machine/Hamper.lean ====
section
/-!
DEFINITION. The Hamper scratchpad (R312-R318): its words, the read-modify-writes performed at a bank, the bit-set and bit-clear aliases, and the ECC of its words (R404).
-/

namespace Sys2Proof.Machine

/-- The Hamper of a half. -/
def State.ham (s : State) (h : Half) : Memory := match h with | .E => s.clove.hamE | .W => s.clove.hamW

/-- Replaces the Hamper of a half. -/
def State.setHam (s : State) (h : Half) (m : Memory) : State :=
  match h with
  | .E => { s with clove := { s.clove with hamE := m } }
  | .W => { s with clove := { s.clove with hamW := m } }

/-- The word address without the alias bits (R312). -/
def hamWord (addr : Nat) : Nat := addr % 2 ^ 22

/-- The bank of an address (R312). -/
def hamBank (addr : Nat) : Nat := bits addr 3 7

/-- The row of an address (R312). -/
def hamRow (addr : Nat) : Nat := bits addr 10 12

/-- An address in the stateful region, outside the aliases, at a word (R312). -/
def hamStateful (addr : Nat) : Bool := decide (0x100000 ≤ addr ∧ addr < 0x400000 ∧ addr % 8 = 0)

/-- The 64-bit word at an address, aliases read as the word (R312, R318). -/
def State.hamRead (s : State) (h : Half) (addr : Nat) : Nat := leNat ((s.ham h).bytes (hamWord addr) 8)

/-- Writes a word through its address: plainly, or through the bit-set or the bit-clear alias (R318). -/
def State.hamWrite (s : State) (h : Half) (addr v : Nat) : State :=
  let old := s.hamRead h addr
  let v := v % 2 ^ 64
  let new := match bits addr 22 2 with
    | 1 => old ||| v
    | 2 => old - (old &&& v)
    | _ => v
  (s.setHam h ((s.ham h).putBytes (hamWord addr) (leBytes 8 new))).eccClear h 0 0 (hamBank addr) (hamRow addr)

/-- The new value of a word under a read-modify-write (R76, R313). -/
def rmw (op : Config.RmwOp) (old arg cmp : Nat) : Nat :=
  match op with
  | .add => (old + arg) % 2 ^ 64
  | .max => max old (arg % 2 ^ 64)
  | .min => min old (arg % 2 ^ 64)
  | .swap => arg % 2 ^ 64
  | .cas => if old = cmp % 2 ^ 64 then arg % 2 ^ 64 else old

/-- A pipeline REG operation at its bank: the old word, none where it is not performed (R76, R315, R404). An address outside the stateful region, or of no whole word, is not performed either, and counts in REG_MISSED (DESIGN CHOICE: log entry 23). -/
def State.regOp (s : State) (pipe : Nat) (missed : Bool) (op : Config.RmwOp) (addr arg cmp : Nat) : Option Nat × State :=
  let h := pipeHalf pipe
  let ev := pmcDev 1 pipe addr 2
  let miss (s : State) : Option Nat × State := (none, s.bump .HAM_CNT_v [h.n, 0] 1)
  if missed ∨ ¬ hamStateful addr then miss s
  else
    let s := s.pmc h 1 ev 1
    let (bad, s) := s.eccRead h 0 0 (hamBank addr) (hamRow addr) ev
    if bad then miss s
    else
      let old := s.hamRead h addr
      (some old, (s.setHam h ((s.ham h).putBytes addr (leBytes 8 (rmw op old arg cmp)))).eccClear h 0 0 (hamBank addr) (hamRow addr))

end Sys2Proof.Machine
end

