-- ==== Sys2Proof/Machine/Parser.lean ====
section
/-!
DEFINITION. Step 3 of the frame path (R32): ingress arbitration (R26-R28), the parser graph (R46-R52), length checks (R59), slice and generation (R56, R58), the flow hash (R64-R66), events and default actions (R60-R63), and PARSE itself.
-/

namespace Sys2Proof.Machine

/-- A header the parser passed, kept for R59, R65 and R480; `proto` is the IP protocol number that announced it, 300 for the header that follows UDP, 256 for none. -/
structure PHdr where
  off : Nat
  len : Nat
  lvl : Nat
  vlan : Bool
  tun : Bool
  lchk : Nat
  proto : Nat
deriving DecidableEq, Repr

/-- The last IP header passed: whether it is IPv6, its payload bytes without the IPv6 extension headers passed, and whether the datagram is fragmented: 0 no, 1 first fragment, 2 later fragment. -/
structure IpCtx where
  v6 : Bool
  pay : Int
  frag : Nat
deriving DecidableEq, Repr

/-- The parser's own state along a pass (R51). -/
structure PState where
  st : Nat
  off : Nat
  hdrCnt : Nat
  lvl : Nat
  vcnt : List Nat
  ctr : SMap Nat
  /-- Where each container's bytes stand: the header's offset, and the offset in it. -/
  fills : SMap (Nat × Nat)
  hdrs : List HdrEnt
  seen : List PHdr
  ip : Option IpCtx
  nextProto : Nat
  trunc : Bool
  conflict : Bool
  short : Bool
  stop : Bool
deriving DecidableEq, Repr

/-- The big-endian field of w bits at bit offset o of the header at byte `off` (R48); `data` ends before the FCS. -/
def hdrField (data : List Byte) (off o w : Nat) : Nat :=
  let b := 8 * off + o
  let n := ceilDiv (b % 8 + w) 8
  be data (b / 8) n / 2 ^ (8 * n - b % 8 - w) % 2 ^ w

/-- A width code: 0 means 16 (R47). -/
def w16 (w : Nat) : Nat := if w = 0 then 16 else w

/-- The parser TCAM key of a state (R48). -/
def parserKey (rec : Nat) (data : List Byte) (off : Nat) : Nat :=
  hdrField data off (bits rec 44 10) (w16 (bits rec 54 4)) * 2 ^ 16
  + if bit rec 72 then hdrField data off (bits rec 58 10) (w16 (bits rec 68 4)) else 0

/-- The next state: the winning TCAM entry, else `default_next` (R49, R51). A range that runs past entry 1,023 does not wrap: no entry stands beyond (DESIGN CHOICE: log entry 11). -/
def parserNext (p : Prog) (rec key : Nat) : Nat :=
  let base := bits rec 73 10
  match (List.range (bits rec 83 8)).find? (fun i =>
      let e := p.tcam.getD [base + i] 0
      decide (base + i < 1024) && bit e 72 && (key &&& bits e 32 32) = (bits e 0 32 &&& bits e 32 32)) with
  | some i => bits (p.tcam.getD [base + i] 0) 64 8
  | none => bits rec 103 8

/-- The moves of an extraction map and its chained entries in order: class, container, offset in the header (R50). A valid move of the reserved class 3, or to a container that does not exist, moves nothing; a chain goes on from entry 511 at entry 0 and ends after 512 entries (DESIGN CHOICE: log entry 11). -/
def mapMoves (p : Prog) : Nat → Nat → List (Nat × Nat × Nat)
  | 0, _ => []
  | n + 1, x =>
    let e := p.xmap.getD [x] 0
    (List.range 8).filterMap (fun i =>
        let m := bits e (32 * i) 32
        if bit m 18 && ctrOk (bits m 9 2) (bits m 11 7) then some (bits m 9 2, bits m 11 7, bits m 0 9) else none)
      ++ if bit e 255 then mapMoves p n ((x + 1) % 512) else []

/-- The extraction of a header at an offset: the containers with their new bytes (R50). -/
def extract (data : List Byte) (off : Nat) (ms : List (Nat × Nat × Nat)) (ctr : SMap Nat) : SMap Nat :=
  ms.foldl (fun (c : SMap Nat) m => c.set [m.1, m.2.1] (be data (off + m.2.2) (2 ^ m.1))) ctr

/-- Next headers that are IPv6 extension headers (PRESUMED: RFC 8200; log entry 11). -/
def extHdr (p : Nat) : Bool := [0, 43, 44, 51, 60, 135].contains p

/-- The length check of a header, and the IP context after it (R59). -/
def lengthCheck (kind : Nat) (data : List Byte) (off remain : Nat) (ip : Option IpCtx) : Bool × Option IpCtx :=
  match kind with
  | 1 =>
    let ihl := byteAt data off % 16 * 4
    let tot := be data (off + 2) 2
    let fo := be data (off + 6) 2
    let frag := if fo % 2 ^ 13 ≠ 0 then 2 else if bit fo 13 then 1 else 0
    (decide (remain < tot) || decide (tot < ihl), some ⟨false, (tot : Int) - (ihl : Int), frag⟩)
  | 2 =>
    let pl := be data (off + 4) 2
    (decide (remain < 40 + pl), some ⟨true, (pl : Int), 0⟩)
  | 3 =>
    let l : Int := ((be data (off + 4) 2 : Nat) : Int)
    (decide (l < 8) || (match ip with
      | some c => (c.frag = 0 && l ≠ c.pay) || (c.frag = 1 && decide (l < c.pay))
      | none => false), ip)
  | 4 =>
    (match ip with
      | some c => decide (c.pay < ((byteAt data (off + 12) / 16 * 4 : Nat) : Int))
      | none => false, ip)
  | 5 => (decide (((remain : Nat) : Int) - 14 < ((be data (off + 12) 2 : Nat) : Int)), ip)
  | _ => (false, ip)

/-- One state of the graph (R51): `data` is the frame up to its FCS. -/
def parseState (p : Prog) (data : List Byte) (hdrLimit depthLimit : Nat) (s : PState) : PState :=
  let rec_ := p.states.getD [s.st] 0
  let tun := bit rec_ 7
  let vlan := bit rec_ 8
  if s.st = 255 then { s with stop := true }
  else if s.hdrCnt = hdrLimit ∨ (tun ∧ s.lvl = 3) ∨ (vlan ∧ s.vcnt.getD s.lvl 0 = 4) then
    { s with trunc := true, stop := true }
  else
    let remain := data.length - s.off
    let fo := bits rec_ 20 10
    let fw := w16 (bits rec_ 30 4)
    let computed := bit rec_ 9 && decide ((fo + fw - 1) / 8 + 1 ≤ remain)
    let fixed : Nat := bits rec_ 10 10
    let len := if computed then hdrField data s.off fo fw * 2 ^ bits rec_ 34 2 + bits rec_ 36 8 else fixed
    if computed ∧ len < fixed then { s with conflict := true, stop := true }
    else if data.length < s.off + len then { s with short := true, stop := true }
    else if depthLimit < s.off + len then { s with trunc := true, stop := true }
    else
      let typ := bits rec_ 0 6
      let lvl := if tun then s.lvl + 1 else s.lvl
      let moves := if typ ≠ 63 ∧ bit rec_ 6 then mapMoves p 512 (bits rec_ 91 9) else []
      let hdrs := if typ ≠ 63 then s.hdrs ++ [⟨typ, s.off, lvl, len, true⟩] else s.hdrs
      let kind := bits rec_ 100 3
      let (bad, ip) := lengthCheck kind data s.off remain s.ip
      let ip := match ip with
        | some c =>
          if c.v6 ∧ extHdr s.nextProto then
            let x := be data (s.off + 2) 2
            let frag := if s.nextProto ≠ 44 then c.frag else if x / 8 ≠ 0 then 2 else if bit x 0 then 1 else c.frag
            some { c with pay := c.pay - ((len : Nat) : Int), frag := frag }
          else some c
        | none => none
      let next :=
        if kind = 1 then byteAt data (s.off + 9) else if kind = 2 then byteAt data (s.off + 6)
        else if extHdr s.nextProto then byteAt data s.off else if s.nextProto = 17 then 300 else 256
      { s with
        st := parserNext p rec_ (parserKey rec_ data s.off)
        off := s.off + len
        hdrCnt := s.hdrCnt + 1
        lvl := lvl
        vcnt := if vlan then s.vcnt.set lvl (s.vcnt.getD lvl 0 + 1) else s.vcnt
        ctr := extract data s.off moves s.ctr
        fills := moves.foldl (fun (c : SMap (Nat × Nat)) m => c.set [m.1, m.2.1] (s.off, m.2.2)) s.fills
        hdrs := hdrs
        seen := s.seen ++ [⟨s.off, len, lvl, vlan, tun, kind, s.nextProto⟩]
        ip := ip
        nextProto := next
        conflict := s.conflict || bad }

/-- The graph run from state 0 (R46, R51). -/
def parseRun (p : Prog) (data : List Byte) (hdrLimit depthLimit : Nat) : Nat → PState → PState
  | 0, s => s
  | n + 1, s => if s.stop then s else parseRun p data hdrLimit depthLimit n (parseState p data hdrLimit depthLimit s)

/-- The start of a parse. -/
def PState.start : PState := ⟨0, 0, 0, 0, [0, 0, 0, 0], [], [], [], [], none, 256, false, false, false, false⟩

/-- The outermost VLAN tag of a level: its TCI (R480). -/
def outerTci (data : List Byte) (seen : List PHdr) (lvl : Nat) : Option Nat :=
  (seen.find? (fun h => h.vlan && h.lvl = lvl)).map (fun h => be data h.off 2)

/-- The Ethernet header of a level: the first header of level 0, and the first 14-byte header of a deeper level that is no tunnel header (log entry 11). -/
def ethHdr (seen : List PHdr) (lvl : Nat) : Option PHdr :=
  if lvl = 0 then seen.head? else seen.find? (fun h => h.lvl = lvl && !h.tun && h.len = 14)

/-- The EtherType after tags of a level (R480). -/
def etherType (data : List Byte) (seen : List PHdr) (lvl : Nat) : Option Nat :=
  match (seen.filter (fun h => h.vlan && h.lvl = lvl)).getLast? with
  | some h => some (be data (h.off + 2) 2)
  | none => (ethHdr seen lvl).map (fun h => be data (h.off + 12) 2)

/-- The VNI of a VXLAN or Geneve header, the header that follows UDP (log entry 11). -/
def vxVni (data : List Byte) (h : PHdr) : Option Nat := if h.proto = 300 && h.tun then some (be data (h.off + 4) 3) else none

/-- The VNI or GRE key of a tunnel header (R65). -/
def tunVni (data : List Byte) (h : PHdr) : Option Nat :=
  match vxVni data h with
  | some v => some v
  | none =>
    if h.proto = 47 ∧ h.tun ∧ bit (byteAt data h.off) 5 then
      some (be data (h.off + 4 + if bit (byteAt data h.off) 7 then 4 else 0) 4)
    else none

/-- The slice of a VID in a pipe's VLAN map (R56, R57). -/
def State.vlanSlice (s : State) (pipe vid : Nat) : Option Nat :=
  let ix := [pipe, vid / 4]
  let r := match vid % 4 with
    | 0 => (s.rd .PAR_VLAN_MAP_slice0 ix, s.rd .PAR_VLAN_MAP_valid0 ix)
    | 1 => (s.rd .PAR_VLAN_MAP_slice1 ix, s.rd .PAR_VLAN_MAP_valid1 ix)
    | 2 => (s.rd .PAR_VLAN_MAP_slice2 ix, s.rd .PAR_VLAN_MAP_valid2 ix)
    | _ => (s.rd .PAR_VLAN_MAP_slice3 ix, s.rd .PAR_VLAN_MAP_valid3 ix)
  if r.2 = 1 then some r.1 else none

/-- The bucket of a VNI (R57). -/
def vniBucket (v : Nat) : Nat := (v % 2 ^ 13) ^^^ (v / 2 ^ 13 % 2 ^ 11)

/-- The way of the VNI map that holds a VNI. -/
def State.vniWay (s : State) (v : Nat) : Option Nat :=
  (List.range 4).find? (fun w => match s.tables.vni.get? [vniBucket v, w] with | some e => e.1 = v | none => false)

/-- The slice of a VNI. -/
def State.vniSlice (s : State) (v : Nat) : Option Nat :=
  match s.vniWay v with
  | some w => (s.tables.vni.get? [vniBucket v, w]).map (fun e => e.2)
  | none => none

/-- The slice of a front-panel frame by its port's source chain (R56). -/
def State.sliceOf (s : State) (pipe entry : Nat) (data : List Byte) (seen : List PHdr) : Nat :=
  let ix := [pipe, entry]
  let mode := s.rd .PAR_PORT_CFG_slice_mode ix
  let vlan := match outerTci data seen 0 with
    | some t => s.vlanSlice pipe (t % 4096)
    | none => none
  let vni := match (seen.filter (fun h => h.lvl = 1)).findSome? (vxVni data) with
    | some v => s.vniSlice v
    | none => none
  let dflt := s.rd .PAR_PORT_CFG_def_slice ix
  match mode with
  | 0 => dflt
  | 1 => vlan.getD dflt
  | 2 => vni.getD dflt
  | _ => vni.getD (vlan.getD dflt)

/-- Lower and higher of two endpoints, by address then by port (R66). -/
def orderPair (a b : Nat × Nat) : (Nat × Nat) × (Nat × Nat) :=
  if a.1 < b.1 ∨ (a.1 = b.1 ∧ a.2 ≤ b.2) then (a, b) else (b, a)

/-- The canonical byte string of the flow hash (R65, R66). The IP header of a level is its first header with length check 1 or 2, the L4 header the first that an IP protocol number of 6, 17 or 132 announced (DESIGN CHOICE: log entry 11). -/
def State.hashString (s : State) (pipe sl : Nat) (data : List Byte) (p : PState) : List Byte :=
  let ix := [pipe, sl]
  let lvl := if s.rd .PAR_HASH_SEL_level ix = 1 then p.lvl else 0
  let sel (f : Fld) (x : List Byte) : List Byte := if s.on f ix then x else []
  let seen := p.seen
  let iph := seen.find? (fun h => h.lvl = lvl && (h.lchk = 1 || h.lchk = 2))
  let frag := match iph with
    | some h =>
      (h.lchk = 1 && decide (be data (h.off + 6) 2 % 2 ^ 14 ≠ 0)) ||
      (h.lchk = 2 && seen.any (fun e => e.lvl = lvl && e.proto = 44 && (let x := be data (e.off + 2) 2; decide (x / 8 ≠ 0) || bit x 0)))
    | none => false
  let ports := if frag then none else
    (seen.find? (fun h => h.lvl = lvl && [6, 17, 132].contains h.proto)).map (fun h => (be data h.off 2, be data (h.off + 2) 2))
  let pt := ports.getD (0, 0)
  let useAddr := s.on .PAR_HASH_SEL_l3_addr ix
  let an := match iph with | some h => if h.lchk = 1 then 4 else 16 | none => 4
  let ads := match iph with
    | some h => if h.lchk = 1 then (be data (h.off + 12) 4, be data (h.off + 16) 4) else (be data (h.off + 8) 16, be data (h.off + 24) 16)
    | none => (0, 0)
  let usePorts := s.on .PAR_HASH_SEL_l4_ports ix
  let q := orderPair (if useAddr then ads.1 else 0, pt.1) (if useAddr then ads.2 else 0, pt.2)
  let mac := match ethHdr seen lvl with
    | some h =>
      let m := orderPair (be data (h.off + 6) 6, 0) (be data h.off 6, 0)
      beBytes 6 m.1.1 ++ beBytes 6 m.2.1
    | none => List.replicate 12 0
  let proto := match iph with
    | some h =>
      if h.lchk = 1 then byteAt data (h.off + 9)
      else match (seen.filter (fun e => e.lvl = lvl && extHdr e.proto)).getLast? with
        | some e => byteAt data e.off
        | none => byteAt data (h.off + 6)
    | none => 0
  let label := match iph with | some h => if h.lchk = 2 then be data h.off 4 % 2 ^ 20 else 0 | none => 0
  let vni :=
    if p.lvl = 0 then 0
    else if lvl = 0 then ((seen.filter (fun h => h.lvl = 1)).findSome? (tunVni data)).getD 0
    else (((seen.find? (fun h => h.lvl = lvl && h.tun)).bind (tunVni data))).getD 0
  sel .PAR_HASH_SEL_mac mac
  ++ sel .PAR_HASH_SEL_ethertype (beBytes 2 ((etherType data seen lvl).getD 0))
  ++ sel .PAR_HASH_SEL_vid (beBytes 2 (((outerTci data seen lvl).getD 0) % 4096))
  ++ (if useAddr then beBytes an q.1.1 ++ beBytes an q.2.1 else [])
  ++ sel .PAR_HASH_SEL_l3_proto [byteOf proto]
  ++ (if usePorts then beBytes 2 q.1.2 ++ beBytes 2 q.2.2 else [])
  ++ sel .PAR_HASH_SEL_flow_label (beBytes 4 label)
  ++ sel .PAR_HASH_SEL_vni (beBytes 4 vni)

/-- The program copy of a tag. -/
def State.prog (s : State) (tag : Nat) : Prog := if tag = 0 then s.progA else s.progB

/-- The copy that is active (R90). -/
def State.active (s : State) : Nat := s.rd .MAT_PROG_CTL_active [32]

/-- The copy given to new frames of a half's pipes: a swap flips it at that half's edge (R91, R395). -/
def State.activeOf (s : State) (h : Half) : Nat := s.rd .MAT_PROG_CTL_active [33 + h.n]

/-- The range vector at a comparison point (R72). -/
def rangeVec (p : Prog) (f : Frame) (point : Nat) : Nat :=
  (List.range 64).foldl (fun v n =>
    let r := p.rng.getD [n] 0
    let x := f.c 1 (bits r 32 7)
    v + if bit r 40 ∧ bits r 39 1 = point ∧ bits r 0 16 ≤ x ∧ x ≤ bits r 16 16 then 2 ^ n else 0) 0

/-- The weight that `PAR_ARB_CFG` gives an internal port of a pipe: 0 the recirculation port, 1 the other. -/
def State.arbWeight (s : State) (pipe m : Nat) : Nat := s.rd (if m = 0 then .PAR_ARB_CFG_recirc_weight else .PAR_ARB_CFG_intport_weight) [pipe]

/-- A DWRR round of a pipe begins: both ports take their weights, and as many slots (R26, R28). -/
def State.arbRound (s : State) (pipe : Nat) : State :=
  { s with sched := { s.sched with
    arbW := (s.sched.arbW.set [pipe, 0] (s.arbWeight pipe 0)).set [pipe, 1] (s.arbWeight pipe 1)
    arbDef := (s.sched.arbDef.set [pipe, 0] (s.arbWeight pipe 0)).set [pipe, 1] (s.arbWeight pipe 1) } }

/-- An internal port has slots left in the round of its pipe. -/
def State.arbHas (s : State) (pipe m : Nat) : Bool := decide (0 < s.sched.arbDef.getD [pipe, m] 0)

/-- An internal port takes a slot; it spends one of its round's where it has any. -/
def State.arbServe (s : State) (pipe m : Nat) : State :=
  { s with sched := { s.sched with
    arbDef := if s.arbHas pipe m then s.sched.arbDef.set [pipe, m] (s.sched.arbDef.getD [pipe, m] 0 - 1) else s.sched.arbDef
    arbW := s.sched.arbW.set [pipe, 2] m } }

/-- One DWRR choice between the internal ports of a pipe that have a frame ready (R26, R28). A round begins where none of them has slots left. The model's choices (log entry 13): within a round the two ports alternate, the recirculation port first; where no ready port has a weight, the recirculation port is served before the other. -/
def State.arbPick (s : State) (pipe : Nat) (ready : List Nat) : Option Nat × State :=
  let order := if s.sched.arbW.getD [pipe, 2] 1 = 0 then [1, 0] else [0, 1]
  let next (s : State) : Option Nat := order.find? (fun m => ready.contains m && s.arbHas pipe m)
  match next s with
  | some m => (some m, s.arbServe pipe m)
  | none =>
    let s := s.arbRound pipe
    match next s, ready with
    | some m, _ => (some m, s.arbServe pipe m)
    | none, m :: _ => (some m, s.arbServe pipe m)
    | none, [] => (none, s)

/-- The frame that gets a pipe's next slot (R26). A front-panel frame whose tile's crossing is not acknowledged has not arrived (R411). -/
def State.arbitrate (s : State) (pipe : Nat) : Option Frame × State :=
  let waiting := s.frames.filter (fun f => f.loc = .input && f.pipe = pipe)
  match waiting.find? (fun f => f.inPort < 1024 && !s.xingBusy (pipeHalf pipe) 0 (portTile f.inPort)) with
  | some f => (some f, s)
  | none =>
    let of (m : Nat) : Option Frame := waiting.find? (fun f => (parEntry f.inPort) = 32 + m)
    let ready := [0, 1].filter (fun m => (of m).isSome)
    match s.arbPick pipe ready with
    | (some m, s) => (of m, s)
    | (none, s) => (none, s)

/-- Receive counters of a pass (R279, R280). -/
def State.rxCount (s : State) (h : Half) (port sl : Nat) (bytes : List Byte) : State :=
  let k := localIdx port
  let da := be bytes 0 6
  let s := (s.bump .TEL_PORT_CNT_v [h.n, k, 0] 1).bump .TEL_PORT_CNT_v [h.n, k, 1] bytes.length
  let s := if da = 2 ^ 48 - 1 then s.bump .TEL_PORT_CNT_v [h.n, k, 3] 1
    else if bit (byteAt bytes 0) 0 then s.bump .TEL_PORT_CNT_v [h.n, k, 2] 1 else s
  (s.bump .TEL_SLICE_CNT_v [h.n, sl, 0] 1).bump .TEL_SLICE_CNT_v [h.n, sl, 1] bytes.length

/-- The severity order of R61: DROP over TRAP over FORWARD; code 3 acts as DROP. -/
def severity (a : Nat) : Nat := if a = 0 then 0 else if a = 2 then 1 else 2

/-- Parses one frame and takes the default action of its events (R45, R51, R54-R61). All that the port's configuration gives it is read now, its entry cycle, and travels with it (R43, R63). A frame from a recirculation port is parsed anew, with new containers, header table and hash; it keeps the slice, the pinned generation with its reference count, the program tag and the pass count, which goes up by one (R38, R55). -/
def State.parseFrame (s : State) (pipe : Nat) (f : Frame) : State :=
  let h := pipeHalf pipe
  let port := f.inPort
  let ent := parEntry port
  let prof := s.rd .PAR_PORT_CFG_profile [pipe, ent]
  let pix := [pipe, prof]
  let recirc := decide (1024 ≤ port ∧ port < 1056)
  let tag := if recirc then f.tag else s.activeOf h
  let p := s.prog tag
  let data := f.bytes.take (f.bytes.length - 4)
  let ps := parseRun p data (max 1 (min 16 (s.rd .PAR_PROFILE_hdr_limit pix)))
    (max 64 (min 512 (s.rd .PAR_PROFILE_depth_limit pix))) 18 PState.start
  let sl := if port < 1024 then s.sliceOf pipe ent data ps.seen else f.slice
  let gen := if recirc then f.gen else s.rd .SLC_GEN_cur_gen [h.n, sl]
  let pcp := match outerTci data ps.seen 0 with
    | some t => t / 2 ^ 13
    | none => s.rd .PAR_PORT_CFG_def_pcp [pipe, ent]
  let hash := crc32c (s.rd .PAR_HASH_SEED_seed [pipe]) (s.hashString pipe sl data ps)
  let ts := if port < 1024 then f.m 115 64 else tsIn (s.now h)
  let f1 : Frame := { Frame.blank with
    id := f.id
    bytes := f.bytes
    ctr := ps.ctr
    hdrs := (ps.hdrs ++ List.replicate 24 (HdrEnt.mk 0 0 0 0 false)).take 24
    pipe := pipe
    loc := .stages
    rhalf := if recirc then f.rhalf else h
    launch := if port < 1056 then none else f.launch
    ring := decide (1056 ≤ port) && f.ring
    stomp := f.stomp
    tIn := if port < 1024 then f.tIn else s.now h
    payAt := ps.off
    fills := ps.fills
    nmAct := s.rd .PAR_PROFILE_act_nomatch pix
    nmPort := s.rd .PAR_PROFILE_nm_port pix
    trapPort := s.rd .PAR_PROFILE_trap_port pix
    trapTc := s.rd .PAR_PROFILE_trap_tc pix }
  let f2 := [(0, 11, port), (11, 6, sl), (17, 16, gen), (33, 1, tag), (34, 3, if recirc then f.pass + 1 else 0),
      (37, 32, hash), (69, 14, f.bytes.length), (83, 10, ps.off), (93, 3, ps.vcnt.getD 0 0), (96, 2, ps.lvl), (98, 5, ps.hdrCnt),
      (103, 1, b2n ps.trunc), (104, 1, b2n ps.conflict), (105, 1, b2n ps.short), (115, 64, ts),
      (179, 16, if 1056 ≤ port then f.tsId else 0), (195, 3, pcp), (268, 3, if 1056 ≤ port then f.m 268 3 else 0)].foldl
    (fun g w => g.mset w.1 w.2.1 w.2.2) f1
  let f3 := { f2 with range := rangeVec p f2 0, tc := f2.m 268 3 }
  let s := if recirc then s else s.refAdd f3
  let s := s.rxCount h port sl f.bytes
  let evs : List (Bool × Nat × Nat × Nat) :=
    [(ps.conflict, 1, s.rd .PAR_PROFILE_act_len pix, 2), (ps.short, 2, s.rd .PAR_PROFILE_act_short pix, 3),
     (ps.trunc, 0, s.rd .PAR_PROFILE_act_trunc pix, 1)]
  let raised := evs.filter (fun e => e.1)
  let s := raised.foldl (fun s e => s.bump .PAR_EVT_CNT_v [pipe, ent, e.2.1] 1) s
  let worst := raised.foldl (fun m e => max m (severity e.2.2.1)) 0
  if worst = 2 then ((s.toEnd f3).bump .PAR_EVT_CNT_v [pipe, ent, 4] 1).dropFr h 1 f3
  else if worst = 1 then
    let reason := (raised.head?.map (fun e => e.2.2.2)).getD 0
    let f4 := { f3.mset 107 8 reason with
      loc := .front, out := 1056 + f3.trapPort, tc := f3.trapTc }
    (s.toEnd f4).bump .PAR_EVT_CNT_v [pipe, ent, 5] 1
  else s.toEnd f3

/-- PARSE: the frame that the arbiter of pipe Pk grants runs the parser (R26, R44, R45, R51). No frame enters a pipe while the active copy is EMPTY (R90) or the device does not forward (R387). -/
def doParse (pipe : Nat) (s : State) : State :=
  if ¬ (s.prog (s.activeOf (pipeHalf pipe))).loaded ∨ ¬ (2 ≤ s.mode ∧ s.mode ≤ 5) then s
  else match s.arbitrate pipe with
    | (some f, s) => s.parseFrame pipe f
    | (none, s) => s

def execParse (pipe : Nat) (s : State) : Host.Outcome State Fault Refusal := done (doParse pipe s)

end Sys2Proof.Machine
end

