-- ==== Sys2Proof/Machine/Stages.lean ====
section
/-!
DEFINITION. Step 4 and step 12 of the frame path: the match-action stages (R69-R78), their lookups and action programs, the FDB lookup and learning of the ingress stages (R100-R107), metering (R173), mirror requests (R276, R277) and a frame's fate after I19 and E11 (R60, R61).
-/

namespace Sys2Proof.Machine

/-- The model's stage number of the Izbe object's: 0-19 as they are, 32-43 as 20-31 (R88). -/
def stageOf (z : Nat) : Nat := if 32 ≤ z then z - 12 else z

/-- The table map entry of a table in a program copy. -/
def Prog.table? (p : Prog) (id : Nat) : Option Config.TableMap := p.tmap.find? (fun t => t.id = id)

/-- The value of one piece of a key. -/
def selVal (f : Frame) : Config.KeySel → Nat × Nat
  | .ctr cls idx lo w => (bits (f.c cls idx) lo w, w)
  | .mdata lo w => (f.m lo w, w)
  | .range lo w => (bits f.range lo w, w)

/-- The bits that a key builder selects, at most 160 (R69). -/
def keyBits (k : Config.KeyBuilder) (f : Frame) : Nat :=
  (k.sel.foldl (fun (a : Nat × Nat) x => let v := selVal f x; (a.1 + v.1 * 2 ^ a.2, a.2 + v.2)) (0, 0)).1 % 2 ^ 160

/-- Key builder n of a stage. -/
def Prog.builder (p : Prog) (stage n : Nat) : Config.KeyBuilder := Config.decodeKeyBuilder (p.kb.getD [stage, n] 0)

/-- The key builders of a stage that serve a table of one of some kinds: the table and the key, later builders above the earlier ones (R69). -/
def Prog.lookup (p : Prog) (stage : Nat) (f : Frame) (kinds : List Nat) : Option (Config.TableMap × Nat) :=
  let ks := (List.range 4).map (fun n => p.builder stage n)
  let hit := ks.findSome? (fun k => match k.table with
    | some id => (match p.table? id with
      | some t => if kinds.contains t.kind ∧ stageOf t.stage = stage then some t else none
      | none => none)
    | none => none)
  hit.map (fun t => (t, ((ks.filter (fun k => k.table = some t.id)).foldl (fun (a : Nat × Nat) k => (a.1 + keyBits k f * 2 ^ a.2, a.2 + 160)) (0, 0)).1 % 2 ^ t.keyW))

/-- The window test (R82): O and g as full generations. -/
def windowHolds (e : Ent) (o g : Nat) : Bool :=
  let r (x : Nat) : Nat := (x % 256 + 256 - o % 256) % 256
  let gp := r g
  let lo := if e.settled then 0 else r e.genLo
  if e.opn then decide (lo ≤ gp)
  else
    let hi := r e.genHi
    decide (hi < 128) && decide (lo ≤ gp) && decide (gp ≤ hi)

/-- The bucket of a key in a table: the low bits of the CRC, of which a table of more buckets than a stage has gets ten (R69, R74, log entry 72). -/
def emBucket (t : Config.TableMap) (key : Nat) : Nat :=
  crc32c t.seed (beBytes (ceilDiv t.keyW 8) key) % 2 ^ min 10 (Nat.log2 t.size)

/-- An entry of a table and slice whose window holds the frame's generation (R74, R75, R82). -/
def State.admits (s : State) (h : Half) (f : Frame) (t : Config.TableMap) (e : Ent) : Bool :=
  e.table = t.id && e.slice = f.slice && windowHolds e (s.rd .SLC_GEN_oldest_live [h.n, f.slice]) f.gen

/-- A candidate's word is read: a poisoned one does not hit (R404). -/
def State.stageRead (s : State) (pipe : Nat) (addr : List Nat) : Bool × State :=
  s.eccReadAt (pipeHalf pipe) 1 (pipe % 16) addr (pmcDev 1 pipe 0 0)

/-- The exact-match lookup of a stage: all four ways are read, and the lowest that hits wins; a way that cannot be read does not hit (R74, R404). -/
def State.emLookup (s : State) (pipe stage : Nat) (f : Frame) (t : Config.TableMap) (key : Nat) : Option Ent × State :=
  let h := pipeHalf pipe
  let b := emBucket t key
  (List.range 4).foldl (fun (a : Option Ent × State) w =>
    let r := a.2.stageRead pipe [stage, 0, b, w]
    (match a.1 with
      | some e => some e
      | none => match (if r.1 then none else s.tables.em.get? [stage, b, w]) with
        | some e => if e.key = key ∧ s.admits h f t e then some e else none
        | none => none, r.2)) (none, s)

/-- The action word of a TCAM index is read where its key matches; the first of them that can be read wins (R75, R404). -/
def State.firstGood (s : State) (pipe : Nat) : List (List Nat × Ent) → Option Ent × State
  | [] => (none, s)
  | (a, e) :: r =>
    let (bad, s) := s.stageRead pipe a
    if bad then s.firstGood pipe r else (some e, s)

/-- The TCAM cells of a stage in one pipe, by rising index: the entries, and what an upset left in a cell (R70, R406). -/
def State.tcamOf (s : State) (pipe stage : Nat) : List (Nat × Ent) :=
  let own : SMap Ent := s.tables.tcam.filter (fun e => e.1.head? = some stage)
  let cells := s.tables.upset.foldl (fun (m : SMap Ent) e => match e.1, e.2 with
    | [p, x, i], some c => if p = pipe ∧ x = stage then SMap.set m [x, i] c else m
    | [p, x, i], none => if p = pipe ∧ x = stage then SMap.erase m [x, i] else m
    | _, _ => m) own
  cells.filterMap (fun e => match e.1 with | [_, i] => some (i, e.2) | _ => none)

/-- The TCAM lookup of a stage: the lowest index whose key matches and whose qualifier admits the frame (R75). -/
def State.tcamLookup (s : State) (pipe stage : Nat) (f : Frame) (t : Config.TableMap) (key : Nat) : Option Ent × State :=
  let h := pipeHalf pipe
  s.firstGood pipe ((s.tcamOf pipe stage).filterMap (fun e =>
    if (key &&& e.2.mask) = (e.2.key &&& e.2.mask) ∧ s.admits h f t e.2 then some ([stage, 1, e.1], e.2) else none))

/-- Which program a stage runs, with its action data (R71). A miss program gets action data 0 (DESIGN CHOICE: log entry 72). -/
def State.choose (s : State) (p : Prog) (pipe stage : Nat) (f : Frame) : Option (Nat × Nat) × State :=
  let em := p.lookup stage f [0]
  let tc := p.lookup stage f [1, 2]
  let (a, s) : Option Ent × State := match em with
    | some (t, k) => s.emLookup pipe stage f t k
    | none => (none, s)
  match a with
  | some e => (some (e.act, e.adata), s)
  | none =>
    match tc with
    | some (t, k) =>
      let (b, s) := s.tcamLookup pipe stage f t k
      match b with
      | some e => (some (e.act, e.adata), s)
      | none => (some (t.miss, 0), s)
    | none => (em.map (fun t => (t.1.miss, 0)), s)

/-- The value of a source operand. -/
def srcVal (f : Frame) (adata : Nat) : Config.Src → Nat
  | .imm v => v
  | .ctr cls idx => f.c cls idx
  | .adata lo w => bits adata lo w
  | .mdata lo w => f.m lo w

/-- Writes a destination: a container, or a field of the stage area, where a colour of 3 keeps itself (R76, R77, R173). -/
def dstSet (f : Frame) (d : Config.Dst) (v : Nat) : Frame :=
  match d with
  | .ctr cls idx => f.cset cls idx v
  | .mdata lo w =>
    if lo < 256 ∨ 512 < lo + w then f
    else
      let g := f.mset lo w v
      if f.color = 3 then g.mset 271 2 3 else g

/-- A header table entry of a frame replaced. -/
def setHdr (f : Frame) (n : Nat) (e : HdrEnt) : Frame := { f with hdrs := f.hdrs.set n e }

/-- The bytes of a container, most significant first. -/
def ctrBytes (f : Frame) (c : Nat × Nat) : List Byte := beBytes (2 ^ c.1) (f.c c.1 c.2)

/-- A policer as configured (R173). -/
def Pol.off : Pol := ⟨⟨0, 0, 0, 0, false, false, false⟩, 0, 0⟩

/-- METER: a policer of the ingress half colours the frame (R172, R173). -/
def State.meter (s : State) (h : Half) (n : Nat) (f : Frame) : Frame × State :=
  let p := s.sched.pol.getD [h.n, n] Pol.off
  if ¬ p.cur.en ∨ f.color = 3 then (f, s)
  else
    let b := s.counted h (f.m 282 4) f.len
    let bu : Int := ((b * 4096 : Nat) : Int)
    let pre := if p.cur.aware then f.color else 0
    let res := if pre = 2 ∨ p.tp < bu then 2 else if pre = 1 ∨ p.tc < bu then 1 else 0
    let p1 := { p with tp := if res = 2 then p.tp else p.tp - bu, tc := if res = 0 then p.tc - bu else p.tc }
    let s := { s with sched := { s.sched with pol := s.sched.pol.set [h.n, n] p1 } }
    let s := (s.bump .SHP_POL_CNT_v [h.n, n, 2 * res] 1).bump .SHP_POL_CNT_v [h.n, n, 2 * res + 1] b
    (f.mset 271 2 (if res = 2 ∧ p.cur.redDrop then 3 else res), s)

/-- One operation of an action program (R76). An operation at a stage where the manual does not offer it has no effect (log entry 23). -/
def State.opStep (s : State) (pipe : Nat) (egress : Bool) (adata : Nat) (f : Frame) : Config.Op → Frame × State
  | .set d a => (dstSet f d (srcVal f adata a), s)
  | .alu op w d a b => (dstSet f d (aluOp op w (srcVal f adata a) (srcVal f adata b)), s)
  | .hash cs cls idx => (f.cset cls idx (crc32c 0 ((cs.take 8).flatMap (ctrBytes f))), s)
  | .fwd a => if egress then (f, s) else ((f.mset 257 11 (srcVal f adata a)).mset 256 1 1, s)
  | .drop => (f.mset 273 1 1, s)
  | .trap a => ((f.mset 274 1 1).mset 107 8 (srcVal f adata a), s)
  | .mirror a => ((f.mset 275 1 1).mset 276 6 (srcVal f adata a), s)
  | .recirc a => if egress then (f.mset 257 11 (1024 + srcVal f adata a % 32), s) else (f, s)
  | .meter a => if egress then (f, s) else s.meter (pipeHalf pipe) (srcVal f adata a % 16384) f
  | .hdrIns n t o l =>
    if 16 ≤ n ∧ n < 24 then (setHdr f n ⟨srcVal f adata t % 64, srcVal f adata o % 1024, srcVal f adata l % 4, 0, true⟩, s) else (f, s)
  | .hdrRem n => (setHdr f n { (f.hdrs.getD n (HdrEnt.mk 0 0 0 0 false)) with valid := false }, s)
  | .reg op a x c cls idx =>
    let (r, s) := s.regOp pipe f.regMiss op (srcVal f adata a % 2 ^ 24) (srcVal f adata x) (srcVal f adata c)
    match r with
    | some v => ({ f.cset cls idx v with regMiss := false }, s)
    | none => ({ f with ctr := f.ctr.erase [cls, idx], regMiss := false }, s)

/-- The operations of a program that a stage performs: it has one REG access per frame, which the first REG operation takes; a later one has no effect (R69, DEDUCED: log entry 23). -/
def oneReg : Bool → List Config.Op → List Config.Op
  | _, [] => []
  | used, .reg op a x c cls idx :: os => if used then oneReg true os else .reg op a x c cls idx :: oneReg true os
  | used, o :: os => o :: oneReg used os

/-- An action program in list order (R76). -/
def State.runOps (s : State) (pipe : Nat) (egress : Bool) (adata : Nat) (f : Frame) : List Config.Op → Frame × State
  | [] => (f, s)
  | o :: os =>
    let r := s.opStep pipe egress adata f o
    r.2.runOps pipe egress adata r.1 os

/-- The FDB lookup and the learn candidate of the issuing stage (R100, R101, R105, R106). An `issue_stage` outside 6-11 names no stage: there is then no lookup, and no learn candidate either, though `en` = 0 alone stops no learning (DESIGN CHOICE: log entry 82). -/
def State.fdbStage (s : State) (p : Prog) (pipe stage : Nat) (f : Frame) : Frame × State :=
  let h := pipeHalf pipe
  let ix := [h.n, f.tag]
  let iss := s.rd .FDB_REQ_issue_stage ix
  if stage ≠ iss ∨ iss < 6 ∨ 11 < iss then (f, s)
  else
    let kb (fld : Fld) : Nat := keyBits (p.builder stage (s.rd fld ix)) f
    let (f, s) : Frame × State :=
      if ¬ s.on .FDB_REQ_en ix then (f, s)
      else
        let k := kb .FDB_REQ_kb_lookup
        let (e, s) := s.fdbLookup pipe h ⟨f.slice, bits k 152 2, bits k 128 24, bits k 0 128⟩
        let r := match e with
          | some e => (32768 + 16384 * b2n e.static + 8192 * b2n e.frozen + e.port % 2048, e.adata)
          | none => (0, 0)
        ({ f with fdbRes := some (iss + 8, r.1, r.2) }, s)
    if s.on .FDB_REQ_learn_en ix ∧ s.on .FDB_SLICE_CFG_learn_en [h.n, f.slice] ∧ s.on .FDB_PORT_CFG_learn_en [h.n, f.inPort]
        ∧ f.inPort < 1024 ∧ f.pass = 0 then
      let k := kb .FDB_REQ_kb_learn
      let key : FKey := ⟨f.slice, 0, bits k 128 24, bits k 0 48⟩
      if s.learnPass pipe f.inPort key then ({ f with learn := some ⟨key, f.inPort, h⟩ }, s) else (f, s)
    else (f, s)

/-- Writes the FDB result at the input of its stage (R101). -/
def State.fdbArrive (s : State) (pipe stage : Nat) (f : Frame) : Frame :=
  match f.fdbRes with
  | some (k, a, b) =>
    if k = stage then
      let ix := [(pipeHalf pipe).n, f.tag]
      { (f.cset 1 (s.rd .FDB_REQ_res_ctr16 ix) a).cset 2 (s.rd .FDB_REQ_res_ctr32 ix) b with fdbRes := none }
    else f
  | none => f

/-- A frame whose egress port does not exist ends as an explicit drop (log entry 23). -/
def State.toFront (s : State) (h : Half) (f : Frame) (out tc : Nat) : State :=
  if 1088 ≤ out then (s.bump .SLC_CNT_v [h.n, f.slice, 0] 1).dropFr h 2 f
  else s.setFr { f with loc := .front, out := out, tc := tc }

/-- A mirror copy of a frame, cut, padded and with a new FCS, when the session's sampler of a pipe selects it (R276, R277). It is not policed, so that the copy of a frame marked for drop is red (R173, R174). -/
def State.mirrorCopy (s : State) (pipe : Nat) (f : Frame) (bytes : List Byte) : State :=
  let h := pipeHalf pipe
  let sess := f.m 276 6
  let ix := [h.n, sess]
  let (hit, s) := s.sample h pipe sess f.hash
  if ¬ hit then s
  else
    let t := s.rd .TEL_SESS_trunc ix
    let body := bytes.take (bytes.length - 4)
    let body := if t = 0 then body else body.take (64 * t - 4)
    let out := withFcs body
    let share := if f.share = 0 then f.id + 1 else f.share
    let s := s.setFr { ((s.fr? f.id).getD f) with share := share }
    let dest := s.rd .TEL_SESS_dest ix
    let tc := s.rd .TEL_SESS_tc ix
    let g : Frame := { Frame.blank with
      bytes := out, md := f.md, hdrs := f.hdrs, pipe := pipe, rhalf := f.rhalf, mirror := true, ip := f.ip, share := share, stomp := f.stomp, tIn := f.tIn
      loc := .front, out := dest, tc := tc }
    let g := ((((g.mset 69 14 out.length).mset 257 11 dest).mset 268 3 tc).mset 273 3 0).mset 271 2 (min 2 f.color)
    let s := (s.refAdd g).bump .TEL_CNT_v [h.n, 2] 1
    let id := s.nextId
    let s := s.addFr g
    if 1088 ≤ dest then (match s.fr? id with | some c => s.toFront h c dest tc | none => s) else s

/-- What becomes of a frame after I19: mirror copy, learn event, NO_MATCH, drop, trap or forwarding (R60, R61, R76, R105, R276). The default actions are those of its ingress port as it entered (R63). Where a stage asked for a trap and set no forwarding decision, a NO_MATCH DROP wins over the trap, and the trap over a NO_MATCH TRAP or FORWARD (DEDUCED from the order of R61: log entry 72). -/
def State.afterI19 (s : State) (f : Frame) : State :=
  let pipe := f.pipe
  let h := pipeHalf pipe
  let ent := parEntry f.inPort
  let lt := [h.n, f.tag]
  let word := s.rd .GTE_LT_SRC_word lt
  let f := if ¬ f.ring ∧ s.on .GTE_LT_SRC_en lt ∧ word < 3 ∧ f.m (383 + 64 * word) 1 = 1
    then { f with launch := some (f.m (320 + 64 * word) 48) } else f
  let noMatch := f.m 256 1 = 0
  let f := if noMatch then f.mset 106 1 1 else f
  let s := s.setFr f
  let s := if f.m 275 1 = 1 then s.mirrorCopy pipe f f.bytes else s
  let s := match f.learn with
    | some ev => if f.m 273 1 = 0 then s.learnEmit pipe ev else s
    | none => s
  let f := { f with learn := none, share := ((s.fr? f.id).getD f).share }
  let s := if noMatch then s.bump .PAR_EVT_CNT_v [pipe, ent, 3] 1 else s
  let nm := if noMatch then severity f.nmAct else 0
  let host := 1056 + f.trapPort
  let ttc := f.trapTc
  if f.m 273 1 = 1 then (s.bump .SLC_CNT_v [h.n, f.slice, 0] 1).dropFr h 2 f
  else if nm = 2 then (s.bump .PAR_EVT_CNT_v [pipe, ent, 4] 1).dropFr h 1 f
  else if f.m 274 1 = 1 then (s.bump .SLC_CNT_v [h.n, f.slice, 1] 1).toFront h f host ttc
  else if nm = 1 then (s.bump .PAR_EVT_CNT_v [pipe, ent, 5] 1).toFront h (f.mset 107 8 4) host ttc
  else if noMatch then
    s.toFront h (f.mset 257 11 f.nmPort) f.nmPort (f.m 268 3)
  else s.toFront h f f.dest (f.m 268 3)

/-- At the E00 input: the range vector, `dest` the port that the copy was queued for, the requests of the egress stages cleared, and the telemetry decision (R72, R268, R269, log entry 24). -/
def State.atE00 (s : State) (p : Prog) (f : Frame) : Frame × State :=
  let h := pipeHalf f.pipe
  let f := { (f.mset 273 3 0).mset 257 11 f.out with range := rangeVec p f 1, telExp := false }
  let ix := [h.n, f.tag]
  let c := s.rd .TEL_REQ_ctr ix
  if ¬ s.on .TEL_REQ_en ix then (f, s)
  else match f.ctr.get? [2, c] with
    | none => (f, s)
    | some v =>
      let (hit, s) := s.sample h f.pipe (bits v 1 6) f.hash
      ({ f.cset 2 c (putBits v 15 1 (b2n hit)) with telExp := hit && bit v 0 }, s)

/-- After E11: an explicit drop frees the copy, every other goes on to the deparser (R76). -/
def State.afterE11 (s : State) (f : Frame) : State :=
  let h := pipeHalf f.pipe
  if f.m 273 1 = 1 ∧ ¬ f.mirror then (s.bump .SLC_CNT_v [h.n, f.slice, 0] 1).freeDrop f 2
  else s.setFr { f with loc := .deparse }

/-- A frame of the same pass of a pipe that entered the stages earlier and is no further (R35). -/
def State.stageHeld (s : State) (f : Frame) : Bool :=
  s.behind f (fun g => g.loc = .stages && g.pipe = f.pipe && decide (g.stage < 20) = decide (f.stage < 20) && decide (g.stage ≤ f.stage))

/-- STAGE_PASS: a frame passes its next stage (R71); it does not overtake the frame before it in its pipe, for which it waits (R35). -/
def doStagePass (id : Nat) (s : State) : State :=
  match s.fr? id with
  | none => s
  | some f =>
    if f.loc ≠ .stages ∨ s.stageHeld f then s
    else
      let p := s.prog f.tag
      let k := f.stage
      let eg := decide (20 ≤ k)
      let f := s.fdbArrive f.pipe k f
      let (f, s) := if k = 20 then s.atE00 p f else (f, s)
      let (f, s) := if eg then (f, s) else s.fdbStage p f.pipe k f
      let (f, s) : Frame × State :=
        if f.mirror then (f, s)
        else
          let (c, s) := s.choose p f.pipe k f
          match c with
          | some (act, adata) => s.runOps f.pipe eg adata f (oneReg false ((Config.decodeActionProgram (p.act.getD [k, act] 0)).take 16))
          | none => (f, s)
      let f := { f with stage := k + 1 }
      if k = 19 then s.afterI19 f else if 31 ≤ k then s.afterE11 f else s.setFr f

def execStagePass (id : Nat) (s : State) : Host.Outcome State Fault Refusal := done (doStagePass id s)

/-- REG_MISSED: the next REG operation of a frame is refused its bank for 8 clocks and is not performed (R315); the operation, when the frame's stage runs, counts it. -/
def doRegMissed (id : Nat) (s : State) : State :=
  match s.fr? id with
  | some f => if f.loc = .stages then s.setFr { f with regMiss := true } else s
  | none => s

def execRegMissed (id : Nat) (s : State) : Host.Outcome State Fault Refusal := done (doRegMissed id s)

end Sys2Proof.Machine
end

