-- ==== Sys2Proof/Machine/Tables.lean ====
section
/-!
DEFINITION. The stage tables and their generations (R73-R92, R477, R478): table writes and reads, write logs, commits, aborts, quotas, reference counts and retirement, slice digests (R378), and the VNI map (R57).
-/

namespace Sys2Proof.Machine

/-- The table map entry of a table in a loaded copy (R477): the active copy's before the other's; R89 makes them agree. -/
def State.tableMap? (s : State) (id : Nat) : Option Config.TableMap :=
  let a := s.prog s.active
  let b := s.prog (1 - s.active)
  match (if a.loaded then a.table? id else none) with
  | some t => some t
  | none => if b.loaded then b.table? id else none

/-- G of a slice: between the two halves' edges of a commit, that of the half which has made its edge, since the log of P closed there (R84, R85). -/
def State.genG (s : State) (sl : Nat) : Nat :=
  let e := s.rd .SLC_GEN_cur_gen [0, sl]
  let w := s.rd .SLC_GEN_cur_gen [1, sl]
  if (w + 65536 - e) % 65536 < 32768 then w else e

/-- O of a slice in the owner's copy. -/
def State.genO (s : State) (sl : Nat) : Nat := s.rd .SLC_GEN_oldest_live [s.owner.n, sl]

/-- The pending generation P (R83). -/
def State.genP (s : State) (sl : Nat) : Nat := (s.genG sl + 1) % 65536

/-- Changes a field of SLC_USAGE in both halves by an amount up or down. -/
def State.usage (s : State) (f : Fld) (sl n : Nat) (up : Bool) : State :=
  halves.foldl (fun s h => if up then s.bump f [h.n, sl] n else s.lower f [h.n, sl] n) s

/-- The pending write log of a slice (R84). -/
def State.plog (s : State) (sl : Nat) : List LogW := s.tables.plog.getD [sl] []

/-- Replaces the pending log and its count. -/
def State.setPlog (s : State) (sl : Nat) (l : List LogW) : State :=
  halves.foldl (fun s h => s.st .SLC_USAGE_log_used [h.n, sl] l.length)
    { s with tables := { s.tables with plog := s.tables.plog.put [sl] l [] } }

/-- The writes that the slice's next digest covers (R378). -/
def State.dlog (s : State) (sl : Nat) : List LogW := s.tables.dlog.getD [sl] []

/-- Replaces the digest log. -/
def State.setDlog (s : State) (sl : Nat) (l : List LogW) : State := { s with tables := { s.tables with dlog := s.tables.dlog.put [sl] l [] } }

/-- Logs an ADD or a CLOSE under P, and in the digest log (R84, R378). -/
def State.logWrite (s : State) (sl : Nat) (w : LogW) : State :=
  (s.setPlog sl (s.plog sl ++ [w])).setDlog sl (s.dlog sl ++ [w])

/-- The address of a stage table word in its pipe's class 1 memory. -/
def tblAddr (tcam : Bool) (place : List Nat) : List Nat :=
  match place with
  | k :: r => k :: (b2n tcam) :: r
  | [] => []

/-- The TCAM cells of an index hold what is written, in every pipe (R70, R406). -/
def State.upsetClear (s : State) (place : List Nat) : State :=
  { s with tables := { s.tables with upset := s.tables.upset.filter (fun (e : List Nat × Option Ent) => decide (e.1.drop 1 ≠ place)) } }

/-- Writes a stage table word in every pipe, which clears its errors (R70, R404, R406). -/
def State.tblPut (s : State) (tcam : Bool) (place : List Nat) (e : Option Ent) : State :=
  let s := if tcam then s.upsetClear place else s
  let s := (List.range 32).foldl (fun s p => s.eccClearAt (pipeHalf p) 1 (p % 16) (tblAddr tcam place)) s
  match e with
  | some x =>
    if tcam then { s with tables := { s.tables with tcam := s.tables.tcam.set place x } }
    else { s with tables := { s.tables with em := s.tables.em.set place x } }
  | none =>
    if tcam then { s with tables := { s.tables with tcam := s.tables.tcam.erase place } }
    else { s with tables := { s.tables with em := s.tables.em.erase place } }

/-- The stage table entry at a place. -/
def State.tblAt (s : State) (tcam : Bool) (place : List Nat) : Option Ent :=
  if tcam then s.tables.tcam.get? place else s.tables.em.get? place

/-- Frees an entry and returns its quota (R79). -/
def State.tblFree (s : State) (tcam : Bool) (place : List Nat) : State :=
  match s.tblAt tcam place with
  | none => s
  | some e =>
    let s := if tcam then s.usage .SLC_USAGE_tcam_used e.slice (if e.wide then 2 else 1) false else s.usage .SLC_USAGE_em_used e.slice 1 false
    s.tblPut tcam place none

/-- The ways of a bucket that hold an exact-match key of a slice, lowest first. -/
def State.emHits (s : State) (t : Config.TableMap) (sl key : Nat) : List (List Nat × Ent) :=
  (List.range 4).filterMap (fun w =>
    let p := [stageOf t.stage, emBucket t key, w]
    match s.tables.em.get? p with
    | some e => if e.table = t.id ∧ e.slice = sl ∧ e.key = key then some (p, e) else none
    | none => none)

/-- An engine of the TABLE routine reads a way in P00's copy for a descriptor, and lists it where it can be read (R92, R404). -/
def State.emWay (d : Hdr) (t : Config.TableMap) (key : Nat) (a : List (List Nat) × State) (w : Nat) : List (List Nat) × State :=
  let h := a.2.ringHalf d
  let p := [stageOf t.stage, emBucket t key, w]
  let ev := a.2.engEv h 6 (some d.fn)
  let x := (a.2.dma h ev 1 (tblAddr false p) 0).eccReadAt .E 1 0 (tblAddr false p) ev
  (if x.1 then a.1 else a.1 ++ [p], x.2)

/-- An engine of the TABLE routine reads the four ways of a bucket: those that hold the key and can be read (R92, R404). -/
def State.emRead (s : State) (d : Hdr) (t : Config.TableMap) (key : Nat) : List (List Nat × Ent) × State :=
  let r := (List.range 4).foldl (State.emWay d t key) ([], s)
  ((s.emHits t d.slice key).filter (fun e => r.1.contains e.1), r.2)

/-- The entry that an exact-match descriptor addresses among those it has read: the open one, else the lowest way (R83). -/
def emFirst (l : List (List Nat × Ent)) : Option (List Nat × Ent) :=
  match l.find? (fun e => e.2.opn) with
  | some e => some e
  | none => l.head?

/-- A TCAM index is occupied, by its own entry or by the wide entry below it (R75). -/
def State.tcamBusy (s : State) (stage i : Nat) : Bool :=
  (s.tables.tcam.get? [stage, i]).isSome ||
  (i % 2 = 1 && (match s.tables.tcam.get? [stage, i - 1] with | some e => e.wide | none => false))

/-- The entry that a TCAM descriptor addresses by index (R83). -/
def State.tcamTarget (s : State) (t : Config.TableMap) (sl i : Nat) : Option (List Nat × Ent) :=
  match s.tables.tcam.get? [stageOf t.stage, i] with
  | some e => if e.slice = sl ∧ e.table = t.id then some ([stageOf t.stage, i], e) else none
  | none => none

/-- A TCAM index that the table does not hold (R477), or that a stage does not have (R69). -/
def badIndex (t : Config.TableMap) (i : Nat) : Bool :=
  t.kind ≠ 0 && (decide (i < t.base) || decide (t.base + t.size ≤ i) || decide (2048 ≤ i) || (t.kind = 2 && i % 2 = 1))

/-- An engine of the TABLE routine writes a word for a descriptor (R83, R288). -/
def State.tblDma (s : State) (d : Hdr) (tcam : Bool) (place : List Nat) : State :=
  s.dma (s.ringHalf d) (s.engEv (s.ringHalf d) 6 (some d.fn)) 1 (tblAddr tcam place) 1

/-- A table update of an engine of a half crosses to the core; where the crossing holds an earlier one, it is lost there (R31, R411, R412, log entry 53). -/
def State.tblSend (s : State) (h : Half) (op : State → State) : State := s.xingSend h 3 0 op

/-- An engine of the TABLE routine writes a word for a descriptor (R83, R302). -/
def State.tblStore (s : State) (d : Hdr) (tcam : Bool) (place : List Nat) (e : Ent) : State :=
  (s.tblSend (s.ringHalf d) (fun s => s.tblPut tcam place (some e))).tblDma d tcam place

/-- ADD after its checks of R477, with the ways read that hold its key (R83, R478). An exact-match entry goes to the lowest free way (DESIGN CHOICE: log entry 84). -/
def State.tblAdd (s : State) (d : Hdr) (t : Config.TableMap) (hits : List (List Nat × Ent)) (i key mask adata act : Nat) (bs : List Byte) : State :=
  let sl := d.slice
  let tcam := decide (t.kind ≠ 0)
  let wide := decide (t.kind = 2)
  let cost := if wide then 2 else 1
  let k := stageOf t.stage
  let o := s.owner.n
  let full := if tcam then decide (s.rd .SLC_QUOTA_tcam_quota [o, sl] < s.rd .SLC_USAGE_tcam_used [o, sl] + cost)
    else decide (s.rd .SLC_QUOTA_em_quota [o, sl] < s.rd .SLC_USAGE_em_used [o, sl] + 1)
  let put (s : State) (place : List Nat) : State :=
    let (hv, s) := if wide then s.draw else (0, s)
    let (hm, s) := if wide then s.draw else (0, s)
    let (ho, s) := if wide then s.draw else (0, s)
    let e : Ent := ⟨key + hv % 2 ^ 160 * 2 ^ 160 * b2n wide, mask + hm % 2 ^ 160 * 2 ^ 160 * b2n wide, adata, act, sl, s.genP sl % 256, 0, true, false, t.id, wide, ho⟩
    let s := if tcam then s.usage .SLC_USAGE_tcam_used sl cost true else s.usage .SLC_USAGE_em_used sl 1 true
    ((s.tblStore d tcam place e).logWrite sl (LogW.mk 0 tcam place bs)).ok d 0
  if 65536 ≤ (s.plog sl).length then s.fail d 0x17
  else if full then s.fail d 0x11
  else if tcam then
    if s.tcamBusy k i ∨ (wide ∧ s.tcamBusy k (i + 1)) then s.fail d 0x13 else put s [k, i]
  else if hits.any (fun e => e.2.opn) then s.fail d 0x12
  else match (List.range 4).find? (fun w => (s.tables.em.get? [k, emBucket t key, w]).isNone) with
    | some w => put s [k, emBucket t key, w]
    | none => s.fail d 0x10

/-- CLOSE of the addressed entry (R83, R478). -/
def State.tblClose (s : State) (d : Hdr) (tcam : Bool) (hit : Option (List Nat × Ent)) (bs : List Byte) : State :=
  let sl := d.slice
  match hit with
  | none => s.fail d 0x14
  | some (place, e) =>
    if ¬ e.opn then s.reject d 0x49
    else if e.genLo = s.genP sl % 256 ∧ ¬ e.settled then
      let keep (l : List LogW) : List LogW := match l.reverse.find? (fun w => w.kind = 0 && w.tcam = tcam && w.place = place) with
        | some w => (l.reverse.erase w).reverse
        | none => l
      ((((s.tblSend (s.ringHalf d) (fun s => s.tblFree tcam place)).tblDma d tcam place).setPlog sl (keep (s.plog sl))).setDlog sl (keep (s.dlog sl))).ok d 0
    else if 65536 ≤ (s.plog sl).length then s.fail d 0x17
    else ((s.tblStore d tcam place { e with genHi := s.genG sl % 256, opn := false }).logWrite sl (LogW.mk 1 tcam place bs)).ok d 0

/-- REPLACE_NOW of the addressed entry (R83). -/
def State.tblReplace (s : State) (d : Hdr) (tcam : Bool) (hit : Option (List Nat × Ent)) (adata act : Nat) (bs : List Byte) : State :=
  match hit with
  | none => s.fail d 0x14
  | some (place, e) =>
    ((s.tblStore d tcam place { e with adata := adata, act := act }).setDlog d.slice (s.dlog d.slice ++ [LogW.mk 2 tcam place bs])).ok d 0

/-- TBL_WRITE (R83, R477, R478). -/
def doTblWrite (d : Hdr) (kind id i : Nat) (s : State) : State :=
  s.serve d ⟨0x10, .config, true, true, 0⟩ (ownSlice d d.slice) (cleanHdr d true false true) fun s =>
    match s.tableMap? id with
    | none => s.fail d stParam
    | some t =>
      if 2 < kind ∨ badIndex t i ∨ d.hlen < 64 then s.fail d stParam
      else s.withBuf d fun buf =>
        let bs := slice buf 0 64
        let key := le bs 0 20
        let mask := le bs 20 20
        let adata := le bs 40 8
        let act := byteAt bs 48
        if (t.kind = 0 ∧ 2 ^ t.keyW ≤ key) ∨ 63 < act then s.fail d stParam
        else
          let tcam := decide (t.kind ≠ 0)
          let (hits, s) := if tcam then ((s.tcamTarget t d.slice i).toList, s) else s.emRead d t key
          let hit := emFirst hits
          match kind with
          | 0 => s.tblAdd d t hits i key mask adata act bs
          | 1 => s.tblClose d tcam hit bs
          | _ => s.tblReplace d tcam hit adata act bs

def execTblWrite (d : Hdr) (kind id i : Nat) (s : State) : Host.Outcome State Fault Refusal := doneDesc (.tblWrite (bareHdr d) kind id i) d (doTblWrite d kind id i) s

/-- The 32 bytes of an exact-match entry (R73). -/
def emBytes (e : Ent) : List Byte :=
  leBytes 32 (e.key % 2 ^ 128 + e.adata % 2 ^ 64 * 2 ^ 128 + e.act % 64 * 2 ^ 192 + e.slice % 64 * 2 ^ 198 + e.genLo % 256 * 2 ^ 204
    + e.genHi % 256 * 2 ^ 212 + b2n e.opn * 2 ^ 220 + b2n e.settled * 2 ^ 221 + 2 ^ 222 + e.table % 256 * 2 ^ 223)

/-- The 64-byte record of a TCAM entry (R92). -/
def tcamBytes (e : Ent) : List Byte :=
  leBytes 20 e.key ++ leBytes 20 e.mask ++ leBytes 8 e.adata ++ leBytes 1 e.act ++ leBytes 1 e.slice ++ leBytes 1 e.genLo ++ leBytes 1 e.genHi
    ++ leBytes 1 (b2n e.opn + 2 * b2n e.settled + 4 + 8 * b2n e.wide) ++ leBytes 1 e.table ++ List.replicate 10 0

/-- The record of the odd index of a wide entry: the upper half of its key, and the qualifier and action word as stored (R92). -/
def oddBytes (e : Ent) : List Byte :=
  leBytes 20 (e.key / 2 ^ 160) ++ leBytes 20 (e.mask / 2 ^ 160) ++ leBytes 12 e.odd ++ [byteOf (e.odd / 2 ^ 96 % 8 + 8)]
    ++ leBytes 1 (e.odd / 2 ^ 104) ++ List.replicate 10 0

/-- A word of P00's stage tables as TBL_READ reads it: whether it is poisoned (R92, R404). -/
def State.tblWordBad (s : State) (d : Hdr) (tcam : Bool) (place : List Nat) : Bool × State :=
  let ev := s.engEv (s.ringHalf d) 6 (some d.fn)
  (s.dma (s.ringHalf d) ev 1 (tblAddr tcam place) 0).eccReadAt .E 1 0 (tblAddr tcam place) ev

/-- TBL_READ of an exact-match entry from P00's copy: a way with a poisoned word does not hit (R83, R404). -/
def State.tblReadEm (s : State) (d : Hdr) (t : Config.TableMap) (key : Nat) : State :=
  let r := s.emRead d t key
  match emFirst r.1 with
  | some (_, e) => (r.2.hostWrite d.haddr (emBytes e)).ok d 0
  | none => r.2.fail d 0x14

/-- TBL_READ of a TCAM index from P00's copy, its cells as they stand (R92, R406). What a poisoned action word reads as is free (log entry 73). -/
def State.tblReadTcam (s : State) (d : Hdr) (t : Config.TableMap) (i : Nat) : State :=
  let k := stageOf t.stage
  match s.tcamTarget t d.slice i with
  | some (place, e) =>
    let e := match s.tables.upset.get? (0 :: place) with | some (some c) => c | _ => e
    let (bad, s) := s.tblWordBad d true place
    let (u, s) := if bad then s.draw else (0, s)
    (s.hostWrite d.haddr (tcamBytes (if bad then { e with adata := u % 2 ^ 64, act := u / 2 ^ 64 % 64 } else e))).ok d 0
  | none => match (if i % 2 = 1 then s.tables.tcam.get? [k, i - 1] else none) with
    | some e => if e.wide ∧ e.slice = d.slice ∧ e.table = t.id then (s.hostWrite d.haddr (oddBytes e)).ok d 0 else s.fail d 0x14
    | none => s.fail d 0x14

/-- TBL_READ (R92, R477). R92 tells what the odd index of a wide entry returns, and R477 refuses an odd index of a wide table: it is returned where the table's map gives it no wide entries (log entry 74). -/
def doTblRead (d : Hdr) (id i key : Nat) (s : State) : State :=
  s.serve d ⟨0x11, .reads, false, true, 0⟩ (ownSlice d d.slice) (cleanHdr d true false true) fun s =>
    match s.tableMap? id with
    | none => s.fail d stParam
    | some t =>
      if badIndex t i ∨ (t.kind = 0 ∧ 2 ^ t.keyW ≤ key) ∨ d.hlen < (if t.kind = 0 then 32 else 64) then s.fail d stParam
      else s.withBuf d fun _ => if t.kind = 0 then s.tblReadEm d t key else s.tblReadTcam d t i

def execTblRead (d : Hdr) (id i key : Nat) (s : State) : Host.Outcome State Fault Refusal := doneDesc (.tblRead (bareHdr d) id i key) d (doTblRead d id i key) s

/-- Commits of a slice that have passed their checks and wait for earlier writes or for their first edge. -/
def State.commitsPending (s : State) (sl : Nat) : Nat :=
  (s.ras.steps.filter (fun t => t.kind = .commit sl && !t.doneE && !t.doneW)).length + (s.tables.passed.filter (fun (d : Hdr) => d.slice = sl)).length

/-- A TBL_WRITE or SLICE_ABORT of the slice that was fetched before a descriptor, from any ring, has not completed (R85). -/
def State.writesBefore (s : State) (d : Hdr) : Bool :=
  (s.host.taken.takeWhile (fun t => !sameHdr t.hdr d)).any (fun t => (t.opcode = 0x10 || t.opcode = 0x13) && t.hdr.slice = d.slice)

/-- SLICE_COMMIT: refused with four live generations; else it waits for the earlier writes of its slice, and is then a two-half step (R85, R395). -/
def doSliceCommit (d : Hdr) (s : State) : State :=
  let sl := d.slice
  let again := s.tables.passed.any (fun x => sameHdr x d)
  let s : State := { s with tables := { s.tables with passed := s.tables.passed.filter (fun x => !sameHdr x d) } }
  s.serve d ⟨0x12, .config, true, true, 0⟩ (ownSlice d sl) (cleanHdr d true false false) fun s =>
    let p := s.commitsPending sl
    if ¬ again ∧ 4 ≤ (s.genG sl + p + 65536 - s.genO sl) % 65536 + 1 then (s.fail d 0x16).bump .SLC_CNT_v [(s.ringHalf d).n, sl, 3] 1
    else if s.writesBefore d then ({ s with tables := { s.tables with passed := s.tables.passed ++ [d] } }).descWait d
    else s.request (.commit sl) (some d) ((s.genG sl + (s.ras.steps.filter (fun t => t.kind = .commit sl && !t.doneE && !t.doneW)).length + 1) % 65536)

def execSliceCommit (d : Hdr) (s : State) : Host.Outcome State Fault Refusal := doneDesc (.sliceCommit (bareHdr d)) d (doSliceCommit d) s

/-- The digest of a generation's log (R378). -/
def logDigest (l : List LogW) : Nat := digestNat (sha384 (l.flatMap (fun w => byteOf w.kind :: w.bytes)))

/-- The digest of a slice in a half; key 2 holds the log digest of a commit that one half has applied and the other not. -/
def State.sliceDigest (s : State) (h : Half) (sl : Nat) : Nat := s.tables.digest.getD [h.n, sl] 0

/-- A half's commit edge: G rises; at the first half's edge the log of P closes (R84, R85, R378). -/
def State.commitEdge (s : State) (h : Half) (sl : Nat) : State :=
  let p := (s.rd .SLC_GEN_cur_gen [h.n, sl] + 1) % 65536
  let first := (s.tables.digest.get? [2, sl, p]).isNone
  let l := if first then logDigest (s.dlog sl) else s.tables.digest.getD [2, sl, p] 0
  let s := if first then
      let s := { s with tables := { s.tables with
        clog := s.tables.clog.set [sl, p] (s.plog sl)
        digest := s.tables.digest.set [2, sl, p] l } }
      (s.setPlog sl []).setDlog sl []
    else { s with tables := { s.tables with digest := s.tables.digest.erase [2, sl, p] } }
  let dg := digestNat (sha384 (leBytes 48 (s.sliceDigest h sl) ++ leBytes 48 l))
  let s := { s with tables := { s.tables with digest := s.tables.digest.set [h.n, sl] dg } }
  s.sts [(.SLC_GEN_cur_gen, [h.n, sl], p), (.SLC_GEN_committed, [h.n, sl], 1)]

/-- The abort of a slice's pending generation: entries added under P are freed, those closed under P reopened; the writes undone (R84). -/
def State.abortSlice (s : State) (sl : Nat) : Nat × State :=
  let l := s.plog sl
  let s := l.foldl (fun s w =>
    if w.kind = 0 then s.tblFree w.tcam w.place
    else match s.tblAt w.tcam w.place with
      | some e => s.tblPut w.tcam w.place (some { e with opn := true })
      | none => s) s
  (l.length, (s.setPlog sl []).setDlog sl ((s.dlog sl).filter (fun w => w.kind = 2)))

/-- SLICE_ABORT (R84). -/
def doSliceAbort (d : Hdr) (s : State) : State :=
  s.serve d ⟨0x13, .config, true, true, 0⟩ (ownSlice d d.slice) (cleanHdr d true false false) fun s =>
    let (n, s) := s.abortSlice d.slice
    s.ok d n

def execSliceAbort (d : Hdr) (s : State) : Host.Outcome State Fault Refusal := doneDesc (.sliceAbort (bareHdr d)) d (doSliceAbort d) s

/-- SLICE_QUOTA (R79). -/
def doSliceQuota (d : Hdr) (em tcam : Nat) (s : State) : State :=
  s.serve d ⟨0x14, .config, true, false, 0⟩ true (cleanHdr d true false false && decide (em ≤ 131072) && decide (tcam ≤ 65536)) fun s =>
    (halves.foldl (fun s h => s.sts [(.SLC_QUOTA_em_quota, [h.n, d.slice], em), (.SLC_QUOTA_tcam_quota, [h.n, d.slice], tcam)]) s).ok d 0

def execSliceQuota (d : Hdr) (em tcam : Nat) (s : State) : Host.Outcome State Fault Refusal := doneDesc (.sliceQuota (bareHdr d) em tcam) d (doSliceQuota d em tcam) s

/-- One write of the log kept under O + 1 at the retirement of O (R87): true when the entry is reclaimed. The read reports an error of the word in P00's copy (R404), whose content the other pipes hold. -/
def State.retireWrite (s : State) (o : Nat) (w : LogW) : Bool × State :=
  let h := s.owner
  let ev := s.engEv h 3 none
  let a := tblAddr w.tcam w.place
  let r := (s.dma h ev 1 a 0).eccReadAt .E 1 0 a ev
  let s := r.2
  match s.tblAt w.tcam w.place with
  | none => (false, s)
  | some e =>
    if ¬ e.opn ∧ e.genHi = o % 256 then (true, (s.tblSend h (fun s => s.tblFree w.tcam w.place)).dma h ev 1 a 1)
    else if e.genLo = (o + 1) % 256 then (false, (s.tblSend h (fun s => s.tblPut w.tcam w.place (some { e with settled := true }))).dma h ev 1 a 1)
    else (false, s)

/-- The retirement of the oldest live generation of a slice (R87). -/
def State.retireGen (s : State) (sl : Nat) : State :=
    let o := s.genO sl
    let h := s.owner
    let s := halves.foldl (fun s x => s.st .SLC_GEN_retiring [x.n, sl] 1) s
    let n := (o + 1) % 65536
    let r := (s.tables.clog.getD [sl, n] []).foldl (fun (a : Nat × State) w => let x := a.2.retireWrite o w; (a.1 + b2n x.1, x.2)) (0, s)
    let s := { r.2 with tables := { r.2.tables with clog := r.2.tables.clog.erase [sl, n] } }
    let s := halves.foldl (fun s x => s.sts [(.SLC_GEN_oldest_live, [x.n, sl], n), (.SLC_GEN_retiring, [x.n, sl], 0)]) s
    let s := s.bump .SLC_CNT_v [h.n, sl, 2] r.1
    if s.on .SLC_GEN_evt_retired [h.n, sl] then s.raise 0x0010 h.n [(0, 1, sl), (2, 2, o), (4, 2, n), (8, 4, r.1)] (some (sl + 1)) else s

/-- The event of the PROG routine for a slice's retirement. -/
def retireBody (sl : Nat) : List Word := [BitVec.ofNat 64 sl, 1]

/-- GEN_RETIRE: the oldest live generation of a slice is drained, below G in both halves, and an engine of the owner's PROG routine retires it (R87, R302). -/
def doGenRetire (sl : Nat) (s : State) : State :=
  let o := s.genO sl
  let used := halves.any (fun x => s.on .SLC_REFCNT_count [x.n, sl, o % 4])
  if halves.any (fun x => s.rd .SLC_GEN_cur_gen [x.n, sl] = o) ∨ used ∨ s.unresolved then s
  else s.viaRoutine s.owner 3 (retireBody sl) (fun s => s.retireGen sl)

def execGenRetire (sl : Nat) (s : State) : Host.Outcome State Fault Refusal := done (doGenRetire sl s)

/-- REFCNT_RELEASE: the first release message on the bridge toward a half is applied; none is while a half is UNRESOLVED (R86, R396). -/
def doRefcntRelease (h : Half) (s : State) : State :=
  if s.unresolved then s
  else match s.tables.refRel.find? (fun m => m.1 = h) with
    | some m => { s with tables := { s.tables with refRel := s.tables.refRel.erase m } }.lower .SLC_REFCNT_count [h.n, m.2.1, m.2.2] 1
    | none => s

def execRefcntRelease (h : Half) (s : State) : Host.Outcome State Fault Refusal := done (doRefcntRelease h s)

/-- Release messages on the bridge are kept for the resolution when it is lost: no release is lost (R396). -/
def State.refBridgeLost (s : State) : State :=
  let s := s.tables.refRel.foldl (fun s m =>
    let k := [m.1.n, m.2.1, m.2.2]
    { s with ras := { s.ras with deferred := s.ras.deferred.set k (s.ras.deferred.getD k 0 + 1) } }.bump .RAS_CNT_v [m.1.other.n, 13] 1) s
  { s with tables := { s.tables with refRel := [] } }

/-- VNI_MAP_WRITE (R57). An absent VNI takes the lowest free way of its bucket (DESIGN CHOICE: log entry 84). -/
def doVniMapWrite (d : Hdr) (vni : Nat) (s : State) : State :=
  s.serve d ⟨0x15, .config, true, false, 0⟩ true (cleanHdr d true false false && decide (vni < 16777216)) fun s =>
    let b := vniBucket vni
    let way := match s.vniWay vni with
      | some w => some w
      | none => (List.range 4).find? (fun w => (s.tables.vni.get? [b, w]).isNone)
    match way with
    | some w => { s with tables := { s.tables with vni := s.tables.vni.set [b, w] (vni, d.slice) } }.ok d 0
    | none => s.fail d 0x10

def execVniMapWrite (d : Hdr) (vni : Nat) (s : State) : Host.Outcome State Fault Refusal := doneDesc (.vniMapWrite (bareHdr d) vni) d (doVniMapWrite d vni) s

/-- VNI_MAP_DELETE (R57). -/
def doVniMapDelete (d : Hdr) (vni : Nat) (s : State) : State :=
  s.serve d ⟨0x16, .config, true, false, 0⟩ true (cleanHdr d false false false && decide (vni < 16777216)) fun s =>
    match s.vniWay vni with
    | some w => { s with tables := { s.tables with vni := s.tables.vni.erase [vniBucket vni, w] } }.ok d 0
    | none => s.fail d 0x14

def execVniMapDelete (d : Hdr) (vni : Nat) (s : State) : Host.Outcome State Fault Refusal := doneDesc (.vniMapDelete (bareHdr d) vni) d (doVniMapDelete d vni) s

end Sys2Proof.Machine
end

