-- ==== Sys2Proof/Machine/Program.lean ====
section
/-!
DEFINITION. The two copies of the pipeline program: the Izbe object and its checks (R88), PROG_LOAD (R89), and the program swap (R91).
-/

namespace Sys2Proof.Machine

/-- A section header of an Izbe object (R88). -/
structure Sec where
  typ : Nat
  stage : Nat
  off : Nat
  len : Nat
  count : Nat
deriving DecidableEq, Repr

/-- The record size of a section type in bytes; a record of key builders or action programs holds those of a whole stage (R88). -/
def secSize (t : Nat) : Nat :=
  match t with | 1 => 16 | 2 => 10 | 3 => 32 | 4 => 4 | 5 => 8 | 6 => 128 | 7 => 4096 | 8 => 32 | _ => 0

/-- The records that a copy, or a stage of it, holds of a section type (R46, R69, R72). -/
def secMax (t : Nat) : Nat :=
  match t with | 1 => 256 | 2 => 1024 | 3 => 512 | 4 => 32 | 5 => 64 | 6 => 1 | 7 => 1 | 8 => 256 | _ => 0

/-- A section header read from an object. -/
def secAt (bs : List Byte) (i : Nat) : Sec :=
  let b := 64 + 16 * i
  ⟨le bs b 2, byteAt bs (b + 2), le bs (b + 4) 4, le bs (b + 8) 4, le bs (b + 12) 4⟩

/-- The section checks of R89. -/
def secOk (objLen : Nat) (c : Sec) : Bool :=
  decide (1 ≤ c.typ ∧ c.typ ≤ 8) && decide (c.off + c.len ≤ objLen) && c.len = c.count * secSize c.typ
    && (if c.typ = 6 ∨ c.typ = 7 then decide (c.stage < 20 ∨ (32 ≤ c.stage ∧ c.stage ≤ 43)) else c.stage = 255)

/-- The records of a type in an object, in order, with their stage (R88). -/
def secRecords (bs : List Byte) (cs : List Sec) (t : Nat) : List (Nat × List Byte) :=
  (cs.filter (fun c => c.typ = t)).flatMap (fun c => (List.range c.count).map (fun j => (c.stage, slice bs (c.off + j * secSize t) (secSize t))))

/-- Records numbered from 0. -/
def numbered (l : List (Nat × List Byte)) : SMap Nat :=
  (List.range l.length).foldl (fun m i => match l[i]? with | some r => m.set [i] (leNat r.2) | none => m) []

/-- The k parts of n bytes in each stage's record, numbered from 0. -/
def perStage (k n : Nat) (l : List (Nat × List Byte)) : SMap Nat :=
  l.foldl (fun m r => (List.range k).foldl (fun m i => m.set [stageOf r.1, i] (leNat (slice r.2 (n * i) n))) m) []

/-- An Izbe object that passes every check of R89, as a copy of the program; none where a check fails. -/
def progParse (bs : List Byte) : Option Prog :=
  let n := le bs 12 2
  let crc := crc32c 0 (overlay bs 20 [0, 0, 0, 0])
  let cs := (List.range n).map (secAt bs)
  let recs (t : Nat) : List (Nat × List Byte) := secRecords bs cs t
  let fits (t : Nat) : Bool := decide ((recs t).length ≤ secMax t)
  let fitsStage (t : Nat) : Bool := ((recs t).map (fun r => r.1)).all (fun z => decide (((recs t).filter (fun r => r.1 = z)).length ≤ secMax t))
  if le bs 0 4 = 0x31425A49 ∧ le bs 4 2 = 1 ∧ le bs 16 4 = 0x00090204 ∧ le bs 8 4 = bs.length ∧ 64 ≤ bs.length ∧ le bs 20 4 = crc
      ∧ 1 ≤ n ∧ n ≤ 256 ∧ 64 + 16 * n ≤ bs.length ∧ cs.all (secOk bs.length) ∧ [1, 2, 3, 4, 5, 8].all fits ∧ [6, 7].all fitsStage then
    some ⟨true, numbered (recs 1), numbered (recs 2), numbered (recs 3), numbered (recs 4), (numbered (recs 5)).map (fun e => (e.1, e.2 % 2 ^ 41)), perStage 4 32 (recs 6), perStage 64 64 (recs 7),
      (recs 8).map (fun r => Config.decodeTableMap r.2), digestNat (sha384 bs)⟩
  else none

/-- The table maps of two copies agree (R89). -/
def layoutsAgree (a b : Prog) : Bool :=
  a.tmap.all (fun t => match b.table? t.id with
    | some u => t.kind = u.kind && t.stage = u.stage && t.keyW = u.keyW && t.size = u.size && t.seed = u.seed && (t.kind = 0 || t.base = u.base)
    | none => true)

/-- Replaces a copy of the program, its loaded flag and its digest. -/
def State.setProg (s : State) (c : Nat) (p : Prog) : State :=
  let s := if c = 0 then { s with progA := p } else { s with progB := p }
  let s := s.st (if c = 0 then .MAT_PROG_CTL_a_loaded else .MAT_PROG_CTL_b_loaded) [32] (b2n p.loaded)
  s.st .MAT_PROG_DIGEST_v [32, c] p.digest

/-- Loads an object into a copy: the status, and the state with the copy LOADED or left EMPTY (R89). -/
def State.progInstall (s : State) (c : Nat) (bs : List Byte) : Nat × State :=
  let s := s.setProg c Prog.empty
  match progParse bs with
  | none => (0x1A, s)
  | some p =>
    let other := s.prog (1 - c)
    if other.loaded ∧ ¬ layoutsAgree p other then (0x1B, s) else (stOk, s.setProg c p)

/-- PROG_LOAD: the named copy is EMPTY from the start of the read (R89, R90). -/
def doProgLoad (d : Hdr) (copy : Nat) (s : State) : State :=
  s.serve d ⟨0x18, .config, true, false, 0⟩ true (cleanHdr d false false true && decide (copy < 2)) fun s =>
    if s.swap.isSome then s.reject d (if s.rd .MAT_PROG_CTL_state [32] = 2 then 0x21 else 0x20)
    else if copy = s.active ∧ (s.prog copy).loaded then s.reject d 0x22
    else (s.setProg copy Prog.empty).withBuf d fun bs =>
      let (st, s) := (s.setProg copy Prog.empty).progInstall copy bs
      if st = stOk then s.ok d 0 else s.fail d st

def execProgLoad (d : Hdr) (copy : Nat) (s : State) : Host.Outcome State Fault Refusal := doneDesc (.progLoad (bareHdr d) copy) d (doProgLoad d copy) s

/-- PROG_SWAP: Maintenance begins and the flip is requested (R91). -/
def doProgSwap (d : Hdr) (s : State) : State :=
  s.serve d ⟨0x19, .maint, true, false, 0⟩ true (cleanHdr d false false false) fun s =>
    if ¬ (s.prog (1 - s.active)).loaded then s.reject d 0x23
    else
      let s := { s with swap := some ⟨d, s.active, false, 0, 0⟩ }
      let s := (s.st .MAT_PROG_CTL_state [32] 1).maintStart 1
      s.request .flip none 0

def execProgSwap (d : Hdr) (s : State) : Host.Outcome State Fault Refusal := doneDesc (.progSwap (bareHdr d)) d (doProgSwap d) s

/-- The flip is made in both halves (R91). -/
def State.flipMade (s : State) : State := { s with swap := s.swap.map (fun w => { w with flipped := true }) }

/-- A half has made its flip. -/
def State.flippedIn (s : State) (h : Half) (old : Nat) : Bool := s.activeOf h ≠ old

/-- Frames and copies with the old tag (R91). -/
def State.oldFrames (s : State) : List Frame :=
  match s.swap with
  | some w => s.frames.filter (fun f => f.tag = w.old && f.loc ≠ .tile && f.loc ≠ .hostPort
      && (f.loc ≠ .input || decide (1024 ≤ f.inPort ∧ f.inPort < 1056)))
  | none => []

/-- Frees the queued old-tag copies of the halves that have flipped (R91, R403). -/
def State.freeOld (s : State) (old : Nat) : State :=
  (s.oldFrames.filter (fun f => f.loc = .queued && s.flippedIn f.egress old)).foldl (fun s f => s.drainDrop f) s

/-- A half's flip edge: new frames of its pipes take the other tag; the drain timer runs from the first half's edge, and a half that flips after its limit frees its queued old-tag copies at once (R91, R403). -/
def State.flipEdge (s : State) (h : Half) : State :=
  match s.swap with
  | none => s
  | some w =>
    let s := if s.activeOf h.other = w.old then { s with swap := some { w with since := s.elapsed } } else s
    let s := (s.st .MAT_PROG_CTL_active [33 + h.n] (1 - w.old)).st .MAT_PROG_CTL_active [32] (1 - w.old)
    if s.rd .MAT_PROG_CTL_state [32] = 2 then s.freeOld w.old else s

/-- The drain limit in ns, 0 for none (MAT_PROG_CTL). -/
def State.drainLimit (s : State) : Nat := min 1000 (s.rd .MAT_PROG_CTL_drain_limit [32]) * 1000000

/-- PROG_DRAIN_LIMIT: the drain timer reaches its limit; every queued old-tag copy of a half that has flipped is freed (R91, R403). -/
def doProgDrainLimit (s : State) : State :=
  match s.swap with
  | none => s
  | some w =>
    if ¬ (s.flippedIn .E w.old || s.flippedIn .W w.old) ∨ s.rd .MAT_PROG_CTL_state [32] ≠ 1 ∨ s.drainLimit = 0 ∨ s.oldFrames.isEmpty then s
    else
      ((s.runTo (w.since + s.drainLimit)).st .MAT_PROG_CTL_state [32] 2).freeOld w.old

def execProgDrainLimit (s : State) : Host.Outcome State Fault Refusal := done (doProgDrainLimit s)

/-- PROG_SWAP_DRAINED: no frame carries the old tag, and no release is deferred; an engine of the PROGRAM routine at the owner ends the swap (R91, R302, R403). -/
def doProgSwapDrained (s : State) : State :=
  match s.swap with
  | none => s
  | some w =>
    if ¬ w.flipped ∨ ¬ s.oldFrames.isEmpty ∨ ¬ s.ras.deferred.isEmpty then s
    else s.viaRoutine s.owner 3 [0, 2] fun s =>
      let s := { s with swap := none }
      ((s.st .MAT_PROG_CTL_state [32] 0).maintEnd).ok w.desc w.forced

def execProgSwapDrained (s : State) : Host.Outcome State Fault Refusal := done (doProgSwapDrained s)

end Sys2Proof.Machine
end

