-- ==== Sys2Proof/Machine/Timed.lean ====
section
/-!
DEFINITION. Time-driven forwarding (R202-R231): gate lists, projected starts and guards, launch times, traps by the scheduler, and the epoch grid with its changes and purges. Projected starts are held in units of 2^-32 / 200 ns, in which every transmission time is whole.
-/

namespace Sys2Proof.Machine

/-- Units of a projected start per nanosecond. -/
def tuNs : Nat := 200 * tsNs

/-- The MAC rate of a port in Gb/s, 0 while it is not configured (R158). -/
def State.rate (s : State) (port : Nat) : Nat := match s.lanes.ports.get? [port] with | some c => macRate c | none => 0

/-- The transmission time of a counted length at a rate (R158). -/
def txTime (c rate : Nat) : Nat := c * 8 * tuNs / rate

/-- Time passes until a half's network time reaches a nanosecond count (R41). -/
def State.runUntil (s : State) (h : Half) (ns : Nat) : State :=
  s.runFor (ceilDiv (ns * tsNs - s.now h) (s.incOf h))

/-- The active gate list of a port. -/
def State.glA (s : State) (port : Nat) : Option GList := s.timed.gl.get? [port, 0]

/-- The pending gate list of a port. -/
def State.glP (s : State) (port : Nat) : Option GList := s.timed.gl.get? [port, 1]

/-- The entries of a list laid over one cycle: the last held to its end, the one in progress cut there (R207). -/
def layOut : List (Nat × Nat) → Nat → List (Nat × Nat)
  | [], _ => []
  | [(g, _)], r => [(g, r)]
  | (g, i) :: t, r => if r ≤ i then [(g, r)] else (g, i) :: layOut t (r - i)

/-- One cycle of a list: gates and duration. -/
def GList.segs (l : GList) : List (Nat × Nat) := layOut l.ents l.cycle

/-- Segments cut at a position: those before it and those after. -/
def cutSegs : List (Nat × Nat) → Nat → List (Nat × Nat) × List (Nat × Nat)
  | [], _ => ([], [])
  | (g, n) :: t, p =>
    if p < n then ([(g, p)], (g, n - p) :: t)
    else let r := cutSegs t (p - n); ((g, n) :: r.1, r.2)

/-- One cycle from an instant on (R207). -/
def GList.from (l : GList) (t : Nat) : List (Nat × Nat) :=
  let r := cutSegs l.segs (((t : Int) - (l.start : Int)) % (l.cycle : Int)).toNat
  r.2 ++ r.1

/-- The time until bit q has a value, none where it never has. -/
def untilBit (q : Nat) (v : Bool) : List (Nat × Nat) → Option Nat
  | [] => none
  | (g, n) :: t => if n ≠ 0 ∧ bit g q = v then some 0 else (untilBit q v t).map (· + n)

/-- The first instant at or after t at which bit q of a list has a value; a list without entries leaves every queue open. -/
def GList.next (l : GList) (q : Nat) (v : Bool) (t : Nat) : Option Nat :=
  if l.ents.isEmpty then (if v then some t else none) else (untilBit q v (l.from t)).map (· + t)

/-- The same over the active list, which the pending list follows at its start (R210, R212). -/
def gateNext (a : GList) (p : Option GList) (q : Nat) (v : Bool) (t : Nat) : Option Nat :=
  match p with
  | none => a.next q v t
  | some p =>
    if p.start ≤ t then p.next q v t
    else match a.next q v t with
      | some x => if x < p.start then some x else p.next q v p.start
      | none => p.next q v p.start

/-- The longest opening of a queue, none where it is unlimited (R211). -/
def GList.maxOpen (l : GList) (q : Nat) : Option Nat :=
  let g := l.segs
  if g.all (fun x => bit x.1 q) then none
  else some ((g ++ g).foldl (fun (a : Nat × Nat) x => if bit x.1 q then (a.1 + x.2, max a.2 (a.1 + x.2)) else (0, a.2)) (0, 0)).2

/-- A port is timed (R202). -/
def State.timedPort (s : State) (port : Nat) : Bool :=
  let h := portHalf port
  let q0 := 16 * localIdx port
  decide (port < 1024) &&
    ((s.glA port).isSome ||
      (List.range 16).any (fun i => s.on .GTE_Q_CFG_lt_en [h.n, q0 + i] || (s.gridRuns && s.on .GTE_Q_CFG_ep_en [h.n, q0 + i])))

/-- The profile of a queue. -/
def State.gprof (s : State) (h : Half) (q : Nat) : List Nat := [h.n, s.rd .GTE_Q_CFG_prof [h.n, q]]

/-- The counted length of a copy in its queue (R156). -/
def State.copyLen (s : State) (f : Frame) : Nat := s.counted f.egress (s.rd .TMG_Q_CFG_len_prof [f.egress.n, f.queue]) f.len

/-- Network time as the traffic manager of a half has it: while the crossing from the time base is not acknowledged, the value that it holds (R31, R411). -/
def State.tmNow (s : State) (h : Half) : Ts := match s.xingAt h 2 0 with | some x => x.val | none => s.now h

/-- `base` of R203. -/
def State.base (s : State) (port : Nat) : Nat :=
  max (s.tmNow (portHalf port) * 200 + 240 * tuNs) (s.timed.horizon.getD [port] 0)

/-- The epoch number of a half's timer (R219). -/
def State.epochNo (s : State) (h : Half) : Int := match h with | .E => s.timed.epE | .W => s.timed.epW

/-- A copy is stale: an epoch change found it in an epoch queue, or it stands in one with another stamp than the current count while the grid runs. It waits for the purge, and no test of the scheduler applies to it (R222, R223, R228). -/
def State.stale (s : State) (f : Frame) : Bool := f.purge || (s.gridRuns && s.epQueue f.egress f.queue && decide (f.epoch ≠ s.epochCnt f.egress))

/-- One more copy holds the cells of a stored copy (R127). -/
def State.shareMore (s : State) (h : Half) (f : Frame) (share : Nat) : State :=
  let v := if f.share = 0 then 128 + f.cells else s.buf.share.getD [h.n, share] 0
  { s with buf := { s.buf with share := s.buf.share.set [h.n, share] (v + 128) } }

/-- A trap by the scheduler: the copy is freed and a new one, sharing its cells, asks for admission to a host port of its half (R214). -/
def State.schedTrap (s : State) (f : Frame) : State :=
  let h := f.egress
  let p := s.gprof h f.queue
  let share := if f.share = 0 then f.id + 1 else f.share
  let g : Frame := { f with
    loc := .request, out := 1056 + 8 * h.n + s.rd .GTE_PROF_trap_port p, tc := s.rd .GTE_PROF_trap_tc p, share := share
    pg := none, hdrmReq := false, hdrm := false, ce := false, launch := none, lMiss := none, lateDone := false, sizeTested := false
    queue := 0x3FFF, rsv := 0, pool := 0, depth := 0, poolFree := 0, enqNs := 0, fd := 0, pipe := 16 * h.n + f.pipe % 16, purge := false }
  let g := g.mset 107 8 (max 0x10 (s.rd .GTE_PROF_trap_reason p))
  let id := s.nextId
  let s := ((s.shareMore h f share).refAdd g).addFr g
  let s := { s with buf := { s.buf with reqs := s.buf.reqs ++ [(h, id)] } }
  (((s.unqueue h f.queue f.id).bufFree { f with share := share } true).release h f).delFr f.id

/-- The instant of a copy's launch value, in ns, nearest to a half's network time (R216). -/
def State.launchAt (s : State) (h : Half) (v : Nat) : Int :=
  let t : Int := ((tTotalNs (s.tmNow h) : Nat) : Int)
  t + signed 48 (unsigned 48 ((v : Int) - t))

/-- The launch time L of a head copy, in units of a projected start; without a valid launch value it is the base of the first attempt (R217). -/
def State.launchTime (s : State) (port : Nat) (f : Frame) : Int :=
  match f.launch with
  | some v => s.launchAt f.egress v * (tuNs : Int)
  | none => ((f.lMiss.getD (s.base port) : Nat) : Int)

/-- The launch test of one head copy in one clock (R217): whether it was freed. -/
def State.launchOne (s : State) (port : Nat) (f : Frame) : Bool × State :=
  let h := f.egress
  let q := f.queue
  let p := s.gprof h q
  let base := s.base port
  let l := s.launchTime port f
  let (f, s) : Frame × State :=
    if f.launch.isNone ∧ f.lMiss.isNone then
      let f := { f with lMiss := some base }
      (f, (s.setFr f).bump .GTE_CNT_v [h.n, q, 4] 1)
    else (f, s)
  let far := s.rd .GTE_PROF_lt_max p * 1000
  if far ≠ 0 ∧ ((far * tuNs : Nat) : Int) < l - base then (true, (s.bump .GTE_CNT_v [h.n, q, 3] 1).freeDrop f 0x0D)
  else if f.lateDone = false ∧ l + ((s.rd .GTE_PROF_lt_tol p * tuNs : Nat) : Int) < base then
    if s.on .GTE_PROF_late_act p then (false, (s.setFr { f with lateDone := true }).bump .GTE_CNT_v [h.n, q, 2] 1)
    else (true, (s.bump .GTE_CNT_v [h.n, q, 1] 1).freeDrop f 0x0C)
  else (false, s)

/-- The launch tests of a queue: the next copy becomes the head when one is freed (R227). -/
def State.launchQueue (s : State) (port q : Nat) : Nat → State
  | 0 => s
  | n + 1 =>
    match ((s.queueIds (portHalf port) q).head?).bind s.fr? with
    | none => s
    | some f =>
      if s.stale f then s
      else
      let r := s.launchOne port f
      if r.1 then r.2.launchQueue port q n else r.2

/-- The launch tests of a timed port's launch-time queues in one clock (R217). -/
def State.launchPort (s : State) (port : Nat) : State :=
  let h := portHalf port
  (List.range 16).foldl (fun s i =>
    let q := 16 * localIdx port + i
    if s.on .GTE_Q_CFG_lt_en [h.n, q] then s.launchQueue port q (s.queueIds h q).length else s) s

/-- LAUNCH_TEST (R217). -/
def doLaunchTest (port : Nat) (s : State) : State := if s.timedPort port then s.launchPort port else s

def execLaunchTest (port : Nat) (s : State) : Host.Outcome State Fault Refusal := done (doLaunchTest port s)

/-- The oversize test of a head copy against the active list (R213): whether the copy left its queue. -/
def State.oversizeOne (s : State) (port : Nat) (a : GList) (f : Frame) : Bool × State :=
  let h := f.egress
  let big : Bool := match a.maxOpen (f.queue % 16) with
    | some m => decide (m * tuNs < txTime (s.copyLen f) (s.rate port))
    | none => false
  if f.sizeTested || !big then (false, s.setFr { f with sizeTested := true })
  else
    let s := s.bump .GTE_CNT_v [h.n, f.queue, 0] 1
    (true, if s.on .GTE_PROF_over_act (s.gprof h f.queue) then s.schedTrap f else s.freeDrop f 0x0B)

/-- The current slot's map bit of a port (R220). -/
def State.mapBit (s : State) (port : Nat) : Bool :=
  match s.timed.gridA with
  | some g => bit (g.maps.getD (s.epochNo (portHalf port) % (g.slots : Int)).toNat 0) port
  | none => false

/-- The oversize tests of a queue, whose next copy becomes the head when one leaves (R213, R227). -/
def State.oversizeQueue (s : State) (port q : Nat) (a : GList) : Nat → State
  | 0 => s
  | n + 1 =>
    match ((s.queueIds (portHalf port) q).head?).bind s.fr? with
    | none => s
    | some f =>
      if s.stale f ∨ (s.gridRuns ∧ s.epQueue (portHalf port) q ∧ ¬ s.mapBit port) then s
      else
        let r := s.oversizeOne port a f
        if r.1 then r.2.oversizeQueue port q a n else r.2

/-- The oversize tests of a port's heads (R213). -/
def State.oversizePort (s : State) (port : Nat) : State :=
  match s.glA port with
  | none => s
  | some a => (List.range 16).foldl (fun s i =>
      let q := 16 * localIdx port + i
      s.oversizeQueue port q a (s.queueIds (portHalf port) q).length) s

/-- The projected start of a head copy on a timed port: none where it is not eligible in this clock (R203, R212, R221, R227). -/
def State.timedStart (s : State) (port : Nat) (f : Frame) : Option Nat :=
  let h := f.egress
  let q := f.queue
  let d := txTime (s.copyLen f) (s.rate port)
  let base := s.base port
  let tol (a : Nat) : Bool := decide (a * 50 ≤ base * 50 + 6667 * tsNs)
  let ep := s.gridRuns && s.epQueue h q
  let (eo, ec) : Int × Int := match s.timed.gridA with
    | some g =>
      let z := (g.start : Int) + s.epochNo h * (g.len : Int)
      (z + g.og, z + g.len - g.cg)
    | none => (0, 0)
  if ep ∧ (f.epoch ≠ s.epochCnt h ∨ ¬ s.mapBit port) then none
  else
    let a0 := base
    let a0 := if s.on .GTE_Q_CFG_lt_en [h.n, q] then max a0 (s.launchTime port f).toNat else a0
    let a0 := if ep then max a0 (eo * (tuNs : Int)).toNat else a0
    let ac : Option Nat := match s.glA port with
      | none => some a0
      | some a => match gateNext a (s.glP port) (q % 16) true (a0 / tuNs) with
        | some x => some (max a0 (x * tuNs))
        | none => none
    match ac with
    | none => none
    | some ts =>
      let gate : Bool := match s.glA port with
        | none => true
        | some a => match gateNext a (s.glP port) (q % 16) false (ts / tuNs) with
          | some c => decide (ts + d ≤ c * tuNs)
          | none => true
      let fits : Bool := !ep || decide (((ts + d : Nat) : Int) ≤ ec * (tuNs : Int))
      if tol ts ∧ gate ∧ fits then some ts else none

/-- The start of a list or grid after a commit instant: S in ns and N, whose START_ADJUSTED is set when N was searched (R209). -/
def startOf (b c : Nat) (tc : Ts) : Nat × Nat × Bool :=
  let lim := tc + 2000 * tsNs
  if lim ≤ b * tsNs then (b, 0, false)
  else
    let n := ceilDiv (lim - b * tsNs) (c * tsNs)
    (b + n * c, n, true)

/-- The extended result of a load (R340). -/
def startExt (st n : Nat) (adj : Bool) : List Byte :=
  record 32 [(0, 8, st / 1000000000), (8, 4, st % 1000000000), (14, 1, b2n adj), (16, 8, n)]

/-- `gl_state` of a port, from the lists it holds. -/
def State.glState (s : State) (port : Nat) : State :=
  s.st .GTE_PORT_STAT_gl_state [(portHalf port).n, localIdx port]
    (match s.glA port, s.glP port with
      | none, none => 0
      | some _, none => 1
      | some _, some _ => 2
      | none, some _ => 3)

/-- The fields of a list in `GTE_LIST`. -/
def State.glShow (s : State) (port l : Nat) (g : GList) : State :=
  let ix := [(portHalf port).n, localIdx port, l]
  s.sts [(.GTE_LIST_start_sec, ix, g.start / 1000000000), (.GTE_LIST_start_ns, ix, g.start % 1000000000), (.GTE_LIST_cycle_ns, ix, g.cycle)]

/-- The pending list of a port becomes active: the active list is cut and its memory freed, and every head is tested anew (R210, R213). -/
def State.gateStart (s : State) (port : Nat) : State :=
  match s.glP port with
  | none => s
  | some p =>
    let h := portHalf port
    let freed := match s.glA port with | some a => a.ents.length | none => 0
    let gl := s.timed.gl.erase [port, 1]
    let gl := if p.ents.isEmpty then gl.erase [port, 0] else gl.set [port, 0] p
    let s := { s with timed := { s.timed with gl := gl } }.bump .GTE_MEM_free [h.n] freed
    let s := (s.glShow port 0 p).glState port
    let s := { s with frames := s.frames.map (fun (f : Frame) => if f.loc = Loc.queued ∧ f.out = port then { f with sizeTested := false } else f) }
    let s := s.raise 0x0040 h.n [(0, 2, port), (2, 2, p.ents.length), (8, 8, p.start / 1000000000), (16, 4, p.start % 1000000000)]
    s.oversizePort port

/-- The pending list starts when its S has passed (R210); a half whose crossing from the time base is not acknowledged does not see it (R411). -/
def State.gateDue (s : State) (port : Nat) : State :=
  match s.glP port with
  | some p => if p.start * tsNs ≤ s.now (portHalf port) ∧ ¬ s.xingBusy (portHalf port) 2 0 then s.gateStart port else s
  | none => s

/-- GATE_LIST_START: network time reaches the S of a port's pending list, and the half sees it (R210, R411). -/
def doGateListStart (port : Nat) (s : State) : State :=
  match s.glP port with
  | some p => if s.xingBusy (portHalf port) 2 0 then s else (s.runUntil (portHalf port) p.start).gateStart port
  | none => s

def execGateListStart (port : Nat) (s : State) : Host.Outcome State Fault Refusal := done (doGateListStart port s)

/-- The entries of a host buffer of gate entries (R206): interval and gates swapped into gates and interval; none where a reserved field is not zero. -/
def gateEntries (bs : List Byte) (n : Nat) : Option (List (Nat × Nat)) :=
  let es := (List.range n).map (fun i => le bs (8 * i) 8)
  if es.all (fun e => bits e 48 16 = 0 && decide (8 ≤ bits e 16 32)) then some (es.map (fun e => (bits e 0 16, bits e 16 32))) else none

/-- Stores a checked gate list behind the active one and completes (R208, R209, R210). -/
def State.gateCommit (s : State) (d : Hdr) (port b c : Nat) (es : List (Nat × Nat)) : State :=
  let h := portHalf port
  let s := s.gateDue port
  if s.rd .GTE_MEM_free [h.n] < es.length then s.fail d 0x10
  else
    let (st, n, adj) := startOf b (if es.isEmpty then 1 else c) (s.now h)
    let g : GList := ⟨st, if es.isEmpty then 1 else c, es⟩
    let freed := match s.glP port with | some p => p.ents.length | none => 0
    let s := { s with timed := { s.timed with gl := s.timed.gl.set [port, 1] g } }
    let s := (s.lower .GTE_MEM_free [h.n] es.length).bump .GTE_MEM_free [h.n] freed
    let k := localIdx port
    let s := ((s.glShow port 1 g).glState port).sts [(.GTE_ADJ_N_v, [h.n, k], n), (.GTE_PORT_STAT_adjusted, [h.n, k], b2n adj)]
    s.completeX d stOk 0 0 (some (startExt st n adj))

/-- GATE_LOAD (R208, R209). -/
def doGateLoad (d : Hdr) (port entries bsec bns cycle : Nat) (s : State) : State :=
  s.serve d ⟨0x40, .config, true, false, 0⟩ true (cleanHdr d false false true && decide (bns < 1000000000)) fun s =>
    let b := bsec * 1000000000 + bns
    if 1024 < entries ∨ (entries ≠ 0 ∧ cycle < 64) then s.fail d stParam
    else if 1024 ≤ port ∨ ¬ s.configured port then s.reject d 0x31
    else if entries = 0 then s.gateCommit d port b cycle []
    else s.withBuf d fun bs =>
      match gateEntries bs entries with
      | none => s.fail d stParam
      | some es => s.gateCommit d port b cycle es

def execGateLoad (d : Hdr) (port entries bsec bns cycle : Nat) (s : State) : Host.Outcome State Fault Refusal :=
  doneDesc (.gateLoad (bareHdr d) port entries bsec bns cycle) d (doGateLoad d port entries bsec bns cycle) s

/-- The purge of a half: the copies that an epoch change left over are freed and counted, one in 2^left_samp of a profile trapped; a trapped one counts under the cause as well (R223, R281). -/
def State.purgeHalf (s : State) (h : Half) : Nat × State :=
  let fs := s.frames.filter (fun f => f.loc = .queued && f.egress = h && s.stale f)
  (fs.length, fs.foldl (fun s f =>
    let p := s.gprof h f.queue
    let s := s.bump .GTE_CNT_v [h.n, f.queue, 5] 1
    if s.on .GTE_PROF_left_trap p then
      let c := s.timed.leftCnt.getD p 0
      let s := { s with timed := { s.timed with leftCnt := s.timed.leftCnt.put p ((c + 1) % 2 ^ s.rd .GTE_PROF_left_samp p) 0 } }
      if c = 0 then ((s.bump .GTE_CNT_v [h.n, f.queue, 6] 1).dropCount h 0x0E f false).schedTrap f else s.freeDrop f 0x0E
    else s.freeDrop f 0x0E) s)

/-- EPOCH_PURGE: the purge after an epoch change in a half (R223). -/
def doEpochPurge (h : Half) (s : State) : State := (s.purgeHalf h).2

def execEpochPurge (h : Half) (s : State) : Host.Outcome State Fault Refusal := done (doEpochPurge h s)

/-- The epoch number of a grid at the network time that a half has reached (R219). -/
def State.epochAt (s : State) (h : Half) (g : Grid) : Int := (((s.now h / tsNs : Nat) : Int) - (g.start : Int)) / (g.len : Int)

/-- Sets the epoch number of a half's timer; the registers show that of the owner half (R41, R219, log entry 75). -/
def State.epochSet (s : State) (h : Half) (n : Int) (slots : Nat) : State :=
  let s : State := match h with
    | .E => { s with timed := { s.timed with epE := n } }
    | .W => { s with timed := { s.timed with epW := n } }
  if h = s.owner then s.sts [(.EPC_EPOCH_v, [0], unsigned 64 n), (.EPC_STAT_slot, [0], (n % (slots : Int)).toNat)] else s

/-- The copies that stand in a half's epoch queues at an epoch change are left over, whatever its queues become afterwards (R223). -/
def State.leaveOver (s : State) (h : Half) : State :=
  { s with frames := s.frames.map (fun (f : Frame) => if f.loc = Loc.queued ∧ f.egress = h ∧ s.epQueue h f.queue then { f with purge := true } else f) }

/-- An epoch change in a half (R223); while the crossing from the time base is not acknowledged the half does not see it (R411). -/
def State.epochChange (s : State) (h : Half) (n : Int) (slots : Nat) : State :=
  if s.xingBusy h 2 0 then s
  else
  let s : State := match h with
    | .E => { s with timed := { s.timed with chgE := s.timed.chgE + 1 } }
    | .W => { s with timed := { s.timed with chgW := s.timed.chgW + 1 } }
  let s := ((s.epochSet h n slots).leaveOver h).bump .GTE_HALF_CNT_v [h.n, 1] 1
  if h = s.owner then s.bump .EPC_CNT_v [0, 0] 1 else s

/-- The fields of a grid in `EPC_GRID` (R231). -/
def State.gridShow (s : State) (l : Nat) (g : Grid) : State :=
  s.sts [(.EPC_GRID_start, [0, l], g.start / 1000000000 + g.start % 1000000000 * 2 ^ 64), (.EPC_GRID_ep_len, [0, l], g.len),
    (.EPC_GRID_slots, [0, l], g.slots), (.EPC_GRID_open_guard, [0, l], g.og), (.EPC_GRID_close_guard, [0, l], g.cg)]

/-- The mode follows the grid: Scheduled begins or ends, or the base mode of Maintenance changes (R224, R388). -/
def State.gridMode (s : State) (sched : Bool) : State :=
  let m := if sched then 4 else 3
  if s.mode = 5 then s.setMode 5 m (s.rd .SYS_MODE_maint_op [0])
  else if s.mode = 3 ∨ s.mode = 4 then s.setMode m m (s.rd .SYS_MODE_maint_op [0]) else s

/-- The pending grid becomes active: a start from ARMED, or a swap (R224). It does so in both halves when the owner half's network time reaches S; each half's timer then stands at its own epoch (log entry 75). -/
def State.gridStart (s : State) : State :=
  match s.timed.gridP with
  | none => s
  | some g =>
    let armed := s.rd .EPC_STAT_state [0] = 1
    let s := { s with timed := { s.timed with gridA := some g, gridP := none } }
    let s := halves.foldl (fun s h => s.epochChange h (s.epochAt h g) g.slots) ((s.gridShow 0 g).st .EPC_STAT_state [0] 2)
    if armed then
      (s.gridMode true).raise 0x0041 2
        [(0, 8, g.start / 1000000000), (8, 4, g.start % 1000000000), (12, 4, g.len), (16, 2, g.slots)]
    else s

/-- EPOCH_GRID_START: network time reaches the S of an ARMED grid (R224). -/
def doEpochGridStart (s : State) : State :=
  match s.timed.gridP with
  | some g => if s.rd .EPC_STAT_state [0] = 1 then (s.runUntil s.owner g.start).gridStart else s
  | none => s

def execEpochGridStart (s : State) : Host.Outcome State Fault Refusal := done (doEpochGridStart s)

/-- EPOCH_GRID_SWAP: network time reaches the S of the pending grid of RUNNING_PEND (R224). -/
def doEpochGridSwap (s : State) : State :=
  match s.timed.gridP with
  | some g => if s.rd .EPC_STAT_state [0] = 3 then (s.runUntil s.owner g.start).gridStart else s
  | none => s

def execEpochGridSwap (s : State) : Host.Outcome State Fault Refusal := done (doEpochGridSwap s)

/-- The end of STOPPING: an epoch change with a purge of every epoch queue, then EPOCH_STOP completes (R224). -/
def State.gridStop (s : State) (slots : Nat) : State :=
  let n := s.epochNo s.owner
  let s := halves.foldl (fun s h => s.epochChange h (s.epochNo h + 1) slots) s
  let (a, s) := s.purgeHalf .E
  let (b, s) := s.purgeHalf .W
  let desc := s.timed.stopDesc
  let s := { s with timed := { s.timed with gridA := none, stopDesc := none } }.st .EPC_STAT_state [0] 0
  let s := (s.gridMode false).raise 0x0042 2 [(0, 8, unsigned 64 n), (8, 4, a + b)]
  match desc with
  | some d => s.ok d 0
  | none => s

/-- The end of the current epoch of a half's timer, in ns of network time (R219). -/
def State.epochEnd (s : State) (h : Half) (g : Grid) : Nat := ((g.start : Int) + (s.epochNo h + 1) * (g.len : Int)).toNat

/-- The ticks after which a half's network time reaches the end of its epoch. -/
def State.epochLeft (s : State) (h : Half) (g : Grid) : Nat := ceilDiv (s.epochEnd h g * tsNs - s.now h) (s.incOf h)

/-- EPOCH_BOUNDARY: the current epoch ends, in both halves at once while their network times agree, else in the half whose timer reaches its end first; a pending grid whose S comes no later cuts it there (R219, R223, R224). -/
def doEpochBoundary (s : State) : State :=
  match s.timed.gridA with
  | none => s
  | some g =>
    let st := s.rd .EPC_STAT_state [0]
    let early : Bool := match s.timed.gridP with | some p => st = 3 && decide (p.start ≤ s.epochEnd s.owner g) | none => false
    if early then doEpochGridSwap s
    else
      let sees (h : Half) : Bool := !s.xingBusy h 2 0 || s.xingBusy h.other 2 0
      let k := if sees .E then (if sees .W then min (s.epochLeft .E g) (s.epochLeft .W g) else s.epochLeft .E g) else s.epochLeft .W g
      let due (h : Half) : Bool := s.epochLeft h g = k
      let r := s.runFor k
      if st = 4 ∧ due s.owner then r.gridStop g.slots
      else halves.foldl (fun t h => if due h then t.epochChange h (s.epochNo h + 1) g.slots else t) r

def execEpochBoundary (s : State) : Host.Outcome State Fault Refusal := done (doEpochBoundary s)

/-- The pending grid is active already when its S has passed (R225). -/
def State.gridDue (s : State) : State :=
  match s.timed.gridP with
  | some g => if g.start * tsNs ≤ s.now s.owner then s.gridStart else s
  | none => s

/-- EPOCH_LOAD (R224, R225). -/
def doEpochLoad (d : Hdr) (sec ns epLen slots og cg : Nat) (s : State) : State :=
  s.serve d ⟨0x41, .config, true, false, 0⟩ true (cleanHdr d false false true && decide (ns < 1000000000)) fun s =>
    if epLen < 1000 ∨ 100000000 < epLen ∨ slots = 0 ∨ 1024 < slots ∨ epLen ≤ og + cg then s.fail d stParam
    else if s.rd .EPC_STAT_state [0] = 4 then s.reject d 0x39
    else s.withBuf d fun bs =>
      let s := s.gridDue
      let (st, n, adj) := startOf (sec * 1000000000 + ns) (epLen * slots) (s.now s.owner)
      let g : Grid := ⟨st, epLen, slots, og, cg, (List.range slots).map (fun i => le bs (128 * i) 128)⟩
      let s := { s with timed := { s.timed with gridP := some g } }.gridShow 1 g
      let old := s.rd .EPC_STAT_state [0]
      let s := s.sts [(.EPC_STAT_state, [0], if old = 0 then 1 else if old = 2 then 3 else old), (.EPC_STAT_adjusted, [0], b2n adj), (.EPC_ADJ_N_v, [0], n)]
      s.completeX d stOk 0 0 (some (startExt st n adj))

def execEpochLoad (d : Hdr) (sec ns epLen slots og cg : Nat) (s : State) : Host.Outcome State Fault Refusal :=
  doneDesc (.epochLoad (bareHdr d) sec ns epLen slots og cg) d (doEpochLoad d sec ns epLen slots og cg) s

/-- EPOCH_STOP (R224). -/
def doEpochStop (d : Hdr) (s : State) : State :=
  s.serve d ⟨0x42, .config, true, false, 0⟩ true (cleanHdr d false false false) fun s =>
    let s := s.gridDue
    let stt := s.rd .EPC_STAT_state [0]
    let noPend : State := { s with timed := { s.timed with gridP := none } }
    if stt = 0 then s.reject d 0x38
    else if stt = 1 then (noPend.st .EPC_STAT_state [0] 0).ok d 0
    else if stt = 4 then s.reject d 0x39
    else { noPend with timed := { noPend.timed with stopDesc := some d } }.st .EPC_STAT_state [0] 4

def execEpochStop (d : Hdr) (s : State) : Host.Outcome State Fault Refusal := doneDesc (.epochStop (bareHdr d)) d (doEpochStop d) s

/-- A step of network time has changed the epoch number: STEP_CLOSES and EPOCH_STEP (R226, R230). -/
def State.epochStepped (s : State) (old n : Int) : State :=
  if n = old then s else (s.bump .EPC_CNT_v [0, 1] 1).raise 0x0043 2 [(0, 8, unsigned 64 old), (8, 8, unsigned 64 n)]

/-- A half's timer follows a jump of its network time; a changed number is an epoch change there (R219, R223). -/
def State.epochFollow (s : State) (h : Half) : State :=
  match s.timed.gridA with
  | none => s
  | some g => if s.epochAt h g = s.epochNo h then s else s.epochChange h (s.epochAt h g) g.slots

/-- The epoch numbers after a step of network time; a grid that the step starts stands at the epoch of the new time (R226). -/
def State.epochStep (s : State) : State :=
  match s.timed.gridA with
  | none => s.gridDue
  | some g =>
    let old := s.epochNo s.owner
    let n := s.epochAt s.owner g
    let pend : Bool := match s.timed.gridP with | some p => decide (p.start * tsNs ≤ s.now s.owner) | none => false
    if pend then let s := s.gridStart; s.epochStepped old (s.epochNo s.owner)
    else if s.rd .EPC_STAT_state [0] = 4 ∧ old < n then (s.epochStepped old n).gridStop g.slots
    else (halves.foldl (fun s h => s.epochFollow h) s).epochStepped old n

/-- A step of network time moves every horizon and every projected start by its size (R205), and starts the lists whose S it passes (R226). -/
def State.timedStep (s : State) (delta : Int) : State :=
  let mv (x : Nat) : Nat := ((x : Int) + delta * 200).toNat
  let s := { s with
    timed := { s.timed with horizon := s.timed.horizon.map (fun (e : List Nat × Nat) => (e.1, mv e.2)) }
    frames := s.frames.map (fun (f : Frame) => if f.timed && (f.loc = Loc.stages || f.loc = Loc.deparse || f.loc = Loc.tile) then { f with tStart := mv f.tStart } else f) }
  let s := s.epochStep
  (s.timed.gl.filterMap (fun (e : List Nat × GList) => match e.1 with | [p, 1] => some p | _ => none)).foldl (fun s p => s.gateDue p) s

end Sys2Proof.Machine
end

