-- ==== Sys2Proof/Machine/Sched.lean ====
section
/-!
DEFINITION. Scheduling, shaping and policing (R152-R175): token buckets and their refill, received PFC, the eligibility of queues, groups and ports, deficit round robin, the selection itself with its charges, the congestion mark (R143) and the latency sample (R282, R283), and POLICER_SET.
-/

namespace Sys2Proof.Machine

/-- The register fields of a shaper, by the first element of its bucket's key: 0 queue, 1 group, 2 slice, 3 port. -/
def shpFld (kind : Nat) : Fld × Fld × Fld :=
  match kind with
  | 0 => (.SHP_Q_SHP_inc, .SHP_Q_SHP_burst, .SHP_Q_SHP_en)
  | 1 => (.SHP_G_SHP_inc, .SHP_G_SHP_burst, .SHP_G_SHP_en)
  | 2 => (.SHP_S_SHP_inc, .SHP_S_SHP_burst, .SHP_S_SHP_en)
  | _ => (.SHP_P_SHP_inc, .SHP_P_SHP_burst, .SHP_P_SHP_en)

/-- A shaper's bucket: from reset disabled with credit 0. -/
def State.bucket (s : State) (k : List Nat) : Bucket := s.sched.shp.getD k (Bucket.mk 0 16384 false 0)

/-- Replaces a bucket; a queue's credit shows in `SHP_Q_CREDIT`. -/
def State.setBucket (s : State) (k : List Nat) (b : Bucket) : State :=
  let s := { s with sched := { s.sched with shp := s.sched.shp.set k b } }
  match k with
  | [0, h, q] => s.st .SHP_Q_CREDIT_credit [h, q] (unsigned 40 b.credit)
  | _ => s

/-- One refill of a bucket with the register's values (R159, R162): a bucket that is disabled keeps its credit. -/
def refillBucket (inc burst : Nat) (en : Bool) (credit : Int) : Bucket :=
  ⟨inc, burst, en, if en then min (credit + (inc : Int)) ((burst * 4096 : Nat) : Int) else credit⟩

/-- The keys of the shapers of a half that are in use, or whose register enables them. -/
def State.shpKeys (s : State) (h : Half) : List (List Nat) :=
  let regs := s.regs.filterMap (fun e => match e.1 with
    | f :: ix =>
      match (List.range 4).find? (fun k => (shpFld k).2.2.ctorIdx = f) with
      | some k => some (k :: ix)
      | none => none
    | [] => none)
  let old := (s.sched.shp.map (fun e => e.1)).filter (fun k => !regs.contains k)
  (regs ++ old).filter (fun k => k.getD 1 2 = h.n)

/-- Refills one shaper. -/
def State.refillShp (s : State) (k : List Nat) : State :=
  let f := shpFld (k.headD 0)
  let ix := k.drop 1
  s.setBucket k (refillBucket (s.rd f.1 ix) (s.rd f.2.1 ix) (s.on f.2.2 ix) (s.bucket k).credit)

/-- The configuration of a policer in its register. -/
def State.polCfg (s : State) (ix : List Nat) : PolCfg :=
  ⟨s.rd .SHP_POL_CFG_cir_inc ix, s.rd .SHP_POL_CFG_pir_inc ix, s.rd .SHP_POL_CFG_cbs ix, s.rd .SHP_POL_CFG_pbs ix,
    s.on .SHP_POL_CFG_aware ix, s.on .SHP_POL_CFG_red_drop ix, s.on .SHP_POL_CFG_en ix⟩

/-- One refill of a policer (R173, R175): both buckets start full when it becomes enabled. -/
def refillPol (p : Pol) (c : PolCfg) : Pol :=
  let cb : Int := ((c.cbs * 4096 : Nat) : Int)
  let pb : Int := ((c.pbs * 4096 : Nat) : Int)
  if ¬ c.en then { p with cur := c }
  else if ¬ p.cur.en then ⟨c, pb, cb⟩
  else ⟨c, min (p.tp + (c.pir : Int)) pb, min (p.tc + (c.cir : Int)) cb⟩

/-- The policers of a half in use, or whose register enables them. -/
def State.polKeys (s : State) (h : Half) : List (List Nat) :=
  let regs := s.regs.filterMap (fun e => match e.1 with
    | f :: ix => if f = Fld.SHP_POL_CFG_en.ctorIdx then some ix else none
    | [] => none)
  let old := (s.sched.pol.map (fun e => e.1)).filter (fun k => !regs.contains k)
  (regs ++ old).filter (fun k => k.getD 0 2 = h.n)

/-- Refills one policer. -/
def State.refillPolAt (s : State) (k : List Nat) : State :=
  { s with sched := { s.sched with pol := s.sched.pol.set k (refillPol (s.sched.pol.getD k Pol.off) (s.polCfg k)) } }

/-- The elapsed time of a half's last refill. -/
def State.refilled (s : State) (h : Half) : Nat := match h with | .E => s.sched.refE | .W => s.sched.refW

/-- REFILL: every bucket of a half is refilled at its next multiple of 32 ns of elapsed time (R160); a tick that finds the crossing from the time base held is lost (R412). -/
def doRefill (h : Half) (s : State) : State :=
  let t := max (nextMultiple 32 (s.refilled h)) (ceilDiv s.elapsed 32 * 32)
  let s := s.runTo t
  let s := match h with
    | .E => { s with sched := { s.sched with refE := t } }
    | .W => { s with sched := { s.sched with refW := t } }
  s.xingSend h 2 0 (fun s => (s.polKeys h).foldl State.refillPolAt ((s.shpKeys h).foldl State.refillShp s))

def execRefill (h : Half) (s : State) : Host.Outcome State Fault Refusal := done (doRefill h s)

/-- POLICER_SET (R175): the values take effect at the policer's next refill. -/
def doPolicerSet (d : Hdr) (n cir pir cbs pbs : Nat) (aware redDrop en : Bool) (owner : Nat) (s : State) : State :=
  let mine := d.fn = 0 || (owner = fnSlice d.fn && (Hdr.hs d).all (fun h => s.rd .SHP_POL_CFG_owner [h.n, n] = fnSlice d.fn))
  s.serve d ⟨0x34, .config, true, true, 2⟩ mine
    (cleanHdr d false false false && decide (n < 16384) && decide (cir < 2 ^ 28) && decide (pir < 2 ^ 28)
      && decide (cbs < 2 ^ 24) && decide (pbs < 2 ^ 24) && decide (owner < 64)) fun s =>
    if en ∧ (pir < cir ∨ cbs = 0 ∨ pbs = 0) then s.fail d stParam
    else ((Hdr.hs d).foldl (fun s h => let ix := [h.n, n]
      s.sts [(.SHP_POL_CFG_cir_inc, ix, cir), (.SHP_POL_CFG_pir_inc, ix, pir), (.SHP_POL_CFG_cbs, ix, cbs), (.SHP_POL_CFG_pbs, ix, pbs),
        (.SHP_POL_CFG_aware, ix, b2n aware), (.SHP_POL_CFG_red_drop, ix, b2n redDrop), (.SHP_POL_CFG_en, ix, b2n en), (.SHP_POL_CFG_owner, ix, owner)]) s).ok d 0

def execPolicerSet (d : Hdr) (n cir pir cbs pbs : Nat) (aware redDrop en : Bool) (owner : Nat) (s : State) : Host.Outcome State Fault Refusal :=
  doneDesc (.policerSet (bareHdr d) n cir pir cbs pbs aware redDrop en owner) d (doPolicerSet d n cir pir cbs pbs aware redDrop en owner) s

/-- Elapsed time in 1/200 ns. -/
def State.el200 (s : State) : Nat := s.elapsed * 200

/-- A pause timer is nonzero. -/
def State.pauseRuns (s : State) (port prio : Nat) : Bool :=
  match s.sched.pause.get? [port, prio] with | some t => decide (s.el200 < t.2) | none => false

/-- A priority of a port is paused: its timer is nonzero and 128 ns have passed since the PFC frame (R170, R171). -/
def State.paused (s : State) (port prio : Nat) : Bool :=
  match s.sched.pause.get? [port, prio] with | some t => decide (t.1 ≤ s.el200) && decide (s.el200 < t.2) | none => false

/-- `TMG_PFC_STAT` of a port, from its timers. -/
def State.pauseShow (s : State) (port : Nat) : State :=
  s.st .TMG_PFC_STAT_paused [(portHalf port).n, localIdx port]
    ((List.range 8).foldl (fun v p => if s.pauseRuns port p then v + 2 ^ p else v) 0)

/-- One priority of a received PFC frame (R170): quanta of 512 bit times at the port's MAC rate. -/
def State.pauseLoad (s : State) (port prio quanta : Nat) : State :=
  let k := [port, prio]
  if quanta = 0 then { s with sched := { s.sched with pause := s.sched.pause.erase k } }
  else
    let t := s.el200 + quanta * 512 * 200 / s.rate port
    let start := match s.sched.pause.get? k with
      | some o => if s.el200 < o.2 then o.1 else s.el200 + 128 * 200
      | none => s.el200 + 128 * 200
    { s with sched := { s.sched with pause := s.sched.pause.set k (start, t) } }

/-- PFC_RX: a front-panel port that is UP receives a PFC frame (R170, R171). -/
def doPfcRx (port vec : Nat) (times : List Nat) (s : State) : State :=
  let h := portHalf port
  let k := localIdx port
  if 1024 ≤ port ∨ s.rd .LAN_PORT_STAT_state [port / 128, port % 128] ≠ 4 then s
  else
    let named := (List.range 8).filter (fun p => bit vec p)
    let s := named.foldl (fun s p => if times.getD p 0 ≠ 0 then s.bump .TMG_PORT_CNT_v [h.n, k, p] 1 else s) s
    if ¬ s.on .TMG_PORT_CFG_pfc_rx_en [h.n, k] then s
    else (named.foldl (fun s p => s.pauseLoad port p (times.getD p 0 % 65536)) s).pauseShow port

def execPfcRx (port vec : Nat) (times : List Nat) (s : State) : Host.Outcome State Fault Refusal := done (doPfcRx port vec times s)

/-- PAUSE_TIMER_EXPIRY: a pause timer reaches zero (R170). -/
def doPauseTimerExpiry (port prio : Nat) (s : State) : State :=
  match s.sched.pause.get? [port, prio] with
  | none => s
  | some t =>
    let s := s.runTo (ceilDiv t.2 200)
    { s with sched := { s.sched with pause := s.sched.pause.erase [port, prio] } }.pauseShow port

def execPauseTimerExpiry (port prio : Nat) (s : State) : Host.Outcome State Fault Refusal := done (doPauseTimerExpiry port prio s)

/-- A shaper lets its node send: disabled, or credit 0 or more (R163). -/
def State.shpOpen (s : State) (k : List Nat) : Bool := let b := s.bucket k; !b.en || decide (0 ≤ b.credit)

/-- Charges a counted length to an enabled shaper (R164). -/
def State.shpCharge (s : State) (k : List Nat) (c : Nat) : State :=
  let b := s.bucket k
  if b.en then s.setBucket k { b with credit := b.credit - ((c * 4096 : Nat) : Int) } else s

/-- The head copy of a queue. -/
def State.head? (s : State) (h : Half) (q : Nat) : Option Frame := ((s.queueIds h q).head?).bind s.fr?

/-- A queue is eligible, with the projected start of its head on a timed port (R163, R202). -/
def State.queueOk (s : State) (port q : Nat) (timed : Bool) : Option (Frame × Nat) :=
  let h := portHalf port
  match s.head? h q with
  | none => none
  | some f =>
    if s.on .TMG_Q_CFG_pfc_en [h.n, q] ∧ s.paused port (s.rd .TMG_Q_CFG_pfc_prio [h.n, q]) then none
    else if ¬ s.shpOpen [0, h.n, q] then none
    else if timed then (s.timedStart port f).map (fun t => (f, t))
    else some (f, 0)

/-- Bytes released to E00 and not yet sent by a port (R163). -/
def State.releasedBytes (s : State) (port : Nat) : Nat :=
  ((s.frames.filter (fun f => f.out = port && ((f.loc = .stages && decide (20 ≤ f.stage)) || f.loc = .deparse || f.loc = .tile || f.loc = .hostPort))).map
    (fun f => f.bytes.length)).sum

/-- Frames released to E00 for an internal port that have not yet reached its unit. -/
def State.onTheWay (s : State) (port : Nat) : Nat :=
  (s.frames.filter (fun f => f.out = port && ((f.loc = .stages && decide (20 ≤ f.stage)) || f.loc = .deparse))).length

/-- Bytes in a unit's input FIFO (R235). -/
def State.toaFifo (s : State) (u : Nat) : Nat := ((s.frames.filter (fun f => f.loc = .toa && f.unit = u)).map (fun f => f.bytes.length)).sum

/-- A unit's input FIFO applies back-pressure: it has no room for one more frame of the greatest length behind those on their way to it (R235, log entry 41). -/
def State.unitFull (s : State) (u : Nat) : Bool := decide (65536 < s.toaFifo u + 16383 * (s.onTheWay (1072 + u / 2) + 1))

/-- An internal port applies back-pressure: a frame of the recirculation or reduction port waits at the pipe (R27); a unit of the pair does (R235); the ring of the host port in PF0 lacks free slots or is disabled (R347). -/
def State.backPressure (s : State) (port : Nat) : Bool :=
  if port < 1024 then false
  else if port < 1056 then !s.portClear port
  else if port < 1072 then s.pf0Full (port - 1056)
  else !s.portClear port || [0, 1].any (fun i => s.unitFull (2 * (port - 1072) + i))

/-- The port accepts a selection (R163). -/
def State.accepts (s : State) (port : Nat) : Bool :=
  let h := portHalf port
  let k := localIdx port
  s.shpOpen [3, h.n, k] && s.rd .BUF_PORT_STAT_state [h.n, k] ≠ 1
    && decide (s.releasedBytes port < max 1 (s.rd .TMG_PORT_CFG_rel_limit [h.n, k]) * 256) && !s.backPressure port

/-- A member of a level: its index, its key in the deficits, its weight as written, whether it holds a copy, and whether it is eligible. -/
structure Member1 where
  ix : Nat
  key : List Nat
  weight : Nat
  holds : Bool
  elig : Bool
deriving DecidableEq, Repr

/-- The members in visiting order: after the one served last (R165). -/
def visit (last : Option Nat) (ms : List Member1) : List Member1 :=
  match last with
  | none => ms
  | some l => ms.filter (fun m => decide (l < m.ix)) ++ ms.filter (fun m => decide (m.ix ≤ l))

/-- Quantum additions until an eligible member has a deficit above 0 (R165). -/
def rounds (d : Int) (quantum : Nat) : Nat := if 0 < d then 1 else ((-d) / (quantum : Int)).toNat + 1

/-- The weight in force of a member: that of the last quantum addition of its level (R165). -/
def State.wgtOf (s : State) (m : Member1) : Nat := s.sched.wgt.getD m.key m.weight

/-- The deficit of a member. -/
def State.deficit (s : State) (m : Member1) : Int := s.sched.deficit.getD m.key 0

/-- A quantum addition of a level: the weights as written take effect, and each member that holds a copy gains its quantum `r` times (R165). -/
def State.quantumAdd (s : State) (unit r : Nat) (ms : List Member1) : State :=
  let add (dm : SMap Int) (m : Member1) : SMap Int :=
    if m.holds then dm.put m.key (min (s.deficit m + ((r * (m.weight * unit) : Nat) : Int)) ((m.weight * unit : Nat) : Int)) 0 else dm
  { s with sched := { s.sched with
    wgt := ms.foldl (fun (w : SMap Nat) m => w.set m.key m.weight) s.sched.wgt
    deficit := ms.foldl add s.sched.deficit } }

/-- A member of a level is served. -/
def State.serveMember (s : State) (lvl : List Nat) (m : Member1) : Option Member1 × State :=
  (some m, { s with sched := { s.sched with last := s.sched.last.set lvl m.ix } })

/-- Deficit round robin of one level: the member served, with the deficits after the quantum additions (R165). `lvl` names the level in the last-served table. Where no eligible member has a weight, the first of them is served, and one quantum is added before it as before any other selection that finds no deficit above 0 (DESIGN CHOICE: log entry 83). -/
def State.dwrr (s : State) (lvl : List Nat) (unit : Nat) (ms : List Member1) : Option Member1 × State :=
  let order := visit (s.sched.last.get? lvl) ms
  match order.find? (fun m => m.elig && s.wgtOf m ≠ 0 && decide (0 < s.deficit m)) with
  | some m => s.serveMember lvl m
  | none =>
    match order.find? (fun m => m.elig) with
    | none => (none, s)
    | some m1 =>
      match order.filter (fun m => m.elig && m.weight ≠ 0) with
      | [] => (s.quantumAdd unit 1 order).serveMember lvl m1
      | m0 :: el =>
        let r := el.foldl (fun r m => min r (rounds (s.deficit m) (m.weight * unit))) (rounds (s.deficit m0) (m0.weight * unit))
        let s := s.quantumAdd unit r order
        match (m0 :: el).find? (fun m => decide (0 < s.deficit m)) with
        | some m => s.serveMember lvl m
        | none => (none, s)

/-- Charges a counted length to a member's deficit; weight 0 is not charged (R165). -/
def State.deficitCharge (s : State) (m : Member1) (c : Nat) : State :=
  if s.wgtOf m = 0 then s
  else { s with sched := { s.sched with deficit := s.sched.deficit.put m.key (s.deficit m - (c : Int)) 0 } }

/-- The members of highest priority among those eligible (R164). -/
def topLevel (prio : Member1 → Nat) (ms : List Member1) : Nat × List Member1 :=
  let p := (ms.filter (fun m => m.elig)).foldl (fun p m => max p (prio m)) 0
  (p, ms.filter (fun m => prio m = p))

/-- The queues of a group as members. -/
def State.queueMembers (s : State) (port g : Nat) (timed : Bool) : List Member1 :=
  let h := portHalf port
  (s.groupQueues h (localIdx port) g).map (fun q =>
    ⟨q, [h.n, 0, q], s.rd .TMG_Q_CFG_weight [h.n, q], !(s.queueIds h q).isEmpty, (s.queueOk port q timed).isSome⟩)

/-- The slice shaper of a group, if it names one. -/
def State.groupSlice (s : State) (h : Half) (k g : Nat) : Option (List Nat) :=
  let n := s.rd .TMG_GRP_CFG_slice_shp [h.n, k, g]
  if n < 64 then some [2, h.n, n] else none

/-- The groups of a port as members (R163). -/
def State.groupMembers (s : State) (port : Nat) (timed : Bool) : List Member1 :=
  let h := portHalf port
  let k := localIdx port
  (List.range 4).map (fun g =>
    let qs := s.queueMembers port g timed
    let sl : Bool := match s.groupSlice h k g with | some key => s.shpOpen key | none => true
    ⟨g, [h.n, 1, 4 * k + g], s.rd .TMG_GRP_CFG_weight [h.n, k, g], qs.any (fun m => m.holds), qs.any (fun m => m.elig) && s.shpOpen [1, h.n, k, g] && sl⟩)

/-- The incremental update of an Internet checksum when one 16-bit word changes (RFC 1624). -/
def csumUpdate (c old new : Nat) : Nat :=
  let x := (65535 - c) + (65535 - old) + new
  let x := x % 65536 + x / 65536
  65535 - (x % 65536 + x / 65536)

/-- The places of the header at an offset, of a type, in the containers: those that extraction filled from this very header, then those that the deparse list writes back into it (R50, R67). A container that holds bytes of another header, of the same type in a deeper tunnel for one, is none of them. -/
def typeMoves (p : Prog) (f : Frame) (off typ : Nat) : List (Nat × Nat × Nat) :=
  let filled := f.fills.filterMap (fun e => match e.1 with | [c, i] => if e.2.1 = off then some (c, i, e.2.2) else none | _ => none)
  let back := (List.range 32).filterMap (fun i => let e := p.dep.getD [i] 0; if bits e 0 6 = typ && bit e 25 then some (bits e 6 9) else none)
  filled ++ (back.eraseDups.flatMap (fun x => (mapMoves p 512 x).reverse)).filter (fun m => (f.fills.get? [m.1, m.2.1]).isNone)

/-- The containers that hold bytes of a header in which the bits `mask` are set, changed as the header changes from `old` to `new`; each container once (R143: the egress stages see the marked header). -/
def patchMoves (old new mask : List Byte) : List (Nat × Nat × Nat) → List (Nat × Nat) → Frame → Frame
  | [], _, f => f
  | (cls, idx, off) :: ms, seen, f =>
    let n := 2 ^ cls
    if seen.contains (cls, idx) then patchMoves old new mask ms seen f
    else
      let g := match f.ctr.get? [cls, idx] with
        | some v => f.cset cls idx ((v ^^^ be old off n ^^^ be new off n) ||| be mask off n)
        | none => f
      patchMoves old new mask ms ((cls, idx) :: seen) g

/-- The congestion mark: the ECN field becomes CE and the IPv4 header checksum follows, in the frame's bytes and in the containers that hold them (R143). -/
def State.ceMark (s : State) (f : Frame) : Frame :=
  if ¬ f.ce ∨ f.ip.2 = 0 then f
  else
    let o := f.ip.1
    let ce := if f.ip.2 = 1 then 3 else 0x30
    let w := be f.bytes o 2
    let w' := w ||| ce
    let b := overlay f.bytes o (beBytes 2 w')
    let b := if f.ip.2 = 1 then overlay b (o + 10) (beBytes 2 (csumUpdate (be f.bytes (o + 10) 2) w w')) else b
    let typ := ((f.hdrs.find? (fun e => e.valid && e.lvl = 0 && e.off = o)).map (fun e => e.typ)).getD 63
    { patchMoves (f.bytes.drop o) (b.drop o) (beBytes 2 ce) (typeMoves (s.prog f.tag) f o typ) [] f with bytes := b }

/-- The active bank of a half's histograms (R284). -/
def State.histBank (s : State) (h : Half) : Nat := match h with | .E => s.tel.bankE | .W => s.tel.bankW

/-- The bin of a sample in units (R283). -/
def histBin (x : Nat) : Nat :=
  if x < 4 then x else if 16 < Nat.log2 x then 63 else 4 * (Nat.log2 x - 1) + x / 2 ^ (Nat.log2 x - 2) % 4

/-- HIST_SAMPLE: the latency of a selected copy (R282). -/
def State.histSample (s : State) (h : Half) (f : Frame) : State :=
  if ¬ s.on .TEL_Q_HIST_hist_en [h.n, f.queue] then s
  else
    let i := s.rd .TEL_Q_HIST_hist [h.n, f.queue]
    let b := s.histBank h
    let l := latency f f.tRef
    let s := s.bump .TEL_HIST_BIN_v [h.n, b, i, histBin (l / 2 ^ s.rd .TEL_HIST_CFG_unit_shift [h.n])] 1
    let s := s.st .TEL_HIST_SUM_v [h.n, b, i] (min (2 ^ 64 - 1) (s.rd .TEL_HIST_SUM_v [h.n, b, i] + l))
    s.st .TEL_HIST_MAX_v [h.n, b, i] (max (s.rd .TEL_HIST_MAX_v [h.n, b, i]) l)

/-- A read of several words of the buffer: whether one of them is poisoned (R404). -/
def State.bufWords (s : State) (h : Half) (f : Frame) (ws : List (List Nat)) : Bool × State :=
  ws.foldl (fun a w => let x := a.2.eccReadAt h 3 0 w (pmcDev 1 (portPipe f.out) 0 0); (a.1 || x.1, x.2)) (false, s)

/-- Reads a copy's descriptor, cells and links (R404): whether its descriptor is poisoned, and whether a cell or link is. -/
def State.bufRead (s : State) (h : Half) (f : Frame) : Bool × Bool × State :=
  let d := s.bufWords h f f.fdWords
  let c := d.2.bufWords h f f.cellWords
  (d.1, c.1, c.2)

/-- Releases the head copy of a queue to E00 with every charge (R164). A copy whose descriptor is poisoned is freed, and its cells are lost until the audit (R404, R407). -/
def State.releaseCopy (s : State) (port : Nat) (timed : Bool) (mg mq : Member1) (f : Frame) (ts : Nat) : State :=
  let h := portHalf port
  let k := localIdx port
  let q := mq.ix
  let c := s.copyLen f
  let s := ((s.shpCharge [0, h.n, q] c).shpCharge [1, h.n, k, mg.ix] c).shpCharge [3, h.n, k] c
  let s := match s.groupSlice h k mg.ix with | some key => s.shpCharge key c | none => s
  let s := (s.deficitCharge mq c).deficitCharge mg c
  let (dead, stomp, s) := s.bufRead h f
  let s := s.unqueue h q f.id
  let s := (s.bump .TMG_Q_CNT_v [h.n, q, 0] 1).bump .TMG_Q_CNT_v [h.n, q, 1] c
  let s := if timed then { s with timed := { s.timed with horizon := s.timed.horizon.set [port] (ts + txTime c (s.rate port)) } } else s
  let f := { (s.ceMark f).mset 257 11 port with
    loc := .stages, stage := 20, pipe := portPipe port, timed := timed, tStart := ts, counted := c, stomp := stomp
    tRef := if timed then ts / 200 else s.now h }
  let s := (s.toEnd f).histSample h f
  if dead then ((s.bump .RAS_CNT_v [h.n, 5] 1).freeDrop f 0x15).st .BUF_FREE_phys_free [h.n] (s.rd .BUF_FREE_phys_free [h.n]) else s

/-- The queues of a port. -/
def State.portQueues (s : State) (port : Nat) : List (List Nat) := (List.range 16).map (fun i => s.queueIds (portHalf port) (16 * localIdx port + i))

/-- The launch and oversize tests of a timed port's heads in one clock: a copy that a test exposes is tested as well (R227). -/
def State.testHeads (s : State) (port : Nat) : Nat → State
  | 0 => s
  | n + 1 =>
    let a := s.launchPort port
    let b := a.oversizePort port
    if b.portQueues port = a.portQueues port then b else b.testHeads port n

/-- SCHEDULER_SELECT: the tests of the clock, then at most one selection at the port (R163-R165, R203, R213, R217, R227). -/
def doSchedulerSelect (port : Nat) (s : State) : State :=
  let h := portHalf port
  let k := localIdx port
  let timed := s.timedPort port
  let s := if timed then s.launchPort port else s
  if ¬ s.accepts port then s
  else
    let s := if timed then s.testHeads port (s.frames.length + 1) else s
    let unit := 64 * 2 ^ min 10 (s.rd .TMG_PORT_CFG_q_unit [h.n, k])
    let gs := s.groupMembers port timed
    if ¬ gs.any (fun m => m.elig) then s
    else
      let (gp, gl) := topLevel (fun m => s.rd .TMG_GRP_CFG_prio [h.n, k, m.ix]) gs
      match s.dwrr [h.n, 1, k, gp] unit gl with
      | (none, s) => s
      | (some mg, s) =>
        let qs := s.queueMembers port mg.ix timed
        let (qp, ql) := topLevel (fun m => s.rd .TMG_Q_CFG_prio [h.n, m.ix]) qs
        match s.dwrr [h.n, 0, 4 * k + mg.ix, qp] unit ql with
        | (none, s) => s
        | (some mq, s) =>
          match s.queueOk port mq.ix timed with
          | some (f, ts) => s.releaseCopy port timed mg mq f ts
          | none => s

def execSchedulerSelect (port : Nat) (s : State) : Host.Outcome State Fault Refusal := done (doSchedulerSelect port s)

end Sys2Proof.Machine
end

