-- ==== Sys2Proof/Machine/Telemetry.lean ====
section
/-!
DEFINITION. Telemetry over time (R266-R294): the exporter's flush (R274), histogram windows (R284), counter snapshots (R285-R287, R293) and the sample FIFO of the performance counters (R291).
-/

namespace Sys2Proof.Machine

/-- EXPORT_FLUSH_TIMER: `flush_us` have passed since the first record of the FIFO (R274). The timer's event crosses to the Clove engines (R31, R412). -/
def doExportFlushTimer (h : Half) (s : State) : State :=
  if (s.expFifo h).isEmpty ∨ s.rd .TEL_EXP_CFG_target [h.n] = 1 then s
  else
    let first := match h with | .E => s.tel.firstE | .W => s.tel.firstW
    (s.runTo (first + max 1 (s.rd .TEL_EXP_CFG_flush_us [h.n]) * 1000)).xingSend h 4 0 (fun s => s.exportEmit h)

def execExportFlushTimer (h : Half) (s : State) : Host.Outcome State Fault Refusal := done (doExportFlushTimer h s)

/-- Clears one bank of a half's histograms (R284). -/
def State.histClear (s : State) (h : Half) (b : Nat) : State :=
  { s with regs := s.regs.filter (fun e => match e.1 with
    | f :: x :: y :: _ => !((f = Fld.TEL_HIST_BIN_v.ctorIdx || f = Fld.TEL_HIST_SUM_v.ctorIdx || f = Fld.TEL_HIST_MAX_v.ctorIdx) && x = h.n && y = b)
    | _ => true) }

/-- The swap of a window edge at network time `t`: the banks swap if the closed bank was taken, else the swap is missed (R284). -/
def State.histSwap (s : State) (h : Half) (t : Ts) : State :=
  let acked := match h with | .E => s.tel.ackE | .W => s.tel.ackW
  let b := s.histBank h
  if acked then
    let s := s.histClear h (1 - b)
    let s := match h with
      | .E => { s with tel := { s.tel with bankE := 1 - b, ackE := false } }
      | .W => { s with tel := { s.tel with bankW := 1 - b, ackW := false } }
    (s.st .TEL_HIST_CFG_closed [h.n] b).raise 0x0060 h.n [(0, 1, h.n), (1, 1, b), (8, 8, tSec t), (16, 4, tNs t)]
  else (s.st .TEL_HIST_CFG_merged [h.n] 1).bump .TEL_CNT_v [h.n, 5] 1

/-- The window of a half's histograms in ns. -/
def State.histWin (s : State) (h : Half) : Nat := max 1 (s.rd .TEL_HIST_CFG_win_us [h.n]) * 1000

/-- An engine of a half's TEL routine makes the swaps that are due, in the order of their edges (R284, R302). -/
def State.histDueRun (s : State) (h : Half) : State :=
  (s.tel.histDue.filter (fun d => d.1 = h)).foldl (fun s d => s.viaRoutine h 9 [BitVec.ofNat 64 (tTotalNs d.2), 2]
    (fun s => ({ s with tel := { s.tel with histDue := s.tel.histDue.erase d } } : State).histSwap h d.2)) s

/-- A window edge in a half at network time `t` is an event of its TEL routine (R284, R302). -/
def State.histEdge (s : State) (h : Half) (t : Ts) : State :=
  ({ s with tel := { s.tel with histDue := s.tel.histDue ++ [(h, t)] } } : State).histDueRun h

/-- HIST_WINDOW_EDGE: network time reaches the next multiple of the window (R284); the edge crosses from the time base (R31, R412). -/
def doHistWindowEdge (h : Half) (s : State) : State :=
  let e := nextMultiple (s.histWin h) (tTotalNs (s.now h))
  (s.runUntil h e).xingSend h 2 0 (fun s => s.histEdge h (e * tsNs))

def execHistWindowEdge (h : Half) (s : State) : Host.Outcome State Fault Refusal := done (doHistWindowEdge h s)

/-- A step of network time that passes window edges causes one swap, at its apply edge (R284). -/
def State.histStep (s : State) (h : Half) (before : Ts) : State :=
  let w := s.histWin h
  let a := tTotalNs before / w
  let b := tTotalNs (s.now h) / w
  if a = b then s else s.histEdge h (s.now h)

/-- HIST_ACK: software writes 1 to `hist_ack` (R284). -/
def doHistAck (h : Half) (s : State) : State :=
  match h with
  | .E => { s with tel := { s.tel with ackE := true } }
  | .W => { s with tel := { s.tel with ackW := true } }

def execHistAck (h : Half) (s : State) : Host.Outcome State Fault Refusal := doneReg (h = .W) (doHistAck h) s

/-- The counters of an array in the order of its registers, 8 bytes each. -/
def State.cnts (s : State) (f : Fld) (inst n m : Nat) : List Byte :=
  (List.range n).flatMap (fun i => (List.range m).flatMap (fun e => leBytes 8 (s.rd f [inst, i, e])))

/-- Gate open now: bit q of the port's active list (R207). -/
def State.gateOpen (s : State) (port q : Nat) : Bool :=
  match s.glA port with
  | some a => let t := tTotalNs (s.now (portHalf port)); gateNext a none q true t = some t
  | none => true

/-- The DEPTH word of a queue (R287). -/
def State.depthWord (s : State) (h : Half) (q : Nat) : Nat :=
  let port := portOf h (q / 16)
  (s.rd .BUF_Q_STAT_q_rsv [h.n, q] + s.rd .BUF_Q_STAT_q_shr [h.n, q]) % 2 ^ 20
  + 2 ^ 20 * b2n (s.on .TMG_Q_CFG_pfc_en [h.n, q] && s.paused port (s.rd .TMG_Q_CFG_pfc_prio [h.n, q]))
  + 2 ^ 21 * b2n (s.gateOpen port (q % 16))
  + 2 ^ 22 * b2n (decide (0 ≤ (s.bucket [0, h.n, q]).credit))

/-- The entries of a counter group: their number and their bytes (R287). -/
def State.groupImage (s : State) (h : Half) : Nat → Nat × List Byte
  | 0 => (544 * 8, s.cnts .TEL_PORT_CNT_v h.n 544 8)
  | 1 => (8704 * 8 + 8704 * 2 + 8192 * 8, s.cnts .BUF_Q_CNT_v h.n 8704 8 ++ s.cnts .TMG_Q_CNT_v h.n 8704 2 ++ s.cnts .GTE_CNT_v h.n 8192 8)
  | 2 => (64 * 4 + 64 * 4, s.cnts .TEL_SLICE_CNT_v h.n 64 4 ++ s.cnts .SLC_CNT_v h.n 64 4)
  | 3 => (32, (List.range 32).flatMap (fun c => leBytes 8 (s.rd .TEL_DROP_CNT_v [h.n, c])))
  | 4 => (8704 + 8, (List.range 8704).flatMap (fun q => leBytes 4 (s.depthWord h q))
      ++ (List.range 8).flatMap (fun i => leBytes 4 (s.rd .BUF_PART_use [h.n, i])))
  | 5 => (4 * 128 * 32, (List.range 4).flatMap (fun t => s.cnts .LAN_PORT_CNT_v (4 * h.n + t) 128 32))
  | 6 => (16, (List.range 16).flatMap (fun i => leBytes 8 (s.rd .PMC_CNT_v [h.n, i])))
  | _ => (0, [])

/-- A snapshot image (R287): a group that is not valid has a section without entries. -/
def State.snapImage (s : State) (h : Half) (seq : Nat) (t : Ts) (mask valid : Nat) : List Byte :=
  let head := record 64 [(0, 8, seq), (8, 8, tSec (tRound t)), (16, 4, tNs (tRound t)), (20, 2, tFrac t), (22, 1, h.n), (23, 1, mask), (24, 1, valid)]
  head ++ ((List.range 7).filter (fun g => bit mask g)).flatMap (fun g =>
    let e := if bit valid g then s.groupImage h g else (0, [])
    leBytes 4 g ++ leBytes 4 e.1 ++ leBytes 8 e.2.length ++ e.2)

/-- A trigger of a snapshot in one half: the groups still waiting for an earlier capture are not replaced, and the trigger is lost there, on its way from the time base to the core (R285, R286, R412, log entry 53). -/
def State.snapTrigger (s : State) (h : Half) (mask : Nat) (desc : Option Hdr) : State :=
  let ix := [h.n]
  let busy := (s.tel.snaps.filter (fun x => x.half = h && !x.taken)).foldl (fun m x => m ||| x.mask) 0
  let kept := busy &&& mask
  let n := ((List.range 7).filter (fun g => bit kept g)).length
  let s := if kept = 0 then s else ((s.st .TEL_SNAP_STAT_snap_ovr ix 1).bump .TEL_CNT_v [h.n, 4] n).xingLost h 2
  let seq := s.rd .TEL_SNAP_STAT_seq ix
  let s := s.sts [(.TEL_SNAP_STAT_busy, ix, 1), (.TEL_SNAP_STAT_seq, ix, seq + 1)]
  let s := s.postWork h 9 [BitVec.ofNat 64 seq]
  { s with tel := { s.tel with snaps := s.tel.snaps ++ [Snap.mk h mask seq (nextMultiple 1024 s.elapsed) false (mask - kept) 0 [] desc] } }

/-- CNT_SNAP (R286, R293). -/
def doCntSnap (d : Hdr) (mask : Nat) (s : State) : State :=
  s.serve d ⟨0x60, .reads, false, false, 2⟩ true (cleanHdr d false false true && decide (mask < 128)) fun s =>
    if (Hdr.hs d).any (fun h => s.on .TEL_SNAP_STAT_busy [h.n]) then s.reject d 0x50
    else (Hdr.hs d).foldl (fun s h => s.snapTrigger h mask (some d)) s

def execCntSnap (d : Hdr) (mask : Nat) (s : State) : Host.Outcome State Fault Refusal := doneDesc (.cntSnap (bareHdr d) mask) d (doCntSnap d mask) s

/-- SNAP_PERIODIC_TRIGGER: `period_ms` of elapsed time have passed (R285). -/
def doSnapPeriodicTrigger (h : Half) (s : State) : State :=
  let p := s.rd .TEL_SNAP_CFG_period_ms [h.n] * 1000000
  if p = 0 then s
  else
    let last := match h with | .E => s.tel.snapDueE | .W => s.tel.snapDueW
    let t := max (nextMultiple p last) (ceilDiv s.elapsed p * p)
    let s := s.runTo t
    let s := match h with
      | .E => { s with tel := { s.tel with snapDueE := t } }
      | .W => { s with tel := { s.tel with snapDueW := t } }
    s.snapTrigger h (s.rd .TEL_SNAP_CFG_groups [h.n]) none

def execSnapPeriodicTrigger (h : Half) (s : State) : Host.Outcome State Fault Refusal := done (doSnapPeriodicTrigger h s)

/-- SNAP_CAPTURE: the snapshots that wait for this apply edge are taken (R285). -/
def State.snapCapture (s : State) : State :=
  { s with tel := { s.tel with snaps := s.tel.snaps.map (fun (x : Snap) =>
    if x.taken || decide (s.elapsed < x.due) then x
    else { x with taken := true, t := s.now x.half, image := s.snapImage x.half x.seq (s.now x.half) x.mask x.valid }) } }

/-- Two snapshots that one descriptor asked for. -/
def sameDesc (d : Hdr) (x : Snap) : Bool :=
  match x.desc with | some e => e.fn = d.fn && e.ring = d.ring && e.cnt = d.cnt | none => false

/-- CNT_SNAP_READY: the first image of a half that is taken is written to host memory by an engine of the TEL routine (R287, R292, R293, R302). -/
def doCntSnapReady (h : Half) (s : State) : State :=
  match s.tel.snaps.find? (fun x => x.half = h && x.taken) with
  | none => s
  | some x =>
    s.viaRoutine h 9 [BitVec.ofNat 64 x.seq] fun s =>
    let s := { s with tel := { s.tel with snaps := s.tel.snaps.erase x } }
    let s := s.st .TEL_SNAP_STAT_busy [h.n] (b2n (s.tel.snaps.any (fun y => y.half = h)))
    match x.desc with
    | none =>
      let a := s.rd .TEL_SNAP_ADDR_v [h.n] + (if x.seq % 2 = 1 then s.rd .TEL_SNAP_CFG_size [h.n] else 0)
      (s.hostWrite a (x.image.take (s.rd .TEL_SNAP_CFG_size [h.n]))).raise 0x0061 h.n [(0, 1, h.n), (1, 1, x.valid), (8, 8, x.seq)]
    | some d =>
      let last := !(s.tel.snaps.any (sameDesc d))
      match d.buf with
      | none => if last then (s.fail d stDma).bump .HST_CNT_v [0, 3] 1 else s
      | some _ =>
        let both := d.halfE && d.halfW
        let room := if both then d.hlen / 2 else d.hlen
        let s := s.hostWrite (d.haddr + if both ∧ h = .W then d.hlen / 2 else 0) (x.image.take room)
        if last then
          let t := tRound x.t
          s.completeX d stOk 0 0 (some (record 32 [(0, 8, tSec t), (8, 4, tNs t), (12, 2, tFrac x.t), (16, 8, x.seq)]))
        else s

def execCntSnapReady (h : Half) (s : State) : Host.Outcome State Fault Refusal := done (doCntSnapReady h s)

/-- The sample first in a half's FIFO (R291). -/
def State.pmcHead (s : State) (h : Half) : Option (Half × Nat × Nat) := s.tel.fifoS.find? (fun x => x.1 = h)

/-- PMC_SAMP_POP: a read of `PMC_SAMP_W1` returns the rest of the head sample and pops it (R291). -/
def doPmcSampPop (h : Half) (s : State) : State :=
  match s.pmcHead h with
  | some x => { s with tel := { s.tel with fifoS := s.tel.fifoS.erase x }, host := { s.host with resp := x.2.2 } }
  | none => { s with host := { s.host with resp := 0 } }

def execPmcSampPop (h : Half) (s : State) : Host.Outcome State Fault Refusal := doneReg (h = .W) (doPmcSampPop h) s

end Sys2Proof.Machine
end

