-- ==== Sys2Proof/Machine/Trust.lean ====
section
/-!
DEFINITION. Signed objects (R361-R363, R372-R374): the header that images and patch objects share and the checks by which the Trust Block accepts one.
-/

namespace Sys2Proof.Machine

/-- Bytes of an object's header (R360, R361). -/
def objHdr : Nat := 8192

/-- The largest image body (R360). -/
def bodyMax : Nat := 33546240

def imgMagic : Nat := 0x4D49584F
def patchMagic : Nat := 0x5450584F
def seqBad : Nat := 0xFFFFFFFFFFFFFFFF

/-- `seq` of an object. -/
def objSeq (b : List Byte) : Nat := le b 8 8

/-- `body_len` of an object. -/
def objLen (b : List Byte) : Nat := le b 16 4

/-- The body of an object. -/
def objBody (b : List Byte) : List Byte := slice b objHdr (objLen b)

/-- The header holds a format of R361 under a magic, and its body fits: the first check of R362. -/
def objForm (b : List Byte) (magic max : Nat) : Bool :=
  le b 0 4 = magic && le b 4 2 = 1 && le b 6 2 = objHdr && objSeq b ≠ seqBad && decide (objLen b ≤ max) && le b 24 4 = 0x00090204
    && (le b 28 2 = 0x00B1 || le b 28 2 = 0) && byteAt b 31 = 0 && leNat (slice b 36 28) = 0 && leNat (slice b 5469 2723) = 0
    && (magic = imgMagic || le b 20 4 = 0)

/-- The signer's keys belong to an accepted key set: the second check of R362, and R372 for a patch object. A `signer` beyond 0 and 1 names no key set. -/
def State.objKeys (s : State) (b : List Byte) : Bool :=
  let k := digestNat (sha384 (slice b 112 1984))
  match byteAt b 30 with
  | 0 => k = s.rd .TRB_VENDOR_DIGEST_v [0] && (le b 0 4 = patchMagic || !s.on .TRB_STAT_vendor_img_off [0])
  | 1 => le b 0 4 = imgMagic && s.on .TRB_STAT_owner_enrolled [0] && k = s.rd .TRB_OWNER_DIGEST_v [0]
  | _ => false

/-- Both signatures verify over bytes 0-2,095 (R362). -/
def objSigs (b : List Byte) : Bool :=
  let m := slice b 0 2096
  Config.ed25519Verify (slice b 112 32) m (slice b 2096 64) && Config.mldsaVerify (slice b 144 1952) m (slice b 2160 3309)

/-- The body has the digest and the CRC that the header gives (R362). -/
def objDigest (b : List Byte) : Bool :=
  let body := objBody b
  sha384 body = slice b 64 48 && crc32c 0 body = le b 32 4

/-- The next record of a body from an offset: type, flags, payload length, arg, reserved word (R363). -/
def recAt (body : List Byte) (o : Nat) : Nat × Nat × Nat × Nat × Nat :=
  (le body o 2, le body (o + 2) 2, le body (o + 4) 4, le body (o + 8) 4, le body (o + 12) 4)

/-- The records of a body as (type, flags, payload, arg), none where they do not exactly fill it or a reserved part is not zero (R363). `n` records are still to read. -/
def recsFrom : Nat → List Byte → Nat → Option (List (Nat × Nat × List Byte × Nat))
  | 0, body, o => if o = body.length then some [] else none
  | n + 1, body, o =>
    let (t, fl, len, arg, rsvd) := recAt body o
    let pad := ceilDiv len 8 * 8
    if body.length < o + 16 + pad ∨ rsvd ≠ 0 ∨ 2 ≤ fl ∨ leNat (slice body (o + 16 + len) (pad - len)) ≠ 0 then none
    else match recsFrom n body (o + 16 + pad) with
      | some l => some ((t, fl, slice body (o + 16) len, arg) :: l)
      | none => none

/-- The records of an image (R363). A count beyond what the body can hold is refused before any record is read. -/
def objRecs (b : List Byte) : Option (List (Nat × Nat × List Byte × Nat)) :=
  if objLen b < 16 * le b 20 4 then none else recsFrom (le b 20 4) (objBody b) 0

/-- The Trust Block is in ERROR (R383). -/
def State.trbError (s : State) : Bool := s.on .TRB_STAT_error [0]

/-- A self-test runs, and every service of the module waits for it (R382). -/
def State.trbTesting (s : State) : Bool := s.on .TRB_STAT_testing [0]

/-- The opcodes that use the Trust Block's module, whose services run one at a time in the order in which they start (R381, R382). -/
def trbOps : List Nat := [0x70, 0x80, 0x84, 0x85, 0x86, 0x87]

/-- A service of the module waits: a self-test runs, or a service that reached it earlier waits (R382). -/
def State.trbWaits (s : State) (d : Hdr) : Bool := s.trbTesting || !s.turnOf d trbOps

/-- A test has failed: the module is in ERROR (R383, R386). -/
def State.trbFail (s : State) (fail alg : Nat) : State :=
  (s.sts [(.TRB_STAT_approved, [0], 0), (.TRB_STAT_error, [0], 1), (.TRB_STAT_err_cause, [0], fail)]).raise 0x0100 2 [(0, 1, fail), (1, 1, if fail = 2 then alg else 0)]

/-- Bit 63 of a result: the service ran as an approved one (R381). -/
def approvedBit : Nat := 2 ^ 63

/-- All checks of R362 on an object in a buffer: the status, and the count of refused objects (`TRB_CNT`). The first failing check decides. -/
def State.objCheck (s : State) (b : List Byte) (magic max : Nat) : Nat × State :=
  let rejected (st : Nat) : Nat × State := (st, s.bump .TRB_CNT_v [0, 0] 1)
  if s.trbError then (0x24, s)
  else if b.length < objHdr ∨ ¬ objForm b magic (min max (b.length - objHdr)) then (0x20, s)
  else if ¬ s.objKeys b then rejected 0x21
  else if ¬ objSigs b then rejected 7
  else if ¬ objDigest b then (0x20, s)
  else (stOk, s)

end Sys2Proof.Machine
end

