-- ==== Sys2Proof/Machine/Clove.lean ====
section
/-!
DEFINITION. The Clove engines (R295-R308): dispatch, microwords, faults and interrupts; the patches of their microcode (R309-R311, R373); and the Hamper descriptors (R321).
-/

namespace Sys2Proof.Machine

/-- The state of an engine beyond its register. -/
def State.eng (s : State) (h : Half) (e : Nat) : Eng := s.clove.eng.getD [h.n, e] Eng.reset

/-- Replaces the state of an engine. -/
def State.setEng (s : State) (h : Half) (e : Nat) (x : Eng) : State :=
  { s with clove := { s.clove with eng := s.clove.eng.put [h.n, e] x Eng.reset } }

/-- A general register; g0 reads as 0 (R295). -/
def Eng.reg (x : Eng) (i : Nat) : Nat := if i = 0 then 0 else x.g.getD [i] 0

/-- Writes a general register; g0 ignores writes (R295). -/
def Eng.setReg (x : Eng) (i v : Nat) : Eng := if i = 0 then x else { x with g := x.g.put [i] (v % 2 ^ 64) 0 }

/-- The active match set as a half holds it (R309). -/
def State.patchSet (s : State) (h : Half) : Nat := s.rd .CLV_PATCH_CTL_active [h.n]

/-- A patch activation runs in some half (R310). -/
def State.arming (s : State) : Bool := s.on .CLV_PATCH_CTL_state [0] || s.on .CLV_PATCH_CTL_state [1]

/-- The engine is at DISPATCH: idle, with the active match set as its tag (R302, R309). -/
def State.atDispatch (s : State) (h : Half) (e : Nat) : State :=
  (s.setEng h e { s.eng h e with ev := none, fromIdle := false }).sts
    [(.CLV_ENG_STAT_state, [h.n, e], 0), (.CLV_ENG_STAT_routine, [h.n, e], 15), (.CLV_ENG_STAT_tag, [h.n, e], s.patchSet h)]

/-- The function whose descriptor caused an engine's work (R289). -/
def Eng.cause (x : Eng) : Option Nat :=
  match x.ev with
  | some v => v.desc.map (fun d => d.fn)
  | none => none

/-- A sample record enters a half's FIFO of 256, or is lost (R291). -/
def State.sampPut (s : State) (h : Half) (w0 w1 : Nat) : State :=
  if 256 ≤ (s.tel.fifoS.filter (fun x => x.1 = h)).length then (s.st .PMC_SAMP_CFG_samp_ovf [h.n] 1).bump .PMC_SAMP_LOST_v [h.n] 1
  else { s with tel := { s.tel with fifoS := s.tel.fifoS ++ [(h, w0, w1)] } }

/-- Counts events of an engine, and takes a precise sample of the microword that completed for every period of counted events that they end (R288-R291). -/
def State.engPmc (s : State) (h : Half) (k : Nat) (e : PmcEv) (n cur stall : Nat) (patched : Bool) : State :=
  let i := s.rd .PMC_SAMP_CFG_ctr [h.n]
  let due := s.on .PMC_SAMP_CFG_en [h.n] && decide (5 ≤ k ∧ k ≤ 7) && s.pmcPass h i k e
  let s := s.pmc h k e n
  if ¬ due then s
  else
    let c := s.tel.sampCnt.getD [h.n] 0 + n
    let period := max 1 (s.rd .PMC_SAMP_CFG_period [h.n])
    let s := { s with tel := { s.tel with sampCnt := s.tel.sampCnt.set [h.n] (c % period) } }
    let t := s.now h
    let w0 := 1 + e.idx * 2 + cur * 64 + b2n patched * 2 ^ 22 + stall * 2 ^ 23 + tNs t * 2 ^ 32
    let w1 := s.elapsed * 3 / 4 % 2 ^ 32 + tSec t % 2 ^ 32 * 2 ^ 32
    (List.range (c / period)).foldl (fun s _ => s.sampPut h w0 w1) s

/-- The lowest pending line that is enabled (R307). -/
def State.irqReady (s : State) (h : Half) (e : Nat) : Option Nat :=
  (List.range 5).find? (fun l => bit (s.rd .CLV_ENG_STAT_irq_pend [h.n, e]) l && bit (s.rd .CLV_ENG_CTL_irq_en [h.n, e]) l)

/-- An interrupt is taken: the handler begins at 4 × line (R307); a sample of it names the microword at whose boundary it is taken, with that microword's bank stalls (R290). -/
def State.irqTake (s : State) (h : Half) (e line link : Nat) (fromIdle : Bool) (cur stall : Nat) (patched : Bool) : State :=
  let s := s.setEng h e { s.eng h e with ilink := link, fromIdle := fromIdle }
  let s := s.sts [(.CLV_ENG_STAT_state, [h.n, e], 2), (.CLV_ENG_STAT_pc, [h.n, e], 4 * line),
    (.CLV_ENG_STAT_irq_pend, [h.n, e], s.rd .CLV_ENG_STAT_irq_pend [h.n, e] - 2 ^ line)]
  s.engPmc h 7 ⟨2, e, 0, 0, (s.eng h e).cause⟩ 1 cur stall patched

/-- The lowest-numbered nonempty routine queue that an engine serves (R302). -/
def State.eligible (s : State) (h : Half) (e : Nat) : Option Nat :=
  (List.range 10).find? (fun r => bit (s.rd .CLV_ROUTE_mask [h.n, r]) e && !(s.rq h r).isEmpty)

/-- CLOVE_DISPATCH: an idle engine takes a pending interrupt, else the head event of its lowest eligible queue and the current match set (R302, R307, R309). -/
def doCloveDispatch (h : Half) (e : Nat) (s : State) : State :=
  if 16 ≤ e ∨ s.rd .CLV_ENG_STAT_state [h.n, e] ≠ 0 then s
  else match s.irqReady h e with
    | some l => s.irqTake h e l (s.rd .CLV_ENG_STAT_pc [h.n, e]) true (s.rd .CLV_ENG_STAT_pc [h.n, e]) 0 false
    | none =>
      match s.eligible h e with
      | none => s
      | some r =>
        match s.rq h r with
        | [] => s
        | v :: q =>
          let x := s.eng h e
          let x := (List.range 64).foldl (fun (x : Eng) i => match Config.dispatchReg r v.body i with | some w => x.setReg i w.toNat | none => x) x
          ((s.setRq h r q).setEng h e { x with ev := some v, fromIdle := false }).sts
            [(.CLV_ENG_STAT_state, [h.n, e], 1), (.CLV_ENG_STAT_routine, [h.n, e], r), (.CLV_ENG_STAT_tag, [h.n, e], s.patchSet h),
             (.CLV_ENG_STAT_pc, [h.n, e], Config.routineEntry r % 65536)]

def execCloveDispatch (h : Half) (e : Nat) (s : State) : Host.Outcome State Fault Refusal := done (doCloveDispatch h e s)

/-- The address a microword is fetched from, and whether a match register of the engine's tagged set supplied it (R309). -/
def State.fetchAt (s : State) (h : Half) (e : Nat) : Nat × Bool :=
  let a := s.rd .CLV_ENG_STAT_pc [h.n, e]
  let t := s.rd .CLV_ENG_STAT_tag [h.n, e]
  match (List.range 64).find? (fun m => s.on .CLV_MATCH_valid [h.n, t, m] && s.rd .CLV_MATCH_match [h.n, t, m] = a) with
  | some m => (0xC000 + s.rd .CLV_MATCH_target [h.n, t, m], true)
  | none => (a, false)

/-- The microword at an address: ROM below 0xC000, else patch RAM (R295). -/
def State.microword (s : State) (h : Half) (a : Nat) : BitVec 192 :=
  if a < 0xC000 then Config.rom a else BitVec.ofNat 192 (s.clove.patch.getD [h.n, a - 0xC000] 0)

/-- A microword that faults with cause ILLEGAL (R297-R301, R304). -/
def uwIllegal (w : Nat) : Bool :=
  bits w 105 23 ≠ 0 || decide (10 ≤ bits w 16 4) || decide (16 ≤ bits w 20 5) || decide (16 ≤ bits w 28 5) || decide (16 ≤ bits w 51 5)
    || bits w 74 3 = 7 || decide (2 ≤ bits w 77 2) || (bits w 74 3 ≠ 0 && bits w 77 2 = 1 && decide (61 ≤ bits w 85 6))
    || decide (7 ≤ bits w 91 5) || decide (3 ≤ bits w 102 3)

/-- A condition, from the state at the start of the microword (R299). -/
def State.engCond (s : State) (h : Half) (e : Nat) (x : Eng) (k : Nat) : Bool :=
  let r := s.rd .CLV_ENG_STAT_routine [h.n, e]
  let p := s.rd .CLV_ENG_STAT_irq_pend [h.n, e]
  match k with
  | 0 => true
  | 1 => x.z
  | 2 => !x.z
  | 3 => x.c
  | 4 => !x.c
  | 5 => x.n
  | 6 => !x.n
  | 7 => x.memOk
  | 8 => x.loop = 0
  | 9 => x.msgOk
  | 10 => decide (r < 10) && !(s.rq h r).isEmpty
  | 11 => x.bridgeAck
  | 12 => decide (x.lastTick < s.elapsed)
  | 13 => s.on .CLV_ENG_STAT_tag [h.n, e]
  | 14 => bits p 0 4 ≠ 0
  | 15 => bits p 4 4 ≠ 0
  | _ => false

/-- What a memory operation does: its fault, the state after it, the word read, and `mem_ok` where it sets it. -/
structure MemRes where
  fault : Nat
  st : State
  res : Option Nat
  ok : Option Bool

/-- The read-modify-write of a `mem_op` on w-bit words: ADD, CAS, MAX, MIN (R297). -/
def memRmw (op w old v expect : Nat) : Nat :=
  match op with
  | 3 => (old + v) % 2 ^ w
  | 4 => if old = expect then v else old
  | 5 => max old v
  | _ => min old v

/-- The lock bits of 64 buckets of a half (R312, R318). -/
def State.lockWord (s : State) (h : Half) (n : Nat) : Nat :=
  (List.range 64).foldl (fun v i => v + if bucketOwner (64 * n + i) = h ∧ (s.lockOf (64 * n + i)).isSome then 2 ^ i else 0) 0

/-- An engine writes a word of lock bits through an alias: a bit that becomes 1 is a lock of the engine, one that becomes 0 a released lock (R115, R318). -/
def State.lockWordPut (s : State) (h : Half) (e n old v : Nat) : State :=
  (List.range 64).foldl (fun (s : State) i =>
    let b := 64 * n + i
    if bucketOwner b ≠ h ∨ 1048576 ≤ b ∨ bit old i = bit v i then s
    else if bit v i then { s with fdb := { s.fdb with locks := s.fdb.locks.set [h.n, b] (Lock.mk false 0 (16 * h.n + e) (s.leaseEnd h)) } }
    else ({ s with fdb := { s.fdb with locks := s.fdb.locks.erase [h.n, b] } }).lockFreed) s

/-- A learn event as numbers, and back. -/
def learnRow (x : Half × LearnEv) : List Nat := [x.1.n, x.2.key.slice, x.2.key.kind, x.2.key.scope, x.2.key.addr, x.2.port, x.2.src.n]
def learnOf (r : List Nat) : Half × LearnEv :=
  (Half.of (r.getD 0 0 % 2), ⟨⟨r.getD 1 0 % 64, r.getD 2 0, r.getD 3 0, r.getD 4 0⟩, r.getD 5 0 % 2048, Half.of (r.getD 6 0 % 2)⟩)

/-- The entries of a structure that the device region of a half's Hamper holds (R312). -/
def State.devRows (s : State) (h : Half) (k n : Nat) : List (List Nat) :=
  match k with
  | 1 => (s.fdb.learnQ.filter (fun x => x.1 = h)).map learnRow
  | 2 => (s.fdb.defer.filter (fun x => x.1 = h)).map learnRow
  | 3 => (s.fdb.locks.filter (fun l => l.2.host && l.1.head? = some h.n)).map (fun l => [l.1.getD 1 0, l.2.token, l.2.fn, l.2.expiry])
  | 5 => if s.ringEngine (n / 64) (n % 64) = h then [[s.devIdx (n / 64) (n % 64), s.swIdx (n / 64) (n % 64)]] else []
  | _ => (s.rq h n).map (fun v => v.body.map (fun w => w.toNat))

/-- Replaces the entries of a structure of the device region. The table of the host locks changes what is known of a lock, and not its bit (R318); a ring keeps one entry; an event of a routine queue keeps the descriptor it carries. -/
def State.devRowsPut (s : State) (h : Half) (k n : Nat) (rows : List (List Nat)) : State :=
  match k with
  | 1 => { s with fdb := { s.fdb with learnQ := s.fdb.learnQ.filter (fun x => x.1 ≠ h) ++ (rows.map learnOf).filter (fun x => x.1 = h) } }
  | 2 => { s with fdb := { s.fdb with defer := s.fdb.defer.filter (fun x => x.1 ≠ h) ++ (rows.map learnOf).filter (fun x => x.1 = h) } }
  | 3 =>
    { s with fdb := { s.fdb with locks := s.fdb.locks.map (fun (l : List Nat × Lock) =>
      if l.1.head? ≠ some h.n then l
      else match rows.find? (fun r => r.head? = l.1[1]?) with
        | some r => (l.1, Lock.mk true (r.getD 1 0) (r.getD 2 0) (r.getD 3 0))
        | none => (l.1, { l.2 with host := false })) } }
  | 5 =>
    match rows with
    | r :: _ =>
      if s.ringEngine (n / 64) (n % 64) ≠ h then s
      else ({ s with host := { s.host with swCnt := s.host.swCnt.set [n / 64, n % 64] (r.getD 1 0 % 2 ^ 32) } }).st .HST_RING_STAT_dev_idx [n / 64, n % 64] (r.getD 0 0)
    | [] => s
  | _ =>
    let old := s.rq h n
    s.setRq h n ((List.range rows.length).map (fun i =>
      { old.getD i ⟨[], false, none⟩ with body := (rows.getD i []).map (fun w => BitVec.ofNat 64 w) }))

/-- The 64-bit word that an engine reads at a Hamper address: the device region shows the structures it holds (R312). -/
def State.hamGet (s : State) (h : Half) (addr : Nat) : Nat :=
  let a := hamWord addr
  match (if a < 0x100000 then Config.devWord a else none) with
  | none => s.hamRead h addr
  | some (0, n) => s.lockWord h n
  | some (k, n) => Config.devView a (s.devRows h k n) % 2 ^ 64

/-- An engine's write of a word, plainly or through an alias; in the device region it changes the structures, and lock bits change through the aliases only (R312, R318). -/
def State.hamPut (s : State) (h : Half) (e addr v : Nat) : State :=
  let a := hamWord addr
  let old := s.hamGet h a
  let new := match bits addr 22 2 with
    | 1 => old ||| v % 2 ^ 64
    | 2 => old - (old &&& v)
    | _ => v % 2 ^ 64
  match (if a < 0x100000 then Config.devWord a else none) with
  | none => s.hamWrite h addr v
  | some (0, n) => if bits addr 22 2 = 0 then s else (s.lockWordPut h e n old new).eccClear h 0 0 (hamBank a) (hamRow a)
  | some (k, n) => (s.devRowsPut h k n (Config.devEdit a new (s.devRows h k n))).eccClear h 0 0 (hamBank a) (hamRow a)

/-- The class of an access: read, write, read-modify-write, alias (R289). -/
def accCls (op al : Nat) : Nat := if op = 1 then 0 else if op = 2 then (if al = 0 then 1 else 3) else 2

/-- A Hamper access of an engine (R297, R304, R312, R313, R318). An alias write reads its word, so that an ECC error is reported, and writes it, which clears the error (R404). Read-modify-writes other than alias writes act on the word that an alias address names. -/
def State.engHamper (s : State) (h : Half) (e op a v expect : Nat) (fn : Option Nat) : MemRes :=
  let al := bits a 22 2
  if 0xC00000 ≤ a ∨ a % 8 ≠ 0 then ⟨2, s, none, none⟩
  else
    let ev : PmcEv := ⟨2, e, a, accCls op al, fn⟩
    let s := s.pmc h 1 ev 1
    let old := s.hamGet h a
    if op = 2 then
      if al = 0 then ⟨0, s.hamPut h e a v, none, none⟩
      else ⟨0, (((s.eccRead h 0 0 (hamBank a) (hamRow a) ev).2).hamPut h e a v).bump .HAM_CNT_v [h.n, 1] 1, some old, some (decide ((old &&& v) = (if al = 1 then v else 0)))⟩
    else
      let (bad, s) := s.eccRead h 0 0 (hamBank a) (hamRow a) ev
      if bad then ⟨3, s, none, none⟩
      else if op = 1 then ⟨0, s, some old, none⟩
      else
        let s' := s.hamPut h e (hamWord a) (memRmw op 64 old v expect)
        if op = 4 then ⟨0, if old = expect then s' else s, some old, some (decide (old = expect))⟩ else ⟨0, s', some old, none⟩

/-- The exact-match entry of a 256-bit word, none where `valid` is 0 (R73). -/
def emOf (v : Nat) : Option Ent :=
  if bit v 222 then some ⟨bits v 0 128, 2 ^ 128 - 1, bits v 128 64, bits v 192 6, bits v 198 6, bits v 204 8, bits v 212 8, bit v 220, bit v 221, bits v 223 8, false, 0⟩
  else none

/-- What the tables hold at a place of the table port, as a 256-bit word: 0 an exact-match entry, 1 a TCAM action word, 2 an FDB entry. -/
def State.portEnt (s : State) (h : Half) (k : Nat) (place : List Nat) : Nat :=
  match k with
  | 0 => match s.tblAt false place with | some x => leNat (emBytes x) | none => 0
  | 1 => match s.tblAt true place with | some x => x.adata % 2 ^ 64 + x.act * 2 ^ 64 | none => 0
  | _ => leNat (entBytes (s.fdbAt h place))

/-- A 256-bit word, as an engine wrote it, still stands for what the tables hold at its place. -/
def State.portFits (s : State) (h : Half) (k : Nat) (place : List Nat) (v : Nat) : Bool :=
  match k with
  | 0 => emOf v = s.tblAt false place
  | 1 => match s.tblAt true place with | some x => bits v 0 64 = x.adata % 2 ^ 64 && bits v 64 6 = x.act | none => true
  | _ => entOf (leBytes 32 v) = s.fdbAt h place

/-- The 256-bit word at a place of the table port: as an engine wrote it while nothing else has written there, so that reserved bits and a word without an entry read back (R320). -/
def State.portGet (s : State) (h : Half) (k : Nat) (place : List Nat) : Nat :=
  match s.clove.port.get? (k :: h.n :: place) with
  | some v => if s.portFits h k place v then v else s.portEnt h k place
  | none => s.portEnt h k place

/-- Writes the 256-bit word at a place of the table port (R70, R73, R75, R97, R320); a stage table's word crosses to the core (R31). -/
def State.portPut (s : State) (h : Half) (k : Nat) (place : List Nat) (v : Nat) : State :=
  if k < 2 ∧ s.xingBusy h 3 0 then s.xingLost h 3
  else
  let s := { s with clove := { s.clove with port := s.clove.port.set (k :: h.n :: place) (v % 2 ^ 256) } }
  match k with
  | 0 => s.tblPut false place (emOf v)
  | 1 => match s.tblAt true place with | some x => s.tblPut true place (some { x with adata := bits v 0 64, act := bits v 64 6 }) | none => s
  | _ => s.fdbPut h place (entOf (leBytes 32 v))

/-- A table port access of an engine (R297, R304, R320): like a Hamper access on words of 256 bits. -/
def State.engPort (s : State) (h : Half) (e op a v expect : Nat) (fn : Option Nat) : MemRes :=
  match (if a % 32 = 0 then Config.tablePort a else none) with
  | none => ⟨2, s, none, none⟩
  | some (k, place) =>
    let al := Config.tableAlias a
    let ev : PmcEv := ⟨2, e, a, accCls op al, fn⟩
    let s := s.pmc h 3 ev 1
    let old := s.portGet h k place
    let read (s : State) : Bool × State := if k < 2 then s.eccReadAt h 1 0 (tblAddr (k = 1) place) ev else s.eccReadAt h 2 0 place ev
    if op = 2 then
      let s := if al = 1 ∨ al = 2 then (read s).2 else s
      match al with
      | 1 => ⟨0, s.portPut h k place (old ||| v), some old, some (decide ((old &&& v) = v))⟩
      | 2 => ⟨0, s.portPut h k place (old - (old &&& v)), some old, some (decide ((old &&& v) = 0))⟩
      | _ => ⟨0, s.portPut h k place v, none, none⟩
    else
      let (bad, s) := read s
      if bad then ⟨3, s, none, none⟩
      else if op = 1 then ⟨0, s, some old, none⟩
      else
        let s' := s.portPut h k place (memRmw op 256 old v expect)
        if op = 4 then ⟨0, if old = expect then s' else s, some old, some (decide (old = expect))⟩ else ⟨0, s', some old, none⟩

/-- Four registers as a 256-bit word, the first the least significant. -/
def Eng.wide (x : Eng) (i : Nat) : Nat := (List.range 4).foldl (fun a j => a + x.reg ((i + j) % 64) * 2 ^ (64 * j)) 0

/-- The memory operation of a microword (R297). -/
def State.engMem (s : State) (h : Half) (e : Nat) (w : BitVec 192) (x : Eng) : MemRes :=
  let n := w.toNat
  let op := bits n 74 3
  let a := x.reg (bits n 79 6)
  let dr := bits n 85 6
  let cr := Config.casReg w % 64
  if op = 0 then ⟨0, s, none, none⟩
  else if bits n 77 2 = 0 then s.engHamper h e op a (x.reg dr) (x.reg cr) x.cause
  else s.engPort h e op a (x.wide dr) (x.wide cr) x.cause

/-- The access of a microword as a performance counter sees it (R289). -/
def engAccess (e : Nat) (w : BitVec 192) (x : Eng) : PmcEv :=
  let n := w.toNat
  let op := bits n 74 3
  let a := x.reg (bits n 79 6)
  ⟨2, e, a, accCls op (if bits n 77 2 = 0 then bits a 22 2 else Config.tableAlias a), x.cause⟩

/-- The RAS routine's access to a word named by its bank and row (R289, R404). -/
def bankEv (e cls inst bank row : Nat) : PmcEv :=
  ⟨2, e, if cls = 0 then bank * 8 + row * 1024 else Config.bankAddr cls [inst, bank, row], 0, none⟩

/-- An engine copies one word of a retiring bank to its spare, in row order (R301, R409, R410): a single-bit error is corrected on the way, a poisoned word is copied as poisoned, and both are reported (R404). -/
def State.copyWord (s : State) (h : Half) (e : Nat) : State :=
  match s.ras.job with
  | some m =>
    if m.op = 3 ∧ m.half = h then
      let row := s.rd .RAS_RETIRE_STAT_done [h.n]
      let (bad, s) := s.eccRead h m.cls m.inst m.bank row (bankEv e m.cls m.inst m.bank row)
      let s := if bad then s else s.eccClear h m.cls m.inst m.bank row
      s.bump .RAS_RETIRE_STAT_done [h.n] 1
    else s
  | none => s

/-- Issues a message; false where its destination takes none (R301). -/
def State.engMsg (s : State) (h : Half) (e : Nat) (x : Eng) (op : Nat) (body : List Word) : Bool × State :=
  match op with
  | 1 =>
    if ¬ s.bridgeUp then (false, s)
    else
      let s := s.bridgeMsg h
      match Config.bridgeMsg body with
      | (n, .inl r) => s.rqPost h.other r ⟨body.take n, false, none⟩
      | (_, .inr k) => (true, s.setEng h.other (k % 16) { s.eng h.other (k % 16) with bridgeAck := true })
  | 2 => let m := Config.eventMsg (body.take 4); (true, s.raise m.1 h.n [(0, 32, leNat m.2)])
  | 3 =>
    let w0 := (body.getD 0 0).toNat
    let d := match x.ev with | some v => v.desc | none => none
    (true, match d with
      | some d => if s.host.taken.any (fun t => t.hdr = d) then s.complete d (bits w0 32 16) (bits w0 48 8) (body.getD 1 0).toNat else s
      | none => s)
  | 4 =>
    let m := Config.bcastMsg (body.take 5)
    (true, match Config.tablePort m.1 with
      | some (k, place) => if k < 2 then s.portPut h k place m.2 else s
      | none => s)
  | 5 => (true, s.copyWord h e)
  | 6 => let m := Config.queueMsg (body.take 2); s.rqPost h m.1 ⟨m.2, false, none⟩
  | _ => (true, s)

/-- The eight registers of a message body; the manual gives none beyond g63, where free values stand (R301). -/
def State.msgBody (s : State) (x : Eng) (r : Nat) : List Word × State :=
  ((List.range 8).map (fun i => if r + i < 64 then BitVec.ofNat 64 (x.reg (r + i)) else BitVec.ofNat 64 (Config.freeValue (s.fresh + i))),
   if r + 8 ≤ 64 then s else { s with fresh := s.fresh + 8 })

/-- A fault: recorded, counted and raised; the engine goes to DISPATCH, its event is retried once, and a third fault within 1 s takes it OFFLINE (R304, R305). -/
def State.engFault (s : State) (h : Half) (e cause cur : Nat) (patched : Bool) : State :=
  let ix := [h.n, e]
  let x := s.eng h e
  let r := s.rd .CLV_ENG_STAT_routine ix
  let s := (s.sts [(.CLV_FAULT_cause, ix, cause), (.CLV_FAULT_uaddr, ix, cur), (.CLV_FAULT_patched, ix, b2n patched)]).bump .CLV_CNT_v [h.n, e, 0] 1
  let s := s.raise 0x0070 h.n [(0, 1, 16 * h.n + e), (1, 1, cause), (2, 2, cur)]
  let s := match x.ev with
    | none => s
    | some v =>
      if ¬ v.retried then s.setRq h r ({ v with retried := true } :: s.rq h r)
      else
        let s := s.bump .CLV_CNT_v [h.n, e, 1] 1
        match v.desc with
        | some d => if s.host.taken.any (fun t => t.hdr = d) then s.fail d 6 else s
        | none => s
  let s := s.atDispatch h e
  let f : List Nat := (x.faults.filter (fun (t : Nat) => decide (s.elapsed < t + 1000000000))) ++ [s.elapsed]
  let s := s.setEng h e { s.eng h e with faults := f }
  if f.length < 3 then s
  else (s.st .CLV_ENG_STAT_state ix 3).raise 0x0071 h.n [(0, 1, 16 * h.n + e)]

/-- The sequencer's next address, none at DISPATCH, and the engine with its link, loop and handler moved (R298). -/
def State.engSeq (s : State) (h : Half) (e w cur : Nat) (x0 x : Eng) : Option Nat × Eng :=
  let next := bits w 0 16
  let inc := (cur + 1) % 65536
  let c := s.engCond h e x0 (bits w 20 5)
  match bits w 16 4 with
  | 0 => (some inc, x)
  | 1 => (some next, x)
  | 2 => (some (if c then next else inc), x)
  | 3 => (some (if c then inc else next), x)
  | 4 => (some next, { x with link := inc })
  | 5 => (some x0.link, x)
  | 6 => let l := (x0.loop + 65535) % 65536; (some (if l = 0 then inc else next), { x with loop := l })
  | 7 => (none, x)
  | 8 => (if s.rd .CLV_ENG_STAT_state [h.n, e] = 2 ∧ x0.fromIdle then none else some x0.ilink, x)
  | _ => (some (if c then inc else cur), x)

/-- The effects of a microword that does not fault, in the order of R296, and the interrupt taken at its boundary (R307). -/
def State.engApply (s0 s : State) (h : Half) (e : Nat) (w : BitVec 192) (cur : Nat) (patched : Bool) (m : MemRes) (stall : Nat) : State :=
  let ix := [h.n, e]
  let n := w.toNat
  let imm := bits n 128 64
  let x0 := s0.eng h e
  let tick := s0.elapsed
  let op0 := bits n 28 5
  let op1 := bits n 51 5
  let a0 := x0.reg (bits n 33 6)
  let b0 := if bit n 26 then imm else x0.reg (bits n 39 6)
  let a1 := x0.reg (bits n 56 6)
  let b1 := if bit n 27 then imm else x0.reg (bits n 62 6)
  let (fc, s) := if op0 = 0 ∨ op0 = 1 then (0, s) else s.draw
  let x := match cloveAlu op0 a0 b0 tick with | some v => x0.setReg (bits n 45 6) v | none => x0
  let fv := cloveFlagValue op0 a0 b0 tick
  let x := if op0 = 0 then x else { x with z := decide (fv = 0), n := bit fv 63, c := cloveCarry op0 a0 b0 (decide (fc % 2 = 1)) }
  let x := match cloveAlu op1 a1 b1 tick with | some v => x.setReg (bits n 68 6) v | none => x
  let x := if op0 = 15 ∨ op1 = 15 then { x with lastTick := tick } else x
  let dr := bits n 85 6
  let x := match m.res with
    | some v => if bits n 77 2 = 0 then x.setReg dr v else (List.range 4).foldl (fun (x : Eng) j => x.setReg (dr + j) (bits v (64 * j) 64)) x
    | none => x
  let x := match m.ok with | some b => { x with memOk := b } | none => x
  let x := match bits n 102 3 with | 1 => { x with loop := bits imm 0 16 } | 2 => { x with loop := a0 % 65536 } | _ => x
  let s := s.setEng h e x
  let mo := bits n 91 5
  let (body, s) := if mo = 0 then ([], s) else s.msgBody x0 (bits n 96 6)
  let (acc, s) := if mo = 0 then (x0.msgOk, s) else s.engMsg h e x0 mo body
  let x := { s.eng h e with msgOk := acc, bridgeAck := if mo = 1 && acc then false else (s.eng h e).bridgeAck }
  let (next, x) := s0.engSeq h e n cur x0 x
  let s := s.setEng h e x
  let ev : PmcEv := ⟨2, e, 0, 0, x0.cause⟩
  let s := s.engPmc h 5 ev 1 cur stall patched
  let s := if stall = 0 then s else (s.pmc h 2 (engAccess e w x0) stall).engPmc h 6 ev stall cur stall patched
  match next with
  | none => s.atDispatch h e
  | some a =>
    let handler := s0.rd .CLV_ENG_STAT_state ix = 2 && bits n 16 4 ≠ 8
    let s := s.sts [(.CLV_ENG_STAT_pc, ix, a), (.CLV_ENG_STAT_state, ix, if handler then 2 else 1)]
    let s := if s.on .CLV_PATCH_CTL_mode [h.n] then s.st .CLV_ENG_STAT_tag ix (s.patchSet h) else s
    if handler ∨ bit n 25 then s
    else match s.irqReady h e with
      | some l => s.irqTake h e l a false cur stall patched
      | none => s

/-- MICROWORD_EXECUTE: an engine that runs completes one microword (R296, R304). -/
def doMicrowordExecute (h : Half) (e : Nat) (s : State) : State :=
  let st := s.rd .CLV_ENG_STAT_state [h.n, e]
  if 16 ≤ e ∨ (st ≠ 1 ∧ st ≠ 2) then s
  else
    let (cur, patched) := s.fetchAt h e
    let w := s.microword h cur
    let (bad, s) := s.eccReadAt h 5 0 [cur] ⟨2, e, 0, 0, none⟩
    if bad then s.engFault h e 4 cur patched
    else if uwIllegal w.toNat then s.engFault h e 1 cur patched
    else
      let m := s.engMem h e w (s.eng h e)
      if m.fault ≠ 0 then m.st.engFault h e m.fault cur patched
      else
        let (v, s') := if bits w.toNat 74 3 = 0 then (0, m.st) else m.st.draw
        s.engApply s' h e w cur patched m (v % 9)

def execMicrowordExecute (h : Half) (e : Nat) (s : State) : Host.Outcome State Fault Refusal := done (doMicrowordExecute h e s)

/-- IRQ_LATCH: a request at a line; lines 5-7 are never pending (R306). -/
def doIrqLatch (h : Half) (e line : Nat) (s : State) : State := if 16 ≤ e ∨ 5 ≤ line then s else s.irq h e line

def execIrqLatch (h : Half) (e line : Nat) (s : State) : Host.Outcome State Fault Refusal := done (doIrqLatch h e line s)

/-- ROUTINE_TIMER: the timer of the engine's current routine requests line 4 (R306). -/
def doRoutineTimer (h : Half) (e : Nat) (s : State) : State :=
  let r := s.rd .CLV_ENG_STAT_routine [h.n, e]
  if 16 ≤ e ∨ 10 ≤ r ∨ s.rd .CLV_ROUTE_timer_us [h.n, r] = 0 then s else s.irq h e 4

def execRoutineTimer (h : Half) (e : Nat) (s : State) : Host.Outcome State Fault Refusal := done (doRoutineTimer h e s)

/-- The work of a half that waits for an engine of its routine and that no command brings again: completions, the port deletions of flushes and histogram swaps (R302). -/
def State.workRun (s : State) (h : Half) : State := ((s.lateRun h).portDueRun h).histDueRun h

/-- ENGINE_RESTART: 1 written to `online` of an OFFLINE engine restarts it at DISPATCH (R305, `CLV_ENG_CTL`); its faults are counted afresh (log entry 45), and work that waited for an engine goes on (R302). -/
def doEngineRestart (h : Half) (e : Nat) (s : State) : State :=
  if 16 ≤ e ∨ s.rd .CLV_ENG_STAT_state [h.n, e] ≠ 3 then s
  else
    let s := (s.st .CLV_ENG_CTL_online [h.n, e] 1).atDispatch h e
    (s.setEng h e { s.eng h e with faults := [] }).workRun h

def execEngineRestart (h : Half) (e : Nat) (s : State) : Host.Outcome State Fault Refusal := done (doEngineRestart h e s)

/-- The body of a patch object: microwords as (offset, word), match registers as (match, target), and the pages; none where a check of R373 fails. -/
def patchParse (romVer : Nat) (body : List Byte) : Option (List (Nat × Nat) × List (Nat × Nat) × Nat) :=
  let n := le body 4 4
  let k := le body 8 2
  let pages := le body 16 8
  if n < 1 ∨ 16384 < n ∨ 64 < k ∨ body.length ≠ 32 + 32 * n + 4 * k ∨ le body 0 4 ≠ romVer ∨ leNat (slice body 10 6) ≠ 0 ∨ le body 24 8 ≠ 0 then none
  else
    let ws := (List.range n).map (fun i => (le body (32 + 32 * i) 2, le body (40 + 32 * i) 24))
    let ms := (List.range k).map (fun i => (le body (32 + 32 * n + 4 * i) 2, le body (34 + 32 * n + 4 * i) 2))
    let clean := (List.range n).all (fun i => leNat (slice body (34 + 32 * i) 6) = 0)
    if clean ∧ ws.all (fun w => decide (w.1 < 16384) && bit pages (w.1 / 256)) ∧ ms.all (fun m => decide (0xC000 ≤ m.2))
        ∧ (ms.map (fun m => m.1)).Nodup then some (ws, ms, pages)
    else none

/-- Loads a patch object into the shadow set of both halves: status, state code, and the state (R311, R362, R373). -/
def State.patchInstall (s : State) (bs : List Byte) : Nat × Nat × State :=
  let (st, s) := s.objCheck bs patchMagic 0xFFFFFFFF
  if st ≠ stOk then (st, 0, s)
  else match patchParse (s.rd .TRB_ROM_VER_rom_ver [0]) (objBody bs) with
    | none => (stParam, 0, s)
    | some (ws, ms, pages) =>
      let act := s.patchSet s.owner
      let sh := 1 - act
      if (pages &&& s.rd .CLV_PAGES_v [s.owner.n, act]) ≠ 0 then (stReject, 0x29, s)
      else
        let one (s : State) (h : Half) : State :=
          let s := ws.foldl (fun (s : State) w =>
            ({ s with clove := { s.clove with patch := s.clove.patch.put [h.n, w.1] w.2 0 } }).eccClearAt h 5 0 [0xC000 + w.1]) s
          let s := s.st .CLV_PAGES_v [h.n, sh] pages
          (List.range 64).foldl (fun s i =>
            match ms[i]? with
            | some m => s.sts [(.CLV_MATCH_match, [h.n, sh, i], m.1), (.CLV_MATCH_target, [h.n, sh, i], m.2 - 0xC000), (.CLV_MATCH_valid, [h.n, sh, i], 1)]
            | none => s.st .CLV_MATCH_valid [h.n, sh, i] 0) s
        let s := halves.foldl one s
        let dg := leNat (slice bs 64 48)
        (stOk, 0, if sh = 0 then { s with clove := { s.clove with digest0 := dg } } else { s with clove := { s.clove with digest1 := dg } })

/-- PATCH_LOAD (R311, R321, R381). -/
def doPatchLoad (d : Hdr) (s : State) : State :=
  s.serve d ⟨0x70, .config, true, false, 0⟩ true (cleanHdr d false false true) fun s =>
    if s.arming then s.reject d 0x28
    else if s.trbWaits d then s.descWait d
    else s.withBuf d fun bs => let (st, x, s) := s.patchInstall bs; s.complete d st x (if st = stOk then approvedBit else 0)

def execPatchLoad (d : Hdr) (s : State) : Host.Outcome State Fault Refusal := doneDesc (.patchLoad (bareHdr d)) d (doPatchLoad d) s

/-- PATCH_ARM: Maintenance begins and the activation is requested (R310). While another Maintenance operation runs, an ARMING among them, the mode check of R338 and R389 refuses it before the state of the patch is looked at (log entry 80). -/
def doPatchArm (d : Hdr) (mode : Nat) (s : State) : State :=
  s.serve d ⟨0x71, .maint, true, false, 0⟩ true (cleanHdr d false false false && decide (mode < 2)) fun s =>
    if s.arming then s.reject d 0x28
    else
      let s := { s with clove := { s.clove with arm := some ⟨some d, mode, s.patchSet s.owner, false⟩ } }
      let s := halves.foldl (fun s h => s.sts [(.CLV_PATCH_CTL_state, [h.n], 1), (.CLV_PATCH_CTL_mode, [h.n], mode)]) s
      (s.maintStart 2).request (.patch mode) none 0

def execPatchArm (d : Hdr) (mode : Nat) (s : State) : Host.Outcome State Fault Refusal := doneDesc (.patchArm (bareHdr d) mode) d (doPatchArm d mode) s

/-- A half's activation edge: the shadow set becomes active, and idle engines take it (R309, R310). -/
def State.patchEdge (s : State) (h : Half) : State :=
  let new := 1 - s.patchSet h
  let s := s.st .CLV_PATCH_CTL_active [h.n] new
  (List.range 16).foldl (fun s e => if s.rd .CLV_ENG_STAT_state [h.n, e] = 0 then s.st .CLV_ENG_STAT_tag [h.n, e] new else s) s

/-- A half has made its edge and none of its engines carries the old tag; an OFFLINE engine carries none (R310). -/
def State.patchDrained (s : State) (h : Half) (old : Nat) : Bool :=
  s.patchSet h ≠ old && (List.range 16).all (fun e => s.rd .CLV_ENG_STAT_state [h.n, e] = 3 || s.rd .CLV_ENG_STAT_tag [h.n, e] ≠ old)

/-- The end of an activation: the old set is the shadow set, Maintenance ends, PATCH_ARM completes and PATCH_ARMED is raised (R310). -/
def State.armEnd (s : State) (a : Arm) : State :=
  let s := ({ s with clove := { s.clove with arm := none } }).maintEnd
  let s := match a.desc with | some d => s.ok d (1 - a.old) | none => s
  s.raise 0x0072 2 [(0, 1, 1 - a.old), (1, 1, a.mode)]

/-- A half that has drained is STEADY, by an engine of its PROG routine (R302, R310). -/
def State.armHalf (s : State) (a : Arm) (h : Half) : State :=
  if s.on .CLV_PATCH_CTL_state [h.n] ∧ s.patchDrained h a.old then s.viaRoutine h 3 [0, 3] (fun s => s.st .CLV_PATCH_CTL_state [h.n] 0) else s

/-- PATCH_ARM_DRAINED: no engine carries the old tag, and an engine of the PROG routine ends the activation (R302, R310). After a bridge loss each half ends its own drain. -/
def doPatchArmDrained (s : State) : State :=
  match s.clove.arm with
  | none => s
  | some a =>
    if a.lost then
      let s := halves.foldl (fun s h => s.armHalf a h) s
      if s.arming then s else s.armEnd a
    else if s.patchDrained .E a.old ∧ s.patchDrained .W a.old then
      s.viaRoutine s.owner 3 [0, 3] (fun s => (s.sts [(.CLV_PATCH_CTL_state, [0], 0), (.CLV_PATCH_CTL_state, [1], 0)]).armEnd a)
    else s

def execPatchArmDrained (s : State) : Host.Outcome State Fault Refusal := done (doPatchArmDrained s)

/-- The bridge is lost while ARMING: PATCH_ARM completes with each half's state, and each half drains alone (R310). -/
def State.patchBridgeLost (s : State) : State :=
  match s.clove.arm with
  | none => s
  | some a =>
    let s := halves.foldl (fun s h => if s.patchDrained h a.old then s.st .CLV_PATCH_CTL_state [h.n] 0 else s) s
    let s := match a.desc with
      | some d => s.complete d stOwner 0 (s.rd .CLV_PATCH_CTL_state [0] + 2 * s.rd .CLV_PATCH_CTL_state [1])
      | none => s
    { s with clove := { s.clove with arm := some { a with desc := none, lost := true } } }

/-- The range of HAM_READ and HAM_WRITE: words of the stateful region, 1-512 of them, within the buffer (R312, R321). -/
def hamArgs (d : Hdr) (addr count : Nat) : Bool :=
  decide (1 ≤ count ∧ count ≤ 512) && hamStateful addr && decide (addr + 8 * count ≤ 0x400000) && decide (8 * count ≤ d.hlen)

/-- HAM_READ (R321). The manual gives no data for a poisoned word, where a free value stands. -/
def doHamRead (d : Hdr) (addr count : Nat) (s : State) : State :=
  s.serve d ⟨0x72, .reads, false, false, 1⟩ true (cleanHdr d false false true) fun s =>
    if ¬ hamArgs d addr count then s.fail d stParam
    else s.withBuf d fun _ =>
      let h := Hdr.half d
      let r := (List.range count).foldl (fun (a : List Byte × State) i =>
        let p := addr + 8 * i
        let ev : PmcEv := ⟨4, 0, p, 0, some d.fn⟩
        let (bad, s) := (a.2.pmc h 1 ev 1).eccRead h 0 0 (hamBank p) (hamRow p) ev
        let (v, s) := if bad then s.draw else (s.hamRead h p, s)
        (a.1 ++ leBytes 8 v, s)) ([], s)
      (r.2.hostWrite d.haddr r.1).ok d 0

def execHamRead (d : Hdr) (addr count : Nat) (s : State) : Host.Outcome State Fault Refusal := doneDesc (.hamRead (bareHdr d) addr count) d (doHamRead d addr count) s

/-- HAM_WRITE: each word is one access, plain or through an alias, which reads the word first, so that an ECC error is reported (R313, R318, R321, R404). -/
def doHamWrite (d : Hdr) (addr count als : Nat) (s : State) : State :=
  s.serve d ⟨0x73, .config, true, false, 1⟩ true (cleanHdr d false false true) fun s =>
    if ¬ hamArgs d addr count ∨ 3 ≤ als then s.fail d stParam
    else s.withBuf d fun bs =>
      let h := Hdr.half d
      let s := (List.range count).foldl (fun (s : State) i =>
        let p := addr + 8 * i
        let ev : PmcEv := ⟨4, 0, p, if als = 0 then 1 else 3, some d.fn⟩
        let s := s.pmc h 1 ev 1
        let s := if als = 0 then s else (s.eccRead h 0 0 (hamBank p) (hamRow p) ev).2
        let s := s.hamWrite h (p + als * 2 ^ 22) (le bs (8 * i) 8)
        if als = 0 then s else s.bump .HAM_CNT_v [h.n, 1] 1) s
      s.ok d 0

def execHamWrite (d : Hdr) (addr count als : Nat) (s : State) : Host.Outcome State Fault Refusal := doneDesc (.hamWrite (bareHdr d) addr count als) d (doHamWrite d addr count als) s

end Sys2Proof.Machine
end

