-- ==== Sys2Proof/Machine/Time.lean ====
section
/-!
DEFINITION. The time base (R176-R201): apply edges, rate and step, holdover, the loss of lockstep, the transmit timestamp queues and the timing pins.
-/

namespace Sys2Proof.Machine

/-- The apply edge of a write that reaches the time base now: the first multiple of 1,024 ticks at least 2,048 ticks away (R179). -/
def State.applyEdge (s : State) : Nat := ceilDiv (s.elapsed + 2048) 1024 * 1024

/-- Puts a field of the register view off to its apply edge (R179). -/
def State.later (s : State) (f : Fld) (ix : List Nat) (v : Nat) : State :=
  { s with time := { s.time with pendCfg := s.time.pendCfg ++ [(s.applyEdge, f, ix, v)] } }

/-- The value last written to an RW field: that of a write that waits for its apply edge, else the one in force (R9, R179). -/
def State.lastW (s : State) (f : Fld) (ix : List Nat) : Nat :=
  ((s.time.pendCfg.filter (fun w => w.2.1 = f && w.2.2.1 = ix)).getLast?.map (fun w => w.2.2.2)).getD (s.rd f ix)

/-- What a host reads of a field: the value last written of an RW field, the current value of every other (R9). -/
def State.shown (s : State) (f : Fld) (ix : List Nat) : Nat := if f.info.acc = .RW then s.lastW f ix else s.rd f ix

/-- A W1C field after a write that waited for its apply edge: the low half of `v`, w bits, names the bits that it clears, the high half those that it sets (R9, R179). -/
def w1cAfter (w cur v : Nat) : Nat := (cur ^^^ (cur &&& v % 2 ^ w)) ||| (v / 2 ^ w)

/-- Holdover as it will stand once every write of it that waits has taken effect (R179, R183). -/
def State.holdNext (s : State) : Nat :=
  (s.time.pendCfg.filter (fun w => w.2.1 = .TIM_STAT_holdover)).foldl (fun a w => w1cAfter 1 a w.2.2.2) (s.rd .TIM_STAT_holdover [0])

/-- Enters holdover (R183). -/
def State.holdover (s : State) (cause : Nat) : State :=
  if s.on .TIM_STAT_holdover [0] then s
  else (s.st .TIM_STAT_holdover [0] 1).raise 0x0030 2 [(0, 1, cause)]

/-- The watchdog counts from now (R183). -/
def State.wdRestart (s : State) : State := { s with time := { s.time with wdStart := s.elapsed } }

/-- TIM_INC_WRITE (R180, R183, R185): a write of `holdover` or `gm_set` that reached the time base before it counts. -/
def doTimIncWrite (value : Nat) (s : State) : State :=
  let v := value % 2 ^ 40
  if v < 0xFFBE76C9 ∨ 0x100418937 < v then s.st .TIM_STAT_inc_range [0] 1
  else if (s.holdNext ≠ 0 ∧ s.on .TIM_CFG_hold_en [0]) ∨ s.on .TIM_STAT_lockstep_lost [0] then
    (s.st .TIM_STAT_inc_refused [0] 1).bump .TIM_CNT_v [0, 4] 1
  else (s.later .TIM_INC_inc [0] v).wdRestart

def execTimIncWrite (value : Nat) (s : State) : Host.Outcome State Fault Refusal := doneReg false (doTimIncWrite value) s

/-- STEP_GO: requests the staged step, of the values last written (R181). -/
def doStepGo (s : State) : State :=
  if s.on .TIM_STAT_step_pend [0] then s.st .TIM_STAT_step_busy [0] 1
  else
    let v := s.lastW .TIM_STEP_HI_sec [0] * tsSec + s.lastW .TIM_STEP_LO_ns [0] * tsNs + s.lastW .TIM_STEP_LO_frac [0] * 65536
    { s with time := { s.time with pendStep := some ⟨s.applyEdge, s.lastW .TIM_STEP_LO_neg [0] != 0, s.lastW .TIM_STEP_LO_abs [0] != 0, v⟩ } }.st .TIM_STAT_step_pend [0] 1

def execStepGo (s : State) : Host.Outcome State Fault Refusal := doneReg false doStepGo s

/-- GM_SET: holdover begins at the write's apply edge, which sets the bit (R179, R183). -/
def doGmSet (s : State) : State := s.later .TIM_STAT_holdover [0] 2

def execGmSet (s : State) : Host.Outcome State Fault Refusal := doneReg false doGmSet s

/-- HOLDOVER_EXIT: 1 is written to `holdover`, which clears it at the write's apply edge (R179, R183). -/
def doHoldoverExit (s : State) : State := s.later .TIM_STAT_holdover [0] 1

def execHoldoverExit (s : State) : Host.Outcome State Fault Refusal := doneReg false doHoldoverExit s

/-- TIM_CFG_WRITE: the policies reach both halves at the apply edge, and the watchdog restarts (R179, R183). -/
def doTimCfgWrite (value : Nat) (s : State) : State :=
  ((((s.later .TIM_CFG_ref_src [0] (bits value 0 2)).later .TIM_CFG_hold_en [0] (bits value 2 1)).later .TIM_CFG_guard_en [0] (bits value 3 1)).later
    .TIM_CFG_wd_ms [0] (bits value 4 16)).wdRestart

def execTimCfgWrite (value : Nat) (s : State) : Host.Outcome State Fault Refusal := doneReg false (doTimCfgWrite value) s

/-- WATCHDOG_EXPIRY: `wd_ms` have passed since the watchdog's start (R183). -/
def doWatchdogExpiry (s : State) : State :=
  let ms := s.rd .TIM_CFG_wd_ms [0]
  if ms = 0 ∨ s.on .TIM_STAT_holdover [0] then s
  else (s.runTo (s.time.wdStart + ms * 1000000)).holdover 1

def execWatchdogExpiry (s : State) : Host.Outcome State Fault Refusal := done (doWatchdogExpiry s)

/-- The time adjusted by a signed size. -/
def tsAdd (t : Ts) (d : Int) : Ts := (((t : Int) + d) % (tsMod : Int)).toNat

/-- While the lockstep and the reference are both lost, West's time runs at a rate of its own, a free value within 0.5 ns for each ms of its increment, taken anew at every apply edge; otherwise both halves run at the last increment (R185, log entry 39). -/
def State.refDrift (s : State) : State :=
  if s.on .TIM_STAT_lockstep_lost [0] ∧ s.on .TIM_STAT_ref_lost [0] then
    let (u, s) := s.draw
    { s with time := { s.time with incW := s.time.incE + u % 4295 - 2147 } }
  else { s with time := { s.time with incW := s.time.incE } }

/-- TIME_REF_LOST: the selected timing reference stops (R178). -/
def doTimeRefLost (s : State) : State :=
  if s.on .TIM_STAT_ref_lost [0] then s
  else ((s.st .TIM_STAT_ref_lost [0] 1).raise 0x0032 2 [(0, 1, s.rd .TIM_CFG_ref_src [0])]).refDrift

def execTimeRefLost (s : State) : Host.Outcome State Fault Refusal := done (doTimeRefLost s)

/-- TIME_REF_RESTORED: the selected timing reference returns (R178). -/
def doTimeRefRestored (s : State) : State := (s.st .TIM_STAT_ref_lost [0] 0).refDrift

def execTimeRefRestored (s : State) : Host.Outcome State Fault Refusal := done (doTimeRefRestored s)

/-- Output settings of a timing pin are invalid (R200). -/
def State.tioBad (s : State) (pin : Nat) : Bool :=
  let p := s.rd .TIM_TIO_CFG_period [0, pin]
  let w := s.rd .TIM_TIO_OUT_width [0, pin]
  decide (p < 16) || decide (w < 8) || decide (p < w + 8)

/-- A pin's output after its settings changed: newly enabled it waits 1 microsecond, invalid settings hold it low (R200). -/
def State.tioSet (s : State) (wasOut : Bool) (pin : Nat) : State :=
  let out := s.rd .TIM_TIO_CFG_mode [0, pin] = 2
  let bad := out && s.tioBad pin
  let s := s.st .TIM_TIO_CFG_cfg_err [0, pin] (b2n bad)
  let s := if out && !wasOut then { s with time := { s.time with tioFirst := s.time.tioFirst.set [pin] (s.now .E + 1000 * tsNs) } } else s
  if out && !bad then s
  else { s with time := { s.time with tioPin := s.time.tioPin.erase [pin], tioHigh := s.time.tioHigh.erase [pin] } }

/-- A write takes effect, in both halves; the bits that it names in a W1C field act on the value that the field has by then (R9, R179, R180, R183). -/
def State.applyWrite (s : State) (w : Nat × Fld × List Nat × Nat) : State :=
  if w.2.1 = .TIM_STAT_holdover then
    if 2 ≤ w.2.2.2 then s.holdover 0
    else if w.2.2.2 = 1 ∧ s.on .TIM_STAT_holdover [0] then (s.st .TIM_STAT_holdover [0] 0).wdRestart else s
  else if w.2.1.info.acc = .W1C then s.st w.2.1 w.2.2.1 (w1cAfter w.2.1.info.w (s.rd w.2.1 w.2.2.1) w.2.2.2)
  else
    let s := s.st w.2.1 w.2.2.1 w.2.2.2
    if w.2.1 = .TIM_INC_inc then { s with time := { s.time with incE := w.2.2.2, incW := w.2.2.2 } } else s

/-- The writes whose apply edge has come take effect in order (R179). -/
def State.applyCfg (s : State) : State :=
  let due := s.time.pendCfg.filter (fun w => decide (w.1 ≤ s.elapsed))
  let was := (List.range 8).map (fun n => decide (s.rd .TIM_TIO_CFG_mode [0, n] = 2))
  let s := { s with time := { s.time with pendCfg := s.time.pendCfg.filter (fun w => decide (s.elapsed < w.1)) } }
  let s := due.foldl State.applyWrite s
  (List.range 8).foldl (fun s n => s.tioSet (was.getD n false) n) s

/-- The resynchronisation of West to East (R185); West's epoch timer follows it (R219). -/
def State.resyncTime (s : State) : State :=
  match s.time.resyncDue with
  | none => s
  | some t =>
    if s.elapsed < t ∨ ¬ s.bridgeUp then s
    else
      let off : Int := ((s.time.tW : Int) - (s.time.tE : Int) + 32768) / 65536
      let s := { s with time := { s.time with tW := s.time.tE, incW := s.time.incE, resyncDue := none } }
      ((s.st .TIM_STAT_lockstep_lost [0] 0).epochFollow .W).raise 0x0033 2 [(0, 8, unsigned 64 off)]

/-- A signed size of time in units of 2^-16 ns, rounded as a record shows it, the half up (R176). -/
def dRound (d : Int) : Int := (d + 32768) / 65536 * 65536

/-- Records an applied step (R176, R194). -/
def State.stepRecord (s : State) (d : Int) : State :=
  { s with time := { s.time with
    recE := ((tRound s.time.tE, dRound d) :: s.time.recE).take 2
    recW := ((tRound s.time.tW, dRound d) :: s.time.recW).take 2 } }

/-- STEP_APPLY: the step is tested under GUARD and lockstep, then applied to both halves (R181, R182). -/
def State.stepApply (s : State) : State :=
  match s.time.pendStep with
  | none => s
  | some r =>
    if s.elapsed < r.due then s
    else
      let s := { s with time := { s.time with pendStep := none } }.st .TIM_STAT_step_pend [0] 0
      let d : Int := if r.abs then (r.value : Int) - (s.time.tE : Int) else if r.neg then -(r.value : Int) else (r.value : Int)
      let size := d.natAbs
      if (s.on .TIM_CFG_guard_en [0] ∧ s.rd .TIM_GUARD_guard_ns [0] * tsNs < size) ∨ s.on .TIM_STAT_lockstep_lost [0] then
        let r := tRound size
        ((s.st .TIM_STAT_step_refused [0] 1).bump .TIM_CNT_v [0, 3] 1).raise 0x0031 2
          [(0, 8, tSec r), (8, 4, tNs r), (12, 2, tFrac size), (14, 1, b2n (decide (d < 0)))]
      else
        let bE := s.time.tE
        let bW := s.time.tW
        let s := { s with time := { s.time with tE := tsAdd s.time.tE d, tW := tsAdd s.time.tW d } }
        let s := (s.stepRecord d).timedStep d
        let s := (s.histStep .E bE).histStep .W bW
        { s with time := { s.time with tioFirst := s.time.tioFirst.map (fun (e : List Nat × Nat) => (e.1, s.time.tE + 1)) } }

/-- TIME_APPLY_EDGE: the next multiple of 1,024 ticks; the resynchronisation comes first, then writes and the step, then captures (R179, R185, R285). -/
def doTimeApplyEdge (s : State) : State :=
  let s := s.runTo (nextMultiple 1024 s.elapsed)
  let s := s.resyncTime.applyCfg.stepApply.snapCapture
  if s.on .TIM_STAT_lockstep_lost [0] ∧ s.on .TIM_STAT_ref_lost [0] then s.refDrift else s

def execTimeApplyEdge (s : State) : Host.Outcome State Fault Refusal := done (doTimeApplyEdge s)

/-- The bridge is lost: the lockstep with it; the drift of West is a free value within the 2 ns of R185. Where the lockstep was still lost from the outage before, the halves have drifted already, and they stay within the same 2 ns. -/
def State.timeBridgeLost (s : State) : State :=
  let s := { s with time := { s.time with resyncDue := none } }
  if s.on .TIM_STAT_lockstep_lost [0] then s.refDrift
  else
    let (u, s) := s.draw
    let d : Int := ((u % (4 * tsNs + 1) : Nat) : Int) - ((2 * tsNs : Nat) : Int)
    ({ s with time := { s.time with tW := tsAdd s.time.tW d } }.st .TIM_STAT_lockstep_lost [0] 1).refDrift

/-- The bridge returns: West follows East at the next apply edge (R185). -/
def State.timeBridgeRestored (s : State) : State :=
  { s with time := { s.time with resyncDue := some (nextMultiple 1024 s.elapsed) } }

/-- The 64-bit value of `TIM_NOW_LO` (R184). The one register view reads East's counter, also while the halves' counters differ, where the manual does not say which is read (DESIGN CHOICE: log entry 39). -/
def State.nowLo (s : State) : Nat := let t := tRound s.time.tE; tFrac s.time.tE + tNs t * 2 ^ 16

/-- TIME_READ: a read of `TIM_NOW_LO` latches the seconds; one of `TIM_ELAPSED` returns the ticks (R184). -/
def doTimeRead (elapsed : Bool) (s : State) : State :=
  if elapsed then { s with host := { s.host with resp := s.elapsed % 2 ^ 64 } }
  else { s with host := { s.host with resp := s.nowLo } }.st .TIM_NOW_HI_sec [0] (tSec (tRound s.time.tE))

def execTimeRead (elapsed : Bool) (s : State) : Host.Outcome State Fault Refusal := doneReg false (doTimeRead elapsed) s

/-- A half's transmit timestamp queue (R195). -/
def State.txts (s : State) (h : Half) : List TxTs := match h with | .E => s.time.txtsE | .W => s.time.txtsW

/-- Replaces a half's transmit timestamp queue. -/
def State.setTxts (s : State) (h : Half) (q : List TxTs) : State :=
  match h with
  | .E => { s with time := { s.time with txtsE := q } }
  | .W => { s with time := { s.time with txtsW := q } }

/-- TXTS_ENTRY: the oldest entry that a half's lanes owe is written, or lost where the queue is full (R195, R196). -/
def doTxtsEntry (h : Half) (s : State) : State :=
  match s.time.txtsReq.find? (fun e => e.1 = h) with
  | none => s
  | some e =>
    let s := { s with time := { s.time with txtsReq := s.time.txtsReq.erase e } }
    let q := s.txts h
    if 256 ≤ q.length then
      (s.st (match h with | .E => .TIM_STAT_txts_ovf_e | .W => .TIM_STAT_txts_ovf_w) [0] 1).bump .TIM_CNT_v [0, h.n] 1
    else
      let s := s.setTxts h (q ++ [e.2])
      if q.isEmpty then s.raise 0x0034 h.n [(0, 1, h.n)] else s

def execTxtsEntry (h : Half) (s : State) : Host.Outcome State Fault Refusal := done (doTxtsEntry h s)

/-- TXTS_POP: a read of `TIM_TXTS_W1[h]` returns the rest of the head entry and pops it (R196). -/
def doTxtsPop (h : Half) (s : State) : State :=
  match s.txts h with
  | [] => { s with host := { s.host with resp := 0 } }
  | e :: q => { s.setTxts h q with host := { s.host with resp := tFrac e.t + tSec (tRound e.t) % 2 ^ 48 * 2 ^ 16 } }

def execTxtsPop (h : Half) (s : State) : Host.Outcome State Fault Refusal := doneReg false (doTxtsPop h) s

/-- TIO_EDGE: an edge at a timing pin in capture mode (R199). -/
def doTioEdge (pin : Nat) (rising : Bool) (s : State) : State :=
  let e := s.rd .TIM_TIO_CFG_edge [0, pin]
  let takes := s.rd .TIM_TIO_CFG_mode [0, pin] = 1 && bit e (if rising then 0 else 1)
  let near : Bool := match s.time.tioLast.get? [pin] with | some t => decide (s.elapsed < t + 16) | none => false
  if ¬ takes ∨ near then s
  else
    let s := { s with time := { s.time with tioLast := s.time.tioLast.set [pin] s.elapsed } }
    let q := s.time.tio.getD [pin] []
    if 16 ≤ q.length then s.bump .TIM_CNT_v [0, 7 + pin] 1
    else { s with time := { s.time with tio := s.time.tio.set [pin] (q ++ [(!rising, s.time.tE)]) } }

def execTioEdge (pin : Nat) (rising : Bool) (s : State) : Host.Outcome State Fault Refusal := done (doTioEdge pin rising s)

/-- TIO_CAP_POP: a read of `TIM_TIO_CAP_HI[n]` returns the rest of the head entry and pops it (R199). -/
def doTioCapPop (pin : Nat) (s : State) : State :=
  match s.time.tio.getD [pin] [] with
  | [] => { s with host := { s.host with resp := 0 } }
  | e :: q =>
    { s with
      time := { s.time with tio := s.time.tio.put [pin] q [] }
      host := { s.host with resp := tFrac e.2 + tSec (tRound e.2) % 2 ^ 48 * 2 ^ 16 } }

def execTioCapPop (pin : Nat) (s : State) : Host.Outcome State Fault Refusal := doneReg false (doTioCapPop pin) s

/-- The first instant of a pin's sequence at or after a time, in ns (R200). -/
def State.tioNext (s : State) (pin : Nat) (t : Ts) : Nat :=
  let st := s.rd .TIM_TIO_START_start_sec [0, pin] * 1000000000 + s.rd .TIM_TIO_OUT_start_ns [0, pin]
  let p := s.rd .TIM_TIO_CFG_period [0, pin]
  let n := ceilDiv t tsNs
  st + ceilDiv (n - st) p * p

/-- TIO_OUTPUT_EDGE: the next edge of a pin in output mode: its pulse ends, or its next pulse begins (R200). -/
def doTioOutputEdge (pin : Nat) (s : State) : State :=
  if s.rd .TIM_TIO_CFG_mode [0, pin] ≠ 2 ∨ s.tioBad pin then s
  else match s.time.tioHigh.get? [pin] with
    | some e =>
      let s := s.runTo e
      { s with time := { s.time with tioHigh := s.time.tioHigh.erase [pin], tioPin := s.time.tioPin.erase [pin] } }
    | none =>
      let x := s.tioNext pin (max (s.time.tioFirst.getD [pin] 0) (s.time.tE))
      let s := s.runUntil .E x
      { s with time := { s.time with
        tioPin := s.time.tioPin.set [pin] true
        tioHigh := s.time.tioHigh.set [pin] (s.elapsed + s.rd .TIM_TIO_OUT_width [0, pin])
        tioFirst := s.time.tioFirst.set [pin] (x * tsNs + 1) } }

def execTioOutputEdge (pin : Nat) (s : State) : Host.Outcome State Fault Refusal := done (doTioOutputEdge pin s)

end Sys2Proof.Machine
end

