-- ==== Sys2Proof/Machine/Toanton.lean ====
section
/-!
DEFINITION. Toanton in-network reduction (R232-R265): the accepted frame form, element formats and the fixed-point window, groups and blocks, contributions and acknowledgements, the result cache, emission, timers and the group descriptors.
-/

namespace Sys2Proof.Machine

/-- The ones' complement sum of 16-bit big-endian words, not folded. -/
def wordSum : List Byte → Nat
  | [] => 0
  | [a] => a.toNat * 256
  | a :: b :: t => a.toNat * 256 + b.toNat + wordSum t

/-- A sum folded to 16 bits. -/
def foldSum (x : Nat) : Nat := if x = 0 then 0 else (x - 1) % 65535 + 1

/-- The Internet checksum of a byte string. -/
def csum16 (bs : List Byte) : Nat := 65535 - foldSum (wordSum bs)

/-- A mantissa divided by a positive number, to the nearest integer with ties to even. -/
def roundHE (m d : Nat) : Nat :=
  let q := m / d
  let r := m % d
  if d < 2 * r ∨ (d = 2 * r ∧ q % 2 = 1) then q + 1 else q

/-- m times 2^k to the nearest integer with ties to even, and whether it is inexact. -/
def scaleHE (m : Nat) (k : Int) : Nat × Bool :=
  if 0 ≤ k then (m * 2 ^ k.toNat, false)
  else let d := 2 ^ (-k).toNat; (roundHE m d, decide (m % d ≠ 0))

/-- Bytes of an element (R240). -/
def elemSize (fmt : Nat) : Nat := match fmt with | 0 => 4 | 1 => 2 | 2 => 1 | 3 => 1 | 4 => 4 | _ => 0

/-- Elements per block at most (R240). -/
def elemMax (fmt : Nat) : Nat := match fmt with | 0 => 256 | 1 => 512 | 2 => 1024 | 3 => 1024 | 4 => 256 | _ => 0

/-- Exponent bits, fraction bits, and whether infinities exist, of a floating format (R240). -/
def fpShape (fmt : Nat) : Nat × Nat × Bool :=
  match fmt with | 0 => (8, 23, true) | 1 => (8, 7, true) | 2 => (4, 3, false) | _ => (5, 2, true)

/-- An element's value: sign, magnitude mantissa times a power of two; or an infinity or a NaN. -/
inductive Elem where
  | num (neg : Bool) (m : Nat) (e : Int)
  | inf (neg : Bool)
  | nan
deriving DecidableEq, Repr

/-- Reads an element (R240): subnormals at their exact value. -/
def decodeElem (fmt raw : Nat) : Elem :=
  if fmt = 4 then
    let i := signed 32 raw
    .num (decide (i < 0)) i.natAbs 0
  else
    let (eb, mb, ieee) := fpShape fmt
    let neg := bit raw (eb + mb)
    let ef := bits raw mb eb
    let man := bits raw 0 mb
    let bias : Int := ((2 ^ (eb - 1) : Nat) : Int) - 1
    if ef = 2 ^ eb - 1 ∧ ieee ∧ man ≠ 0 then .nan
    else if ef = 2 ^ eb - 1 ∧ ieee then .inf neg
    else if ef = 2 ^ eb - 1 ∧ man = 2 ^ mb - 1 then .nan
    else if ef = 0 then .num neg man (1 - bias - (mb : Int))
    else .num neg (2 ^ mb + man) ((ef : Int) - bias - (mb : Int))

/-- The flags of R253. -/
def flSat : Nat := 1
def flInexact : Nat := 2
def flNan : Nat := 4
def flOutOvf : Nat := 8
def flOutInexact : Nat := 16
def flErr : Nat := 128

/-- Converts an element to units of 2^lsb, saturated at M, with its flags (R250). -/
def convertElem (lsb : Int) (w : Nat) (x : Elem) : Int × Nat :=
  let mx := 2 ^ w - 1
  let sgn (neg : Bool) (q : Nat) : Int := if neg then -(q : Int) else (q : Int)
  match x with
  | .nan => (0, flNan)
  | .inf neg => (sgn neg mx, flSat)
  | .num neg m e =>
    let (q, inx) := scaleHE m (e - lsb)
    let f := if inx then flInexact else 0
    if mx < q then (sgn neg mx, f + flSat) else (sgn neg q, f)

/-- Rounds an accumulator once to an output format: bits and flags (R252). -/
def encodeElem (fmt : Nat) (lsb : Int) (a : Int) : Nat × Nat :=
  let m := a.natAbs
  let neg := decide (a < 0)
  if fmt = 4 then
    let (q, inx) := scaleHE m lsb
    let v : Int := if neg then -(q : Int) else (q : Int)
    if 2147483647 < v then (0x7FFFFFFF, flOutOvf + flOutInexact)
    else if v < -2147483648 then (0x80000000, flOutOvf + flOutInexact)
    else (unsigned 32 v, if inx then flOutInexact else 0)
  else
    let (eb, mb, ieee) := fpShape fmt
    let sign := if neg then 2 ^ (eb + mb) else 0
    if m = 0 then (0, 0)
    else
      let bias : Int := ((2 ^ (eb - 1) : Nat) : Int) - 1
      let e := max ((Nat.log2 m : Int) + lsb) (1 - bias)
      let (n, inx) := scaleHE m (lsb - (e - (mb : Int)))
      let (n, e) := if n = 2 ^ (mb + 1) then (2 ^ mb, e + 1) else (n, e)
      let top : Int := if ieee then bias else bias + 1
      let big := decide (top < e) || (!ieee && decide (e = top) && decide (n = 2 ^ (mb + 1) - 1))
      if big then
        (sign + (if ieee then (2 ^ eb - 1) * 2 ^ mb else (2 ^ eb - 1) * 2 ^ mb + 2 ^ mb - 2), flOutOvf + flOutInexact)
      else
        let f := if inx then flOutInexact else 0
        if n < 2 ^ mb then (sign + n, f) else (sign + (e + bias).toNat * 2 ^ mb + (n - 2 ^ mb), f)

/-- What a unit reads from a frame (R236, R237); `bad` when the frame has not the accepted form. -/
structure ToaHdr where
  bad : Bool
  op : Nat
  fmt : Nat
  group : Nat
  inc : Nat
  member : Nat
  block : Nat
  count : Nat
  ip6 : Bool
  src : Nat
  payload : List Byte
deriving DecidableEq, Repr

/-- The IP header after up to two VLAN tags (R236): its offset and EtherType. -/
def toaIp (bs : List Byte) : Nat × Nat :=
  let t (o : Nat) : Bool := let x := be bs o 2; x = 0x8100 || x = 0x88A8
  if t 12 then (if t 16 then (22, be bs 20 2) else (18, be bs 16 2)) else (14, be bs 12 2)

/-- Reads a frame as a Toanton frame (R236, R237): none where no header can be read. -/
def toaParse (port : Nat) (chk : Bool) (frame : List Byte) : Option ToaHdr :=
  let stop := frame.length - 4
  let bs := frame.take stop
  let (ip, et) := toaIp bs
  let six := decide (et = 0x86DD)
  let l4 := ip + if six then 40 else 20
  let t := l4 + 8
  if (et ≠ 0x0800 ∧ et ≠ 0x86DD) ∨ stop < t + 16 then none
  else
    let ipBad := if six then decide (byteAt bs ip / 16 ≠ 6) || decide (byteAt bs (ip + 6) ≠ 17)
      else decide (byteAt bs ip ≠ 0x45) || decide (be bs (ip + 6) 2 % 2 ^ 14 ≠ 0) || decide (byteAt bs (ip + 9) ≠ 17)
    let ul := be bs (l4 + 4) 2
    let cs := be bs (l4 + 6) 2
    let seg := slice bs l4 ul
    let pseudo := if six then slice bs (ip + 8) 32 ++ beBytes 4 ul ++ [0, 0, 0, 17]
      else slice bs (ip + 12) 8 ++ [0, 17] ++ beBytes 2 ul
    let csBad := if cs = 0 then six else chk && decide (foldSum (wordSum (pseudo ++ seg)) ≠ 65535)
    let fmt := byteAt bs (t + 1)
    let count := be bs (t + 12) 2
    let op := byteAt bs t % 16
    let sz := elemSize (fmt % 16)
    let bad := ipBad || decide (be bs (l4 + 2) 2 ≠ port) || decide (ul < 24) || decide (stop < l4 + ul) || csBad
      || decide (byteAt bs t / 16 ≠ 1) || (op ≠ 1 && op ≠ 3) || decide (be bs (t + 2) 2 ≥ 4096) || decide (be bs (t + 6) 2 ≥ 1024)
      || decide (byteAt bs (t + 14) ≠ 0) || decide (byteAt bs (t + 15) ≠ 0) || (decide (count ≠ 0) && decide (sz = 0))
      || decide (ul ≠ 24 + count * sz)
    some ⟨bad, op, fmt, be bs (t + 2) 2 % 4096, be bs (t + 4) 2, be bs (t + 6) 2, be bs (t + 8) 4, count, six,
      if six then be bs (ip + 8) 16 else be bs (ip + 12) 4, slice bs (t + 16) (count * sz)⟩

/-- A frame read with a unit's configuration. -/
def State.toaRead (s : State) (u : Nat) (f : Frame) : Option ToaHdr :=
  toaParse (s.rd .TOA_CFG_udp_port [u]) (s.on .TOA_CFG_csum_chk [u]) f.bytes

/-- The group record of an id. -/
def State.grp (s : State) (g : Nat) : Grp := s.toa.grp.getD [g] Grp.reset

/-- Replaces a group record. -/
def State.setGrp (s : State) (g : Nat) (x : Grp) : State := { s with toa := { s.toa with grp := s.toa.grp.put [g] x Grp.reset } }

/-- Granules of one slot of a group (R248). -/
def slotGran (g : Grp) : Nat := ceilDiv (g.blkElems * 16) 4096

/-- The block record of a block number, FREE where none is kept (R247). -/
def Grp.blk (g : Grp) (b : Nat) : Blk := g.blks.getD [b] Blk.reset

/-- A block that holds a slot. -/
def Blk.held (b : Blk) : Bool := b.st = .accum || b.st = .cached

/-- Slots held by a group. -/
def Grp.slots (g : Grp) : Nat := (g.blks.filter (fun e => e.2.held)).length

/-- The window moves past DONE blocks (R247). -/
def Grp.advance (g : Grp) : Nat → Grp
  | 0 => g
  | n + 1 => if (g.blk g.base).st = .done then Grp.advance { g with blks := g.blks.erase [g.base], base := (g.base + 1) % 2 ^ 32 } n else g

/-- A slot is taken or returned: the unit's and the slice's use (R248). -/
def State.slotMove (s : State) (g : Grp) (take : Bool) : State :=
  let n := slotGran g
  if take then
    ((s.lower .TOA_UNIT_STAT_gran_free [g.unit] n).bump .TOA_UNIT_STAT_blocks [g.unit] 1).bump .TOA_SLICE_USE_granules [32, g.slice] n
  else
    ((s.bump .TOA_UNIT_STAT_gran_free [g.unit] n).lower .TOA_UNIT_STAT_blocks [g.unit] 1).lower .TOA_SLICE_USE_granules [32, g.slice] n

/-- A block becomes DONE: its slot is freed and the window advances (R249). -/
def State.blockDone (s : State) (gid b : Nat) (g : Grp) : State :=
  let g1 := { g with blks := g.blks.set [b] { (g.blk b) with st := .done, acc := [], result := [] } }
  (s.slotMove g false).setGrp gid (g1.advance 257)

/-- Queues a frame for emission by a unit (R257). -/
def State.toaEmit (s : State) (u : Nat) (e : Emit) : State :=
  { s with toa := { s.toa with emitQ := s.toa.emitQ.set [u] (s.toa.emitQ.getD [u] [] ++ [e]) } }

/-- Takes a frame out of the device: a unit takes it whole, and its reference count is released (R234). -/
def State.toaTake (s : State) (u : Nat) (f : Frame) : State :=
  (s.release (Half.of (u / 16)) f).delFr f.id

/-- A frame dropped at a unit under one of its counters (R255, R281). -/
def State.toaDrop (s : State) (u cnt : Nat) (f : Frame) : State :=
  ((s.bump .TOA_UNIT_CNT_v [u, cnt] 1).dropCount (Half.of (u / 16)) 0x12 f true).toaTake u f

/-- Sends a NAK where the group allows it (R255). -/
def State.toaNak (s : State) (u gid : Nat) (g : Grp) (x : ToaHdr) (reason : Nat) : State :=
  if g.nakEn then s.toaEmit u ⟨gid, x.member, 4, x.block, 0, 0, reason, []⟩ else s

/-- Adds an uncorrectable error to a block: ERR, ECC_BLOCK and TOA_ECC once (R259). -/
def State.toaErr (s : State) (u gid b : Nat) (g : Grp) (k : Blk) : Blk × State :=
  if flErr ≤ k.flags then (k, s)
  else
    ({ k with flags := k.flags + flErr },
      (s.bump .TOA_UNIT_CNT_v [u, 17] 1).raise 0x0052 (u / 16) [(0, 1, u), (2, 2, gid), (4, 4, b)] (some (g.slice + 1)))

/-- The words of a slot that the accumulators of a block take, two for each 16-byte element (R248). -/
def accWords (k : Blk) : Nat := 2 * k.count

/-- The words of a slot that the result of a complete block takes: the slot's first bytes (R240, R257). -/
def resWords (g : Grp) (k : Blk) : Nat := ceilDiv (k.count * elemSize g.fmtOut) 8

/-- Reads the first words of a block's slot (R404): whether one is poisoned. -/
def State.toaScratch (s : State) (u gid b words : Nat) : Bool × State :=
  (List.range words).foldl (fun (a : Bool × State) i =>
    let x := a.2.eccReadAt (Half.of (u / 16)) 4 (u % 16) [gid, b, i] (pmcDev 3 u 0 0)
    (a.1 || x.1, x.2)) (false, s)

/-- Writes the first words of a block's slot, which clears their errors (R404). -/
def State.toaWrite (s : State) (u gid b words : Nat) : State :=
  (List.range words).foldl (fun s i => s.eccClearAt (Half.of (u / 16)) 4 (u % 16) [gid, b, i]) s

/-- Adds a contribution to the accumulators (R250). -/
def addElems (lsb : Int) (w fmt : Nat) (payload : List Byte) (acc : List Int) : List Int × Nat :=
  let sz := elemSize fmt
  let qs := (List.range acc.length).map (fun i => convertElem lsb w (decodeElem fmt (le payload (sz * i) sz)))
  ((acc.zip qs).map (fun p => p.1 + p.2.1), qs.foldl (fun f q => f ||| q.2) 0)

/-- Rounds the accumulators once into the result (R252). -/
def roundElems (lsb : Int) (fmt : Nat) (acc : List Int) : List Byte × Nat :=
  let rs := acc.map (encodeElem fmt lsb)
  (rs.flatMap (fun r => leBytes (elemSize fmt) r.1), rs.foldl (fun f r => f ||| r.2) 0)

/-- The payload of a block's RESULT frames: zeros under ERR (R259). -/
def resultBytes (k : Blk) : List Byte := if flErr ≤ k.flags then List.replicate k.result.length 0 else k.result

/-- A contribution to a block in ACCUM (R255, R252, R257). -/
def State.toaAccum (s : State) (u gid : Nat) (g : Grp) (k : Blk) (x : ToaHdr) (f : Frame) : State :=
  if x.count ≠ k.count then s.toaDrop u 7 f
  else if k.data.contains x.member then (s.setGrp gid { g with dups := g.dups + 1 }).toaDrop u 1 f
  else
    let (bad, s) := s.toaScratch u gid x.block (accWords k)
    let (acc, fl) := addElems g.winLsb (g.winTop - g.winLsb).toNat g.fmtIn x.payload k.acc
    let s := s.toaWrite u gid x.block (accWords k)
    let k := { k with acc := acc, flags := k.flags ||| fl, data := k.data ++ [x.member] }
    let (k, s) := if bad then s.toaErr u gid x.block g k else (k, s)
    let s := s.bump .TOA_UNIT_CNT_v [u, 0] 1
    if k.data.length < g.members then (s.setGrp gid { g with blks := g.blks.set [x.block] k }).toaTake u f
    else
      let (res, ofl) := roundElems g.winLsb g.fmtOut k.acc
      let k := { k with st := .cached, acc := [], flags := k.flags ||| ofl, result := res, t0 := s.elapsed }
      let s := (s.toaWrite u gid x.block (resWords g k)).bump .TOA_UNIT_CNT_v [u, 9] 1
      let sat := k.flags % 2 = 1
      let s := if sat then s.bump .TOA_UNIT_CNT_v [u, 14] 1 else s
      let g := { g with
        blks := g.blks.set [x.block] k
        satB := g.satB + b2n sat
        inexB := g.inexB + b2n (bit k.flags 1) }
      let s := s.setGrp gid g
      ((List.range g.members).foldl (fun s m => s.toaEmit u ⟨gid, m, 2, x.block, k.count, k.flags, 0, resultBytes k⟩) s).toaTake u f

/-- DATA of an open group (R255). -/
def State.toaDataAt (s : State) (u gid : Nat) (g : Grp) (x : ToaHdr) (f : Frame) : State :=
  let d := (x.block + 2 ^ 32 - g.base) % 2 ^ 32
  let k := g.blk x.block
  if x.fmt ≠ g.fmtIn + 16 * g.fmtOut ∨ x.count = 0 ∨ g.blkElems < x.count then s.toaDrop u 7 f
  else if 2 ^ 31 ≤ d then (s.toaNak u gid g x 1).toaDrop u 3 f
  else if 256 ≤ d then (s.toaNak u gid g x 3).toaDrop u 4 f
  else match k.st with
    | .free =>
      let n := slotGran g
      if g.maxBlocks ≤ g.slots ∨ s.rd .TOA_UNIT_STAT_gran_free [u] < n
          ∨ s.rd .TOA_SLICE_CFG_max_granules [u, g.slice] < s.rd .TOA_SLICE_USE_granules [32, g.slice] + n then
        ((s.setGrp gid { g with noSlot := g.noSlot + 1 }).toaNak u gid g x 2).toaDrop u 2 f
      else
        let k1 : Blk := ⟨.accum, [], [], x.count, 0, List.replicate x.count 0, [], s.elapsed, false⟩
        let s := (s.slotMove g true).toaWrite u gid x.block (accWords k1)
        s.toaAccum u gid { g with blks := g.blks.set [x.block] k1 } k1 x f
    | .accum => s.toaAccum u gid g k x f
    | .cached =>
      if k.ack.contains x.member then (s.setGrp gid { g with dups := g.dups + 1 }).toaDrop u 1 f
      else
        let s := s.bump .TOA_UNIT_CNT_v [u, 10] 1
        (s.toaEmit u ⟨gid, x.member, 2, x.block, k.count, k.flags, 0, resultBytes k⟩).toaTake u f
    | .done => (s.toaNak u gid g x 1).toaDrop u 3 f

/-- ACK of an open group (R255). -/
def State.toaAckAt (s : State) (u gid : Nat) (g : Grp) (x : ToaHdr) (f : Frame) : State :=
  let d := (x.block + 2 ^ 32 - g.base) % 2 ^ 32
  let k := g.blk x.block
  if x.count ≠ 0 ∨ x.fmt ≠ g.fmtIn + 16 * g.fmtOut then s.toaDrop u 7 f
  else if 256 ≤ d ∨ k.st ≠ .cached ∨ k.ack.contains x.member then (s.bump .TOA_UNIT_CNT_v [u, 11] 1).toaTake u f
  else
    let k := { k with ack := k.ack ++ [x.member] }
    let g := { g with blks := g.blks.set [x.block] k }
    if k.ack.length < g.members then (s.setGrp gid g).toaTake u f
    else (s.blockDone gid x.block { g with done := g.done + 1 }).toaTake u f

/-- The first frame of a unit's input FIFO (R255, R256). -/
def State.toaHead (s : State) (u : Nat) : Option Frame := s.frames.find? (fun f => f.loc = .toa && f.unit = u)

/-- Replaced member entries of a unit's groups take effect as it handles a frame (R246). -/
def State.toaRenew (s : State) (u : Nat) : State :=
  { s with toa := { s.toa with grp := s.toa.grp.map (fun (e : List Nat × Grp) =>
    if e.2.unit = u ∧ e.2.memNext ≠ [] then (e.1, { e.2 with mem := e.2.memNext.foldl (fun (m : SMap Member) x => m.set x.1 x.2) e.2.mem, memNext := [] }) else e) } }

/-- The checks common to DATA and ACK, and the operation (R234, R236, R255). A frame whose unit is not home to its group is counted before its form is looked at (R234). -/
def State.toaHandle (s : State) (u : Nat) (f : Frame) (x : Option ToaHdr) : State :=
  let s := s.toaRenew u
  if ¬ s.on .TOA_CFG_en [u] then s.toaDrop u 5 f
  else match x with
    | none => s.toaDrop u 7 f
    | some x =>
      let g := s.grp x.group
      let m := g.mem.get? [x.member]
      if g.st ≠ 1 ∨ g.unit ≠ u then s.toaDrop u (if g.st = 1 ∧ g.unit / 2 ≠ u / 2 then 8 else 5) f
      else if x.bad then s.toaDrop u 7 f
      else if x.inc ≠ g.inc then s.toaDrop u 5 f
      else
        let ipOk : Bool := match m with | some e => x.ip6 = g.ip6 && x.src = e.ip | none => false
        if f.slice ≠ g.slice ∨ g.members ≤ x.member ∨ ¬ ipOk then s.toaDrop u 6 f
        else if x.op = 1 then s.toaDataAt u x.group g x f else s.toaAckAt u x.group g x f

/-- TOA_DATA: the unit handles its first frame, unless that frame is an ACK (R255). -/
def doToaData (u : Nat) (s : State) : State :=
  match s.toaHead u with
  | none => s
  | some f =>
    let x := s.toaRead u f
    match x with
    | some y => if y.op = 3 ∧ ¬ y.bad then s else s.toaHandle u f x
    | none => s.toaHandle u f x

def execToaData (u : Nat) (s : State) : Host.Outcome State Fault Refusal := done (doToaData u s)

/-- TOA_ACK: the unit handles its first frame, unless that frame is DATA (R255). -/
def doToaAck (u : Nat) (s : State) : State :=
  match s.toaHead u with
  | none => s
  | some f =>
    let x := s.toaRead u f
    match x with
    | some y => if y.op = 1 ∧ ¬ y.bad then s else s.toaHandle u f x
    | none => s.toaHandle u f x

def execToaAck (u : Nat) (s : State) : Host.Outcome State Fault Refusal := done (doToaAck u s)

/-- The home unit of a frame at a pair's input: the first unit of the pair where neither is home (R234). -/
def State.toaHome (s : State) (k : Nat) (f : Frame) : Nat :=
  match s.toaRead (2 * k) f with
  | some x => let g := s.grp x.group; if g.st ≠ 0 ∧ g.unit / 2 = k then g.unit else 2 * k
  | none => 2 * k

/-- The bytes of a frame that a unit sends (R237, R243). -/
def toaFrame (gid : Nat) (g : Grp) (m : Member) (e : Emit) : List Byte :=
  let toa := [byteOf (16 + e.op), byteOf (g.fmtIn + 16 * g.fmtOut)] ++ beBytes 2 gid ++ beBytes 2 g.inc ++ beBytes 2 e.member
    ++ beBytes 4 e.block ++ beBytes 2 e.count ++ [byteOf e.flags, byteOf e.reason]
  let ul := 8 + toa.length + e.payload.length
  let tos := g.dscp * 4 + 2
  let udp (c : Nat) : List Byte := beBytes 2 g.srcUdp ++ beBytes 2 m.udp ++ beBytes 2 ul ++ beBytes 2 c ++ toa ++ e.payload
  let pseudo := if g.ip6 then beBytes 16 g.srcIp ++ beBytes 16 m.ip ++ beBytes 4 ul ++ [0, 0, 0, 17]
    else beBytes 4 g.srcIp ++ beBytes 4 m.ip ++ [0, 17] ++ beBytes 2 ul
  let c := csum16 (pseudo ++ udp 0)
  let ip4 (c : Nat) : List Byte := [0x45, byteOf tos] ++ beBytes 2 (20 + ul) ++ [0, 0, 0x40, 0, byteOf g.ttl, 17] ++ beBytes 2 c ++ beBytes 4 g.srcIp ++ beBytes 4 m.ip
  let ip := if g.ip6 then beBytes 4 (6 * 2 ^ 28 + tos * 2 ^ 20) ++ beBytes 2 ul ++ [17, byteOf g.ttl] ++ beBytes 16 g.srcIp ++ beBytes 16 m.ip
    else ip4 (csum16 (ip4 0))
  withFcs (beBytes 6 m.mac ++ beBytes 6 g.srcMac
    ++ (if m.tagged then [0x81, 0x00] ++ beBytes 2 (m.pcp * 8192 + m.vid) else [])
    ++ beBytes 2 (if g.ip6 then 0x86DD else 0x0800) ++ ip ++ udp (if c = 0 then 65535 else c))

/-- A RESULT frame takes its payload and flags from the first bytes of the block's slot as it is sent, while the slot holds the result (R257, R259). -/
def State.toaFetch (s : State) (u : Nat) (e : Emit) : Emit × State :=
  let g := s.grp e.group
  let k := g.blk e.block
  if e.op ≠ 2 ∨ k.st ≠ .cached then (e, s)
  else
    let (bad, s) := s.toaScratch u e.group e.block (resWords g k)
    let (k, s) := if bad then s.toaErr u e.group e.block g k else (k, s)
    let s := if bad then s.setGrp e.group { g with blks := g.blks.set [e.block] k } else s
    ({ e with flags := k.flags, payload := resultBytes k }, s)

/-- TOA_RESULT_EMIT: a unit's first waiting RESULT or NAK enters ingress through its reduction port, once no frame waits at that port's input (R27, R243, R257, R261). -/
def doToaResultEmit (u : Nat) (s : State) : State :=
  match s.toa.emitQ.getD [u] [] with
  | [] => s
  | e :: q =>
    if ¬ s.portClear (1072 + u / 2) then s
    else
    let s := { s with toa := { s.toa with emitQ := s.toa.emitQ.put [u] q [] } }
    let (e, s) := s.toaFetch u e
    let g := s.grp e.group
    let s := if e.op = 4 then s.bump .TOA_UNIT_CNT_v [u, 13] 1 else s
    match g.mem.get? [e.member] with
    | some m => s.addFr (Frame.atPort (toaFrame e.group g m e) (1072 + u / 2) g.slice g.resTc)
    | none => s

def execToaResultEmit (u : Nat) (s : State) : Host.Outcome State Fault Refusal := done (doToaResultEmit u s)

/-- The members of a group outside a list: how many, and the lowest. -/
def missing (g : Grp) (have_ : List Nat) : Nat × Nat :=
  let l := (List.range g.members).filter (fun m => !have_.contains m)
  (l.length, l.headD 0)

/-- Raises a block event of a group (R264). -/
def State.toaEvent (s : State) (code gid b : Nat) (g : Grp) (have_ : List Nat) : State :=
  let m := missing g have_
  s.raise code (g.unit / 16) [(0, 2, gid), (4, 4, b), (8, 2, m.1), (10, 2, m.2)] (some (g.slice + 1))

/-- TOA_STALL_TIMER: a block in ACCUM reaches `stall_us` (R249). The timer is the unit's own. -/
def doToaStallTimer (gid b : Nat) (s : State) : State :=
  let g := s.grp gid
  let k := g.blk b
  if g.st ≠ 1 ∨ k.st ≠ .accum ∨ k.stalled ∨ g.stallUs = 0 then s
  else
    let s := s.runTo (k.t0 + g.stallUs * 1000)
    let s := (s.setGrp gid { g with blks := g.blks.set [b] { k with stalled := true } }).bump .TOA_UNIT_CNT_v [g.unit, 15] 1
    if g.stallEvt then s.toaEvent 0x0050 gid b g k.data else s

def execToaStallTimer (gid b : Nat) (s : State) : Host.Outcome State Fault Refusal := done (doToaStallTimer gid b s)

/-- TOA_RETAIN_EXPIRY: the retention of a cached result ends (R249), on an engine of the TOA_CTL routine (R302). -/
def doToaRetainExpiry (gid b : Nat) (s : State) : State :=
  let g := s.grp gid
  let k := g.blk b
  if g.st ≠ 1 ∨ k.st ≠ .cached then s
  else (s.runTo (k.t0 + g.retainUs * 1000)).viaRoutine (Half.of (g.unit / 16)) 7 [BitVec.ofNat 64 gid, BitVec.ofNat 64 b] fun s =>
    let s := s.bump .TOA_UNIT_CNT_v [g.unit, 12] 1
    let s := s.blockDone gid b { g with expired := g.expired + 1 }
    if g.retainEvt then s.toaEvent 0x0051 gid b g k.ack else s

def execToaRetainExpiry (gid b : Nat) (s : State) : Host.Outcome State Fault Refusal := done (doToaRetainExpiry gid b s)

/-- A member entry of 32 bytes (R242): none where a reserved field is not zero. -/
def memberOf (ip6 : Bool) (bs : List Byte) : Option Member :=
  let v := le bs 0 32
  if bits v 208 48 ≠ 0 ∨ (¬ ip6 ∧ bits v 96 96 ≠ 0) then none
  else some ⟨bits v 0 48, bits v 48 12, bits v 60 3, bit v 63, bits v 64 128, bits v 192 16⟩

/-- The parameter block of 64 bytes (R241) with the member entries: none where a field is out of range. The group id comes first. -/
def groupOf (bs : List Byte) : Option (Nat × Grp) :=
  let f (o n : Nat) : Nat := le bs o n
  let n := f 4 2
  let fi := f 6 1 % 16
  let fo := f 6 1 / 16
  let fl := f 7 1
  let lsb := signed 16 (f 10 2)
  let top := signed 16 (f 12 2)
  let ip6 := bit fl 1
  let ok := decide (64 + 32 * n ≤ bs.length) && decide (f 0 2 < 4096) && decide (f 2 1 < 64) && decide (f 3 1 < 32)
    && decide (1 ≤ n) && decide (n ≤ 1024) && decide (fi ≤ 4) && decide (fo ≤ 4) && decide (fl < 16)
    && decide (1 ≤ f 8 2) && decide (f 8 2 ≤ elemMax fi) && decide (-160 ≤ lsb) && decide (lsb ≤ 127)
    && decide (lsb + 1 ≤ top) && decide (top ≤ min (lsb + 116) 128) && decide (1 ≤ f 14 2) && decide (f 14 2 ≤ 256)
    && decide (1 ≤ f 16 4) && decide (f 16 4 ≤ 10000000) && decide (f 30 1 < 64) && (ip6 || f 36 12 = 0)
    && decide (f 50 1 < 8) && f 51 1 = 0 && f 56 8 = 0
  let ms := (List.range n).map (fun i => memberOf ip6 (slice bs (64 + 32 * i) 32))
  if ¬ ok ∨ ms.any (fun m => m.isNone) then none
  else
    let mem := (List.range n).filterMap (fun i => ((ms.getD i none)).map (fun m => ([i], m)))
    some (f 0 2, { Grp.reset with
      st := 1, slice := f 2 1, unit := f 3 1, members := n, fmtIn := fi, fmtOut := fo
      nakEn := bit fl 0, ip6 := ip6, stallEvt := bit fl 2, retainEvt := bit fl 3
      blkElems := f 8 2, winLsb := lsb, winTop := top, maxBlocks := f 14 2, retainUs := f 16 4, stallUs := f 20 4
      srcMac := f 24 6, dscp := f 30 1, ttl := f 31 1, srcIp := f 32 16, srcUdp := f 48 2, resTc := f 50 1
      base := f 52 4, mem := mem })

/-- TOA_GROUP_OPEN (R241, R244, R245). -/
def doToaGroupOpen (d : Hdr) (s : State) : State :=
  s.serve d ⟨0x50, .config, true, true, 0⟩ true (cleanHdr d false false true) fun s => s.withBuf d fun bs =>
    if d.fn ≠ 0 ∧ le bs 2 1 ≠ fnSlice d.fn then s.reject d 0x10
    else match groupOf bs with
      | none => s.fail d stParam
      | some (gid, g) =>
        let o := s.grp gid
        if o.st ≠ 0 then s.reject d (if o.st = 1 then 0x40 else 0x42)
        else if s.rd .TOA_SLICE_CFG_max_groups [g.unit, g.slice] < s.rd .TOA_SLICE_USE_groups [32, g.slice] + 1
            ∨ s.rd .TOA_SLICE_CFG_max_members [g.unit, g.slice] < s.rd .TOA_SLICE_USE_members [32, g.slice] + g.members then s.fail d 0x11
        else if s.rd .TOA_UNIT_STAT_mem_free [g.unit] < g.members then s.fail d 0x10
        else
          let inc := if o.inc = 65535 then 1 else o.inc + 1
          let s := s.setGrp gid { g with inc := inc }
          let s := (s.bump .TOA_SLICE_USE_groups [32, g.slice] 1).bump .TOA_SLICE_USE_members [32, g.slice] g.members
          ((s.lower .TOA_UNIT_STAT_mem_free [g.unit] g.members).bump .TOA_UNIT_STAT_groups [g.unit] 1).ok d inc

def execToaGroupOpen (d : Hdr) (s : State) : Host.Outcome State Fault Refusal := doneDesc (.toaGroupOpen (bareHdr d)) d (doToaGroupOpen d) s

/-- A function may name a group (R263, R353). -/
def State.ownGroup (s : State) (d : Hdr) (gid : Nat) : Bool := d.fn = 0 || (decide ((s.grp gid).inc ≠ 0) && (s.grp gid).slice = fnSlice d.fn)

/-- TOA_GROUP_CLOSE: every block is freed and the group closes (R244). -/
def doToaGroupClose (d : Hdr) (gid : Nat) (s : State) : State :=
  s.serve d ⟨0x51, .config, true, true, 0⟩ (s.ownGroup d gid) (cleanHdr d false false false && decide (gid < 4096)) fun s =>
    let g := s.grp gid
    if g.st ≠ 1 then s.reject d (if g.st = 0 then 0x41 else 0x42)
    else
      let n := g.slots
      let s := (List.range n).foldl (fun s _ => s.slotMove g false) s
      let s := s.bump .TOA_UNIT_CNT_v [g.unit, 16] n
      let s := { s with toa := { s.toa with emitQ := s.toa.emitQ.put [g.unit] ((s.toa.emitQ.getD [g.unit] []).filter (fun e => e.group ≠ gid)) [] } }
      s.setGrp gid { g with st := 2, blks := [], memNext := [], closeDesc := some d, discarded := n }

def execToaGroupClose (d : Hdr) (gid : Nat) (s : State) : Host.Outcome State Fault Refusal := doneDesc (.toaGroupClose (bareHdr d) gid) d (doToaGroupClose d gid) s

/-- TOA_CLOSE_DONE: a closing group is closed; its entries and quotas are returned (R244), on an engine of the TOA_CTL routine (R302). -/
def doToaCloseDone (gid : Nat) (s : State) : State :=
  let g := s.grp gid
  if g.st ≠ 2 then s
  else s.viaRoutine (Half.of (g.unit / 16)) 7 [BitVec.ofNat 64 gid] fun s =>
    let s := (s.lower .TOA_SLICE_USE_groups [32, g.slice] 1).lower .TOA_SLICE_USE_members [32, g.slice] g.members
    let s := (s.bump .TOA_UNIT_STAT_mem_free [g.unit] g.members).lower .TOA_UNIT_STAT_groups [g.unit] 1
    let s := s.setGrp gid { g with st := 0, mem := [], closeDesc := none }
    match g.closeDesc with
    | some d => s.ok d g.discarded
    | none => s

def execToaCloseDone (gid : Nat) (s : State) : Host.Outcome State Fault Refusal := done (doToaCloseDone gid s)

/-- TOA_MEMBER_SET: the entry applies from the next frame that the unit handles (R246). -/
def doToaMemberSet (d : Hdr) (gid member : Nat) (s : State) : State :=
  s.serve d ⟨0x52, .config, true, true, 0⟩ (s.ownGroup d gid) (cleanHdr d false false true && decide (gid < 4096)) fun s => s.withBuf d fun bs =>
    let g := s.grp gid
    if g.st ≠ 1 then s.reject d (if g.st = 0 then 0x41 else 0x42)
    else match memberOf g.ip6 bs with
      | none => s.fail d stParam
      | some m =>
        if g.members ≤ member then s.fail d stParam
        else (s.setGrp gid { g with memNext := g.memNext.set [member] m }).ok d 0

def execToaMemberSet (d : Hdr) (gid member : Nat) (s : State) : Host.Outcome State Fault Refusal := doneDesc (.toaMemberSet (bareHdr d) gid member) d (doToaMemberSet d gid member) s

/-- The status record of a group (R263). -/
def groupRecord (g : Grp) : List Byte :=
  record 64 [(0, 1, g.st), (1, 1, g.unit), (2, 2, g.inc), (4, 4, g.base), (8, 2, g.slots), (16, 8, g.done), (24, 8, g.expired),
    (32, 8, g.satB), (40, 8, g.inexB), (48, 8, g.dups), (56, 8, g.noSlot)]

/-- TOA_GROUP_READ (R263). -/
def doToaGroupRead (d : Hdr) (gid : Nat) (s : State) : State :=
  s.serve d ⟨0x53, .reads, false, true, 0⟩ (s.ownGroup d gid) (cleanHdr d false false true && decide (gid < 4096)) fun s =>
    match d.buf with
    | none => (s.fail d stDma).bump .HST_CNT_v [0, 3] 1
    | some _ => (s.hostWrite d.haddr (groupRecord (s.grp gid))).ok d 0

def execToaGroupRead (d : Hdr) (gid : Nat) (s : State) : Host.Outcome State Fault Refusal := doneDesc (.toaGroupRead (bareHdr d) gid) d (doToaGroupRead d gid) s

end Sys2Proof.Machine
end

