-- ==== Sys2Proof/Machine/Egress.lean ====
section
/-!
DEFINITION. Steps 13 to 15 of the frame path (R32): the deparser (R67), telemetry insertion and export (R270, R271), egress mirror copies (R276), recirculation (R36-R39), transmit counters (R279, R280), and transmission with its timestamp and PTP requests (R187, R188, R191-R195, R204).
-/

namespace Sys2Proof.Machine

/-- Which length check the parser graph gives a header type (R59): 1 IPv4, 2 IPv6, 3 UDP, 4 TCP, 0 none known (log entry 25). -/
def typeKind (p : Prog) (typ : Nat) : Nat :=
  ((p.states.find? (fun e => bits e.2 0 6 = typ && decide (bits e.2 100 3 ≠ 0))).map (fun e => bits e.2 100 3)).getD 0

/-- One move of an extraction map applied in reverse (R50, R67): a valid container overwrites its bytes of the header. A move whose container is not valid leaves the bytes as they are: the original ones, or zeros in an inserted header (DESIGN CHOICE: log entry 25). -/
def moveOut (f : Frame) (e : Nat) (hdr : List Byte) (i : Nat) : List Byte :=
  let m := bits e (32 * i) 32
  let cls := bits m 9 2
  if ¬ bit m 18 ∨ ¬ ctrOk cls (bits m 11 7) then hdr
  else match f.ctr.get? [cls, bits m 11 7] with
    | some v => overlay hdr (bits m 0 9) (beBytes (2 ^ cls) v)
    | none => hdr

/-- An extraction map and its chained entries in reverse (R67). -/
def moveBack (p : Prog) (f : Frame) : Nat → Nat → List Byte → List Byte
  | 0, _, hdr => hdr
  | n + 1, x, hdr =>
    let e := p.xmap.getD [x] 0
    let hdr := (List.range 8).foldl (moveOut f e) hdr
    if bit e 255 then moveBack p f n ((x + 1) % 512) hdr else hdr

/-- A header on its way out: its table entry's number, type, original offset and bytes (none for an inserted header), emitted bytes, and the flags of its deparse list entry. -/
structure OutHdr where
  ent : Nat
  typ : Nat
  orig : Option (Nat × List Byte)
  bytes : List Byte
  csum4 : Bool
  csumL4 : Bool
deriving DecidableEq, Repr

/-- The headers in the order of the deparse list (R67); a header of the telemetry type is the record (R270). -/
def outHdrs (p : Prog) (f : Frame) (telType : Nat) (rec_ : List Byte) : List OutHdr :=
  (List.range 32).flatMap (fun i =>
    let d := p.dep.getD [i] 0
    if ¬ bit d 25 then []
    else
      let typ := bits d 0 6
      ((List.range 24).zip f.hdrs).filterMap (fun x =>
        let e := x.2
        if ¬ e.valid ∨ e.typ ≠ typ then none
        else if typ = telType ∧ typ ≠ 63 then some ⟨x.1, typ, none, rec_, false, false⟩
        else
          let o := slice f.bytes e.off e.len
          let start := if x.1 < 16 then o else List.replicate (bits d 15 10) 0
          some ⟨x.1, typ, if x.1 < 16 then some (e.off, o) else none, moveBack p f 512 (bits d 6 9) start, bit d 26, bit d 27⟩))

/-- The IPv4 header checksum recomputed (R67). -/
def fixIp4 (h : List Byte) : List Byte := let z := overlay h 10 [0, 0]; overlay z 10 (beBytes 2 (csum16 z))

/-- The pseudo-header sum of an IP header of a kind, without the length. -/
def pseudoSum (kind : Nat) (ip : List Byte) (proto : Nat) : Nat :=
  (if kind = 1 then wordSum (slice ip 12 8) else wordSum (slice ip 8 32)) + proto

/-- The bytes of L4 that an IP header announces, without the extension headers that stand between them (R67). -/
def l4Len (kind : Nat) (ip : List Byte) (ext : Nat) : Nat :=
  if kind = 1 then be ip 2 2 - byteAt ip 0 % 16 * 4 else be ip 4 2 - (ip.length - 40) - ext

/-- The IP header before an L4 header: its kind, its bytes, and the bytes of extension headers behind it. -/
structure IpAhead where
  kind : Nat
  ip : List Byte
  ext : Nat
deriving DecidableEq, Repr

/-- The IP header before an L4 header at an offset of the frame as it came to the deparser, removed headers included: what the checksum that the L4 header still holds was taken over (R67). An inserted header has bytes in the frame, and so a length, only after a deparser has emitted it. -/
def ipBehind (p : Prog) (f : Frame) (off : Nat) : Option IpAhead :=
  let isIp (e : HdrEnt) : Bool := decide (0 < e.len) && decide (e.off < off) && (typeKind p e.typ = 1 || typeKind p e.typ = 2)
  ((f.hdrs.filter isIp).foldl (fun (a : Option HdrEnt) e =>
      match a with | some b => if b.off < e.off then some e else a | none => some e) none).map
    (fun e => ⟨typeKind p e.typ, slice f.bytes e.off e.len, off - (e.off + e.len)⟩)

/-- The L4 checksum of a header (R67): `ip` the IP header emitted before it, `was` the one before it in the frame as it came, `rest` all bytes emitted after it, `orest` those of the original frame after the header. The model's choices (log entry 25): a type without a length check in the graph is UDP when its header is 8 bytes long, else TCP; a parsed L4 header with no IP header before it in the frame as it came is taken to have had the pseudo-header of the new one. -/
def fixL4 (kind : Nat) (ip was : Option IpAhead) (h : OutHdr) (rest orest : List Byte) : List Byte :=
  match ip with
  | none => h.bytes
  | some i =>
    let udp := kind = 3 || (kind = 0 && h.bytes.length = 8)
    let proto := if udp then 17 else 6
    let at_ := if udp then 6 else 16
    let l4len := if udp then be h.bytes 4 2 else l4Len i.kind i.ip i.ext
    let c := be h.bytes at_ 2
    let clear (x : List Byte) : List Byte := overlay x at_ [0, 0]
    match h.orig with
    | some (_, o) =>
      if udp ∧ c = 0 ∧ i.kind = 1 then h.bytes
      else
        let w := was.getD i
        let oldLen := if udp then be o 4 2 else l4Len w.kind w.ip w.ext
        let olds := pseudoSum w.kind w.ip proto + oldLen % 65536 + wordSum (clear o ++ orest)
        let news := pseudoSum i.kind i.ip proto + l4len % 65536 + wordSum (clear h.bytes ++ rest)
        let c' := 65535 - foldSum ((65535 - be o at_ 2) + (65535 - foldSum olds) + news)
        overlay h.bytes at_ (beBytes 2 (if udp ∧ c' = 0 then 65535 else c'))
    | none =>
      if udp ∧ i.kind = 1 then clear h.bytes
      else
        let c' := csum16 (beBytes 2 (foldSum (pseudoSum i.kind i.ip proto + l4len % 65536)) ++ (clear h.bytes ++ rest).take l4len)
        overlay h.bytes at_ (beBytes 2 (if udp ∧ c' = 0 then 65535 else c'))

/-- A header with its IPv4 checksum recomputed where its entry asks for it. -/
def OutHdr.fix4 (h : OutHdr) : OutHdr := { h with bytes := if h.csum4 then fixIp4 h.bytes else h.bytes }

/-- The IP header ahead of what follows a header: itself, or the one before with the header counted where it lies between IP and L4. -/
def ipAhead (p : Prog) (ip : Option IpAhead) (h : OutHdr) : Option IpAhead :=
  let kind := typeKind p h.typ
  if kind = 1 ∨ kind = 2 then some ⟨kind, h.bytes, 0⟩
  else ip.map (fun i => { i with ext := i.ext + h.bytes.length })

/-- Runs the checksums over the headers (R67): those of the later headers first, so that every sum is taken over the bytes that are emitted. -/
def fixHdrs (p : Prog) (f : Frame) (payload : List Byte) : Option IpAhead → List OutHdr → List OutHdr
  | _, [] => []
  | ip, h :: t =>
    let h := h.fix4
    let t := fixHdrs p f payload (ipAhead p ip h) t
    let rest := t.flatMap (fun x => x.bytes) ++ payload
    let orest := match h.orig with
      | some (o, x) => (f.bytes.take (f.bytes.length - 4)).drop (o + x.length)
      | none => []
    let was := match h.orig with | some (o, _) => ipBehind p f o | none => none
    (if h.csumL4 then { h with bytes := fixL4 (typeKind p h.typ) ip was h rest orest } else h) :: t

/-- What the deparser makes of a frame: its bytes, the header table at the emitted offsets, where a header that was not emitted is not valid, and the end of the emitted headers, where the payload begins (R67). -/
def State.deparseBytes (s : State) (f : Frame) : List Byte × List HdrEnt × Nat :=
  let h := pipeHalf f.pipe
  let p := s.prog f.tag
  let payload := (f.bytes.take (f.bytes.length - 4)).drop f.payAt
  let hs := fixHdrs p f payload none (outHdrs p f (s.rd .TEL_CFG_tel_type [h.n]) (telRecord s h f 1 0 f.tRef))
  let gone := f.hdrs.map (fun e => { e with len := 0, valid := false })
  let tbl := hs.foldl (fun (a : List HdrEnt × Nat) x =>
      (a.1.set x.ent { (a.1.getD x.ent (HdrEnt.mk 0 0 0 0 false)) with off := a.2, len := x.bytes.length, valid := true }, a.2 + x.bytes.length)) (gone, 0)
  (withFcs (hs.flatMap (fun x => x.bytes) ++ payload), tbl)

/-- Where the containers' bytes stand once the headers have moved to the offsets of an emitted header table (R50, R67). -/
def Frame.refill (f : Frame) (tbl : List HdrEnt) : SMap (Nat × Nat) :=
  f.fills.filterMap (fun e => ((f.hdrs.zip tbl).find? (fun x => x.1.valid && x.2.valid && x.1.off = e.2.1)).map (fun x => (e.1, x.2.off, e.2.2)))

/-- Transmit counters of a copy (R279, R280). -/
def State.txCount (s : State) (h : Half) (port sl : Nat) (bytes : List Byte) : State :=
  let k := localIdx port
  let da := be bytes 0 6
  let s := (s.bump .TEL_PORT_CNT_v [h.n, k, 4] 1).bump .TEL_PORT_CNT_v [h.n, k, 5] bytes.length
  let s := if da = 2 ^ 48 - 1 then s.bump .TEL_PORT_CNT_v [h.n, k, 7] 1
    else if bit (byteAt bytes 0) 0 then s.bump .TEL_PORT_CNT_v [h.n, k, 6] 1 else s
  (s.bump .TEL_SLICE_CNT_v [h.n, sl, 2] 1).bump .TEL_SLICE_CNT_v [h.n, sl, 3] bytes.length

/-- The frame's FCS inverted (R404). -/
def invertFcs (bs : List Byte) : List Byte := bs.take (bs.length - 4) ++ (bs.drop (bs.length - 4)).map (fun b => ~~~ b)

/-- A copy leaves the deparser toward its port; its reference count is released toward a lane or a host port (R36-R39, R86, R234, R279). -/
def State.leave (s : State) (f : Frame) : State :=
  let h := pipeHalf f.pipe
  let out := f.out
  let s := s.txCount h out f.slice f.bytes
  if out < 1024 then (s.toEnd { f with loc := .tile }).release h f
  else if out < 1056 then
    s.toEnd { (f.mset 0 11 out) with loc := .input, pipe := out - 1024, ctr := [], mirror := false, share := 0, telExp := false, fd := 0, chain := [] }
  else if out < 1072 then ((s.toEnd { f with loc := .hostPort }).release h f).lackNote (out - 1056)
  else
    s.toEnd { f with loc := .toa, unit := s.toaHome (out - 1072) f }

/-- A frame that an egress stage sends to another port goes through admission and scheduling again, as a frame of the deparsed length that no queue has held (R37, R76, R272). -/
def Frame.requeued (f : Frame) : Frame :=
  { (f.mset 69 14 f.bytes.length) with queue := 0x3FFF, timed := false, ce := false, depth := 0, poolFree := 0 }

/-- After the deparser: the actions of the pass, then its fate: pass limit, trap, recirculation by an egress stage, or the port (R36, R76, R271, R276). A trap goes where the profile of the frame's ingress port said as the frame entered its pipe (R61, R63, log entry 25). The model's choice where a frame of pass 7 with a recirculation port in `dest` was also given an egress TRAP: the pass limit is tested first and the frame is dropped (DESIGN CHOICE: log entry 25). -/
def State.afterDeparse (s : State) (f : Frame) : State :=
  let h := pipeHalf f.pipe
  let dest := f.dest
  let s := s.setFr f
  let s := if f.m 275 1 = 1 ∧ ¬ f.mirror then s.mirrorCopy f.pipe f f.bytes else s
  let s := if f.telExp then s.telOffer h (telRecord s h f 1 0 f.tRef) else s
  let s := s.bufFree f true
  let f := { f with cells := 0, rsv := 0, hdrm := false, pg := none, share := 0, fd := 0, chain := [] }
  if 1024 ≤ dest ∧ dest < 1056 ∧ f.pass = 7 then (s.bump .PAR_RECIRC_LIMIT_count [f.pipe] 1).dropFr h 0x0F f
  else if f.m 274 1 = 1 ∧ ¬ f.mirror then
    let g := f.requeued
    ((s.bump .SLC_CNT_v [h.n, f.slice, 1] 1).toEnd g).toFront h g (1056 + f.trapPort) f.trapTc
  else if dest ≠ f.out ∧ 1024 ≤ dest ∧ dest < 1056 then
    s.toEnd { f.requeued with loc := .front, out := dest, tc := f.m 268 3 }
  else s.leave f

/-- An earlier frame of the egress stages of a pipe has not left the deparser (R35). -/
def State.deparseHeld (s : State) (f : Frame) : Bool :=
  s.behind f (fun g => g.pipe = f.pipe && (g.loc = .deparse || (g.loc = .stages && decide (20 ≤ g.stage))))

/-- DEPARSE, in the order of the pipe (R35): a copy that has passed E11 leaves the deparser (R67). -/
def doDeparse (id : Nat) (s : State) : State :=
  match s.fr? id with
  | none => s
  | some f =>
    if f.loc ≠ .deparse ∨ s.deparseHeld f then s
    else
      let h := pipeHalf f.pipe
      let (b, tbl, pay) := if f.mirror then (f.bytes, f.hdrs, f.payAt) else s.deparseBytes f
      let limit := decide (1024 ≤ f.dest) && decide (f.dest < 1056) && decide (f.pass = 7)
      if 16383 < b.length ∧ ¬ limit then
        ((s.bump .PAR_EVT_CNT_v [f.pipe, parEntry f.out, 6] 1).bufFree f true).dropFr h 0x11 f
      else
        let b := if f.stomp then invertFcs b else b
        let s := if f.stomp then s.bump .RAS_CNT_v [h.n, 4] 1 else s
        s.afterDeparse { (f.mset 83 10 pay) with bytes := b, hdrs := tbl, payAt := pay, fills := f.refill tbl }

def execDeparse (id : Nat) (s : State) : Host.Outcome State Fault Refusal := done (doDeparse id s)

/-- Twice the lane signalling rate in Mb/s, `rx_fixed` and `tx_fixed` in 1/1000 ns, and `blk_bits`, of a lane rate code (R188). -/
def laneTiming (rate : Nat) : Nat × Nat × Nat × Nat :=
  match rate with
  | 0 => (226875, 61250, 27500, 10880)
  | 1 => (106250, 78750, 33750, 10880)
  | _ => (53125, 102500, 41250, 5440)

/-- A duration in 1/1000 ns as a network time difference. -/
def msTs (x : Nat) : Nat := x * tsNs / 1000

/-- A signed number of 1/64 ns as a network time difference. -/
def adjTs (v : Nat) : Int := signed 16 v * ((tsNs / 64 : Nat) : Int)

/-- b bits at the encoded rate of a port, as a network time difference (R187). -/
def bitTs (c : PortCfg) (b : Nat) : Nat := b * tsNs * 1000 / (c.width * (laneTiming c.rate).1)

/-- The egress time of a copy whose block starts encoding now, by the tile's copy of the time (R187, R189). -/
def State.txTime (s : State) (port bitPos : Nat) : Ts :=
  match s.lanes.ports.get? [port] with
  | some c => tsAdd (s.tileNow port + msTs (laneTiming c.rate).2.2.1 + bitTs c bitPos) (adjTs (s.rd .TIM_PORT_CFG_tx_adj [0, port]))
  | none => s.tileNow port

/-- The ingress time of a frame captured at a time value (R187). -/
def State.rxTime (s : State) (port bitPos : Nat) (t : Ts) : Ts :=
  match s.lanes.ports.get? [port] with
  | some c =>
    let l := laneTiming c.rate
    tsAdd t (adjTs (s.rd .TIM_PORT_CFG_rx_adj [0, port]) - (msTs l.2.1 : Int) - (bitTs c (l.2.2.2 - bitPos) : Int))
  | none => t

/-- Applied steps of a half, the latest first (R194). -/
def State.stepRecs (s : State) (h : Half) : List (Ts × Int) := match h with | .E => s.time.recE | .W => s.time.recW

/-- The residence of a frame from its ingress time to an instant, in units of 2^-16 ns, with the rounded times of the records and without the steps that both do not share (R192, R194): none where it spans two steps. Seconds count modulo 65,536 (R187). -/
def State.residence (s : State) (h : Half) (f : Frame) (t : Ts) : Option Int :=
  let span : Int := 65536 * 65536000000000
  let wrap (x : Int) : Int := (x + span / 2) % span - span / 2
  let raw : Int := ((tRound t / 65536 : Nat) : Int) - ((tRound f.tIn / 65536 : Nat) : Int)
  let early (x : Ts × Int) : Bool := decide (((tRound f.tIn : Nat) : Int) < (x.1 : Int) - x.2)
  match s.stepRecs h with
  | [] => some (wrap raw)
  | [x] => some (wrap (if early x then raw - x.2 / 65536 else raw))
  | x :: y :: _ => if early x then (if early y then none else some (wrap (raw - x.2 / 65536))) else some (wrap raw)

/-- Adds to a big-endian correctionField, saturating at the largest positive value (R192). -/
def addCorr (bs : List Byte) (off : Nat) (d : Int) : List Byte :=
  let v := signed 64 (be bs off 8) + d
  overlay bs off (beBytes 8 (if 2 ^ 63 - 1 < v then 2 ^ 63 - 1 else unsigned 64 v))

/-- The UDP checksum of the last header of the UDP type before an offset, updated for changed bytes; type 63 matches nothing. A checksum of 0 stays 0 where the IP header next before it is not IPv6 (R193). -/
def State.udpFix (s : State) (f : Frame) (udpType off : Nat) (old new : List Byte) : List Byte :=
  let p := s.prog f.tag
  let last (t : HdrEnt → Bool) : Option HdrEnt := (f.hdrs.filter (fun e => e.valid && t e)).foldl
    (fun (a : Option HdrEnt) e => match a with | some b => if b.off < e.off then some e else a | none => some e) none
  match last (fun e => e.typ = udpType && udpType ≠ 63 && decide (e.off < off)) with
  | none => new
  | some u =>
    let c := be old (u.off + 6) 2
    let six : Bool := match last (fun e => decide (e.off < u.off) && (typeKind p e.typ = 1 || typeKind p e.typ = 2)) with | some e => typeKind p e.typ = 2 | none => false
    if c = 0 ∧ ¬ six then new
    else
      let seg (x : List Byte) : List Byte := (x.take (x.length - 4)).drop u.off
      let c' := 65535 - foldSum ((65535 - c) + (65535 - foldSum (wordSum (seg old))) + wordSum (seg new))
      overlay new (u.off + 6) (beBytes 2 (if c' = 0 then 65535 else c'))

/-- The PTP request of a copy, if it carries one: the request word (R191). -/
def State.ptpWord (s : State) (f : Frame) : Option Nat :=
  let ix := [0, f.tag]
  if s.on .TIM_PTP_REQ_en ix then f.ctr.get? [2, s.rd .TIM_PTP_REQ_ctr ix] else none

/-- PTP_REQUEST: the tile writes the fields of a request at the egress time (R192, R193). -/
def State.ptpRun (s : State) (h : Half) (f : Frame) (w : Nat) (t : Ts) : List Byte × State :=
  let op := bits w 0 2
  let off := bits w 2 10
  let n := min 1024 (f.bytes.length - 4)
  let bad := (f.bytes, s.bump .TIM_CNT_v [0, 5] 1)
  let finish (b : List Byte) : List Byte :=
    let b := if bit w 14 then s.udpFix f (s.rd .TIM_PTP_REQ_udp_type [0, f.tag]) off f.bytes b else b
    let body := b.take (b.length - 4)
    let b := body ++ fcs body
    if f.stomp then invertFcs b else b
  if op = 1 then
    if off < 26 ∨ n < off + 10 then bad
    else
      let r := tRound t
      let b := overlay f.bytes off (beBytes 6 (tSec r) ++ beBytes 4 (tNs r))
      (finish (addCorr b (off - 26) (tFrac t : Int)), s)
  else if op = 2 then
    if n < off + 8 then bad
    else match s.residence h f t with
      | none => (f.bytes, s.bump .TIM_CNT_v [0, 6] 1)
      | some r =>
        let p : Int := if bit w 12 ∧ f.inPort < 1024 then (s.rd .TIM_PORT_CFG_p2p_delay [0, f.inPort] : Int) else 0
        (finish (addCorr f.bytes off (r + p)), s)
  else (f.bytes, s)

/-- An earlier copy for the same port waits at the tile, or the tile's crossing is not acknowledged (R35, R411). -/
def State.tileHeld (s : State) (f : Frame) : Bool :=
  s.xingBusy (portHalf f.out) 0 (portTile f.out) || s.behind f (fun g => g.loc = .tile && g.out = f.out)

end Sys2Proof.Machine
end

