-- ==== Sys2Proof/Machine/Host.lean ====
section
/-!
DEFINITION. The host interface (R323-R354, R474): rings and doorbells, descriptor fetch and start, packet rings, MSI-X, function resets, and PCI Express configuration requests (R468, R469).
-/

namespace Sys2Proof.Machine

/-- Kinds of ring (R331). -/
inductive RingKind where
  | cmd
  | cpl
  | evt
  | tel
  | tx
  | rxb
  | rxc
deriving DecidableEq, Repr

/-- The kind of a ring of a function, none for a number that R331 leaves unused. -/
def ringKind (fn r : Nat) : Option RingKind :=
  let pf := decide (fn = 0)
  if 64 < fn then none
  else if r < 4 then some .cmd
  else if r < 8 then some .cpl
  else if r = 8 then some .evt
  else if r = 9 ∨ r = 10 then (if pf then some .tel else none)
  else if 16 ≤ r ∧ r < (if pf then 32 else 18) then some .tx
  else if 32 ≤ r ∧ r < (if pf then 48 else 34) then some .rxb
  else if 48 ≤ r ∧ r < (if pf then 64 else 50) then some .rxc
  else none

/-- Software produces the entries of a ring of this kind (R331). -/
def RingKind.soft : RingKind → Bool
  | .cmd | .tx | .rxb => true
  | _ => false

/-- Notes at every host port since when a VF's receive ring has lacked slots (R347). -/
def State.lackAll (s : State) : State := (List.range 16).foldl (fun s k => s.lackNote k) s

/-- Stops a ring: RING_ERROR by cause 1 fetch DMA, 2 index, 3 write DMA (R332, R350). -/
def State.ringStop (s : State) (fn r cause : Nat) : State :=
  let s := { s with host := { s.host with stopped := s.host.stopped.set [fn, r] true } }
  let s := s.st (if cause = 2 then .HST_RING_STAT_cfg_err else .HST_RING_STAT_dma_err) [fn, r] 1
  let s := s.bump .HST_CNT_v [0, 4] 1
  let s := if cause = 2 then s else s.bump .HST_CNT_v [0, 3] 1
  s.raise 0x0003 2 [(0, 1, r), (1, 1, fn), (2, 1, cause)] (some fn)

/-- NOP (R341). -/
def doNop (d : Hdr) (s : State) : State :=
  s.serve d ⟨1, .any, false, true, 0⟩ true (cleanHdr d false false false) fun s => s.ok d 0

def execNop (d : Hdr) (s : State) : Host.Outcome State Fault Refusal := doneDesc (.nop (bareHdr d)) d (doNop d) s

/-- The count of a doorbell on a ring of a kind: kept, or the ring stops (R332). -/
def State.doorbell (s : State) (fn r c : Nat) (k : RingKind) : State :=
  let n := s.devIdx fn r
  let gap := if k.soft then (c + 2 ^ 32 - n) % 2 ^ 32 else (n + 2 ^ 32 - c) % 2 ^ 32
  if s.ringSize fn r < gap then s.ringStop fn r 2
  else { s with host := { s.host with swCnt := s.host.swCnt.set [fn, r] c } }

/-- DOORBELL: software's count crosses to the ring engine and is taken, or the ring stops (R31, R332); the doorbells that R474 names have no effect. -/
def doDoorbell (fn r count : Nat) (s : State) : State :=
  match ringKind fn r with
  | none => s
  | some k =>
    if ¬ s.on .HST_RING_CFG_en [fn, r] ∨ s.host.stopped.getD [fn, r] false then s
    else (s.xingSend (s.ringEngine fn r) 5 0 (fun s => s.doorbell fn r (count % 2 ^ 32) k)).lackAll

def execDoorbell (fn r count : Nat) (s : State) : Host.Outcome State Fault Refusal := doneReg false (doDoorbell fn r count) s

/-- What the checks of R336 and R338 need to know of an opcode: its rule, the argument fields it uses (offset, size, mask of used bits), whether it uses slice, token and host buffer, and its routine (R302). -/
structure OpInfo where
  rule : Rule
  used : List (Nat × Nat × Nat)
  slice : Bool
  token : Bool
  buf : Bool
  routine : Nat
deriving DecidableEq, Repr

/-- A field of n bytes, all bits used. -/
def whole (off n : Nat) : Nat × Nat × Nat := (off, n, 2 ^ (8 * n) - 1)

/-- The key of an FDB descriptor (R341). -/
def keyUsed : List (Nat × Nat × Nat) := [whole 28 1, whole 29 3, whole 32 16]

/-- The opcodes of tables, programs and the FDB (R341, R353, R391). -/
def opsA : List OpInfo :=
  [⟨⟨1, .any, false, true, 0⟩, [], false, false, false, 8⟩,
   ⟨⟨0x10, .config, true, true, 0⟩, [whole 28 1, whole 29 1, whole 32 4], true, false, true, 6⟩,
   ⟨⟨0x11, .reads, false, true, 0⟩, [whole 29 1, whole 32 4, whole 36 16], true, false, true, 6⟩,
   ⟨⟨0x12, .config, true, true, 0⟩, [], true, false, false, 6⟩,
   ⟨⟨0x13, .config, true, true, 0⟩, [], true, false, false, 6⟩,
   ⟨⟨0x14, .config, true, false, 0⟩, [whole 28 4, whole 32 4], true, false, false, 6⟩,
   ⟨⟨0x15, .config, true, false, 0⟩, [whole 28 3], true, false, false, 6⟩,
   ⟨⟨0x16, .config, true, false, 0⟩, [whole 28 3], false, false, false, 6⟩,
   ⟨⟨0x18, .config, true, false, 0⟩, [whole 28 1], false, false, true, 8⟩,
   ⟨⟨0x19, .maint, true, false, 0⟩, [], false, false, false, 3⟩,
   ⟨⟨0x20, .config, true, true, 0⟩, keyUsed ++ [whole 48 2, (50, 1, 3), whole 52 4], true, false, false, 6⟩,
   ⟨⟨0x21, .config, true, true, 0⟩, keyUsed, true, false, false, 6⟩,
   ⟨⟨0x22, .reads, false, true, 0⟩, keyUsed ++ [whole 51 1, whole 56 4], true, true, true, 6⟩,
   ⟨⟨0x23, .config, true, false, 0⟩, [whole 56 4], false, false, false, 6⟩,
   ⟨⟨0x24, .config, true, false, 0⟩, [whole 56 4], false, true, false, 6⟩,
   ⟨⟨0x25, .config, true, false, 0⟩, [whole 56 4, whole 60 1], false, true, true, 6⟩,
   ⟨⟨0x26, .config, true, true, 0⟩, keyUsed, true, false, false, 6⟩,
   ⟨⟨0x27, .config, true, true, 0⟩, [whole 29 3, whole 48 2, (50, 1, 15)], true, false, false, 6⟩]

/-- The opcodes of the buffer, the scheduler, time, reduction, telemetry and the engines (R341, R353, R391). -/
def opsB : List OpInfo :=
  [⟨⟨0x30, .config, true, false, 1⟩, [whole 28 32], false, false, false, 8⟩,
   ⟨⟨0x31, .config, true, false, 0⟩, [whole 28 2], false, false, false, 2⟩,
   ⟨⟨0x34, .config, true, true, 2⟩, [whole 28 2, whole 32 16, (48, 1, 7), whole 49 1], false, false, false, 8⟩,
   ⟨⟨0x40, .config, true, false, 0⟩, [whole 28 20], false, false, true, 8⟩,
   ⟨⟨0x41, .config, true, false, 0⟩, [whole 32 22], false, false, true, 8⟩,
   ⟨⟨0x42, .config, true, false, 0⟩, [], false, false, false, 8⟩,
   ⟨⟨0x50, .config, true, true, 0⟩, [], false, false, true, 7⟩,
   ⟨⟨0x51, .config, true, true, 0⟩, [whole 28 2], false, false, false, 7⟩,
   ⟨⟨0x52, .config, true, true, 0⟩, [whole 28 4], false, false, true, 7⟩,
   ⟨⟨0x53, .reads, false, true, 0⟩, [whole 28 2], false, false, true, 7⟩,
   ⟨⟨0x60, .reads, false, false, 2⟩, [whole 28 1], false, false, true, 9⟩,
   ⟨⟨0x70, .config, true, false, 0⟩, [], false, false, true, 8⟩,
   ⟨⟨0x71, .maint, true, false, 0⟩, [whole 28 1], false, false, false, 3⟩,
   ⟨⟨0x72, .reads, false, false, 1⟩, [whole 28 6], false, false, true, 8⟩,
   ⟨⟨0x73, .config, true, false, 1⟩, [whole 28 7], false, false, true, 8⟩]

/-- The opcodes of start-up, of modes and of lanes (R384, R391, R415, R443). -/
def opsC : List OpInfo :=
  [⟨⟨0x80, .imageWrite, true, false, 0⟩, [], false, false, true, 8⟩,
   ⟨⟨0x81, .retry, false, false, 0⟩, [], false, false, false, 8⟩,
   ⟨⟨0x82, .config, true, false, 0⟩, [], false, false, true, 8⟩,
   ⟨⟨0x83, .reads, false, false, 0⟩, [], false, false, true, 8⟩,
   ⟨⟨0x84, .reads, false, false, 0⟩, [whole 28 32], false, false, true, 8⟩,
   ⟨⟨0x85, .reads, false, false, 0⟩, [whole 28 1], false, false, true, 8⟩,
   ⟨⟨0x86, .enroll, true, false, 0⟩, [(28, 1, 1)], false, false, true, 8⟩,
   ⟨⟨0x87, .reads, false, false, 0⟩, [], false, false, false, 8⟩,
   ⟨⟨0xC0, .claim, true, false, 0⟩, [], false, false, false, 8⟩,
   ⟨⟨0xC1, .maint, true, false, 1⟩, [whole 28 4], false, false, false, 1⟩,
   ⟨⟨0xC2, .maint, true, false, 0⟩, [whole 28 2], false, false, false, 1⟩,
   ⟨⟨0xC3, .inject, true, false, 1⟩, [whole 28 7], false, false, false, 1⟩,
   ⟨⟨0x100, .config, true, false, 0⟩, [whole 28 8], false, false, false, 8⟩,
   ⟨⟨0x101, .config, true, false, 0⟩, [(28, 1, 1)], false, false, true, 8⟩,
   ⟨⟨0x102, .config, true, false, 0⟩, [whole 28 5, (33, 1, 1)], false, false, false, 8⟩,
   ⟨⟨0x103, .config, true, false, 0⟩, [whole 28 2], false, false, false, 8⟩,
   ⟨⟨0x110, .reads, false, false, 0⟩, [], false, false, true, 8⟩,
   ⟨⟨0x111, .reads, false, false, 0⟩, [], false, false, true, 8⟩]

/-- The opcodes that are defined (R341). -/
def opInfo (code : Nat) : Option OpInfo := (opsA ++ opsB ++ opsC).find? (fun o => o.rule.code = code)

/-- The header of a descriptor (R336); its buffer is not read yet. -/
def hdrOf (fn r cnt : Nat) (b : List Byte) : Hdr :=
  ⟨fn, r, cnt, le b 4 4, bit (byteAt b 2) 0, bit (byteAt b 2) 1, bit (byteAt b 3) 0, bit (byteAt b 3) 1, byteAt b 8, le b 10 2, le b 16 8, le b 24 4, none⟩

/-- Every reserved or unused byte and bit of a descriptor is zero (R336). -/
def descClean (o : OpInfo) (d : Hdr) (b : List Byte) : Bool :=
  let args := o.used.foldl (fun a u => putBits a (8 * (u.1 - 28)) (8 * u.2.1) (le b u.1 u.2.1 - (le b u.1 u.2.1 &&& u.2.2))) (le b 28 36)
  decide (byteAt b 2 < 4) && decide (byteAt b 3 < 4) && byteAt b 9 = 0 && le b 12 4 = 0 && cleanHdr d o.slice o.token o.buf && args = 0

/-- A descriptor of a VF names its own slice, group or policer (R119, R353). -/
def State.descOwn (s : State) (code : Nat) (d : Hdr) (b : List Byte) : Bool :=
  if d.fn = 0 then true
  else match code with
    | 1 => true
    | 0x22 => ownSlice d d.slice && byteAt b 51 = 0
    | 0x27 => ownSlice d d.slice && bit (byteAt b 50) 0
    | 0x34 => byteAt b 49 = fnSlice d.fn && (Hdr.hs d).all (fun h => s.rd .SHP_POL_CFG_owner [h.n, le b 28 2] = fnSlice d.fn)
    | 0x50 => true
    | 0x51 => s.ownGroup d (le b 28 2)
    | 0x52 => s.ownGroup d (le b 28 2)
    | 0x53 => s.ownGroup d (le b 28 2)
    | _ => ownSlice d d.slice

/-- The command that a descriptor of the opcodes below 0x30 spells (R341). -/
def descCmdA (code : Nat) (d : Hdr) (b : List Byte) : Option Instr :=
  let key : KeyArg := ⟨byteAt b 28, le b 29 3, le b 32 16⟩
  let fl (k : Nat) : Bool := bit (byteAt b 50) k
  match code with
  | 0x01 => some (.nop d)
  | 0x10 => some (.tblWrite d (byteAt b 28) (byteAt b 29) (le b 32 4))
  | 0x11 => some (.tblRead d (byteAt b 29) (le b 32 4) (le b 36 16))
  | 0x12 => some (.sliceCommit d)
  | 0x13 => some (.sliceAbort d)
  | 0x14 => some (.sliceQuota d (le b 28 4) (le b 32 4))
  | 0x15 => some (.vniMapWrite d (le b 28 4))
  | 0x16 => some (.vniMapDelete d (le b 28 4))
  | 0x18 => some (.progLoad d (byteAt b 28))
  | 0x19 => some (.progSwap d)
  | 0x20 => some (.fdbInsert d key (le b 48 2) (fl 0) (fl 1) (le b 52 4))
  | 0x21 => some (.fdbDelete d key)
  | 0x22 => some (.fdbRead d (byteAt b 51) key (le b 56 4))
  | 0x23 => some (.lock d (le b 56 4))
  | 0x24 => some (.unlock d (le b 56 4))
  | 0x25 => some (.fdbWayWrite d (le b 56 4) (byteAt b 60))
  | 0x26 => some (.fdbUnfreeze d key)
  | 0x27 => some (.fdbFlush d (fl 0) (fl 1) (fl 2) (fl 3) key.scope (le b 48 2))
  | _ => none

/-- The command that a descriptor of the opcodes from 0x30 to 0x7F spells (R341). -/
def descCmdB (code : Nat) (d : Hdr) (b : List Byte) : Option Instr :=
  let n := le b 28 2
  let fl (k : Nat) : Bool := bit (byteAt b 48) k
  match code with
  | 0x30 => some (.bufPartSet d ((List.range 8).map (fun i => le b (28 + 4 * i) 4)))
  | 0x31 => some (.portFlush d n)
  | 0x34 => some (.policerSet d n (le b 32 4) (le b 36 4) (le b 40 4) (le b 44 4) (fl 0) (fl 1) (fl 2) (byteAt b 49))
  | 0x40 => some (.gateLoad d n (le b 30 2) (le b 32 8) (le b 40 4) (le b 44 4))
  | 0x41 => some (.epochLoad d (le b 32 8) (le b 40 4) (le b 44 4) (le b 48 2) (le b 50 2) (le b 52 2))
  | 0x42 => some (.epochStop d)
  | 0x50 => some (.toaGroupOpen d)
  | 0x51 => some (.toaGroupClose d n)
  | 0x52 => some (.toaMemberSet d n (le b 30 2))
  | 0x53 => some (.toaGroupRead d n)
  | 0x60 => some (.cntSnap d (byteAt b 28))
  | 0x70 => some (.patchLoad d)
  | 0x71 => some (.patchArm d (byteAt b 28))
  | 0x72 => some (.hamRead d (le b 28 4) (le b 32 2))
  | 0x73 => some (.hamWrite d (le b 28 4) (le b 32 2) (byteAt b 34))
  | _ => none

/-- The command that a descriptor of the opcodes from 0x80 spells (R384, R415, R443). What comes from outside the descriptor stays blank: the fuse read-back of OWNER_ENROLL and the verdict of TRB_SELFTEST. -/
def descCmdC (code : Nat) (d : Hdr) (b : List Byte) : Option Instr :=
  match code with
  | 0x80 => some (.imageWrite d)
  | 0x81 => some (.bootRetry d)
  | 0x82 => some (.cfgCommit d)
  | 0x83 => some (.cfgRead d)
  | 0x84 => some (.attest d (slice b 28 32))
  | 0x85 => some (.idCertRead d (byteAt b 28))
  | 0x86 => some (.ownerEnroll d (bit (byteAt b 28) 0) false)
  | 0x87 => some (.trbSelftest d 0 0)
  | 0xC0 => some (.hostClaim d)
  | 0xC1 => some (.bankRetire d (byteAt b 28) (byteAt b 29) (le b 30 2))
  | 0xC2 => some (.linkRetrain d (byteAt b 28) (byteAt b 29))
  | 0xC3 => some (.eccInject d (byteAt b 28) (byteAt b 29) (le b 30 2) (le b 32 2) (byteAt b 34))
  | 0x100 => some (.portSet d (le b 28 2) (byteAt b 30) (byteAt b 31) (byteAt b 32) (le b 33 3))
  | 0x101 => some (.laneEqSet d (bit (byteAt b 28) 0))
  | 0x102 => some (.laneTest d (le b 28 2) (byteAt b 30) (byteAt b 31) (byteAt b 32) (bit (byteAt b 33) 0))
  | 0x103 => some (.portRestart d (le b 28 2))
  | 0x110 => some (.portRead d)
  | 0x111 => some (.eqRead d)
  | _ => none

/-- The command that a descriptor's 64 bytes spell, none for an undefined opcode (R341). -/
def descCmd (code : Nat) (d : Hdr) (b : List Byte) : Option Instr :=
  if code < 0x30 then descCmdA code d b else if code < 0x80 then descCmdB code d b else descCmdC code d b

/-- A LINK_RETRAIN of the bridge group (R403, R415). -/
def bridgeTrain (c : Instr) : Bool :=
  match c with
  | .linkRetrain _ g _ => g = 9 || g = 12
  | _ => false

/-- DESCRIPTOR_FETCH: a completion slot is reserved, the descriptor is read and checked, and refused or taken with the command that it spells (R338, R339, R341). An engine of the RING routine does it (R302). A descriptor crosses from the host only while the crossing is clear (R31, R411). -/
def doDescriptorFetch (fn r : Nat) (bytes : Option (List Byte)) (s : State) : State :=
  if ringKind fn r ≠ some .cmd ∨ ¬ s.ringUp fn r ∨ s.ringWaiting fn r = 0 ∨ ¬ s.ringUp fn (r + 4)
      ∨ s.ringSpace fn (r + 4) ≤ (s.takenOf fn r).length ∨ s.xingBusy (s.ringEngine fn r) 5 0 then s
  else s.viaRoutine (s.ringEngine fn r) 8 [BitVec.ofNat 64 (64 * fn + r)] fun s => match bytes with
    | none => s.ringStop fn r 1
    | some b =>
      let n := s.devIdx fn r
      let s := s.st .HST_RING_STAT_dev_idx [fn, r] (n + 1)
      let code := le b 0 2
      let d := hdrOf fn r n b
      match opInfo code, descCmd code d b with
      | some o, some c =>
        match s.refusal d o.rule (s.descOwn code d b) (descClean o d b) (bridgeTrain c) with
        | some (st, x, res) => s.complete d st x res
        | none =>
          let s := { s with host := { s.host with taken := s.host.taken ++ [Taken.mk d code (s.objectOf c) false c false] } }
          s.busyOf fn r
      | _, _ => s.fail d stBadOp

def execDescriptorFetch (fn r : Nat) (bytes : Option (List Byte)) (s : State) : Host.Outcome State Fault Refusal :=
  done (doDescriptorFetch fn r bytes s)

/-- DESCRIPTOR_START: a descriptor that nothing holds starts; its ownership and mode checks are made again, and its event is posted to its routine, for whose queue it waits while that is full (R301, R302, R338, R339). What the operation then does is the command that the descriptor spells. -/
def doDescriptorStart (fn r cnt : Nat) (s : State) : State :=
  let q := s.takenOf fn r
  match q.find? (fun t => t.hdr.cnt = cnt) with
  | none => s
  | some t =>
    if t.started ∨ heldBy (q.takeWhile (fun a => decide (a.hdr.cnt ≠ cnt))) t.object t.hdr.fence then s
    else match opInfo t.opcode with
      | none => s
      | some o =>
        match s.refusal t.hdr o.rule true true (bridgeTrain t.cmd) with
        | some (st, x, res) => s.complete t.hdr st x res
        | none =>
          let (v, s') := s.draw
          let (room, s') := s'.rqPost (s.ringHalf t.hdr) o.routine ⟨[BitVec.ofNat 64 v], false, some t.hdr⟩
          if ¬ room then s
          else { s' with host := { s'.host with
            starts := s'.host.starts ++ [t.hdr]
            taken := s'.host.taken.map (fun (a : Taken) => if sameHdr a.hdr t.hdr then { a with started := true } else a) } }

def execDescriptorStart (fn r cnt : Nat) (s : State) : Host.Outcome State Fault Refusal := done (doDescriptorStart fn r cnt s)

/-- A 64-bit value written to a ring's context (R335, R352, R474). -/
def State.ringCfg (s : State) (fn r value : Nat) : State :=
  match ringKind fn r with
  | none => s
  | some _ =>
    let ix := [fn, r]
    let v := value % 2 ^ 64
    let en := bit v 5
    let free (s : State) : State := s.sts [(.HST_RING_CFG_coal_us, ix, bits v 22 8), (.HST_RING_CFG_buf_kib, ix, bits v 30 5)]
    let locked := [(Fld.HST_RING_CFG_log2_size, bits v 0 5), (.HST_RING_CFG_half, bits v 6 1), (.HST_RING_CFG_vec, bits v 7 11),
      (.HST_RING_CFG_host_port, bits v 18 4)]
    if s.on .HST_RING_CFG_en ix then
      let s := if locked.any (fun f => s.rd f.1 ix ≠ f.2) then s.st .HST_RING_STAT_cfg_err ix 1 else s
      (free s).st .HST_RING_CFG_en ix (b2n en)
    else
      let s := free (locked.foldl (fun s f => s.st f.1 ix f.2) s)
      if ¬ en then s
      else if (if fn = 0 then 1024 else 16) ≤ bits v 7 11 then s.st .HST_RING_STAT_cfg_err ix 1
      else
        let s := s.sts [(.HST_RING_CFG_en, ix, 1), (.HST_RING_STAT_dev_idx, ix, 0)]
        { s with host := { s.host with swCnt := s.host.swCnt.erase ix, stopped := s.host.stopped.erase ix, lack := s.host.lack.erase ix } }

/-- RING_CFG_WRITE (R335, R352, R474). -/
def doRingCfgWrite (fn r value : Nat) (s : State) : State := (s.ringCfg fn r value).lackAll

def execRingCfgWrite (fn r value : Nat) (s : State) : Host.Outcome State Fault Refusal := doneReg false (doRingCfgWrite fn r value) s

/-- Forwarding modes, in which the packet rings work (R392). -/
def State.forwarding (s : State) : Bool := decide (2 ≤ s.mode ∧ s.mode ≤ 5)

/-- The TX rings of a host port with an entry that may be taken, as fn × 64 + ring (R345). -/
def State.txReady (s : State) (k : Nat) : List Nat :=
  (List.range 65).flatMap (fun fn => (List.range (if fn = 0 then 16 else 2)).filterMap (fun i =>
    let r := 16 + i
    if s.ringPort fn r = k ∧ s.ringUp fn r ∧ s.ringWaiting fn r ≠ 0 ∧ (fn = 0 ∨ s.on .HST_FN_tx_en [0, fn]) then some (fn * 64 + r) else none))

/-- The ring that frame round robin serves next on a host port (R345). -/
def State.txNext (s : State) (k : Nat) : Option Nat :=
  let l := s.txReady k
  let last := s.sched.txRR.getD [k] 0
  match l.find? (fun x => decide (last ≤ x)) with
  | some x => some x
  | none => l.head?

/-- TX_ENTRY: an entry is consumed and its frame presented at its host port's ingress (R344, R345). A frame whose host memory cannot be read makes no frame. -/
def doTxEntry (fn r : Nat) (entry frame : Option (List Byte)) (s : State) : State :=
  let k := s.ringPort fn r
  let port := 1056 + k
  if ringKind fn r ≠ some .tx ∨ ¬ s.forwarding ∨ ¬ s.portClear port ∨ s.txNext k ≠ some (fn * 64 + r)
      ∨ s.xingBusy (s.ringEngine fn r) 6 0 then s
  else match entry with
    | none => s.ringStop fn r 1
    | some e =>
      let s := { s with sched := { s.sched with txRR := s.sched.txRR.set [k] (fn * 64 + r + 1) } }
      let s := s.st .HST_RING_STAT_dev_idx [fn, r] (s.devIdx fn r + 1)
      let len := le e 8 2
      let tf := byteAt e 11
      let bad := decide (len < 60) || decide (16379 < len) || decide (16 ≤ tf) || le e 14 2 ≠ 0 || leNat (slice e 22 10) ≠ 0
      let s := if bad then s.bump .HST_CNT_v [0, 1] 1
        else match frame with
          | none => (s.bump .HST_CNT_v [0, 1] 1).bump .HST_CNT_v [0, 3] 1
          | some b =>
            let b := slice b 0 len
            let f := (Frame.atPort (b ++ fcs b) port (if fn = 0 then byteAt e 10 else fnSlice fn) (tf % 8)).mset 179 16 (le e 12 2)
            s.addFr { f with ring := true, launch := if bit tf 3 then some (le e 16 6) else none }
      s.writeBack fn r

def execTxEntry (fn r : Nat) (entry frame : Option (List Byte)) (s : State) : Host.Outcome State Fault Refusal := done (doTxEntry fn r entry frame s)

/-- The RXC entry of a frame, its phase bit still 0 (R348). -/
def rxcEntry (f : Frame) (slot used : Nat) : List Byte :=
  let t := f.m 115 64
  record 32 [(0, 2, f.bytes.length), (2, 2, slot), (4, 1, used), (5, 1, f.m 107 8), (6, 2, f.inPort), (8, 1, f.slice),
    (9, 1, f.tc % 8 + 8 * f.m 103 1 + 16 * f.m 104 1), (12, 4, bits t 16 32), (16, 2, bits t 48 16), (18, 2, bits t 0 16), (20, 4, f.hash), (24, 2, f.gen)]

/-- RX_DELIVERY: the first frame at host port index k goes to its ring (R346-R348). -/
def doRxDelivery (k : Nat) (bufs : List Nat) (s : State) : State :=
  match s.rxHead k with
  | none => s
  | some f =>
    let (fn, r, redirected) := s.rxRing k f
    let n := s.rxNeed fn r f.bytes.length
    if ¬ s.forwarding ∨ ¬ s.rxUsable fn r ∨ ¬ s.rxFits fn r f.bytes.length ∨ bufs.length ≠ n
        ∨ s.xingBusy (portHalf (1056 + k)) 6 0 then s
    else
      let step := max 2 (min 16 (s.rd .HST_RING_CFG_buf_kib [fn, r])) * 1024
      let slot := s.devIdx fn r % s.ringSize fn r
      let s := (List.range n).foldl (fun (s : State) i => s.hostWrite (bufs.getD i 0) ((f.bytes.drop (i * step)).take step)) s
      let s := s.st .HST_RING_STAT_dev_idx [fn, r] (s.devIdx fn r + n)
      let s := if redirected then s.bump .HST_CNT_v [0, 2] 1 else s
      ((s.ringPut fn (r + 16) (rxcEntry f slot n) 9 7 true).delFr f.id).lackNote k

def execRxDelivery (k : Nat) (bufs : List Nat) (s : State) : Host.Outcome State Fault Refusal := done (doRxDelivery k bufs s)

/-- RING_STALLED: a VF receive ring that the frame waiting at its port has found without slots for `rx_stall_us` is stopped (R347). -/
def doRingStalled (v r : Nat) (s : State) : State :=
  let b := 32 + r % 16
  let k := s.ringPort v (b + 16)
  match s.rxHead k with
  | none => s
  | some f =>
    if v = 0 ∨ (ringKind v r ≠ some .rxb ∧ ringKind v r ≠ some .rxc)
        ∨ s.rxRing k f ≠ (v, b, false) ∨ s.rxFits v b f.bytes.length then s
    else
      let s := s.runTo (s.host.lack.getD [v, b] s.elapsed + max 1 (s.rd .HST_RX_CFG_rx_stall_us [0]) * 1000)
      let s := { s with host := { s.host with stopped := s.host.stopped.set [v, r] false } }
      ((s.st .HST_RING_STAT_stalled [v, r] 1).raise 0x0002 2 [(0, 1, r), (1, 1, v)] (some v)).lackNote k

def execRingStalled (v r : Nat) (s : State) : Host.Outcome State Fault Refusal := done (doRingStalled v r s)

/-- MSIX_HOLDOFF_END: at the end of the hold-off, what was written meanwhile is covered by one message, which begins another hold-off (R352). -/
def doMsixHoldoffEnd (fn vec : Nat) (s : State) : State :=
  match s.host.hold.get? [fn, vec] with
  | none => s
  | some due =>
    let e := s.host.holdEnd.getD [fn, vec] (s.elapsed, 64)
    let s := s.runTo e.1
    let s := { s with host := { s.host with hold := s.host.hold.erase [fn, vec], holdEnd := s.host.holdEnd.erase [fn, vec] } }
    if due then (s.msixSend fn vec).holdBegin fn vec e.2 else s

def execMsixHoldoffEnd (fn vec : Nat) (s : State) : Host.Outcome State Fault Refusal := done (doMsixHoldoffEnd fn vec s)

/-- The fields of the HST_ block. -/
def hstFields : List Nat := ((regsOf 18).flatMap Reg.fields).map Fld.ctorIdx

/-- A function's HST_ instance, its MSI-X table and its rings at their reset values (R354), with what its configuration space holds (PCI Express's own reset, log entry 31). -/
def State.fnReset (s : State) (fn : Nat) : State :=
  let keep {α : Type} (m : SMap α) : SMap α := m.filter (fun e => decide (e.1.head? ≠ some fn))
  { s with
    regs := s.regs.filter (fun e => match e.1 with | f :: i :: _ => !(hstFields.contains f && i = fn) | _ => true)
    host := { s.host with
      swCnt := keep s.host.swCnt
      stopped := keep s.host.stopped
      evtSeq := keep s.host.evtSeq
      evtLost := keep s.host.evtLost
      msix := keep s.host.msix
      hold := keep s.host.hold
      holdEnd := keep s.host.holdEnd
      msixCtl := keep s.host.msixCtl
      cfgSpace := keep s.host.cfgSpace
      lack := keep s.host.lack
      d3 := keep s.host.d3 } }

/-- A function's reset begins: it fetches no more, what it has taken and not started goes, and what has started runs on to a completion that is discarded (R354). -/
def State.flrBegin (s : State) (fn : Nat) : State :=
  let own := s.host.taken.filter (fun t => t.hdr.fn = fn && t.started)
  { s with host := { s.host with
    flr := if s.host.flr.contains fn then s.host.flr else s.host.flr ++ [fn]
    taken := s.host.taken.filter (fun t => decide (t.hdr.fn ≠ fn) || t.started)
    voidC := s.host.voidC ++ (own.map Taken.hdr).filter (fun d => !s.host.voidC.any (fun x => sameHdr x d)) } }

/-- A function's reset ends once nothing that it had started runs: the slice of a VF is aborted, and the instance returns to its reset values (R354). -/
def State.flrEnd (s : State) (fn : Nat) : State :=
  if ¬ s.host.flr.contains fn ∨ s.host.taken.any (fun t => t.hdr.fn = fn) then s
  else
    let s := (if fn = 0 then s else (s.abortSlice (fnSlice fn)).2).fnReset fn
    { s with host := { s.host with flr := s.host.flr.filter (fun x => decide (x ≠ fn)) } }

/-- The function resets that wait for started descriptors go on as far as they can. -/
def State.flrSettle (s : State) : State := s.host.flr.foldl (fun s fn => s.flrEnd fn) s

/-- The reset of some functions (R354). -/
def State.fnResets (s : State) (fns : List Nat) : State := (fns.foldl (fun s fn => s.flrBegin fn) s).flrSettle

/-- The reset of every function (R354). -/
def State.hostReset (s : State) : State := s.fnResets (List.range 65)

/-- FLR of VF v, or of PF0 for 0 (R354). While a descriptor that the function had started still runs, the reset waits for it and ends when the device idles or at the next FLR (log entry 31). -/
def doFlr (v : Nat) (s : State) : State :=
  if v = 0 then s.hostReset else if 64 < v then s else s.fnResets [v]

def execFlr (v : Nat) (s : State) : Host.Outcome State Fault Refusal := done (doFlr v s)

/-- HOT_RESET (R354). -/
def doHotReset (s : State) : State := s.hostReset

def execHotReset (s : State) : Host.Outcome State Fault Refusal := done (doHotReset s)

/-- PERST_N: its assertion resets the host-interface state (R468). -/
def doPerstN (low : Bool) (s : State) : State :=
  let s := if low then s.hostReset else s
  { s with pkg := { s.pkg with perstLow := low } }

def execPerstN (low : Bool) (s : State) : Host.Outcome State Fault Refusal := done (doPerstN low s)

/-- MSI-X vectors of a function (R326). -/
def vectors (fn : Nat) : Nat := if fn = 0 then 1024 else 16

/-- What a 32-bit base address register keeps of a write: the low word of a BAR of some size, and the high word above it (R324); the sizes are the spec's, the place of the registers PCI Express's own (log entry 77). -/
def barMask (base off size0 size2 : Nat) : Option Nat :=
  let low (n : Nat) : Nat := (2 ^ 32 - n) % 2 ^ 32
  if off = base then some (low size0)
  else if off = base + 4 ∨ off = base + 12 then some (2 ^ 32 - 1)
  else if off = base + 8 then some (low size2)
  else if off = base + 16 ∨ off = base + 20 then some 0
  else none

/-- The base address register at an offset of a function's configuration space: PF0's own, and those of the VFs in its SR-IOV capability; a VF's own read 0 (R324, log entry 77). -/
def cfgBar (fn off : Nat) : Option Nat :=
  if fn ≠ 0 then (if 0x10 ≤ off ∧ off ≤ 0x24 ∧ off % 4 = 0 then some 0 else none)
  else match barMask 0x10 off (64 * 1024 * 1024) (32 * 1024) with
    | some m => some m
    | none => barMask (Config.sriovCap + 0x24) off (64 * 1024) (4 * 1024)

/-- A 64-bit non-prefetchable BAR shows its type in the low bits of its low word (R324). -/
def barType (fn off : Nat) : Nat :=
  if fn = 0 ∧ (off = 0x10 ∨ off = 0x18 ∨ off = Config.sriovCap + 0x24 ∨ off = Config.sriovCap + 0x2C) then 4 else 0

/-- A word of the PCI Express or the Advanced Error Reporting capability, at the places of PCI Express itself: the bits that R326 gives, their value, the bits that software writes, and what those hold after a reset (log entry 77). Payload 512 B, function level reset; read requests up to 4,096 B; x16 at 32 GT/s without ASPM; 10-bit tags, no LTR and no TPH; 2.5-32 GT/s; ECRC generation and checking. A VF has its physical function's settings. -/
def pcieWord (fn off : Nat) : Option (Nat × Nat × Nat × Nat) :=
  let c := Config.pcieCap
  let a := Config.aerCap
  let pf (m : Nat) : Nat := if fn = 0 then m else 0
  if off = c + 0x04 then some (0x10000007, 0x10000002, 0, 0)
  else if off = c + 0x08 then some (0x8000, 0, pf 0x71EF, pf 0x2000)
  else if off = c + 0x0C then some (0xFFF, 0x105, 0, 0)
  else if off = c + 0x24 then some (0x33800, 0x30000, 0, 0)
  else if off = c + 0x28 then some (0, 0, pf 0x1000, 0)
  else if off = c + 0x2C then some (0xFE, 0x3E, 0, 0)
  else if off = a + 0x08 then some (0, 0, pf 0xFFFFFFFF, 0)
  else if off = a + 0x0C then some (0, 0, pf 0xFFFFFFFF, pf 0x462030)
  else if off = a + 0x14 then some (0, 0, pf 0xFFFFFFFF, pf 0x2000)
  else if off = a + 0x18 then some (0xA0, 0xA0, pf 0x140, 0)
  else none

/-- The words of the configuration space that R324 and R326 give, none elsewhere. -/
def State.cfgKnown (s : State) (fn off : Nat) : Option Nat :=
  let other := Config.pcieConfig fn off
  match cfgBar fn off with
  | some m => some ((s.host.cfgSpace.getD [fn, off] 0 &&& m) + barType fn off)
  | none =>
    if off = 0 then some (other % 2 ^ 16 + (if fn = 0 then 0x9204 else 0x9205) * 2 ^ 16)
    else if off = 8 then some (other % 2 ^ 8 + 0x028000 * 2 ^ 8)
    else if off = Config.pmcsr then some (other / 4 * 4 % 2 ^ 32 + (if s.host.d3.getD [fn] false then 3 else 0))
    else if off = Config.msixCap then some (other % 2 ^ 16 + (s.host.msixCtl.getD [fn] 0 + (vectors fn - 1)) * 2 ^ 16)
    else if off = Config.msixCap + 4 then some 2
    else if off = Config.msixCap + 8 then some ((if fn = 0 then 0x4000 else 0x0800) + 2)
    else if fn = 0 ∧ off = Config.sriovCap + 0x0C then some (64 + 64 * 2 ^ 16)
    else if fn = 0 ∧ off = Config.sriovCap + 0x14 then some (1 + 1 * 2 ^ 16)
    else if fn = 0 ∧ off = Config.sriovCap + 0x18 then some (other % 2 ^ 16 + 0x9205 * 2 ^ 16)
    else (pcieWord fn off).map (fun (m, v, rw, rst) =>
      let fixed := other % 2 ^ 32
      fixed - (fixed &&& (m ||| rw)) + v + s.host.cfgSpace.getD [fn, off] rst)

/-- The vectors of a function whose pending bits are no longer masked send their messages (R352). -/
def State.msixFlush (s : State) (fn : Nat) : State :=
  if ¬ s.msixEn fn ∨ s.msixFnMask fn then s
  else (List.range (vectors fn)).foldl (fun (s : State) v =>
    match s.host.msix.get? [fn, v] with
    | some e => if e.pend ∧ ¬ e.masked then ({ s with host := { s.host with msix := s.host.msix.set [fn, v] { e with pend := false } } }).msixSend fn v else s
    | none => s) s

/-- A configuration write: the power state (R326), MSI-X Enable and Function Mask (R352), base address registers (R324), and the words of the PCI Express and error reporting capabilities, where the bit that initiates a function level reset does so (R326, R354); every other word takes none (log entry 77). -/
def State.cfgWrite (s : State) (fn off v : Nat) : State :=
  match cfgBar fn off with
  | some m => { s with host := { s.host with cfgSpace := s.host.cfgSpace.put [fn, off] (v &&& m) 0 } }
  | none =>
    if off = Config.pmcsr then { s with host := { s.host with d3 := s.host.d3.put [fn] (decide (v % 4 = 3)) false } }
    else if off = Config.msixCap then
      ({ s with host := { s.host with msixCtl := s.host.msixCtl.put [fn] (bits v 30 2 * 2 ^ 14) 0 } }).msixFlush fn
    else match pcieWord fn off with
      | some (_, _, rw, rst) =>
        let s := { s with host := { s.host with cfgSpace := s.host.cfgSpace.put [fn, off] (v &&& rw) rst } }
        if off = Config.pcieCap + 0x08 ∧ bit v 15 then doFlr fn s else s
      | none => s

/-- CONFIG_REQUEST: answered once PERST_N is released and RESET has ended, else Retry Status (R469). -/
def doConfigRequest (fn off : Nat) (write : Option Nat) (s : State) : State :=
  if s.pkg.perstLow ∨ ¬ s.pkg.resetEnded ∨ 64 < fn then { s with host := { s.host with cfgResp := none } }
  else match write with
    | none => { s with host := { s.host with cfgResp := some ((s.cfgKnown fn off).getD (Config.pcieConfig fn off)) } }
    | some v => ({ s with host := { s.host with cfgResp := some 0 } }).cfgWrite fn off v

def execConfigRequest (fn off : Nat) (write : Option Nat) (s : State) : Host.Outcome State Fault Refusal := done (doConfigRequest fn off write s)

end Sys2Proof.Machine
end

