-- ==== Sys2Proof/Machine/Lanes.lean ====
section
/-!
DEFINITION. Line lanes and ports (R5, R418-R437, R443, R476), the buffer's port state table that follows their link events (R144-R146), and Gulub links (R20, R399, R400, R438-R442, R475).
-/

namespace Sys2Proof.Machine

/-- The LAN_ index of a port or a lane: tile and tile-local lane. -/
def lanIx (p : Nat) : List Nat := [p / 128, p % 128]

/-- The state of a port (R432): 0 NONE, 1 STANDBY, 2 ACQUIRE, 3 ALIGN, 4 UP, 5 TEST. -/
def State.portState (s : State) (p : Nat) : Nat := s.rd .LAN_PORT_STAT_state (lanIx p)

/-- The configured ports with their settings, in port order. -/
def State.portList (s : State) : List (Nat × PortCfg) := s.lanes.ports.filterMap (fun e => e.1.head?.map (fun p => (p, e.2)))

/-- The configured port that a lane belongs to (R5). -/
def State.portOfLane (s : State) (l : Nat) : Option (Nat × PortCfg) := s.portList.find? (fun e => decide (e.1 ≤ l ∧ l < e.1 + e.2.width))

/-- A lane in a test mode: a loop or a pattern is set (R435, R436). -/
def State.laneTest (s : State) (l : Nat) : Bool := s.on .LAN_LANE_STAT_loop (lanIx l) || s.on .LAN_LANE_STAT_pattern (lanIx l)

/-- A lane of a removed port that is not OFF yet (R432). -/
def State.laneLeaving (s : State) (l : Nat) : Bool := s.lanes.removing.any (fun e => decide (e.1 ≤ l ∧ l < e.1 + e.2.1))

/-- The power state and rate code of a lane (R437); a lane of a removed port keeps its own until the flush fence retires (R432). -/
def State.lanePower (s : State) (l : Nat) : State :=
  if s.laneLeaving l then s
  else match s.portOfLane l with
  | some (p, c) =>
    let pw := if s.laneTest l ∨ 2 ≤ s.portState p then 2 else if s.portState p = 1 then 1 else 0
    s.sts [(.LAN_LANE_STAT_pwr, lanIx l, pw), (.LAN_LANE_STAT_rate, lanIx l, c.rate)]
  | none =>
    if s.laneTest l then s.sts [(.LAN_LANE_STAT_pwr, lanIx l, 2), (.LAN_LANE_STAT_rate, lanIx l, 3)]
    else
      { s.sts [(.LAN_LANE_STAT_pwr, lanIx l, 0), (.LAN_LANE_STAT_rate, lanIx l, 3), (.LAN_LANE_STAT_sig, lanIx l, 0),
        (.LAN_LANE_STAT_cdr_lock, lanIx l, 0), (.LAN_LANE_STAT_eq_default, lanIx l, 0), (.LAN_LANE_STAT_rx_pos, lanIx l, 0)] with
        lanes := { s.lanes with eq := s.lanes.eq.erase [l] } }

/-- The level of a bit pair 2A + B, A first in time, by Gray code, and the pair of a level (R424): each is its own inverse. -/
def gray (p : Nat) : Nat := if p % 4 = 2 then 3 else if p % 4 = 3 then 2 else p % 4

/-- A swap of a lane's two wires (R425). -/
def wireSwap (on : Bool) (l : Nat) : Nat := if on then 3 - l % 4 else l % 4

/-- The transmitter's precoder over the Gray-coded levels of a lane, from the last level sent: P(j) = (G(j) − P(j−1)) mod 4 (R424). -/
def precode (last : Nat) : List Nat → List Nat
  | [] => []
  | g :: gs => let p := (g % 4 + 4 - last % 4) % 4; p :: precode p gs

/-- The receiver's inverse: G(j) = (P(j) + P(j−1)) mod 4 (R424). -/
def unprecode (last : Nat) : List Nat → List Nat
  | [] => []
  | p :: ps => (p % 4 + last % 4) % 4 :: unprecode (p % 4) ps

/-- The levels at the balls for the bit pairs of a lane under its `lflags`: Gray code, precoder, wire swap (R424, R425, R427). -/
def lineSend (flags last : Nat) (pairs : List Nat) : List Nat :=
  let gs := pairs.map gray
  (if bit flags 3 then precode last gs else gs).map (wireSwap (bit flags 1))

/-- The bit pairs that a receiver recovers from the levels at the balls (R424, R425, R427). -/
def lineGet (flags last : Nat) (levels : List Nat) : List Nat :=
  let ls := levels.map (wireSwap (bit flags 2))
  (if bit flags 4 then unprecode last ls else ls).map gray

/-- The physical lane of logical lane i of a port (R431). -/
def txLane (p : Nat) (c : PortCfg) (i : Nat) : Nat := if c.txRev then p + c.width - 1 - i else p + i

/-- The lanes of a port. -/
def portLanes (p w : Nat) : List Nat := (List.range w).map (fun i => p + i)

/-- Power states of the lanes of a port. -/
def State.lanesPower (s : State) (p w : Nat) : State := (portLanes p w).foldl (fun s l => s.lanePower l) s

/-- The entry in force of a lane at a rate, as 16 bytes (R426, R428). -/
def State.eqEntry (s : State) (l r : Nat) : List Byte := leBytes 16 (s.rd .LAN_LANE_EQ_entry (lanIx l ++ [r]))

/-- Loads the entries of a port's lanes into the SerDes; the precoders begin again (R424, R428, R429). -/
def State.eqLoad (s : State) (p : Nat) (c : PortCfg) : State :=
  (portLanes p c.width).foldl (fun (s : State) l =>
    let e := s.eqEntry l c.rate
    ({ s with lanes := { s.lanes with eq := s.lanes.eq.set [l] e, preT := s.lanes.preT.erase [l], preR := s.lanes.preR.erase [l] } }).st .LAN_LANE_STAT_eq_default (lanIx l) (b2n (!bit (byteAt e 2) 0))) s

/-- The flags of the entry that the SerDes of a lane holds (R427, R429). -/
def State.laneFlags (s : State) (l : Nat) : Nat := byteAt (s.lanes.eq.getD [l] []) 2

/-- A lane sends levels at its balls; its precoder goes on from the last (R424). -/
def State.lineSent (s : State) (l : Nat) (ls : List Nat) : State :=
  match ls.getLast? with
  | none => s
  | some x => { s with lanes := { s.lanes with line := s.lanes.line ++ [(l, ls)], preT := s.lanes.preT.put [l] (wireSwap (bit (s.laneFlags l) 1) x) 0 } }

/-- A frame goes out on the lanes of its port: each logical lane's bit pairs as levels at the balls of its physical lane (R424, R425, R431). -/
def State.lineOut (s : State) (p : Nat) (c : PortCfg) (b : List Byte) : State :=
  let (v, s) := s.draw
  (List.range c.width).foldl (fun (s : State) i =>
    let l := txLane p c i
    s.lineSent l (lineSend (s.laneFlags l) (s.lanes.preT.getD [l] 0) (Config.pcsPairs v b c.width c.rate i))) s

/-- A frame comes in on the lanes of its port: the receivers recover the bit pairs of each physical lane (R424, R425). -/
def State.lineIn (s : State) (p : Nat) (c : PortCfg) (b : List Byte) : State :=
  let (v, s) := s.draw
  (portLanes p c.width).foldl (fun (s : State) l =>
    let ls := Config.lineLevels v b l
    let last := match ls.getLast? with | some x => wireSwap (bit (s.laneFlags l) 2) x | none => s.lanes.preR.getD [l] 0
    { s with lanes := { s.lanes with got := s.lanes.got ++ [(l, lineGet (s.laneFlags l) (s.lanes.preR.getD [l] 0) ls)], preR := s.lanes.preR.put [l] last 0 } }) s

/-- A link-up event at the buffer's port state table (R144). -/
def State.bufUp (s : State) (p : Nat) : State :=
  let ix := [(portHalf p).n, localIdx p]
  match s.rd .BUF_PORT_STAT_state ix with
  | 1 => (s.st .BUF_PORT_STAT_state ix 0).bump .BUF_CNT_v [(portHalf p).n, 3] 1
  | 2 => s.st .BUF_PORT_STAT_up_seen ix 1
  | 3 => s.st .BUF_PORT_STAT_state ix 0
  | _ => s

/-- A link-down event at the buffer's port state table (R144). -/
def State.bufDown (s : State) (p : Nat) : State :=
  let ix := [(portHalf p).n, localIdx p]
  if s.rd .BUF_PORT_STAT_state ix ≠ 0 then s
  else if s.rd .BUF_PORT_CFG_debounce_us ix = 0 then s.flushBegin p false none
  else s.st .BUF_PORT_STAT_state ix 1

/-- A port takes a state of R432; leaving UP records its cause, counts and hands the link-down event on; entering ACQUIRE loads its settings; while a configured port is not UP it sends Remote Fault toward its partner. -/
def State.portGo (s : State) (p new cause : Nat) : State :=
  let old := s.portState p
  let ix := lanIx p
  let s := s.st .LAN_PORT_STAT_state ix new
  let s := { s with lanes := { s.lanes with rf := s.lanes.rf.put [p] (decide (new ≠ 0 ∧ new ≠ 4)) false } }
  let s := match s.lanes.ports.get? [p] with
    | some c =>
      let s := if new = 2 then
          (s.eqLoad p c).sts [(.LAN_PORT_STAT_tx_rev, ix, b2n c.txRev), (.LAN_PORT_STAT_fec_corr, ix, b2n c.fecCorr), (.LAN_PORT_STAT_fec_ind, ix, b2n c.fecInd)]
        else s
      s.lanesPower p c.width
    | none => s
  if old = 4 ∧ new ≠ 4 then
    ((((s.st .LAN_PORT_STAT_cause ix cause).bump .LAN_PORT_CNT_v (ix ++ [8]) 1).raise 0x0120 (portHalf p).n [(0, 2, p), (2, 1, new), (3, 1, cause)])).bufDown p
  else s

/-- A port leaves test, or is new: ACQUIRE where enabled, else STANDBY (R432). -/
def State.portEnter (s : State) (p : Nat) : State :=
  match s.lanes.ports.get? [p] with
  | some c => s.portGo p (if c.enable then 2 else 1) 8
  | none => s

/-- A port's gate lists are discarded and their memory freed (R432). -/
def State.gatesDrop (s : State) (p : Nat) : State :=
  let n := (match s.glA p with | some g => g.ents.length | none => 0) + (match s.glP p with | some g => g.ents.length | none => 0)
  (({ s with timed := { s.timed with gl := (s.timed.gl.erase [p, 0]).erase [p, 1] } }).bump .GTE_MEM_free [(portHalf p).n] n).glState p

/-- The lanes of a removed port go OFF, and its PORT_SET completes (R432, R443). -/
def State.lanesOff (s : State) (p w : Nat) (d : Option Hdr) : State :=
  let s := { s with lanes := { s.lanes with removing := s.lanes.removing.filter (fun e => decide (e.1 ≠ p)) } }
  let s := s.lanesPower p w
  match d with | some d => s.ok d 0 | none => s

/-- Removes a port (R432). Its lanes go OFF once no flush of it is under way. -/
def State.portRemove (s : State) (p : Nat) (c : PortCfg) (d : Option Hdr) : State :=
  let ix := lanIx p
  let s := { s with lanes := { s.lanes with removing := s.lanes.removing ++ [(p, c.width, d)] } }
  let s := s.portGo p 0 8
  let s := s.gatesDrop p
  let s := { s with lanes := { s.lanes with
    ports := s.lanes.ports.erase [p], bucket := s.lanes.bucket.erase [p], win := s.lanes.win.erase [p], raw := s.lanes.raw.erase [p] } }
  let s := s.sts [(.LAN_PORT_STAT_width, ix, 0), (.LAN_PORT_STAT_rate, ix, 0), (.LAN_PORT_STAT_tx_rev, ix, 0), (.LAN_PORT_STAT_fec_corr, ix, 0),
    (.LAN_PORT_STAT_fec_ind, ix, 0), (.LAN_PORT_STAT_hi_ser, ix, 0)]
  let b := s.rd .BUF_PORT_STAT_state [(portHalf p).n, localIdx p]
  if b = 1 ∨ b = 2 then s else s.lanesOff p c.width d

/-- An entry for a configured port of the same width and rate (R430). `run` is false before the PORTS phase. -/
def State.portChange (s : State) (p : Nat) (c n : PortCfg) (run : Bool) : State :=
  let s := { s with lanes := { s.lanes with ports := s.lanes.ports.set [p] n } }
  let st := s.portState p
  if c = n ∨ ¬ run then s
  else if c.enable ≠ n.enable ∧ n.enable ∧ st = 1 then s.portGo p 2 8
  else if c.enable ≠ n.enable ∧ ¬ n.enable ∧ 2 ≤ st ∧ st ≤ 4 then s.portGo p 1 8
  else if (c.txRev ≠ n.txRev ∨ c.fecCorr ≠ n.fecCorr ∨ c.fecInd ≠ n.fecInd) ∧ 2 ≤ st ∧ st ≤ 4 then s.portGo p 2 8
  else s

/-- A port map entry (R5, R430): its status and state code, whether it completes later, and the state. -/
def State.portSetRun (s : State) (first w rate fl rsvd : Nat) (run : Bool) (d : Option Hdr) : Nat × Nat × Bool × State :=
  let bad := decide (1024 ≤ first) || !(([0, 1, 2, 4, 8] : List Nat).contains w) || decide (16 ≤ fl) || rsvd ≠ 0 || decide (3 ≤ rate) || (w ≠ 0 && first % w ≠ 0)
  if bad then (stParam, 0, false, s)
  else
    let n : PortCfg := ⟨w, rate, bit fl 0, bit fl 1, bit fl 2, bit fl 3⟩
    match s.lanes.ports.get? [first] with
    | some c =>
      if w = 0 then (stOk, 0, true, s.portRemove first c d)
      else if c.width ≠ w ∨ c.rate ≠ rate then (stReject, 0x70, false, s)
      else (stOk, 0, false, s.portChange first c n run)
    | none =>
      if w = 0 then (stOk, 0, false, s)
      else if (portLanes first w).any (fun l => (s.portOfLane l).isSome || s.laneLeaving l) then (stReject, 0x70, false, s)
      else if (portLanes first w).any (fun l => s.laneTest l) then (stReject, 0x71, false, s)
      else
        let s := { s with lanes := { s.lanes with ports := s.lanes.ports.set [first] n } }
        let s := s.sts [(.LAN_PORT_STAT_width, lanIx first, w), (.LAN_PORT_STAT_rate, lanIx first, rate)]
        (stOk, 0, false, if run then s.portEnter first else s)

/-- PORT_SET (R430, R443). -/
def doPortSet (d : Hdr) (first w rate fl rsvd : Nat) (s : State) : State :=
  s.serve d ⟨0x100, .config, true, false, 0⟩ true (cleanHdr d false false false) fun s =>
    let (st, x, wait, s) := s.portSetRun first w rate fl rsvd true (some d)
    if wait then s else s.complete d st x 0

def execPortSet (d : Hdr) (first w rate fl rsvd : Nat) (s : State) : Host.Outcome State Fault Refusal := doneDesc (.portSet (bareHdr d) first w rate fl rsvd) d (doPortSet d first w rate fl rsvd) s

/-- An entry of a table lies in the ranges of R427, with the sum of R428. -/
def eqEntryOk (e : List Byte) : Bool :=
  let sg (i : Nat) : Int := signed 8 (byteAt e i)
  let within (i : Nat) (lo hi : Int) : Bool := decide (lo ≤ sg i ∧ sg i ≤ hi)
  decide (le e 0 2 < 1024) && decide (byteAt e 2 < 32) && decide (byteAt e 3 < 3) && decide (byteAt e 4 < 32)
    && within 5 (-8) 8 && within 6 (-16) 16 && within 7 (-32) 0 && within 8 16 64 && within 9 (-32) 0
    && decide (byteAt e 10 < 32) && decide (byteAt e 11 < 32) && within 12 (-32) 31 && within 13 (-32) 31 && within 14 0 31 && byteAt e 15 = 0
    && decide (([5, 6, 7, 8, 9].map (fun i => (sg i).natAbs)).sum ≤ 64)

/-- The entries of an equalisation table, none where R428 refuses it. -/
def eqParse (b : List Byte) : Option (List (List Byte)) :=
  let n := le b 4 2
  let es := (List.range n).map (fun i => slice b (16 + 16 * i) 16)
  if 1 ≤ n ∧ n ≤ 3072 ∧ b.length = 16 + 16 * n ∧ byteAt b 6 = 1 ∧ leNat (slice b 7 9) = 0 ∧ es.all eqEntryOk
      ∧ (es.map (fun e => (le e 0 2, byteAt e 3))).Nodup then some es
  else none

/-- Applies a table: the entries come into force, and an entry with `valid` 0 gives way to the default (R428, R429). -/
def State.eqApply (s : State) (b : List Byte) (es : List (List Byte)) : State :=
  let s := (List.range 8).foldl (fun s t => s.st .LAN_EQ_ID_v [t] (le b 0 4)) s
  es.foldl (fun s e =>
    let ix := lanIx (le e 0 2) ++ [byteAt e 3]
    s.st .LAN_LANE_EQ_entry ix (if bit (byteAt e 2) 0 then leNat e else Fld.reset .LAN_LANE_EQ_entry ix)) s

/-- LANE_EQ_SET (R426-R429, R443). `restart` takes the running ports that use a named lane to ACQUIRE. -/
def doLaneEqSet (d : Hdr) (restart : Bool) (s : State) : State :=
  s.serve d ⟨0x101, .config, true, false, 0⟩ true (cleanHdr d false false true) fun s => s.withBuf d fun b =>
    match eqParse b with
    | none => s.fail d stParam
    | some es =>
      let s := s.eqApply b es
      let hit := (s.portList.filter (fun e => decide (2 ≤ s.portState e.1 ∧ s.portState e.1 ≤ 4)
        && es.any (fun x => decide (e.1 ≤ le x 0 2 ∧ le x 0 2 < e.1 + e.2.width)))).map (fun e => e.1)
      let s := if restart then hit.foldl (fun s p => s.portGo p 2 8) s else s
      s.ok d es.length

def execLaneEqSet (d : Hdr) (restart : Bool) (s : State) : Host.Outcome State Fault Refusal := doneDesc (.laneEqSet (bareHdr d) restart) d (doLaneEqSet d restart) s

/-- A port after a change of its lanes' tests (R432, R436): `was` says whether a lane of it was in test. -/
def State.portTest (s : State) (p : Nat) (c : PortCfg) (was : Bool) : State :=
  let ls := portLanes p c.width
  if ls.any (fun l => s.laneTest l) then
    let s := s.portGo p 5 7
    if ls.all (fun l => s.rd .LAN_LANE_STAT_loop (lanIx l) = 2 && !s.on .LAN_LANE_STAT_pattern (lanIx l)) then s.portGo p 2 7 else s
  else if was then s.portEnter p
  else s

/-- The receiver of a lane in test checks a pattern (R436). -/
def State.laneChecks (s : State) (l : Nat) : Bool := s.lanes.test.getD [l] false && s.on .LAN_LANE_STAT_pattern (lanIx l)

/-- The bit errors that a lane's checker has found since it last told them (R436): none where the data returns inside the tile (R435), else as many as the line brings, for which a free value stands (log entry 63). -/
def State.laneErrs (s : State) (l : Nat) : Nat :=
  if s.laneChecks l ∧ s.rd .LAN_LANE_STAT_loop (lanIx l) ≠ 2 then Config.freeValue s.fresh else 0

/-- A checker has told its errors; those that follow are others. -/
def State.laneTold (s : State) (l : Nat) : State := if s.laneChecks l then { s with fresh := s.fresh + 1 } else s

/-- A checker's lock (R436): at once where the data returns inside the tile, else when the line has brought 64 symbols without error, for which a free value stands until it has; it then stays (log entry 63). -/
def State.laneLock (s : State) (l : Nat) : Bool :=
  s.laneChecks l && (s.rd .LAN_LANE_STAT_loop (lanIx l) = 2 || s.on .LAN_LANE_STAT_prbs_lock (lanIx l) || Config.freeValue s.fresh / 2 ^ 64 % 2 = 1)

/-- What a lane sends onto its balls under a pattern (R436): levels, the square wave 8 UI high and 8 UI low; nothing where a loop squelches the balls or sends received symbols back (R435). -/
def State.patternLevels (s : State) (l loop pattern : Nat) : List Nat :=
  if loop ≠ 0 ∨ pattern = 0 then []
  else if pattern = 4 then (List.replicate 8 3 ++ List.replicate 8 0).map (wireSwap (bit (s.laneFlags l) 1))
  else lineSend (s.laneFlags l) (s.lanes.preT.getD [l] 0) (Config.pattern pattern)

/-- A lane takes a test: the errors of an earlier check are counted, its pattern goes out, and the new checker has not locked (R435, R436). -/
def State.laneSet (s : State) (l loop pattern : Nat) (check : Bool) : State :=
  let s := (s.bump .LAN_PRBS_CNT_v (lanIx l) (s.laneErrs l)).laneTold l
  let on := decide (loop ≠ 0 ∨ pattern ≠ 0)
  let s := ({ s with lanes := { s.lanes with test := s.lanes.test.put [l] (check && on) false } }).sts
    [(.LAN_LANE_STAT_loop, lanIx l, loop), (.LAN_LANE_STAT_pattern, lanIx l, pattern), (.LAN_LANE_STAT_prbs_lock, lanIx l, 0)]
  s.lineSent l (s.patternLevels l loop pattern)

/-- LANE_TEST (R435, R436, R443). -/
def doLaneTest (d : Hdr) (first n loop pattern : Nat) (check : Bool) (s : State) : State :=
  s.serve d ⟨0x102, .config, true, false, 0⟩ true (cleanHdr d false false false) fun s =>
    if 1024 ≤ first ∨ n < 1 ∨ 128 < first % 128 + n ∨ 3 < loop ∨ 4 < pattern then s.fail d stParam
    else
      let ls := portLanes first n
      let same (l : Nat) : Bool := s.rd .LAN_LANE_STAT_loop (lanIx l) = loop && s.rd .LAN_LANE_STAT_pattern (lanIx l) = pattern
        && s.lanes.test.getD [l] false = check
      let hit := s.portList.filter (fun e => ls.any (fun l => decide (e.1 ≤ l ∧ l < e.1 + e.2.width) && !same l))
      let was := hit.map (fun e => (e.1, e.2, (portLanes e.1 e.2.width).any (fun l => s.laneTest l)))
      let s := ls.foldl (fun (s : State) l => s.laneSet l loop pattern check) s
      let s := was.foldl (fun s e => s.portTest e.1 e.2.1 e.2.2) s
      (ls.foldl (fun s l => s.lanePower l) s).ok d 0

def execLaneTest (d : Hdr) (first n loop pattern : Nat) (check : Bool) (s : State) : Host.Outcome State Fault Refusal := doneDesc (.laneTest (bareHdr d) first n loop pattern check) d (doLaneTest d first n loop pattern check) s

/-- PORT_RESTART (R432, R443). -/
def doPortRestart (d : Hdr) (port : Nat) (s : State) : State :=
  s.serve d ⟨0x103, .config, true, false, 0⟩ true (cleanHdr d false false false) fun s =>
    match s.lanes.ports.get? [port] with
    | none => s.reject d 0x31
    | some _ => (if 2 ≤ s.portState port ∧ s.portState port ≤ 4 then s.portGo port 2 8 else s).ok d 0

def execPortRestart (d : Hdr) (port : Nat) (s : State) : Host.Outcome State Fault Refusal := doneDesc (.portRestart (bareHdr d) port) d (doPortRestart d port) s

/-- A port map entry as bytes (R430). -/
def portEntry (p : Nat) (c : PortCfg) : List Byte :=
  record 8 [(0, 2, p), (2, 1, c.width), (3, 1, c.rate), (4, 1, b2n c.enable + 2 * b2n c.txRev + 4 * b2n c.fecCorr + 8 * b2n c.fecInd)]

/-- PORT_READ (R443). -/
def doPortRead (d : Hdr) (s : State) : State :=
  s.serve d ⟨0x110, .reads, false, false, 0⟩ true (cleanHdr d false false true) fun s =>
    let b := s.portList.flatMap (fun e => portEntry e.1 e.2)
    if d.hlen < b.length then s.fail d stParam
    else s.withBuf d fun _ => (s.hostWrite d.haddr b).ok d s.portList.length

def execPortRead (d : Hdr) (s : State) : Host.Outcome State Fault Refusal := doneDesc (.portRead (bareHdr d)) d (doPortRead d) s

/-- EQ_READ: the table in force, its entries by lane and rate (R426, R443). -/
def doEqRead (d : Hdr) (s : State) : State :=
  s.serve d ⟨0x111, .reads, false, false, 0⟩ true (cleanHdr d false false true) fun s =>
    let es := (List.range 1024).flatMap (fun l => (List.range 3).filterMap (fun r => let e := s.eqEntry l r; if bit (byteAt e 2) 0 then some e else none))
    let b := record 16 [(0, 4, s.rd .LAN_EQ_ID_v [0]), (4, 2, es.length), (6, 1, 1)] ++ es.flatten
    if d.hlen < b.length then s.fail d stParam
    else s.withBuf d fun _ => (s.hostWrite d.haddr b).ok d es.length

def execEqRead (d : Hdr) (s : State) : Host.Outcome State Fault Refusal := doneDesc (.eqRead (bareHdr d)) d (doEqRead d) s

/-- The working tile links of a pipe: those that are ACTIVE (R20, R442). -/
def State.tileLinks (s : State) (pipe : Nat) : Nat :=
  ((List.range 8).filter (fun j => s.rd .GLB_LINK_STAT_state [8 + 3 * (pipe / 16), pipe % 16 * 8 + j] = 2)).length

/-- The rate-limit bucket of a port at this moment, in 1/768 byte, for k working tile links (R434). -/
def State.rlCredit (s : State) (port k : Nat) : Int :=
  let (c, t) := s.lanes.bucket.getD [port] ((16384 * 768 : Int), s.elapsed)
  min (16384 * 768 : Int) (c + ((14 * k * s.rate port * (s.elapsed - t) : Nat) : Int))

/-- Test 5 of R476: whether the bucket is negative, and the bucket charged with the frame (R434). -/
def State.rlTest (s : State) (port len : Nat) : Bool × State :=
  let k := s.tileLinks (portPipe port)
  if 7 ≤ k then (false, s)
  else
    let c := s.rlCredit port k
    (decide (c < 0), { s with lanes := { s.lanes with bucket := s.lanes.bucket.set [port] (c - ((768 * len : Nat) : Int), s.elapsed) } })

/-- The destination of a frame that the MAC itself consumes: an IEEE 802.1Qbb PFC frame, by the MAC control type and opcode that that standard gives (R171, log entry 48). -/
def isPfc (b : List Byte) : Bool := (b.take 6).map BitVec.toNat = [0x01, 0x80, 0xC2, 0, 0, 1] && byteAt b 12 * 256 + byteAt b 13 = 0x8808 && byteAt b 14 * 256 + byteAt b 15 = 0x0101

/-- Two bytes, the first the more significant. -/
def be2 (b : List Byte) (i : Nat) : Nat := byteAt b i * 256 + byteAt b (i + 1)

/-- What reaches the MAC of a frame: with `fec_corr` 0 the symbol errors of the codewords since the last frame stay, wherever they lie (R421). -/
def State.fecOut (s : State) (port : Nat) (c : PortCfg) (b : List Byte) : List Byte × State :=
  if c.fecCorr ∨ ¬ s.lanes.raw.getD [port] false then (b, s)
  else
    let (v, s) := s.draw
    (padTo b.length ((Config.bypassBytes v b).take b.length), { s with lanes := { s.lanes with raw := s.lanes.raw.erase [port] } })

/-- A frame at the receiver of a front-panel port: the tests of R476, then the MAC consumes a PFC frame (R171), and any other waits at its pipe with its timestamp (R55, R187). -/
def State.frameIn (s : State) (port : Nat) (c : PortCfg) (bytes : List Byte) (uncorr : Bool) (bitPos : Nat) : State :=
  let bad (s : State) (e cause : Nat) : State := (s.bump .LAN_PORT_CNT_v (lanIx port ++ [e]) 1).dropCount (portHalf port) cause Frame.blank false
  if c.fecInd ∧ uncorr then bad s 5 0x13
  else if ¬ fcsOk bytes then bad s 4 0x13
  else if bytes.length < 64 ∨ 16383 < bytes.length then bad s 6 0x13
  else
    let (neg, s) := s.rlTest port bytes.length
    if neg then bad (s.st .LAN_PORT_STAT_rl (lanIx port) 1) 7 0x14
    else if isPfc bytes then doPfcRx port (be2 bytes 16) ((List.range 8).map (fun i => be2 bytes (18 + 2 * i))) s
    else s.addFr { (Frame.atPort bytes port 0 0).mset 115 64 (tsIn (s.rxTime port bitPos (s.tileNow port))) with tIn := s.rxTime port bitPos (s.tileNow port) }

/-- A port whose lanes are all in NE_PARALLEL: its transmit data returns to its receiver, and its balls are squelched (R435, R436). -/
def State.looped (s : State) (port : Nat) (c : PortCfg) : Bool := (portLanes port c.width).all (fun l => s.rd .LAN_LANE_STAT_loop (lanIx l) = 2)

/-- Symbols arrive at a port in TEST: a lane in the FE loop sends what it recovers back on its own transmitter, with its transmit entry (R435). -/
def State.farEnd (s : State) (port : Nat) (c : PortCfg) (b : List Byte) : State :=
  let (v, s) := s.draw
  (portLanes port c.width).foldl (fun (s : State) l =>
    if s.rd .LAN_LANE_STAT_loop (lanIx l) ≠ 3 then s
    else
      let ls := Config.lineLevels v b l
      let last := match ls.getLast? with | some x => wireSwap (bit (s.laneFlags l) 2) x | none => s.lanes.preR.getD [l] 0
      let got := lineGet (s.laneFlags l) (s.lanes.preR.getD [l] 0) ls
      let s := { s with lanes := { s.lanes with got := s.lanes.got ++ [(l, got)], preR := s.lanes.preR.put [l] last 0 } }
      s.lineSent l (lineSend (s.laneFlags l) (s.lanes.preT.getD [l] 0) got)) s

/-- FRAME_RECEIVE: a frame that the receiver of a port delimits (R421, R424, R435, R476). -/
def doFrameReceive (port : Nat) (bytes : List Byte) (uncorr : Bool) (bitPos : Nat) (s : State) : State :=
  match s.lanes.ports.get? [port] with
  | none => s
  | some c =>
    if s.portState port = 3 then (s.bump .LAN_PORT_CNT_v (lanIx port ++ [10]) 1).dropCount (portHalf port) 0x13 Frame.blank false
    else if s.portState port = 5 then s.farEnd port c bytes
    else if s.portState port ≠ 4 ∨ s.looped port c then s
    else
      let (b, s) := (s.lineIn port c bytes).fecOut port c bytes
      s.frameIn port c b uncorr bitPos

def execFrameReceive (port : Nat) (bytes : List Byte) (uncorr : Bool) (bitPos : Nat) (s : State) : Host.Outcome State Fault Refusal :=
  done (doFrameReceive port bytes uncorr bitPos s)

/-- Codewords over which `hi_ser` is judged (R423). -/
def serSpan : Nat := 8192

/-- A port's codewords as its judgement sees them. -/
def State.serWin (s : State) (port : Nat) : SerWin := s.lanes.win.getD [port] ⟨0, 0, []⟩

/-- Symbol errors within the last 8,192 codewords. -/
def State.serSum (s : State) (port : Nat) : Nat := ((s.serWin port).errs.map Prod.snd).sum

/-- The judgement of `hi_ser` (R423): raised as soon as 8,192 consecutive codewords hold more errors than the threshold, cleared after 8,192 codewords since then at or below it. -/
def State.serJudge (s : State) (port : Nat) : State :=
  let w := s.serWin port
  let above := decide (s.rd .LAN_CFG_ser_thresh [port / 128] < s.serSum port)
  let old := s.on .LAN_PORT_STAT_hi_ser (lanIx port)
  let s := if above then { s with lanes := { s.lanes with win := s.lanes.win.set [port] { w with since := w.n } } } else s
  if above = old ∨ (old ∧ w.n < w.since + serSpan) then s
  else (s.st .LAN_PORT_STAT_hi_ser (lanIx port) (b2n above)).raise 0x0121 (portHalf port).n [(0, 2, port), (2, 1, b2n above)]

/-- Notes a codeword with k symbol errors (R423). -/
def State.serNote (s : State) (port k : Nat) : State :=
  let w := s.serWin port
  let errs := (w.errs ++ (if k = 0 then [] else [(w.n, k)])).filter (fun e => decide (w.n < e.1 + serSpan))
  { s with lanes := { s.lanes with win := s.lanes.win.set [port] ⟨w.n + 1, w.since, errs⟩ } }

/-- CODEWORD_DECODE (R421, R422, R423). A port without codeword lock decodes none. In bypass the decoder counts as if it corrected, and the errors stay in what follows. -/
def doCodewordDecode (port sym : Nat) (uncorr : Bool) (inner : Nat) (s : State) : State :=
  match s.lanes.ports.get? [port] with
  | none => s
  | some c =>
    if s.portState port ≠ 3 ∧ s.portState port ≠ 4 then s
    else
      let ix (e : Nat) : List Nat := lanIx port ++ [e]
      let k := if uncorr then 0 else min 15 sym
      let s := (s.serNote port k).serJudge port
      let s := if ¬ c.fecCorr ∧ (uncorr ∨ k ≠ 0) then { s with lanes := { s.lanes with raw := s.lanes.raw.set [port] true } } else s
      let s := (s.bump .LAN_PORT_CNT_v (ix 0) 1).bump .LAN_PORT_CNT_v (ix 9) (if c.rate = 0 then inner else 0)
      if uncorr then s.bump .LAN_PORT_CNT_v (ix 2) 1
      else ((s.bump .LAN_PORT_CNT_v (ix 1) (if k = 0 then 0 else 1)).bump .LAN_PORT_CNT_v (ix 3) k).bump .LAN_PORT_CNT_v (ix (16 + k)) 1

def execCodewordDecode (port sym : Nat) (uncorr : Bool) (inner : Nat) (s : State) : Host.Outcome State Fault Refusal :=
  done (doCodewordDecode port sym uncorr inner s)

/-- HI_SER: the port's codewords are judged (R423), as at each codeword, by the threshold now in force. -/
def doHiSer (port : Nat) (s : State) : State := if (s.lanes.ports.get? [port]).isSome then s.serJudge port else s

def execHiSer (port : Nat) (s : State) : Host.Outcome State Fault Refusal := done (doHiSer port s)

/-- PORT_ACQUIRED: signal and clock on every lane (R432). -/
def doPortAcquired (port : Nat) (s : State) : State :=
  match s.lanes.ports.get? [port] with
  | none => s
  | some c =>
    if s.portState port ≠ 2 then s
    else ((portLanes port c.width).foldl (fun s l => s.sts [(.LAN_LANE_STAT_sig, lanIx l, 1), (.LAN_LANE_STAT_cdr_lock, lanIx l, 1)]) s).portGo port 3 0

def execPortAcquired (port : Nat) (s : State) : Host.Outcome State Fault Refusal := done (doPortAcquired port s)

/-- An order of a port's logical lanes, by a free value: a permutation (R431). -/
def wiring (v : Nat) : List Nat → List Nat
  | [] => []
  | p :: ps => let q := wiring (v / (ps.length + 1)) ps; q.take (v % (ps.length + 1)) ++ p :: q.drop (v % (ps.length + 1))

/-- PORT_ALIGNED: the link is up (R144, R432). The positions found on the lanes depend on the wiring, for which a free value stands; every logical lane is found once (R431). -/
def doPortAligned (port : Nat) (s : State) : State :=
  match s.lanes.ports.get? [port] with
  | none => s
  | some c =>
    if s.portState port ≠ 3 then s
    else
      let (v, s) := s.draw
      let s := ((portLanes port c.width).zip (wiring v (List.range c.width))).foldl (fun (s : State) e => s.st .LAN_LANE_STAT_rx_pos (lanIx e.1) e.2) s
      ((s.portGo port 4 0).raise 0x0120 (portHalf port).n [(0, 2, port), (2, 1, 4)]).bufUp port

def execPortAligned (port : Nat) (s : State) : Host.Outcome State Fault Refusal := done (doPortAligned port s)

/-- PORT_LINK_LOSS: causes 1 signal, 2 clock, 3 alignment, 4 `hi_ser`, 5 Local Fault, 6 Remote Fault (R432, R445). -/
def doPortLinkLoss (port cause : Nat) (s : State) : State :=
  match s.lanes.ports.get? [port] with
  | none => s
  | some c =>
    let st := s.portState port
    let lost (s : State) : State := (portLanes port c.width).foldl (fun s l =>
      if cause = 1 then s.sts [(.LAN_LANE_STAT_sig, lanIx l, 0), (.LAN_LANE_STAT_cdr_lock, lanIx l, 0)]
      else if cause = 2 then s.st .LAN_LANE_STAT_cdr_lock (lanIx l) 0 else s) s
    if st = 4 ∧ 1 ≤ cause ∧ cause ≤ 6 ∧ (cause ≠ 4 ∨ s.on .LAN_PORT_STAT_hi_ser (lanIx port)) then (lost s).portGo port 2 cause
    else if st = 3 ∧ 1 ≤ cause ∧ cause ≤ 3 then (lost s).portGo port 2 cause
    else s

def execPortLinkLoss (port cause : Nat) (s : State) : Host.Outcome State Fault Refusal := done (doPortLinkLoss port cause s)

/-- DEBOUNCE_EXPIRY: T_db has passed with the link still down (R144). -/
def doDebounceExpiry (port : Nat) (s : State) : State :=
  if s.rd .BUF_PORT_STAT_state [(portHalf port).n, localIdx port] = 1 ∧ port < 1088 then s.flushBegin port false none else s

def execDebounceExpiry (port : Nat) (s : State) : Host.Outcome State Fault Refusal := done (doDebounceExpiry port s)

/-- The flush fence of a port may retire (R146). -/
def State.fenceClear (s : State) (port : Nat) : Bool :=
  (List.range 16).all (fun q => (s.queueIds (portHalf port) (16 * localIdx port + q)).isEmpty)
    && s.frames.all (fun f => !(f.out = port && (f.loc = .granted || f.loc = .crossing || f.loc = .written || f.loc = .queued || f.loc = .deparse
      || (f.loc = .stages && decide (20 ≤ f.stage)))))

/-- FLUSH_FENCE_RETIRE: the FLUSH routine frees what an offline engine left, then the port serves again, or is down (R144, R146, R150). -/
def doFlushFenceRetire (port : Nat) (s : State) : State :=
  let h := portHalf port
  let ix := [h.n, localIdx port]
  let s := if s.rd .BUF_PORT_STAT_state ix = 2 ∧ port < 1088 then ((s.flushRun port).portDueRun .E).portDueRun .W else s
  if 1088 ≤ port ∨ s.rd .BUF_PORT_STAT_state ix ≠ 2 ∨ ¬ s.fenceClear port then s
  else
    let up := s.on .BUF_PORT_STAT_up_seen ix
    let f := s.buf.flush.getD [port] (Flush.mk none 0 [])
    let s := f.left.foldl (fun s i => s.takeWork h 2 (flushBody port i)) ({ s with buf := { s.buf with flush := s.buf.flush.erase [port] } } : State)
    let s := s.sts [(.BUF_PORT_STAT_state, ix, if up ∨ s.on .BUF_PORT_STAT_relaunch ix then 0 else 3), (.BUF_PORT_STAT_up_seen, ix, 0), (.BUF_PORT_STAT_relaunch, ix, 0)]
    let s := (s.bump .BUF_CNT_v [h.n, 4] 1).raise 0x0020 h.n [(0, 2, port), (4, 4, f.freed), (8, 1, b2n up)]
    let s := match f.desc with | some d => s.ok d 0 | none => s
    match s.lanes.removing.find? (fun e => decide (e.1 = port)) with
    | some e => s.lanesOff port e.2.1 e.2.2
    | none => s

def execFlushFenceRetire (port : Nat) (s : State) : Host.Outcome State Fault Refusal := done (doFlushFenceRetire port s)

/-- Links that a GLB_ instance shows (R329, R442). -/
def glbLinks (inst : Nat) : Nat := if inst < 8 then 32 else if inst = 10 ∨ inst = 13 then 2 else if inst < 14 then 128 else 0

/-- The two die views of a link (R475). -/
def glbViews (inst link : Nat) : List (List Nat) :=
  if inst < 8 then [[inst, link], [8 + 3 * (inst / 4), inst % 4 * 32 + link]]
  else if inst = 8 ∨ inst = 11 then [[inst, link], [inst / 11 * 4 + link / 32, link % 32]]
  else if inst = 9 ∨ inst = 10 then [[inst, link], [inst + 3, link]]
  else [[inst, link], [inst - 3, link]]

/-- The view of a half or of a half's tile group, which names a link in events. -/
def glbView (inst link : Nat) : List Nat := if inst < 8 then [8 + 3 * (inst / 4), inst % 4 * 32 + link] else [inst, link]

/-- A link group in a half's view: the group's links. The tile links of a pipe are one group each (R442). -/
def glbGroup (inst link : Nat) : List Nat :=
  if inst = 8 ∨ inst = 11 then (List.range 8).map (fun j => link / 8 * 8 + j) else List.range (glbLinks inst)

/-- The links that a group keeps in its stripe (R442). -/
def glbActive (inst : Nat) : Nat := if inst = 9 ∨ inst = 12 then 120 else if inst = 8 ∨ inst = 11 then 8 else 2

/-- The state of a link. -/
def State.link (s : State) (inst link : Nat) : Nat := s.rd .GLB_LINK_STAT_state [inst, link]

/-- Sets a link's state in both views. -/
def State.setLink (s : State) (inst link v : Nat) : State := (glbViews inst link).foldl (fun s ix => s.st .GLB_LINK_STAT_state ix v) s

/-- Counts in both views of a link. -/
def State.linkCount (s : State) (inst link e : Nat) : State := (glbViews inst link).foldl (fun s ix => s.bump .GLB_CNT_v (ix ++ [e]) 1) s

/-- Links of a group in a state. -/
def State.linksIn (s : State) (inst link st : Nat) : List Nat := (glbGroup inst link).filter (fun l => s.link inst l = st)

/-- The halves that raise and count for a group, with the instance each names (R475). -/
def glbHalves (inst : Nat) : List (Half × Nat) :=
  match inst with
  | 8 => [(.E, 8)]
  | 11 => [(.W, 11)]
  | 9 | 12 => [(.E, 9), (.W, 12)]
  | _ => [(.E, 10), (.W, 13)]

/-- The link registers of RAS_ follow the links: bridge counts, `degraded` and the rate-limited pipes (R20, R400). -/
def State.linkStat (s : State) : State :=
  let act := (s.linksIn 9 0 2).length
  let sp := (s.linksIn 9 0 3).length
  halves.foldl (fun s h =>
    let rl := (List.range 16).foldl (fun a p => if s.tileLinks (16 * h.n + p) < 7 then a + 2 ^ p else a) 0
    s.sts [(.RAS_LINK_STAT_bridge_ok, [h.n], act + sp), (.RAS_LINK_STAT_bridge_spares, [h.n], sp), (.RAS_LINK_STAT_degraded, [h.n], b2n (decide (act < 120))),
      (.RAS_LINK_STAT_pipe_rl, [h.n], rl)]) s

/-- Settles the rate-limit buckets of a pipe's ports at the rate of k links, before that rate changes (R434). -/
def State.rlSettle (s : State) (pipe k : Nat) : State :=
  s.portList.foldl (fun (s : State) e =>
    if portPipe e.1 ≠ pipe then s
    else if 7 ≤ k then { s with lanes := { s.lanes with bucket := s.lanes.bucket.erase [e.1] } }
    else { s with lanes := { s.lanes with bucket := s.lanes.bucket.set [e.1] (s.rlCredit e.1 k, s.elapsed) } }) s

/-- The pipe of a tile link in a half's view. -/
def glbPipe (inst link : Nat) : Nat := 16 * (inst / 11) + link / 8

/-- The rings that West's ring engine serves stop when both host links have failed (R401). -/
def State.hostLinksLost (s : State) : State :=
  (List.range 65).foldl (fun s fn => (List.range 64).foldl (fun (s : State) r =>
    if (ringKind fn r).isSome ∧ s.on .HST_RING_CFG_en [fn, r] ∧ s.ringEngine fn r = .W ∧ (s.host.stopped.get? [fn, r]).isNone then
      let (v, s) := s.draw
      s.ringStop fn r (1 + 2 * (v % 2))
    else s) s) s

/-- A link fails: it leaves its stripe, and a spare takes its place (R399, R400, R401, R439, R441, R475). -/
def State.linkFail (s : State) (inst0 link0 : Nat) : State :=
  match glbView inst0 link0 with
  | [inst, link] =>
    let st := s.link inst link
    if st ≠ 2 ∧ st ≠ 3 then s
    else
      let tile := decide (inst = 8 ∨ inst = 11)
      let pipe := glbPipe inst link
      let k := s.tileLinks pipe
      let s := if tile then s.rlSettle pipe k else s
      let s := ((s.setLink inst link 4).linkCount inst link 2)
      let spare := if st = 2 then (s.linksIn inst link 3).head? else none
      let s := match spare with
        | some l => (glbHalves inst).foldl (fun (s : State) (h : Half × Nat) => s.bump .RAS_CNT_v [h.1.n, 8] 1) (s.setLink inst l 2)
        | none => s
      let left := (s.linksIn inst link 3).length
      let s := (glbHalves inst).foldl (fun (s : State) (h : Half × Nat) => s.raise 0x0116 h.1.n [(0, 1, h.2), (1, 1, link), (2, 1, left), (3, 1, b2n spare.isSome)]) s
      let s := if tile ∧ k = 7 then s.raise 0x0117 (pipeHalf pipe).n [(0, 1, pipe), (1, 1, 6)] else s
      let s := if (inst = 10 ∨ inst = 13) ∧ (s.linksIn inst link 2).isEmpty then s.hostLinksLost else s
      s.linkStat
  | _ => s

/-- GULUB_LINK_FAIL (R439). -/
def doGulubLinkFail (inst link : Nat) (s : State) : State := if glbLinks inst ≤ link then s else s.linkFail inst link

def execGulubLinkFail (inst link : Nat) (s : State) : Host.Outcome State Fault Refusal := done (doGulubLinkFail inst link s)

/-- FLIT_CRC_ERROR: a die refuses a flit, and a replay begins; too many in 1 ms fail the link (R439, R475). -/
def doFlitCrcError (inst link : Nat) (s : State) : State :=
  if glbLinks inst ≤ link ∨ (s.link inst link ≠ 2 ∧ s.link inst link ≠ 3) then s
  else
    let s := (s.bump .GLB_CNT_v [inst, link, 0] 1).bump .GLB_CNT_v [inst, link, 1] 1
    let l := ((s.ras.crc.getD [inst, link] []).filter (fun t => decide (s.elapsed < t + 1000000))) ++ [s.elapsed]
    let s := { s with ras := { s.ras with crc := s.ras.crc.set [inst, link] l } }
    if s.rd .GLB_CFG_crc_limit [inst] < l.length then
      ({ s with ras := { s.ras with crc := s.ras.crc.erase [inst, link] } }).linkFail inst link
    else s

def execFlitCrcError (inst link : Nat) (s : State) : Host.Outcome State Fault Refusal := done (doFlitCrcError inst link s)

/-- LINK_RECENTRE: a link recentres its sampling point in an idle flit, without stopping traffic; nothing that software sees changes (R440). -/
def doLinkRecentre (_inst _link : Nat) (s : State) : State := s

def execLinkRecentre (inst link : Nat) (s : State) : Host.Outcome State Fault Refusal := done (doLinkRecentre inst link s)

/-- A frame returns into its own port's ingress (R436); where its destination address lies in the stream is free. -/
def State.loopBack (s : State) (port : Nat) (c : PortCfg) (b : List Byte) : State :=
  let (v, s) := s.draw
  s.frameIn port c b false v

/-- TRANSMIT, in the order of the port: the lane tile sends a copy at its time, carrying out its PTP request; a copy that meets a port that is not up is discarded (R146, R187, R192, R195, R197, R204). -/
def doTransmit (id bitPos : Nat) (s : State) : State :=
  match s.fr? id with
  | none => s
  | some f =>
    if f.loc ≠ .tile ∨ s.tileHeld f then s
    else
      let port := f.out
      let h := portHalf port
      let w := s.ptpWord f
      let req := (match w with | some x => bit x 13 | none => false) || decide (f.tsId ≠ 0)
      if s.rd .LAN_PORT_STAT_state [port / 128, port % 128] ≠ 4 then
        let s := if req then s.bump .TIM_CNT_v [0, 2] 1 else s
        ((s.bump .BUF_Q_CNT_v [h.n, f.queue, 1] 1).dropCount h 4 f false).delFr id
      else
        let r := s.rate port
        let pre := f.tStart - 64 * tuNs / r
        let slip := f.timed && decide (pre < s.now h * 200)
        let s := if slip then s.bump .GTE_HALF_CNT_v [h.n, 0] 1 else s
        let s := if f.timed && !slip then s.runUntil h (f.tStart / tuNs) else s
        let t := if f.timed && !slip then tsAdd (f.tStart / 200) (adjTs (s.rd .TIM_PORT_CFG_tx_adj [0, port])) else s.txTime port bitPos
        let (b, s) := match w with | some x => s.ptpRun h f x t | none => (f.bytes, s)
        let s := if req then
            let e : TxTs := ⟨port, if f.tsId ≠ 0 then f.tsId else bits (w.getD 0) 16 16, t⟩
            s.xingSend h 1 (portTile port) (fun s => { s with time := { s.time with txtsReq := s.time.txtsReq ++ [(h, e)] } })
          else s
        let s := s.delFr id
        match s.lanes.ports.get? [port] with
        | some c => if s.looped port c then s.loopBack port c b else ({ s with lanes := { s.lanes with sent := s.lanes.sent ++ [(port, b)] } } : State).lineOut port c b
        | none => s

def execTransmit (id bitPos : Nat) (s : State) : Host.Outcome State Fault Refusal := done (doTransmit id bitPos s)

end Sys2Proof.Machine
end

