-- ==== Sys2Proof/Machine/Access.lean ====
section
/-!
DEFINITION. Register accesses from a host (R8-R12): which register an offset names, the writes of its fields by their access codes, the spread of mirrored and common registers (R43, R473), the registers whose writes have rules of their own, and reads.
-/

namespace Sys2Proof.Machine

/-- A kind of instance has an instance of a number (R329). -/
def Cls.holds (c : Cls) (inst : Nat) : Bool :=
  match c with
  | .pipe | .unit => decide (inst < 32)
  | .common => inst = 32
  | .half => decide (inst < 2)
  | .matHalf => inst = 33 || inst = 34
  | .one | .pf0 => inst = 0
  | .fn => decide (inst ≤ 64)
  | .tile => decide (inst < 8)
  | .glb => decide (inst < 14)

/-- The block types and their instances (R329). -/
def blkHas (blk inst : Nat) : Bool :=
  match blk with
  | 1 | 2 | 10 | 12 | 19 => inst = 0
  | 3 | 13 => decide (inst ≤ 32)
  | 4 => decide (inst ≤ 34)
  | 5 | 6 | 7 | 8 | 9 | 11 | 14 | 15 | 16 | 17 | 22 => decide (inst < 2)
  | 18 => decide (inst ≤ 64)
  | 20 => decide (inst < 8)
  | 21 => decide (inst < 14)
  | _ => false

/-- A block that lies in the West half (R41, R329). -/
def blkWest (blk inst : Nat) : Bool :=
  match blk with
  | 3 | 13 => decide (16 ≤ inst ∧ inst < 32)
  | 4 => decide (16 ≤ inst ∧ inst < 32) || inst = 34
  | 5 | 6 | 7 | 8 | 9 | 11 | 14 | 15 | 16 | 17 | 22 => inst = 1
  | 20 => decide (4 ≤ inst)
  | 21 => decide ((4 ≤ inst ∧ inst < 8) ∨ 11 ≤ inst)
  | _ => false

/-- The element of a run of index ranges that a byte offset names, and the byte within it. -/
def elemAt : List (Nat × Nat) → Nat → Option (List Nat × Nat)
  | [], r => some ([], r)
  | (n, st) :: ds, r => if r / st < n then (elemAt ds (r % st)).map (fun x => (r / st :: x.1, x.2)) else none

/-- The instance and element of a register that an offset names, and the byte within it. `HST_FN` has elements from 1 on; what would be its element 0 is an offset that no register occupies (R11, R329). -/
def Reg.at? (r : Reg) (inst off : Nat) : Option (List Nat × Nat) :=
  let i := r.info
  if ¬ i.cls.holds inst ∨ off < i.base then none
  else match elemAt i.dims (off - i.base) with
    | some (ix, b) => if b < i.width / 8 ∧ ¬ (r = .HST_FN ∧ ix.head? = some 0) then some (inst :: ix, b) else none
    | none => none

/-- The register that an offset of a block names (R8, R11). -/
def regAt (blk inst off : Nat) : Option (Reg × List Nat × Nat) :=
  (regsOf blk).findSome? (fun r => (r.at? inst off).map (fun x => (r, x.1, x.2)))

/-- A piece of a register: its lowest bit, its width in bits, and a value. -/
abbrev Piece := Nat × Nat × Nat

/-- A 32-bit register, or a half of a 64-bit one, that a 32-bit access names (R12). DESIGN CHOICE (log entry 30): a 32-bit access to a register wider than 64 bits names nothing, so that it reads as 0 and writes nothing; the manual says only that such a register is accessed by 64-bit accesses. -/
def narrowAt (blk inst off value : Nat) : List (Reg × List Nat × Piece) :=
  match regAt blk inst off with
  | some (r, ix, b) => if 64 < r.info.width then [] else [(r, ix, 8 * b, 32, value % 2 ^ 32)]
  | none => []

/-- What an access names: a 64-bit access to 32-bit registers names both that it covers (log entry 30); a register wider than 64 bits is accessed one 64-bit word at a time (R12). An access that is not aligned names nothing. -/
def accessAt (blk inst off : Nat) (wide : Bool) (value : Nat) : List (Reg × List Nat × Piece) :=
  if off % (if wide then 8 else 4) ≠ 0 then []
  else if ¬ wide then narrowAt blk inst off value
  else match regAt blk inst off with
    | some (r, ix, b) =>
      if 64 ≤ r.info.width then [(r, ix, 8 * b, 64, value % 2 ^ 64)]
      else narrowAt blk inst off value ++ narrowAt blk inst (off + 4) (value / 2 ^ 32)
    | none => narrowAt blk inst (off + 4) (value / 2 ^ 32)

/-- The part of a field that a piece of its register covers: shift in the field, width, value. -/
def Fld.part (f : Fld) (p : Piece) : Option Piece :=
  let i := f.info
  let a := max i.lo p.1
  let b := min (i.lo + i.w) (p.1 + p.2.1)
  if b ≤ a then none else some (a - i.lo, b - a, bits p.2.2 (a - p.1) (b - a))

/-- A register assembled from its fields: RW fields as last written, the others as they are (R9). -/
def State.regVal (s : State) (r : Reg) (ix : List Nat) : Nat := r.fields.foldl (fun a f => a + s.shown f ix * 2 ^ f.info.lo) 0

/-- A register with pieces of it replaced. -/
def State.regWith (s : State) (r : Reg) (ix : List Nat) (ps : List Piece) : Nat := ps.foldl (fun a p => putBits a p.1 p.2.1 p.2.2) (s.regVal r ix)

/-- The values that pieces give the RW fields of a register they cover (R9). -/
def State.rwNew (s : State) (r : Reg) (ix : List Nat) (ps : List Piece) : List (Fld × List Nat × Nat) :=
  r.fields.filterMap (fun f =>
    let qs := ps.filterMap f.part
    if f.info.acc ≠ .RW ∨ qs.isEmpty then none
    else some (f, ix, qs.foldl (fun a q => putBits a q.1 q.2.1 q.2.2) (s.lastW f ix)))

/-- Each 1 of a piece clears its bit of a W1C field, or sets its bit of a W1S field (R9). -/
def State.oneBits (s : State) (r : Reg) (ix : List Nat) (ps : List Piece) : State :=
  r.fields.foldl (fun s f =>
    (ps.filterMap f.part).foldl (fun s q =>
      let m := q.2.2 * 2 ^ q.1
      let v := s.rd f ix
      match f.info.acc with
      | .W1C => s.st f ix (v ^^^ (v &&& m))
      | .W1S => s.st f ix (v ||| m)
      | _ => s) s) s

/-- The value of a WO field that a write carries, none where the write does not cover it. -/
def woVal (f : Fld) (ps : List Piece) : Option Nat :=
  match ps.filterMap f.part with
  | [] => none
  | qs => some (qs.foldl (fun a q => putBits a q.1 q.2.1 q.2.2) 0)

/-- Queues what a write through one instance of a mirrored or common register owes to the other instances; during an outage a mirrored write reaches its own half alone (R43, R473, R398). -/
def State.spread (s : State) (r : Reg) (ix : List Nat) (ws : List (Fld × List Nat × Nat)) : State :=
  let owe (ts : List Nat) : State := { s with ras := { s.ras with mirrorQ := s.ras.mirrorQ ++ [(ws, ts)] } }
  let i := r.info
  let h := ix.headD 0
  if ws.isEmpty then s
  else if i.mirrored then if s.bridgeUp then owe [34 - h] else s.st .RAS_OWN_STAT_mirror_split [h] 1
  else if i.cls = .common ∧ i.blk ≠ 4 then owe (List.range 32)
  else s

/-- Copy c of the program is one whose per-copy registers are protected (R90, R479). -/
def State.copyHeld (s : State) (c : Nat) : Bool :=
  (s.prog c).loaded && (s.active = c || s.activeOf .E = c || s.activeOf .W = c || (match s.swap with | some w => w.old = c | none => false))

/-- The per-copy registers of R479 and their `wr_ignored`. -/
def copyFlag : Reg → Option Fld
  | .FDB_REQ => some .FDB_REQ_wr_ignored
  | .TIM_PTP_REQ => some .TIM_PTP_REQ_wr_ignored
  | .GTE_LT_SRC => some .GTE_LT_SRC_wr_ignored
  | .TEL_REQ => some .TEL_REQ_wr_ignored
  | _ => none

/-- The W1C bits of a time-base register that a write names are cleared at its apply edge, as every write to the block takes effect there (R9, R179). -/
def State.laterBits (s : State) (r : Reg) (ix : List Nat) (ps : List Piece) : State :=
  r.fields.foldl (fun s f =>
    let m := (ps.filterMap f.part).foldl (fun m q => m ||| (q.2.2 * 2 ^ q.1)) 0
    if f.info.acc ≠ .W1C ∨ m = 0 then s else s.later f ix m) s

/-- A write of a protected entry: its fields keep their values, and a change that it would have made sets `wr_ignored` (R479), in the time base at the write's apply edge (R179). -/
def State.heldPut (s : State) (r : Reg) (ix : List Nat) (ps : List Piece) (flag : Fld) : State :=
  let ws := s.rwNew r ix ps
  let changes := ws.any (fun w => decide (s.rd w.1 w.2.1 ≠ w.2.2))
  if r.info.blk = 10 then
    let s := s.laterBits r ix ps
    if changes then s.later flag ix (2 ^ flag.info.w) else s
  else
    let s := s.oneBits r ix ps
    if changes then s.st flag ix 1 else s

/-- What follows a write of RW fields: the use of the ingress pools follows the groups' settings (R139), a group that its last backlogged queue has left is empty (R165), a performance counter may raise its event again (R289), an exporter whose target is the ring writes its records there (R275), an engine may restart (R305). -/
def State.afterPut (s : State) (r : Reg) (ix : List Nat) (ws : List (Fld × List Nat × Nat)) : State :=
  match r, ix with
  | .PMC_CNT, [h, i] | .PMC_THRESH, [h, i] =>
    ({ s with tel := { s.tel with raised := s.tel.raised.erase [h, i] } }).pmcThresh (Half.of h) i
  | .BUF_PG_CFG, h :: _ => s.ipRefresh (Half.of h)
  | .TMG_Q_CFG, [h, q] => s.groupsClear (Half.of h) (q / 16)
  | .TEL_EXP_CFG, [h] => s.telDrain (Half.of h)
  | .CLV_ENG_CTL, [h, e] => if ws.any (fun w => w.1 = .CLV_ENG_CTL_online && w.2.2 = 1) then doEngineRestart (Half.of h) e s else s
  | _, _ => s

/-- A write of pieces of a register. Registers of the time base take effect at an apply edge (R179); ring contexts, the FDB seed and the per-copy entries follow their own rules (R335, R96, R479). -/
def State.regPut (s : State) (r : Reg) (ix : List Nat) (ps : List Piece) : State :=
  let v := s.regWith r ix ps
  let ws := s.rwNew r ix ps
  let plain (s : State) : State := (((s.sts ws).oneBits r ix ps).spread r ix ws).afterPut r ix ws
  let held : Option Fld := match ix with | [_, c] => if s.copyHeld c then copyFlag r else none | _ => none
  match held with
  | some f => s.heldPut r ix ps f
  | none =>
    match r, ix with
    | .TIM_CFG, _ => doTimCfgWrite v s
    | .TIM_INC, _ => doTimIncWrite v s
    | .TIM_CTL, _ =>
      let s := if woVal .TIM_CTL_step_go ps = some 1 then doStepGo s else s
      if woVal .TIM_CTL_gm_set ps = some 1 then doGmSet s else s
    | .FDB_SEED, [h] => doFdbSeedWrite (Half.of h) (putBits v 32 1 (b2n (ps.any (fun p => (Fld.part .FDB_SEED_rejected p).any (fun q => q.2.2 = 1))))) s
    | .HST_DB, [fn, q] => match woVal .HST_DB_count ps with | some n => doDoorbell fn q n s | none => s
    | .HST_RING_CFG, [fn, q] => doRingCfgWrite fn q v s
    | .HST_RING_BASE, [fn, q] =>
      if (ringKind fn q).isNone then s
      else if s.on .HST_RING_CFG_en [fn, q] then s.st .HST_RING_STAT_cfg_err [fn, q] 1
      else s.sts ws
    | .HST_RING_WB, [fn, q] => if (ringKind fn q).isNone then s else s.sts ws
    | .TEL_HIST_CFG, [h] => let s := plain s; if woVal .TEL_HIST_CFG_hist_ack ps = some 1 then doHistAck (Half.of h) s else s
    | _, _ =>
      if r.info.blk = 10 then (ws.foldl (fun (s : State) w => s.later w.1 w.2.1 w.2.2) s).laterBits r ix ps
      else plain s

/-- The pieces that a write applies: a word of a register wider than 64 bits is held until the write of the last word applies every word (R12); other writes apply at once. -/
def State.gather (s : State) (r : Reg) (ix : List Nat) (p : Piece) : List Piece × State :=
  let n := r.info.width / 64
  let key (w : Nat) : List Nat := r.ctorIdx :: ix ++ [w]
  if n ≤ 1 then ([p], s)
  else if p.1 / 64 + 1 < n then ([], { s with ras := { s.ras with held := s.ras.held.set (key (p.1 / 64)) p.2.2 } })
  else
    ((List.range (n - 1)).filterMap (fun w => (s.ras.held.get? (key w)).map (fun x => (64 * w, 64, x))) ++ [p],
      { s with ras := { s.ras with held := (List.range n).foldl (fun (m : SMap Nat) w => m.erase (key w)) s.ras.held } })

/-- A write of a word of a register. -/
def State.wordPut (s : State) (r : Reg) (ix : List Nat) (p : Piece) : State :=
  let (ps, s) := s.gather r ix p
  if ps.isEmpty then s else s.regPut r ix ps

/-- A write to an offset of a block (R9, R11, R12). -/
def State.blkPut (s : State) (blk inst off : Nat) (wide : Bool) (value : Nat) : State :=
  (accessAt blk inst off wide value).foldl (fun (s : State) a => s.wordPut a.1 a.2.1 a.2.2) s

/-- An entry of the configuration store names a register with an RW field (R370). -/
def cfgNames (e : CfgEnt) : Bool :=
  match regAt e.typ e.inst e.off with
  | some (r, _, b) => r.fields.any (fun f => f.info.acc = .RW) && b % (if e.wide then 8 else 4) = 0
      && (if e.wide then decide (64 ≤ r.info.width) else decide (r.info.width ≤ 64))
  | none => false

/-- The instances of a register whose copy lies in a half: those that a write through one of them also reaches (R43, R473). -/
def Reg.copies (r : Reg) (inst : Nat) (h : Half) : List Nat :=
  let i := r.info
  if i.mirrored then [h.n]
  else if i.cls = .common ∧ i.blk ≠ 4 then (match h with | Half.E => [32] | Half.W => []) ++ (List.range 16).map (· + 16 * h.n)
  else if blkWest i.blk inst = decide (h = Half.W) then [inst]
  else []

/-- A piece of a register with a 0 wherever it covers a field that is not RW, so that a commit leaves those fields alone (R370). -/
def Reg.rwOnly (r : Reg) (p : Piece) : Piece :=
  r.fields.foldl (fun (p : Piece) f => match f.part p with
    | some q => if f.info.acc = .RW then p else (p.1, p.2.1, putBits p.2.2 (f.info.lo + q.1 - p.1) q.2.1 0)
    | none => p) p

/-- Registers of a commit that have one home, in East, and rules of their own (R96, R179, R335). -/
def Reg.single (r : Reg) : Bool := r.info.blk = 10 || r.info.blk = 18 || r = Reg.FDB_SEED

/-- A half's edge of a configuration commit: the RW fields that an entry names take its value in every copy of the half (R370). -/
def State.cfgPut (s : State) (h : Half) (e : CfgEnt) : State :=
  (accessAt e.typ e.inst e.off e.wide e.value).foldl (fun (s : State) a =>
    let (r, ix, p) := a
    if r.single && h = Half.W then s
    else
      let (ps, s) := s.gather r ix p
      let ps := ps.map r.rwOnly
      if ps.isEmpty then s
      else if r.single then s.regPut r ix ps
      else (r.copies (ix.headD 0) h).foldl (fun (s : State) i =>
        let ix := i :: ix.drop 1
        let held : Option Fld := match ix with | [_, c] => if s.copyHeld c then copyFlag r else none | _ => none
        match held with
        | some f => s.heldPut r ix ps f
        | none => let ws := s.rwNew r ix ps; (s.sts ws).afterPut r ix ws) s) s

end Sys2Proof.Machine
end

