-- ==== Sys2Proof/Machine/Modes.lean ====
section
/-!
DEFINITION. Operating modes, management ownership and online repair (R387-R417, R473, R479): two-half steps, the lease and terms, loss and return of the bridge, Maintenance operations, bank retirement, link retraining, scrubbing and repair, and the resets of crossings.
-/

namespace Sys2Proof.Machine

/-- HOST_CLAIM: a two-half step (R390). -/
def doHostClaim (d : Hdr) (s : State) : State :=
  s.serve d ⟨0xC0, .claim, true, false, 0⟩ true (cleanHdr d false false false) fun s => s.request .hostClaim (some d) 0

def execHostClaim (d : Hdr) (s : State) : Host.Outcome State Fault Refusal := doneDesc (.hostClaim (bareHdr d)) d (doHostClaim d) s

/-- A half records a term and an owner, and takes the state that they give it unless it is UNRESOLVED (R394, R397). -/
def State.adoptTerm (s : State) (h : Half) (term own : Nat) : State :=
  let s := s.st .RAS_OWN_STAT_claim_pend [h.n] 0
  if term ≤ s.rd .RAS_OWN_STAT_term [h.n] then s
  else
    let s := s.sts [(.RAS_OWN_STAT_term, [h.n], term), (.RAS_OWN_STAT_owner, [h.n], own)]
    if s.own h = 2 then s else s.st .RAS_OWN_STAT_state [h.n] (b2n (decide (own ≠ h.n)))

/-- A step takes effect in a half; `first` says that the other half has not applied it (R395). -/
def State.halfApply (s : State) (h : Half) (k : StepKind) (first : Bool) : State :=
  match k with
  | .commit sl => s.commitEdge h sl
  | .flip => s.flipEdge h
  | .patch _ => s.patchEdge h
  | .cfg ents =>
    let s := if first then s.bump .TRB_CNT_v [0, 2] 1 else s
    ents.foldl (fun (s : State) e => s.cfgPut h e) s
  | .hostClaim => if s.mode = 2 then s.setMode 3 3 (s.rd .SYS_MODE_maint_op [0]) else s
  | .adopt t o => s.adoptTerm h t o

/-- A half has applied a step. -/
def Step2.doneIn (t : Step2) (h : Half) : Bool := match h with | .E => t.doneE | .W => t.doneW

/-- A step of a number is replaced, and left out once both halves have applied it and no descriptor waits for it. -/
def State.setStep (s : State) (t : Step2) : State :=
  { s with ras := { s.ras with steps := (s.ras.steps.map (fun x => if x.seq = t.seq then t else x)).filter (fun x => !(x.doneE && x.doneW && x.desc.isNone)) } }

/-- A half applies a step and records the highest number it has applied (R395). -/
def State.stepIn (s : State) (h : Half) (t : Step2) : State :=
  let s := s.halfApply h t.kind (!t.doneE && !t.doneW)
  let t := match h with | .E => { t with doneE := true } | .W => { t with doneW := true }
  let s := match h with
    | .E => { s with ras := { s.ras with lastE := max s.ras.lastE t.seq } }
    | .W => { s with ras := { s.ras with lastW := max s.ras.lastW t.seq } }
  let s := if t.doneE ∧ t.doneW ∧ t.kind = .flip then s.flipMade else s
  s.setStep t

/-- The descriptor of a step whose report cannot arrive completes OWNER_UNRESOLVED, with the result of OK (R395). -/
def State.stepUnheard (s : State) (t : Step2) : State :=
  match t.desc with
  | some d => (s.complete d stOwner 0 t.result).setStep { t with desc := none }
  | none => s

/-- PREPARE: the follower receives the next PREPARE of the owner, while the bridge is up (R395); that of a claim is the claim itself, which the other half acknowledges so (R397). -/
def doPrepare (s : State) : State :=
  match s.ras.steps.find? (fun t => !t.reached && !t.lost) with
  | some t => if s.bridgeUp then (s.setStep { t with reached := true }).bridgeMsg t.own else s
  | none => s

def execPrepare (s : State) : Host.Outcome State Fault Refusal := done (doPrepare s)

/-- The lapse time of the lease in ns (RAS_OWN_CFG). -/
def State.leaseNs (s : State) (h : Half) : Nat := max 1 (s.rd .RAS_OWN_CFG_lease_ms [h.n]) * 1000000

/-- A claim that the other half has not acknowledged within `lease_ms` is given up: both halves stay as they are, and `claim_pend` stays 1 (R397). `result` of a claim's step is when it was sent. -/
def State.claimLapse (s : State) (h : Half) (t : Step2) : State :=
  let s := s.runTo (t.result + s.leaseNs h)
  { s with ras := { s.ras with steps := s.ras.steps.filter (fun x => decide (x.seq ≠ t.seq)) } }

/-- The step is a claim's. -/
def Step2.claim (t : Step2) : Bool := match t.kind with | .adopt .. => true | _ => false

/-- TWO_HALF_STEP_EDGE: a half reaches the edge of its next step: the owner always, the follower where PREPARE reached it (R395); a claim takes effect only where it was acknowledged (R397). -/
def doTwoHalfStepEdge (h : Half) (s : State) : State :=
  match s.ras.steps.find? (fun t => !t.doneIn h && (t.own = h || t.reached)) with
  | none => s
  | some t =>
    if t.claim ∧ ¬ t.reached then s.claimLapse h t
    else
      let s := (s.runTo t.edge).stepIn h t
      if t.own = h ∧ (t.lost ∨ ¬ s.bridgeUp) then (match s.ras.steps.find? (fun x => x.seq = t.seq) with | some x => s.stepUnheard x | none => s) else s

def execTwoHalfStepEdge (h : Half) (s : State) : Host.Outcome State Fault Refusal := done (doTwoHalfStepEdge h s)

/-- STEP_APPLIED_REPORT: the follower's report reaches the owner, and the descriptor completes (R395). -/
def doStepAppliedReport (s : State) : State :=
  match s.ras.steps.find? (fun t => t.doneE && t.doneW && t.desc.isSome) with
  | some t => match t.desc with
    | some d => if s.bridgeUp then ((s.ok d t.result).setStep { t with desc := none }).bridgeMsg t.own.other else s
    | none => s
  | none => s

def execStepAppliedReport (s : State) : Host.Outcome State Fault Refusal := done (doStepAppliedReport s)

/-- LEASE_RENEWAL: every 1 ms of elapsed time the owner sends its term and identity (R393), at the multiples of 1 ms (DESIGN CHOICE: log entry 85). The lease timer's event crosses to the Clove engines, of which one that serves the LEASE routine sends it (R31, R302, R412). -/
def doLeaseRenewal (s : State) : State :=
  let o := s.owner
  if s.own o ≠ 0 then s
  else (s.runTo (nextMultiple 1000000 s.elapsed)).xingSend o 4 0 fun s => s.viaRoutine o 0 [0, 1] fun s =>
    if s.bridgeUp then { s with ras := { s.ras with renewSent := s.ras.renewSent ++ [(o.other, s.rd .RAS_OWN_STAT_term [o.n], o.n)] } }.bridgeMsg o else s

def execLeaseRenewal (s : State) : Host.Outcome State Fault Refusal := done (doLeaseRenewal s)

/-- LEASE_RENEWAL_RX: a half receives a renewal, yields to a higher term, and acknowledges it (R393, R394). -/
def doLeaseRenewalRx (s : State) : State :=
  match s.ras.renewSent with
  | [] => s
  | (h, term, own) :: q =>
    let s := ({ s with ras := { s.ras with renewSent := q, rxAt := s.elapsed, acksSent := s.ras.acksSent + 1 } }).bridgeMsg h
    if s.own h ≠ 2 ∧ s.rd .RAS_OWN_STAT_term [h.n] < term then s.adoptTerm h term own else s

def execLeaseRenewalRx (s : State) : Host.Outcome State Fault Refusal := done (doLeaseRenewalRx s)

/-- LEASE_ACK: the owner receives an acknowledgement (R393). -/
def doLeaseAck (s : State) : State :=
  if s.ras.acksSent = 0 then s else { s with ras := { s.ras with acksSent := s.ras.acksSent - 1, ackAt := s.elapsed } }

def execLeaseAck (s : State) : Host.Outcome State Fault Refusal := done (doLeaseAck s)

/-- A half becomes UNRESOLVED: OWNER_LOST with its cause (R394). -/
def State.ownLost (s : State) (h : Half) (cause : Nat) : State :=
  if s.own h = 2 then s
  else (s.st .RAS_OWN_STAT_state [h.n] 2).raise 0x0111 h.n [(0, 1, h.n), (1, 1, cause), (4, 4, s.rd .RAS_OWN_STAT_term [h.n])]

/-- LEASE_LAPSE: the follower has had no renewal, or the owner no acknowledgement, for `lease_ms` (R393); the timer's event crosses to the Clove engines (R31, R412). -/
def doLeaseLapse (h : Half) (s : State) : State :=
  if s.own h = 2 then s
  else (s.runTo ((if s.own h = 0 then s.ras.ackAt else s.ras.rxAt) + s.leaseNs h)).xingSend h 4 0 (fun s => s.ownLost h 2)

def execLeaseLapse (h : Half) (s : State) : Host.Outcome State Fault Refusal := done (doLeaseLapse h s)

/-- OWNER_CLAIM: a term and an owner are written to `RAS_OWN_CLAIM` of a half (R397). -/
def doOwnerClaim (h : Half) (term own : Nat) (s : State) : State :=
  let term := term % 2 ^ 32
  let own := own % 2
  if term ≤ s.rd .RAS_OWN_STAT_term [h.n] then s.st .RAS_OWN_STAT_claim_stale [h.n] 1
  else if s.bridgeUp ∧ ¬ s.unresolved then (s.request (.adopt term own) none s.elapsed).st .RAS_OWN_STAT_claim_pend [h.n] 1
  else (s.adoptTerm h term own).st .RAS_OWN_STAT_claim_pend [h.n] 1

def execOwnerClaim (h : Half) (term own : Nat) (s : State) : Host.Outcome State Fault Refusal := doneReg (h = .W) (doOwnerClaim h term own) s

/-- The RW fields of the mirrored registers, by number. -/
def mirroredFields : List Nat :=
  ((List.range 23).flatMap regsOf).flatMap (fun r =>
    if r.info.mirrored then (r.fields.filter (fun f => f.info.acc = .RW)).map Fld.ctorIdx else [])

/-- The owner's value of every mirrored register is written into the other half (R398). -/
def State.mirrorFrom (s : State) (o : Half) : State :=
  let fs := mirroredFields
  let keep := s.regs.filter (fun e => match e.1 with | f :: i :: _ => !(fs.contains f && i = o.other.n) | _ => true)
  let regs := s.regs.foldl (fun (m : SMap Nat) e => match e.1 with
    | f :: i :: r => if fs.contains f ∧ i = o.n then m.set (f :: o.other.n :: r) e.2 else m
    | _ => m) keep
  { s with regs := regs, ras := { s.ras with mirrorQ := s.ras.mirrorQ.filter (fun q => q.2.all (fun t => decide (t < 33))) } }

/-- The deferred releases are applied in the halves they are owed to (R396, R398). -/
def State.deferredApply (s : State) : State :=
  let s1 := s.ras.deferred.foldl (fun (s : State) e => s.lower .SLC_REFCNT_count e.1 e.2) s
  { s1 with ras := { s1.ras with deferred := [] } }

/-- Steps that one half has applied and the other has not are applied there in order: their number, and the state (R398). -/
def State.rollForward (s : State) : Nat × State :=
  let ts := s.ras.steps.filter (fun t => t.doneE != t.doneW)
  (ts.length, ts.foldl (fun (s : State) t => s.stepIn (if t.doneE then .W else .E) t) s)

/-- The halves leave UNRESOLVED together (R398). -/
def State.resolve (s : State) (o : Half) (term : Nat) : State :=
  let (n, s) := s.rollForward
  let s := (s.mirrorFrom o).deferredApply
  let s := halves.foldl (fun (s : State) h => s.sts [(.RAS_OWN_STAT_state, [h.n], b2n (decide (h ≠ o))), (.RAS_OWN_STAT_owner, [h.n], o.n),
    (.RAS_OWN_STAT_term, [h.n], term), (.RAS_OWN_STAT_claim_pend, [h.n], 0), (.RAS_OWN_STAT_conflict, [h.n], 0)]) s
  let s := { s with ras := { s.ras with rxAt := s.elapsed, ackAt := s.elapsed, renewSent := [], acksSent := 0 } }
  s.raise 0x0112 o.n [(0, 1, o.n), (4, 4, term), (8, 4, n)]

/-- TERM_EXCHANGE: with the bridge up, the halves exchange term and owner (R398). -/
def doTermExchange (s : State) : State :=
  if ¬ s.bridgeUp ∨ ¬ s.unresolved then s
  else
    let s := (s.bridgeMsg .E).bridgeMsg .W
    let tE := s.rd .RAS_OWN_STAT_term [0]
    let tW := s.rd .RAS_OWN_STAT_term [1]
    let oE := s.rd .RAS_OWN_STAT_owner [0]
    let oW := s.rd .RAS_OWN_STAT_owner [1]
    if tW < tE then s.resolve (Half.of oE) tE
    else if tE < tW then s.resolve (Half.of oW) tW
    else if oE ≠ oW then (s.sts [(.RAS_OWN_STAT_conflict, [0], 1), (.RAS_OWN_STAT_conflict, [1], 1)]).raise 0x0113 2 [(4, 4, tE)]
    else if halves.any (fun h => s.on .RAS_OWN_CFG_auto_resolve [h.n] || s.on .RAS_OWN_STAT_claim_pend [h.n]) then s.resolve (Half.of oE) tE
    else s

def execTermExchange (s : State) : Host.Outcome State Fault Refusal := done (doTermExchange s)

/-- Takes a target off the oldest write that owes it, and the write off the queue once it owes none. -/
def mirrorPop (target : Nat) : List (List (Fld × List Nat × Nat) × List Nat) → List (List (Fld × List Nat × Nat) × List Nat)
  | [] => []
  | q :: r =>
    if q.2.contains target then (if (q.2.erase target).isEmpty then r else (q.1, q.2.erase target) :: r)
    else q :: mirrorPop target r

/-- MIRRORED_WRITE: the oldest write still owed to a target reaches it: a pipe or unit 0-31, East 33 or West 34 (R43, R473). -/
def doMirroredWrite (target : Nat) (s : State) : State :=
  match s.ras.mirrorQ.find? (fun q => q.2.contains target) with
  | none => s
  | some q =>
    if 33 ≤ target ∧ ¬ s.bridgeUp then s
    else
      let inst := if target < 33 then target else target - 33
      let s := q.1.foldl (fun (s : State) w => s.st w.1 (inst :: w.2.1.drop 1) w.2.2) s
      let s := { s with ras := { s.ras with mirrorQ := mirrorPop target s.ras.mirrorQ } }
      if 33 ≤ target then s.bridgeMsg (Half.of (34 - target)) else s

def execMirroredWrite (target : Nat) (s : State) : Host.Outcome State Fault Refusal := done (doMirroredWrite target s)

/-- Bridge links that work. -/
def State.bridgeLinks (s : State) : Nat := (s.linksIn 9 0 2).length + (s.linksIn 9 0 3).length

/-- Links below which the bridge is lost (RAS_LINK_CFG). -/
def State.minLinks (s : State) : Nat := max 1 (s.rd .RAS_LINK_CFG_min_links [0])

/-- Mirrored writes on the bridge are lost with it: their half alone holds them (R398). -/
def State.mirrorCut (s : State) : State :=
  let cut := s.ras.mirrorQ.filter (fun q => q.2.any (fun t => decide (33 ≤ t)))
  let s1 := cut.foldl (fun (s : State) q => s.st .RAS_OWN_STAT_mirror_split [34 - q.2.headD 33] 1) s
  { s1 with ras := { s1.ras with mirrorQ := s1.ras.mirrorQ.filter (fun q => q.2.all (fun t => decide (t < 33))) } }

/-- The PREPAREs and claims on the bridge are lost, and a descriptor whose step the owner has applied gets no report (R395). -/
def State.stepsCut (s : State) : State :=
  let s := { s with ras := { s.ras with steps := (s.ras.steps.filter (fun (t : Step2) => t.reached || !t.claim)).map (fun (t : Step2) => if t.reached then t else { t with lost := true }) } }
  (s.ras.steps.filter (fun (t : Step2) => t.doneIn t.own)).foldl (fun (s : State) t => s.stepUnheard t) s

/-- The bridge carries traffic again: both FDB copies and West's time are resynchronised, and the engines hear of it (R401, R122, R185, R306). -/
def State.bridgeBack (s : State) : State :=
  let s := halves.foldl (fun (s : State) h => s.sts [(.RAS_OWN_STAT_bridge_up, [h.n], 1), (.RAS_LINK_STAT_lost, [h.n], 0), (.FDB_STAT_resync, [h.n], 1)]) s
  let s := halves.foldl (fun (s : State) h => s.raise 0x0115 h.n [(0, 1, s.bridgeLinks)]) s
  ((({ s with fdb := { s.fdb with resync := [.E, .W] } }).timeBridgeRestored).irqAll .E 0).irqAll .W 0

/-- BRIDGE_RESTORED: at least `min_links` links work again (R401). -/
def doBridgeRestored (s : State) : State := if s.bridgeUp ∨ s.bridgeLinks < s.minLinks ∨ ¬ s.pkg.resetEnded then s else s.bridgeBack

def execBridgeRestored (s : State) : Host.Outcome State Fault Refusal := done (doBridgeRestored s)

/-- `maint_queued` follows the operations that wait (R389). -/
def State.queuedShow (s : State) : State := s.st .SYS_MODE_maint_queued [0] (b2n (!s.ras.queueM.isEmpty))

/-- Pipes or units of a class in a half, and its banks: 128 Hamper banks, else what the descriptor's field holds (R319, R404). -/
def bankOk (cls inst bank : Nat) : Bool :=
  decide (cls < 5) && decide (inst < (if cls = 1 ∨ cls = 4 then 16 else 1)) && decide (bank < (if cls = 0 then 128 else 4096))

/-- BANK_RETIRE (R408, R409). -/
def doBankRetire (d : Hdr) (cls inst bank : Nat) (s : State) : State :=
  s.serve d ⟨0xC1, .maint, true, false, 1⟩ true (cleanHdr d false false false) fun s =>
    let h := Hdr.half d
    if ¬ bankOk cls inst bank then s.fail d stParam
    else if s.ras.retired.getD [cls, h.n, inst, bank] false then s.reject d 0x68
    else if s.spareLeft cls h inst = 0 then s.fail d 0x28
    else s.retireStart (Maint.mk 3 h cls inst bank (some d))

def execBankRetire (d : Hdr) (cls inst bank : Nat) (s : State) : Host.Outcome State Fault Refusal := doneDesc (.bankRetire (bareHdr d) cls inst bank) d (doBankRetire d cls inst bank) s

/-- Words of a bank: 4,096 rows (R312, RAS_ERR_W0). -/
def bankWords : Nat := 4096

/-- The end of a retirement: reads and writes go to the spare (R409). -/
def State.retireEnd (s : State) (m : Maint) : State :=
  let h := m.half
  let s := { s with ras := { s.ras with job := none, retired := s.ras.retired.set [m.cls, h.n, m.inst, m.bank] true } }
  let left := s.spareLeft m.cls h m.inst
  let s := (s.bump .RAS_CNT_v [h.n, 7] 1).bump .RAS_SPARE_used [h.n, m.cls] 1
  let s := s.st .RAS_RETIRE_STAT_state [h.n] (b2n (s.ras.queueM.any (fun x => x.op = 3 && x.half = h)))
  let s := (s.raise 0x0119 h.n [(0, 1, m.cls), (1, 1, h.n), (2, 1, m.inst), (4, 2, m.bank), (6, 1, left)]).maintEnd
  match m.desc with | some d => s.ok d left | none => s

/-- BANK_COPY: an event of the RAS routine copies one word of the retiring bank and posts the next; after the last, the bank is remapped (R303, R409, R410). -/
def doBankCopy (h : Half) (s : State) : State :=
  match s.ras.job with
  | some m =>
    if m.op ≠ 3 ∨ m.half ≠ h then s
    else s.viaRoutine h 1 [BitVec.ofNat 64 m.bank] fun s =>
      let s := if s.rd .RAS_RETIRE_STAT_done [h.n] < bankWords then s.copyWord h (s.routineEngine h 1) else s
      if bankWords ≤ s.rd .RAS_RETIRE_STAT_done [h.n] then s.retireEnd m else s.postWork h 1 [BitVec.ofNat 64 m.bank]
  | none => s

def execBankCopy (h : Half) (s : State) : Host.Outcome State Fault Refusal := done (doBankCopy h s)

/-- The failed links that a retrain names: one, or all of a group; of the tile links of a half for `link` 255, all (R402). A link that waits in another retrain is left to it. -/
def State.trainList (s : State) (inst link : Nat) : List (Nat × Nat) :=
  let ls := if link = 255 then List.range (glbLinks inst) else [link]
  (ls.filter (fun l => s.link inst l = 4 && !s.ras.train.any (fun r => r.links.any (fun x => (glbViews x.1 x.2).contains [inst, l])))).map (fun l => (inst, l))

/-- A retrain runs. -/
def State.training (s : State) : Bool := !s.ras.train.isEmpty

/-- The end of a retrain of a group (R402, R475). -/
def State.trainEnd (s : State) (r : Train) : State :=
  let failed := if r.inst = 8 ∨ r.inst = 11 then ((List.range 128).filter (fun l => s.link r.inst l = 4)).length else (s.linksIn r.inst 0 4).length
  let s := (glbHalves r.inst).foldl (fun (s : State) (h : Half × Nat) => s.raise 0x011C h.1.n [(0, 1, h.2), (1, 1, r.trained), (2, 1, failed)]) s
  let s := if ¬ s.training ∧ s.rd .SYS_MODE_maint_op [0] = 4 then s.maintEnd else s
  match r.desc with | some d => s.ok d r.trained | none => s

/-- Instances of the bridge's views. -/
def isBridge (inst : Nat) : Bool := inst = 9 || inst = 12

/-- The first retrain of the bridge that runs or waits behind one that does. -/
def State.bridgeTraining (s : State) : Option Train := s.ras.train.find? (fun r => isBridge r.inst)

/-- A retrain starts: alongside the operation in progress where there is one (R403), else as an operation of its own (R389, R402). Its links train one at a time, and those of a second retrain of the bridge after those of the first. -/
def State.trainStart (s : State) (inst link : Nat) (desc : Option Hdr) : State :=
  let ls := s.trainList inst link
  let s := if s.rd .SYS_MODE_maint_op [0] ≠ 0 then s else s.maintStart 4
  match ls with
  | [] => s.trainEnd ⟨inst, [], desc, 0⟩
  | l :: _ =>
    let s' := { s with ras := { s.ras with train := s.ras.train ++ [Train.mk inst ls desc 0] } }
    if isBridge inst ∧ s.bridgeTraining.isSome then s' else s'.setLink l.1 l.2 1

/-- An automatic retrain that cannot start now waits (R389). -/
def State.trainWait (s : State) (inst link : Nat) (desc : Option Hdr) : State :=
  { s with ras := { s.ras with queueM := s.ras.queueM ++ [Maint.mk 4 .E 0 inst link desc] } }

/-- A retrain of a group may not wait for what runs: the bridge's while the bridge is lost (R403). -/
def State.trainFree (s : State) (inst : Nat) : Bool := isBridge inst && !s.bridgeUp

/-- LINK_RETRAIN (R402, R403). One that would run beside another operation, an automatic retrain among them, is refused (R389). -/
def doLinkRetrain (d : Hdr) (glb link : Nat) (s : State) : State :=
  s.serveX d ⟨0xC2, .maint, true, false, 0⟩ true (cleanHdr d false false false) (isBridge glb) fun s =>
    if glb < 8 ∨ 13 < glb ∨ (link ≠ 255 ∧ glbLinks glb ≤ link) then s.fail d stParam
    else if s.training ∧ ¬ s.trainFree glb then s.complete d stReject 0x2A 4
    else s.trainStart glb link (some d)

def execLinkRetrain (d : Hdr) (glb link : Nat) (s : State) : Host.Outcome State Fault Refusal := doneDesc (.linkRetrain (bareHdr d) glb link) d (doLinkRetrain d glb link) s

/-- AUTO_RETRAIN: with `auto_retrain`, a group's failed links are retrained; behind another operation it waits, except a retrain of the bridge while the bridge is lost (R402, R403); one of the bridge that runs already is not doubled. -/
def doAutoRetrain (inst : Nat) (s : State) : State :=
  let ls := s.trainList inst 255
  let known := s.ras.queueM.any (fun m => m.op = 4 && m.inst = inst)
  if inst < 8 ∨ 13 < inst ∨ ¬ s.on .RAS_LINK_CFG_auto_retrain [0] ∨ ls.isEmpty ∨ s.mode = 1 ∨ (isBridge inst ∧ s.bridgeTraining.isSome) then s
  else if s.maintBusy ∧ ¬ s.trainFree inst then
    if known then s else (s.trainWait inst 255 none).queuedShow
  else s.trainStart inst 255 none

def execAutoRetrain (inst : Nat) (s : State) : Host.Outcome State Fault Refusal := done (doAutoRetrain inst s)

/-- Retrains of the bridge that wait start when the bridge is lost (R403). -/
def State.trainNow (s : State) : State :=
  let ms := s.ras.queueM.filter (fun m => m.op = 4 && isBridge m.inst)
  if ms.isEmpty then s
  else
    let s := ({ s with ras := { s.ras with queueM := s.ras.queueM.filter (fun m => !(m.op = 4 && isBridge m.inst)) } }).queuedShow
    ms.foldl (fun (s : State) m => s.trainStart m.inst m.bank m.desc) s

/-- BRIDGE_LOST: fewer than `min_links` links work (R401, R394, R121, R131, R185, R306, R310, R396); a retrain of the bridge that waits starts (R403). -/
def doBridgeLost (s : State) : State :=
  if ¬ s.bridgeUp ∨ s.minLinks ≤ s.bridgeLinks then s
  else
    let n := s.bridgeLinks
    let s := halves.foldl (fun (s : State) h => s.sts [(.RAS_OWN_STAT_bridge_up, [h.n], 0), (.RAS_LINK_STAT_lost, [h.n], 1)]) s
    let s := halves.foldl (fun (s : State) h => s.raise 0x0114 h.n [(0, 1, n)]) s
    let s := (s.ownLost .E 1).ownLost .W 1
    let s := ((((s.fdbBridgeLost).bufBridgeLost).refBridgeLost).timeBridgeLost).patchBridgeLost
    let s := s.mirrorCut.stepsCut
    let s := { s with ras := { s.ras with renewSent := [], acksSent := 0 } }
    ((s.irqAll .E 0).irqAll .W 0).trainNow

def execBridgeLost (s : State) : Host.Outcome State Fault Refusal := done (doBridgeLost s)

/-- The wire that training mapped onto the spare in the direction of a link's first or second view, none for 32 and above: a LINK_TRAIN_DONE names both, six bits each (R440, log entry 54). -/
def viewWire (wire k : Nat) : Option Nat := let w := wire / 64 ^ k % 64; if w < 32 then some w else none

/-- Records the wires that training repaired in the two directions of a link, each in the view of the die that receives there (R440, R441). -/
def State.wiresPut (s : State) (i l wire : Nat) : State :=
  ((glbViews i l).zip [0, 1]).foldl (fun (s : State) x => s.sts
    [(.GLB_LINK_STAT_wire_repaired, x.1, b2n (viewWire wire x.2).isSome), (.GLB_LINK_STAT_repaired_wire, x.1, (viewWire wire x.2).getD 0)]) s

/-- A link's training ends, with its wire repairs (R440, R441). -/
def State.linkTrained (s : State) (i l : Nat) (pass : Bool) (wire : Nat) : State :=
  let tile := decide (i = 8 ∨ i = 11)
  let s := if tile then s.rlSettle (glbPipe i l) (s.tileLinks (glbPipe i l)) else s
  let s := if pass then
      let s := s.setLink i l (if (s.linksIn i l 2).length < glbActive i then 2 else 3)
      let s := s.wiresPut i l wire
      (glbHalves i).foldl (fun (s : State) (h : Half × Nat) => s.bump .RAS_CNT_v [h.1.n, 9] 1) s
    else (s.setLink i l 4).linkCount i l 3
  s.linkStat

/-- The link that a retrain trains at this moment. -/
def Train.now (r : Train) : Nat × Nat := r.links.headD (0, 0)

/-- LINK_TRAIN_DONE: the training of a link ends, and the next link of its retrain begins (R402, R440, R441, R475). -/
def doLinkTrainDone (inst link : Nat) (pass : Bool) (wire : Nat) (s : State) : State :=
  match s.ras.train.find? (fun r => (glbViews r.now.1 r.now.2).contains [inst, link] && s.link r.now.1 r.now.2 = 1) with
  | none => s
  | some r =>
    let s := s.linkTrained r.now.1 r.now.2 pass wire
    let r' : Train := { r with links := r.links.drop 1, trained := r.trained + b2n pass }
    match r'.links with
    | [] =>
      let s := { s with ras := { s.ras with train := s.ras.train.erase r } }
      (match (if isBridge r.inst then s.bridgeTraining else none) with | some q => s.setLink q.now.1 q.now.2 1 | none => s).trainEnd r'
    | x :: _ => ({ s with ras := { s.ras with train := s.ras.train.map (fun q => if q = r then r' else q) } }).setLink x.1 x.2 1

def execLinkTrainDone (inst link : Nat) (pass : Bool) (wire : Nat) (s : State) : Host.Outcome State Fault Refusal := done (doLinkTrainDone inst link pass wire s)

/-- MAINT_QUEUED_START: no operation runs and the oldest waiting one starts (R389); a retirement of a bank that is retired meanwhile, or for which no spare is left, does not (R408). -/
def doMaintQueuedStart (s : State) : State :=
  match s.ras.queueM with
  | [] => s
  | m :: q =>
    if s.maintBusy then s
    else
      let s := ({ s with ras := { s.ras with queueM := q } }).queuedShow
      let shown (s : State) : State := s.st .RAS_RETIRE_STAT_state [m.half.n] (b2n (q.any (fun x => x.op = 3 && x.half = m.half)))
      if m.op = 4 then s.trainStart m.inst m.bank m.desc
      else if s.ras.retired.getD [m.cls, m.half.n, m.inst, m.bank] false then shown s
      else if s.spareLeft m.cls m.half m.inst = 0 then (shown s).raise 0x011A m.half.n [(0, 1, m.cls), (1, 1, m.half.n), (2, 1, m.inst)]
      else s.retireStart m

def execMaintQueuedStart (s : State) : Host.Outcome State Fault Refusal := done (doMaintQueuedStart s)

/-- ECC_INJECT: the next read of the word reports the error (R415). -/
def doEccInject (d : Hdr) (cls inst bank row kind : Nat) (s : State) : State :=
  s.serve d ⟨0xC3, .inject, true, false, 1⟩ true (cleanHdr d false false false) fun s =>
    if ¬ bankOk cls inst bank ∨ 4096 ≤ row ∨ kind = 0 ∨ 2 < kind then s.fail d stParam
    else ({ s with ras := { s.ras with poison := s.ras.poison.set [cls, (Hdr.half d).n, inst, bank, row] kind } }).ok d 0

def execEccInject (d : Hdr) (cls inst bank row kind : Nat) (s : State) : Host.Outcome State Fault Refusal := doneDesc (.eccInject (bareHdr d) cls inst bank row kind) d (doEccInject d cls inst bank row kind) s

/-- A poisoned word is repaired (R404). -/
def State.ueFixed (s : State) (h : Half) (cls inst bank row : Nat) : State := (s.eccClear h cls inst bank row).bump .RAS_CNT_v [h.n, 3] 1

/-- An entry of the FDB poisoned in both copies is freed, under its bucket's lock, and an overflow entry takes its way; while the lock is held the repair waits (R99, R115, R404). -/
def State.fdbUeFree (s : State) (inst bank row : Nat) (p : List Nat) (o : Half) : State :=
  let b := s.fdbBucketAt o p
  let free (s : State) : State := (((s.fdbPut .E p none).fdbPut .W p none).eccClear .E 2 inst bank row).eccClear .W 2 inst bank row
  if p.head? = some ovfBucket then (if (s.lockOf b).isSome then s else free s)
  else if (s.lockOf b).isSome then s
  else ((free s).fdbMoveIn o b (s.engEv o 1 none)).lockPulse b 1 none

/-- UE_REPAIR: class 1 from another pipe of the half; class 2 from the other half's copy, or the entry is freed; class 5 ROM from its duplicate; the other classes have no repair (R404). -/
def doUeRepair (h : Half) (cls inst bank row : Nat) (s : State) : State :=
  let bad (s : State) (h : Half) (inst : Nat) : Bool := decide (2 ≤ s.ras.poison.getD [cls, h.n, inst, bank, row] 0)
  if ¬ bad s h inst then s
  else match cls with
    | 1 => if (List.range 16).any (fun p => p ≠ inst && !bad s h p) then s.ueFixed h cls inst bank row else s
    | 2 =>
      if ¬ s.bridgeUp then s
      else
        let p := Config.eccWord 2 bank row
        if bad s h.other inst then s.fdbUeFree inst bank row p (match p with | [b, w] => if b = ovfBucket then Half.of (w / 8192 % 2) else bucketOwner b | _ => h)
        else (s.fdbPut h p (s.fdbAt h.other p)).ueFixed h cls inst bank row
    | 5 => if row + bank * 4096 < 0xC000 then s.ueFixed h cls inst bank row else s
    | _ => s

def execUeRepair (h : Half) (cls inst bank row : Nat) (s : State) : Host.Outcome State Fault Refusal := done (doUeRepair h cls inst bank row s)

/-- A TCAM cell is compared with its shadow, the word of class 1 that a bank and row hold, and rewritten where an upset has altered it (R406). -/
def State.tcamScrub (s : State) (h : Half) (inst bank row : Nat) : State :=
  let k := (16 * h.n + inst) :: Config.eccWord 1 bank row
  match s.tables.upset.get? k with
  | some _ => ({ s with tables := { s.tables with upset := s.tables.upset.erase k } }).bump .RAS_CNT_v [h.n, 14] 1
  | none => s

/-- SCRUB: the RAS routine reads a word; a correctable error is written back, the repair of a poisoned word starts, and a TCAM cell follows its shadow (R405, R406). -/
def doScrub (h : Half) (cls inst bank row : Nat) (s : State) : State :=
  if ¬ s.on .RAS_ECC_CFG_scrub_en [h.n] then s
  else s.viaRoutine h 1 ([cls, inst, bank, row].map (BitVec.ofNat 64)) fun s =>
    let one := decide (s.ras.poison.getD [cls, h.n, inst, bank, row] 0 = 1)
    let (bad, s) := s.eccRead h cls inst bank row (bankEv (s.routineEngine h 1) cls inst bank row)
    let s := if one then (s.eccClear h cls inst bank row).bump .RAS_CNT_v [h.n, 2] 1 else if bad then doUeRepair h cls inst bank row s else s
    if cls = 1 ∧ s.ras.poison.getD [cls, h.n, inst, bank, row] 0 < 2 then s.tcamScrub h inst bank row else s

def execScrub (h : Half) (cls inst bank row : Nat) (s : State) : Host.Outcome State Fault Refusal := done (doScrub h cls inst bank row s)

/-- Cells of a half that its copies hold (R127). -/
def State.cellsHeld (s : State) (h : Half) : Nat :=
  let own := (s.frames.filter (fun f => f.egress = h && f.share = 0 && (f.loc = .granted || f.loc = .crossing || f.loc = .written || f.loc = .queued
    || f.loc = .deparse || (f.loc = .stages && decide (20 ≤ f.stage))))).foldl (fun n f => n + f.cells) 0
  (s.buf.share.filter (fun e => e.1.head? = some h.n)).foldl (fun n e => n + e.2 % 128) own

/-- AUDIT: cells that nothing holds return to the free list (R407). -/
def doAudit (h : Half) (s : State) : State :=
  if s.rd .RAS_ECC_CFG_audit_s [h.n] = 0 then s
  else
    let free := s.rd .BUF_FREE_phys_free [h.n]
    let n := 786431 - s.cellsHeld h - free
    (s.bump .BUF_FREE_phys_free [h.n] n).bump .RAS_CNT_v [h.n, 6] n

def execAudit (h : Half) (s : State) : Host.Outcome State Fault Refusal := done (doAudit h s)

/-- The pairs of lane tiles (R31). -/
def xingTile (pair tile : Nat) : Nat := if pair < 2 then tile else 0

/-- XING_STUCK: a crossing's request, with the value it holds, stays unacknowledged for 1 ms (R411, R413). -/
def doXingStuck (h : Half) (pair tile : Nat) (s : State) : State :=
  let k := xingTile pair tile
  if 7 ≤ pair ∨ 4 ≤ tile ∨ s.xingBusy h pair k then s
  else
    let x : XCh := ⟨s.now h, s.incOf h, s.elapsed⟩
    let s := { s with ras := { s.ras with xing := s.ras.xing.set [h.n, pair, k] x } }
    let s := s.runTo (x.since + 1000000)
    let v := s.rd .RAS_XSTAT_stuck [h.n]
    (if bit v pair then s else s.st .RAS_XSTAT_stuck [h.n] (v + 2 ^ pair)).raise 0x011B h.n [(0, 1, h.n), (1, 1, pair), (2, 1, k)]

def execXingStuck (h : Half) (pair tile : Nat) (s : State) : Host.Outcome State Fault Refusal := done (doXingStuck h pair tile s)

/-- What a reset of a pair discards of the held value: counted once where one was held (R413). -/
def State.xingFree (s : State) (h : Half) (pair tile : Nat) : State :=
  if ¬ s.xingBusy h pair tile then s
  else
    let s := ({ s with ras := { s.ras with xing := s.ras.xing.erase [h.n, pair, tile] } }).bump .RAS_CNT_v [h.n, 11] 1
    let v := s.rd .RAS_XSTAT_stuck [h.n]
    if bit v pair ∧ ¬ (List.range 4).any (fun t => s.xingBusy h pair t) then s.st .RAS_XSTAT_stuck [h.n] (v - 2 ^ pair) else s

/-- A frame in the lane crossing of a tile: received and not yet parsed, or on its way to the lane (R31, R32). -/
def inLane (h : Half) (tile : Nat) (f : Frame) : Bool :=
  let here (p : Nat) : Bool := decide (p < 1024) && portHalf p = h && portTile p = tile
  (f.loc = .input && here f.inPort) || (f.loc = .tile && here f.out)

/-- The frames in the crossing of a tile are discarded, each counted as XING_RESET_LOST (R40, R281, R413). -/
def State.xingFrames (s : State) (h : Half) (tile : Nat) : State :=
  (s.frames.filter (inLane h tile)).foldl (fun (s : State) f => ((s.dropCount h 0x16 f false).bump .RAS_CNT_v [h.n, 11] 1).delFr f.id) s

/-- The transmit timestamps that a tile owes are discarded (R413). -/
def State.xingStamps (s : State) (h : Half) (tile : Nat) : State :=
  let here (e : Half × TxTs) : Bool := e.1 = h && decide (e.2.port < 1024) && portHalf e.2.port = h && portTile e.2.port = tile
  let cut := s.time.txtsReq.filter here
  ({ s with time := { s.time with txtsReq := s.time.txtsReq.filter (fun e => !here e) } }).bump .RAS_CNT_v [h.n, 11] cut.length

/-- A pair of a half is reset on both sides: values and frames in the crossing are discarded and counted, and level values are presented again: the epoch number to the core (R31, R413). -/
def State.xingPair (s : State) (h : Half) (tile pair : Nat) : State :=
  let s := s.xingFree h pair (xingTile pair tile)
  match pair with
  | 0 => s.xingFrames h tile
  | 1 => s.xingStamps h tile
  | 2 => s.epochFollow h
  | _ => s

/-- XING_RESET: the named pairs are reset (R413). -/
def doXingReset (h : Half) (value : Nat) (s : State) : State :=
  (List.range 7).foldl (fun (s : State) pair => if bit value pair then s.xingPair h (bits value 7 2) pair else s) s

def execXingReset (h : Half) (value : Nat) (s : State) : Host.Outcome State Fault Refusal := doneReg (h = .W) (doXingReset h value) s

/-- RAS_ERR_POP: a read of `RAS_ERR_W1` returns the rest of the head entry and pops it (R414). -/
def doRasErrPop (h : Half) (s : State) : State :=
  match s.eccLog h with
  | [] => { s with host := { s.host with resp := 0 } }
  | e :: q => let s := s.setEccLog h q; { s with host := { s.host with resp := e.2 } }

def execRasErrPop (h : Half) (s : State) : Host.Outcome State Fault Refusal := doneReg (h = .W) (doRasErrPop h) s

/-- The per-copy registers of R479, in the order of the command. -/
def copyReg (which : Nat) : Option Reg :=
  match which with
  | 0 => some .FDB_REQ
  | 1 => some .TIM_PTP_REQ
  | 2 => some .GTE_LT_SRC
  | 3 => some .TEL_REQ
  | _ => none

/-- PROTECTED_COPY_REG_WRITE: a write of the whole entry c through a half's instance (R479). -/
def doProtectedCopyRegWrite (which : Nat) (h : Half) (c value : Nat) (s : State) : State :=
  match copyReg which with
  | none => s
  | some r =>
    if 2 ≤ c then s
    else s.regPut r [if r = .TIM_PTP_REQ then 0 else h.n, c] [(0, r.info.width, value % 2 ^ r.info.width)]

def execProtectedCopyRegWrite (which : Nat) (h : Half) (c value : Nat) (s : State) : Host.Outcome State Fault Refusal := doneReg (h = .W && which ≠ 1) (doProtectedCopyRegWrite which h c value) s

end Sys2Proof.Machine
end

