-- ==== Sys2Proof/Machine/Bus.lean ====
section
/-!
DEFINITION. REGISTER_WRITE and RC_COUNTER_READ: what a host's access to a BAR reaches (R8-R12, R324-R330, R401). A write goes to the register's own rule where it has one; a read returns the value in force, computed where the device keeps it elsewhere. Block type 0 stands for the MSI-X table and pending bits of a function, which R324 places in BAR2 (log entry 31).
-/

namespace Sys2Proof.Machine

/-- A function's access reaches a block: PF0 every block of its BAR0, a VF its directory and its HST_ instance (R324, R329). -/
def blkReach (fn blk inst : Nat) : Bool :=
  if 64 < fn then false
  else if blk = 0 then inst = fn
  else if fn = 0 then blkHas blk inst && (blk ≠ 18 || inst = 0)
  else (blk = 18 && inst = fn) || (blk = 2 && inst = 0)

/-- An MSI-X table entry; a vector is masked until software unmasks it (log entry 31). -/
def State.msixAt (s : State) (fn v : Nat) : Msix := s.host.msix.getD [fn, v] (Msix.mk 0 0 true false)

/-- A 32-bit write to the MSI-X table: address, data, mask. An unmasked vector that pends is sent (R352). -/
def State.msixPut (s : State) (fn off value : Nat) : State :=
  let v := off / 16
  let x := value % 2 ^ 32
  let e := s.msixAt fn v
  let set (s : State) (e : Msix) : State := { s with host := { s.host with msix := s.host.msix.set [fn, v] e } }
  if vectors fn ≤ v then s
  else match off % 16 with
    | 0 => set s { e with addr := e.addr / 2 ^ 32 * 2 ^ 32 + x }
    | 4 => set s { e with addr := e.addr % 2 ^ 32 + x * 2 ^ 32 }
    | 8 => set s { e with data := x }
    | 12 =>
      let m := bit x 0
      let s := set s { e with masked := m, pend := e.pend && m }
      if e.pend ∧ ¬ m then s.msixSend fn v else s
    | _ => s

/-- A 32-bit read of the MSI-X table or of the pending bits (R324). -/
def State.msixGet (s : State) (fn off : Nat) : Nat :=
  let v := off / 16
  let pba := if fn = 0 then 0x4000 else 0x0800
  let e := s.msixAt fn v
  if pba ≤ off then
    (List.range 32).foldl (fun a i => let n := (off - pba) * 8 + i; if n < vectors fn ∧ (s.msixAt fn n).pend then a + 2 ^ i else a) 0
  else if vectors fn ≤ v then 0
  else match off % 16 with
    | 0 => e.addr % 2 ^ 32
    | 4 => e.addr / 2 ^ 32
    | 8 => e.data
    | 12 => b2n e.masked
    | _ => 0

/-- A write that a block receives: the claim and the crossing resets have rules of their own (R397, R413). -/
def State.busPut (s : State) (blk inst off : Nat) (wide : Bool) (value : Nat) : State :=
  (accessAt blk inst off wide value).foldl (fun (s : State) a =>
    match a.1, a.2.1 with
    | .RAS_OWN_CLAIM, [h] =>
      match woVal .RAS_OWN_CLAIM_term [a.2.2] with
      | some t => doOwnerClaim (Half.of h) t ((woVal .RAS_OWN_CLAIM_owner [a.2.2]).getD 0) s
      | none => s
    | .RAS_XRST, [h] => doXingReset (Half.of h) a.2.2.2.2 s
    | _, _ => s.wordPut a.1 a.2.1 a.2.2) s

/-- REGISTER_WRITE on a block that the function reaches (R9). -/
def doRegisterWrite (fn blk inst off : Nat) (wide : Bool) (value : Nat) (s : State) : State :=
  if blk = 0 then
    if off % (if wide then 8 else 4) ≠ 0 then s
    else if wide then (s.msixPut fn off value).msixPut fn (off + 4) (value / 2 ^ 32)
    else s.msixPut fn off value
  else s.busPut blk inst off wide value

/-- REGISTER_WRITE: an address where the function has no block faults. With no working host link, PF0's access to a West block is an Unsupported Request (R401). -/
def execRegisterWrite (fn blk inst off : Nat) (wide : Bool) (value : Nat) (s : State) : Host.Outcome State Fault Refusal :=
  if blkReach fn blk inst then doneReg (blkWest blk inst) (doRegisterWrite fn blk inst off wide value) s else .fault .noSuchBlock

/-- Principal dimensions of a block (R329). -/
def ldCounts (blk inst : Nat) : Nat × Nat :=
  match blk with
  | 3 => if inst < 32 then (34, 0) else (0, 0)
  | 6 => (1048576, 16384)
  | 7 | 8 => (8704, 544)
  | 9 => (16384, 64)
  | 10 => (1024, 8)
  | 11 => (8192, 512)
  | 13 => if inst < 32 then (1024, 8192) else (0, 0)
  | 16 => (16, 64)
  | 17 => (128, 4)
  | 18 => (64, vectors inst)
  | 20 => (128, 0)
  | 21 => (glbLinks inst, if isBridge inst then 8 else 0)
  | _ => (0, 0)

/-- The `half` of a directory entry: device-wide for the common instances and the blocks without a half (R328, R41). -/
def ldHalf (blk inst : Nat) : Nat := if blk = 10 ∨ blk = 12 ∨ ((blk = 3 ∨ blk = 4 ∨ blk = 13) ∧ inst = 32) then 2 else b2n (blkWest blk inst)

/-- A directory entry (R328). -/
def ldEntry (blk inst : Nat) : List Byte :=
  let c := ldCounts blk inst
  record 32 [(0, 2, blk), (2, 2, inst), (4, 2, 0x0100), (6, 1, ldHalf blk inst), (7, 1, b2n ((blk = 3 || blk = 4 || blk = 13) && inst = 32)),
    (8, 8, if blk = 2 then 0 else Config.blockBase blk inst), (16, 4, Config.blockSize blk inst), (20, 4, c.1), (24, 4, c.2)]

/-- The blocks in a function's directory. -/
def ldBlocks (fn : Nat) : List (Nat × Nat) :=
  (List.range 23).flatMap (fun blk => ((List.range 65).filter (fun inst => blk ≠ 0 && blkReach fn blk inst)).map (fun inst => (blk, inst)))

/-- The Layout Directory of a function (R327). -/
def ldBytes (fn : Nat) : List Byte :=
  let es := ldBlocks fn
  let head (crc : Nat) : List Byte := record 64 [(0, 4, 0x4C44584F), (4, 2, 0x0100), (6, 2, 64), (8, 2, 32), (10, 2, es.length), (12, 4, 0x00090204),
    (16, 2, 0x00B1), (18, 2, fn), (20, 4, crc)]
  let body := es.flatMap (fun e => ldEntry e.1 e.2)
  head (crc32c 0 (head 0 ++ body)) ++ body

/-- Seconds and fraction as the second word of a time stamp entry (R196, R199). -/
def stampHigh (t : Ts) : Nat := tFrac t + tSec (tRound t) % 2 ^ 48 * 2 ^ 16

/-- The number of the entry that a port's list is in at an instant, and its gates (R207, R231). -/
def GList.show (l : GList) (t : Nat) : Nat × Nat :=
  let r := cutSegs l.segs (((t : Int) - (l.start : Int)) % (l.cycle : Int)).toNat
  match r.2 with
  | (g, _) :: _ => (r.1.length - 1, g)
  | [] => (0, 0xFFFF)

/-- The value of a register in force: fields from the field store, but for those that the device keeps elsewhere. -/
def State.regNow (s : State) (r : Reg) (ix : List Nat) : Nat :=
  let v := s.regVal r ix
  match r, ix with
  | .TIM_NOW_LO, _ => s.nowLo
  | .TIM_ELAPSED, _ => s.elapsed % 2 ^ 64
  | .TIM_TXTS_W0, [_, h] =>
    match s.txts (Half.of h) with
    | e :: _ => 1 + e.port * 2 + e.id * 2 ^ 12 + tNs (tRound e.t) * 2 ^ 32
    | [] => 0
  | .TIM_TXTS_W1, [_, h] => match s.txts (Half.of h) with | e :: _ => stampHigh e.t | [] => 0
  | .TIM_TIO_CAP_LO, [_, n] =>
    match s.time.tio.getD [n] [] with
    | e :: _ => 1 + 2 * b2n e.1 + tNs (tRound e.2) * 2 ^ 32
    | [] => 0
  | .TIM_TIO_CAP_HI, [_, n] => match s.time.tio.getD [n] [] with | e :: _ => stampHigh e.2 | [] => 0
  | .PMC_SAMP_W0, [h] => match s.pmcHead (Half.of h) with | some x => x.2.1 | none => 0
  | .PMC_SAMP_W1, [h] => match s.pmcHead (Half.of h) with | some x => x.2.2 | none => 0
  | .RAS_ERR_W0, [h] => match s.eccLog (Half.of h) with | e :: _ => e.1 | [] => 0
  | .RAS_ERR_W1, [h] => match s.eccLog (Half.of h) with | e :: _ => e.2 | [] => 0
  | .MAT_RANGE, [_, c, n] => (s.prog c).rng.getD [n] 0 % 2 ^ 41
  | .MAT_PROG_CTL, _ => putBits v 15 24 s.oldFrames.length
  | .FDB_STAT, [h] =>
    let x := Half.of h
    putBits (putBits (putBits v 0 9 (s.hostLocks x)) 9 13 (s.fdb.learnQ.filter (fun e => e.1 = x)).length) 22 9 (s.fdb.defer.filter (fun e => e.1 = x)).length
  | .HAM_BANK_STAT, [h, b] => putBits v 2 1 (b2n (s.ras.retired.getD [0, h, 0, b] false))
  | .GTE_PORT_STAT, [h, k] =>
    let p := portOf (Half.of h) k
    let g := match s.glA p with | some l => l.show (tTotalNs (s.now (Half.of h))) | none => (0, 0xFFFF)
    putBits (putBits (putBits v 2 1 (b2n (s.timedPort p))) 3 10 g.1) 13 16 g.2
  | .TOA_UNIT_STAT, [u] => putBits v 49 1 (b2n (s.unitFull u))
  | .LAN_LANE_STAT, [t, l] => putBits v 11 1 (b2n (s.laneLock (128 * t + l)))
  | .LAN_PRBS_CNT, [t, l] => (v + s.laneErrs (128 * t + l)) % 2 ^ 64
  | .TMG_PFC_STAT, [h, k] => let p := portOf (Half.of h) k; (List.range 8).foldl (fun a q => if s.pauseRuns p q then a + 2 ^ q else a) 0
  | _, _ => v

/-- Keeps what a read returns. -/
def State.answer (s : State) (v : Nat) : State := { s with host := { s.host with resp := v } }

/-- What a read of a register does besides returning its value: RC fields are cleared, heads are popped, the seconds are latched (R9, R184, R196, R199, R291, R414). -/
def State.afterGet (s : State) (r : Reg) (ix : List Nat) : State :=
  match r, ix with
  | .TIM_NOW_LO, _ => doTimeRead false s
  | .TIM_TXTS_W1, [_, h] => doTxtsPop (Half.of h) s
  | .TIM_TIO_CAP_HI, [_, n] => doTioCapPop n s
  | .PMC_SAMP_W1, [h] => doPmcSampPop (Half.of h) s
  | .RAS_ERR_W1, [h] => doRasErrPop (Half.of h) s
  | .LAN_LANE_STAT, [t, l] => (s.st .LAN_LANE_STAT_prbs_lock ix (b2n (s.laneLock (128 * t + l)))).laneTold (128 * t + l)
  | .LAN_PRBS_CNT, [t, l] => (s.st .LAN_PRBS_CNT_v ix 0).laneTold (128 * t + l)
  | _, _ => r.fields.foldl (fun (s : State) f => if f.info.acc = .RC then s.st f ix 0 else s) s

/-- A read of a block: value and state. A 32-bit read of a 64-bit register changes nothing (R12). -/
def State.busGet (s : State) (blk inst off : Nat) (wide : Bool) : Nat × State :=
  let two := !wide || (match regAt blk inst off with | some (r, _, _) => decide (r.info.width < 64) | none => true)
  (accessAt blk inst off wide 0).foldl (fun (a : Nat × State) x =>
    let (r, ix, p) := x
    let v := bits (a.2.regNow r ix) p.1 p.2.1
    let hi := two && wide && (match regAt blk inst off with | some (q, iy, _) => decide (q ≠ r ∨ iy ≠ ix) | none => true)
    let s := if p.2.1 = 64 ∨ r.info.width ≤ 32 then a.2.afterGet r ix else a.2
    (a.1 + v * (if hi then 2 ^ 32 else 1), s)) (0, s)

/-- RC_COUNTER_READ on a block that the function reaches (R9, R323). An Unsupported Request returns no data, where a free value stands (R401). -/
def doRcCounterRead (fn blk inst off : Nat) (wide : Bool) (s : State) : State :=
  let n := if wide then 8 else 4
  if s.regOff (blkWest blk inst) then let (v, s) := s.draw; s.answer v
  else if blk = 0 then s.answer (s.msixGet fn off + (if wide then s.msixGet fn (off + 4) * 2 ^ 32 else 0))
  else if blk = 2 then s.answer (le (ldBytes fn) off n)
  else let (v, s) := s.busGet blk inst off wide; s.answer v

/-- RC_COUNTER_READ: an address where the function has no block faults. -/
def execRcCounterRead (blk : BlkAt) (inst off : Nat) (wide : Bool) (s : State) : Host.Outcome State Fault Refusal :=
  if blkReach blk.fn blk.blk inst then done (doRcCounterRead blk.fn blk.blk inst off wide s) else .fault .noSuchBlock

end Sys2Proof.Machine
end

