-- ==== Sys2Proof/Machine/Boot.lean ====
section
/-!
DEFINITION. Start-up, flash and images (R355-R369), the configuration store (R369-R371), keys and attestation (R374-R379), and the Trust Block's self-tests (R382, R383).
-/

namespace Sys2Proof.Machine

/-- The flash contents of a slot: 0 A, 1 B (R360). -/
def State.flash (s : State) (c : Nat) : List Byte := if c = 0 then s.boot.flashA else s.boot.flashB

/-- Replaces the contents of a slot. -/
def State.setFlash (s : State) (c : Nat) (b : List Byte) : State :=
  if c = 0 then { s with boot := { s.boot with flashA := b } } else { s with boot := { s.boot with flashB := b } }

/-- The result of a slot (SYS_BOOT_STAT). -/
def State.setRes (s : State) (c v : Nat) : State := s.st (if c = 0 then .SYS_BOOT_STAT_res_a else .SYS_BOOT_STAT_res_b) [0] v

/-- The fields of a slot after a check: its `seq` and whether it is valid (TRB_SLOT). -/
def State.slotShow (s : State) (c : Nat) (seq : Option Nat) : State :=
  s.sts [(.TRB_SLOT_seq, [0, c], seq.getD seqBad), (.TRB_SLOT_valid, [0, c], b2n seq.isSome)]

/-- How a link trains at RESET, as a RESET_END spells it (log entry 54): the low 8 bits bound the bridge links that train, and sixteen bits follow for every link: the 128 of the bridge, 128 tile links of East and of West, and the 2 host links. Bit 0 fails the training; bits 1 and 2-7 name a wire mapped onto the spare in the direction of the link's first view, bits 8 and 9-14 of its second (R440). -/
def linkWord (v k : Nat) : Nat := v / 2 ^ (8 + 16 * k) % 2 ^ 16

/-- The wires that a link's word names, as LINK_TRAIN_DONE writes them (R440). -/
def linkWires (x : Nat) : Nat := (if bit x 1 then bits x 2 6 else 32) + 64 * (if bit x 8 then bits x 9 6 else 32)

/-- A link trains at RESET: its state where it passes, with its wire repairs, else FAILED (R440, R441). -/
def State.trainOne (s : State) (i l x : Nat) (pass : Bool) (st : Nat) : State :=
  if pass then (s.setLink i l st).wiresPut i l (linkWires x) else (s.setLink i l 4).linkCount i l 3

/-- Every link of the package trains at RESET: the first 120 bridge links that pass are ACTIVE and the rest of them spares; the tile and host links that pass are ACTIVE (R440-R442). -/
def State.trainAll (s : State) (v : Nat) : State :=
  let ok := (List.range 128).filter (fun l => decide (l < v % 256) && !bit (linkWord v l) 0)
  let s := (List.range 128).foldl (fun (s : State) l => s.trainOne 9 l (linkWord v l) (ok.contains l) (if ok.idxOf l < 120 then 2 else 3)) s
  let s := [8, 11].foldl (fun (s : State) i => (List.range 128).foldl (fun (s : State) l =>
    let x := linkWord v (128 + (i - 8) / 3 * 128 + l)
    s.trainOne i l x (!bit x 0) 2) s) s
  ((List.range 2).foldl (fun (s : State) l => let x := linkWord v (384 + l); s.trainOne 10 l x (!bit x 0) 2) s).linkStat

/-- RESET_END: straps are sampled, the timing PLL has locked, links have trained, and term 1 is set (R356, R388, R394, R440, R467). -/
def doResetEnd (tmode fsafe : Bool) (sba links : Nat) (s : State) : State :=
  if s.pkg.resetEnded ∨ s.pkg.valid ≠ 0x1FF then s
  else
    let s := { s with pkg := { s.pkg with resetEnded := true, resetAt := s.elapsed } }
    let s := s.sts [(.SYS_STRAP_tmode, [0], b2n tmode), (.SYS_STRAP_fsafe, [0], b2n fsafe), (.SYS_STRAP_sba, [0], sba), (.TIM_STAT_pll_lock, [0], 1)]
    let s := (s.trainAll links).wdRestart
    let up := decide (s.minLinks ≤ s.bridgeLinks)
    let s := halves.foldl (fun (s : State) h => s.sts [(.RAS_OWN_STAT_term, [h.n], 1), (.RAS_OWN_STAT_owner, [h.n], 0),
      (.RAS_OWN_STAT_bridge_up, [h.n], b2n up), (.RAS_LINK_STAT_lost, [h.n], b2n (!up)), (.RAS_OWN_STAT_state, [h.n], if up then h.n else 2)]) s
    let s := { s with ras := { s.ras with rxAt := s.elapsed, ackAt := s.elapsed } }
    let s := if up then s else s.timeBridgeLost
    if tmode then s.setMode 1 1 0
    else s.sts [(.SYS_BOOT_STAT_phase, [0], 1), (.TRB_STAT_testing, [0], 1)]

def execResetEnd (tmode fsafe : Bool) (sba links : Nat) (s : State) : Host.Outcome State Fault Refusal := done (doResetEnd tmode fsafe sba links s)

/-- A run of the self-tests ends: passed, or ERROR with the failed test (R382, R383, R386). -/
def State.testsEnd (s : State) (fail alg : Nat) : State :=
  let s := (s.bump .TRB_CNT_v [0, 5] 1).st .TRB_STAT_testing [0] 0
  let s := { s with boot := { s.boot with selfDone := true } }
  if fail = 0 then s.sts [(.TRB_STAT_approved, [0], 1), (.TRB_STAT_error, [0], 0), (.TRB_STAT_err_cause, [0], 0)]
  else s.trbFail fail alg

/-- SELFTEST_DONE: the pre-operational self-tests end (R382). -/
def doSelftestDone (fail alg : Nat) (s : State) : State :=
  if ¬ s.trbTesting then s else s.testsEnd (min fail 4) alg

def execSelftestDone (fail alg : Nat) (s : State) : Host.Outcome State Fault Refusal := done (doSelftestDone fail alg s)

/-- No slot is accepted: Fallback mode, and a BOOT_RETRY completes IMAGE_INVALID (R366, R368). -/
def State.fallback (s : State) : State :=
  let d := s.boot.retry
  let s := ({ s with boot := { s.boot with retry := none, cand := [], cur := none, recs := [] } }).st .SYS_BOOT_STAT_phase [0] 5
  let s := s.setMode 6 6 (s.rd .SYS_MODE_maint_op [0])
  match d with | some d => s.fail d 0x20 | none => s

/-- Fallback once no candidate is left. -/
def State.nextSlot (s : State) : State := if s.boot.cand.isEmpty then s.fallback else s

/-- The header of a slot is read and put to the first two checks of R362: 0 for a candidate, else its result. -/
def State.headRes (s : State) (c : Nat) : Nat × State :=
  let b := s.flash c
  if le b 0 4 ≠ imgMagic then (2, s)
  else if ¬ objForm b imgMagic bodyMax then (3, s)
  else if ¬ s.objKeys b then (3, s.bump .TRB_CNT_v [0, 0] 1)
  else (0, s)

/-- Both headers are read, and the candidates are ordered by `seq`, A first on equal ones (R366). -/
def State.readHeads (s : State) : State :=
  let (ra, s) := s.headRes 0
  let (rb, s) := s.headRes 1
  let s := (s.setRes 0 ra).setRes 1 rb
  let s := if ra = 0 then s else s.slotShow 0 none
  let s := if rb = 0 then s else s.slotShow 1 none
  let order := if objSeq (s.flash 0) < objSeq (s.flash 1) ∧ rb = 0 then [1, 0] else [0, 1]
  let cand := order.filter (fun c => if c = 0 then ra = 0 else rb = 0)
  let s := ({ s with boot := { s.boot with cand := cand, discovered := true } }).st .SYS_BOOT_STAT_phase [0] 2
  s.nextSlot

/-- FLASH_DISCOVERY: it starts 1 ms after RESET's end, and the SFDP tables and both slot headers are read (R359, R366, R456). -/
def doFlashDiscovery (ok octal : Bool) (s : State) : State :=
  if s.mode ≠ 0 ∨ ¬ s.pkg.resetEnded ∨ s.boot.discovered then s
  else
    let s := (s.runTo (s.pkg.resetAt + 1000000)).st .SYS_BOOT_STAT_slow_flash [0] (b2n (s.on .SYS_STRAP_fsafe [0] || !octal))
    if ok then s.readHeads
    else ({ (s.setRes 0 7).setRes 1 7 with boot := { s.boot with cand := [], discovered := true } }).fallback

def execFlashDiscovery (ok octal : Bool) (s : State) : Host.Outcome State Fault Refusal := done (doFlashDiscovery ok octal s)

/-- Records with their index in the body: type, index, payload, arg, and whether each is critical. -/
def indexed : Nat → List (Nat × Nat × List Byte × Nat) → List (Nat × Nat × List Byte × Nat × Bool)
  | _, [] => []
  | i, (t, fl, p, a) :: l => (t, i, p, a, bit fl 0) :: indexed (i + 1) l

/-- The records of an image in the order of R364, and the number skipped; none where the image fails (R363). -/
def imagePlan (b : List Byte) : Option (List (Nat × Nat × List Byte × Nat) × Nat) :=
  match objRecs b with
  | none => none
  | some l =>
    let l := indexed 0 l
    let known (t : Nat) : Bool := decide (1 ≤ t ∧ t ≤ 11)
    if l.any (fun r => !known r.1 && r.2.2.2.2) then none
    else some ((List.range 12).flatMap (fun t => (l.filter (fun r => known r.1 && r.1 = t)).map (fun r => (r.1, r.2.1, r.2.2.1, r.2.2.2.1))),
      (l.filter (fun r => !known r.1)).length)

/-- SLOT_BODY_READ: the best untried candidate is put to every check, and accepted or refused (R362, R363, R366); a slot that passes R362 is valid though its records fail (TRB_SLOT). -/
def doSlotBodyRead (s : State) : State :=
  match s.boot.cand with
  | [] => s
  | c :: rest =>
    if s.boot.cur.isSome ∨ ¬ s.boot.selfDone then s
    else
      let s := { s with boot := { s.boot with cand := rest } }
      let b := s.flash c
      let (st, s) := s.objCheck b imgMagic bodyMax
      match (if st = stOk then imagePlan b else none) with
      | some (rs, n) =>
        let s := ((s.setRes c 1).slotShow c (some (objSeq b))).bump .TRB_CNT_v [0, 4] n
        ({ s with boot := { s.boot with cur := some c, recs := rs, tblSlices := [] } }).st .SYS_BOOT_STAT_phase [0] 3
      | none =>
        let r := match st with | 0x21 => 3 | 7 | 0x24 => 4 | _ => 5
        ((s.setRes c r).slotShow c (if st = stOk then some (objSeq b) else none)).nextSlot

def execSlotBodyRead (s : State) : Host.Outcome State Fault Refusal := done (doSlotBodyRead s)

/-- A record is applied as a descriptor would be, with the device taken as Hosted: the status and the state (R364, R394). It comes from no ring, so its completion goes nowhere. -/
def State.asDesc (s : State) (op : State → State) : Nat × State :=
  let m := s.rd .SYS_MODE_mode [0]
  let n := s.host.cpls.length
  let t := (op (s.st .SYS_MODE_mode [0] 3)).st .SYS_MODE_mode [0] m
  let st := match t.host.cpls[n]? with | some c => c.status | none => stOk
  (st, { t with host := { t.host with cpls := t.host.cpls.take n } })

/-- The descriptor header of a record. -/
def recHdr (half slice : Nat) (buf : List Byte) : Hdr :=
  ⟨0, 99, 0, 0, false, false, bit half 0, bit half 1, slice, 0, 0, buf.length, some buf⟩

/-- Bytes of a record entry that must be zero. -/
def zeroAt (e : List Byte) (off n : Nat) : Bool := leNat (slice e off n) = 0

/-- The entries of a payload; none where the size does not divide it. -/
def entries (p : List Byte) (n : Nat) : Option (List (List Byte)) :=
  if p.length % n ≠ 0 then none else some ((List.range (p.length / n)).map (fun i => slice p (n * i) n))

/-- Applies entries in order up to the first that fails. -/
def applyAll (f : List Byte → State → Nat × State) : List (List Byte) → State → Nat × State
  | [], s => (stOk, s)
  | e :: l, s =>
    let (st, t) := f e s
    if st = stOk then applyAll f l t else (st, t)

/-- An entry of the configuration store (R369). -/
def cfgEnt (e : List Byte) : CfgEnt := ⟨le e 0 2, le e 2 2, le e 4 4 % 2 ^ 31, bit (le e 4 4) 31, if bit (le e 4 4) 31 then le e 8 8 else le e 8 4⟩

/-- The bytes of an entry. -/
def cfgBytes (e : CfgEnt) : List Byte := leBytes 2 e.typ ++ leBytes 2 e.inst ++ leBytes 4 (e.off + 2 ^ 31 * b2n e.wide) ++ leBytes 8 e.value

/-- A store with an entry: the entry of the same word is replaced, else the entry is appended (R369, R370). -/
def cfgMerge (st : List CfgEnt) (e : CfgEnt) : List CfgEnt :=
  let same (x : CfgEnt) : Bool := x.typ = e.typ && x.inst = e.inst && x.off = e.off
  if st.any same then st.map (fun x => if same x then e else x) else st ++ [e]

/-- The current copy of the store: that of the parity of `cfg_seq` (R369, log entry 33). -/
def State.store (s : State) : List CfgEnt := if s.rd .TRB_CFG_SEQ_cfg_seq [0] % 2 = 0 then s.boot.store0 else s.boot.store1

/-- A REG entry: a register write, kept in copy 0 (R364, R369). -/
def applyReg (e : List Byte) (s : State) : Nat × State :=
  let c := cfgEnt e
  let s := if blkReach 0 c.typ c.inst ∨ blkHas c.typ c.inst then s.busPut c.typ c.inst c.off c.wide c.value else s
  let st := cfgMerge s.boot.store0 c
  if 8192 < st.length then (0x10, s) else (stOk, { s with boot := { s.boot with store0 := st } })

/-- A TBL entry (R364, R341). -/
def applyTbl (sl : Nat) (e : List Byte) (s : State) : Nat × State :=
  let rec64 := slice e 32 64
  if ¬ (byteAt e 0 = 0 ∧ zeroAt e 2 2 ∧ zeroAt e 8 24 ∧ sl < 64) then (stParam, s)
  else
    let (st, s) := s.asDesc (doTblWrite (recHdr 0 sl rec64) 0 (byteAt e 1) (le e 4 4))
    (st, { s with boot := { s.boot with tblSlices := if s.boot.tblSlices.contains sl then s.boot.tblSlices else s.boot.tblSlices ++ [sl] } })

/-- An FDB entry (R364, R341). -/
def applyFdb (e : List Byte) (s : State) : Nat × State :=
  if ¬ (zeroAt e 1 7 ∧ zeroAt e 31 1 ∧ zeroAt e 36 4 ∧ byteAt e 30 < 4) then (stParam, s)
  else s.asDesc (doFdbInsert (recHdr 0 (byteAt e 0) []) ⟨byteAt e 8, le e 9 3, le e 12 16⟩ (le e 28 2) (bit (byteAt e 30) 0) (bit (byteAt e 30) 1) (le e 32 4))

/-- A POLICER entry (R364, R341). -/
def applyPol (e : List Byte) (s : State) : Nat × State :=
  if ¬ (zeroAt e 1 3 ∧ zeroAt e 6 2 ∧ zeroAt e 26 14 ∧ byteAt e 24 < 8 ∧ byteAt e 0 < 4) then (stParam, s)
  else
    let fl := byteAt e 24
    s.asDesc (doPolicerSet (recHdr (byteAt e 0) 0 []) (le e 4 2) (le e 8 4) (le e 12 4) (le e 16 4) (le e 20 4) (bit fl 0) (bit fl 1) (bit fl 2) (byteAt e 25))

/-- The PATCH record: PATCH_LOAD, then PATCH_ARM in ROUTINE mode in both halves, which is ARMING until no engine carries the old tag (R310, R364, R389). -/
def State.applyPatch (s : State) (p : List Byte) : Nat × State :=
  if s.unresolved then (stOwner, s)
  else if s.maintBusy then (stReject, s)
  else
    let (st, _, s) := s.patchInstall p
    if st ≠ stOk then (st, s)
    else
      let s := { s with clove := { s.clove with arm := some ⟨none, 0, s.patchSet s.owner, false⟩ } }
      let s := ((s.patchEdge .E).patchEdge .W).sts [(.CLV_PATCH_CTL_mode, [0], 0), (.CLV_PATCH_CTL_mode, [1], 0), (.CLV_PATCH_CTL_state, [0], 1), (.CLV_PATCH_CTL_state, [1], 1)]
      (stOk, s.maintStart 2)

/-- A record of an image is applied: its status and the state (R364). -/
def State.applyRec (s : State) (t : Nat) (p : List Byte) (arg : Nat) : Nat × State :=
  let each (n : Nat) (f : List Byte → State → Nat × State) : Nat × State :=
    match entries p n with | some l => applyAll f l s | none => (stParam, s)
  let bad : Nat × State := (stParam, s)
  if arg ≠ 0 ∧ t ≠ 3 ∧ t ≠ 8 then bad
  else match t with
    | 1 => s.applyPatch p
    | 2 => each 16 applyReg
    | 3 => if p.length ≠ 32 ∨ 1 < arg then bad
           else s.asDesc (doBufPartSet { recHdr (arg + 1) 0 [] with buf := none } ((List.range 8).map (fun i => le p (4 * i) 4)))
    | 4 => each 12 (fun e s => s.asDesc (doSliceQuota (recHdr 0 (le e 0 4) []) (le e 4 4) (le e 8 4)))
    | 5 => s.asDesc (doProgLoad (recHdr 0 0 p) 0)
    | 6 => match eqParse p with | some es => (stOk, s.eqApply p es) | none => bad
    | 7 => each 8 (fun e s => let r := s.portSetRun (le e 0 2) (byteAt e 2) (byteAt e 3) (byteAt e 4) (le e 5 3) false none; (r.1, r.2.2.2))
    | 8 => each 96 (applyTbl arg)
    | 9 => each 40 applyFdb
    | 10 => each 8 (fun e s => if zeroAt e 5 3 then s.asDesc (doVniMapWrite (recHdr 0 (byteAt e 4) []) (le e 0 4)) else (stParam, s))
    | 11 => each 40 applyPol
    | _ => bad

/-- Once the TBL records are applied, every slice that received any is committed in both halves (R364). -/
def State.commitTbl (s : State) : State :=
  let s1 := s.boot.tblSlices.foldl (fun (s : State) sl => (s.commitEdge .E sl).commitEdge .W sl) s
  { s1 with boot := { s1.boot with tblSlices := [] } }

/-- The blocks that an image may have written: those that its records always change, and those that its REG records name. -/
def State.imageBlks (s : State) : List Nat := [4, 5, 6, 7, 9, 20] ++ s.boot.store0.map (fun e => e.typ)

/-- A field keeps its value when an image fails: fields of blocks that the image has not written; of the SYS_, TIM_, CLV_, TRB_, GLB_ and RAS_ blocks, the RO fields, which report the device and not the image; the patch registers do not (R365, log entry 34). -/
def imageKeeps (blks : List Nat) (f : Fld) : Bool :=
  let r := f.info.reg
  let blk := r.info.blk
  if r = .CLV_PATCH_CTL ∨ r = .CLV_PAGES ∨ r = .CLV_MATCH ∨ f = .CLV_ENG_STAT_tag then false
  else if !blks.contains blk then true
  else [1, 10, 16, 19, 21, 22].contains blk && f.info.acc = .RO

/-- The fields that return to their reset values, by number. -/
def imageFields (blks : List Nat) : List Nat := ((List.range 23).flatMap regsOf).flatMap (fun r => (r.fields.filter (fun f => !imageKeeps blks f)).map Fld.ctorIdx)

/-- An image fails at APPLY: every block it has written, of HST_ the instances that it names, returns to the values of R10 and the patch pages are freed; the other slot is tried (R365). -/
def State.imageFail (s : State) (c t i : Nat) : State :=
  let blks := s.imageBlks
  let drop := imageFields blks
  let named (fn : Nat) : Bool := s.boot.store0.any (fun e => e.typ = 18 && e.inst = fn)
  let keep {α : Type} (m : SMap α) : SMap α := m.filter (fun e => !named (e.1.headD 0))
  let other (f i : Nat) : Bool := hstFields.contains f && !named i
  let r := State.reset
  let tim := blks.contains 10
  let s := { s with
    regs := s.regs.filter (fun e => match e.1 with | f :: i :: _ => !drop.contains f || other f i | _ => true)
    progA := r.progA
    progB := r.progB
    tables := r.tables
    fdb := { r.fdb with nowTick := s.fdb.nowTick, tickDue := s.fdb.tickDue }
    buf := r.buf
    sched := { r.sched with refE := s.sched.refE, refW := s.sched.refW }
    timed := r.timed
    lanes := r.lanes
    clove := { s.clove with patch := [], digest0 := 0, digest1 := 0, arm := none }
    time := if tim then { s.time with pendCfg := [], pendStep := none, incE := r.time.incE, incW := r.time.incW, tioPin := [], tioHigh := [] } else s.time
    host := { s.host with swCnt := keep s.host.swCnt, stopped := keep s.host.stopped, lack := keep s.host.lack }
    ras := { s.ras with mirrorQ := [], held := [] }
    boot := { s.boot with store0 := [], cur := none, recs := [], tblSlices := [] } }
  ((s.setRes c 6).sts [(.SYS_BOOT_STAT_fail_type, [0], t), (.SYS_BOOT_STAT_fail_index, [0], i), (.SYS_BOOT_STAT_phase, [0], 2)]).nextSlot

/-- RECORD_APPLY: the next record of the accepted image, once the patch of an earlier one is armed (R310, R364, R365). -/
def doRecordApply (s : State) : State :=
  if s.arming then s
  else match s.boot.cur, s.boot.recs with
  | some c, (t, i, p, arg) :: rest =>
    let (st, s) := s.applyRec t p arg
    if st ≠ stOk then s.imageFail c t i
    else
      let s := { s with boot := { s.boot with recs := rest } }
      if t = 8 ∧ ¬ rest.any (fun r => r.1 = 8) then s.commitTbl else s
  | _, _ => s

def execRecordApply (s : State) : Host.Outcome State Fault Refusal := done (doRecordApply s)

/-- FORWARDING_START: every record is applied; the configured ports are enabled and forwarding begins in Autonomous mode (R356, R366, R388); `ms` counts from the last supply valid, 2 ms before the resets were released (R355). A BOOT_RETRY ends as an approved service (R381). -/
def doForwardingStart (ms : Nat) (s : State) : State :=
  match s.boot.cur with
  | none => s
  | some c =>
    if ¬ s.boot.recs.isEmpty ∨ s.arming then s
    else
      let s := s.runTo (s.pkg.allValidAt + ms * 1000000 - 2000000)
      let d := s.boot.retry
      let s := { s with boot := { s.boot with cur := none, cand := [], retry := none } }
      let s := s.sts [(.SYS_BOOT_STAT_phase, [0], 4), (.SYS_BOOT_STAT_slot, [0], c), (.SYS_BOOT_STAT_fwd_ms, [0], min ms 65535),
        (.TRB_SLOT_booted, [0, c], 1), (.TRB_SLOT_booted, [0, 1 - c], 0)]
      let s := (s.lanes.ports.map (fun e => e.1.headD 0)).foldl (fun (s : State) p => s.portEnter p) s
      let s := s.setMode 2 2 (s.rd .SYS_MODE_maint_op [0])
      match d with | some d => s.ok d (approvedBit + c) | none => s

def execForwardingStart (ms : Nat) (s : State) : Host.Outcome State Fault Refusal := done (doForwardingStart ms s)

/-- BOOT_RETRY: slot selection runs again, with the self-tests where they have not passed (R368). -/
def doBootRetry (d : Hdr) (s : State) : State :=
  s.serve d ⟨0x81, .retry, false, false, 0⟩ true (cleanHdr d false false false) fun s =>
    if s.boot.writing.isSome ∨ s.boot.retry.isSome then s.reject d 0x60
    else
      let s := if s.on .TRB_STAT_approved [0] then s
        else ({ s with boot := { s.boot with selfDone := false } }).st .TRB_STAT_testing [0] 1
      ({ s with boot := { s.boot with retry := some d } }).readHeads

def execBootRetry (d : Hdr) (s : State) : Host.Outcome State Fault Refusal := doneDesc (.bootRetry (bareHdr d)) d (doBootRetry d) s

/-- A slot is valid: it passed R362 at its last check. -/
def State.slotValid (s : State) (c : Nat) : Bool := s.on .TRB_SLOT_valid [0, c]

/-- The slot that IMAGE_WRITE writes: the one not booted; in Fallback the invalid one, A if both are invalid, and A where neither is (R367, log entry 35). -/
def State.writeSlot (s : State) : Nat :=
  if s.mode = 6 then (if s.slotValid 0 ∧ ¬ s.slotValid 1 then 1 else 0)
  else if s.on .TRB_SLOT_booted [0, 0] then 1 else 0

/-- IMAGE_WRITE: the image is checked, and its slot is being erased and programmed (R362, R367). A report shows the slot as it was until the write completes (R379); power lost meanwhile leaves it erased. -/
def doImageWrite (d : Hdr) (s : State) : State :=
  s.serve d ⟨0x80, .imageWrite, true, false, 0⟩ true (cleanHdr d false false true) fun s =>
    if s.boot.writing.isSome then s.reject d 0x60
    else if s.trbWaits d then s.descWait d
    else s.withBuf d fun b =>
      let (st, s) := s.objCheck b imgMagic bodyMax
      if st ≠ stOk then s.fail d st
      else if [0, 1].any (fun c => s.slotValid c && decide (objSeq b ≤ s.rd .TRB_SLOT_seq [0, c])) then s.fail d 0x22
      else
        { s with boot := { s.boot with writing := some (d, s.writeSlot, b.take (objHdr + objLen b)) } }

def execImageWrite (d : Hdr) (s : State) : Host.Outcome State Fault Refusal := doneDesc (.imageWrite (bareHdr d)) d (doImageWrite d) s

/-- IMAGE_WRITE_DONE: the new image is whole and valid, or its first sector is erased again (R367), with TRB_ERROR where the module is in ERROR and cannot verify it (R383); the service ran as an approved one (R381, log entry 35). -/
def doImageWriteDone (ok : Bool) (s : State) : State :=
  match s.boot.writing with
  | none => s
  | some (d, c, b) =>
    let s := { s with boot := { s.boot with writing := none } }
    if s.trbError then ((s.setFlash c []).slotShow c none).fail d 0x24
    else if ok then
      let s := ((s.setFlash c b).slotShow c (some (objSeq b))).bump .TRB_CNT_v [0, 1] 1
      s.completeX d stOk 0 (approvedBit + c) (some (List.replicate 16 0 ++ leBytes 8 (objSeq b)))
    else ((s.setFlash c []).slotShow c none).fail d 0x23

def execImageWriteDone (ok : Bool) (s : State) : Host.Outcome State Fault Refusal := done (doImageWriteDone ok s)

/-- The entries of a store that a commit names, in the store's order, in which they are applied (R369). -/
def cfgOrder (store es : List CfgEnt) : List CfgEnt := store.filter (fun x => es.any (fun e => x.typ = e.typ && x.inst = e.inst && x.off = e.off))

/-- A commit has not reached both its edges (R371). -/
def State.committing (s : State) : Bool := s.ras.steps.any (fun t => match t.kind with | .cfg _ => !(t.doneE && t.doneW) | _ => false)

/-- CFG_COMMIT: the other copy of the store takes the merged entries and becomes current; the entries are applied by a two-half step (R369, R370). A commit waits for those that started before it (R371). -/
def doCfgCommit (d : Hdr) (s : State) : State :=
  s.serve d ⟨0x82, .config, true, false, 0⟩ true (cleanHdr d false false true) fun s =>
    if d.hlen % 16 ≠ 0 ∨ d.hlen < 16 ∨ 65536 < d.hlen then s.fail d stParam
    else if s.committing ∨ ¬ s.turnOf d [0x82] then s.descWait d
    else s.withBuf d fun b =>
      let es := (List.range (d.hlen / 16)).map (fun i => cfgEnt (slice b (16 * i) 16))
      let new := es.foldl cfgMerge s.store
      if ¬ es.all cfgNames then s.fail d stParam
      else if 8192 < new.length then s.fail d 0x10
      else
        let seq := (s.rd .TRB_CFG_SEQ_cfg_seq [0] + 1) % 2 ^ 64
        let s := if seq % 2 = 0 then { s with boot := { s.boot with store0 := new } } else { s with boot := { s.boot with store1 := new } }
        (s.st .TRB_CFG_SEQ_cfg_seq [0] seq).request (.cfg (cfgOrder new es)) (some d) seq

def execCfgCommit (d : Hdr) (s : State) : Host.Outcome State Fault Refusal := doneDesc (.cfgCommit (bareHdr d)) d (doCfgCommit d) s

/-- CFG_READ (R371). -/
def doCfgRead (d : Hdr) (s : State) : State :=
  s.serve d ⟨0x83, .reads, false, false, 0⟩ true (cleanHdr d false false true) fun s =>
    let n := s.store.length
    if d.hlen < 16 * n then s.fail d stParam
    else s.withBuf d fun _ => (s.hostWrite d.haddr (s.store.flatMap cfgBytes)).ok d n

def execCfgRead (d : Hdr) (s : State) : Host.Outcome State Fault Refusal := doneDesc (.cfgRead (bareHdr d)) d (doCfgRead d) s

/-- The fields of a slot in a report: its `seq` and its `body_digest` (R377, R379). -/
def State.slotReport (s : State) (c : Nat) : List Byte :=
  if s.slotValid c then leBytes 8 (s.rd .TRB_SLOT_seq [0, c]) ++ padTo 48 (slice (s.flash c) 64 48) else leBytes 8 seqBad ++ List.replicate 48 0

/-- Bytes 0-4,015 of a report, captured at one edge of East (R377, R379). -/
def State.report (s : State) (nonce : List Byte) : List Byte :=
  let t := s.time.tE
  let booted := if s.on .TRB_SLOT_booted [0, 0] then 0 else if s.on .TRB_SLOT_booted [0, 1] then 1 else 0xFF
  leBytes 4 0x5441584F ++ leBytes 2 1 ++ leBytes 2 7389 ++ padTo 32 (nonce.take 32) ++ leBytes 8 (tSec t) ++ leBytes 4 (tNs t) ++ leBytes 2 0x00B1
    ++ [byteOf s.mode, byteOf (s.rd .TRB_STAT_approved [0] + 2 * s.rd .TRB_STAT_owner_enrolled [0] + 4 * s.rd .TRB_STAT_vendor_img_off [0])]
    ++ leBytes 4 (s.rd .TRB_ROM_VER_rom_ver [0]) ++ leBytes 4 0
    ++ leBytes 48 (if s.patchSet .E = 0 then s.clove.digest0 else s.clove.digest1)
    ++ s.slotReport 0 ++ s.slotReport 1 ++ padTo 8 [byteOf booted]
    ++ leBytes 8 (s.rd .TRB_CFG_SEQ_cfg_seq [0]) ++ sha384 (s.store.flatMap cfgBytes)
    ++ leBytes 48 (s.rd .MAT_PROG_DIGEST_v [32, 0]) ++ leBytes 48 (s.rd .MAT_PROG_DIGEST_v [32, 1]) ++ padTo 8 [byteOf (s.activeOf .E)]
    ++ (List.range 64).flatMap (fun sl => padTo 8 (leBytes 2 (s.rd .SLC_GEN_cur_gen [0, sl])) ++ leBytes 48 (s.sliceDigest .E sl))
    ++ List.replicate 40 0

/-- ATTEST (R377, R381, R384). The random bits of the hedged signature come from samples that the continuous entropy test watches (R382, R383). -/
def doAttest (d : Hdr) (nonce : List Byte) (s : State) : State :=
  s.serve d ⟨0x84, .reads, false, false, 0⟩ true (cleanHdr d false false true) fun s =>
    if d.hlen < 7392 then s.fail d stParam
    else if s.trbWaits d then s.descWait d
    else if s.trbError then s.fail d 0x24
    else if Config.entropyFails s.fresh then (({ s with fresh := s.fresh + 1 }).trbFail 4 0).fail d 0x24
    else s.withBuf d fun _ =>
      let m := s.report nonce
      let (u, s) := s.draw
      let s := s.hostWrite d.haddr (m ++ padTo 64 ((Config.ed25519Sign m).take 64) ++ padTo 3312 ((Config.mldsaSign u m).take 3309))
      (s.bump .TRB_CNT_v [0, 3] 1).ok d approvedBit

def execAttest (d : Hdr) (nonce : List Byte) (s : State) : Host.Outcome State Fault Refusal := doneDesc (.attest (bareHdr d) nonce) d (doAttest d nonce) s

/-- ID_CERT_READ (R376, R384). -/
def doIdCertRead (d : Hdr) (alg : Nat) (s : State) : State :=
  s.serve d ⟨0x85, .reads, false, false, 0⟩ true (cleanHdr d false false true) fun s =>
    let b := Config.certChain alg
    if 1 < alg ∨ d.hlen < b.length then s.fail d stParam
    else if s.trbWaits d then s.descWait d
    else if s.trbError then s.fail d 0x24
    else s.withBuf d fun _ => (s.hostWrite d.haddr b).ok d (approvedBit + b.length)

def execIdCertRead (d : Hdr) (alg : Nat) (s : State) : Host.Outcome State Fault Refusal := doneDesc (.idCertRead (bareHdr d) alg) d (doIdCertRead d alg) s

/-- OWNER_ENROLL (R375, R384). What the fuses hold after a failed read-back is open. -/
def doOwnerEnroll (d : Hdr) (off fuseOk : Bool) (s : State) : State :=
  s.serve d ⟨0x86, .enroll, true, false, 0⟩ true (cleanHdr d false false true) fun s =>
    if s.on .TRB_STAT_owner_enrolled [0] then s.reject d 0x61
    else if d.hlen < 1984 then s.fail d stParam
    else if s.trbWaits d then s.descWait d
    else if s.trbError then s.fail d 0x24
    else s.withBuf d fun b =>
      if fuseOk then
        (s.sts [(.TRB_OWNER_DIGEST_v, [0], digestNat (sha384 (slice b 0 1984))), (.TRB_STAT_owner_enrolled, [0], 1),
          (.TRB_STAT_vendor_img_off, [0], b2n off)]).ok d approvedBit
      else
        let (u, s) := s.draw
        let (v, s) := s.draw
        (s.sts [(.TRB_OWNER_DIGEST_v, [0], u % 2 * v), (.TRB_STAT_owner_enrolled, [0], u), (.TRB_STAT_vendor_img_off, [0], u / 2)]).fail d 0x23

def execOwnerEnroll (d : Hdr) (off fuseOk : Bool) (s : State) : Host.Outcome State Fault Refusal := doneDesc (.ownerEnroll (bareHdr d) off false) d (doOwnerEnroll d off fuseOk) s

/-- TRB_SELFTEST: every test runs again, and the module leaves ERROR only if all pass (R382, R383). -/
def doTrbSelftest (d : Hdr) (fail alg : Nat) (s : State) : State :=
  s.serve d ⟨0x87, .reads, false, false, 0⟩ true (cleanHdr d false false false) fun s =>
    if s.trbWaits d then s.descWait d
    else
      let s := s.testsEnd (min fail 4) alg
      if fail = 0 then s.ok d approvedBit else s.fail d 0x24

def execTrbSelftest (d : Hdr) (fail alg : Nat) (s : State) : Host.Outcome State Fault Refusal := doneDesc (.trbSelftest (bareHdr d) 0 0) d (doTrbSelftest d fail alg) s

end Sys2Proof.Machine
end

