-- ==== Sys2Proof/Machine/Package.lean ====
section
/-!
DEFINITION. Supplies and reset (R355, R448, R453-R456), adaptive voltage (R452), thermal alarms (R457, R458), the sideband interface (R470, R471) and JTAG (R472).
-/

namespace Sys2Proof.Machine

/-- All rails of R448 valid. -/
def allRails : Nat := 0x1FF

/-- Fields that outlive the loss of a rail: the fuses, and the thermal alarms unless their own rails fail (R454, R455). -/
def powerKeeps (rail : Nat) (f : Fld) : Bool :=
  match f with
  | .TRB_OWNER_DIGEST_v | .TRB_STAT_owner_enrolled | .TRB_STAT_vendor_img_off => true
  | .SYS_THERM_warn | .SYS_THERM_crit | .SYS_THERM_sens_fault | .SYS_THERM_t_max | .SYS_THERM_t_east | .SYS_THERM_t_west => rail ≠ 7 && rail ≠ 8
  | _ => false

/-- The numbers of the fields kept. -/
def powerFields (rail : Nat) : List Nat := (([Reg.TRB_OWNER_DIGEST, .TRB_STAT, .SYS_THERM].flatMap Reg.fields).filter (powerKeeps rail)).map Fld.ctorIdx

/-- The device held in reset: every state outside the flash and the fuses at its reset value (R10, R355, R454), the thermal alarms, and the time for which the temperature has been critical, kept while their own rails are valid (R455, R458). The queue, host memory and the pins driven from outside are not the device's. -/
def State.held (s : State) (rail : Nat) : State :=
  let keep := powerFields rail
  let warm := rail ≠ 7 && rail ≠ 8
  let r := State.reset
  { r with
    pending := s.pending
    fresh := s.fresh
    nextId := s.nextId
    regs := s.regs.filter (fun e => match e.1 with | f :: _ => keep.contains f | [] => false)
    host := { r.host with mem := s.host.mem }
    boot := { r.boot with flashA := s.boot.flashA, flashB := s.boot.flashB }
    pkg := { r.pkg with
      valid := s.pkg.valid
      perstLow := s.pkg.perstLow
      therm := s.pkg.therm && warm
      hotSince := if warm then s.pkg.hotSince.map (fun _ => 0) else none
      hotHeld := match s.pkg.hotSince with
        | some t => if warm then s.pkg.hotHeld + (s.elapsed - t) else 0
        | none => 0
      hot := s.pkg.hot && warm
      burnt := s.pkg.burnt && warm } }

/-- SUPPLY_VALID: every rail has been valid for 2 ms, for which the device has held itself in reset; it releases its resets, and the boot ROM and the time base start from their reset values (R355, R177). -/
def doSupplyValid (s : State) : State :=
  if s.pkg.valid = allRails then s
  else
    let s := s.held 0
    { s with pkg := { s.pkg with valid := allRails, allValidAt := 0 } }

def execSupplyValid (s : State) : Host.Outcome State Fault Refusal := done (doSupplyValid s)

/-- SUPPLY_INVALID: the device enters reset and loses all state outside the flash and the fuses; a slot being written is left erased (R358, R367, R454). -/
def doSupplyInvalid (rail : Nat) (s : State) : State :=
  if 9 ≤ rail then s
  else
    let s := match s.boot.writing with | some (_, c, _) => s.setFlash c [] | none => s
    let s := s.held rail
    { s with pkg := { s.pkg with valid := s.pkg.valid - (s.pkg.valid &&& 2 ^ rail) } }

def execSupplyInvalid (rail : Nat) (s : State) : Host.Outcome State Fault Refusal := done (doSupplyInvalid rail s)

/-- RAIL_BELOW_RANGE: a rail that is still valid falls below its operating range (R471, `SYS_SUPPLY`). -/
def doRailBelowRange (rail : Nat) (s : State) : State :=
  if 9 ≤ rail ∨ ¬ bit s.pkg.valid rail then s else s.st .SYS_SUPPLY_low [0] (s.rd .SYS_SUPPLY_low [0] ||| 2 ^ rail)

def execRailBelowRange (rail : Nat) (s : State) : Host.Outcome State Fault Refusal := done (doRailBelowRange rail s)

/-- Shows the alarms: each follows its temperature condition, and both a sensor fault (R458). -/
def State.thermShow (s : State) (fault : Bool) : State :=
  s.sts [(.SYS_THERM_warn, [0], b2n (s.pkg.hot || fault)), (.SYS_THERM_crit, [0], b2n (s.pkg.burnt || fault)), (.SYS_THERM_sens_fault, [0], b2n fault)]

/-- The sensors' rails, VDDA_18 and VDD_IO, are known to be valid (R455). -/
def State.thermOn (s : State) : Bool := s.pkg.therm || bit s.pkg.valid 7 && bit s.pkg.valid 8

/-- The sensors take a sample: where their rails were not known to be valid it shows that they have been so for 1 ms, whatever the other rails are (R455, log entry 58). -/
def State.thermWake (s : State) : State :=
  if s.thermOn then s
  else { s.runTo 1000000 with pkg := { s.pkg with therm := true } }

/-- THERM_SAMPLE: at the next 100 microseconds the hottest readings are refreshed, and the warning follows between 105.0 and 102.0 degrees (R455, R457, R458). -/
def doThermSample (east west tiles : Int) (fault : Bool) (s : State) : State :=
  let s := s.thermWake
  let s := s.runTo (nextMultiple 100000 s.elapsed)
  let top := max (max east west) tiles
  let s := s.sts [(.SYS_THERM_t_max, [0], unsigned 16 top), (.SYS_THERM_t_east, [0], unsigned 16 east), (.SYS_THERM_t_west, [0], unsigned 16 west)]
  let hot := if 1680 ≤ top then true else if top < 1632 then false else s.pkg.hot
  let since := if top < 1920 then none else match s.pkg.hotSince with | some t => some t | none => some s.elapsed
  ({ s with pkg := { s.pkg with hot := hot, hotSince := since, hotHeld := if since.isNone then 0 else s.pkg.hotHeld } }).thermShow fault

def execThermSample (east west tiles : Int) (fault : Bool) (s : State) : Host.Outcome State Fault Refusal := done (doThermSample east west tiles fault s)

/-- THERM_CRIT: the hottest reading has stayed at or above 120.0 degrees for 1 ms, of which some may lie before a restart of elapsed time (R455, R458). -/
def doThermCrit (s : State) : State :=
  match s.pkg.hotSince with
  | none => s
  | some t => let s := s.runTo (t + (1000000 - s.pkg.hotHeld)); ({ s with pkg := { s.pkg with burnt := true } }).thermShow (s.on .SYS_THERM_sens_fault [0])

def execThermCrit (s : State) : Host.Outcome State Fault Refusal := done (doThermCrit s)

/-- A half's target in mV above 600 mV: V_fuse, and 15 mV more while its die reads below 0 degrees (R452). -/
def State.avsGoal (s : State) (h : Half) : Nat :=
  let t := s.rd (match h with | .E => .SYS_THERM_t_east | .W => .SYS_THERM_t_west) [0]
  s.rd .SYS_AVS_v_fuse [0, h.n] + (if signed 16 t < 0 then 15 else 0)

/-- AVS_STEP: a half writes one 5 mV step toward its target, 20 microseconds or more after the last (R452). -/
def doAvsStep (h : Half) (s : State) : State :=
  let ix := [0, h.n]
  let goal := s.avsGoal h
  let v := s.rd .SYS_AVS_v_target ix
  if ¬ s.pkg.resetEnded ∨ s.on .SYS_AVS_avs_err ix ∨ v = goal then s
  else
    let s := match s.pkg.avsAt.get? [h.n, 0] with | some t => s.runTo (t + 20000) | none => s
    let s := { s with pkg := { s.pkg with avsAt := s.pkg.avsAt.set [h.n, 0] s.elapsed } }
    s.st .SYS_AVS_v_target ix (if v < goal then min goal (v + 5) else max goal (v - 5))

def execAvsStep (h : Half) (s : State) : Host.Outcome State Fault Refusal := done (doAvsStep h s)

/-- AVS_READBACK: at the next millisecond a half reads its voltage and current back (R452). -/
def doAvsReadback (h : Half) (mv amps : Nat) (s : State) : State :=
  if ¬ s.pkg.resetEnded then s
  else
    let s := s.runTo (nextMultiple 1000000 s.elapsed)
    let s := { s with pkg := { s.pkg with avsAt := s.pkg.avsAt.set [h.n, 1] s.elapsed } }
    s.sts [(.SYS_AVS_v_read, [0, h.n], mv), (.SYS_AVS_i_read, [0, h.n], amps)]

def execAvsReadback (h : Half) (mv amps : Nat) (s : State) : Host.Outcome State Fault Refusal := done (doAvsReadback h mv amps s)

/-- AVS_TIMEOUT: the bus has given no valid response for 10 ms, the first 10 ms counted from the end of RESET (R452). -/
def doAvsTimeout (h : Half) (s : State) : State :=
  if ¬ s.pkg.resetEnded then s
  else (s.runTo (s.pkg.avsAt.getD [h.n, 1] s.pkg.resetAt + 10000000)).st .SYS_AVS_avs_err [0, h.n] 1

def execAvsTimeout (h : Half) (s : State) : Host.Outcome State Fault Refusal := done (doAvsTimeout h s)

/-- One byte of the CRC-8 of an SMBus packet error code (PRESUMED: log entry 59). -/
def pecStep (r : Nat) (b : Byte) : Nat :=
  (List.range 8).foldl (fun r _ => if 128 ≤ r then (2 * r ^^^ 0x107) % 256 else 2 * r % 256) (r ^^^ b.toNat)

/-- The SMBus packet error code of the bytes of a transfer (R470, log entry 59). -/
def pecOf (bs : List Byte) : Nat := bs.foldl pecStep 0

/-- The sideband address on the bus: the 7-bit address 0x60 + SBA, and the direction bit (R467). -/
def State.sbAddr (s : State) (read : Bool) : Byte := byteOf (2 * (0x60 + s.rd .SYS_STRAP_sba [0]) + b2n read)

/-- The power of the core rails from their read-back, in W (R470). -/
def State.corePower (s : State) : Nat :=
  (s.rd .SYS_AVS_v_read [0, 0] * s.rd .SYS_AVS_i_read [0, 0] + s.rd .SYS_AVS_v_read [0, 1] * s.rd .SYS_AVS_i_read [0, 1]) / 1000

/-- The data of a command code, and whether the protocol is a block read, which sends the byte count first; none for a code that R470 does not list. The power of the rails beside the core rails is what the device models, which the manual does not give. -/
def State.sbData (s : State) (code : Nat) : Option (Bool × List Byte) :=
  match code with
  | 0 => some (false, [1])
  | 1 => some (true, leBytes 6 (s.regVal .SYS_ID [0]))
  | 2 => some (false, [byteOf s.mode])
  | 3 => some (true, leBytes 8 (s.regVal .SYS_BOOT_STAT [0]))
  | 4 => some (false, leBytes 2 (s.rd .SYS_THERM_t_max [0]))
  | 5 => some (false, [byteOf s.alarm])
  | 6 => some (false, leBytes 2 (s.rd .SYS_SUPPLY_low [0]))
  | 7 => some (false, leBytes 2 (s.corePower + Config.otherRailPower s.fresh))
  | _ => none

/-- Keeps the data of an answer and the PEC byte that follows them for a host that reads one byte more (R470). -/
def State.sbKeep (s : State) (bs : List Byte) (pec : Nat) : State := { s with pkg := { s.pkg with sideband := bs, pec := pec } }

/-- A read command of the sideband interface: the data and the PEC that follows them, or nothing where it does not acknowledge: a code that is not listed, or any before RESET ends (R455, R470). -/
def State.sideband (s : State) (code : Nat) : State :=
  match (if s.pkg.resetEnded then s.sbData code else none) with
  | some (block, bs) =>
    s.sbKeep bs (pecOf ([s.sbAddr false, byteOf code, s.sbAddr true] ++ (if block then [byteOf bs.length] else []) ++ bs))
  | none => s.sbKeep [] 0

/-- CAPS (R470). -/
def doCaps (s : State) : State := s.sideband 0

def execCaps (s : State) : Host.Outcome State Fault Refusal := done (doCaps s)

/-- IDENT (R470). -/
def doIdent (s : State) : State := s.sideband 1

def execIdent (s : State) : Host.Outcome State Fault Refusal := done (doIdent s)

/-- MODE (R470). -/
def doMode (s : State) : State := s.sideband 2

def execMode (s : State) : Host.Outcome State Fault Refusal := done (doMode s)

/-- BOOT (R470). -/
def doBoot (s : State) : State := s.sideband 3

def execBoot (s : State) : Host.Outcome State Fault Refusal := done (doBoot s)

/-- TEMP (R470). -/
def doTemp (s : State) : State := s.sideband 4

def execTemp (s : State) : Host.Outcome State Fault Refusal := done (doTemp s)

/-- ALARM (R470). -/
def doAlarm (s : State) : State := s.sideband 5

def execAlarm (s : State) : Host.Outcome State Fault Refusal := done (doAlarm s)

/-- SUPPLY (R470). -/
def doSupply (s : State) : State := s.sideband 6

def execSupply (s : State) : Host.Outcome State Fault Refusal := done (doSupply s)

/-- POWER: the core rails as read back, the others as the device models them, which the manual does not give (R470). -/
def doPower (s : State) : State := { s.sideband 7 with fresh := s.fresh + 1 }

def execPower (s : State) : Host.Outcome State Fault Refusal := done (doPower s)

/-- ALERT_RESPONSE: the device that holds SMB_ALERT_N low returns its 7-bit address and releases the pin (R471); the PEC is that of the alert response address 0x0C (log entry 59). -/
def doAlertResponse (s : State) : State :=
  if s.pkg.alertN ∨ ¬ s.pkg.resetEnded then s.sbKeep [] 0
  else
    let b := byteOf (0x60 + s.rd .SYS_STRAP_sba [0])
    let s := s.sbKeep [b] (pecOf [0x19, b])
    { s with pkg := { s.pkg with alarmAck := s.alarm } }

def execAlertResponse (s : State) : Host.Outcome State Fault Refusal := done (doAlertResponse s)

/-- The JTAG instructions as the state numbers them (log entry 36). -/
def irIdcode : Nat := 0
def irBypass : Nat := 1
def irSample : Nat := 2
def irExtest : Nat := 3
def irPulse : Nat := 4
def irTrain : Nat := 5
def irHighz : Nat := 6
def irClamp : Nat := 7

/-- The IDCODE of R472. -/
def idcodeValue : Nat := 0x1920456B

/-- Selects an instruction and what its register captures at TDO; until RESET ends TDO is at high impedance, as every output but the alarms is (R454). -/
def State.tap (s : State) (ir tdo : Nat) : State :=
  { s with pkg := { s.pkg with ir := ir, tdo := if s.pkg.resetEnded then some tdo else none } }

/-- Selects a boundary instruction, which acts as BYPASS outside Test mode (R472). The manual gives no boundary register, so what it captures is free. -/
def State.boundary (s : State) (ir : Nat) : State :=
  if s.mode ≠ 1 then s.tap irBypass 0 else let (v, s) := s.draw; s.tap ir v

/-- BYPASS (R472). -/
def doBypass (s : State) : State := s.tap irBypass 0

def execBypass (s : State) : Host.Outcome State Fault Refusal := done (doBypass s)

/-- IDCODE (R472). -/
def doIdcode (s : State) : State := s.tap irIdcode idcodeValue

def execIdcode (s : State) : Host.Outcome State Fault Refusal := done (doIdcode s)

/-- SAMPLE/PRELOAD (R472), in every mode: the pins are captured, and the contents that the host shifts in, a free value, are latched in the boundary register, which the outputs show once EXTEST or CLAMP is selected. -/
def doSamplePreload (s : State) : State :=
  let (v, s) := s.draw
  let (b, s) := s.draw
  { s.tap irSample v with pkg := { (s.tap irSample v).pkg with bsr := b } }

def execSamplePreload (s : State) : Host.Outcome State Fault Refusal := done (doSamplePreload s)

/-- EXTEST: in Test mode the outputs show the boundary register (R472). -/
def doExtest (s : State) : State := s.boundary irExtest

def execExtest (s : State) : Host.Outcome State Fault Refusal := done (doExtest s)

/-- EXTEST_PULSE (R472). -/
def doExtestPulse (s : State) : State := s.boundary irPulse

def execExtestPulse (s : State) : Host.Outcome State Fault Refusal := done (doExtestPulse s)

/-- EXTEST_TRAIN (R472). -/
def doExtestTrain (s : State) : State := s.boundary irTrain

def execExtestTrain (s : State) : Host.Outcome State Fault Refusal := done (doExtestTrain s)

/-- HIGHZ selects the bypass register and, in Test mode, floats the outputs (R472). -/
def doHighz (s : State) : State := if s.mode ≠ 1 then s.tap irBypass 0 else s.tap irHighz 0

def execHighz (s : State) : Host.Outcome State Fault Refusal := done (doHighz s)

/-- CLAMP selects the bypass register and, in Test mode, holds the outputs (R472). -/
def doClamp (s : State) : State := if s.mode ≠ 1 then s.tap irBypass 0 else s.tap irClamp 0

def execClamp (s : State) : Host.Outcome State Fault Refusal := done (doClamp s)

/-- TRST_N low holds the TAP in reset, where IDCODE is selected and TDO is at high impedance; it is high again by the next instruction, which needs it so (R472, log entry 36). -/
def doTapReset (s : State) : State := { s with pkg := { s.pkg with ir := irIdcode, tdo := none } }

def execTapReset (s : State) : Host.Outcome State Fault Refusal := done (doTapReset s)

/-- The outputs of the device that its own rules drive (R454, R468). -/
inductive OutPin where
  | ready
  | thermWarnN
  | thermCritN
  | smbAlertN
  | ospiRstN
  | tio (n : Nat)
  | tdo
deriving DecidableEq, Repr

/-- The place of an output in the boundary register, for the opaque contents of its cells (R472). -/
def OutPin.cell : OutPin → Nat
  | .ready => 0
  | .thermWarnN => 1
  | .thermCritN => 2
  | .smbAlertN => 3
  | .ospiRstN => 4
  | .tio n => 5 + n
  | .tdo => 13

/-- The level of an output as the device drives it, none at high impedance; an open-drain output that is released is at high impedance (R454, R456, R458, R468, R471). -/
def State.driven (s : State) (p : OutPin) : Option Bool :=
  let low (released : Bool) : Option Bool := if released then none else some false
  let up := s.pkg.resetEnded
  match p with
  | .ready => some s.pkg.ready
  | .thermWarnN => low s.pkg.warnN
  | .thermCritN => low s.pkg.critN
  | .smbAlertN => low s.pkg.alertN
  | .ospiRstN => some up
  | .tio n => if up && s.rd .TIM_TIO_CFG_mode [0, n] = 2 then some (s.time.tioPin.getD [n] false) else none
  | .tdo => s.pkg.tdo.map (fun v => v % 2 = 1)

/-- The level of an output: in Test mode HIGHZ floats every one but TDO, and EXTEST, EXTEST_PULSE, EXTEST_TRAIN and CLAMP hold them at what the boundary register holds (R472). -/
def State.pin (s : State) (p : OutPin) : Option Bool :=
  if s.mode ≠ 1 ∨ p = .tdo then s.driven p
  else if s.pkg.ir = irHighz then none
  else if s.pkg.ir ∈ [irExtest, irPulse, irTrain, irClamp] then some (Config.boundaryCell s.pkg.bsr p.cell)
  else s.driven p

end Sys2Proof.Machine
end

