-- ==== Sys2Proof/Machine/Dispatch.lean ====
section
/-!
DEFINITION. One arm per command: exec gives each command its meaning, everything but the queue being the state it acts on.
-/

namespace Sys2Proof.Machine

/-- What command `i` does to the device, by the rules of its row. -/
def exec (i : Instr) (s : State) : Host.Outcome State Fault Refusal :=
  match i with
  | .nop d => Sys2Proof.Machine.execNop d s
  | .tblWrite d kind tableId index => Sys2Proof.Machine.execTblWrite d kind tableId index s
  | .tblRead d tableId index key => Sys2Proof.Machine.execTblRead d tableId index key s
  | .sliceCommit d => Sys2Proof.Machine.execSliceCommit d s
  | .sliceAbort d => Sys2Proof.Machine.execSliceAbort d s
  | .sliceQuota d em tcam => Sys2Proof.Machine.execSliceQuota d em tcam s
  | .vniMapWrite d vni => Sys2Proof.Machine.execVniMapWrite d vni s
  | .vniMapDelete d vni => Sys2Proof.Machine.execVniMapDelete d vni s
  | .progLoad d copy => Sys2Proof.Machine.execProgLoad d copy s
  | .progSwap d => Sys2Proof.Machine.execProgSwap d s
  | .progDrainLimit => Sys2Proof.Machine.execProgDrainLimit s
  | .progSwapDrained => Sys2Proof.Machine.execProgSwapDrained s
  | .fdbInsert d key port static replace adata => Sys2Proof.Machine.execFdbInsert d key port static replace adata s
  | .fdbDelete d key => Sys2Proof.Machine.execFdbDelete d key s
  | .fdbRead d mode key idx => Sys2Proof.Machine.execFdbRead d mode key idx s
  | .lock d bucket => Sys2Proof.Machine.execLock d bucket s
  | .unlock d bucket => Sys2Proof.Machine.execUnlock d bucket s
  | .fdbWayWrite d bucket way => Sys2Proof.Machine.execFdbWayWrite d bucket way s
  | .fdbUnfreeze d key => Sys2Proof.Machine.execFdbUnfreeze d key s
  | .fdbFlush d bySlice byPort byScope inclStatic scope port => Sys2Proof.Machine.execFdbFlush d bySlice byPort byScope inclStatic scope port s
  | .bufPartSet d sizes => Sys2Proof.Machine.execBufPartSet d sizes s
  | .portFlush d port => Sys2Proof.Machine.execPortFlush d port s
  | .policerSet d n cir pir cbs pbs aware redDrop en owner => Sys2Proof.Machine.execPolicerSet d n cir pir cbs pbs aware redDrop en owner s
  | .gateLoad d port entries bsec bns cycle => Sys2Proof.Machine.execGateLoad d port entries bsec bns cycle s
  | .epochLoad d sec ns epLen slots openGuard closeGuard => Sys2Proof.Machine.execEpochLoad d sec ns epLen slots openGuard closeGuard s
  | .epochStop d => Sys2Proof.Machine.execEpochStop d s
  | .toaGroupOpen d => Sys2Proof.Machine.execToaGroupOpen d s
  | .toaGroupClose d group => Sys2Proof.Machine.execToaGroupClose d group s
  | .toaMemberSet d group member => Sys2Proof.Machine.execToaMemberSet d group member s
  | .toaGroupRead d group => Sys2Proof.Machine.execToaGroupRead d group s
  | .cntSnap d mask => Sys2Proof.Machine.execCntSnap d mask s
  | .patchLoad d => Sys2Proof.Machine.execPatchLoad d s
  | .patchArm d mode => Sys2Proof.Machine.execPatchArm d mode s
  | .patchArmDrained => Sys2Proof.Machine.execPatchArmDrained s
  | .hamRead d addr count => Sys2Proof.Machine.execHamRead d addr count s
  | .hamWrite d addr count als => Sys2Proof.Machine.execHamWrite d addr count als s
  | .imageWrite d => Sys2Proof.Machine.execImageWrite d s
  | .imageWriteDone ok => Sys2Proof.Machine.execImageWriteDone ok s
  | .bootRetry d => Sys2Proof.Machine.execBootRetry d s
  | .cfgCommit d => Sys2Proof.Machine.execCfgCommit d s
  | .cfgRead d => Sys2Proof.Machine.execCfgRead d s
  | .attest d nonce => Sys2Proof.Machine.execAttest d nonce s
  | .idCertRead d alg => Sys2Proof.Machine.execIdCertRead d alg s
  | .ownerEnroll d vendorImgOff fuseOk => Sys2Proof.Machine.execOwnerEnroll d vendorImgOff fuseOk s
  | .trbSelftest d fail alg => Sys2Proof.Machine.execTrbSelftest d fail alg s
  | .hostClaim d => Sys2Proof.Machine.execHostClaim d s
  | .bankRetire d cls inst bank => Sys2Proof.Machine.execBankRetire d cls inst bank s
  | .linkRetrain d glb link => Sys2Proof.Machine.execLinkRetrain d glb link s
  | .eccInject d cls inst bank row kind => Sys2Proof.Machine.execEccInject d cls inst bank row kind s
  | .portSet d firstLane width rate pflags rsvd => Sys2Proof.Machine.execPortSet d firstLane width rate pflags rsvd s
  | .laneEqSet d restart => Sys2Proof.Machine.execLaneEqSet d restart s
  | .laneTest d first lanes loop pattern check => Sys2Proof.Machine.execLaneTest d first lanes loop pattern check s
  | .portRestart d port => Sys2Proof.Machine.execPortRestart d port s
  | .portRead d => Sys2Proof.Machine.execPortRead d s
  | .eqRead d => Sys2Proof.Machine.execEqRead d s
  | .doorbell fn ring count => Sys2Proof.Machine.execDoorbell fn ring count s
  | .descriptorFetch fn ring bytes => Sys2Proof.Machine.execDescriptorFetch fn ring bytes s
  | .descriptorStart fn ring cnt => Sys2Proof.Machine.execDescriptorStart fn ring cnt s
  | .ringCfgWrite fn ring value => Sys2Proof.Machine.execRingCfgWrite fn ring value s
  | .txEntry fn ring entry frame => Sys2Proof.Machine.execTxEntry fn ring entry frame s
  | .rxDelivery k bufs => Sys2Proof.Machine.execRxDelivery k bufs s
  | .ringStalled v ring => Sys2Proof.Machine.execRingStalled v ring s
  | .msixHoldoffEnd fn vec => Sys2Proof.Machine.execMsixHoldoffEnd fn vec s
  | .flr v => Sys2Proof.Machine.execFlr v s
  | .hotReset => Sys2Proof.Machine.execHotReset s
  | .perstN low => Sys2Proof.Machine.execPerstN low s
  | .configRequest fn off write => Sys2Proof.Machine.execConfigRequest fn off write s
  | .frameReceive port bytes uncorr bitPos => Sys2Proof.Machine.execFrameReceive port bytes uncorr bitPos s
  | .codewordDecode port sym uncorr inner => Sys2Proof.Machine.execCodewordDecode port sym uncorr inner s
  | .hiSer port => Sys2Proof.Machine.execHiSer port s
  | .parse pipe => Sys2Proof.Machine.execParse pipe s
  | .stagePass frame => Sys2Proof.Machine.execStagePass frame s
  | .hitNotice h => Sys2Proof.Machine.execHitNotice h s
  | .hitStampSkip h => Sys2Proof.Machine.execHitStampSkip h s
  | .regMissed frame => Sys2Proof.Machine.execRegMissed frame s
  | .tmFrontEnd frame => Sys2Proof.Machine.execTmFrontEnd frame s
  | .pfcRefresh port pg => Sys2Proof.Machine.execPfcRefresh port pg s
  | .pfcStorm port pg => Sys2Proof.Machine.execPfcStorm port pg s
  | .admissionDecision h => Sys2Proof.Machine.execAdmissionDecision h s
  | .admissionGrant h => Sys2Proof.Machine.execAdmissionGrant h s
  | .pgReleaseNotice h => Sys2Proof.Machine.execPgReleaseNotice h s
  | .refcntRelease h => Sys2Proof.Machine.execRefcntRelease h s
  | .bridgeCellArrival copy => Sys2Proof.Machine.execBridgeCellArrival copy s
  | .enqueue copy => Sys2Proof.Machine.execEnqueue copy s
  | .schedulerSelect port => Sys2Proof.Machine.execSchedulerSelect port s
  | .launchTest port => Sys2Proof.Machine.execLaunchTest port s
  | .refill h => Sys2Proof.Machine.execRefill h s
  | .pfcRx port vec times => Sys2Proof.Machine.execPfcRx port vec times s
  | .pauseTimerExpiry port prio => Sys2Proof.Machine.execPauseTimerExpiry port prio s
  | .deparse copy => Sys2Proof.Machine.execDeparse copy s
  | .transmit copy bitPos => Sys2Proof.Machine.execTransmit copy bitPos s
  | .txtsEntry h => Sys2Proof.Machine.execTxtsEntry h s
  | .txtsPop h => Sys2Proof.Machine.execTxtsPop h s
  | .tioEdge pin rising => Sys2Proof.Machine.execTioEdge pin rising s
  | .tioCapPop pin => Sys2Proof.Machine.execTioCapPop pin s
  | .tioOutputEdge pin => Sys2Proof.Machine.execTioOutputEdge pin s
  | .timeApplyEdge => Sys2Proof.Machine.execTimeApplyEdge s
  | .timIncWrite value => Sys2Proof.Machine.execTimIncWrite value s
  | .stepGo => Sys2Proof.Machine.execStepGo s
  | .gmSet => Sys2Proof.Machine.execGmSet s
  | .holdoverExit => Sys2Proof.Machine.execHoldoverExit s
  | .timCfgWrite value => Sys2Proof.Machine.execTimCfgWrite value s
  | .watchdogExpiry => Sys2Proof.Machine.execWatchdogExpiry s
  | .timeRefLost => Sys2Proof.Machine.execTimeRefLost s
  | .timeRead elapsed => Sys2Proof.Machine.execTimeRead elapsed s
  | .nowTickAdvance => Sys2Proof.Machine.execNowTickAdvance s
  | .learnEventEnqueue h => Sys2Proof.Machine.execLearnEventEnqueue h s
  | .learnApply h => Sys2Proof.Machine.execLearnApply h s
  | .fdbRemoteWrite h => Sys2Proof.Machine.execFdbRemoteWrite h s
  | .fdbWriteAck h => Sys2Proof.Machine.execFdbWriteAck h s
  | .agerVisit bucket => Sys2Proof.Machine.execAgerVisit bucket s
  | .lockLeaseExpiry bucket => Sys2Proof.Machine.execLockLeaseExpiry bucket s
  | .lockRetry fn ring cnt => Sys2Proof.Machine.execLockRetry fn ring cnt s
  | .fdbResyncDone h => Sys2Proof.Machine.execFdbResyncDone h s
  | .genRetire slice => Sys2Proof.Machine.execGenRetire slice s
  | .portAcquired port => Sys2Proof.Machine.execPortAcquired port s
  | .portAligned port => Sys2Proof.Machine.execPortAligned port s
  | .portLinkLoss port cause => Sys2Proof.Machine.execPortLinkLoss port cause s
  | .debounceExpiry port => Sys2Proof.Machine.execDebounceExpiry port s
  | .flushFenceRetire port => Sys2Proof.Machine.execFlushFenceRetire port s
  | .gateListStart port => Sys2Proof.Machine.execGateListStart port s
  | .epochBoundary => Sys2Proof.Machine.execEpochBoundary s
  | .epochGridStart => Sys2Proof.Machine.execEpochGridStart s
  | .epochGridSwap => Sys2Proof.Machine.execEpochGridSwap s
  | .epochPurge h => Sys2Proof.Machine.execEpochPurge h s
  | .toaData unit => Sys2Proof.Machine.execToaData unit s
  | .toaAck unit => Sys2Proof.Machine.execToaAck unit s
  | .toaResultEmit unit => Sys2Proof.Machine.execToaResultEmit unit s
  | .toaStallTimer group block => Sys2Proof.Machine.execToaStallTimer group block s
  | .toaRetainExpiry group block => Sys2Proof.Machine.execToaRetainExpiry group block s
  | .toaCloseDone group => Sys2Proof.Machine.execToaCloseDone group s
  | .exportFlushTimer h => Sys2Proof.Machine.execExportFlushTimer h s
  | .histWindowEdge h => Sys2Proof.Machine.execHistWindowEdge h s
  | .histAck h => Sys2Proof.Machine.execHistAck h s
  | .snapPeriodicTrigger h => Sys2Proof.Machine.execSnapPeriodicTrigger h s
  | .cntSnapReady h => Sys2Proof.Machine.execCntSnapReady h s
  | .pmcSampPop h => Sys2Proof.Machine.execPmcSampPop h s
  | .rcCounterRead blk inst off wide => Sys2Proof.Machine.execRcCounterRead blk inst off wide s
  | .cloveDispatch h e => Sys2Proof.Machine.execCloveDispatch h e s
  | .microwordExecute h e => Sys2Proof.Machine.execMicrowordExecute h e s
  | .irqLatch h e line => Sys2Proof.Machine.execIrqLatch h e line s
  | .routineTimer h e => Sys2Proof.Machine.execRoutineTimer h e s
  | .engineRestart h e => Sys2Proof.Machine.execEngineRestart h e s
  | .leaseRenewal => Sys2Proof.Machine.execLeaseRenewal s
  | .leaseRenewalRx => Sys2Proof.Machine.execLeaseRenewalRx s
  | .leaseAck => Sys2Proof.Machine.execLeaseAck s
  | .leaseLapse h => Sys2Proof.Machine.execLeaseLapse h s
  | .prepare => Sys2Proof.Machine.execPrepare s
  | .twoHalfStepEdge h => Sys2Proof.Machine.execTwoHalfStepEdge h s
  | .stepAppliedReport => Sys2Proof.Machine.execStepAppliedReport s
  | .ownerClaim h term owner => Sys2Proof.Machine.execOwnerClaim h term owner s
  | .termExchange => Sys2Proof.Machine.execTermExchange s
  | .mirroredWrite target => Sys2Proof.Machine.execMirroredWrite target s
  | .gulubLinkFail inst link => Sys2Proof.Machine.execGulubLinkFail inst link s
  | .flitCrcError inst link => Sys2Proof.Machine.execFlitCrcError inst link s
  | .bridgeLost => Sys2Proof.Machine.execBridgeLost s
  | .bridgeRestored => Sys2Proof.Machine.execBridgeRestored s
  | .autoRetrain inst => Sys2Proof.Machine.execAutoRetrain inst s
  | .linkTrainDone inst link pass wire => Sys2Proof.Machine.execLinkTrainDone inst link pass wire s
  | .linkRecentre inst link => Sys2Proof.Machine.execLinkRecentre inst link s
  | .maintQueuedStart => Sys2Proof.Machine.execMaintQueuedStart s
  | .scrub h cls inst bank row => Sys2Proof.Machine.execScrub h cls inst bank row s
  | .ueRepair h cls inst bank row => Sys2Proof.Machine.execUeRepair h cls inst bank row s
  | .audit h => Sys2Proof.Machine.execAudit h s
  | .bankCopy h => Sys2Proof.Machine.execBankCopy h s
  | .xingStuck h pair tile => Sys2Proof.Machine.execXingStuck h pair tile s
  | .xingReset h value => Sys2Proof.Machine.execXingReset h value s
  | .rasErrPop h => Sys2Proof.Machine.execRasErrPop h s
  | .fdbSeedWrite h value => Sys2Proof.Machine.execFdbSeedWrite h value s
  | .protectedCopyRegWrite which h c value => Sys2Proof.Machine.execProtectedCopyRegWrite which h c value s
  | .registerWrite fn blk inst off wide value => Sys2Proof.Machine.execRegisterWrite fn blk inst off wide value s
  | .supplyValid => Sys2Proof.Machine.execSupplyValid s
  | .supplyInvalid rail => Sys2Proof.Machine.execSupplyInvalid rail s
  | .railBelowRange rail => Sys2Proof.Machine.execRailBelowRange rail s
  | .resetEnd tmode fsafe sba bridgeLinks => Sys2Proof.Machine.execResetEnd tmode fsafe sba bridgeLinks s
  | .selftestDone fail alg => Sys2Proof.Machine.execSelftestDone fail alg s
  | .flashDiscovery ok octal => Sys2Proof.Machine.execFlashDiscovery ok octal s
  | .slotBodyRead => Sys2Proof.Machine.execSlotBodyRead s
  | .recordApply => Sys2Proof.Machine.execRecordApply s
  | .forwardingStart ms => Sys2Proof.Machine.execForwardingStart ms s
  | .thermSample east west tiles fault => Sys2Proof.Machine.execThermSample east west tiles fault s
  | .thermCrit => Sys2Proof.Machine.execThermCrit s
  | .avsStep h => Sys2Proof.Machine.execAvsStep h s
  | .avsReadback h mv amps => Sys2Proof.Machine.execAvsReadback h mv amps s
  | .avsTimeout h => Sys2Proof.Machine.execAvsTimeout h s
  | .caps => Sys2Proof.Machine.execCaps s
  | .ident => Sys2Proof.Machine.execIdent s
  | .mode => Sys2Proof.Machine.execMode s
  | .boot => Sys2Proof.Machine.execBoot s
  | .temp => Sys2Proof.Machine.execTemp s
  | .alarm => Sys2Proof.Machine.execAlarm s
  | .supply => Sys2Proof.Machine.execSupply s
  | .power => Sys2Proof.Machine.execPower s
  | .alertResponse => Sys2Proof.Machine.execAlertResponse s
  | .bypass => Sys2Proof.Machine.execBypass s
  | .idcode => Sys2Proof.Machine.execIdcode s
  | .samplePreload => Sys2Proof.Machine.execSamplePreload s
  | .extest => Sys2Proof.Machine.execExtest s
  | .extestPulse => Sys2Proof.Machine.execExtestPulse s
  | .extestTrain => Sys2Proof.Machine.execExtestTrain s
  | .highz => Sys2Proof.Machine.execHighz s
  | .clamp => Sys2Proof.Machine.execClamp s
  | .tapReset => Sys2Proof.Machine.execTapReset s
  | .timeRefRestored => Sys2Proof.Machine.execTimeRefRestored s

end Sys2Proof.Machine
end

