-- ==== Sys2Proof/Machine/Step.lean ====
section
/-!
DEFINITION. One step of the block: the command at the front of the queue runs; on an empty queue the device idles for one tick of its time base.
-/

namespace Sys2Proof.Machine

/-- The device with no command waiting: one tick of 1 ns of the time base passes (R177), a design choice (log entry 5); work that waits for an engine of its routine goes on where one is up (R302), and function resets that wait for started descriptors (R354). -/
def idle (s : State) : State := (halves.foldl (fun s h => s.workRun h) (s.runFor 1)).flrSettle

/-- Takes the command at the front of the queue and runs it with the queue's rest; with none, the device idles. -/
def step (s : State) : Host.Outcome State Fault Refusal :=
  match s.pending with
  | [] => done (idle s)
  | c :: rest => exec c { s with pending := rest }

/-- The state with the command that a word of the table spells put at the front of the queue. -/
def State.withFetchWord (s : State) (nbits w : Nat) : State :=
  match Sys2Proof.decodeTableWord nbits w with
  | some c => { s with pending := c :: s.pending }
  | none => s

end Sys2Proof.Machine
end

