-- ==== Sys2Proof/WellFormed.lean ====
section
/-!
DEFINITION. Which commands are well formed: every operand fits the field that carries it, and a unit, port, pipe or engine that the device itself names exists. What a descriptor's host may write wrongly is not asked here; the descriptor's own checks refuse it (R338).
-/

namespace Sys2Proof

/-- A value fits a field of some bits. -/
def fits (w v : Nat) : Bool := decide (v < 2 ^ w)

/-- PF0 or one of the 64 VFs (R323). -/
def isFn (f : Nat) : Bool := decide (f ≤ 64)

/-- A command ring (R331). -/
def isCmdRing (r : Nat) : Bool := decide (r < 4)

/-- A ring context (R331). -/
def isRing (r : Nat) : Bool := decide (r < 64)

/-- A port number of R6. -/
def isPort (p : Nat) : Bool := decide (p < 1088)

/-- A lane, and so a front-panel port number (R6). -/
def isLane (p : Nat) : Bool := decide (p < 1024)

/-- A pipe, or a Toanton unit (R7). -/
def isPipe (p : Nat) : Bool := decide (p < 32)

/-- A local engine (R7). -/
def isEngine (e : Nat) : Bool := decide (e < 16)

/-- A TIO pin (R198). -/
def isPin (p : Nat) : Bool := decide (p < 8)

/-- A FDB bucket (R95). -/
def isBucket (b : Nat) : Bool := decide (b < 1048576)

/-- A Toanton group (R241). -/
def isGroup (g : Nat) : Bool := decide (g < 4096)

/-- A slice (R7). -/
def isSlice (s : Nat) : Bool := decide (s < 64)

/-- A GLB_ instance with bridge, tile or host links, seen from a core die (R329). -/
def isGlb (i : Nat) : Bool := decide (8 ≤ i) && decide (i < 14)

/-- A header of a descriptor that a command ring carries (R331, R336). -/
def Hdr.wf (d : Hdr) : Bool :=
  isFn d.fn && isCmdRing d.ring && fits 32 d.cnt && fits 32 d.tag && fits 8 d.slice && fits 16 d.token && fits 64 d.haddr && fits 32 d.hlen

/-- An FDB key (R341). -/
def KeyArg.wf (k : KeyArg) : Bool := fits 8 k.kind && fits 24 k.scope && fits 128 k.addr

/-- A value fits the access: 64 or 32 bits (R9). -/
def fitsWord (wide : Bool) (v : Nat) : Bool := fits (if wide then 64 else 32) v

/-- The command is well formed. -/
def Instr.wf : Instr → Bool
  | .nop d => d.wf
  | .tblWrite d kind tableId index => d.wf && fits 8 kind && fits 8 tableId && fits 32 index
  | .tblRead d tableId index key => d.wf && fits 8 tableId && fits 32 index && fits 160 key
  | .sliceCommit d => d.wf
  | .sliceAbort d => d.wf
  | .sliceQuota d em tcam => d.wf && fits 32 em && fits 32 tcam
  | .vniMapWrite d vni => d.wf && fits 32 vni
  | .vniMapDelete d vni => d.wf && fits 32 vni
  | .progLoad d copy => d.wf && fits 8 copy
  | .progSwap d => d.wf
  | .progDrainLimit => true
  | .progSwapDrained => true
  | .fdbInsert d key port _ _ adata => d.wf && key.wf && fits 16 port && fits 32 adata
  | .fdbDelete d key => d.wf && key.wf
  | .fdbRead d md key idx => d.wf && fits 8 md && key.wf && fits 32 idx
  | .lock d bucket => d.wf && fits 32 bucket
  | .unlock d bucket => d.wf && fits 32 bucket
  | .fdbWayWrite d bucket way => d.wf && fits 32 bucket && fits 8 way
  | .fdbUnfreeze d key => d.wf && key.wf
  | .fdbFlush d _ _ _ _ scope port => d.wf && fits 24 scope && fits 16 port
  | .bufPartSet d sizes => d.wf && sizes.length = 8 && sizes.all (fits 32)
  | .portFlush d port => d.wf && fits 16 port
  | .policerSet d n cir pir cbs pbs _ _ _ owner => d.wf && fits 16 n && fits 32 cir && fits 32 pir && fits 32 cbs && fits 32 pbs && fits 8 owner
  | .gateLoad d port entries bsec bns cycle => d.wf && fits 16 port && fits 16 entries && fits 64 bsec && fits 32 bns && fits 32 cycle
  | .epochLoad d sec ns epLen slots og cg => d.wf && fits 64 sec && fits 32 ns && fits 32 epLen && fits 16 slots && fits 16 og && fits 16 cg
  | .epochStop d => d.wf
  | .toaGroupOpen d => d.wf
  | .toaGroupClose d group => d.wf && fits 16 group
  | .toaMemberSet d group member => d.wf && fits 16 group && fits 16 member
  | .toaGroupRead d group => d.wf && fits 16 group
  | .cntSnap d mask => d.wf && fits 8 mask
  | .patchLoad d => d.wf
  | .patchArm d md => d.wf && fits 8 md
  | .patchArmDrained => true
  | .hamRead d addr count => d.wf && fits 32 addr && fits 16 count
  | .hamWrite d addr count als => d.wf && fits 32 addr && fits 16 count && fits 8 als
  | .imageWrite d => d.wf
  | .imageWriteDone _ => true
  | .bootRetry d => d.wf
  | .cfgCommit d => d.wf
  | .cfgRead d => d.wf
  | .attest d nonce => d.wf && nonce.length = 32
  | .idCertRead d alg => d.wf && fits 8 alg
  | .ownerEnroll d _ _ => d.wf
  | .trbSelftest d fail alg => d.wf && fits 8 fail && fits 8 alg
  | .hostClaim d => d.wf
  | .bankRetire d cls inst bank => d.wf && fits 8 cls && fits 8 inst && fits 16 bank
  | .linkRetrain d glb link => d.wf && fits 8 glb && fits 8 link
  | .eccInject d cls inst bank row kind => d.wf && fits 8 cls && fits 8 inst && fits 16 bank && fits 32 row && fits 8 kind
  | .portSet d firstLane width rate pflags rsvd => d.wf && fits 16 firstLane && fits 8 width && fits 8 rate && fits 8 pflags && fits 8 rsvd
  | .laneEqSet d _ => d.wf
  | .laneTest d first lanes loop pattern _ => d.wf && fits 16 first && fits 16 lanes && fits 8 loop && fits 8 pattern
  | .portRestart d port => d.wf && fits 16 port
  | .portRead d => d.wf
  | .eqRead d => d.wf
  | .doorbell fn ring count => isFn fn && isRing ring && fits 32 count
  | .descriptorFetch fn ring bytes => isFn fn && isCmdRing ring && (match bytes with | some b => b.length = 64 | none => true)
  | .descriptorStart fn ring cnt => isFn fn && isCmdRing ring && fits 32 cnt
  | .ringCfgWrite fn ring value => isFn fn && isRing ring && fits 64 value
  | .txEntry fn ring entry _ => isFn fn && isRing ring && (match entry with | some e => e.length = 32 | none => true)
  | .rxDelivery k bufs => isEngine k && bufs.all (fits 64)
  | .ringStalled v ring => isFn v && isRing ring
  | .msixHoldoffEnd fn vec => isFn fn && fits 10 vec
  | .flr v => isFn v
  | .hotReset => true
  | .perstN _ => true
  | .configRequest fn off write => isFn fn && fits 12 off && (match write with | some v => fits 32 v | none => true)
  | .frameReceive port _ _ bitPos => isLane port && fits 17 bitPos
  | .codewordDecode port sym _ inner => isLane port && fits 16 sym && fits 32 inner
  | .hiSer port => isLane port
  | .parse pipe => isPipe pipe
  | .stagePass _ => true
  | .hitNotice _ => true
  | .hitStampSkip _ => true
  | .regMissed _ => true
  | .tmFrontEnd _ => true
  | .pfcRefresh port pg => isPort port && fits 3 pg
  | .pfcStorm port pg => isPort port && fits 3 pg
  | .admissionDecision _ => true
  | .admissionGrant _ => true
  | .pgReleaseNotice _ => true
  | .refcntRelease _ => true
  | .bridgeCellArrival _ => true
  | .enqueue _ => true
  | .schedulerSelect port => isPort port
  | .launchTest port => isPort port
  | .refill _ => true
  | .pfcRx port vec times => isPort port && fits 16 vec && times.length = 8 && times.all (fits 16)
  | .pauseTimerExpiry port prio => isPort port && fits 3 prio
  | .deparse _ => true
  | .transmit _ bitPos => fits 17 bitPos
  | .txtsEntry _ => true
  | .txtsPop _ => true
  | .tioEdge pin _ => isPin pin
  | .tioCapPop pin => isPin pin
  | .tioOutputEdge pin => isPin pin
  | .timeApplyEdge => true
  | .timIncWrite value => fits 64 value
  | .stepGo => true
  | .gmSet => true
  | .holdoverExit => true
  | .timCfgWrite value => fits 64 value
  | .watchdogExpiry => true
  | .timeRefLost => true
  | .timeRead _ => true
  | .nowTickAdvance => true
  | .learnEventEnqueue _ => true
  | .learnApply _ => true
  | .fdbRemoteWrite _ => true
  | .fdbWriteAck _ => true
  | .agerVisit bucket => isBucket bucket
  | .lockLeaseExpiry bucket => isBucket bucket
  | .lockRetry fn ring cnt => isFn fn && isCmdRing ring && fits 32 cnt
  | .fdbResyncDone _ => true
  | .genRetire slice => isSlice slice
  | .portAcquired port => isLane port
  | .portAligned port => isLane port
  | .portLinkLoss port cause => isLane port && fits 3 cause
  | .debounceExpiry port => isLane port
  | .flushFenceRetire port => isPort port
  | .gateListStart port => isPort port
  | .epochBoundary => true
  | .epochGridStart => true
  | .epochGridSwap => true
  | .epochPurge _ => true
  | .toaData unit => isPipe unit
  | .toaAck unit => isPipe unit
  | .toaResultEmit unit => isPipe unit
  | .toaStallTimer group _ => isGroup group
  | .toaRetainExpiry group _ => isGroup group
  | .toaCloseDone group => isGroup group
  | .exportFlushTimer _ => true
  | .histWindowEdge _ => true
  | .histAck _ => true
  | .snapPeriodicTrigger _ => true
  | .cntSnapReady _ => true
  | .pmcSampPop _ => true
  | .rcCounterRead b inst off _ => decide (b.fn ≤ 64) && fits 16 b.blk && fits 16 inst && fits 32 off
  | .cloveDispatch _ e => isEngine e
  | .microwordExecute _ e => isEngine e
  | .irqLatch _ e line => isEngine e && fits 3 line
  | .routineTimer _ e => isEngine e
  | .engineRestart _ e => isEngine e
  | .leaseRenewal => true
  | .leaseRenewalRx => true
  | .leaseAck => true
  | .leaseLapse _ => true
  | .prepare => true
  | .twoHalfStepEdge _ => true
  | .stepAppliedReport => true
  | .ownerClaim _ term owner => fits 32 term && fits 1 owner
  | .termExchange => true
  | .mirroredWrite target => decide (target < 35)
  | .gulubLinkFail inst link => fits 4 inst && fits 8 link
  | .flitCrcError inst link => fits 4 inst && fits 8 link
  | .bridgeLost => true
  | .bridgeRestored => true
  | .autoRetrain inst => isGlb inst
  | .linkTrainDone inst link _ wire => isGlb inst && fits 8 link && fits 12 wire
  | .linkRecentre inst link => fits 4 inst && fits 8 link
  | .maintQueuedStart => true
  | .scrub _ cls inst bank row => fits 3 cls && fits 8 inst && fits 16 bank && fits 32 row
  | .ueRepair _ cls inst bank row => fits 3 cls && fits 8 inst && fits 16 bank && fits 32 row
  | .audit _ => true
  | .bankCopy _ => true
  | .xingStuck _ pair tile => fits 3 pair && fits 3 tile
  | .xingReset _ value => fits 64 value
  | .rasErrPop _ => true
  | .fdbSeedWrite _ value => fits 64 value
  | .protectedCopyRegWrite which _ c value => decide (which < 4) && fits 16 c && fits 64 value
  | .registerWrite fn blk inst off wide value => isFn fn && fits 16 blk && fits 16 inst && fits 32 off && fitsWord wide value
  | .supplyValid => true
  | .supplyInvalid rail => decide (rail < 9)
  | .railBelowRange rail => decide (rail < 9)
  | .resetEnd _ _ sba bridgeLinks => fits 2 sba && fits 6184 bridgeLinks
  | .selftestDone fail alg => fits 8 fail && fits 8 alg
  | .flashDiscovery _ _ => true
  | .slotBodyRead => true
  | .recordApply => true
  | .forwardingStart ms => fits 32 ms
  | .thermSample east west tiles _ => decide (-32768 ≤ east ∧ east < 32768) && decide (-32768 ≤ west ∧ west < 32768) && decide (-32768 ≤ tiles ∧ tiles < 32768)
  | .thermCrit => true
  | .avsStep _ => true
  | .avsReadback _ mv amps => fits 16 mv && fits 16 amps
  | .avsTimeout _ => true
  | .caps => true
  | .ident => true
  | .mode => true
  | .boot => true
  | .temp => true
  | .alarm => true
  | .supply => true
  | .power => true
  | .alertResponse => true
  | .bypass => true
  | .idcode => true
  | .samplePreload => true
  | .extest => true
  | .extestPulse => true
  | .extestTrain => true
  | .highz => true
  | .clamp => true
  | .tapReset => true
  | .timeRefRestored => true

end Sys2Proof
end

