-- ==== Sys2Proof/Safety.lean ====
section
/-!
DEFINITION. The terms in which claims about the machine are made: a descriptor that passes its checks, the completion it receives, the pins that follow the registers, and what a command leaves unchanged.
-/

namespace Sys2Proof.Machine

/-- The checks of R338 let the descriptor run. -/
abbrev served (s : State) (d : Hdr) (r : Rule) (own clean : Bool) : Prop := s.refusal d r own clean false = none

/-- The descriptor that a command stands for, none for the commands that no ring brings (R339). -/
def cmdHdr : Instr → Option Hdr
  | .nop d | .tblWrite d _ _ _ | .tblRead d _ _ _ | .sliceCommit d | .sliceAbort d | .sliceQuota d _ _ | .vniMapWrite d _ | .vniMapDelete d _
  | .progLoad d _ | .progSwap d | .fdbInsert d _ _ _ _ _ | .fdbDelete d _ | .fdbRead d _ _ _ | .lock d _ | .unlock d _ | .fdbWayWrite d _ _
  | .fdbUnfreeze d _ | .fdbFlush d _ _ _ _ _ _ | .bufPartSet d _ | .portFlush d _ | .policerSet d _ _ _ _ _ _ _ _ _ | .gateLoad d _ _ _ _ _
  | .epochLoad d _ _ _ _ _ _ | .epochStop d | .toaGroupOpen d | .toaGroupClose d _ | .toaMemberSet d _ _ | .toaGroupRead d _ | .cntSnap d _
  | .patchLoad d | .patchArm d _ | .hamRead d _ _ | .hamWrite d _ _ _ | .imageWrite d | .bootRetry d | .cfgCommit d | .cfgRead d | .attest d _
  | .idCertRead d _ | .ownerEnroll d _ _ | .trbSelftest d _ _ | .hostClaim d | .bankRetire d _ _ _ | .linkRetrain d _ _ | .eccInject d _ _ _ _ _
  | .portSet d _ _ _ _ _ | .laneEqSet d _ | .laneTest d _ _ _ _ _ | .portRestart d _ | .portRead d | .eqRead d => some d
  | _ => none

/-- A descriptor's command as its 64 bytes spell it, without what its host buffer returns and without what happens outside the device (R336, log entry 70). -/
def bareCmd : Instr → Instr
  | .nop d => .nop (bareHdr d)
  | .tblWrite d kind id i => .tblWrite (bareHdr d) kind id i
  | .tblRead d id i key => .tblRead (bareHdr d) id i key
  | .sliceCommit d => .sliceCommit (bareHdr d)
  | .sliceAbort d => .sliceAbort (bareHdr d)
  | .sliceQuota d em tcam => .sliceQuota (bareHdr d) em tcam
  | .vniMapWrite d vni => .vniMapWrite (bareHdr d) vni
  | .vniMapDelete d vni => .vniMapDelete (bareHdr d) vni
  | .progLoad d copy => .progLoad (bareHdr d) copy
  | .progSwap d => .progSwap (bareHdr d)
  | .fdbInsert d ka port static replace adata => .fdbInsert (bareHdr d) ka port static replace adata
  | .fdbDelete d ka => .fdbDelete (bareHdr d) ka
  | .fdbRead d mode ka idx => .fdbRead (bareHdr d) mode ka idx
  | .lock d b => .lock (bareHdr d) b
  | .unlock d b => .unlock (bareHdr d) b
  | .fdbWayWrite d b way => .fdbWayWrite (bareHdr d) b way
  | .fdbUnfreeze d ka => .fdbUnfreeze (bareHdr d) ka
  | .fdbFlush d bySlice byPort byScope inclStatic scope port => .fdbFlush (bareHdr d) bySlice byPort byScope inclStatic scope port
  | .bufPartSet d sizes => .bufPartSet (bareHdr d) sizes
  | .portFlush d port => .portFlush (bareHdr d) port
  | .policerSet d n cir pir cbs pbs aware redDrop en owner => .policerSet (bareHdr d) n cir pir cbs pbs aware redDrop en owner
  | .gateLoad d port entries bsec bns cycle => .gateLoad (bareHdr d) port entries bsec bns cycle
  | .epochLoad d sec ns epLen slots og cg => .epochLoad (bareHdr d) sec ns epLen slots og cg
  | .epochStop d => .epochStop (bareHdr d)
  | .toaGroupOpen d => .toaGroupOpen (bareHdr d)
  | .toaGroupClose d gid => .toaGroupClose (bareHdr d) gid
  | .toaMemberSet d gid member => .toaMemberSet (bareHdr d) gid member
  | .toaGroupRead d gid => .toaGroupRead (bareHdr d) gid
  | .cntSnap d mask => .cntSnap (bareHdr d) mask
  | .patchLoad d => .patchLoad (bareHdr d)
  | .patchArm d mode => .patchArm (bareHdr d) mode
  | .hamRead d addr count => .hamRead (bareHdr d) addr count
  | .hamWrite d addr count als => .hamWrite (bareHdr d) addr count als
  | .imageWrite d => .imageWrite (bareHdr d)
  | .bootRetry d => .bootRetry (bareHdr d)
  | .cfgCommit d => .cfgCommit (bareHdr d)
  | .cfgRead d => .cfgRead (bareHdr d)
  | .attest d nonce => .attest (bareHdr d) nonce
  | .idCertRead d alg => .idCertRead (bareHdr d) alg
  | .ownerEnroll d off _ => .ownerEnroll (bareHdr d) off false
  | .trbSelftest d _ _ => .trbSelftest (bareHdr d) 0 0
  | .hostClaim d => .hostClaim (bareHdr d)
  | .bankRetire d cls inst bank => .bankRetire (bareHdr d) cls inst bank
  | .linkRetrain d glb link => .linkRetrain (bareHdr d) glb link
  | .eccInject d cls inst bank row kind => .eccInject (bareHdr d) cls inst bank row kind
  | .portSet d first w rate fl rsvd => .portSet (bareHdr d) first w rate fl rsvd
  | .laneEqSet d restart => .laneEqSet (bareHdr d) restart
  | .laneTest d first n loop pattern check => .laneTest (bareHdr d) first n loop pattern check
  | .portRestart d port => .portRestart (bareHdr d) port
  | .portRead d => .portRead (bareHdr d)
  | .eqRead d => .eqRead (bareHdr d)
  | c => c

/-- A command may take effect: where a descriptor brings it, that descriptor has started, or stands behind nothing on its ring (R339). -/
def due (s : State) (c : Instr) : Prop := ∀ d, cmdHdr c = some d → s.descDue (bareCmd c) d = true

/-- The descriptor has received one completion, of a status, a state and a result, and nothing else has been completed (R337, R338). -/
def completed (s t : State) (d : Hdr) (status st result : Nat) : Prop :=
  t.host.cpls = s.host.cpls ++ [⟨d.fn, d.ring, d.tag, status, st, result⟩]

/-- The fields that the report of a completion, an event or a performance counter may change: ring counts, `busy`, lost events and the counters themselves (R288, R332, R335, R351). -/
def reportFlds : List Fld := [.HST_RING_STAT_dev_idx, .HST_RING_STAT_busy, .HST_CNT_v, .PMC_CNT_v]

/-- What a completion lost at a crossing sets and counts: the overrun bits of its half and its count 10 (R411, R412). -/
def lossAt (f : Fld) (ix : List Nat) : Bool := decide (f = .RAS_XSTAT_ovr) || decide (f = .RAS_CNT_v) && decide (ix[1]? = some 10)

/-- A register field that the report of a completion, an event or a performance counter may change. -/
def reported (f : Fld) (ix : List Nat) : Bool := reportFlds.contains f || lossAt f ix

/-- Every register field but those listed, and those that reports change, is unchanged. -/
def fieldsBut (fs : List Fld) (s t : State) : Prop := ∀ f ix, f ∉ fs → reported f ix = false → t.rd f ix = s.rd f ix

/-- The places of a half's own words whose entry a test names. -/
def ownSel (s : State) (o : Half) (sel : FdbEnt → Bool) : List (List Nat) :=
  ((s.fdbOwned o).map (fun e => e.1)).filter (fun p => match s.fdbAt o p with | some e => sel e | none => false)

/-- The parts of the state beside the registers and the host interface. -/
inductive Part where
  | pending
  | fresh
  | nextId
  | frames
  | progA
  | progB
  | swap
  | tables
  | fdb
  | buf
  | sched
  | time
  | timed
  | toa
  /-- Telemetry, but for the marks of thresholds that have been reported (R289). -/
  | tel
  /-- Engines, patch sets and the Hamper, but for the routine queues, which a completion leaves without its descriptor (R339). -/
  | clove
  | boot
  | ras
  | lanes
  /-- Package and pins, but for the four pins that follow the registers (R458, R468, R471). -/
  | pkg
deriving DecidableEq, Repr

/-- A part is unchanged. -/
def Part.same (s t : State) : Part → Prop
  | .pending => t.pending = s.pending
  | .fresh => t.fresh = s.fresh
  | .nextId => t.nextId = s.nextId
  | .frames => t.frames = s.frames
  | .progA => t.progA = s.progA
  | .progB => t.progB = s.progB
  | .swap => t.swap = s.swap
  | .tables => t.tables = s.tables
  | .fdb => t.fdb = s.fdb
  | .buf => t.buf = s.buf
  | .sched => t.sched = s.sched
  | .time => t.time = s.time
  | .timed => t.timed = s.timed
  | .toa => t.toa = s.toa
  | .tel => t.tel = { s.tel with raised := t.tel.raised }
  | .clove => t.clove = { s.clove with rq := t.clove.rq }
  | .boot => t.boot = s.boot
  | .ras => t.ras = s.ras
  | .lanes => t.lanes = s.lanes
  | .pkg => t.pkg = { s.pkg with ready := t.pkg.ready, warnN := t.pkg.warnN, critN := t.pkg.critN, alertN := t.pkg.alertN }

/-- Every part but those listed is unchanged. -/
def partsBut (ps : List Part) (s t : State) : Prop := ∀ p, p ∉ ps → p.same s t

/-- The fields that a drop may change: its counters, the released reference count and the exporter's (R40, R86, R272-R275). -/
def dropFlds : List Fld := [.TEL_DROP_CNT_v, .SLC_REFCNT_count, .RAS_CNT_v, .TEL_EXP_STAT_fifo, .TEL_EXP_STAT_seq, .TEL_CNT_v]

/-- The parts that a drop may change: frames, with an export frame that a drop record completes, the samplers and the exporter, and a release on its way (R86, R269, R274, R396). -/
def dropParts : List Part := [.frames, .nextId, .fresh, .tel, .tables, .ras]

/-- A frame has been dropped in a half for a cause: it is gone and counted, and every other frame is as it was (R40). -/
def dropped (s t : State) (id : Nat) (h : Half) (cause : Nat) : Prop :=
  t.fr? id = none ∧ t.rd .TEL_DROP_CNT_v [h.n, cause] = (s.rd .TEL_DROP_CNT_v [h.n, cause] + 1) % 2 ^ 64
    ∧ ∀ i, i ≠ id → i ≠ s.nextId → t.fr? i = s.fr? i

/-- A frame has become another, and every other frame is as it was. -/
def became (s t : State) (id : Nat) (g : Frame) : Prop := t.fr? id = some g ∧ ∀ i, i ≠ id → t.fr? i = s.fr? i

/-- READY, THERM_WARN_N and THERM_CRIT_N follow the registers, and SMB_ALERT_N the alarms (R458, R468, R471). -/
def State.pinsFollow (s : State) : Prop :=
  (s.pkg.ready = true ↔ 2 ≤ s.mode ∧ s.mode ≤ 5)
    ∧ (s.pkg.warnN = false ↔ s.rd .SYS_THERM_warn [0] ≠ 0)
    ∧ (s.pkg.critN = false ↔ s.rd .SYS_THERM_crit [0] ≠ 0)
    ∧ (s.pkg.alertN = true ↔ s.pkg.resetEnded = false ∨ s.alarm &&& s.pkg.alarmAck = s.alarm)

/-- A mode of R387, or 0 before RESET has ended (R388). -/
def State.legalMode (s : State) : Prop := s.mode ≤ 6

end Sys2Proof.Machine
end

