-- ==== Sys2Proof/Certificates/Slice0/Obligations.lean ====
section
/-!
DEFINITION. What is claimed of the machine, for the provers.
-/

open Sys2Proof Sys2Proof.Machine

/-- R341: NOP completes with OK and does nothing else. -/
def Obligations.NopCompletesAndDoesNothing : Prop :=
  ∀ (s : State) (d : Hdr), served s d ⟨0x01, .any, false, true, 0⟩ true (cleanHdr d false false false) →
    due s (.nop d) → ∃ t, exec (.nop d) s = .next t ∧ completed s t d 0 0 0 ∧ partsBut [] s t ∧ fieldsBut [] s t

/-- R79, R57: SLICE_QUOTA sets both quotas of the slice in both halves. Then: VNI_MAP_WRITE binds a VNI to the descriptor's slice, in the way that holds the VNI or else in a free way of its bucket (the lowest: the model's choice, log entry 84), and completes TABLE_FULL where there is none; VNI_MAP_DELETE frees the way, and completes NOT_FOUND where no way holds the VNI. -/
def Obligations.SliceQuotaAndVniMap : Prop :=
  (∀ (s : State) (d : Hdr) (em tcam : Nat),
      served s d ⟨0x14, .config, true, false, 0⟩ true (cleanHdr d true false false && decide (em ≤ 131072) && decide (tcam ≤ 65536)) →
      due s (.sliceQuota d em tcam) → ∃ t, exec (.sliceQuota d em tcam) s = .next t ∧ completed s t d 0 0 0
        ∧ (∀ h : Half, t.rd .SLC_QUOTA_em_quota [h.n, d.slice] = em ∧ t.rd .SLC_QUOTA_tcam_quota [h.n, d.slice] = tcam)
        ∧ (∀ h : Half, ∀ sl, sl ≠ d.slice → t.rd .SLC_QUOTA_em_quota [h.n, sl] = s.rd .SLC_QUOTA_em_quota [h.n, sl]
            ∧ t.rd .SLC_QUOTA_tcam_quota [h.n, sl] = s.rd .SLC_QUOTA_tcam_quota [h.n, sl])
        ∧ partsBut [] s t ∧ fieldsBut [.SLC_QUOTA_em_quota, .SLC_QUOTA_tcam_quota] s t)
  ∧ (∀ (s : State) (d : Hdr) (vni : Nat),
      (served s d ⟨0x15, .config, true, false, 0⟩ true (cleanHdr d true false false && decide (vni < 16777216)) →
        ∀ w, (s.vniWay vni = some w ∨ (s.vniWay vni = none ∧ (List.range 4).find? (fun w => (s.tables.vni.get? [vniBucket vni, w]).isNone) = some w)) →
        due s (.vniMapWrite d vni) → ∃ t, exec (.vniMapWrite d vni) s = .next t ∧ completed s t d 0 0 0
          ∧ t.tables.vni.get? [vniBucket vni, w] = some (vni, d.slice)
          ∧ (∀ k, k ≠ [vniBucket vni, w] → t.tables.vni.get? k = s.tables.vni.get? k)
          ∧ partsBut [.tables] s t ∧ fieldsBut [] s t)
      ∧ (served s d ⟨0x15, .config, true, false, 0⟩ true (cleanHdr d true false false && decide (vni < 16777216)) →
        s.vniWay vni = none → (∀ w, w < 4 → (s.tables.vni.get? [vniBucket vni, w]).isSome = true) →
        due s (.vniMapWrite d vni) → ∃ t, exec (.vniMapWrite d vni) s = .next t ∧ completed s t d 0x10 0 0 ∧ partsBut [] s t ∧ fieldsBut [] s t)
      ∧ (served s d ⟨0x16, .config, true, false, 0⟩ true (cleanHdr d false false false && decide (vni < 16777216)) →
        ∀ w, s.vniWay vni = some w →
        due s (.vniMapDelete d vni) → ∃ t, exec (.vniMapDelete d vni) s = .next t ∧ completed s t d 0 0 0
          ∧ t.tables.vni.get? [vniBucket vni, w] = none
          ∧ (∀ k, k ≠ [vniBucket vni, w] → t.tables.vni.get? k = s.tables.vni.get? k)
          ∧ partsBut [.tables] s t ∧ fieldsBut [] s t)
      ∧ (served s d ⟨0x16, .config, true, false, 0⟩ true (cleanHdr d false false false && decide (vni < 16777216)) →
        s.vniWay vni = none →
        due s (.vniMapDelete d vni) → ∃ t, exec (.vniMapDelete d vni) s = .next t ∧ completed s t d 0x14 0 0 ∧ partsBut [] s t ∧ fieldsBut [] s t))

/-- R83, R84: a TBL_WRITE of kind ADD within quota puts a new open entry, starting at P, into a free way of the key's bucket (the lowest: the model's choice, log entry 84), where its ways can be read, or at the free TCAM index it names, counts it in both halves and logs it, where the crossing of table updates is free. A wide TCAM entry occupies two indices and counts 2; that the record gives the low 160 bits of its 320-bit key and mask, and the rest is free, is the model's (log entry 42). -/
def Obligations.TableWriteAdd : Prop :=
  ∀ (s : State) (d : Hdr) (id i : Nat) (m : Config.TableMap) (buf : List Byte),
    served s d ⟨0x10, .config, true, true, 0⟩ (ownSlice d d.slice) (cleanHdr d true false true) →
    s.tableMap? id = some m → badIndex m i = false → 64 ≤ d.hlen → d.buf = some buf → byteAt buf 48 ≤ 63 → (s.plog d.slice).length < 65536 →
    s.xingBusy (s.ringHalf d) 3 0 = false →
    (∀ w, m.kind = 0 → s.ras.poison = [] → le buf 0 20 < 2 ^ m.keyW → s.rd .SLC_USAGE_em_used [s.owner.n, d.slice] + 1 ≤ s.rd .SLC_QUOTA_em_quota [s.owner.n, d.slice] →
      (∀ e ∈ s.emHits m d.slice (le buf 0 20), e.2.opn = false) →
      (List.range 4).find? (fun w => (s.tables.em.get? [stageOf m.stage, emBucket m (le buf 0 20), w]).isNone) = some w →
      due s (.tblWrite d 0 id i) → ∃ t, exec (.tblWrite d 0 id i) s = .next t ∧ completed s t d 0 0 0
        ∧ t.tables.em.get? [stageOf m.stage, emBucket m (le buf 0 20), w]
            = some ⟨le buf 0 20, le buf 20 20, le buf 40 8, byteAt buf 48, d.slice, s.genP d.slice % 256, 0, true, false, m.id, false, 0⟩
        ∧ (∀ k, k ≠ [stageOf m.stage, emBucket m (le buf 0 20), w] → t.tables.em.get? k = s.tables.em.get? k) ∧ t.tables.tcam = s.tables.tcam
        ∧ t.plog d.slice = s.plog d.slice ++ [⟨0, false, [stageOf m.stage, emBucket m (le buf 0 20), w], slice buf 0 64⟩]
        ∧ (∀ h : Half, t.rd .SLC_USAGE_em_used [h.n, d.slice] = (s.rd .SLC_USAGE_em_used [h.n, d.slice] + 1) % 2 ^ 18)
        ∧ partsBut [.tables, .ras] s t ∧ fieldsBut [.SLC_USAGE_em_used, .SLC_USAGE_log_used] s t)
    ∧ (m.kind ≠ 0 → s.rd .SLC_USAGE_tcam_used [s.owner.n, d.slice] + (if m.kind = 2 then 2 else 1) ≤ s.rd .SLC_QUOTA_tcam_quota [s.owner.n, d.slice] →
      s.tcamBusy (stageOf m.stage) i = false → (m.kind = 2 → s.tcamBusy (stageOf m.stage) (i + 1) = false) →
      due s (.tblWrite d 0 id i) → ∃ t e, exec (.tblWrite d 0 id i) s = .next t ∧ completed s t d 0 0 0
        ∧ t.tables.tcam.get? [stageOf m.stage, i] = some e
        ∧ e.key % 2 ^ 160 = le buf 0 20 ∧ e.mask % 2 ^ 160 = le buf 20 20 ∧ (m.kind ≠ 2 → e.key = le buf 0 20 ∧ e.mask = le buf 20 20)
        ∧ e.adata = le buf 40 8 ∧ e.act = byteAt buf 48 ∧ e.slice = d.slice ∧ e.genLo = s.genP d.slice % 256 ∧ e.opn = true ∧ e.settled = false
        ∧ e.table = m.id ∧ e.wide = decide (m.kind = 2)
        ∧ (∀ k, k ≠ [stageOf m.stage, i] → t.tables.tcam.get? k = s.tables.tcam.get? k) ∧ t.tables.em = s.tables.em
        ∧ t.plog d.slice = s.plog d.slice ++ [⟨0, true, [stageOf m.stage, i], slice buf 0 64⟩]
        ∧ (∀ h : Half, t.rd .SLC_USAGE_tcam_used [h.n, d.slice] = (s.rd .SLC_USAGE_tcam_used [h.n, d.slice] + (if m.kind = 2 then 2 else 1)) % 2 ^ 17)
        ∧ partsBut [.tables, .ras, .fresh] s t ∧ fieldsBut [.SLC_USAGE_tcam_used, .SLC_USAGE_log_used] s t)

/-- R83: a CLOSE of a live entry ends its window at G and is logged; a CLOSE of an entry added under P frees it; REPLACE_NOW overwrites `adata` and `act` and leaves the window; a CLOSE of a closed entry is refused as ENTRY_CLOSED, and one that finds no entry completes NOT_FOUND. Exact match, where the bucket's words have no error, and TCAM alike. Where the crossing of table updates holds an earlier one, the update is lost there and counted (R411, R412, log entry 53). -/
def Obligations.TableWriteCloseAndReplace : Prop :=
  ∀ (s : State) (d : Hdr) (id i : Nat) (m : Config.TableMap) (buf : List Byte) (tcam lost : Bool) (hit : Option (List Nat × Ent)),
    served s d ⟨0x10, .config, true, true, 0⟩ (ownSlice d d.slice) (cleanHdr d true false true) →
    s.tableMap? id = some m → badIndex m i = false → 64 ≤ d.hlen → d.buf = some buf → (m.kind = 0 → le buf 0 20 < 2 ^ m.keyW) → byteAt buf 48 ≤ 63 →
    tcam = decide (m.kind ≠ 0) → hit = (if m.kind = 0 then emFirst (s.emHits m d.slice (le buf 0 20)) else s.tcamTarget m d.slice i) →
    (m.kind = 0 → s.ras.poison = []) → s.xingBusy (s.ringHalf d) 3 0 = lost →
    (∀ place e, hit = some (place, e) → lost = false → e.opn = true → ¬ (e.genLo = s.genP d.slice % 256 ∧ e.settled = false) → (s.plog d.slice).length < 65536 →
      due s (.tblWrite d 1 id i) → ∃ t, exec (.tblWrite d 1 id i) s = .next t ∧ completed s t d 0 0 0
        ∧ t.tblAt tcam place = some { e with genHi := s.genG d.slice % 256, opn := false }
        ∧ (∀ c k, (c, k) ≠ (tcam, place) → t.tblAt c k = s.tblAt c k)
        ∧ t.plog d.slice = s.plog d.slice ++ [⟨1, tcam, place, slice buf 0 64⟩]
        ∧ partsBut [.tables, .ras] s t ∧ fieldsBut [.SLC_USAGE_log_used] s t)
    ∧ (∀ place e, hit = some (place, e) → lost = false → e.opn = true → e.genLo = s.genP d.slice % 256 → e.settled = false →
      due s (.tblWrite d 1 id i) → ∃ t, exec (.tblWrite d 1 id i) s = .next t ∧ completed s t d 0 0 0
        ∧ t.tblAt tcam place = none ∧ (∀ c k, (c, k) ≠ (tcam, place) → t.tblAt c k = s.tblAt c k)
        ∧ partsBut [.tables, .ras] s t ∧ fieldsBut [.SLC_USAGE_em_used, .SLC_USAGE_tcam_used, .SLC_USAGE_log_used] s t)
    ∧ (∀ place e, hit = some (place, e) →
      due s (.tblWrite d 2 id i) → ∃ t, exec (.tblWrite d 2 id i) s = .next t ∧ completed s t d 0 0 0
        ∧ (lost = false → t.tblAt tcam place = some { e with adata := le buf 40 8, act := byteAt buf 48 }
          ∧ (∀ c k, (c, k) ≠ (tcam, place) → t.tblAt c k = s.tblAt c k))
        ∧ (lost = true → (∀ c k, t.tblAt c k = s.tblAt c k) ∧ bit (t.rd .RAS_XSTAT_ovr [(s.ringHalf d).n]) 3 = true)
        ∧ partsBut [.tables, .ras] s t ∧ fieldsBut [] s t)
    ∧ (∀ place e, hit = some (place, e) → e.opn = false →
      due s (.tblWrite d 1 id i) → ∃ t, exec (.tblWrite d 1 id i) s = .next t ∧ completed s t d 1 0x49 0 ∧ partsBut [] s t ∧ fieldsBut [] s t)
    ∧ (hit = none → due s (.tblWrite d 1 id i) → ∃ t, exec (.tblWrite d 1 id i) s = .next t ∧ completed s t d 0x14 0 0 ∧ partsBut [] s t ∧ fieldsBut [] s t)

/-- R92: TBL_READ of an entry that is found, its words without errors, writes its image into the host buffer, 32 bytes for exact match and 64 for TCAM, and completes OK; where none is found it completes NOT_FOUND. That the odd index of a wide entry is returned where the table's map gives it no wide entries is the model's (log entry 74). -/
def Obligations.TableRead : Prop :=
  ∀ (s : State) (d : Hdr) (id i key : Nat) (m : Config.TableMap),
    served s d ⟨0x11, .reads, false, true, 0⟩ (ownSlice d d.slice) (cleanHdr d true false true) →
    s.tableMap? id = some m → badIndex m i = false → (m.kind = 0 → key < 2 ^ m.keyW) → (if m.kind = 0 then 32 else 64) ≤ d.hlen → d.buf.isSome = true →
    s.ras.poison = [] → s.tables.upset = [] →
    (∀ place e, (if m.kind = 0 then emFirst (s.emHits m d.slice key) else s.tcamTarget m d.slice i) = some (place, e) →
      due s (.tblRead d id i key) → ∃ t, exec (.tblRead d id i key) s = .next t ∧ completed s t d 0 0 0 ∧ partsBut [] s t ∧ fieldsBut [] s t
        ∧ (s.on .HST_RING_CFG_en [d.fn, d.ring + 4] = false → s.on .HST_RING_CFG_en [0, 8] = false → t.host.mem = s.host.mem.setBytes d.haddr (if m.kind = 0 then emBytes e else tcamBytes e)))
    ∧ (∀ e, m.kind ≠ 0 → i % 2 = 1 → s.tcamTarget m d.slice i = none → s.tables.tcam.get? [stageOf m.stage, i - 1] = some e →
      e.wide = true → e.slice = d.slice → e.table = m.id →
      due s (.tblRead d id i key) → ∃ t, exec (.tblRead d id i key) s = .next t ∧ completed s t d 0 0 0 ∧ partsBut [] s t ∧ fieldsBut [] s t
        ∧ (s.on .HST_RING_CFG_en [d.fn, d.ring + 4] = false → s.on .HST_RING_CFG_en [0, 8] = false → t.host.mem = s.host.mem.setBytes d.haddr (oddBytes e)))
    ∧ ((if m.kind = 0 then emFirst (s.emHits m d.slice key) else s.tcamTarget m d.slice i) = none →
      (∀ e, m.kind ≠ 0 → i % 2 = 1 → s.tables.tcam.get? [stageOf m.stage, i - 1] = some e → ¬ (e.wide = true ∧ e.slice = d.slice ∧ e.table = m.id)) →
      due s (.tblRead d id i key) → ∃ t, exec (.tblRead d id i key) s = .next t ∧ completed s t d 0x14 0 0 ∧ partsBut [] s t ∧ fieldsBut [] s t)

/-- R85, R84: SLICE_COMMIT of a slice with fewer than four live generations, its commits on the way counted, prepares the step that raises G and completes nothing yet, or waits, where an earlier TBL_WRITE or SLICE_ABORT of the slice has not completed; with four it completes GEN_BACKLOG and changes nothing. Then: SLICE_ABORT empties the write log of P, completes with the number of writes undone and leaves G; an entry added under P, its only write, is freed, and one closed under P is open again. -/
def Obligations.SliceCommitAndAbort : Prop :=
  (∀ (s : State) (d : Hdr), served s d ⟨0x12, .config, true, true, 0⟩ (ownSlice d d.slice) (cleanHdr d true false false) → s.tables.passed = [] →
      ((s.genG d.slice + s.commitsPending d.slice + 65536 - s.genO d.slice) % 65536 + 1 < 4 → s.writesBefore d = false →
        due s (.sliceCommit d) → ∃ t, exec (.sliceCommit d) s = .next t ∧ t.host.cpls = s.host.cpls
          ∧ t.ras.steps = s.ras.steps ++ [⟨.commit d.slice, some d, s.owner, (s.ras.nextSeq + 1) % 2 ^ 32, ceilDiv (s.elapsed + 1024) 256 * 256,
              false, false, false, false, (s.genG d.slice + s.commitsPending d.slice + 1) % 65536⟩]
          ∧ partsBut [.ras] s t ∧ fieldsBut [] s t)
      ∧ ((s.genG d.slice + s.commitsPending d.slice + 65536 - s.genO d.slice) % 65536 + 1 < 4 → s.writesBefore d = true →
        due s (.sliceCommit d) → ∃ t, exec (.sliceCommit d) s = .next t ∧ t.host.cpls = s.host.cpls ∧ t.tables.passed = [d]
          ∧ t.commitsPending d.slice = s.commitsPending d.slice + 1 ∧ partsBut [.tables] s t ∧ fieldsBut [] s t)
      ∧ (4 ≤ (s.genG d.slice + s.commitsPending d.slice + 65536 - s.genO d.slice) % 65536 + 1 →
        due s (.sliceCommit d) → ∃ t, exec (.sliceCommit d) s = .next t ∧ completed s t d 0x16 0 0 ∧ partsBut [] s t ∧ fieldsBut [.SLC_CNT_v] s t))
  ∧ (∀ (s : State) (d : Hdr), served s d ⟨0x13, .config, true, true, 0⟩ (ownSlice d d.slice) (cleanHdr d true false false) →
      due s (.sliceAbort d) → ∃ t, exec (.sliceAbort d) s = .next t ∧ completed s t d 0 0 (s.plog d.slice).length
        ∧ t.plog d.slice = [] ∧ (∀ h : Half, t.rd .SLC_USAGE_log_used [h.n, d.slice] = 0)
        ∧ partsBut [.tables, .ras] s t ∧ fieldsBut [.SLC_USAGE_em_used, .SLC_USAGE_tcam_used, .SLC_USAGE_log_used] s t
        ∧ (∀ place e b, s.plog d.slice = [⟨0, false, place, b⟩] → s.tables.em.get? place = some e → t.tables.em.get? place = none)
        ∧ (∀ place e b, s.plog d.slice = [⟨1, false, place, b⟩] → s.tables.em.get? place = some e → t.tables.em.get? place = some { e with opn := true }))

/-- R87, R86, R302, R396: GEN_RETIRE of a slice whose oldest live generation O is below both halves' G, with both halves' counters at zero, ownership resolved, an engine for the owner's PROG routine and room in its queue, discards the log of O + 1 and makes O + 1 the oldest in both halves. Of the entries that this log names, each once here, those whose window ends at O are freed and counted in RECLAIMED, and those that begin at O + 1 are settled; a freed entry returns its quota, said of a log of one write. Where a frame still holds O it does nothing. Then: the first release message toward a half lowers that half's counter of its slice and leaves the bridge; while a half is UNRESOLVED none is applied. -/
def Obligations.GenerationsAndReferences : Prop :=
  (∀ (s : State) (sl : Nat) (log : List LogW) (ends : LogW → Bool),
      log = s.tables.clog.getD [sl, (s.genO sl + 1) % 65536] [] →
      ends = (fun w => match s.tblAt w.tcam w.place with | some e => !e.opn && decide (e.genHi = s.genO sl % 256) | none => false) →
      ((∀ h : Half, s.rd .SLC_GEN_cur_gen [h.n, sl] ≠ s.genO sl) → (∀ h : Half, s.rd .SLC_REFCNT_count [h.n, sl, s.genO sl % 4] = 0) → s.unresolved = false →
        s.serves s.owner 3 (retireBody sl) = true → s.xingBusy s.owner 3 0 = false → s.ras.poison = [] →
        ∃ t, exec (.genRetire sl) s = .next t
          ∧ (∀ h : Half, t.rd .SLC_GEN_oldest_live [h.n, sl] = (s.genO sl + 1) % 65536)
          ∧ t.tables.clog.get? [sl, (s.genO sl + 1) % 65536] = none
          ∧ ((log.map (fun w => (w.tcam, w.place))).Nodup →
            (∀ w ∈ log, ∀ e, s.tblAt w.tcam w.place = some e →
              t.tblAt w.tcam w.place = (if ends w then none else if e.genLo = (s.genO sl + 1) % 256 then some { e with settled := true } else some e))
            ∧ (∀ c k, (c, k) ∉ log.map (fun w => (w.tcam, w.place)) → t.tblAt c k = s.tblAt c k)
            ∧ t.rd .SLC_CNT_v [s.owner.n, sl, 2] = (s.rd .SLC_CNT_v [s.owner.n, sl, 2] + (log.filter ends).length) % 2 ^ 64)
          ∧ (∀ w e, log = [w] → ends w = true → s.tblAt w.tcam w.place = some e → ∀ h : Half,
            (if w.tcam then t.rd .SLC_USAGE_tcam_used [h.n, e.slice] = (s.rd .SLC_USAGE_tcam_used [h.n, e.slice] - (if e.wide then 2 else 1)) % 2 ^ 17
              else t.rd .SLC_USAGE_em_used [h.n, e.slice] = (s.rd .SLC_USAGE_em_used [h.n, e.slice] - 1) % 2 ^ 18))
          ∧ partsBut [.tables, .ras] s t
          ∧ fieldsBut [.SLC_GEN_oldest_live, .SLC_GEN_retiring, .SLC_USAGE_em_used, .SLC_USAGE_tcam_used, .SLC_CNT_v] s t)
      ∧ ((∃ h : Half, s.rd .SLC_REFCNT_count [h.n, sl, s.genO sl % 4] ≠ 0) →
        ∃ t, exec (.genRetire sl) s = .next t ∧ partsBut [] s t ∧ fieldsBut [] s t))
  ∧ (∀ (s : State) (h : Half),
      (∀ m, s.unresolved = false → s.tables.refRel.find? (fun m => m.1 = h) = some m →
        ∃ t, exec (.refcntRelease h) s = .next t
          ∧ t.rd .SLC_REFCNT_count [h.n, m.2.1, m.2.2] = (s.rd .SLC_REFCNT_count [h.n, m.2.1, m.2.2] - 1) % 2 ^ 24
          ∧ t.tables.refRel = s.tables.refRel.erase m ∧ partsBut [.tables] s t ∧ fieldsBut [.SLC_REFCNT_count] s t)
      ∧ (s.unresolved = true → ∃ t, exec (.refcntRelease h) s = .next t ∧ partsBut [] s t ∧ fieldsBut [] s t))

/-- R89: PROG_LOAD into a copy that may be written leaves it LOADED with the object's program when the object passes its checks and its table maps agree with the other copy's, and EMPTY with PROG_INVALID or LAYOUT_CONFLICT when they do not; PROG_LOAD of the active loaded copy is refused as COPY_ACTIVE; a failed read of the object leaves the copy EMPTY. -/
def Obligations.ProgLoad : Prop :=
  ∀ (s : State) (d : Hdr) (copy : Nat) (bs : List Byte),
    served s d ⟨0x18, .config, true, false, 0⟩ true (cleanHdr d false false true && decide (copy < 2)) → s.swap = none → d.buf = some bs →
    (∀ p, (copy = s.active → (s.prog copy).loaded = false) → progParse bs = some p →
      ((s.prog (1 - copy)).loaded = true → layoutsAgree p (s.prog (1 - copy)) = true) →
      due s (.progLoad d copy) → ∃ t, exec (.progLoad d copy) s = .next t ∧ completed s t d 0 0 0 ∧ t.prog copy = p ∧ t.prog (1 - copy) = s.prog (1 - copy)
        ∧ partsBut [.progA, .progB] s t ∧ fieldsBut [.MAT_PROG_CTL_a_loaded, .MAT_PROG_CTL_b_loaded, .MAT_PROG_DIGEST_v] s t)
    ∧ ((copy = s.active → (s.prog copy).loaded = false) → progParse bs = none →
      due s (.progLoad d copy) → ∃ t, exec (.progLoad d copy) s = .next t ∧ completed s t d 0x1A 0 0 ∧ t.prog copy = Prog.empty ∧ t.prog (1 - copy) = s.prog (1 - copy))
    ∧ (∀ p, (copy = s.active → (s.prog copy).loaded = false) → progParse bs = some p → (s.prog (1 - copy)).loaded = true →
      layoutsAgree p (s.prog (1 - copy)) = false →
      due s (.progLoad d copy) → ∃ t, exec (.progLoad d copy) s = .next t ∧ completed s t d 0x1B 0 0 ∧ t.prog copy = Prog.empty ∧ t.prog (1 - copy) = s.prog (1 - copy))
    ∧ (copy = s.active → (s.prog copy).loaded = true →
      due s (.progLoad d copy) → ∃ t, exec (.progLoad d copy) s = .next t ∧ completed s t d 1 0x22 0 ∧ partsBut [] s t ∧ fieldsBut [] s t)
    ∧ (∀ e, e = { d with buf := none } → (copy = s.active → (s.prog copy).loaded = false) → due s (.progLoad e copy) →
      ∃ t, exec (.progLoad e copy) s = .next t ∧ completed s t d 5 0 0 ∧ t.prog copy = Prog.empty ∧ t.prog (1 - copy) = s.prog (1 - copy)
        ∧ partsBut [.progA, .progB] s t ∧ fieldsBut [.MAT_PROG_CTL_a_loaded, .MAT_PROG_CTL_b_loaded, .MAT_PROG_DIGEST_v] s t)

/-- R91: PROG_SWAP with the other copy loaded enters DRAINING and prepares the flip; at the drain limit the swap is FORCED; once both halves have flipped, no old-tag frame is left and no release is deferred, it ends and completes with the copies freed, where an engine of the owner's PROGRAM routine serves it (R302). -/
def Obligations.ProgramSwap : Prop :=
  (∀ (s : State) (d : Hdr), served s d ⟨0x19, .maint, true, false, 0⟩ true (cleanHdr d false false false) → (s.prog (1 - s.active)).loaded = true →
    due s (.progSwap d) → ∃ t, exec (.progSwap d) s = .next t ∧ t.swap = some ⟨d, s.active, false, 0, 0⟩ ∧ t.rd .MAT_PROG_CTL_state [32] = 1
      ∧ t.ras.steps = s.ras.steps ++ [⟨.flip, none, s.owner, (s.ras.nextSeq + 1) % 2 ^ 32, ceilDiv (s.elapsed + 1024) 256 * 256, false, false, false, false, 0⟩]
      ∧ t.host.cpls = s.host.cpls ∧ partsBut [.swap, .ras] s t
      ∧ fieldsBut [.MAT_PROG_CTL_state, .SYS_MODE_mode, .SYS_MODE_base_mode, .SYS_MODE_maint_op] s t)
  ∧ (∀ (s : State) (d : Hdr), served s d ⟨0x19, .maint, true, false, 0⟩ true (cleanHdr d false false false) → (s.prog (1 - s.active)).loaded = false →
    due s (.progSwap d) → ∃ t, exec (.progSwap d) s = .next t ∧ completed s t d 1 0x23 0 ∧ partsBut [] s t ∧ fieldsBut [] s t)
  ∧ (∀ (s : State) (w : Swap), s.swap = some w → (s.flippedIn .E w.old = true ∨ s.flippedIn .W w.old = true) → s.rd .MAT_PROG_CTL_state [32] = 1 →
    s.drainLimit ≠ 0 → s.oldFrames ≠ [] →
    ∃ t, exec .progDrainLimit s = .next t ∧ t.rd .MAT_PROG_CTL_state [32] = 2)
  ∧ (∀ (s : State) (w : Swap), s.swap = some w → w.flipped = true → s.oldFrames = [] → s.ras.deferred = [] → s.serves s.owner 3 [0, 2] = true →
    ∃ t, exec .progSwapDrained s = .next t ∧ completed s t w.desc 0 0 w.forced ∧ t.swap = none ∧ t.rd .MAT_PROG_CTL_state [32] = 0
      ∧ partsBut [.swap] s t ∧ fieldsBut [.MAT_PROG_CTL_state, .SYS_MODE_mode, .SYS_MODE_base_mode, .SYS_MODE_maint_op] s t)

/-- R98, R119: FDB_INSERT of a well-formed key into a bucket that is not locked writes the entry, with the present tick as its stamp, into the owner's copy and, while the bridge is up, into the other, in the lowest free place, where no word it reads has an error; a key that is present is refused unless `replace` is given, which rewrites its entry; a slice at its quota is refused. -/
def Obligations.FdbInsert : Prop :=
  ∀ (s : State) (d : Hdr) (ka : KeyArg) (port adata : Nat) (static replace : Bool) (o : Half),
    served s d (fdbRule 0x20 true) (ownSlice d d.slice) (cleanHdr d true false false && decide (port < 1088)) →
    (fkeyOf ka d).bad = false → s.lockOf (s.fdbBucket (s.ringHalf d) (fkeyOf ka d)) = none → o = bucketOwner (s.fdbBucket (s.ringHalf d) (fkeyOf ka d)) →
    s.ras.poison = [] →
    (∀ p, s.fdbFind o (fkeyOf ka d) = none → s.rd .FDB_SLICE_USE_used [o.n, d.slice] < s.rd .FDB_SLICE_CFG_quota [o.n, d.slice] →
      s.fdbFree o (s.fdbBucket (s.ringHalf d) (fkeyOf ka d)) = some p →
      due s (.fdbInsert d ka port static replace adata) → ∃ t, exec (.fdbInsert d ka port static replace adata) s = .next t ∧ completed s t d 0 0 0
        ∧ t.fdbAt o p = some ⟨fkeyOf ka d, s.fdb.nowTick, port, adata, 0, 0, false, static, false⟩
        ∧ t.fdbAt o.other p = (if s.bridgeUp then some ⟨fkeyOf ka d, s.fdb.nowTick, port, adata, 0, 0, false, static, false⟩ else s.fdbAt o.other p)
        ∧ (∀ h q, q ≠ p → t.fdbAt h q = s.fdbAt h q)
        ∧ partsBut [.fdb, .ras] s t ∧ fieldsBut [.FDB_OCC_bucket_used, .FDB_OCC_ovf_used, .FDB_SLICE_USE_used, .HAM_CNT_v] s t)
    ∧ (∀ p e, s.fdbFind o (fkeyOf ka d) = some p → s.fdbAt o p = some e → replace = true →
      due s (.fdbInsert d ka port static replace adata) → ∃ t, exec (.fdbInsert d ka port static replace adata) s = .next t ∧ completed s t d 0 0 0
        ∧ t.fdbAt o p = some { e with port := port, adata := adata, static := static, stamp := s.fdb.nowTick }
        ∧ (∀ h q, q ≠ p → t.fdbAt h q = s.fdbAt h q) ∧ partsBut [.fdb, .ras] s t
        ∧ fieldsBut [.FDB_OCC_bucket_used, .FDB_OCC_ovf_used, .FDB_SLICE_USE_used, .HAM_CNT_v] s t)
    ∧ (∀ p e, s.fdbFind o (fkeyOf ka d) = some p → s.fdbAt o p = some e → replace = false →
      due s (.fdbInsert d ka port static replace adata) → ∃ t, exec (.fdbInsert d ka port static replace adata) s = .next t ∧ completed s t d 0x12 0 0 ∧ (∀ h q, t.fdbAt h q = s.fdbAt h q))
    ∧ (s.fdbFind o (fkeyOf ka d) = none → s.rd .FDB_SLICE_CFG_quota [o.n, d.slice] ≤ s.rd .FDB_SLICE_USE_used [o.n, d.slice] →
      due s (.fdbInsert d ka port static replace adata) → ∃ t, exec (.fdbInsert d ka port static replace adata) s = .next t ∧ completed s t d 0x11 0 0 ∧ (∀ h q, t.fdbAt h q = s.fdbAt h q))

/-- R119: FDB_DELETE, FDB_UNFREEZE and FDB_FLUSH, where no bucket they touch is locked and no word has an error: the deleted key's way is empty in the owner's copy when its bucket has no overflow entries; FDB_UNFREEZE clears `frozen` and the move count; FDB_FLUSH completes with the number of entries that its tests name. -/
def Obligations.FdbDeleteUnfreezeFlush : Prop :=
  ∀ (s : State) (d : Hdr) (ka : KeyArg) (o : Half), o = bucketOwner (s.fdbBucket (s.ringHalf d) (fkeyOf ka d)) → (fkeyOf ka d).bad = false → s.ras.poison = [] →
    (s.lockOf (s.fdbBucket (s.ringHalf d) (fkeyOf ka d)) = none → served s d (fdbRule 0x21 true) (ownSlice d d.slice) (cleanHdr d true false false) →
      (∀ p, s.fdbFind o (fkeyOf ka d) = some p →
        due s (.fdbDelete d ka) → ∃ t, exec (.fdbDelete d ka) s = .next t ∧ completed s t d 0 0 0 ∧ partsBut [.fdb, .ras] s t
          ∧ fieldsBut [.FDB_OCC_bucket_used, .FDB_OCC_ovf_used, .FDB_SLICE_USE_used, .HAM_CNT_v] s t
          ∧ (s.fdbOvfOf o (s.fdbBucket (s.ringHalf d) (fkeyOf ka d)) = [] → t.fdbAt o p = none ∧ (∀ h q, q ≠ p → t.fdbAt h q = s.fdbAt h q)))
      ∧ (s.fdbFind o (fkeyOf ka d) = none → due s (.fdbDelete d ka) → ∃ t, exec (.fdbDelete d ka) s = .next t ∧ completed s t d 0x14 0 0 ∧ (∀ h q, t.fdbAt h q = s.fdbAt h q)))
    ∧ (s.lockOf (s.fdbBucket (s.ringHalf d) (fkeyOf ka d)) = none → served s d (fdbRule 0x26 true) (ownSlice d d.slice) (cleanHdr d true false false) →
      ∀ p e, s.fdbFind o (fkeyOf ka d) = some p → s.fdbAt o p = some e →
        due s (.fdbUnfreeze d ka) → ∃ t, exec (.fdbUnfreeze d ka) s = .next t ∧ completed s t d 0 0 0 ∧ t.fdbAt o p = some { e with frozen := false, moves := 0 }
          ∧ (∀ h q, q ≠ p → t.fdbAt h q = s.fdbAt h q) ∧ partsBut [.fdb, .ras] s t)
    ∧ (∀ (bySlice byPort byScope inclStatic : Bool) (scope port : Nat) (sel : FdbEnt → Bool),
      sel = (fun e => (!bySlice || e.key.slice = d.slice) && (!byPort || e.port = port) && (!byScope || e.key.scope = scope) && (inclStatic || !e.static)) →
      served s d (fdbRule 0x27 true) (d.fn = 0 || (bySlice && ownSlice d d.slice))
        (cleanHdr d bySlice false false && (byPort || port = 0) && (byScope || scope = 0) && decide (port < 1088)) → s.fdb.locks = [] →
      due s (.fdbFlush d bySlice byPort byScope inclStatic scope port) → ∃ t, exec (.fdbFlush d bySlice byPort byScope inclStatic scope port) s = .next t
        ∧ completed s t d 0 0 ((ownSel s .E sel).length + (ownSel ((s.lockDone d).fdbDeleteAll .E sel d.fn).2 .W sel).length)
        ∧ partsBut [.fdb, .ras] s t ∧ fieldsBut [.FDB_OCC_bucket_used, .FDB_OCC_ovf_used, .FDB_SLICE_USE_used, .HAM_CNT_v] s t
        ∧ ((∀ x ∈ s.fdb.ents, sel x.2 = false) → ∀ h q, t.fdbAt h q = s.fdbAt h q))

/-- R115–R118, R117: LOCK of a free bucket with room in the owner's lock table records the lock with the next token and completes with it; UNLOCK and FDB_WAY_WRITE under the holding token release the lock and write the way in the owner's copy; under a token that holds nothing they complete LOCK_NOT_HELD, or LOCK_LOST where the token's lock was broken, and change no entry; nothing waits for the bucket, no deletion of a port's entries and no resynchronisation. Then: a LOCK that finds its bucket locked waits; each LOCK_RETRY that finds it still locked uses up one of its retries, and the last one completes it with LOCK_TIMEOUT; a retry that finds the bucket free completes it with the next token. -/
def Obligations.FdbHostLockAndRetry : Prop :=
  (∀ (s : State) (d : Hdr) (b : Nat),
      (served s d (fdbRule 0x23 false) true (cleanHdr d false false false && decide (b < 1048576)) → s.lockOf b = none → s.hostLocks (bucketOwner b) < 256 →
        due s (.lock d b) → ∃ t, exec (.lock d b) s = .next t ∧ completed s t d 0 0 (nextToken (s.lastToken (bucketOwner b)))
          ∧ t.lockOf b = some ⟨true, nextToken (s.lastToken (bucketOwner b)), d.fn, s.leaseEnd (bucketOwner b)⟩
          ∧ (∀ c, bucketOwner c = bucketOwner b → c ≠ b → t.lockOf c = s.lockOf c) ∧ t.fdb.ents = s.fdb.ents ∧ partsBut [.fdb] s t ∧ fieldsBut [.HAM_CNT_v] s t)
      ∧ (served s d (fdbRule 0x24 false) true (cleanHdr d false true false && decide (b < 1048576)) →
        (s.heldBy b d.token = true → s.fdb.portDel = [] → s.fdb.resyncLeft = [] →
          due s (.unlock d b) → ∃ t, exec (.unlock d b) s = .next t ∧ completed s t d 0 0 0 ∧ t.lockOf b = none ∧ t.fdb.ents = s.fdb.ents ∧ partsBut [.fdb] s t ∧ fieldsBut [.HAM_CNT_v] s t)
        ∧ (s.heldBy b d.token = false → due s (.unlock d b) → ∃ t, exec (.unlock d b) s = .next t ∧ t.fdb = s.fdb
            ∧ (if (s.fdb.broken.get? [(bucketOwner b).n, b, d.token]).isSome then completed s t d 0x19 0 0 else completed s t d 1 0x48 0)))
      ∧ (∀ (way : Nat) (bs : List Byte),
        served s d (fdbRule 0x25 false) true (cleanHdr d false true true && decide (b < 1048576) && decide (way < 4) && decide (32 ≤ d.hlen)) → d.buf = some bs →
        (∀ e, s.heldBy b d.token = true → entOf bs = some e → (∀ x ∈ s.fdb.ents, x.2.key ≠ e.key) →
          due s (.fdbWayWrite d b way) → ∃ t, exec (.fdbWayWrite d b way) s = .next t ∧ completed s t d 0 0 0 ∧ t.fdbAt (bucketOwner b) [b, way] = some e
            ∧ (∀ h q, q ≠ [b, way] → t.fdbAt h q = s.fdbAt h q) ∧ t.fdb.locks = s.fdb.locks ∧ partsBut [.fdb, .ras] s t)
        ∧ (s.heldBy b d.token = false → due s (.fdbWayWrite d b way) → ∃ t, exec (.fdbWayWrite d b way) s = .next t ∧ t.fdb = s.fdb
            ∧ (if (s.fdb.broken.get? [(bucketOwner b).n, b, d.token]).isSome then completed s t d 0x19 0 0 else completed s t d 1 0x48 0))))
  ∧ (∀ (s : State) (d : Hdr) (b left : Nat), served s d (fdbRule 0x23 false) true (cleanHdr d false false false && decide (b < 1048576)) →
      (s.fdb.retries = [] → (s.lockOf b).isSome = true → 0 < s.rd .FDB_LOCK_CFG_read_retry [(bucketOwner b).n] →
        due s (.lock d b) → ∃ t, exec (.lock d b) s = .next t ∧ t.host.cpls = s.host.cpls ∧ t.fdb.retries = [⟨d, .lock d b, s.rd .FDB_LOCK_CFG_read_retry [(bucketOwner b).n]⟩])
      ∧ (∀ l, s.fdb.retries = [⟨d, .lock d b, left⟩] → s.lockOf b = some l → left ≠ noLimit → 0 < s.rd .FDB_LOCK_CFG_read_retry [(bucketOwner b).n] →
        ∃ t, exec (.lockRetry d.fn d.ring d.cnt) s = .next t ∧ t.lockOf b = some l
          ∧ (if left ≤ 1 then completed s t d 0x18 0 0 ∧ t.fdb.retries = [] else t.host.cpls = s.host.cpls ∧ t.fdb.retries = [⟨d, .lock d b, left - 1⟩]))
      ∧ (s.fdb.retries = [⟨d, .lock d b, left⟩] → s.lockOf b = none → s.hostLocks (bucketOwner b) < 256 →
        ∃ t, exec (.lockRetry d.fn d.ring d.cnt) s = .next t ∧ completed s t d 0 0 (nextToken (s.lastToken (bucketOwner b))) ∧ t.fdb.retries = []))

/-- R117, R119, R121: FDB_READ of a bucket that is free, or held under the descriptor's token, and that the ring's half may read, its words without errors, writes the entry of the key (mode 0), of the bucket's four ways (mode 1, with the number of its overflow entries as the result) or of the overflow index (mode 2) and completes OK, or NOT_FOUND where there is none. -/
def Obligations.FdbRead : Prop :=
  ∀ (s : State) (d : Hdr) (ka : KeyArg) (mode idx b : Nat) (o : Half) (out : Option (List Byte × Nat)),
    served s d ⟨0x22, .reads, false, true, 0⟩ (ownSlice d d.slice && (d.fn = 0 || mode = 0))
      (cleanHdr d true true true && (match mode with | 0 => true | 1 => decide (idx < 1048576) | 2 => decide (idx < 16384) | _ => false)
        && decide ((if mode = 1 then 128 else 32) ≤ d.hlen)) →
    b = (match mode with | 0 => s.fdbBucket (s.ringHalf d) (fkeyOf ka d) | 1 => idx | _ => s.fdbBucketAt (Half.of (idx / 8192)) [ovfBucket, idx]) →
    o = (if mode = 2 then Half.of (idx / 8192) else bucketOwner b) →
    out = (match mode with
      | 0 => (s.fdbFind o (fkeyOf ka d)).map (fun p => (entBytes (s.fdbAt o p), 0))
      | 1 => some ((List.range 4).flatMap (fun w => entBytes (s.fdbAt o [idx, w])), (s.fdbOvfOf o idx).length)
      | _ => (s.fdbAt o [ovfBucket, idx]).map (fun e => (entBytes (some e), 0))) →
    (mode = 0 → (fkeyOf ka d).bad = false) → (s.bridgeUp = true ∨ o = s.ringHalf d) → (d.token = 0 ∨ s.fdb.broken.get? [o.n, b, d.token] = none) →
    (s.lockOf b = none ∨ s.heldBy b d.token = true) → d.buf.isSome = true → s.ras.poison = [] →
    due s (.fdbRead d mode ka idx) → ∃ t, exec (.fdbRead d mode ka idx) s = .next t ∧ t.fdb.ents = s.fdb.ents ∧ t.fdb.locks = s.fdb.locks ∧ partsBut [.fdb] s t ∧ fieldsBut [] s t
      ∧ (match out with
        | some x => completed s t d 0 0 x.2 ∧ (s.on .HST_RING_CFG_en [d.fn, d.ring + 4] = false → s.on .HST_RING_CFG_en [0, 8] = false → t.host.mem = s.host.mem.setBytes d.haddr x.1)
        | none => completed s t d 0x14 0 0)

/-- R107, R108, R109: a learn event on the bridge joins its owner's queue; the owner applies the event at the head of its queue, for a key that is absent and within quota, by writing the entry in its own copy and, while the bridge is up, sending it to the other half under the bucket's lock; the write lands there and is acknowledged; the acknowledgement releases the lock. -/
def Obligations.FdbLearning : Prop :=
  (∀ (s : State) (h : Half) (e : Half × LearnEv), s.fdb.learns.find? (fun e => e.1 = h) = some e → (s.fdb.learnQ.filter (fun e => e.1 = h)).length < 4096 → s.xingBusy h 3 0 = false →
    ∃ t, exec (.learnEventEnqueue h) s = .next t ∧ t.fdb.learnQ = s.fdb.learnQ ++ [(h, e.2)] ∧ t.fdb.learns = s.fdb.learns.erase e
      ∧ t.rd .FDB_CNT_v [h.n, 2] = (s.rd .FDB_CNT_v [h.n, 2] + 1) % 2 ^ 64 ∧ partsBut [.fdb] s t ∧ fieldsBut [.FDB_CNT_v] s t)
  ∧ (∀ (s : State) (h : Half) (ev : LearnEv) (rest : List (Half × LearnEv)) (p : List Nat) (b : Nat), b = s.fdbBucket h ev.key →
    s.learnBusy h = false → s.serves h 4 [BitVec.ofNat 64 ev.key.addr] = true → s.ras.poison = [] → s.fdb.defer = [] → s.on .FDB_LEARN_CFG_learn_run [h.n] = true → s.fdb.learnQ = (h, ev) :: rest → s.lockOf b = none →
    s.fdbFind h ev.key = none → s.rd .FDB_SLICE_USE_used [h.n, ev.key.slice] < s.rd .FDB_SLICE_CFG_quota [h.n, ev.key.slice] → s.fdbFree h b = some p →
    ∃ t, exec (.learnApply h) s = .next t ∧ t.fdb.learnQ = rest
      ∧ t.fdbAt h p = some ⟨ev.key, s.fdb.nowTick, ev.port, 0, 0, 0, false, false, true⟩ ∧ (∀ x q, (x, q) ≠ (h, p) → t.fdbAt x q = s.fdbAt x q)
      ∧ (if s.bridgeUp then t.fdb.msgs = s.fdb.msgs ++ [⟨h.other, b, p, some ⟨ev.key, s.fdb.nowTick, ev.port, 0, 0, 0, false, false, true⟩⟩] ∧ t.learnBusy h = true
        else t.fdb.msgs = s.fdb.msgs)
      ∧ partsBut [.fdb, .ras] s t ∧ fieldsBut [.FDB_CNT_v, .FDB_OCC_bucket_used, .FDB_OCC_ovf_used, .FDB_SLICE_USE_used, .HAM_CNT_v] s t)
  ∧ (∀ (s : State) (h : Half) (m : FdbMsg), s.fdb.msgs.find? (fun m => m.dst = h) = some m →
    ∃ t, exec (.fdbRemoteWrite h) s = .next t ∧ t.fdbAt h m.place = m.ent ∧ (∀ x q, (x, q) ≠ (h, m.place) → t.fdbAt x q = s.fdbAt x q)
      ∧ t.fdb.msgs = s.fdb.msgs.erase m ∧ t.fdb.acks = s.fdb.acks ++ [(h.other, m.bucket)] ∧ partsBut [.fdb, .ras] s t
      ∧ fieldsBut [.FDB_OCC_bucket_used, .FDB_OCC_ovf_used, .FDB_SLICE_USE_used] s t)
  ∧ (∀ (s : State) (h : Half) (m : Half × Nat), s.fdb.acks.find? (fun m => m.1 = h) = some m → s.hostHeld m.2 = false → s.fdb.portDel = [] → s.fdb.resyncLeft = [] →
    ∃ t, exec (.fdbWriteAck h) s = .next t ∧ t.lockOf m.2 = none ∧ t.learnBusy h = false ∧ t.fdb.acks = s.fdb.acks.erase m ∧ t.fdb.ents = s.fdb.ents
      ∧ partsBut [.fdb] s t ∧ fieldsBut [.HAM_CNT_v] s t)

/-- R102, R96, R122: a hit notice writes the present tick into the owner's stamp where the key still stands at its place and can be read; a stamp write that is skipped leaves the stamp before the hit, or the one that a later hit of the key there has written, and is counted in HIT_STAMP_SKIP. Then: a resynchronisation in progress, no bucket of its owner being locked and no word having an error, copies every word that the owner owns into the other half's copy and ends with FDB_RESYNC_DONE for its owner and `resync` cleared; a write of the seed is refused in both halves while the FDB holds an entry, and takes effect in the half written when it is empty. -/
def Obligations.HitStampsResyncAndSeed : Prop :=
  ((∀ (s : State) (h : Half) (m : Half × List Nat × FKey) (e : FdbEnt), s.fdb.hits.find? (fun m => m.1 = h) = some m → s.fdbAt h m.2.1 = some e → s.ras.poison = [] →
      ∃ t, exec (.hitNotice h) s = .next t ∧ t.fdb.hits = s.fdb.hits.erase m
        ∧ t.fdbAt h m.2.1 = some (if e.key = m.2.2 then { e with stamp := s.fdb.nowTick } else e)
        ∧ (∀ x q, (x, q) ≠ (h, m.2.1) → t.fdbAt x q = s.fdbAt x q) ∧ partsBut [.fdb] s t ∧ fieldsBut [] s t)
    ∧ (∀ (s : State) (h : Half) (g : Half × List Nat × FKey × Nat × Nat) (e : FdbEnt), s.fdb.tags.find? (fun t => t.1 = h) = some g → s.fdbAt h g.2.1 = some e →
      (s.fdb.tags.erase g).find? (sameTag g) = none →
      ∃ t, exec (.hitStampSkip h) s = .next t ∧ t.fdb.tags = s.fdb.tags.erase g
        ∧ t.fdbAt h g.2.1 = some (if e.key = g.2.2.1 then { e with stamp := g.2.2.2.1 } else e)
        ∧ t.rd .FDB_CNT_v [h.n, 15] = (s.rd .FDB_CNT_v [h.n, 15] + 1) % 2 ^ 64
        ∧ (∀ x q, (x, q) ≠ (h, g.2.1) → t.fdbAt x q = s.fdbAt x q) ∧ partsBut [.fdb] s t ∧ fieldsBut [.FDB_CNT_v] s t)
    ∧ (∀ (s : State) (h : Half) (g : Half × List Nat × FKey × Nat × Nat), s.fdb.tags.find? (fun t => t.1 = h) = some g →
      ((s.fdb.tags.erase g).find? (sameTag g)).isSome = true →
      ∃ t, exec (.hitStampSkip h) s = .next t ∧ t.fdb.ents = s.fdb.ents ∧ t.fdb.tags.length = (s.fdb.tags.erase g).length
        ∧ t.rd .FDB_CNT_v [h.n, 15] = (s.rd .FDB_CNT_v [h.n, 15] + 1) % 2 ^ 64 ∧ partsBut [.fdb] s t ∧ fieldsBut [.FDB_CNT_v] s t))
  ∧ ((∀ (s : State) (h : Half), s.fdb.resync.contains h = true → s.fdb.locks.any (fun l => l.1.head? = some h.n) = false →
      s.fdb.resyncLeft.any (fun d => d.1 = h) = false → s.ras.poison = [] →
      ∃ t, exec (.fdbResyncDone h) s = .next t ∧ h ∉ t.fdb.resync ∧ t.rd .FDB_STAT_resync [h.n] = 0
        ∧ (∀ p ∈ ownWords h, t.fdbAt h.other p = s.fdbAt h p ∧ t.fdbAt h p = s.fdbAt h p)
        ∧ (∃ es, t.host.events = s.host.events ++ es ++ [⟨0x0013, h.n, record 32 [(0, 1, h.n), (4, 4, 524288)]⟩]) ∧ partsBut [.fdb, .ras] s t
        ∧ fieldsBut [.FDB_STAT_resync, .HAM_CNT_v, .FDB_OCC_bucket_used, .FDB_OCC_ovf_used, .FDB_SLICE_USE_used] s t)
    ∧ (∀ (s : State) (h : Half) (v : Nat), v < 2 ^ 32 →
      ((∃ x : Half, s.rd .FDB_OCC_bucket_used [x.n] ≠ 0 ∨ s.rd .FDB_OCC_ovf_used [x.n] ≠ 0) →
        s.regOff (decide (h = .W)) = false → ∃ t, exec (.fdbSeedWrite h v) s = .next t ∧ (∀ x : Half, t.rd .FDB_SEED_rejected [x.n] = 1 ∧ t.rd .FDB_SEED_seed [x.n] = s.rd .FDB_SEED_seed [x.n])
          ∧ partsBut [] s t ∧ fieldsBut [.FDB_SEED_rejected] s t)
      ∧ ((∀ x : Half, s.rd .FDB_OCC_bucket_used [x.n] = 0 ∧ s.rd .FDB_OCC_ovf_used [x.n] = 0) →
        s.regOff (decide (h = .W)) = false → ∃ t, exec (.fdbSeedWrite h v) s = .next t ∧ t.rd .FDB_SEED_seed [h.n] = v ∧ partsBut [.ras] s t
          ∧ fieldsBut [.FDB_SEED_seed, .RAS_OWN_STAT_mirror_split] s t)))

/-- R112, R113, R115, R116: `now_tick` advances by one modulo 65,536 at its time; where a half's count of ticks is over, a sweep begins there and `sweep` ticks are counted anew (the count's start is the model's: log entry 82); the ager, while it runs, the bucket is free and not yet visited in its sweep and no stamp write is on its way, deletes a dynamic entry whose age reaches its slice's limit, here the only entry of a bucket without overflow entries, and keeps a younger or static one; a lock whose lease ends is broken, and a host lock's token is then known as lost. -/
def Obligations.AgeingAndLeases : Prop :=
  (∀ (s : State), ∃ t, exec .nowTickAdvance s = .next t ∧ t.fdb.nowTick = (s.fdb.nowTick + 1) % 65536 ∧ t.fdb.ents = s.fdb.ents
    ∧ t.time.elapsed = max s.time.elapsed s.fdb.tickDue ∧ partsBut [.fdb, .time] s t ∧ fieldsBut [] s t
    ∧ (∀ h : Half, s.xingBusy h 4 0 = false → s.on .FDB_AGE_CFG_age_run [h.n] = true → s.fdb.sweepLeft.getD [h.n] 0 ≤ 1 →
      (∀ b, t.fdb.swept.getD [h.n, b] false = false) ∧ t.fdb.sweepLeft.getD [h.n] 0 = max 1 (min 16384 (s.rd .FDB_AGE_CFG_sweep [h.n]))))
  ∧ (∀ (s : State) (b : Nat) (e : FdbEnt) (o : Half), o = bucketOwner b → b < 1048576 → s.on .FDB_AGE_CFG_age_run [o.n] = true → s.lockOf b = none →
    s.fdbAt o [b, 0] = some e → (∀ w, 0 < w → w < 4 → s.fdbAt o [b, w] = none) → s.fdbOvf o = [] →
    s.serves o 5 [] = true → s.fdb.swept.getD [o.n, b] false = false → s.ras.poison = [] → s.fdb.hits = [] → s.fdb.tags = [] →
    ∃ t, exec (.agerVisit b) s = .next t
      ∧ t.fdbAt o [b, 0] = (if e.static = false ∧ s.on .FDB_SLICE_CFG_age_en [o.n, e.key.slice] = true
          ∧ max 1 (s.rd .FDB_SLICE_CFG_age_limit [o.n, e.key.slice]) ≤ (s.fdb.nowTick + 65536 - e.stamp) % 65536 then none else some e)
      ∧ partsBut [.fdb, .ras] s t ∧ fieldsBut [.FDB_CNT_v, .FDB_OCC_bucket_used, .FDB_OCC_ovf_used, .FDB_SLICE_USE_used, .HAM_CNT_v] s t)
  ∧ (∀ (s : State) (b : Nat) (l : Lock), s.lockOf b = some l → s.serves (bucketOwner b) 0 [BitVec.ofNat 64 b] = true → s.xingBusy (bucketOwner b) 4 0 = false → s.fdb.portDel = [] →
    s.fdb.resyncLeft = [] →
    ∃ t, exec (.lockLeaseExpiry b) s = .next t ∧ t.lockOf b = none ∧ t.fdb.ents = s.fdb.ents ∧ t.time.elapsed = max s.time.elapsed l.expiry
      ∧ (l.host = true → t.fdb.broken.get? [(bucketOwner b).n, b, l.token] = some 1)
      ∧ t.rd .FDB_CNT_v [(bucketOwner b).n, 16] = (s.rd .FDB_CNT_v [(bucketOwner b).n, 16] + 1) % 2 ^ 64)

/-- R26, R45, R51, R54, R86: PARSE of a pipe takes the frame that its arbiter grants, while the active program copy is loaded and the device forwards. A frame whose parse raises no event goes to the first stage with its port, and its pass number one higher if it recirculates; a frame that is not recirculated counts in the reference counter of its slice and generation. -/
def Obligations.ParseSendsToStages : Prop :=
  ∀ (s u : State) (pipe : Nat) (f : Frame) (p : Prog) (ps : PState) (pix : List Nat),
    (s.prog (s.activeOf (pipeHalf pipe))).loaded = true → 2 ≤ s.mode ∧ s.mode ≤ 5 → s.arbitrate pipe = (some f, u) →
    p = s.prog (if 1024 ≤ f.inPort ∧ f.inPort < 1056 then f.tag else s.activeOf (pipeHalf pipe)) →
    pix = [pipe, s.rd .PAR_PORT_CFG_profile [pipe, parEntry f.inPort]] →
    ps = parseRun p (f.bytes.take (f.bytes.length - 4)) (max 1 (min 16 (s.rd .PAR_PROFILE_hdr_limit pix))) (max 64 (min 512 (s.rd .PAR_PROFILE_depth_limit pix))) 18 PState.start →
    ps.conflict = false → ps.short = false → ps.trunc = false →
    ∃ t g, exec (.parse pipe) s = .next t ∧ became s t f.id g ∧ g.loc = .stages ∧ g.stage = 0 ∧ g.bytes = f.bytes ∧ g.ctr = ps.ctr ∧ g.inPort = f.inPort
      ∧ g.pass = (if 1024 ≤ f.inPort ∧ f.inPort < 1056 then (f.pass + 1) % 8 else 0)
      ∧ (¬ (1024 ≤ f.inPort ∧ f.inPort < 1056) → g.rhalf = pipeHalf pipe
          ∧ t.rd .SLC_REFCNT_count [g.rhalf.n, g.slice, g.gen % 4] = (s.rd .SLC_REFCNT_count [g.rhalf.n, g.slice, g.gen % 4] + 1) % 2 ^ 24)
      ∧ partsBut [.frames, .sched] s t ∧ fieldsBut [.SLC_REFCNT_count, .TEL_PORT_CNT_v, .TEL_SLICE_CNT_v] s t

/-- R35, R60, R61, R76, R172, R173, R276, R315: STAGE_PASS takes a frame through its next stage: it performs the operations of the action program that the stage's lookups choose, in list order. Between I19 and E11 its bytes and the frames around it stay; after I19 the frame's fate is decided, and after E11 an explicit drop frees the copy. A frame that an earlier one of its pipe is not ahead of waits: the command then does nothing (log entry 69). A mirror copy only passes the egress stages, on to the deparser after E11. REG_MISSED marks the frame's next REG operation as not performed. The operations: SET and ADD write a container, with the operand's or the wrapped sum's low bits; FWD sets `dest` and `fwd_valid`, DROP, TRAP and MIRROR set their requests with the reason and the session; METER colours by the two buckets of an enabled policer. After I19, with no mirror request, learn candidate or launch time: a NO_MATCH is counted and dropped, trapped with reason 0x04, or sent to the profile's port; an explicit drop, trap or `dest` decides where there is none. How the bits of an action program spell its operations is the model's (log entry 12). -/
def Obligations.StagePassAndRegMissed : Prop :=
  (∀ (s u : State) (id : Nat) (f : Frame) (c : Option (Nat × Nat)) (r : Frame × State), s.fr? id = some f → f.loc = .stages →
    s.choose (s.prog f.tag) f.pipe f.stage f = (c, u) →
    r = (match c with
      | some (act, adata) => u.runOps f.pipe (decide (20 ≤ f.stage)) adata f (oneReg false ((Config.decodeActionProgram ((s.prog f.tag).act.getD [f.stage, act] 0)).take 16))
      | none => (f, u)) →
    (f.stage ≠ 19 → f.stage < 31 → s.stageHeld f = false →
      ∃ t g, exec (.stagePass id) s = .next t ∧ became s t id g ∧ g.loc = .stages ∧ g.stage = f.stage + 1 ∧ g.bytes = f.bytes ∧ g.out = f.out
        ∧ (f.mirror = false → f.fdbRes = none → f.stage ≠ 20 → f.stage ≠ s.rd .FDB_REQ_issue_stage [(pipeHalf f.pipe).n, f.tag] → g = { r.1 with stage := f.stage + 1 })
        ∧ partsBut [.frames, .fresh, .fdb, .sched, .tel, .clove, .ras] s t)
    ∧ (f.stage = 19 → f.mirror = false → f.fdbRes = none → s.rd .FDB_REQ_issue_stage [(pipeHalf f.pipe).n, f.tag] ≠ 19 → s.stageHeld f = false →
      exec (.stagePass id) s = .next (settle (r.2.afterI19 { r.1 with stage := 20 })))
    ∧ (f.stage = 31 → f.mirror = false → f.fdbRes = none → r.1.m 273 1 = 0 → s.stageHeld f = false →
      ∃ t, exec (.stagePass id) s = .next t ∧ became s t id { r.1 with stage := 32, loc := .deparse })
    ∧ (f.stage = 31 → f.mirror = false → f.fdbRes = none → r.1.m 273 1 = 1 → s.stageHeld f = false →
      ∃ t, exec (.stagePass id) s = .next t ∧ dropped s t id f.egress 2)
    ∧ (f.mirror = true → 20 < f.stage → f.fdbRes = none → s.stageHeld f = false →
      ∃ t, exec (.stagePass id) s = .next t ∧ became s t id { f with stage := f.stage + 1, loc := if 31 ≤ f.stage then .deparse else .stages }
        ∧ partsBut [.frames] s t ∧ fieldsBut [] s t)
    ∧ (s.stageHeld f = true → ∃ t, exec (.stagePass id) s = .next t ∧ t.host = s.host ∧ partsBut [] s t ∧ fieldsBut [] s t)
    ∧ (∃ t, exec (.regMissed id) s = .next t ∧ became s t id { f with regMiss := true } ∧ partsBut [.frames] s t ∧ fieldsBut [] s t))
  ∧ (∀ (s : State) (pipe adata : Nat) (eg : Bool) (f : Frame),
    (∀ cls idx a, ctrOk cls idx = true → ∃ g, s.opStep pipe eg adata f (.set (.ctr cls idx) a) = (g, s) ∧ g.c cls idx = srcVal f adata a % 2 ^ clsW cls
        ∧ (∀ x y, (x, y) ≠ (cls, idx) → g.c x y = f.c x y) ∧ g.md = f.md)
    ∧ (∀ w cls idx a b, ctrOk cls idx = true → w = clsW cls → ∃ g, s.opStep pipe eg adata f (.alu .add w (.ctr cls idx) a b) = (g, s)
        ∧ g.c cls idx = (srcVal f adata a + srcVal f adata b) % 2 ^ w ∧ (∀ x y, (x, y) ≠ (cls, idx) → g.c x y = f.c x y) ∧ g.md = f.md)
    ∧ (∀ a, ∃ g, s.opStep pipe false adata f (.fwd a) = (g, s) ∧ g.dest = srcVal f adata a % 2 ^ 11 ∧ g.m 256 1 = 1 ∧ g.ctr = f.ctr ∧ g.inPort = f.inPort ∧ g.slice = f.slice)
    ∧ (∃ g, s.opStep pipe eg adata f .drop = (g, s) ∧ g.m 273 1 = 1 ∧ g.m 274 1 = f.m 274 1 ∧ g.m 256 1 = f.m 256 1 ∧ g.ctr = f.ctr)
    ∧ (∀ a, ∃ g, s.opStep pipe eg adata f (.trap a) = (g, s) ∧ g.m 274 1 = 1 ∧ g.m 107 8 = srcVal f adata a % 2 ^ 8 ∧ g.m 273 1 = f.m 273 1 ∧ g.ctr = f.ctr)
    ∧ (∀ a, ∃ g, s.opStep pipe eg adata f (.mirror a) = (g, s) ∧ g.m 275 1 = 1 ∧ g.m 276 6 = srcVal f adata a % 2 ^ 6 ∧ g.m 273 1 = f.m 273 1 ∧ g.ctr = f.ctr)
    ∧ (∀ a n h b, n = srcVal f adata a % 16384 → h = pipeHalf pipe → b = s.counted h (f.m 282 4) f.len →
      ((s.sched.pol.getD [h.n, n] Pol.off).cur.en = false ∨ f.color = 3 → s.opStep pipe false adata f (.meter a) = (f, s))
      ∧ (∀ p pre, p = s.sched.pol.getD [h.n, n] Pol.off → p.cur.en = true → f.color ≠ 3 → pre = (if p.cur.aware = true then f.color else 0) →
        ∃ g t q, s.opStep pipe false adata f (.meter a) = (g, t) ∧ t.sched.pol.get? [h.n, n] = some q ∧ q.cur = p.cur ∧ g.ctr = f.ctr
          ∧ (if pre = 2 ∨ p.tp < ((b * 4096 : Nat) : Int) then g.color = (if p.cur.redDrop = true then 3 else 2) ∧ q.tp = p.tp ∧ q.tc = p.tc
              ∧ t.rd .SHP_POL_CNT_v [h.n, n, 4] = (s.rd .SHP_POL_CNT_v [h.n, n, 4] + 1) % 2 ^ 64 ∧ t.rd .SHP_POL_CNT_v [h.n, n, 5] = (s.rd .SHP_POL_CNT_v [h.n, n, 5] + b) % 2 ^ 64
            else if pre = 1 ∨ p.tc < ((b * 4096 : Nat) : Int) then g.color = 1 ∧ q.tp = p.tp - ((b * 4096 : Nat) : Int) ∧ q.tc = p.tc
              ∧ t.rd .SHP_POL_CNT_v [h.n, n, 2] = (s.rd .SHP_POL_CNT_v [h.n, n, 2] + 1) % 2 ^ 64 ∧ t.rd .SHP_POL_CNT_v [h.n, n, 3] = (s.rd .SHP_POL_CNT_v [h.n, n, 3] + b) % 2 ^ 64
            else g.color = 0 ∧ q.tp = p.tp - ((b * 4096 : Nat) : Int) ∧ q.tc = p.tc - ((b * 4096 : Nat) : Int)
              ∧ t.rd .SHP_POL_CNT_v [h.n, n, 0] = (s.rd .SHP_POL_CNT_v [h.n, n, 0] + 1) % 2 ^ 64 ∧ t.rd .SHP_POL_CNT_v [h.n, n, 1] = (s.rd .SHP_POL_CNT_v [h.n, n, 1] + b) % 2 ^ 64)
          ∧ (∀ k, k ≠ [h.n, n] → t.sched.pol.get? k = s.sched.pol.get? k) ∧ partsBut [.sched] s t ∧ fieldsBut [.SHP_POL_CNT_v] s t)))
  ∧ (∀ (s t : State) (f x : Frame) (h : Half) (ent : Nat), t = s.afterI19 f → s.fr? f.id = some x → h = pipeHalf f.pipe → ent = parEntry f.inPort →
    s.on .GTE_LT_SRC_en [h.n, f.tag] = false → f.m 275 1 = 0 → f.learn = none →
    (f.m 256 1 = 0 → t.rd .PAR_EVT_CNT_v [f.pipe, ent, 3] = (s.rd .PAR_EVT_CNT_v [f.pipe, ent, 3] + 1) % 2 ^ 64)
    ∧ (f.m 273 1 = 1 → dropped s t f.id h 2 ∧ t.rd .SLC_CNT_v [h.n, f.slice, 0] = (s.rd .SLC_CNT_v [h.n, f.slice, 0] + 1) % 2 ^ 64)
    ∧ (f.m 273 1 = 0 → f.m 256 1 = 0 → severity f.nmAct = 2 →
      dropped s t f.id h 1 ∧ t.rd .PAR_EVT_CNT_v [f.pipe, ent, 4] = (s.rd .PAR_EVT_CNT_v [f.pipe, ent, 4] + 1) % 2 ^ 64)
    ∧ (f.m 273 1 = 0 → f.m 274 1 = 1 → (f.m 256 1 = 0 → severity f.nmAct ≠ 2) → 1056 + f.trapPort < 1088 →
      ∃ g, became s t f.id g ∧ g.loc = .front ∧ g.out = 1056 + f.trapPort ∧ g.tc = f.trapTc ∧ g.m 107 8 = f.m 107 8
        ∧ t.rd .SLC_CNT_v [h.n, f.slice, 1] = (s.rd .SLC_CNT_v [h.n, f.slice, 1] + 1) % 2 ^ 64)
    ∧ (f.m 273 1 = 0 → f.m 274 1 = 0 → f.m 256 1 = 0 → severity f.nmAct = 1 → 1056 + f.trapPort < 1088 →
      ∃ g, became s t f.id g ∧ g.loc = .front ∧ g.out = 1056 + f.trapPort ∧ g.tc = f.trapTc ∧ g.m 107 8 = 4 ∧ g.m 106 1 = 1
        ∧ t.rd .PAR_EVT_CNT_v [f.pipe, ent, 5] = (s.rd .PAR_EVT_CNT_v [f.pipe, ent, 5] + 1) % 2 ^ 64)
    ∧ (f.m 273 1 = 0 → f.m 274 1 = 0 → f.m 256 1 = 0 → severity f.nmAct = 0 → f.nmPort < 1088 →
      ∃ g, became s t f.id g ∧ g.loc = .front ∧ g.out = f.nmPort ∧ g.dest = f.nmPort ∧ g.tc = f.m 268 3 ∧ g.m 106 1 = 1)
    ∧ (f.m 273 1 = 0 → f.m 274 1 = 0 → f.m 256 1 = 1 → f.dest < 1088 → ∃ g, became s t f.id g ∧ g.loc = .front ∧ g.out = f.dest ∧ g.tc = f.m 268 3 ∧ g.bytes = f.bytes))

/-- R82: a lookup in a half admits an entry of its table and of the frame's slice exactly when it passes the test of R82 on low bytes against the half's oldest live generation; and that test is exact across wrap: for a frame whose generation is one of at most four live ones, and an entry whose start and end lie between O - 1 and G + 1, a start below O being settled, it holds exactly when the generation lies in the window. -/
def Obligations.WindowTestIsExact : Prop :=
  (∀ (s : State) (h : Half) (f : Frame) (tbl : Config.TableMap) (e : Ent) (r : Nat → Nat) (lo : Nat),
    (∀ x, r x = (x % 256 + 256 - s.rd .SLC_GEN_oldest_live [h.n, f.slice] % 256) % 256) → lo = (if e.settled = true then 0 else r e.genLo) →
    (s.admits h f tbl e = true ↔ e.table = tbl.id ∧ e.slice = f.slice ∧ lo ≤ r f.gen ∧ (e.opn = true ∨ (r e.genHi < 128 ∧ r f.gen ≤ r e.genHi))))
  ∧ (∀ (e : Ent) (o g lo hi : Nat), o ≤ g → g ≤ o + 3 → (e.settled = true → lo ≤ o) → (e.settled = false → o ≤ lo) → lo ≤ o + 4 → o ≤ hi + 1 → hi ≤ o + 4 →
    e.genLo = lo % 256 → e.genHi = hi % 256 →
    (windowHolds e (o % 65536) (g % 65536) = true ↔ lo ≤ g ∧ (e.opn = true ∨ g ≤ hi)))

/-- R33, R131, R138, R139, R140, R174: the traffic manager's front end, for a frame that no earlier one of its pipe holds back, drops a frame of colour 3 and counts it for its slice, drops one for the other half while the bridge is lost and counts it in NO_BRIDGE_DROP, and asks admission for every other frame. Of a frame of a lossless group the group's state is evaluated first: it goes to XOFF with a PFC frame of the port's quanta where its shared cells have reached the limit, back to XON with one of quanta 0 where they have fallen to `xon_offset` below it and the headroom is empty, and stays otherwise; in XOFF the frame asks headroom, or is dropped and counted in HDRM_DROP where the group's headroom has no room for it. -/
def Obligations.FrontEnd : Prop :=
  ∀ (s : State) (id : Nat) (f : Frame), s.fr? id = some f → f.loc = .front → s.frontHeld f = false →
    (f.color = 3 → ∃ t, exec (.tmFrontEnd id) s = .next t ∧ dropped s t id f.ingress 3
      ∧ t.rd .SHP_SLICE_CNT_v [f.ingress.n, f.slice] = (s.rd .SHP_SLICE_CNT_v [f.ingress.n, f.slice] + 1) % 2 ^ 64
      ∧ partsBut dropParts s t ∧ fieldsBut (.SHP_SLICE_CNT_v :: dropFlds) s t)
    ∧ (f.color ≠ 3 → f.egress ≠ f.ingress → s.bridgeUp = false →
      ∃ t, exec (.tmFrontEnd id) s = .next t ∧ dropped s t id f.ingress 0x0A
        ∧ t.rd .BUF_CNT_v [f.ingress.n, 0] = (s.rd .BUF_CNT_v [f.ingress.n, 0] + 1) % 2 ^ 64
        ∧ partsBut dropParts s t ∧ fieldsBut (.BUF_CNT_v :: dropFlds) s t)
    ∧ (f.color ≠ 3 → (f.egress = f.ingress ∨ s.bridgeUp = true) →
      (∀ g, s.pgOf f = some g → s.on .BUF_PG_CFG_lossless [(portHalf f.inPort).n, localIdx f.inPort, g] = false) →
      ∃ t, exec (.tmFrontEnd id) s = .next t ∧ became s t id { f with loc := .request, cells := ceilDiv f.len 256, pg := s.pgOf f, hdrmReq := false }
        ∧ t.buf.reqs = s.buf.reqs ++ [(f.egress, id)] ∧ partsBut [.frames, .buf] s t ∧ fieldsBut [] s t)
    ∧ (∀ (g j n l : Nat) (o : Half) (x : Bool), f.color ≠ 3 → (f.egress = f.ingress ∨ s.bridgeUp = true) → s.pgOf f = some g → o = portHalf f.inPort → j = localIdx f.inPort →
      s.on .BUF_PG_CFG_lossless [o.n, j, g] = true → n = ceilDiv f.len 256 → l = s.pgLimit o j g →
      x = (if s.inXoff o j g = true then !(decide (s.pgShr o j g + s.rd .BUF_PG_CFG_xon_offset [o.n, j, g] ≤ l) && decide (s.rd .BUF_PG_CFG_pg_hdrm [o.n, j, g] = 0))
        else decide (l ≤ s.pgShr o j g)) →
      ∃ t, exec (.tmFrontEnd id) s = .next t ∧ t.inXoff o j g = x
        ∧ t.lanes.pfcSent = s.lanes.pfcSent ++ (if x = s.inXoff o j g then [] else [(portOf o j, s.pgPrios o j g, if x = true then s.rd .BUF_PORT_CFG_pfc_quanta [o.n, j] else 0)])
        ∧ (if x = true ∧ s.rd .BUF_PG_CFG_hdrm_max [o.n, j, g] < s.rd .BUF_PG_CFG_pg_hdrm [o.n, j, g] + n then
            dropped s t id f.ingress 9 ∧ t.rd .BUF_CNT_v [f.ingress.n, 1] = (s.rd .BUF_CNT_v [f.ingress.n, 1] + 1) % 2 ^ 64
              ∧ partsBut (.buf :: .lanes :: dropParts) s t ∧ fieldsBut (.BUF_CNT_v :: .BUF_PORT_STAT_xoff :: dropFlds) s t
          else became s t id { f with loc := .request, cells := n, pg := some g, hdrmReq := x } ∧ t.buf.reqs = s.buf.reqs ++ [(f.egress, id)]
            ∧ partsBut [.frames, .buf, .lanes] s t ∧ fieldsBut [.BUF_CNT_v, .BUF_PORT_STAT_xoff] s t))

/-- R129, R135, R139, R142: the first request of a half is decided by the tests of R135 with WRED's decision, which drops only where the queue enables WRED and marks only where it enables ECN. A refused copy is dropped and counted; a granted one carries its charges, and its queue and the half's descriptors are charged. -/
def Obligations.AdmissionDecided : Prop :=
  ∀ (s : State) (h : Half) (r : Half × Nat) (f : Frame) (q : Nat),
    s.buf.reqs.find? (fun r => r.1 = h) = some r → s.fr? r.2 = some f → f.loc = .request → q = s.queueOf h f →
    ∃ (t : State) (mark drop : Bool), exec (.admissionDecision h) s = .next t ∧ t.buf.reqs = s.buf.reqs.erase r
      ∧ (s.on .BUF_Q_CFG_wred_en [h.n, q] = false → drop = false) ∧ (s.on .BUF_Q_CFG_ecn_en [h.n, q] = false → mark = false)
      ∧ match s.admitTest h q f.cells f.hdrmReq drop with
        | .inl (cnt, cause) => dropped s t r.2 h cause ∧ t.rd .BUF_Q_STAT_q_rsv [h.n, q] = s.rd .BUF_Q_STAT_q_rsv [h.n, q]
            ∧ (cnt ≠ 8 → t.rd .BUF_Q_CNT_v [h.n, q, cnt] = (s.rd .BUF_Q_CNT_v [h.n, q, cnt] + 1) % 2 ^ 64)
            ∧ partsBut (.buf :: dropParts) s t ∧ fieldsBut (.BUF_Q_CNT_v :: .BUF_CNT_v :: .BUF_FREE_phys_free :: dropFlds) s t
        | .inr c => (∃ g, became s t r.2 g ∧ g.loc = (if f.ingress = h then .written else .granted) ∧ g.queue = q ∧ g.rsv = c.r ∧ g.hdrm = c.hdrm ∧ g.ce = mark
              ∧ g.bytes = f.bytes)
            ∧ t.rd .BUF_Q_STAT_q_rsv [h.n, q] = (s.rd .BUF_Q_STAT_q_rsv [h.n, q] + c.r) % 2 ^ 16
            ∧ t.rd .BUF_Q_STAT_q_shr [h.n, q] = (s.rd .BUF_Q_STAT_q_shr [h.n, q] + c.shr) % 2 ^ 20
            ∧ t.rd .BUF_FREE_desc_free [h.n] = (s.rd .BUF_FREE_desc_free [h.n] - 1) % 2 ^ 20
            ∧ (f.ingress ≠ h → t.buf.grants = s.buf.grants ++ [(f.ingress, r.2)])
            ∧ partsBut [.frames, .buf, .fresh, .lanes, .ras] s t
            ∧ fieldsBut [.BUF_PART_use, .BUF_Q_STAT_q_rsv, .BUF_Q_STAT_q_shr, .BUF_Q_STAT_peak, .BUF_FREE_desc_free, .BUF_FREE_phys_free, .BUF_Q_CNT_v,
                .BUF_PG_CFG_pg_use, .BUF_PG_CFG_pg_hdrm, .BUF_PG_REMOTE_pg_remote, .BUF_IPOOL_use, .BUF_PORT_STAT_xoff, .BUF_CNT_v] s t

/-- R135: an admitted copy stays within its queue's limit, takes its cells from reserved and shared ones that are free, or all of them from free headroom, and meets a port that is not flushing and a free descriptor. -/
def Obligations.AdmissionNeverOverdraws : Prop :=
  ∀ (s : State) (h : Half) (q n : Nat) (hdrmReq wred : Bool) (c : Charge), s.admitTest h q n hdrmReq wred = .inr c →
    s.rd .BUF_PORT_STAT_state [h.n, q / 16] < 2 ∧ s.rd .BUF_FREE_desc_free [h.n] ≠ 0
    ∧ s.rd .BUF_Q_STAT_q_rsv [h.n, q] + s.rd .BUF_Q_STAT_q_shr [h.n, q] + n ≤ s.rd .BUF_Q_CFG_q_max [h.n, q]
    ∧ c.r + c.shr = n
    ∧ (c.hdrm = true → c.r = 0 ∧ n ≤ s.poolFree h 5 ∧ (hdrmReq = true ∨ s.on .BUF_Q_CFG_lossless [h.n, q] = true))
    ∧ (c.hdrm = false → hdrmReq = false ∧ c.r ≤ s.rd .BUF_Q_CFG_q_min [h.n, q] - s.rd .BUF_Q_STAT_q_rsv [h.n, q] ∧ c.r ≤ s.poolFree h 0
        ∧ c.shr ≤ s.poolFree h (poolIx (s.rd .BUF_Q_CFG_pool [h.n, q]))
        ∧ (s.on .BUF_Q_CFG_lossless [h.n, q] = false → wred = false))

/-- R34, R35, R130, R139: a grant that reaches the ingress half starts the copy across the bridge; its last cell's arrival, in the order of its source pipe, makes it written in the egress half; a written copy joins the tail of its queue, in that order, while its port is not flushing, no swap drains its tag by force and its queue is no epoch queue of a running grid. -/
def Obligations.GrantCrossingEnqueue : Prop :=
  (∀ (s : State) (h : Half) (r : Half × Nat) (f : Frame), s.buf.grants.find? (fun r => r.1 = h) = some r → s.fr? r.2 = some f → f.loc = .granted →
    ∃ t, exec (.admissionGrant h) s = .next t ∧ became s t r.2 { f with loc := .crossing } ∧ t.buf.grants = s.buf.grants.erase r
      ∧ (∀ g, f.pg = some g → portHalf f.inPort = h → f.remote = true → t.rd .BUF_PG_REMOTE_pg_remote [h.n, localIdx f.inPort, g] = (s.rd .BUF_PG_REMOTE_pg_remote [h.n, localIdx f.inPort, g] + f.cells) % 2 ^ 20)
      ∧ partsBut [.frames, .buf] s t ∧ fieldsBut [.BUF_PG_CFG_pg_use, .BUF_PG_CFG_pg_hdrm, .BUF_PG_REMOTE_pg_remote, .BUF_IPOOL_use] s t)
  ∧ (∀ (s : State) (id : Nat) (f : Frame), s.fr? id = some f → f.loc = .crossing → s.cellsHeldBack f false = false →
    ∃ t, exec (.bridgeCellArrival id) s = .next t ∧ became s t id { f with loc := .written } ∧ partsBut [.frames, .ras] s t ∧ fieldsBut [] s t)
  ∧ (∀ (s : State) (id : Nat) (f : Frame), s.fr? id = some f → f.loc = .written → s.cellsHeldBack f true = false → s.rd .BUF_PORT_STAT_state [f.egress.n, localIdx f.out] ≠ 2 →
    s.forcedOld f = false → ¬ (s.gridRuns = true ∧ s.epQueue f.egress f.queue = true ∧ f.epoch ≠ s.epochCnt f.egress) →
    ∃ t, exec (.enqueue id) s = .next t ∧ became s t id { f with loc := .queued, enqNs := tNs (s.now f.egress) }
      ∧ t.queueIds f.egress f.queue = s.queueIds f.egress f.queue ++ [id]
      ∧ (∀ x q, (x, q) ≠ (f.egress, f.queue) → t.queueIds x q = s.queueIds x q) ∧ partsBut [.frames, .buf] s t ∧ fieldsBut [] s t)

/-- R128, R139, R140, R150: a release notice returns its cells to the priority group; a lossless group in XOFF sends its PFC frame again when its refresh is due; one that has been in XOFF for `storm_ms` raises PFC_STORM once; a group whose `lossless` is 0 does neither (R138). -/
def Obligations.PriorityGroups : Prop :=
  (∀ (s : State) (h : Half) (j g n : Nat) (hd : Bool), s.buf.notices.find? (fun m => m.1 = h) = some (h, j, g, n, hd) →
    ∃ t, exec (.pgReleaseNotice h) s = .next t ∧ t.buf.notices = s.buf.notices.erase (h, j, g, n, hd)
      ∧ t.rd .BUF_PG_CFG_pg_use [h.n, j, g] = (s.rd .BUF_PG_CFG_pg_use [h.n, j, g] - n) % 2 ^ 20
      ∧ t.rd .BUF_PG_REMOTE_pg_remote [h.n, j, g] = (s.rd .BUF_PG_REMOTE_pg_remote [h.n, j, g] - n) % 2 ^ 20
      ∧ partsBut [.buf, .lanes] s t ∧ fieldsBut [.BUF_PG_CFG_pg_use, .BUF_PG_CFG_pg_hdrm, .BUF_PG_REMOTE_pg_remote, .BUF_IPOOL_use, .BUF_PORT_STAT_xoff, .BUF_CNT_v] s t)
  ∧ (∀ (s : State) (port pg : Nat) (x : Nat × Nat), s.buf.pgTimes.get? [(portHalf port).n, localIdx port, pg] = some x →
    s.on .BUF_PG_CFG_lossless [(portHalf port).n, localIdx port, pg] = true →
    ∃ t, exec (.pfcRefresh port pg) s = .next t ∧ t.time.elapsed = max s.time.elapsed x.2
      ∧ t.lanes.pfcSent = s.lanes.pfcSent ++ [(portOf (portHalf port) (localIdx port), s.pgPrios (portHalf port) (localIdx port) pg,
          s.rd .BUF_PORT_CFG_pfc_quanta [(portHalf port).n, localIdx port])]
      ∧ t.buf.pgTimes.get? [(portHalf port).n, localIdx port, pg]
          = some (x.1, t.time.elapsed + s.rd .BUF_PORT_CFG_pfc_refresh [(portHalf port).n, localIdx port] * 512)
      ∧ partsBut [.buf, .time, .lanes] s t ∧ fieldsBut [] s t)
  ∧ (∀ (s : State) (port pg : Nat) (x : Nat × Nat), s.buf.pgTimes.get? [(portHalf port).n, localIdx port, pg] = some x →
    s.on .BUF_PG_CFG_lossless [(portHalf port).n, localIdx port, pg] = true → s.rd .BUF_MISC_storm_ms [(portHalf port).n] ≠ 0 → s.buf.pgTimes.get? [(portHalf port).n, localIdx port, pg, 1] = none →
    ∃ t, exec (.pfcStorm port pg) s = .next t
      ∧ t.time.elapsed = max s.time.elapsed (x.1 + s.rd .BUF_MISC_storm_ms [(portHalf port).n] * 1000000)
      ∧ (t.buf.pgTimes.get? [(portHalf port).n, localIdx port, pg, 1]).isSome = true ∧ partsBut [.buf, .time] s t ∧ fieldsBut [] s t
      ∧ ∃ evs, t.host.events = s.host.events ++ evs ++ [⟨0x0021, (portHalf port).n, record 32 [(0, 2, port), (2, 1, pg)]⟩])
  ∧ (∀ (s : State) (port pg : Nat), s.on .BUF_PG_CFG_lossless [(portHalf port).n, localIdx port, pg] = false →
    (∃ t, exec (.pfcRefresh port pg) s = .next t ∧ t.lanes = s.lanes ∧ partsBut [] s t ∧ fieldsBut [] s t)
    ∧ (∃ t, exec (.pfcStorm port pg) s = .next t ∧ t.host = s.host ∧ partsBut [] s t ∧ fieldsBut [] s t))

/-- R133, R145, R148, R149: BUF_PART_SET of at most 786,431 cells in all sets the eight partition sizes of its half; PORT_FLUSH of a configured port that is in service makes it refuse admission and completes later, with the fence. Where engines of the FLUSH routine serve the port's sixteen queues, they are empty at once (that the work of a routine that is served is done with its event is the model's, log entries 14 and 45): every copy that stood there is gone and counted in PORT_DOWN_DROP of its queue. A port that is not configured, or not in service, is refused. -/
def Obligations.PartitionsAndFlush : Prop :=
  (∀ (s : State) (d : Hdr) (sizes : List Nat), served s d ⟨0x30, .config, true, false, 1⟩ true (cleanHdr d false false false) → sizes.length = 8 → (∀ z ∈ sizes, z < 2 ^ 20) →
    (sizes.sum ≤ 786431 → due s (.bufPartSet d sizes) → ∃ t, exec (.bufPartSet d sizes) s = .next t ∧ completed s t d 0 0 0
      ∧ (∀ i, i < 8 → t.rd .BUF_PART_size [(Machine.Hdr.half d).n, i] = sizes.getD i 0) ∧ partsBut [.buf] s t ∧ fieldsBut [.BUF_PART_size] s t)
    ∧ (786431 < sizes.sum → due s (.bufPartSet d sizes) → ∃ t, exec (.bufPartSet d sizes) s = .next t ∧ completed s t d 0x1C 0 0 ∧ partsBut [] s t ∧ fieldsBut [] s t))
  ∧ (∀ (s : State) (d : Hdr) (port : Nat), served s d ⟨0x31, .config, true, false, 0⟩ true (cleanHdr d false false false) →
    (s.configured port = true → s.rd .BUF_PORT_STAT_state [(portHalf port).n, localIdx port] = 0 →
      due s (.portFlush d port) → ∃ t, exec (.portFlush d port) s = .next t ∧ t.host.cpls = s.host.cpls ∧ t.rd .BUF_PORT_STAT_state [(portHalf port).n, localIdx port] = 2
        ∧ t.rd .BUF_PORT_STAT_relaunch [(portHalf port).n, localIdx port] = 1 ∧ t.rd .BUF_PORT_STAT_xoff [(portHalf port).n, localIdx port] = 0
        ∧ (t.buf.flush.get? [port]).isSome = true
        ∧ (∀ (h : Half) (k : Nat), h = portHalf port → k = localIdx port → s.ras.poison = [] → (∀ i, i < 16 → s.serves h 2 (flushBody port i) = true) →
          (∀ i, i < 16 → (s.queueIds h (16 * k + i)).Nodup
            ∧ ∀ id ∈ s.queueIds h (16 * k + i), id < s.nextId ∧ ∃ f, s.fr? id = some f ∧ f.egress = h ∧ f.queue = 16 * k + i) →
          (∀ i, i < 16 → t.queueIds h (16 * k + i) = []
            ∧ (∀ id ∈ s.queueIds h (16 * k + i), t.fr? id = none)
            ∧ (s.queueIds h (16 * k + i) ≠ [] →
              t.rd .BUF_Q_CNT_v [h.n, 16 * k + i, 1] = (s.rd .BUF_Q_CNT_v [h.n, 16 * k + i, 1] + (s.queueIds h (16 * k + i)).length) % 2 ^ 64))
          ∧ (∀ x q, (∀ i, i < 16 → (x, q) ≠ (h, 16 * k + i)) → t.queueIds x q = s.queueIds x q)
          ∧ partsBut [.frames, .nextId, .fresh, .tables, .fdb, .buf, .sched, .timed, .tel, .ras, .lanes] s t))
    ∧ (s.configured port = false → due s (.portFlush d port) → ∃ t, exec (.portFlush d port) s = .next t ∧ completed s t d 1 0x31 0 ∧ partsBut [] s t ∧ fieldsBut [] s t)
    ∧ (s.configured port = true → s.rd .BUF_PORT_STAT_state [(portHalf port).n, localIdx port] ≠ 0 →
      due s (.portFlush d port) → ∃ t, exec (.portFlush d port) s = .next t ∧ completed s t d 1 0x30 0 ∧ partsBut [] s t ∧ fieldsBut [] s t))

/-- R159, R160, R162, R172, R175: a refill, whose tick is not lost at its crossing, comes at the half's next multiple of 32 ns (the phase is the model's: log entry 27), brings every shaper in use to its register's rate, size and enable with its credit raised by the increment up to the burst while it is enabled, and leaves the other half's; every policer in use takes its register's values, and its two buckets gain `pir_inc` and `cir_inc` up to their bursts, start full where it becomes enabled, and stand while it is disabled. POLICER_SET writes its values in every half it names, or completes PARAM_INVALID where an enabled policer would have no burst or a PIR below its CIR. -/
def Obligations.RefillAndPolicers : Prop :=
  (∀ (s : State) (h : Half), (s.shpKeys h).Nodup → (s.polKeys h).Nodup → s.xingBusy h 2 0 = false →
    ∃ t, exec (.refill h) s = .next t ∧ t.refilled h % 32 = 0 ∧ s.refilled h < t.refilled h ∧ t.time.elapsed = t.refilled h ∧ s.time.elapsed ≤ t.refilled h
      ∧ (∀ k ∈ s.shpKeys h, t.bucket k = refillBucket (s.rd (shpFld (k.headD 0)).1 (k.drop 1)) (s.rd (shpFld (k.headD 0)).2.1 (k.drop 1))
          (s.on (shpFld (k.headD 0)).2.2 (k.drop 1)) (s.bucket k).credit)
      ∧ (∀ k, k ∉ s.shpKeys h → t.bucket k = s.bucket k)
      ∧ (∀ k ∈ s.polKeys h, ∀ p q c, p = s.sched.pol.getD k Pol.off → q = t.sched.pol.getD k Pol.off → c = s.polCfg k → q.cur = c
        ∧ (c.en = false → q.tp = p.tp ∧ q.tc = p.tc)
        ∧ (c.en = true → p.cur.en = false → q.tp = ((c.pbs * 4096 : Nat) : Int) ∧ q.tc = ((c.cbs * 4096 : Nat) : Int))
        ∧ (c.en = true → p.cur.en = true → q.tp = min (p.tp + (c.pir : Int)) ((c.pbs * 4096 : Nat) : Int) ∧ q.tc = min (p.tc + (c.cir : Int)) ((c.cbs * 4096 : Nat) : Int)))
      ∧ (∀ k, k ∉ s.polKeys h → t.sched.pol.get? k = s.sched.pol.get? k)
      ∧ partsBut [.sched, .time] s t ∧ fieldsBut [.SHP_Q_CREDIT_credit] s t)
  ∧ (∀ (inc burst : Nat) (en : Bool) (credit : Int), credit ≤ ((burst * 4096 : Nat) : Int) → (refillBucket inc burst en credit).credit ≤ ((burst * 4096 : Nat) : Int))
  ∧ (∀ (s : State) (d : Hdr) (n cir pir cbs pbs owner : Nat) (aware redDrop en : Bool),
    served s d ⟨0x34, .config, true, true, 2⟩
      (d.fn = 0 || (owner = fnSlice d.fn && (Hdr.hs d).all (fun h => s.rd .SHP_POL_CFG_owner [h.n, n] = fnSlice d.fn)))
      (cleanHdr d false false false && decide (n < 16384) && decide (cir < 2 ^ 28) && decide (pir < 2 ^ 28)
        && decide (cbs < 2 ^ 24) && decide (pbs < 2 ^ 24) && decide (owner < 64)) →
    ((en = true → cir ≤ pir ∧ cbs ≠ 0 ∧ pbs ≠ 0) →
      due s (.policerSet d n cir pir cbs pbs aware redDrop en owner) → ∃ t, exec (.policerSet d n cir pir cbs pbs aware redDrop en owner) s = .next t ∧ completed s t d 0 0 0
        ∧ (∀ h ∈ Hdr.hs d, t.polCfg [h.n, n] = ⟨cir, pir, cbs, pbs, aware, redDrop, en⟩ ∧ t.rd .SHP_POL_CFG_owner [h.n, n] = owner)
        ∧ (∀ h m, (h ∉ Hdr.hs d ∨ m ≠ n) → t.polCfg [h.n, m] = s.polCfg [h.n, m] ∧ t.rd .SHP_POL_CFG_owner [h.n, m] = s.rd .SHP_POL_CFG_owner [h.n, m])
        ∧ partsBut [] s t
        ∧ fieldsBut [.SHP_POL_CFG_cir_inc, .SHP_POL_CFG_pir_inc, .SHP_POL_CFG_cbs, .SHP_POL_CFG_pbs, .SHP_POL_CFG_aware, .SHP_POL_CFG_red_drop,
            .SHP_POL_CFG_en, .SHP_POL_CFG_owner] s t)
    ∧ (en = true → (pir < cir ∨ cbs = 0 ∨ pbs = 0) →
      due s (.policerSet d n cir pir cbs pbs aware redDrop en owner) → ∃ t, exec (.policerSet d n cir pir cbs pbs aware redDrop en owner) s = .next t ∧ completed s t d 3 0 0 ∧ partsBut [] s t ∧ fieldsBut [] s t))

/-- R170, R171: a PFC frame received at a front-panel port that is UP and enables it loads the timers of the priorities it names with their quanta at the port's MAC rate, clears those with time 0, and leaves the others; each nonzero time is counted. A timer that reaches zero is cleared. -/
def Obligations.PauseTimers : Prop :=
  (∀ (s : State) (port vec : Nat) (times : List Nat), port < 1024 → s.rd .LAN_PORT_STAT_state [port / 128, port % 128] = 4 →
    ∃ t, exec (.pfcRx port vec times) s = .next t ∧ partsBut [.sched] s t ∧ fieldsBut [.TMG_PORT_CNT_v, .TMG_PFC_STAT_paused] s t
      ∧ (∀ p, p < 8 → t.rd .TMG_PORT_CNT_v [(portHalf port).n, localIdx port, p]
          = (if bit vec p = true ∧ times.getD p 0 ≠ 0 then (s.rd .TMG_PORT_CNT_v [(portHalf port).n, localIdx port, p] + 1) % 2 ^ 64
            else s.rd .TMG_PORT_CNT_v [(portHalf port).n, localIdx port, p]))
      ∧ (if s.on .TMG_PORT_CFG_pfc_rx_en [(portHalf port).n, localIdx port] = true then
          (∀ p, p < 8 → bit vec p = true →
            (t.sched.pause.get? [port, p]).map (fun x => x.2)
              = if times.getD p 0 % 65536 = 0 then none else some (s.el200 + times.getD p 0 % 65536 * 512 * 200 / s.rate port))
          ∧ (∀ k, (∀ p, p < 8 → bit vec p = true → k ≠ [port, p]) → t.sched.pause.get? k = s.sched.pause.get? k)
        else t.sched = s.sched))
  ∧ (∀ (s : State) (port prio : Nat) (x : Nat × Nat), s.sched.pause.get? [port, prio] = some x →
    ∃ t, exec (.pauseTimerExpiry port prio) s = .next t ∧ t.time.elapsed = max s.time.elapsed (ceilDiv x.2 200) ∧ t.pauseRuns port prio = false
      ∧ (∀ k, k ≠ [port, prio] → t.sched.pause.get? k = s.sched.pause.get? k) ∧ partsBut [.sched, .time] s t ∧ fieldsBut [.TMG_PFC_STAT_paused] s t)

/-- R165: deficit round robin serves an eligible member whenever there is one, and one whose weight in force is 0 only where no other is eligible. -/
def Obligations.DwrrServes : Prop :=
  ∀ (s : State) (lvl : List Nat) (unit : Nat) (ms : List Member1), 0 < unit → (ms.map (fun m => m.key)).Nodup → (∀ m ∈ ms, m.elig = true → m.holds = true) →
    (∃ m ∈ ms, m.elig = true) →
    ∃ m t, s.dwrr lvl unit ms = (some m, t) ∧ m ∈ ms ∧ m.elig = true ∧ (t.wgtOf m = 0 → ∀ x ∈ ms, x.elig = true → t.wgtOf x = 0)
      ∧ t.sched.last.get? lvl = some m.ix

/-- R163, R164: a selection at an untimed port that accepts one releases the head copy of the queue that the two levels choose to stage E00, takes it out of its queue and counts it there. -/
def Obligations.SchedulerSelects : Prop :=
  ∀ (s u v : State) (port k unit : Nat) (h : Half) (mg mq : Member1) (f : Frame) (x : Nat), h = portHalf port → k = localIdx port → s.timedPort port = false →
    s.accepts port = true → unit = 64 * 2 ^ min 10 (s.rd .TMG_PORT_CFG_q_unit [h.n, k]) → (s.groupMembers port false).any (fun m => m.elig) = true →
    s.dwrr [h.n, 1, k, (topLevel (fun m => s.rd .TMG_GRP_CFG_prio [h.n, k, m.ix]) (s.groupMembers port false)).1] unit
      (topLevel (fun m => s.rd .TMG_GRP_CFG_prio [h.n, k, m.ix]) (s.groupMembers port false)).2 = (some mg, u) →
    u.dwrr [h.n, 0, 4 * k + mg.ix, (topLevel (fun m => u.rd .TMG_Q_CFG_prio [h.n, m.ix]) (u.queueMembers port mg.ix false)).1] unit
      (topLevel (fun m => u.rd .TMG_Q_CFG_prio [h.n, m.ix]) (u.queueMembers port mg.ix false)).2 = (some mq, v) →
    v.queueOk port mq.ix false = some (f, x) → s.ras.poison = [] →
    ∃ t g, exec (.schedulerSelect port) s = .next t ∧ became s t f.id g ∧ g.loc = .stages ∧ g.stage = 20 ∧ g.pipe = portPipe port
      ∧ (f.ce = false → g.bytes = f.bytes) ∧ t.queueIds h mq.ix = (s.queueIds h mq.ix).filter (fun i => i ≠ f.id)
      ∧ (∀ q, q ≠ mq.ix → t.queueIds h q = s.queueIds h q)
      ∧ t.rd .TMG_Q_CNT_v [h.n, mq.ix, 0] = (s.rd .TMG_Q_CNT_v [h.n, mq.ix, 0] + 1) % 2 ^ 64
      ∧ t.rd .TMG_Q_CNT_v [h.n, mq.ix, 1] = (s.rd .TMG_Q_CNT_v [h.n, mq.ix, 1] + s.copyLen f) % 2 ^ 64
      ∧ partsBut [.frames, .buf, .sched] s t
      ∧ fieldsBut [.TMG_Q_CNT_v, .SHP_Q_CREDIT_credit, .TEL_HIST_BIN_v, .TEL_HIST_SUM_v, .TEL_HIST_MAX_v] s t

/-- R36–R40, R67, R76, R128, R146, R187, R191–R195, R204, R271, R435: the deparser sends a copy for a lane tile there with its rebuilt bytes and returns its cells; one that has grown beyond 16,383 bytes is dropped; one for a recirculation port waits at that port's pipe and keeps its reference; one that an egress stage sends to a recirculation port goes to the traffic manager's front end, and one with an egress trap to its host port; at the pass limit it is dropped (where a trap meets the limit, by the model's choice: log entry 25). A copy selected for export leaves its transit record in the exporter's FIFO. Then: a lane tile whose port is up sends a copy, with its PTP request carried out at the egress time, and reports that time where the copy asks for it; a timed copy that is not late goes at its start time, with the port's adjustment, and a late one is counted; a port whose lanes all loop to its receiver sends nothing and gets the frame back, and at any other its bytes leave the tile; where the port is not up the copy is discarded and counted. Of the requests: ORIGIN writes the egress time at the offset, CORRECTION adds the residence. -/
def Obligations.DeparseAndTransmit : Prop :=
  (∀ (s : State) (id : Nat) (f : Frame) (b : List Byte) (tbl : List HdrEnt) (pay : Nat), s.fr? id = some f → f.loc = .deparse → s.deparseHeld f = false →
      (b, tbl, pay) = (if f.mirror = true then (f.bytes, f.hdrs, f.payAt) else s.deparseBytes f) → f.stomp = false → (f.m 275 1 = 0 ∨ f.mirror = true) →
      (b.length ≤ 16383 → (f.m 274 1 = 0 ∨ f.mirror = true) → ¬ (1024 ≤ f.dest ∧ f.dest < 1056) → f.out < 1024 →
        (f.telExp = true → (s.expFifo (pipeHalf f.pipe)).length + 1 < s.expBatch (pipeHalf f.pipe) ∧ s.rd .TEL_EXP_CFG_target [(pipeHalf f.pipe).n] ≠ 1) →
        ∃ t g, exec (.deparse id) s = .next t ∧ became s t id g ∧ g.loc = .tile ∧ g.bytes = b ∧ g.cells = 0 ∧ g.out = f.out
          ∧ t.rd .BUF_Q_STAT_q_rsv [f.egress.n, f.queue] = (s.rd .BUF_Q_STAT_q_rsv [f.egress.n, f.queue] - f.rsv) % 2 ^ 16
          ∧ t.rd .BUF_Q_STAT_q_shr [f.egress.n, f.queue] = (s.rd .BUF_Q_STAT_q_shr [f.egress.n, f.queue] - (f.cells - f.rsv)) % 2 ^ 20
          ∧ (f.rhalf = pipeHalf f.pipe → t.rd .SLC_REFCNT_count [f.rhalf.n, f.slice, f.gen % 4] = (s.rd .SLC_REFCNT_count [f.rhalf.n, f.slice, f.gen % 4] - 1) % 2 ^ 24)
          ∧ t.expFifo (pipeHalf f.pipe) = s.expFifo (pipeHalf f.pipe)
            ++ (if f.telExp = true then [telRecord s (pipeHalf f.pipe) (f.mset 83 10 pay) 1 0 f.tRef] else [])
          ∧ partsBut (if f.telExp = true then [.frames, .buf, .lanes, .tables, .ras, .tel] else [.frames, .buf, .lanes, .tables, .ras]) s t)
      ∧ (16383 < b.length → ¬ (1024 ≤ f.dest ∧ f.dest < 1056 ∧ f.pass = 7) →
        ∃ t, exec (.deparse id) s = .next t ∧ dropped s t id (pipeHalf f.pipe) 0x11 ∧ partsBut (.buf :: .lanes :: dropParts) s t)
      ∧ (f.telExp = false → 1024 ≤ f.dest → f.dest < 1056 →
        (f.pass = 7 → ∃ t, exec (.deparse id) s = .next t ∧ dropped s t id (pipeHalf f.pipe) 0x0F
          ∧ t.rd .PAR_RECIRC_LIMIT_count [f.pipe] = (s.rd .PAR_RECIRC_LIMIT_count [f.pipe] + 1) % 2 ^ 64 ∧ partsBut (.buf :: .lanes :: dropParts) s t)
        ∧ (f.pass ≠ 7 → b.length ≤ 16383 → (f.m 274 1 = 0 ∨ f.mirror = true) →
          ∃ t g, exec (.deparse id) s = .next t ∧ became s t id g ∧ g.bytes = b ∧ g.pass = f.pass ∧ g.slice = f.slice ∧ g.gen = f.gen ∧ g.tag = f.tag
            ∧ (if f.dest = f.out then g.loc = .input ∧ g.pipe = f.out - 1024 ∧ g.inPort = f.out ∧ g.ctr = []
              else g.loc = .front ∧ g.out = f.dest ∧ g.len = b.length ∧ g.queue = 0x3FFF ∧ g.payOff = pay % 1024 ∧ g.payAt = pay)
            ∧ (∀ h sl k, t.rd .SLC_REFCNT_count [h, sl, k] = s.rd .SLC_REFCNT_count [h, sl, k]) ∧ partsBut [.frames, .buf, .lanes] s t))
      ∧ (f.telExp = false → f.m 274 1 = 1 → f.mirror = false → ¬ (1024 ≤ f.dest ∧ f.dest < 1056 ∧ f.pass = 7) → b.length ≤ 16383 → 1056 + f.trapPort < 1088 →
        ∃ t g, exec (.deparse id) s = .next t ∧ became s t id g ∧ g.bytes = b ∧ g.loc = .front ∧ g.out = 1056 + f.trapPort ∧ g.tc = f.trapTc ∧ g.len = b.length ∧ g.queue = 0x3FFF
          ∧ t.rd .SLC_CNT_v [(pipeHalf f.pipe).n, f.slice, 1] = (s.rd .SLC_CNT_v [(pipeHalf f.pipe).n, f.slice, 1] + 1) % 2 ^ 64 ∧ partsBut [.frames, .buf, .lanes] s t))
  ∧ (∀ (s : State) (id pos : Nat) (f : Frame), s.fr? id = some f → f.loc = .tile → s.tileHeld f = false →
      (∀ (c : PortCfg) (slip : Bool) (T : Ts) (b : List Byte) (req : Bool), f.out < 1024 → s.rd .LAN_PORT_STAT_state [f.out / 128, f.out % 128] = 4 →
        s.xingBusy (portHalf f.out) 1 (portTile f.out) = false → s.lanes.ports.get? [f.out] = some c →
        slip = (f.timed && decide (f.tStart - 64 * tuNs / s.rate f.out < s.now (portHalf f.out) * 200)) →
        (if f.timed = true ∧ slip = false then T = tsAdd (f.tStart / 200) (adjTs (s.rd .TIM_PORT_CFG_tx_adj [0, f.out])) else T = s.txTime f.out pos) →
        b = (match s.ptpWord f with | some w => (s.ptpRun (portHalf f.out) f w T).1 | none => f.bytes) →
        req = ((match s.ptpWord f with | some w => bit w 13 | none => false) || decide (f.tsId ≠ 0)) →
        ∃ t, exec (.transmit id pos) s = .next t ∧ t.fr? id = none
          ∧ t.time.txtsReq = s.time.txtsReq ++ (if req = true then
              [(portHalf f.out, ⟨f.out, if f.tsId ≠ 0 then f.tsId else bits ((s.ptpWord f).getD 0) 16 16, T⟩)] else [])
          ∧ (f.timed = false ∨ slip = true → t.time.elapsed = s.time.elapsed)
          ∧ (slip = true → t.rd .GTE_HALF_CNT_v [(portHalf f.out).n, 0] = (s.rd .GTE_HALF_CNT_v [(portHalf f.out).n, 0] + 1) % 2 ^ 64)
          ∧ (s.looped f.out c = false → (∀ i, i ≠ id → t.fr? i = s.fr? i) ∧ t.lanes.sent = s.lanes.sent ++ [(f.out, b)]
            ∧ partsBut [.frames, .fresh, .lanes, .time] s t ∧ fieldsBut [.GTE_HALF_CNT_v, .TIM_CNT_v] s t)
          ∧ (s.looped f.out c = true → (∀ i, i ≠ id → i ≠ s.nextId → t.fr? i = s.fr? i) ∧ t.lanes.sent = s.lanes.sent
            ∧ (fcsOk b = true → 64 ≤ b.length → b.length ≤ 16383 → 7 ≤ s.tileLinks (portPipe f.out) → isPfc b = false →
              ∃ g ∈ t.frames, g.bytes = b ∧ g.loc = .input ∧ g.inPort = f.out ∧ g.pipe = portPipe f.out)
            ∧ partsBut [.frames, .fresh, .nextId, .lanes, .time, .sched] s t
            ∧ fieldsBut [.GTE_HALF_CNT_v, .TIM_CNT_v, .LAN_PORT_CNT_v, .LAN_PORT_STAT_rl, .TEL_DROP_CNT_v, .TMG_PORT_CNT_v, .TMG_PFC_STAT_paused] s t))
      ∧ (s.rd .LAN_PORT_STAT_state [f.out / 128, f.out % 128] ≠ 4 →
        ∃ t, exec (.transmit id pos) s = .next t ∧ t.fr? id = none ∧ (∀ i, i ≠ id → t.fr? i = s.fr? i) ∧ t.lanes = s.lanes
          ∧ t.rd .BUF_Q_CNT_v [(portHalf f.out).n, f.queue, 1] = (s.rd .BUF_Q_CNT_v [(portHalf f.out).n, f.queue, 1] + 1) % 2 ^ 64
          ∧ t.rd .TEL_DROP_CNT_v [(portHalf f.out).n, 4] = (s.rd .TEL_DROP_CNT_v [(portHalf f.out).n, 4] + 1) % 2 ^ 64
          ∧ partsBut [.frames] s t ∧ fieldsBut [.TIM_CNT_v, .BUF_Q_CNT_v, .TEL_DROP_CNT_v] s t))
  ∧ (∀ (s : State) (h : Half) (f : Frame) (w off : Nat) (T : Ts) (b : List Byte), b = (s.ptpRun h f w T).1 → off = bits w 2 10 → bit w 14 = false → f.stomp = false →
      (bits w 0 2 = 1 → 26 ≤ off → off + 10 ≤ min 1024 (f.bytes.length - 4) →
        be b off 6 = tSec (tRound T) % 2 ^ 48 ∧ be b (off + 6) 4 = tNs (tRound T) ∧ b.length = f.bytes.length ∧ fcsOk b = true)
      ∧ (∀ (r v : Int), bits w 0 2 = 2 → bit w 12 = false → off + 8 ≤ min 1024 (f.bytes.length - 4) → s.residence h f T = some r → v = signed 64 (be f.bytes off 8) + r →
        be b off 8 = (if 2 ^ 63 - 1 < v then 2 ^ 63 - 1 else unsigned 64 v) ∧ b.length = f.bytes.length ∧ fcsOk b = true))

/-- R274, R275, R291: the flush timer of a half's exporter, while it exports by frames, sends up to a batch of the records that wait in one frame with the next sequence number, through the exporter's host port. Then: a read of PMC_SAMP_W1 answers the second word of the sample at the head of the half's FIFO and takes it out; an empty FIFO answers 0. -/
def Obligations.ExportFlushAndSamplePop : Prop :=
  (∀ (s : State) (h : Half) (port n : Nat), s.expFifo h ≠ [] → s.rd .TEL_EXP_CFG_target [h.n] ≠ 1 → port = 1056 + 8 * h.n + s.rd .TEL_EXP_CFG_exp_port [h.n] →
      s.portClear port = true → s.serves h 9 [0, 1] = true → s.xingBusy h 4 0 = false → s.fr? s.nextId = none → n = min (s.expFifo h).length (s.expBatch h) →
      ∃ t g, exec (.exportFlushTimer h) s = .next t ∧ t.expFifo h = (s.expFifo h).drop n
        ∧ t.fr? s.nextId = some g ∧ g.loc = .input ∧ g.inPort = port % 2048
        ∧ g.bytes = withFcs (beBytes 6 (s.rd .TEL_EXP_HDR_exp_dmac [h.n]) ++ beBytes 6 (s.rd .TEL_EXP_HDR_exp_smac [h.n])
            ++ beBytes 2 (s.rd .TEL_EXP_HDR_exp_etype [h.n]) ++ [1, byteOf n, byteOf h.n, 0] ++ beBytes 4 (s.rd .TEL_EXP_STAT_seq [h.n]) ++ ((s.expFifo h).take n).flatten)
        ∧ t.rd .TEL_EXP_STAT_seq [h.n] = (s.rd .TEL_EXP_STAT_seq [h.n] + 1) % 2 ^ 32
        ∧ t.rd .TEL_CNT_v [h.n, 3] = (s.rd .TEL_CNT_v [h.n, 3] + 1) % 2 ^ 64
        ∧ partsBut [.frames, .nextId, .tel, .time] s t ∧ fieldsBut [.TEL_EXP_STAT_fifo, .TEL_EXP_STAT_seq, .TEL_CNT_v] s t)
  ∧ (∀ (s : State) (h : Half),
      (∀ x, s.pmcHead h = some x → s.regOff (decide (h = .W)) = false → ∃ t, exec (.pmcSampPop h) s = .next t ∧ t.host.resp = x.2.2 ∧ t.tel.fifoS = s.tel.fifoS.erase x
        ∧ partsBut [.tel] s t ∧ fieldsBut [] s t)
      ∧ (s.pmcHead h = none → s.regOff (decide (h = .W)) = false → ∃ t, exec (.pmcSampPop h) s = .next t ∧ t.host.resp = 0 ∧ partsBut [] s t ∧ fieldsBut [] s t))

/-- R284: at a window's edge the histogram banks swap where software has taken the closed bank: the new bank starts empty and HIST_WINDOW is raised; where it has not, the swap is missed and counted, and the bank goes on. `hist_ack` marks the closed bank as taken. An engine of the half's TEL routine does it at the edge, and no swap waits from before. -/
def Obligations.HistogramWindows : Prop :=
  ∀ (s : State) (h : Half) (w : Word), w = BitVec.ofNat 64 (tTotalNs (nextMultiple (s.histWin h) (tTotalNs (s.now h)) * tsNs)) →
    (s.serves h 9 [w, 2] = true → (∀ d ∈ s.tel.histDue, d.1 ≠ h) → (match h with | .E => s.tel.ackE | .W => s.tel.ackW) = true → s.xingBusy h 2 0 = false →
      ∃ t pre ev, exec (.histWindowEdge h) s = .next t ∧ t.histBank h = 1 - s.histBank h ∧ t.rd .TEL_HIST_CFG_closed [h.n] = s.histBank h % 2
        ∧ (∀ i x, t.rd .TEL_HIST_BIN_v [h.n, 1 - s.histBank h, i, x] = 0 ∧ t.rd .TEL_HIST_MAX_v [h.n, 1 - s.histBank h, i] = 0)
        ∧ (∀ i x, t.rd .TEL_HIST_BIN_v [h.n, s.histBank h, i, x] = s.rd .TEL_HIST_BIN_v [h.n, s.histBank h, i, x])
        ∧ t.host.events = s.host.events ++ pre ++ [ev] ∧ ev.code = 0x0060 ∧ partsBut [.tel, .time] s t
        ∧ fieldsBut [.TEL_HIST_CFG_closed, .TEL_HIST_BIN_v, .TEL_HIST_SUM_v, .TEL_HIST_MAX_v] s t)
    ∧ (s.serves h 9 [w, 2] = true → (∀ d ∈ s.tel.histDue, d.1 ≠ h) → (match h with | .E => s.tel.ackE | .W => s.tel.ackW) = false → s.xingBusy h 2 0 = false →
      ∃ t, exec (.histWindowEdge h) s = .next t ∧ t.histBank h = s.histBank h ∧ t.rd .TEL_HIST_CFG_merged [h.n] = 1
        ∧ t.rd .TEL_CNT_v [h.n, 5] = (s.rd .TEL_CNT_v [h.n, 5] + 1) % 2 ^ 64 ∧ partsBut [.time] s t ∧ fieldsBut [.TEL_HIST_CFG_merged, .TEL_CNT_v] s t)
    ∧ (s.regOff (decide (h = .W)) = false → ∃ t, exec (.histAck h) s = .next t ∧ (match h with | .E => t.tel.ackE | .W => t.tel.ackW) = true ∧ t.histBank h = s.histBank h
        ∧ partsBut [.tel] s t ∧ fieldsBut [] s t)

/-- R285, R286, R287, R293: CNT_SNAP asks every half it names for a snapshot, unless one is busy; a periodic trigger asks for one at its time; an image that is ready is written to host memory and reported by an event, or completes its descriptor. A capture waits for the next multiple of 1,024 ns (R285 says the next apply edge: log entry 39), and a periodic trigger comes at the multiples of its period in elapsed time (no rule gives the phase: log entry 85). -/
def Obligations.Snapshots : Prop :=
  (∀ (s : State) (d : Hdr) (mask : Nat), served s d ⟨0x60, .reads, false, false, 2⟩ true (cleanHdr d false false true && decide (mask < 128)) →
    ((∀ h ∈ Hdr.hs d, s.rd .TEL_SNAP_STAT_busy [h.n] = 0) →
      due s (.cntSnap d mask) → ∃ t news, exec (.cntSnap d mask) s = .next t ∧ t.host.cpls = s.host.cpls ∧ t.host.mem = s.host.mem ∧ t.tel.snaps = s.tel.snaps ++ news ∧ news.map (fun x => x.half) = Hdr.hs d
        ∧ (∀ x ∈ news, x.mask = mask ∧ x.due = nextMultiple 1024 s.elapsed ∧ x.taken = false ∧ x.desc = some d)
        ∧ (∀ h ∈ Hdr.hs d, t.rd .TEL_SNAP_STAT_busy [h.n] = 1 ∧ t.rd .TEL_SNAP_STAT_seq [h.n] = (s.rd .TEL_SNAP_STAT_seq [h.n] + 1) % 2 ^ 62)
        ∧ partsBut [.tel] s t ∧ fieldsBut [.TEL_SNAP_STAT_busy, .TEL_SNAP_STAT_seq, .TEL_SNAP_STAT_snap_ovr, .TEL_CNT_v, .RAS_XSTAT_ovr, .RAS_CNT_v] s t)
    ∧ ((∃ h ∈ Hdr.hs d, s.rd .TEL_SNAP_STAT_busy [h.n] ≠ 0) →
      due s (.cntSnap d mask) → ∃ t, exec (.cntSnap d mask) s = .next t ∧ completed s t d 1 0x50 0 ∧ partsBut [] s t ∧ fieldsBut [] s t))
  ∧ (∀ (s : State) (h : Half), s.rd .TEL_SNAP_CFG_period_ms [h.n] ≠ 0 →
    ∃ t x, exec (.snapPeriodicTrigger h) s = .next t ∧ t.tel.snaps = s.tel.snaps ++ [x] ∧ x.half = h ∧ x.mask = s.rd .TEL_SNAP_CFG_groups [h.n]
      ∧ x.due = nextMultiple 1024 t.time.elapsed ∧ x.desc = none ∧ t.time.elapsed % (s.rd .TEL_SNAP_CFG_period_ms [h.n] * 1000000) = 0
      ∧ t.rd .TEL_SNAP_STAT_busy [h.n] = 1 ∧ partsBut [.tel, .time] s t
      ∧ fieldsBut [.TEL_SNAP_STAT_busy, .TEL_SNAP_STAT_seq, .TEL_SNAP_STAT_snap_ovr, .TEL_CNT_v, .RAS_XSTAT_ovr, .RAS_CNT_v] s t)
  ∧ (∀ (s : State) (h : Half) (x : Snap), s.tel.snaps.find? (fun x => x.half = h && x.taken) = some x → s.serves h 9 [BitVec.ofNat 64 x.seq] = true →
    (x.desc = none → s.ringUp 0 8 = false →
      ∃ t, exec (.cntSnapReady h) s = .next t ∧ t.tel.snaps = s.tel.snaps.erase x
        ∧ t.host.mem = s.host.mem.setBytes (s.rd .TEL_SNAP_ADDR_v [h.n] + (if x.seq % 2 = 1 then s.rd .TEL_SNAP_CFG_size [h.n] else 0))
            (x.image.take (s.rd .TEL_SNAP_CFG_size [h.n]))
        ∧ t.host.events = s.host.events ++ [⟨0x0061, h.n, record 32 [(0, 1, h.n), (1, 1, x.valid), (8, 8, x.seq)]⟩]
        ∧ partsBut [.tel] s t ∧ fieldsBut [.TEL_SNAP_STAT_busy] s t)
    ∧ (∀ d, x.desc = some d → d.buf.isSome = true → (s.tel.snaps.erase x).any (sameDesc d) = false →
      ∃ t, exec (.cntSnapReady h) s = .next t ∧ t.tel.snaps = s.tel.snaps.erase x ∧ completed s t d 0 0 0
        ∧ partsBut [.tel] s t ∧ fieldsBut [.TEL_SNAP_STAT_busy] s t))

/-- R208, R209, R210, R213, R217, R411: a checked GATE_LOAD stores its list as pending with the start that R209 gives, and completes; a list that starts becomes the active one and is reported, unless the half does not see network time because its crossing is not acknowledged; one that does not fit completes GATE_FULL. In a launch test, of a queue that holds one copy, a copy whose launch time is too far away or, where late copies are not sent, too late is dropped, and a late one that is sent is counted once. -/
def Obligations.GateListsAndLaunchTimes : Prop :=
  (∀ (s u : State) (d : Hdr) (port entries bsec bns cycle c : Nat) (es : List (Nat × Nat)),
    served s d ⟨0x40, .config, true, false, 0⟩ true (cleanHdr d false false true && decide (bns < 1000000000)) → entries ≤ 1024 → (entries ≠ 0 → 64 ≤ cycle) →
    port < 1024 → s.configured port = true → ((entries = 0 ∧ es = []) ∨ (entries ≠ 0 ∧ ∃ bs, d.buf = some bs ∧ gateEntries bs entries = some es)) →
    c = (if entries = 0 then 1 else cycle) →
    u = s.gateDue port →
    (es.length ≤ u.rd .GTE_MEM_free [(portHalf port).n] →
      due s (.gateLoad d port entries bsec bns cycle) → ∃ t, exec (.gateLoad d port entries bsec bns cycle) s = .next t ∧ completed u t d 0 0 0
        ∧ t.glP port = some ⟨(startOf (bsec * 1000000000 + bns) c (s.now (portHalf port))).1, c, es⟩
        ∧ t.rd .GTE_ADJ_N_v [(portHalf port).n, localIdx port] = (startOf (bsec * 1000000000 + bns) c (s.now (portHalf port))).2.1 % 2 ^ 64
        ∧ t.glA port = u.glA port ∧ partsBut [.timed] u t
        ∧ fieldsBut [.GTE_MEM_free, .GTE_LIST_start_sec, .GTE_LIST_start_ns, .GTE_LIST_cycle_ns, .GTE_PORT_STAT_gl_state, .GTE_PORT_STAT_adjusted, .GTE_ADJ_N_v] u t)
    ∧ (u.rd .GTE_MEM_free [(portHalf port).n] < es.length →
      due s (.gateLoad d port entries bsec bns cycle) → ∃ t, exec (.gateLoad d port entries bsec bns cycle) s = .next t ∧ completed u t d 0x10 0 0 ∧ partsBut [] u t ∧ fieldsBut [] u t))
  ∧ (∀ (s : State) (port : Nat) (p : GList), s.glP port = some p →
    (s.xingBusy (portHalf port) 2 0 = true → ∃ t, exec (.gateListStart port) s = .next t ∧ partsBut [] s t ∧ fieldsBut [] s t)
    ∧ (s.xingBusy (portHalf port) 2 0 = false → ∃ t, exec (.gateListStart port) s = .next t ∧ t.glP port = none ∧ t.glA port = (if p.ents = [] then none else some p)
      ∧ t.rd .GTE_PORT_STAT_gl_state [(portHalf port).n, localIdx port] = (if p.ents = [] then 0 else 1)
      ∧ ⟨0x0040, (portHalf port).n, record 32 [(0, 2, port), (2, 2, p.ents.length), (8, 8, p.start / 1000000000), (16, 4, p.start % 1000000000)]⟩ ∈ t.host.events))
  ∧ (∀ (s : State) (port q i : Nat) (h : Half) (f : Frame) (v : Nat) (p : List Nat), h = portHalf port → i < 16 → q = 16 * localIdx port + i → s.timedPort port = true →
    s.on .GTE_Q_CFG_lt_en [h.n, q] = true → (∀ j, j < 16 → j ≠ i → s.on .GTE_Q_CFG_lt_en [h.n, 16 * localIdx port + j] = false) → s.queueIds h q = [f.id] →
    s.fr? f.id = some f → f.egress = h → f.queue = q → f.launch = some v → s.stale f = false → p = s.gprof h q →
    (s.rd .GTE_PROF_lt_max p ≠ 0 → ((s.rd .GTE_PROF_lt_max p * 1000 * tuNs : Nat) : Int) < s.launchTime port f - s.base port →
      ∃ t, exec (.launchTest port) s = .next t ∧ dropped s t f.id h 0x0D ∧ t.queueIds h q = []
        ∧ t.rd .GTE_CNT_v [h.n, q, 3] = (s.rd .GTE_CNT_v [h.n, q, 3] + 1) % 2 ^ 64 ∧ partsBut (.buf :: .sched :: .lanes :: dropParts) s t)
    ∧ ((s.rd .GTE_PROF_lt_max p = 0 ∨ s.launchTime port f - s.base port ≤ ((s.rd .GTE_PROF_lt_max p * 1000 * tuNs : Nat) : Int)) → f.lateDone = false →
      s.launchTime port f + ((s.rd .GTE_PROF_lt_tol p * tuNs : Nat) : Int) < s.base port →
      (s.on .GTE_PROF_late_act p = true → ∃ t, exec (.launchTest port) s = .next t ∧ became s t f.id { f with lateDone := true }
        ∧ t.rd .GTE_CNT_v [h.n, q, 2] = (s.rd .GTE_CNT_v [h.n, q, 2] + 1) % 2 ^ 64 ∧ partsBut [.frames] s t ∧ fieldsBut [.GTE_CNT_v] s t)
      ∧ (s.on .GTE_PROF_late_act p = false → ∃ t, exec (.launchTest port) s = .next t ∧ dropped s t f.id h 0x0C ∧ t.queueIds h q = []
        ∧ t.rd .GTE_CNT_v [h.n, q, 1] = (s.rd .GTE_CNT_v [h.n, q, 1] + 1) % 2 ^ 64 ∧ partsBut (.buf :: .sched :: .lanes :: dropParts) s t)))

/-- R219, R223, R224, R225: EPOCH_LOAD makes its grid pending and the grid ARMED or RUNNING_PEND; EPOCH_STOP stops an ARMED grid at once and a running one at its next boundary; the pending grid starts or swaps at its time; a boundary counts an epoch change in the half whose epoch ends first, or in both while their network times agree, and ends a grid that stops; the copies that stand in an epoch queue at the change are left over, and a purge frees and counts the half's stale ones. The state before EPOCH_LOAD and EPOCH_STOP is taken with a pending grid whose time has passed already active (`gridDue`: log entry 29). The owner half's time starts and stops the grid, and each half's own time ends its epochs (log entry 75). -/
def Obligations.EpochGrid : Prop :=
  (∀ (s u : State) (d : Hdr) (sec ns len slots og cg : Nat) (bs : List Byte),
    served s d ⟨0x41, .config, true, false, 0⟩ true (cleanHdr d false false true && decide (ns < 1000000000)) → 1000 ≤ len → len ≤ 100000000 → slots ≠ 0 → slots ≤ 1024 →
    og + cg < len → u = s.gridDue → d.buf = some bs →
    (s.rd .EPC_STAT_state [0] ≠ 4 →
      due s (.epochLoad d sec ns len slots og cg) → ∃ t, exec (.epochLoad d sec ns len slots og cg) s = .next t ∧ completed u t d 0 0 0
        ∧ t.timed.gridP = some ⟨(startOf (sec * 1000000000 + ns) (len * slots) (s.now s.owner)).1, len, slots, og, cg, (List.range slots).map (fun i => le bs (128 * i) 128)⟩
        ∧ t.timed.gridA = u.timed.gridA
        ∧ ((u.rd .EPC_STAT_state [0] = 0 ∨ u.rd .EPC_STAT_state [0] = 1) → t.rd .EPC_STAT_state [0] = 1)
        ∧ ((u.rd .EPC_STAT_state [0] = 2 ∨ u.rd .EPC_STAT_state [0] = 3) → t.rd .EPC_STAT_state [0] = 3)
        ∧ partsBut [.timed] u t)
    ∧ (s.rd .EPC_STAT_state [0] = 4 → due s (.epochLoad d sec ns len slots og cg) → ∃ t, exec (.epochLoad d sec ns len slots og cg) s = .next t ∧ completed s t d 1 0x39 0 ∧ partsBut [] s t ∧ fieldsBut [] s t))
  ∧ (∀ (s u : State) (d : Hdr), served s d ⟨0x42, .config, true, false, 0⟩ true (cleanHdr d false false false) → u = s.gridDue →
    (u.rd .EPC_STAT_state [0] = 0 → due s (.epochStop d) → ∃ t, exec (.epochStop d) s = .next t ∧ completed u t d 1 0x38 0 ∧ partsBut [] u t ∧ fieldsBut [] u t)
    ∧ (u.rd .EPC_STAT_state [0] = 1 → due s (.epochStop d) → ∃ t, exec (.epochStop d) s = .next t ∧ completed u t d 0 0 0 ∧ t.rd .EPC_STAT_state [0] = 0 ∧ t.timed.gridP = none
        ∧ partsBut [.timed] u t ∧ fieldsBut [.EPC_STAT_state] u t)
    ∧ (u.rd .EPC_STAT_state [0] = 2 ∨ u.rd .EPC_STAT_state [0] = 3 → due s (.epochStop d) → ∃ t, exec (.epochStop d) s = .next t ∧ t.host.cpls = u.host.cpls ∧ t.rd .EPC_STAT_state [0] = 4
        ∧ t.timed.gridP = none ∧ t.timed.gridA = u.timed.gridA ∧ t.timed.stopDesc = some d ∧ partsBut [.timed] u t ∧ fieldsBut [.EPC_STAT_state] u t)
    ∧ (u.rd .EPC_STAT_state [0] = 4 → due s (.epochStop d) → ∃ t, exec (.epochStop d) s = .next t ∧ completed u t d 1 0x39 0 ∧ partsBut [] u t ∧ fieldsBut [] u t))
  ∧ (∀ (s : State) (g : Grid), s.timed.gridP = some g →
    (s.rd .EPC_STAT_state [0] = 1 → ∃ t, exec .epochGridStart s = .next t ∧ t.timed.gridA = some g ∧ t.timed.gridP = none
      ∧ (∀ h : Half, s.xingBusy h 2 0 = false → t.epochNo h = t.epochAt h g)
      ∧ (∀ i, t.fr? i = (s.fr? i).map (fun f => if f.loc = .queued ∧ s.epQueue f.egress f.queue = true ∧ s.xingBusy f.egress 2 0 = false then { f with purge := true } else f))
      ∧ t.rd .EPC_STAT_state [0] = 2 ∧ (s.mode = 3 → t.mode = 4) ∧ partsBut [.time, .timed, .frames] s t)
    ∧ (s.rd .EPC_STAT_state [0] = 3 → ∃ t, exec .epochGridSwap s = .next t ∧ t.timed.gridA = some g ∧ t.timed.gridP = none
      ∧ (∀ h : Half, s.xingBusy h 2 0 = false → t.epochNo h = t.epochAt h g)
      ∧ (∀ i, t.fr? i = (s.fr? i).map (fun f => if f.loc = .queued ∧ s.epQueue f.egress f.queue = true ∧ s.xingBusy f.egress 2 0 = false then { f with purge := true } else f))
      ∧ t.rd .EPC_STAT_state [0] = 2 ∧ t.mode = s.mode ∧ partsBut [.time, .timed, .frames] s t))
  ∧ (∀ (s : State) (g : Grid), s.timed.gridA = some g → s.timed.gridP = none → (∀ h : Half, s.xingBusy h 2 0 = false) →
    (s.rd .EPC_STAT_state [0] ≠ 4 → 0 < g.slots →
      ∃ t, exec .epochBoundary s = .next t
        ∧ (∀ h : Half, s.epochLeft h g ≤ s.epochLeft h.other g → t.epochNo h = s.epochNo h + 1 ∧ t.epochCnt h = s.epochCnt h + 1)
        ∧ (∀ h : Half, s.epochLeft h.other g < s.epochLeft h g → t.epochNo h = s.epochNo h ∧ t.epochCnt h = s.epochCnt h)
        ∧ (s.epochLeft s.owner g ≤ s.epochLeft s.owner.other g →
          t.rd .EPC_EPOCH_v [0] = unsigned 64 (s.epochNo s.owner + 1) ∧ t.rd .EPC_CNT_v [0, 0] = (s.rd .EPC_CNT_v [0, 0] + 1) % 2 ^ 64)
        ∧ (∀ i, t.fr? i = (s.fr? i).map (fun f =>
            if f.loc = .queued ∧ s.epQueue f.egress f.queue = true ∧ s.epochLeft f.egress g ≤ s.epochLeft f.egress.other g then { f with purge := true } else f))
        ∧ partsBut [.time, .timed, .frames] s t ∧ fieldsBut [.EPC_EPOCH_v, .EPC_STAT_slot, .EPC_CNT_v, .GTE_HALF_CNT_v] s t)
    ∧ (s.rd .EPC_STAT_state [0] = 4 → s.epochLeft s.owner g ≤ s.epochLeft s.owner.other g →
      ∃ t, exec .epochBoundary s = .next t ∧ t.timed.gridA = none ∧ t.rd .EPC_STAT_state [0] = 0 ∧ (s.mode = 4 → t.mode = 3)
        ∧ (∀ d, s.timed.stopDesc = some d → completed s t d 0 0 0)))
  ∧ (∀ (s : State) (h : Half), (∀ f ∈ s.frames, f.id < s.nextId) →
    ∃ t, exec (.epochPurge h) s = .next t ∧ t.timed.epE = s.timed.epE ∧ t.timed.epW = s.timed.epW
      ∧ (∀ f ∈ s.frames, f.loc = .queued → f.egress = h → s.stale f = true → t.fr? f.id = none)
      ∧ t.rd .TEL_DROP_CNT_v [h.n, 0x0E] = (s.rd .TEL_DROP_CNT_v [h.n, 0x0E] + (s.frames.filter (fun f => f.loc = .queued && f.egress = h && s.stale f)).length) % 2 ^ 64
      ∧ (∀ i, i < s.nextId → (∀ f ∈ s.frames, f.id = i → ¬ (f.loc = .queued ∧ f.egress = h ∧ s.stale f = true)) → t.fr? i = s.fr? i))

/-- R180–R185: within the range of R180 TIM_INC is held back to its apply edge, the first multiple of 1,024 ticks at least 2,048 away, and its write restarts the watchdog; out of range it sets INC_RANGE; in a holdover that holds, or without lockstep, it is refused. A requested step waits for its apply edge, and a second one meanwhile only sets STEP_BUSY. TIM_CFG waits likewise, and so do GM_SET and HOLDOVER_EXIT, whose waiting writes count in TIM_INC's test of holdover (log entry 38). The watchdog enters holdover and reports it. -/
def Obligations.TimeCommands : Prop :=
  (∀ (s : State) (value v : Nat), v = value % 2 ^ 40 →
    ((v < 0xFFBE76C9 ∨ 0x100418937 < v) → s.regOff false = false → ∃ t, exec (.timIncWrite value) s = .next t ∧ t.rd .TIM_STAT_inc_range [0] = 1 ∧ partsBut [] s t ∧ fieldsBut [.TIM_STAT_inc_range] s t)
    ∧ (0xFFBE76C9 ≤ v → v ≤ 0x100418937 →
      (((s.holdNext ≠ 0 ∧ s.on .TIM_CFG_hold_en [0] = true) ∨ s.on .TIM_STAT_lockstep_lost [0] = true) →
        s.regOff false = false → ∃ t, exec (.timIncWrite value) s = .next t ∧ t.rd .TIM_STAT_inc_refused [0] = 1 ∧ t.rd .TIM_CNT_v [0, 4] = (s.rd .TIM_CNT_v [0, 4] + 1) % 2 ^ 64
          ∧ partsBut [] s t ∧ fieldsBut [.TIM_STAT_inc_refused, .TIM_CNT_v] s t)
      ∧ ((s.holdNext = 0 ∨ s.on .TIM_CFG_hold_en [0] = false) → s.on .TIM_STAT_lockstep_lost [0] = false →
        s.regOff false = false → ∃ t e, exec (.timIncWrite value) s = .next t ∧ t.time.pendCfg = s.time.pendCfg ++ [(e, .TIM_INC_inc, [0], v)] ∧ t.time.wdStart = s.time.elapsed
          ∧ e % 1024 = 0 ∧ s.time.elapsed + 2048 ≤ e ∧ e < s.time.elapsed + 3072 ∧ t.time.incE = s.time.incE ∧ partsBut [.time] s t ∧ fieldsBut [] s t)))
  ∧ (∀ s : State,
    (s.rd .TIM_STAT_step_pend [0] = 0 → s.regOff false = false → ∃ t r, exec .stepGo s = .next t ∧ t.time.pendStep = some r ∧ r.due % 1024 = 0 ∧ s.time.elapsed + 2048 ≤ r.due ∧ r.due < s.time.elapsed + 3072
      ∧ r.abs = decide (s.lastW .TIM_STEP_LO_abs [0] ≠ 0) ∧ r.neg = decide (s.lastW .TIM_STEP_LO_neg [0] ≠ 0)
      ∧ r.value = s.lastW .TIM_STEP_HI_sec [0] * tsSec + s.lastW .TIM_STEP_LO_ns [0] * tsNs + s.lastW .TIM_STEP_LO_frac [0] * 65536
      ∧ t.rd .TIM_STAT_step_pend [0] = 1 ∧ t.time.tE = s.time.tE ∧ partsBut [.time] s t ∧ fieldsBut [.TIM_STAT_step_pend] s t)
    ∧ (s.rd .TIM_STAT_step_pend [0] ≠ 0 → s.regOff false = false → ∃ t, exec .stepGo s = .next t ∧ t.rd .TIM_STAT_step_busy [0] = 1 ∧ partsBut [] s t ∧ fieldsBut [.TIM_STAT_step_busy] s t))
  ∧ (∀ (s : State) (value : Nat), s.regOff false = false → ∃ t e, exec (.timCfgWrite value) s = .next t ∧ t.time.wdStart = s.time.elapsed
      ∧ t.time.pendCfg = s.time.pendCfg ++ [(e, .TIM_CFG_ref_src, [0], bits value 0 2), (e, .TIM_CFG_hold_en, [0], bits value 2 1),
          (e, .TIM_CFG_guard_en, [0], bits value 3 1), (e, .TIM_CFG_wd_ms, [0], bits value 4 16)]
      ∧ e % 1024 = 0 ∧ s.time.elapsed + 2048 ≤ e ∧ e < s.time.elapsed + 3072 ∧ partsBut [.time] s t ∧ fieldsBut [] s t)
  ∧ (∀ s : State,
    (s.regOff false = false → ∃ t e, exec .gmSet s = .next t ∧ t.time.pendCfg = s.time.pendCfg ++ [(e, .TIM_STAT_holdover, [0], 2)]
      ∧ e % 1024 = 0 ∧ s.time.elapsed + 2048 ≤ e ∧ e < s.time.elapsed + 3072 ∧ partsBut [.time] s t ∧ fieldsBut [] s t)
    ∧ (s.regOff false = false → ∃ t e, exec .holdoverExit s = .next t ∧ t.time.pendCfg = s.time.pendCfg ++ [(e, .TIM_STAT_holdover, [0], 1)]
      ∧ e % 1024 = 0 ∧ s.time.elapsed + 2048 ≤ e ∧ e < s.time.elapsed + 3072 ∧ partsBut [.time] s t ∧ fieldsBut [] s t))
  ∧ (∀ s : State, s.rd .TIM_STAT_holdover [0] = 0 →
    s.rd .TIM_CFG_wd_ms [0] ≠ 0 → ∃ t pre, exec .watchdogExpiry s = .next t ∧ t.rd .TIM_STAT_holdover [0] = 1
      ∧ t.time.elapsed = max s.time.elapsed (s.time.wdStart + s.rd .TIM_CFG_wd_ms [0] * 1000000)
      ∧ t.host.events = s.host.events ++ pre ++ [⟨0x0030, 2, record 32 [(0, 1, 1)]⟩] ∧ partsBut [.time] s t ∧ fieldsBut [.TIM_STAT_holdover] s t)

/-- R178, R179, R181, R184, R185: an apply edge comes at the next multiple of 1,024 ticks; writes that are due take effect there in both halves, and GM_SET and HOLDOVER_EXIT enter and leave holdover there; a step that is due, relative or absolute, moves both halves by its size; one that the guard refuses, or that comes without lockstep, moves neither and is counted. The loss of the reference is reported once; without lockstep West's rate then drifts within the 0.5 ns of R185, a free value, until TIME_REF_RESTORED. TIM_NOW_LO latches the seconds, TIM_ELAPSED answers the ticks. That the register view reads East's counter, and when West's rate is drawn, is log entry 39. -/
def Obligations.ApplyEdgeAndReference : Prop :=
  (∀ s : State, ∃ t, exec .timeApplyEdge s = .next t ∧ t.time.elapsed = nextMultiple 1024 s.time.elapsed
    ∧ (∀ w ∈ t.time.pendCfg, t.time.elapsed < w.1 ∧ w ∈ s.time.pendCfg)
    ∧ (s.time.pendCfg = [(nextMultiple 1024 s.time.elapsed, .TIM_STAT_holdover, [0], 2)] → t.rd .TIM_STAT_holdover [0] ≠ 0)
    ∧ (s.time.pendCfg = [(nextMultiple 1024 s.time.elapsed, .TIM_STAT_holdover, [0], 1)] → t.rd .TIM_STAT_holdover [0] = 0
      ∧ (s.rd .TIM_STAT_holdover [0] ≠ 0 → t.time.wdStart = t.time.elapsed))
    ∧ (∀ v, s.time.pendCfg = [(nextMultiple 1024 s.time.elapsed, .TIM_INC_inc, [0], v)] → v < 2 ^ 40 → s.rd .TIM_STAT_lockstep_lost [0] = 0 → t.time.incE = v ∧ t.time.incW = v ∧ t.rd .TIM_INC_inc [0] = v))
  ∧ (∀ (s : State) (r : StepReq) (aE aW : Ts) (D : Int), s.time.pendStep = some r → r.due ≤ nextMultiple 1024 s.time.elapsed → s.time.pendCfg = [] → s.time.resyncDue = none →
    aE = (s.time.tE + (nextMultiple 1024 s.time.elapsed - s.time.elapsed) * s.time.incE) % tsMod → aW = (s.time.tW + (nextMultiple 1024 s.time.elapsed - s.time.elapsed) * s.time.incW) % tsMod →
    D = (if r.abs then (r.value : Int) - (aE : Int) else if r.neg then -(r.value : Int) else (r.value : Int)) →
    (s.rd .TIM_STAT_lockstep_lost [0] = 0 → (s.rd .TIM_CFG_guard_en [0] = 0 ∨ D.natAbs ≤ s.rd .TIM_GUARD_guard_ns [0] * tsNs) →
    ∃ t, exec .timeApplyEdge s = .next t ∧ t.time.pendStep = none ∧ t.rd .TIM_STAT_step_pend [0] = 0
      ∧ t.time.tE = tsAdd aE D ∧ t.time.tW = tsAdd aW D)
    ∧ ((s.rd .TIM_STAT_lockstep_lost [0] ≠ 0 ∨ (s.rd .TIM_CFG_guard_en [0] ≠ 0 ∧ s.rd .TIM_GUARD_guard_ns [0] * tsNs < D.natAbs)) →
    ∃ t, exec .timeApplyEdge s = .next t ∧ t.time.pendStep = none ∧ t.rd .TIM_STAT_step_pend [0] = 0 ∧ t.rd .TIM_STAT_step_refused [0] = 1
      ∧ t.rd .TIM_CNT_v [0, 3] = (s.rd .TIM_CNT_v [0, 3] + 1) % 2 ^ 64 ∧ t.time.tE = aE ∧ t.time.tW = aW))
  ∧ (∀ s : State, s.rd .TIM_STAT_ref_lost [0] = 0 → ∃ t, exec .timeRefLost s = .next t ∧ t.rd .TIM_STAT_ref_lost [0] = 1
      ∧ t.host.events = s.host.events ++ [⟨0x0032, 2, record 32 [(0, 1, s.rd .TIM_CFG_ref_src [0])]⟩] ∧ t.time = { s.time with incW := t.time.incW }
      ∧ (s.rd .TIM_STAT_lockstep_lost [0] = 0 → t.time.incW = s.time.incE) ∧ s.time.incE ≤ t.time.incW + 2147 ∧ t.time.incW ≤ s.time.incE + 2147
      ∧ partsBut [.time, .fresh] s t ∧ fieldsBut [.TIM_STAT_ref_lost] s t)
  ∧ (∀ s : State, ∃ t, exec .timeRefRestored s = .next t ∧ t.rd .TIM_STAT_ref_lost [0] = 0 ∧ t.time = { s.time with incW := s.time.incE } ∧ partsBut [.time] s t ∧ fieldsBut [.TIM_STAT_ref_lost] s t)
  ∧ (∀ s : State, (s.regOff false = false → ∃ t, exec (.timeRead true) s = .next t ∧ t.host.resp = s.time.elapsed % 2 ^ 64 ∧ partsBut [] s t ∧ fieldsBut [] s t)
    ∧ (s.regOff false = false → ∃ t, exec (.timeRead false) s = .next t ∧ t.host.resp = tFrac s.time.tE + tNs (tRound s.time.tE) * 2 ^ 16
      ∧ t.rd .TIM_NOW_HI_sec [0] = tSec (tRound s.time.tE) % 2 ^ 64 ∧ partsBut [] s t ∧ fieldsBut [.TIM_NOW_HI_sec] s t))

/-- R195, R196, R199, R200: a transmit timestamp that is owed joins its half's queue, or is counted as lost where it holds 256; a read of TIM_TXTS_W1 pops the queue's head. An edge at a pin in capture mode that takes it, at least 16 ticks after the last one taken, joins the pin's queue, or is counted as lost where it holds 16; a read of TIM_TIO_CAP_HI pops its head. A pin in output mode with valid settings starts a pulse or ends the one that runs. Network time at a pin is East's (log entry 39). -/
def Obligations.TimestampsAndPins : Prop :=
  (∀ (s : State) (h : Half) (e : Half × TxTs), s.time.txtsReq.find? (fun e => e.1 = h) = some e →
    ((s.txts h).length < 256 → ∃ t, exec (.txtsEntry h) s = .next t ∧ t.txts h = s.txts h ++ [e.2] ∧ t.txts h.other = s.txts h.other
      ∧ t.time.txtsReq = s.time.txtsReq.erase e
      ∧ t.host.events = s.host.events ++ (if (s.txts h).isEmpty then [⟨0x0034, h.n, record 32 [(0, 1, h.n)]⟩] else []) ∧ partsBut [.time] s t ∧ fieldsBut [] s t)
    ∧ (256 ≤ (s.txts h).length → ∃ t, exec (.txtsEntry h) s = .next t ∧ t.txts h = s.txts h ∧ t.rd .TIM_CNT_v [0, h.n] = (s.rd .TIM_CNT_v [0, h.n] + 1) % 2 ^ 64
      ∧ t.time.txtsReq = s.time.txtsReq.erase e ∧ partsBut [.time] s t ∧ fieldsBut [.TIM_CNT_v, .TIM_STAT_txts_ovf_e, .TIM_STAT_txts_ovf_w] s t))
  ∧ (∀ (s : State) (h : Half) (e : TxTs) (q : List TxTs), s.txts h = e :: q →
    s.regOff false = false → ∃ t, exec (.txtsPop h) s = .next t ∧ t.txts h = q ∧ t.txts h.other = s.txts h.other ∧ t.host.resp = tFrac e.t + tSec (tRound e.t) % 2 ^ 48 * 2 ^ 16
      ∧ partsBut [.time] s t ∧ fieldsBut [] s t)
  ∧ (∀ (s : State) (pin : Nat) (rising : Bool), s.rd .TIM_TIO_CFG_mode [0, pin] = 1 → bit (s.rd .TIM_TIO_CFG_edge [0, pin]) (if rising then 0 else 1) = true →
    (∀ l, s.time.tioLast.get? [pin] = some l → l + 16 ≤ s.time.elapsed) →
    ((s.time.tio.getD [pin] []).length < 16 → ∃ t, exec (.tioEdge pin rising) s = .next t
      ∧ t.time.tio.getD [pin] [] = s.time.tio.getD [pin] [] ++ [(!rising, s.time.tE)] ∧ t.time.tioLast.get? [pin] = some s.time.elapsed ∧ partsBut [.time] s t ∧ fieldsBut [] s t)
    ∧ (16 ≤ (s.time.tio.getD [pin] []).length → ∃ t, exec (.tioEdge pin rising) s = .next t ∧ t.time.tio = s.time.tio
      ∧ t.rd .TIM_CNT_v [0, 7 + pin] = (s.rd .TIM_CNT_v [0, 7 + pin] + 1) % 2 ^ 64 ∧ partsBut [.time] s t ∧ fieldsBut [.TIM_CNT_v] s t))
  ∧ (∀ (s : State) (pin : Nat) (e : Bool × Ts) (q : List (Bool × Ts)), s.time.tio.getD [pin] [] = e :: q →
    s.regOff false = false → ∃ t, exec (.tioCapPop pin) s = .next t ∧ t.time.tio.getD [pin] [] = q ∧ t.host.resp = tFrac e.2 + tSec (tRound e.2) % 2 ^ 48 * 2 ^ 16
      ∧ partsBut [.time] s t ∧ fieldsBut [] s t)
  ∧ (∀ (s : State) (pin : Nat), s.rd .TIM_TIO_CFG_mode [0, pin] = 2 → s.tioBad pin = false →
    (s.time.tioHigh.get? [pin] = none → ∃ t, exec (.tioOutputEdge pin) s = .next t ∧ t.time.tioPin.get? [pin] = some true
      ∧ t.time.tioHigh.get? [pin] = some (t.time.elapsed + s.rd .TIM_TIO_OUT_width [0, pin]) ∧ partsBut [.time] s t ∧ fieldsBut [] s t)
    ∧ (∀ e, s.time.tioHigh.get? [pin] = some e → ∃ t, exec (.tioOutputEdge pin) s = .next t ∧ t.time.tioPin.get? [pin] = none ∧ t.time.tioHigh.get? [pin] = none
      ∧ t.time.elapsed = max s.time.elapsed e ∧ partsBut [.time] s t ∧ fieldsBut [] s t))

/-- R241, R244, R245, R246, R263: TOA_GROUP_OPEN of a closed group within its quotas opens it under its next incarnation and completes with that; TOA_GROUP_CLOSE frees the blocks of an open one and completes when its closing is done; TOA_MEMBER_SET replaces one member, from the next frame that the unit handles; TOA_GROUP_READ writes the group's record. Each is refused in a state that does not allow it. That a close also drops the group's emissions that wait, and that the members written act together, is log entry 41. -/
def Obligations.ToantonGroups : Prop :=
  (∀ (s : State) (d : Hdr) (bs : List Byte) (gid : Nat) (g : Grp), served s d ⟨0x50, .config, true, true, 0⟩ true (cleanHdr d false false true) → d.buf = some bs →
    (d.fn = 0 ∨ le bs 2 1 = fnSlice d.fn) → groupOf bs = some (gid, g) →
    ((s.grp gid).st = 0 → s.rd .TOA_SLICE_USE_groups [32, g.slice] + 1 ≤ s.rd .TOA_SLICE_CFG_max_groups [g.unit, g.slice] →
      s.rd .TOA_SLICE_USE_members [32, g.slice] + g.members ≤ s.rd .TOA_SLICE_CFG_max_members [g.unit, g.slice] → g.members ≤ s.rd .TOA_UNIT_STAT_mem_free [g.unit] →
      due s (.toaGroupOpen d) → ∃ t inc, exec (.toaGroupOpen d) s = .next t ∧ inc = (if (s.grp gid).inc = 65535 then 1 else (s.grp gid).inc + 1) ∧ completed s t d 0 0 inc
        ∧ t.grp gid = { g with inc := inc } ∧ (∀ x, x ≠ gid → t.grp x = s.grp x) ∧ partsBut [.toa] s t
        ∧ fieldsBut [.TOA_SLICE_USE_groups, .TOA_SLICE_USE_members, .TOA_UNIT_STAT_mem_free, .TOA_UNIT_STAT_groups] s t)
    ∧ ((s.grp gid).st ≠ 0 → due s (.toaGroupOpen d) → ∃ t, exec (.toaGroupOpen d) s = .next t ∧ completed s t d 1 (if (s.grp gid).st = 1 then 0x40 else 0x42) 0 ∧ partsBut [] s t ∧ fieldsBut [] s t))
  ∧ (∀ (s : State) (d : Hdr) (gid : Nat), served s d ⟨0x51, .config, true, true, 0⟩ (s.ownGroup d gid) (cleanHdr d false false false && decide (gid < 4096)) →
    ((s.grp gid).st = 1 → due s (.toaGroupClose d gid) → ∃ t, exec (.toaGroupClose d gid) s = .next t ∧ t.host.cpls = s.host.cpls
      ∧ t.grp gid = { s.grp gid with st := 2, blks := [], memNext := [], closeDesc := some d, discarded := (s.grp gid).slots } ∧ (∀ x, x ≠ gid → t.grp x = s.grp x)
      ∧ (∀ e ∈ t.toa.emitQ.getD [(s.grp gid).unit] [], e.group ≠ gid) ∧ partsBut [.toa] s t
      ∧ fieldsBut [.TOA_UNIT_STAT_gran_free, .TOA_UNIT_STAT_blocks, .TOA_SLICE_USE_granules, .TOA_UNIT_CNT_v] s t)
    ∧ ((s.grp gid).st ≠ 1 → due s (.toaGroupClose d gid) → ∃ t, exec (.toaGroupClose d gid) s = .next t ∧ completed s t d 1 (if (s.grp gid).st = 0 then 0x41 else 0x42) 0 ∧ partsBut [] s t ∧ fieldsBut [] s t))
  ∧ (∀ (s : State) (gid : Nat), (s.grp gid).st = 2 → s.serves (Half.of ((s.grp gid).unit / 16)) 7 [BitVec.ofNat 64 gid] = true →
    ∃ t, exec (.toaCloseDone gid) s = .next t ∧ (t.grp gid).st = 0 ∧ (t.grp gid).inc = (s.grp gid).inc ∧ (∀ x, x ≠ gid → t.grp x = s.grp x)
      ∧ (∀ d, (s.grp gid).closeDesc = some d → completed s t d 0 0 (s.grp gid).discarded) ∧ partsBut [.toa] s t
      ∧ fieldsBut [.TOA_SLICE_USE_groups, .TOA_SLICE_USE_members, .TOA_UNIT_STAT_mem_free, .TOA_UNIT_STAT_groups] s t)
  ∧ (∀ (s : State) (d : Hdr) (gid member : Nat) (bs : List Byte) (m : Member),
    served s d ⟨0x52, .config, true, true, 0⟩ (s.ownGroup d gid) (cleanHdr d false false true && decide (gid < 4096)) → d.buf = some bs →
    ((s.grp gid).st = 1 → memberOf (s.grp gid).ip6 bs = some m → member < (s.grp gid).members →
      due s (.toaMemberSet d gid member) → ∃ t, exec (.toaMemberSet d gid member) s = .next t ∧ completed s t d 0 0 0 ∧ (t.grp gid).memNext.get? [member] = some m
        ∧ (∀ k, k ≠ [member] → (t.grp gid).memNext.get? k = (s.grp gid).memNext.get? k) ∧ (t.grp gid).mem = (s.grp gid).mem
        ∧ ((s.grp gid).memNext = [] → ∀ u, ((t.toaRenew u).grp gid).mem.get? [member] = (if (s.grp gid).unit = u then some m else (s.grp gid).mem.get? [member])) ∧ (∀ x, x ≠ gid → t.grp x = s.grp x) ∧ partsBut [.toa] s t ∧ fieldsBut [] s t)
    ∧ ((s.grp gid).st ≠ 1 → due s (.toaMemberSet d gid member) → ∃ t, exec (.toaMemberSet d gid member) s = .next t ∧ completed s t d 1 (if (s.grp gid).st = 0 then 0x41 else 0x42) 0
        ∧ partsBut [] s t ∧ fieldsBut [] s t))
  ∧ (∀ (s : State) (d : Hdr) (gid : Nat), served s d ⟨0x53, .reads, false, true, 0⟩ (s.ownGroup d gid) (cleanHdr d false false true && decide (gid < 4096)) → d.buf.isSome = true →
    due s (.toaGroupRead d gid) → ∃ t, exec (.toaGroupRead d gid) s = .next t ∧ completed s t d 0 0 0 ∧ partsBut [] s t ∧ fieldsBut [] s t
      ∧ (s.on .HST_RING_CFG_en [d.fn, d.ring + 4] = false → s.on .HST_RING_CFG_en [0, 8] = false → t.host.mem = s.host.mem.setBytes d.haddr (groupRecord (s.grp gid))))

/-- R249, R250, R252, R255, R257: a contribution of the accepted form to a block in ACCUM, or the first one to a FREE block that gets a slot, is added to the block's accumulators; the last member's makes the block CACHED with the rounded result and queues a RESULT for every member. The last member's ACK ends the block and moves the window past it. The head of a unit's emission queue enters ingress through its port; a stalled block and an expired result are reported as their timers say. Conversion saturates at the window's largest magnitude, and INT32 passes a window of 2^0 unchanged. A RESULT takes its payload from the slot as it is emitted (log entry 41). -/
def Obligations.ToantonReduction : Prop :=
  (∀ (s r : State) (u gid : Nat) (f : Frame) (x : ToaHdr) (g : Grp) (m : Member) (k k' : Blk), r = s.toaRenew u →
    s.toaHead u = some f → s.toaRead u f = some x → s.on .TOA_CFG_en [u] = true → x.bad = false → gid = x.group → g = r.grp gid → g.st = 1 → g.unit = u → x.inc = g.inc →
    f.slice = g.slice → x.member < g.members → g.mem.get? [x.member] = some m → x.ip6 = g.ip6 → x.src = m.ip → x.fmt = g.fmtIn + 16 * g.fmtOut →
    (x.block + 2 ^ 32 - g.base) % 2 ^ 32 < 256 → s.ras.poison = [] →
    (x.op = 1 → x.count ≠ 0 → x.count ≤ g.blkElems →
      ((g.blk x.block).st = .accum ∧ k = g.blk x.block ∨ (g.blk x.block).st = .free ∧ k = ⟨.accum, [], [], x.count, 0, List.replicate x.count 0, [], s.elapsed, false⟩
        ∧ g.slots < g.maxBlocks ∧ slotGran g ≤ s.rd .TOA_UNIT_STAT_gran_free [u]
        ∧ s.rd .TOA_SLICE_USE_granules [32, g.slice] + slotGran g ≤ s.rd .TOA_SLICE_CFG_max_granules [u, g.slice]) →
      k.count = x.count → x.member ∉ k.data →
      k' = { k with acc := (addElems g.winLsb (g.winTop - g.winLsb).toNat g.fmtIn x.payload k.acc).1, data := k.data ++ [x.member], flags := k.flags ||| (addElems g.winLsb (g.winTop - g.winLsb).toNat g.fmtIn x.payload k.acc).2 } →
      ∃ t, exec (.toaData u) s = .next t ∧ t.fr? f.id = none ∧ (∀ i, i ≠ f.id → t.fr? i = s.fr? i)
        ∧ t.rd .TOA_UNIT_CNT_v [u, 0] = (s.rd .TOA_UNIT_CNT_v [u, 0] + 1) % 2 ^ 64 ∧ (∀ y, y ≠ gid → t.grp y = r.grp y)
        ∧ (if k'.data.length < g.members then (t.grp gid).blk x.block = k' ∧ t.toa.emitQ = s.toa.emitQ
          else (t.grp gid).blk x.block = 
              { k' with st := .cached, acc := [], flags := k'.flags ||| (roundElems g.winLsb g.fmtOut k'.acc).2, result := (roundElems g.winLsb g.fmtOut k'.acc).1, t0 := s.elapsed }
            ∧ t.toa.emitQ.getD [u] [] = s.toa.emitQ.getD [u] [] ++ (List.range g.members).map (fun j => ⟨gid, j, 2, x.block, k'.count,
                k'.flags ||| (roundElems g.winLsb g.fmtOut k'.acc).2, 0, resultBytes ((t.grp gid).blk x.block)⟩))
        ∧ partsBut [.frames, .tables, .ras, .toa] s t)
    ∧ (x.op = 3 → x.count = 0 → k = g.blk x.block → k.st = .cached → x.member ∉ k.ack →
      ∃ t, exec (.toaAck u) s = .next t ∧ t.fr? f.id = none ∧ (∀ y, y ≠ gid → t.grp y = r.grp y)
        ∧ (k.ack.length + 1 < g.members → t.grp gid = { g with blks := g.blks.set [x.block] { k with ack := k.ack ++ [x.member] } })
        ∧ (g.members ≤ k.ack.length + 1 → (t.grp gid).done = g.done + 1 ∧ (x.block = g.base → (t.grp gid).base ≠ g.base)
            ∧ (g.base < 2 ^ 32 → ∃ n, n ≤ 257 ∧ (t.grp gid).base = (g.base + n) % 2 ^ 32
              ∧ (∀ j, j < n → (g.base + j) % 2 ^ 32 = x.block ∨ (g.blk ((g.base + j) % 2 ^ 32)).st = .done) ∧ (n < 257 → ((t.grp gid).blk (t.grp gid).base).st ≠ .done))
            ∧ t.rd .TOA_UNIT_STAT_blocks [g.unit] = (s.rd .TOA_UNIT_STAT_blocks [g.unit] - 1) % 2 ^ 11)
        ∧ partsBut [.frames, .tables, .ras, .toa] s t))
  ∧ (∀ (s : State) (u : Nat) (e e' : Emit) (q : List Emit) (m : Member) (k : Blk), s.toa.emitQ.getD [u] [] = e :: q → (s.grp e.group).mem.get? [e.member] = some m →
    s.portClear (1072 + u / 2) = true → s.ras.poison = [] → k = (s.grp e.group).blk e.block →
    e' = (if e.op = 2 ∧ k.st = .cached then { e with flags := k.flags, payload := resultBytes k } else e) → s.fr? s.nextId = none →
    ∃ t g, exec (.toaResultEmit u) s = .next t ∧ t.toa.emitQ.getD [u] [] = q ∧ t.fr? s.nextId = some g ∧ g.loc = .input ∧ g.inPort = (1072 + u / 2) % 2048
      ∧ g.bytes = toaFrame e.group (s.grp e.group) m e' ∧ (e.op = 4 → t.rd .TOA_UNIT_CNT_v [u, 13] = (s.rd .TOA_UNIT_CNT_v [u, 13] + 1) % 2 ^ 64)
      ∧ partsBut [.toa, .frames, .nextId] s t ∧ fieldsBut [.TOA_UNIT_CNT_v] s t)
  ∧ (∀ (s : State) (gid b : Nat) (g : Grp) (k : Blk), g = s.grp gid → k = g.blk b → g.st = 1 →
    (k.st = .accum → k.stalled = false → g.stallUs ≠ 0 →
      ∃ t, exec (.toaStallTimer gid b) s = .next t ∧ t.grp gid = { g with blks := g.blks.set [b] { k with stalled := true } }
        ∧ t.time.elapsed = max s.time.elapsed (k.t0 + g.stallUs * 1000)
        ∧ t.rd .TOA_UNIT_CNT_v [g.unit, 15] = (s.rd .TOA_UNIT_CNT_v [g.unit, 15] + 1) % 2 ^ 64
        ∧ (g.stallEvt = true → ∃ pre ev, t.host.events = s.host.events ++ pre ++ [ev] ∧ ev.code = 0x0050) ∧ partsBut [.time, .toa] s t ∧ fieldsBut [.TOA_UNIT_CNT_v] s t)
    ∧ (k.st = .cached → s.serves (Half.of (g.unit / 16)) 7 [BitVec.ofNat 64 gid, BitVec.ofNat 64 b] = true →
      ∃ t, exec (.toaRetainExpiry gid b) s = .next t ∧ (t.grp gid).expired = g.expired + 1 ∧ t.time.elapsed = max s.time.elapsed (k.t0 + g.retainUs * 1000)
        ∧ t.rd .TOA_UNIT_CNT_v [g.unit, 12] = (s.rd .TOA_UNIT_CNT_v [g.unit, 12] + 1) % 2 ^ 64
        ∧ (g.retainEvt = true → ∃ pre ev, t.host.events = s.host.events ++ pre ++ [ev] ∧ ev.code = 0x0051) ∧ partsBut [.time, .toa] s t
        ∧ fieldsBut [.TOA_UNIT_CNT_v, .TOA_UNIT_STAT_gran_free, .TOA_UNIT_STAT_blocks, .TOA_SLICE_USE_granules] s t))
  ∧ (∀ (lsb : Int) (w : Nat) (x : Elem), (convertElem lsb w x).1.natAbs ≤ 2 ^ w - 1)
  ∧ (∀ raw w, raw < 2 ^ 32 → 32 ≤ w → encodeElem 4 0 (convertElem 0 w (decodeElem 4 raw)).1 = (raw, 0))

/-- R309, R310, R311, R321, R373: PATCH_LOAD is rejected while a patch is ARMING and waits its turn at the Trust Block's module; an object that fails a check completes with that check's status, one whose body is malformed completes PARAM_INVALID, one with a page of the active set STATE_REJECT 0x29, and none of them changes a set; any other fills the shadow set of both halves, its microwords, match registers, pages and digest, and completes OK with the result's bit 63 (log entry 35). PATCH_ARM makes both halves ARMING, begins Maintenance and asks for the activation step; when no engine carries the old tag an engine of the PROG routine ends the activation, which completes and is reported; after a loss of the bridge each half ends its own. HAM_READ writes the words it names to its buffer, and HAM_WRITE stores them, sets their bits or clears them. -/
def Obligations.PatchesAndHamper : Prop :=
  (∀ (s : State) (d : Hdr), served s d ⟨0x70, .config, true, false, 0⟩ true (cleanHdr d false false true) →
    (s.arming = true → due s (.patchLoad d) → ∃ t, exec (.patchLoad d) s = .next t ∧ completed s t d 1 0x28 0 ∧ partsBut [] s t ∧ fieldsBut [] s t)
    ∧ (s.arming = false → s.trbWaits d = true →
      due s (.patchLoad d) → ∃ t, exec (.patchLoad d) s = .next t ∧ t.host.cpls = s.host.cpls ∧ partsBut [] s t ∧ fieldsBut [] s t)
    ∧ (∀ (bs : List Byte) (st act : Nat), s.arming = false → s.trbWaits d = false → d.buf = some bs → st = (s.objCheck bs patchMagic 0xFFFFFFFF).1 → act = s.patchSet s.owner → due s (.patchLoad d) →
      ∃ t, exec (.patchLoad d) s = .next t ∧ partsBut [.clove, .ras] s t ∧ fieldsBut [.TRB_CNT_v, .CLV_PAGES_v, .CLV_MATCH_match, .CLV_MATCH_target, .CLV_MATCH_valid] s t
      ∧ (st ≠ 0 → completed s t d st 0 0 ∧ partsBut [] s t ∧ fieldsBut [.TRB_CNT_v] s t)
      ∧ (st = 0 → patchParse (s.rd .TRB_ROM_VER_rom_ver [0]) (objBody bs) = none → completed s t d 3 0 0 ∧ partsBut [] s t ∧ fieldsBut [] s t)
      ∧ (∀ ws ms pages, st = 0 → patchParse (s.rd .TRB_ROM_VER_rom_ver [0]) (objBody bs) = some (ws, ms, pages) →
        ((pages &&& s.rd .CLV_PAGES_v [s.owner.n, act]) ≠ 0 → completed s t d 1 0x29 0 ∧ partsBut [] s t ∧ fieldsBut [] s t)
        ∧ ((pages &&& s.rd .CLV_PAGES_v [s.owner.n, act]) = 0 → completed s t d 0 0 approvedBit ∧ t.rd .TRB_CNT_v [0, 0] = s.rd .TRB_CNT_v [0, 0]
          ∧ (∀ h : Half, t.rd .CLV_PAGES_v [h.n, 1 - act] = pages
            ∧ (∀ i, i < 64 → t.rd .CLV_MATCH_valid [h.n, 1 - act, i] = if i < ms.length then 1 else 0)
            ∧ (∀ i m, ms[i]? = some m → t.rd .CLV_MATCH_match [h.n, 1 - act, i] = m.1 ∧ t.rd .CLV_MATCH_target [h.n, 1 - act, i] = m.2 - 0xC000)
            ∧ (∀ i, t.rd .CLV_MATCH_valid [h.n, act, i] = s.rd .CLV_MATCH_valid [h.n, act, i])
            ∧ (∀ w ∈ ws, (∀ x ∈ ws, x.1 = w.1 → x.2 = w.2) → t.clove.patch.getD [h.n, w.1] 0 = w.2)
            ∧ (∀ a, (∀ w ∈ ws, w.1 ≠ a) → t.clove.patch.getD [h.n, a] 0 = s.clove.patch.getD [h.n, a] 0))
          ∧ (if act = 0 then t.clove.digest1 else t.clove.digest0) = leNat (slice bs 64 48)))))
  ∧ (∀ (s : State) (d : Hdr) (mode : Nat), served s d ⟨0x71, .maint, true, false, 0⟩ true (cleanHdr d false false false && decide (mode < 2)) →
    (s.arming = true → due s (.patchArm d mode) → ∃ t, exec (.patchArm d mode) s = .next t ∧ completed s t d 1 0x28 0 ∧ partsBut [] s t ∧ fieldsBut [] s t)
    ∧ (s.arming = false → due s (.patchArm d mode) → ∃ t x, exec (.patchArm d mode) s = .next t ∧ t.host.cpls = s.host.cpls ∧ t.clove.arm = some ⟨some d, mode, s.patchSet s.owner, false⟩
      ∧ (∀ h : Half, t.rd .CLV_PATCH_CTL_state [h.n] = 1 ∧ t.rd .CLV_PATCH_CTL_mode [h.n] = mode) ∧ t.mode = 5 ∧ t.rd .SYS_MODE_base_mode [0] = s.mode
      ∧ t.rd .SYS_MODE_maint_op [0] = 2 ∧ t.ras.steps = s.ras.steps ++ [x] ∧ x.kind = .patch mode ∧ partsBut [.clove, .ras] s t
      ∧ fieldsBut [.CLV_PATCH_CTL_state, .CLV_PATCH_CTL_mode, .SYS_MODE_mode, .SYS_MODE_base_mode, .SYS_MODE_maint_op] s t))
  ∧ (∀ (s : State) (a : Arm), s.clove.arm = some a →
    (a.lost = false → s.patchDrained .E a.old = true → s.patchDrained .W a.old = true → s.serves s.owner 3 [0, 3] = true →
      ∃ t pre, exec .patchArmDrained s = .next t ∧ t.clove.arm = none ∧ (∀ h : Half, t.rd .CLV_PATCH_CTL_state [h.n] = 0)
        ∧ (∀ d, a.desc = some d → completed s t d 0 0 (1 - a.old)) ∧ (s.ras.train = [] → s.mode = 5 → s.rd .SYS_MODE_base_mode [0] < 8 → t.mode = s.rd .SYS_MODE_base_mode [0])
        ∧ t.host.events = s.host.events ++ pre ++ [⟨0x0072, 2, record 32 [(0, 1, 1 - a.old), (1, 1, a.mode)]⟩]
        ∧ partsBut [.clove] s t ∧ fieldsBut [.CLV_PATCH_CTL_state, .SYS_MODE_mode, .SYS_MODE_base_mode, .SYS_MODE_maint_op] s t)
    ∧ (a.lost = true → (∀ h : Half, s.serves h 3 [0, 3] = true) →
      ∃ t, exec .patchArmDrained s = .next t ∧ (∀ h : Half, t.rd .CLV_PATCH_CTL_state [h.n] = (if s.patchDrained h a.old = true then 0 else s.rd .CLV_PATCH_CTL_state [h.n]))
        ∧ ((∃ h : Half, s.patchDrained h a.old = false ∧ s.rd .CLV_PATCH_CTL_state [h.n] ≠ 0) → t.clove.arm = some a ∧ t.host.cpls = s.host.cpls)
        ∧ ((∀ h : Half, s.patchDrained h a.old = true) → t.clove.arm = none)
        ∧ partsBut [.clove] s t ∧ fieldsBut [.CLV_PATCH_CTL_state, .SYS_MODE_mode, .SYS_MODE_base_mode, .SYS_MODE_maint_op] s t))
  ∧ (∀ (s : State) (d : Hdr) (addr count : Nat), served s d ⟨0x72, .reads, false, false, 1⟩ true (cleanHdr d false false true) →
    (hamArgs d addr count = false → due s (.hamRead d addr count) → ∃ t, exec (.hamRead d addr count) s = .next t ∧ completed s t d 3 0 0 ∧ partsBut [] s t ∧ fieldsBut [] s t)
    ∧ (hamArgs d addr count = true → d.buf.isSome = true → s.ras.poison = [] →
      due s (.hamRead d addr count) → ∃ t, exec (.hamRead d addr count) s = .next t ∧ completed s t d 0 0 0 ∧ partsBut [] s t ∧ fieldsBut [] s t
        ∧ (s.on .HST_RING_CFG_en [d.fn, d.ring + 4] = false → s.on .HST_RING_CFG_en [0, 8] = false → s.ringUp 0 8 = false →
          t.host.mem = s.host.mem.setBytes d.haddr ((List.range count).flatMap (fun i => leBytes 8 (s.hamRead (Machine.Hdr.half d) (addr + 8 * i)))))))
  ∧ (∀ (s : State) (d : Hdr) (addr count als : Nat) (bs : List Byte), served s d ⟨0x73, .config, true, false, 1⟩ true (cleanHdr d false false true) → d.buf = some bs →
    ((hamArgs d addr count = false ∨ 3 ≤ als) → due s (.hamWrite d addr count als) → ∃ t, exec (.hamWrite d addr count als) s = .next t ∧ completed s t d 3 0 0 ∧ partsBut [] s t ∧ fieldsBut [] s t)
    ∧ (hamArgs d addr count = true → als < 3 → (s.ham (Machine.Hdr.half d)).wf0 = true → (als = 0 ∨ s.ras.poison = []) →
      due s (.hamWrite d addr count als) → ∃ t, exec (.hamWrite d addr count als) s = .next t ∧ completed s t d 0 0 0 ∧ partsBut [.clove, .ras] s t ∧ fieldsBut [.HAM_CNT_v] s t
        ∧ t.rd .HAM_CNT_v [(Machine.Hdr.half d).n, 1] = (s.rd .HAM_CNT_v [(Machine.Hdr.half d).n, 1] + (if als = 0 then 0 else count)) % 2 ^ 64
        ∧ (∀ i old, i < count → old = s.hamRead (Machine.Hdr.half d) (addr + 8 * i) →
          t.hamRead (Machine.Hdr.half d) (addr + 8 * i) = (match als with | 0 => le bs (8 * i) 8 | 1 => old ||| le bs (8 * i) 8 | _ => old - (old &&& le bs (8 * i) 8)))
        ∧ (∀ a, a % 8 = 0 → a < 0x400000 → (a < addr ∨ addr + 8 * count ≤ a) → t.hamRead (Machine.Hdr.half d) a = s.hamRead (Machine.Hdr.half d) a)
        ∧ t.ham (Machine.Hdr.half d).other = s.ham (Machine.Hdr.half d).other))

/-- R296–R307: an idle engine takes its lowest enabled pending interrupt, else the head event of its lowest queue; a microword with ALU 0, a plain sequence and nothing else writes its result, sets its flags and goes on; an illegal one faults and is recorded; a request at a line makes it pending, or overruns; the routine timer requests line 4; an OFFLINE engine restarts at DISPATCH, its faults counted afresh (log entry 45). C after ADD is the carry (log entry 22), and an interrupt's pending bit clears as it is taken (log entry 44). -/
def Obligations.CloveEngines : Prop :=
  (∀ (s : State) (h : Half) (e : Nat), e < 16 → s.rd .CLV_ENG_STAT_state [h.n, e] = 0 →
    (∀ l, s.irqReady h e = some l →
      ∃ t, exec (.cloveDispatch h e) s = .next t ∧ t.rd .CLV_ENG_STAT_state [h.n, e] = 2 ∧ t.rd .CLV_ENG_STAT_pc [h.n, e] = 4 * l
        ∧ t.rd .CLV_ENG_STAT_irq_pend [h.n, e] = (s.rd .CLV_ENG_STAT_irq_pend [h.n, e] - 2 ^ l) % 2 ^ 8 ∧ (t.eng h e).ilink = s.rd .CLV_ENG_STAT_pc [h.n, e]
        ∧ (∀ x, x ≠ e → t.eng h x = s.eng h x) ∧ partsBut [.clove, .tel] s t)
    ∧ (∀ r v q, s.irqReady h e = none → s.eligible h e = some r → s.rq h r = v :: q →
      ∃ t, exec (.cloveDispatch h e) s = .next t ∧ t.rd .CLV_ENG_STAT_state [h.n, e] = 1 ∧ t.rd .CLV_ENG_STAT_routine [h.n, e] = r
        ∧ t.rd .CLV_ENG_STAT_pc [h.n, e] = Config.routineEntry r % 65536 ∧ t.rd .CLV_ENG_STAT_tag [h.n, e] = s.patchSet h % 2 ∧ (t.eng h e).ev = some v ∧ t.rq h r = q
        ∧ (∀ x, x ≠ e → t.eng h x = s.eng h x) ∧ partsBut [.clove] s t
        ∧ fieldsBut [.CLV_ENG_STAT_state, .CLV_ENG_STAT_routine, .CLV_ENG_STAT_pc, .CLV_ENG_STAT_tag] s t))
  ∧ (∀ (s : State) (h : Half) (e n cur : Nat) (patched : Bool) (a b fv : Nat), e < 16 → s.rd .CLV_ENG_STAT_state [h.n, e] = 1 → s.ras.poison = [] →
    s.fetchAt h e = (cur, patched) → n = (s.microword h cur).toNat →
    (uwIllegal n = false → bits n 74 3 = 0 → bits n 91 5 = 0 → bits n 102 3 = 0 → bits n 51 5 = 0 → bits n 16 4 ≤ 1 → s.irqReady h e = none → s.rd .PMC_SAMP_CFG_en [h.n] = 0 →
      a = (s.eng h e).reg (bits n 33 6) → b = (if bit n 26 then bits n 128 64 else (s.eng h e).reg (bits n 39 6)) → fv = cloveFlagValue (bits n 28 5) a b s.elapsed →
      ∃ t, exec (.microwordExecute h e) s = .next t
        ∧ t.rd .CLV_ENG_STAT_pc [h.n, e] = (if bits n 16 4 = 1 then bits n 0 16 else (cur + 1) % 65536) ∧ t.rd .CLV_ENG_STAT_state [h.n, e] = 1
        ∧ (∀ v, cloveAlu (bits n 28 5) a b s.elapsed = some v → bits n 45 6 ≠ 0 → (t.eng h e).reg (bits n 45 6) = v % 2 ^ 64)
        ∧ (∀ i, (i ≠ bits n 45 6 ∨ cloveAlu (bits n 28 5) a b s.elapsed = none) → (t.eng h e).reg i = (s.eng h e).reg i)
        ∧ (bits n 28 5 ≠ 0 → (t.eng h e).z = decide (fv = 0) ∧ (t.eng h e).n = bit fv 63) ∧ (bits n 28 5 = 1 → (t.eng h e).c = decide (2 ^ 64 ≤ a + b))
        ∧ (∀ x, x ≠ e → t.eng h x = s.eng h x) ∧ partsBut [.clove, .fresh, .tel] s t ∧ fieldsBut [.CLV_ENG_STAT_pc, .CLV_ENG_STAT_state, .CLV_ENG_STAT_tag] s t)
    ∧ (uwIllegal n = true →
      ∃ t, exec (.microwordExecute h e) s = .next t ∧ t.rd .CLV_FAULT_cause [h.n, e] = 1 ∧ t.rd .CLV_FAULT_uaddr [h.n, e] = cur % 2 ^ 16
        ∧ (t.rd .CLV_ENG_STAT_state [h.n, e] = 0 ∨ t.rd .CLV_ENG_STAT_state [h.n, e] = 3)
        ∧ t.rd .CLV_CNT_v [h.n, e, 0] = (s.rd .CLV_CNT_v [h.n, e, 0] + 1) % 2 ^ 64
        ∧ (∃ post, t.host.events = s.host.events ++ ⟨0x0070, h.n, record 32 [(0, 1, 16 * h.n + e), (1, 1, 1), (2, 2, cur)]⟩ :: post) ∧ partsBut [.clove] s t))
  ∧ (∀ (s : State) (h : Half) (e line : Nat), e < 16 → line < 5 → s.xingBusy h (if line = 4 then 4 else 3) 0 = false →
    (bit (s.rd .CLV_ENG_STAT_irq_pend [h.n, e]) line = false →
      ∃ t, exec (.irqLatch h e line) s = .next t ∧ t.rd .CLV_ENG_STAT_irq_pend [h.n, e] = (s.rd .CLV_ENG_STAT_irq_pend [h.n, e] + 2 ^ line) % 2 ^ 8
        ∧ partsBut [] s t ∧ fieldsBut [.CLV_ENG_STAT_irq_pend] s t)
    ∧ (bit (s.rd .CLV_ENG_STAT_irq_pend [h.n, e]) line = true →
      ∃ t, exec (.irqLatch h e line) s = .next t ∧ t.rd .CLV_ENG_STAT_irq_ovr [h.n, e] = 1 ∧ t.rd .CLV_CNT_v [h.n, e, 2] = (s.rd .CLV_CNT_v [h.n, e, 2] + 1) % 2 ^ 64
        ∧ partsBut [] s t ∧ fieldsBut [.CLV_ENG_STAT_irq_ovr, .CLV_CNT_v, .RAS_XSTAT_ovr, .RAS_CNT_v] s t))
  ∧ (∀ (s : State) (h : Half) (e : Nat), e < 16 → s.rd .CLV_ENG_STAT_routine [h.n, e] < 10 → s.rd .CLV_ROUTE_timer_us [h.n, s.rd .CLV_ENG_STAT_routine [h.n, e]] ≠ 0 →
    bit (s.rd .CLV_ENG_STAT_irq_pend [h.n, e]) 4 = false → s.xingBusy h 4 0 = false →
    ∃ t, exec (.routineTimer h e) s = .next t ∧ t.rd .CLV_ENG_STAT_irq_pend [h.n, e] = (s.rd .CLV_ENG_STAT_irq_pend [h.n, e] + 16) % 2 ^ 8
      ∧ partsBut [] s t ∧ fieldsBut [.CLV_ENG_STAT_irq_pend] s t)
  ∧ (∀ (s : State) (h : Half) (e : Nat), e < 16 → s.rd .CLV_ENG_STAT_state [h.n, e] = 3 →
    (∃ t, exec (.engineRestart h e) s = .next t ∧ t.rd .CLV_ENG_STAT_state [h.n, e] = 0 ∧ t.rd .CLV_ENG_CTL_online [h.n, e] = 1)
    ∧ ((∀ w ∈ s.host.late, s.ringHalf w.hdr ≠ h) → (∀ w ∈ s.fdb.portDue, w.1 ≠ h) → (∀ w ∈ s.tel.histDue, w.1 ≠ h) →
      ∃ t, exec (.engineRestart h e) s = .next t ∧ t.rd .CLV_ENG_STAT_state [h.n, e] = 0 ∧ t.rd .CLV_ENG_CTL_online [h.n, e] = 1 ∧ t.rd .CLV_ENG_STAT_routine [h.n, e] = 15
        ∧ (t.eng h e).faults = [] ∧ (t.eng h e).ev = none ∧ (∀ x, x ≠ e → t.eng h x = s.eng h x) ∧ partsBut [.clove] s t
        ∧ fieldsBut [.CLV_ENG_CTL_online, .CLV_ENG_STAT_state, .CLV_ENG_STAT_routine, .CLV_ENG_STAT_tag] s t))

/-- R332, R335, R338, R339, R350, R474: a doorbell sets software's count of an enabled ring, or stops the ring where it runs beyond it; a fetch reads one descriptor, which is refused with the completion of its first failing check or taken; a descriptor that nothing holds starts, its event going to its routine's queue, for which it waits while that is full (log entry 45), and one refused at its start completes with nothing else done; the command of a descriptor that has not started, or stands behind one that holds it, does nothing (log entry 70); the context of a disabled ring takes a whole write, that of an enabled one keeps its locked fields. -/
def Obligations.DescriptorRings : Prop :=
  (∀ (s : State) (fn r count gap : Nat) (k : RingKind), ringKind fn r = some k → s.on .HST_RING_CFG_en [fn, r] = true → s.host.stopped.getD [fn, r] false = false → s.xingBusy (s.ringEngine fn r) 5 0 = false →
    gap = (if k.soft then (count % 2 ^ 32 + 2 ^ 32 - s.devIdx fn r) % 2 ^ 32 else (s.devIdx fn r + 2 ^ 32 - count % 2 ^ 32) % 2 ^ 32) →
    (gap ≤ s.ringSize fn r → s.regOff false = false → ∃ t, exec (.doorbell fn r count) s = .next t ∧ t.swIdx fn r = count % 2 ^ 32 ∧ (∀ k, k ≠ [fn, r] → t.host.swCnt.get? k = s.host.swCnt.get? k)
      ∧ t.host.cpls = s.host.cpls ∧ partsBut [] s t ∧ fieldsBut [] s t)
    ∧ (s.ringSize fn r < gap → s.regOff false = false → ∃ t, exec (.doorbell fn r count) s = .next t ∧ t.ringUp fn r = false ∧ t.rd .HST_RING_STAT_cfg_err [fn, r] = 1 ∧ t.swIdx fn r = s.swIdx fn r
      ∧ t.host.events = s.host.events ++ [⟨0x0003, 2, record 32 [(0, 1, r), (1, 1, fn), (2, 1, 2)]⟩] ∧ partsBut [] s t ∧ fieldsBut [.HST_RING_STAT_cfg_err] s t))
  ∧ (∀ (s u : State) (fn r : Nat) (b : List Byte) (d : Hdr), fn ≤ 64 → r < 4 → s.ringUp fn r = true → s.ringWaiting fn r ≠ 0 → s.ringUp fn (r + 4) = true →
    s.xingBusy (s.ringEngine fn r) 5 0 = false → (s.takenOf fn r).length < s.ringSpace fn (r + 4) → s.serves (s.ringEngine fn r) 8 [BitVec.ofNat 64 (64 * fn + r)] = true → d = hdrOf fn r (s.devIdx fn r) b → u = s.st .HST_RING_STAT_dev_idx [fn, r] (s.devIdx fn r + 1) →
    (opInfo (le b 0 2) = none → ∃ t, exec (.descriptorFetch fn r (some b)) s = .next t ∧ completed s t d 4 0 0 ∧ t.devIdx fn r = (s.devIdx fn r + 1) % 2 ^ 32
      ∧ partsBut [] s t ∧ fieldsBut [] s t)
    ∧ (∀ o c, opInfo (le b 0 2) = some o → descCmd (le b 0 2) d b = some c →
      (∀ st x res, u.refusal d o.rule (u.descOwn (le b 0 2) d b) (descClean o d b) (bridgeTrain c) = some (st, x, res) →
        ∃ t, exec (.descriptorFetch fn r (some b)) s = .next t ∧ completed s t d st x res ∧ t.devIdx fn r = (s.devIdx fn r + 1) % 2 ^ 32 ∧ partsBut [] s t ∧ fieldsBut [] s t)
      ∧ (u.refusal d o.rule (u.descOwn (le b 0 2) d b) (descClean o d b) (bridgeTrain c) = none →
        ∃ t, exec (.descriptorFetch fn r (some b)) s = .next t ∧ t.host.taken = s.host.taken ++ [Taken.mk d (le b 0 2) (u.objectOf c) false c false]
          ∧ t.host.cpls = s.host.cpls ∧ t.devIdx fn r = (s.devIdx fn r + 1) % 2 ^ 32 ∧ t.rd .HST_RING_STAT_busy [fn, r] = 1 ∧ partsBut [] s t ∧ fieldsBut [] s t)))
  ∧ (∀ (s : State) (fn r cnt : Nat) (x : Taken) (o : OpInfo), (s.takenOf fn r).find? (fun t => t.hdr.cnt = cnt) = some x → x.started = false →
    heldBy ((s.takenOf fn r).takeWhile (fun a => decide (a.hdr.cnt ≠ cnt))) x.object x.hdr.fence = false → opInfo x.opcode = some o →
    (∀ st y res, s.refusal x.hdr o.rule true true (bridgeTrain x.cmd) = some (st, y, res) →
      ∃ t, exec (.descriptorStart fn r cnt) s = .next t ∧ completed s t x.hdr st y res ∧ partsBut [] s t ∧ fieldsBut [] s t)
    ∧ (s.refusal x.hdr o.rule true true (bridgeTrain x.cmd) = none →
      ∃ t, exec (.descriptorStart fn r cnt) s = .next t ∧ t.host.cpls = s.host.cpls
        ∧ (s.rqRoom (s.ringHalf x.hdr) o.routine = true → t.host.starts = s.host.starts ++ [x.hdr] ∧ (∀ a ∈ t.host.taken, sameHdr a.hdr x.hdr = true → a.started = true)
          ∧ ∃ v, t.rq (s.ringHalf x.hdr) o.routine = s.rq (s.ringHalf x.hdr) o.routine ++ [⟨[v], false, some x.hdr⟩])
        ∧ (s.rqRoom (s.ringHalf x.hdr) o.routine = false → t = settle s) ∧ partsBut [.fresh, .clove] s t ∧ fieldsBut [] s t))
  ∧ (∀ (s : State) (fn r v : Nat), (ringKind fn r).isSome = true → v < 2 ^ 64 →
    (s.on .HST_RING_CFG_en [fn, r] = false →
      s.regOff false = false → ∃ t, exec (.ringCfgWrite fn r v) s = .next t ∧ t.rd .HST_RING_CFG_log2_size [fn, r] = bits v 0 5 ∧ t.rd .HST_RING_CFG_half [fn, r] = bits v 6 1
        ∧ t.rd .HST_RING_CFG_vec [fn, r] = bits v 7 11 ∧ t.rd .HST_RING_CFG_host_port [fn, r] = bits v 18 4 ∧ t.rd .HST_RING_CFG_coal_us [fn, r] = bits v 22 8
        ∧ t.rd .HST_RING_CFG_buf_kib [fn, r] = bits v 30 5
        ∧ (bit v 5 = true → bits v 7 11 < (if fn = 0 then 1024 else 16) → t.rd .HST_RING_CFG_en [fn, r] = 1 ∧ t.devIdx fn r = 0 ∧ t.swIdx fn r = 0 ∧ t.host.stopped.get? [fn, r] = none)
        ∧ (bit v 5 = false → t.rd .HST_RING_CFG_en [fn, r] = 0) ∧ partsBut [] s t)
    ∧ (s.on .HST_RING_CFG_en [fn, r] = true →
      s.regOff false = false → ∃ t, exec (.ringCfgWrite fn r v) s = .next t ∧ t.rd .HST_RING_CFG_en [fn, r] = b2n (bit v 5) ∧ t.rd .HST_RING_CFG_coal_us [fn, r] = bits v 22 8
        ∧ t.rd .HST_RING_CFG_buf_kib [fn, r] = bits v 30 5
        ∧ (s.rd .HST_RING_CFG_log2_size [fn, r] ≠ bits v 0 5 → t.rd .HST_RING_STAT_cfg_err [fn, r] = 1) ∧ partsBut [] s t
        ∧ fieldsBut [.HST_RING_CFG_en, .HST_RING_CFG_coal_us, .HST_RING_CFG_buf_kib, .HST_RING_STAT_cfg_err] s t))
  ∧ (∀ (s : State) (c : Instr) (d : Hdr), cmdHdr c = some d → s.descDue (bareCmd c) d = false → exec c s = .next (settle s))

/-- R344–R348, R352: a TX entry of the ring that its host port serves next presents its frame at the port; the first frame at a host port goes to the buffers and the completion ring that are its; a VF's receive ring that has had no room for its waiting frame through `rx_stall_us` is stopped and reported; the end of a hold-off sends one message where a signal came meanwhile, and begins the next. That the end of a hold-off begins the next, and that `rx_stall_us` counts from the moment a frame finds no room, is log entry 47. -/
def Obligations.PacketRings : Prop :=
  (∀ (s : State) (fn r k : Nat) (e b : List Byte), ringKind fn r = some .tx → s.forwarding = true → s.xingBusy (s.ringEngine fn r) 6 0 = false → k = s.ringPort fn r → s.portClear (1056 + k) = true →
    s.txNext k = some (fn * 64 + r) → 60 ≤ le e 8 2 → le e 8 2 ≤ 16379 → byteAt e 11 < 16 → le e 14 2 = 0 → leNat (slice e 22 10) = 0 → s.fr? s.nextId = none →
    ∃ t f, exec (.txEntry fn r (some e) (some b)) s = .next t ∧ t.fr? s.nextId = some f ∧ f.loc = .input ∧ f.inPort = (1056 + k) % 2048
      ∧ f.bytes = slice b 0 (le e 8 2) ++ fcs (slice b 0 (le e 8 2)) ∧ f.slice = (if fn = 0 then byteAt e 10 else fnSlice fn) % 64
      ∧ f.launch = (if bit (byteAt e 11) 3 then some (le e 16 6) else none) ∧ t.devIdx fn r = (s.devIdx fn r + 1) % 2 ^ 32
      ∧ partsBut [.frames, .nextId, .sched] s t ∧ fieldsBut [] s t)
  ∧ (∀ (s : State) (k fn r n step : Nat) (redir : Bool) (f : Frame) (bufs : List Nat), s.forwarding = true → s.xingBusy (portHalf (1056 + k)) 6 0 = false → s.rxHead k = some f → s.rxRing k f = (fn, r, redir) →
    s.rxUsable fn r = true → s.rxFits fn r f.bytes.length = true → n = s.rxNeed fn r f.bytes.length → bufs.length = n → step = max 2 (min 16 (s.rd .HST_RING_CFG_buf_kib [fn, r])) * 1024 →
    ∃ t, exec (.rxDelivery k bufs) s = .next t ∧ t.fr? f.id = none ∧ (∀ i, i ≠ f.id → t.fr? i = s.fr? i)
      ∧ t.devIdx fn r = (s.devIdx fn r + n) % 2 ^ 32 ∧ t.devIdx fn (r + 16) = (s.devIdx fn (r + 16) + 1) % 2 ^ 32
      ∧ t.host.mem = ((List.range n).foldl (fun m i => m.setBytes (bufs.getD i 0) ((f.bytes.drop (i * step)).take step)) s.host.mem).setBytes
          (s.slotAddr fn (r + 16) 32 (s.devIdx fn (r + 16)))
          (overlay (rxcEntry f (s.devIdx fn r % s.ringSize fn r) n) 9
            [byteOf (byteAt (rxcEntry f (s.devIdx fn r % s.ringSize fn r) n) 9 + s.phase fn (r + 16) (s.devIdx fn (r + 16)) * 128)])
      ∧ partsBut [.frames] s t ∧ fieldsBut [.HST_CNT_v] s t)
  ∧ (∀ (s : State) (v r b : Nat) (f : Frame), v ≠ 0 → (ringKind v r = some .rxb ∨ ringKind v r = some .rxc) → b = 32 + r % 16 → s.rxHead (s.ringPort v (b + 16)) = some f →
    s.rxRing (s.ringPort v (b + 16)) f = (v, b, false) → s.rxFits v b f.bytes.length = false →
    ∃ t pre, exec (.ringStalled v r) s = .next t ∧ t.rd .HST_RING_STAT_stalled [v, r] = 1 ∧ t.ringUp v r = false
      ∧ t.time.elapsed = max s.time.elapsed (s.host.lack.getD [v, b] s.time.elapsed + max 1 (s.rd .HST_RX_CFG_rx_stall_us [0]) * 1000)
      ∧ t.host.events = s.host.events ++ pre ++ [⟨0x0002, 2, record 32 [(0, 1, r), (1, 1, v)]⟩] ∧ partsBut [.time] s t ∧ fieldsBut [.HST_RING_STAT_stalled] s t)
  ∧ (∀ (s u : State) (fn vec us : Nat) (e : Nat × Nat), e = s.host.holdEnd.getD [fn, vec] (s.time.elapsed, 64) → u = s.runTo e.1 → us = s.rd .HST_RING_CFG_coal_us [fn, e.2] →
    (s.host.hold.get? [fn, vec] = some true → (s.host.msix.getD [fn, vec] (Msix.mk 0 0 true false)).masked = false → s.msixEn fn = true → s.msixFnMask fn = false →
      ∃ t, exec (.msixHoldoffEnd fn vec) s = .next t ∧ t.host.msgs = u.host.msgs ++ [(fn, vec)] ∧ t.host.hold.get? [fn, vec] = (if us = 0 then none else some false)
        ∧ (us ≠ 0 → t.host.holdEnd.get? [fn, vec] = some (t.time.elapsed + us * 1000, e.2)) ∧ t.time = u.time ∧ partsBut [.time] s t ∧ fieldsBut [] s t)
    ∧ (s.host.hold.get? [fn, vec] = some false →
      ∃ t, exec (.msixHoldoffEnd fn vec) s = .next t ∧ t.host.msgs = u.host.msgs ∧ t.host.hold.get? [fn, vec] = none ∧ t.time = u.time ∧ partsBut [.time] s t ∧ fieldsBut [] s t))

/-- R324, R326, R352, R354, R468, R469: a hot reset, the FLR of PF0 and the assertion of PERST_N, while no function has a started descriptor, return every register of the host block to its reset value, forget the descriptors taken and abort the pending generations of every slice; the FLR of a VF does so for that function and its slice, and waits while a descriptor that the VF has started still runs. A configuration request is answered once PERST_N is released and RESET has ended: the device IDs and the class code are those of R326, writes set the power state and the MSI-X control bits, and the bit that initiates a function level reset resets the function. The places of these registers in the configuration space are log entry 77, the answer at once log entry 48, and the moment at which a function reset ends log entry 31. -/
def Obligations.HostResets : Prop :=
  (∀ (s : State) (c : Instr), (c = .flr 0 ∨ c = .hotReset ∨ c = .perstN true) → (∀ a ∈ s.host.taken, a.hdr.fn < 65 → a.started = false) →
    ∃ t, exec c s = .next t ∧ (∀ f ∈ (regsOf 18).flatMap Reg.fields, ∀ fn ix, fn < 65 → t.rd f (fn :: ix) = f.reset (fn :: ix))
      ∧ (∀ a ∈ t.host.taken, 65 ≤ a.hdr.fn) ∧ (∀ sl, sl < 64 → t.plog sl = []) ∧ t.host.cpls = s.host.cpls ∧ (c = .perstN true → t.pkg.perstLow = true)
      ∧ t.frames = s.frames ∧ t.mode = s.mode ∧ partsBut [.tables, .ras, .pkg] s t)
  ∧ (∀ (s : State) (v : Nat), 1 ≤ v → v ≤ 64 → s.host.flr = [] →
    ((∀ a ∈ s.host.taken, a.hdr.fn = v → a.started = false) →
      ∃ t, exec (.flr v) s = .next t ∧ (∀ f ∈ (regsOf 18).flatMap Reg.fields, ∀ ix, t.rd f (v :: ix) = f.reset (v :: ix))
        ∧ (∀ f ∈ (regsOf 18).flatMap Reg.fields, ∀ fn ix, fn ≠ v → t.rd f (fn :: ix) = s.rd f (fn :: ix))
        ∧ t.host.taken = s.host.taken.filter (fun a => decide (a.hdr.fn ≠ v)) ∧ t.plog (v - 1) = [] ∧ t.host.flr = [] ∧ partsBut [.tables, .ras] s t)
    ∧ ((∃ a ∈ s.host.taken, a.hdr.fn = v ∧ a.started = true) →
      ∃ t, exec (.flr v) s = .next t ∧ t.host.flr = [v] ∧ t.host.taken = s.host.taken.filter (fun a => decide (a.hdr.fn ≠ v) || a.started)
        ∧ (∀ r, t.ringUp v r = false) ∧ partsBut [] s t ∧ t.regs = s.regs))
  ∧ (∀ s : State, ∃ t, exec (.perstN false) s = .next t ∧ t.pkg.perstLow = false ∧ t.host = s.host ∧ partsBut [.pkg] s t ∧ fieldsBut [] s t)
  ∧ (∀ (s : State) (fn off : Nat) (w : Option Nat), fn ≤ 64 →
    (s.pkg.perstLow = false → s.pkg.resetEnded = true →
      ∃ t x, exec (.configRequest fn off w) s = .next t ∧ t.host.cfgResp = some x ∧ (w.isSome = true → x = 0)
        ∧ (w = none → off = 0 → x / 2 ^ 16 = (if fn = 0 then 0x9204 else 0x9205)) ∧ (w = none → off = 8 → x / 2 ^ 8 = 0x028000)
        ∧ (∀ v, w = some v → cfgBar fn off = none → off = Config.pmcsr → t.host.d3.getD [fn] false = decide (v % 4 = 3))
        ∧ (∀ v, w = some v → cfgBar fn off = none → off ≠ Config.pmcsr → off = Config.msixCap → t.msixEn fn = bit v 31 ∧ t.msixFnMask fn = bit v 30)
        ∧ (w = none → t.host = { s.host with cfgResp := some x })
        ∧ ((∀ v, w = some v → off = Config.pcieCap + 8 → bit v 15 = false) → partsBut [] s t ∧ fieldsBut [] s t)
        ∧ (∀ v, w = some v → cfgBar fn off = none → off ≠ Config.pmcsr → off ≠ Config.msixCap → off = Config.pcieCap + 8 → bit v 15 = true → fn ≠ 0 → s.host.flr = [] →
            (∀ a ∈ s.host.taken, a.hdr.fn = fn → a.started = false) →
            (∀ f ∈ (regsOf 18).flatMap Reg.fields, ∀ ix, t.rd f (fn :: ix) = f.reset (fn :: ix)) ∧ t.plog (fn - 1) = [] ∧ partsBut [.tables, .ras] s t))
    ∧ ((s.pkg.perstLow = true ∨ s.pkg.resetEnded = false) →
      ∃ t, exec (.configRequest fn off w) s = .next t ∧ t.host.cfgResp = none ∧ partsBut [] s t ∧ fieldsBut [] s t))

/-- R426–R430, R432, R435, R436, R443: PORT_SET of a free, well-formed entry configures its port, which enters ACQUIRE or STANDBY, and of width 0 removes one; LANE_EQ_SET brings its entries into force; LANE_TEST sets the tests of its lanes, whose checkers have not locked, and sends the square wave where that is the pattern; PORT_RESTART takes a running port to ACQUIRE; PORT_READ and EQ_READ write the tables in force. The order of EQ_READ's entries, by lane and then rate, and that LAN_LANE_EQ shows the table in force, is log entry 49. -/
def Obligations.LaneDescriptors : Prop :=
  (∀ (s : State) (d : Hdr) (first w rate fl : Nat), served s d ⟨0x100, .config, true, false, 0⟩ true (cleanHdr d false false false) → first < 1024 → fl < 16 →
    (w ∈ ([1, 2, 4, 8] : List Nat) → rate < 3 → first % w = 0 → s.lanes.ports.get? [first] = none →
      (∀ l ∈ portLanes first w, s.portOfLane l = none ∧ s.laneLeaving l = false ∧ Machine.State.laneTest s l = false) →
      due s (.portSet d first w rate fl 0) → ∃ t, exec (.portSet d first w rate fl 0) s = .next t ∧ completed s t d 0 0 0 ∧ t.lanes.ports.get? [first] = some ⟨w, rate, bit fl 0, bit fl 1, bit fl 2, bit fl 3⟩
        ∧ (∀ k, k ≠ [first] → t.lanes.ports.get? k = s.lanes.ports.get? k) ∧ t.portState first = (if bit fl 0 then 2 else 1)
        ∧ t.rd .LAN_PORT_STAT_width (lanIx first) = w ∧ t.rd .LAN_PORT_STAT_rate (lanIx first) = rate)
    ∧ (∀ c, s.lanes.ports.get? [first] = some c →
      (rate < 3 → due s (.portSet d first 0 rate fl 0) → ∃ t, exec (.portSet d first 0 rate fl 0) s = .next t ∧ t.lanes.ports.get? [first] = none ∧ t.portState first = 0 ∧ t.glA first = none ∧ t.glP first = none)
      ∧ (w ∈ ([1, 2, 4, 8] : List Nat) → rate < 3 → first % w = 0 → (c.width ≠ w ∨ c.rate ≠ rate) →
        due s (.portSet d first w rate fl 0) → ∃ t, exec (.portSet d first w rate fl 0) s = .next t ∧ completed s t d 1 0x70 0 ∧ partsBut [] s t ∧ fieldsBut [] s t)))
  ∧ (∀ (s : State) (d : Hdr) (restart : Bool) (b : List Byte) (es : List (List Byte)), served s d ⟨0x101, .config, true, false, 0⟩ true (cleanHdr d false false true) →
    d.buf = some b → eqParse b = some es →
    due s (.laneEqSet d restart) → ∃ t, exec (.laneEqSet d restart) s = .next t ∧ completed s t d 0 0 es.length ∧ (∀ i, i < 8 → t.rd .LAN_EQ_ID_v [i] = le b 0 4)
      ∧ (∀ e ∈ es, bit (byteAt e 2) 0 = true → t.rd .LAN_LANE_EQ_entry (lanIx (le e 0 2) ++ [byteAt e 3]) = leNat e)
      ∧ (restart = false → partsBut [] s t ∧ fieldsBut [.LAN_EQ_ID_v, .LAN_LANE_EQ_entry] s t))
  ∧ (∀ (s : State) (d : Hdr) (first n loop pattern : Nat) (check : Bool), served s d ⟨0x102, .config, true, false, 0⟩ true (cleanHdr d false false false) →
    first < 1024 → 1 ≤ n → first % 128 + n ≤ 128 → loop ≤ 3 → pattern ≤ 4 →
    due s (.laneTest d first n loop pattern check) → ∃ t, exec (.laneTest d first n loop pattern check) s = .next t ∧ completed s t d 0 0 0
      ∧ (∀ l ∈ portLanes first n, t.rd .LAN_LANE_STAT_loop (lanIx l) = loop ∧ t.rd .LAN_LANE_STAT_pattern (lanIx l) = pattern
        ∧ t.lanes.test.getD [l] false = (check && decide (loop ≠ 0 ∨ pattern ≠ 0)) ∧ t.rd .LAN_LANE_STAT_prbs_lock (lanIx l) = 0
        ∧ (loop = 0 → pattern = 4 → (l, (List.replicate 8 3 ++ List.replicate 8 0).map (wireSwap (bit (s.laneFlags l) 1))) ∈ t.lanes.line)) ∧ t.lanes.ports = s.lanes.ports)
  ∧ (∀ (s : State) (d : Hdr) (port : Nat), served s d ⟨0x103, .config, true, false, 0⟩ true (cleanHdr d false false false) →
    (∀ c, s.lanes.ports.get? [port] = some c → due s (.portRestart d port) → ∃ t, exec (.portRestart d port) s = .next t ∧ completed s t d 0 0 0
      ∧ (2 ≤ s.portState port → s.portState port ≤ 4 → t.portState port = 2)
      ∧ ((s.portState port < 2 ∨ 4 < s.portState port) → partsBut [] s t ∧ fieldsBut [] s t))
    ∧ (s.lanes.ports.get? [port] = none → due s (.portRestart d port) → ∃ t, exec (.portRestart d port) s = .next t ∧ completed s t d 1 0x31 0 ∧ partsBut [] s t ∧ fieldsBut [] s t))
  ∧ (∀ (s : State) (d : Hdr) (out : List Byte), served s d ⟨0x110, .reads, false, false, 0⟩ true (cleanHdr d false false true) → d.buf.isSome = true →
    out = s.portList.flatMap (fun e => portEntry e.1 e.2) → out.length ≤ d.hlen →
    due s (.portRead d) → ∃ t, exec (.portRead d) s = .next t ∧ completed s t d 0 0 s.portList.length ∧ partsBut [] s t ∧ fieldsBut [] s t
      ∧ (s.on .HST_RING_CFG_en [d.fn, d.ring + 4] = false → s.on .HST_RING_CFG_en [0, 8] = false → t.host.mem = s.host.mem.setBytes d.haddr out))
  ∧ (∀ (s : State) (d : Hdr) (es : List (List Byte)), served s d ⟨0x111, .reads, false, false, 0⟩ true (cleanHdr d false false true) → d.buf.isSome = true →
    es = (List.range 1024).flatMap (fun l => (List.range 3).filterMap (fun r => if bit (byteAt (s.eqEntry l r) 2) 0 then some (s.eqEntry l r) else none)) →
    16 + es.flatten.length ≤ d.hlen →
    due s (.eqRead d) → ∃ t, exec (.eqRead d) s = .next t ∧ completed s t d 0 0 es.length ∧ partsBut [] s t ∧ fieldsBut [] s t
      ∧ (s.on .HST_RING_CFG_en [d.fn, d.ring + 4] = false → s.on .HST_RING_CFG_en [0, 8] = false →
        t.host.mem = s.host.mem.setBytes d.haddr (record 16 [(0, 4, s.rd .LAN_EQ_ID_v [0]), (4, 2, es.length), (6, 1, 1)] ++ es.flatten)))

/-- R144, R146, R171, R421–R425, R432, R434, R476: a frame that passes the tests of an aligned port waits at its pipe, a PFC frame enters no pipe, and one with a bad FCS, or before alignment, is discarded and counted; a port in TEST, or whose own data returns to it, takes none; decoded codewords are counted, and the last 8,192 of them judge `hi_ser`, which is cleared 8,192 codewords after the last excess (how R423's span slides is log entry 48); a receiver of the transmitter's precoding and wire order recovers the bit pairs sent (Gray code, precoder and inversion undo themselves); the port moves from ACQUIRE over ALIGN to UP and, when its link is lost, back to ACQUIRE with its cause; a port still down at the end of the debounce time begins its flush, and a retired fence puts it in service or DOWN. -/
def Obligations.LaneEvents : Prop :=
  (∀ (s : State) (port pos : Nat) (bytes : List Byte) (uncorr : Bool) (c : PortCfg), s.lanes.ports.get? [port] = some c →
    ((s.portState port = 5 ∨ (s.portState port = 4 ∧ s.looped port c = true)) →
      ∃ t, exec (.frameReceive port bytes uncorr pos) s = .next t ∧ partsBut [.fresh, .lanes] s t ∧ fieldsBut [] s t)
    ∧ (s.portState port = 4 → s.looped port c = false → (c.fecInd = false ∨ uncorr = false) → fcsOk bytes = true → 64 ≤ bytes.length → bytes.length ≤ 16383 → 7 ≤ s.tileLinks (portPipe port) →
      (c.fecCorr = true ∨ s.lanes.raw.getD [port] false = false) →
      (isPfc bytes = true → ∃ t, exec (.frameReceive port bytes uncorr pos) s = .next t ∧ t.frames = s.frames ∧ t.fdb = s.fdb ∧ t.buf = s.buf ∧ t.tables = s.tables)
      ∧ (isPfc bytes = false → s.fr? s.nextId = none →
      ∃ t f, exec (.frameReceive port bytes uncorr pos) s = .next t ∧ t.fr? s.nextId = some f ∧ f.loc = .input ∧ f.bytes = bytes ∧ f.inPort = port % 2048
        ∧ f.pipe = portPipe port ∧ f.m 115 64 = tsIn (s.rxTime port pos (s.tileNow port)) % 2 ^ 64 ∧ partsBut [.frames, .nextId, .fresh, .lanes] s t ∧ fieldsBut [] s t))
    ∧ (∀ e, (s.portState port = 4 ∧ s.looped port c = false ∧ (c.fecInd = false ∨ uncorr = false) ∧ fcsOk bytes = false ∧ (c.fecCorr = true ∨ s.lanes.raw.getD [port] false = false) ∧ e = 4) ∨ (s.portState port = 3 ∧ e = 10) →
      ∃ t, exec (.frameReceive port bytes uncorr pos) s = .next t ∧ t.rd .LAN_PORT_CNT_v (lanIx port ++ [e]) = (s.rd .LAN_PORT_CNT_v (lanIx port ++ [e]) + 1) % 2 ^ 64
        ∧ t.rd .TEL_DROP_CNT_v [(portHalf port).n, 0x13] = (s.rd .TEL_DROP_CNT_v [(portHalf port).n, 0x13] + 1) % 2 ^ 64
        ∧ partsBut [.fresh, .lanes] s t ∧ fieldsBut [.LAN_PORT_CNT_v, .TEL_DROP_CNT_v] s t))
  ∧ (∀ (s u : State) (port sym inner k : Nat) (uncorr above : Bool) (c : PortCfg), s.lanes.ports.get? [port] = some c → s.portState port = 3 ∨ s.portState port = 4 →
    k = (if uncorr then 0 else min 15 sym) → u = s.serNote port k → above = decide (s.rd .LAN_CFG_ser_thresh [port / 128] < u.serSum port) →
    ∃ t, exec (.codewordDecode port sym uncorr inner) s = .next t ∧ (t.serWin port).n = (s.serWin port).n + 1 ∧ t.serSum port = u.serSum port
      ∧ (above = true → s.on .LAN_PORT_STAT_hi_ser (lanIx port) = false → t.rd .LAN_PORT_STAT_hi_ser (lanIx port) = 1)
      ∧ (above = false → s.on .LAN_PORT_STAT_hi_ser (lanIx port) = true → (u.serWin port).since + serSpan ≤ (u.serWin port).n → t.rd .LAN_PORT_STAT_hi_ser (lanIx port) = 0)
      ∧ (above = s.on .LAN_PORT_STAT_hi_ser (lanIx port) → t.rd .LAN_PORT_STAT_hi_ser (lanIx port) = s.rd .LAN_PORT_STAT_hi_ser (lanIx port))
      ∧ (c.fecCorr = false → uncorr = true ∨ sym ≠ 0 → t.lanes.raw.getD [port] false = true)
      ∧ t.rd .LAN_PORT_CNT_v (lanIx port ++ [0]) = (s.rd .LAN_PORT_CNT_v (lanIx port ++ [0]) + 1) % 2 ^ 64
      ∧ (uncorr = true → t.rd .LAN_PORT_CNT_v (lanIx port ++ [2]) = (s.rd .LAN_PORT_CNT_v (lanIx port ++ [2]) + 1) % 2 ^ 64)
      ∧ (uncorr = false → sym ≤ 15 → t.rd .LAN_PORT_CNT_v (lanIx port ++ [3]) = (s.rd .LAN_PORT_CNT_v (lanIx port ++ [3]) + sym) % 2 ^ 64)
      ∧ partsBut [.lanes] s t ∧ fieldsBut [.LAN_PORT_CNT_v, .LAN_PORT_STAT_hi_ser] s t)
  ∧ (∀ (s : State) (port : Nat) (c : PortCfg) (above : Bool), s.lanes.ports.get? [port] = some c → above = decide (s.rd .LAN_CFG_ser_thresh [port / 128] < s.serSum port) →
    s.on .LAN_PORT_STAT_hi_ser (lanIx port) ≠ above → (above = false → (s.serWin port).since + serSpan ≤ (s.serWin port).n) →
    ∃ t, exec (.hiSer port) s = .next t ∧ t.rd .LAN_PORT_STAT_hi_ser (lanIx port) = b2n above
      ∧ t.host.events = s.host.events ++ [⟨0x0121, (portHalf port).n, record 32 [(0, 2, port), (2, 1, b2n above)]⟩] ∧ partsBut [.lanes] s t
      ∧ fieldsBut [.LAN_PORT_STAT_hi_ser] s t)
  ∧ (∀ (flags last : Nat) (pairs : List Nat), (∀ p ∈ pairs, p < 4) → bit flags 1 = bit flags 2 → bit flags 3 = bit flags 4 → lineGet flags last (lineSend flags last pairs) = pairs)
  ∧ (∀ (s : State) (port : Nat) (c : PortCfg), s.lanes.ports.get? [port] = some c →
    (s.portState port = 2 → ∃ t, exec (.portAcquired port) s = .next t ∧ t.portState port = 3 ∧ t.host = s.host ∧ partsBut [.lanes] s t)
    ∧ (s.portState port = 3 → ∃ t, exec (.portAligned port) s = .next t ∧ t.portState port = 4
      ∧ t.host.events = s.host.events ++ [⟨0x0120, (portHalf port).n, record 32 [(0, 2, port), (2, 1, 4)]⟩]
      ∧ ((s.rd .BUF_PORT_STAT_state [(portHalf port).n, localIdx port] = 1 ∨ s.rd .BUF_PORT_STAT_state [(portHalf port).n, localIdx port] = 3) →
          t.rd .BUF_PORT_STAT_state [(portHalf port).n, localIdx port] = 0)
      ∧ partsBut [.lanes, .fresh] s t)
    ∧ (∀ cause, s.portState port = 4 → 1 ≤ cause → cause ≤ 6 → (cause = 4 → s.on .LAN_PORT_STAT_hi_ser (lanIx port) = true) →
      ∃ t post, exec (.portLinkLoss port cause) s = .next t ∧ t.portState port = 2 ∧ t.rd .LAN_PORT_STAT_cause (lanIx port) = cause
        ∧ t.rd .LAN_PORT_CNT_v (lanIx port ++ [8]) = (s.rd .LAN_PORT_CNT_v (lanIx port ++ [8]) + 1) % 2 ^ 64
        ∧ t.host.events = s.host.events ++ ⟨0x0120, (portHalf port).n, record 32 [(0, 2, port), (2, 1, 2), (3, 1, cause)]⟩ :: post
        ∧ (s.rd .BUF_PORT_STAT_state [(portHalf port).n, localIdx port] = 0 → t.rd .BUF_PORT_STAT_state [(portHalf port).n, localIdx port]
            = (if s.rd .BUF_PORT_CFG_debounce_us [(portHalf port).n, localIdx port] = 0 then 2 else 1))))
  ∧ (∀ (s : State) (port : Nat), port < 1088 →
    (s.rd .BUF_PORT_STAT_state [(portHalf port).n, localIdx port] = 1 →
      ∃ t, exec (.debounceExpiry port) s = .next t ∧ t.rd .BUF_PORT_STAT_state [(portHalf port).n, localIdx port] = 2
        ∧ t.rd .BUF_PORT_STAT_relaunch [(portHalf port).n, localIdx port] = 0 ∧ (t.buf.flush.get? [port]).isSome = true)
    ∧ (s.rd .BUF_PORT_STAT_state [(portHalf port).n, localIdx port] = 2 → s.fenceClear port = true → (∀ e ∈ s.lanes.removing, e.1 ≠ port) → s.fdb.portDue = [] →
      ∃ t, exec (.flushFenceRetire port) s = .next t
        ∧ t.rd .BUF_PORT_STAT_state [(portHalf port).n, localIdx port] = (if s.on .BUF_PORT_STAT_up_seen [(portHalf port).n, localIdx port] = true
            ∨ s.on .BUF_PORT_STAT_relaunch [(portHalf port).n, localIdx port] = true then 0 else 3)
        ∧ t.buf.flush.get? [port] = none ∧ t.rd .BUF_CNT_v [(portHalf port).n, 4] = (s.rd .BUF_CNT_v [(portHalf port).n, 4] + 1) % 2 ^ 64
        ∧ (∀ x d, s.buf.flush.get? [port] = some x → x.desc = some d → completed s t d 0 0 0) ∧ partsBut [.buf] s t
        ∧ fieldsBut [.BUF_PORT_STAT_state, .BUF_PORT_STAT_up_seen, .BUF_PORT_STAT_relaunch, .BUF_CNT_v] s t))

/-- R399, R400, R439–R442, R475: a Gulub link in service that fails is FAILED in its views, and where it was in the stripe the lowest spare takes its place; LINK_FAILURES counts in both views and LINKS_SPARED in each half of the group, which raises LINK_DOWN, and PIPE_RATE_LIMITED where a tile's links fall below 7; a refused flit is counted with its replay (at its first refusal: log entry 49), and fails the link beyond its limit; a recentring changes nothing that software sees. -/
def Obligations.GulubLinks : Prop :=
  ∀ (s : State) (i l inst link : Nat), i ≤ 13 → l < glbLinks i →
    (glbView i l = [inst, link] →
      (s.link inst link = 2 ∨ s.link inst link = 3) →
      ∃ t, exec (.gulubLinkFail i l) s = .next t ∧ t.link inst link = 4
        ∧ (s.link inst link = 2 → ∀ x, (s.linksIn inst link 3).head? = some x → t.link inst x = 2)
        ∧ (s.link inst link = 3 → ∀ x, x ≠ link → t.link inst x = s.link inst x)
        ∧ (∀ ix ∈ glbViews inst link, t.rd .GLB_LINK_STAT_state ix = 4 ∧ t.rd .GLB_CNT_v (ix ++ [2]) = (s.rd .GLB_CNT_v (ix ++ [2]) + 1) % 2 ^ 64)
        ∧ (∀ h ∈ glbHalves inst,
          t.rd .RAS_CNT_v [h.1.n, 8] = (s.rd .RAS_CNT_v [h.1.n, 8] + (if s.link inst link = 2 ∧ s.linksIn inst link 3 ≠ [] then 1 else 0)) % 2 ^ 64
          ∧ ⟨0x0116, h.1.n, record 32 [(0, 1, h.2), (1, 1, link), (2, 1, (s.linksIn inst link 3).length - 1),
              (3, 1, if s.link inst link = 2 ∧ s.linksIn inst link 3 ≠ [] then 1 else 0)]⟩ ∈ t.host.events)
        ∧ ((inst = 8 ∨ inst = 11) → s.tileLinks (glbPipe inst link) = 7 →
          ⟨0x0117, (pipeHalf (glbPipe inst link)).n, record 32 [(0, 1, glbPipe inst link), (1, 1, 6)]⟩ ∈ t.host.events)
        ∧ partsBut [.lanes, .fresh] s t)
    ∧ ((s.link i l = 2 ∨ s.link i l = 3) →
      ((((s.ras.crc.getD [i, l] []).filter (fun x => decide (s.elapsed < x + 1000000))).length + 1 ≤ s.rd .GLB_CFG_crc_limit [i]) →
        ∃ t, exec (.flitCrcError i l) s = .next t ∧ t.rd .GLB_CNT_v [i, l, 0] = (s.rd .GLB_CNT_v [i, l, 0] + 1) % 2 ^ 64
          ∧ t.rd .GLB_CNT_v [i, l, 1] = (s.rd .GLB_CNT_v [i, l, 1] + 1) % 2 ^ 64 ∧ t.link i l = s.link i l ∧ partsBut [.ras] s t ∧ fieldsBut [.GLB_CNT_v] s t)
      ∧ (s.rd .GLB_CFG_crc_limit [i] < ((s.ras.crc.getD [i, l] []).filter (fun x => decide (s.elapsed < x + 1000000))).length + 1 → glbView i l = [inst, link] →
        (s.link inst link = 2 ∨ s.link inst link = 3) → ∃ t, exec (.flitCrcError i l) s = .next t ∧ t.link inst link = 4 ∧ partsBut [.ras, .lanes, .fresh] s t))
    ∧ (∃ t, exec (.linkRecentre i l) s = .next t ∧ partsBut [] s t ∧ fieldsBut [] s t)

/-- R390, R394, R395, R397: HOST_CLAIM asks for a two-half step, at a multiple of 256 ticks at least 1,024 ticks away, and completes when the follower's report arrives; PREPARE reaches the follower; a half applies its step at the edge, HOST_CLAIM making the mode Hosted and a commit raising the half's G. A claim of a stale term is refused, one with resolved ownership becomes a step, which is given up where the other half has not acknowledged it within `lease_ms`, any other takes effect in its half at once. That a claim is such a step, and what one does while only the other half is unresolved, is log entry 50. -/
def Obligations.TwoHalfSteps : Prop :=
  (∀ (s : State) (d : Hdr), served s d ⟨0xC0, .claim, true, false, 0⟩ true (cleanHdr d false false false) →
    due s (.hostClaim d) → ∃ t x, exec (.hostClaim d) s = .next t ∧ t.host.cpls = s.host.cpls ∧ t.ras.steps = s.ras.steps ++ [x] ∧ x.kind = .hostClaim ∧ x.desc = some d ∧ x.own = s.owner
      ∧ x.edge % 256 = 0 ∧ s.time.elapsed + 1024 ≤ x.edge ∧ x.edge < s.time.elapsed + 1280 ∧ x.seq = (s.ras.nextSeq + 1) % 2 ^ 32 ∧ partsBut [.ras] s t ∧ fieldsBut [] s t)
  ∧ (∀ (s : State) (p : Step2), s.ras.steps.find? (fun t => !t.reached && !t.lost) = some p → p.doneE = false → s.bridgeUp = true →
    ∃ t, exec .prepare s = .next t ∧ { p with reached := true } ∈ t.ras.steps ∧ partsBut [.ras] s t ∧ fieldsBut [] s t)
  ∧ (∀ (s : State) (h : Half) (p : Step2) (d : Hdr), s.ras.steps.find? (fun t => !t.doneIn h && (t.own = h || t.reached)) = some p → p.desc = some d → p.lost = false →
    s.bridgeUp = true →
    (p.kind = .hostClaim → ∃ t, exec (.twoHalfStepEdge h) s = .next t ∧ t.time.elapsed = max s.time.elapsed p.edge ∧ (s.mode = 2 → t.mode = 3 ∧ t.rd .SYS_MODE_base_mode [0] = 3)
      ∧ (s.mode ≠ 2 → t.mode = s.mode) ∧ t.host.cpls = s.host.cpls
      ∧ (match h with | .E => { p with doneE := true } ∈ t.ras.steps ∧ t.ras.lastE = max s.ras.lastE p.seq | .W => { p with doneW := true } ∈ t.ras.steps ∧ t.ras.lastW = max s.ras.lastW p.seq)
      ∧ partsBut [.ras, .time] s t ∧ fieldsBut [.SYS_MODE_mode, .SYS_MODE_base_mode, .SYS_MODE_maint_op] s t)
    ∧ (∀ sl, p.kind = .commit sl → ∃ t, exec (.twoHalfStepEdge h) s = .next t ∧ t.rd .SLC_GEN_cur_gen [h.n, sl] = (s.rd .SLC_GEN_cur_gen [h.n, sl] + 1) % 65536
      ∧ t.rd .SLC_GEN_committed [h.n, sl] = 1 ∧ t.rd .SLC_GEN_cur_gen [h.other.n, sl] = s.rd .SLC_GEN_cur_gen [h.other.n, sl]
      ∧ partsBut [.ras, .time, .tables] s t ∧ fieldsBut [.SLC_GEN_cur_gen, .SLC_GEN_committed, .SLC_USAGE_log_used] s t))
  ∧ (∀ (s : State) (p : Step2) (d : Hdr), s.ras.steps.find? (fun t => t.doneE && t.doneW && t.desc.isSome) = some p → p.desc = some d → s.bridgeUp = true →
    ∃ t, exec .stepAppliedReport s = .next t ∧ completed s t d 0 0 p.result ∧ (∀ x ∈ t.ras.steps, x.seq ≠ p.seq) ∧ partsBut [.ras] s t ∧ fieldsBut [] s t)
  ∧ (∀ (s : State) (h : Half) (term own : Nat), term < 2 ^ 32 → own < 2 →
    (term ≤ s.rd .RAS_OWN_STAT_term [h.n] → s.regOff (decide (h = .W)) = false → ∃ t, exec (.ownerClaim h term own) s = .next t ∧ t.rd .RAS_OWN_STAT_claim_stale [h.n] = 1 ∧ partsBut [] s t
      ∧ fieldsBut [.RAS_OWN_STAT_claim_stale] s t)
    ∧ (s.rd .RAS_OWN_STAT_term [h.n] < term → s.bridgeUp = true → s.unresolved = false →
      s.regOff (decide (h = .W)) = false → ∃ t x, exec (.ownerClaim h term own) s = .next t ∧ t.ras.steps = s.ras.steps ++ [x] ∧ x.kind = .adopt term own ∧ x.own = s.owner ∧ x.result = s.time.elapsed ∧ t.rd .RAS_OWN_STAT_claim_pend [h.n] = 1
        ∧ partsBut [.ras] s t ∧ fieldsBut [.RAS_OWN_STAT_claim_pend] s t)
    ∧ (s.rd .RAS_OWN_STAT_term [h.n] < term → (s.bridgeUp = false ∨ s.unresolved = true) →
      s.regOff (decide (h = .W)) = false → ∃ t, exec (.ownerClaim h term own) s = .next t ∧ t.rd .RAS_OWN_STAT_term [h.n] = term ∧ t.rd .RAS_OWN_STAT_owner [h.n] = own ∧ t.rd .RAS_OWN_STAT_claim_pend [h.n] = 1
        ∧ t.own h = (if s.own h = 2 then 2 else b2n (decide (own ≠ h.n))) ∧ partsBut [] s t
        ∧ fieldsBut [.RAS_OWN_STAT_term, .RAS_OWN_STAT_owner, .RAS_OWN_STAT_state, .RAS_OWN_STAT_claim_pend] s t))
  ∧ (∀ (s : State) (h : Half) (p : Step2), s.ras.steps.find? (fun t => !t.doneIn h && (t.own = h || t.reached)) = some p → p.claim = true → p.reached = false →
    ∃ t, exec (.twoHalfStepEdge h) s = .next t ∧ t.time.elapsed = max s.time.elapsed (p.result + s.leaseNs h)
      ∧ t.ras.steps = s.ras.steps.filter (fun x => decide (x.seq ≠ p.seq)) ∧ partsBut [.ras, .time] s t ∧ fieldsBut [] s t)

/-- R43, R393, R394, R398, R401: the owner's renewal goes out every millisecond while the bridge is up, is received and acknowledged; a lease that lapses leaves its half UNRESOLVED; with the bridge back the halves exchange terms, and the higher term's owner becomes the owner of both; equal terms of different owners are a conflict. A mirrored write reaches its targets one by one. A bridge with too few links is lost and leaves both halves UNRESOLVED, and restored it resynchronises the FDB. A renewal or a lapse whose event meets a crossing that has not acknowledged is lost and counted. The renewal at the multiples of 1 ms is log entry 85, a mirrored write target by target log entry 14, the moments from which a lease counts log entry 66, and which steps a loss cuts log entry 50. -/
def Obligations.OwnershipAndBridge : Prop :=
  (∀ s : State, s.own s.owner = 0 → s.xingBusy s.owner 4 0 = true →
    ∃ t, exec .leaseRenewal s = .next t ∧ t.time.elapsed = nextMultiple 1000000 s.time.elapsed ∧ t.ras = s.ras
      ∧ t.rd .RAS_CNT_v [s.owner.n, 10] = (s.rd .RAS_CNT_v [s.owner.n, 10] + 1) % 2 ^ 64 ∧ partsBut [.time] s t ∧ fieldsBut [] s t)
  ∧ (∀ s : State, s.own s.owner = 0 → s.bridgeUp = true → s.xingBusy s.owner 4 0 = false → s.serves s.owner 0 [0, 1] = true →
    ∃ t, exec .leaseRenewal s = .next t ∧ t.time.elapsed = nextMultiple 1000000 s.time.elapsed
      ∧ t.ras.renewSent = s.ras.renewSent ++ [(s.owner.other, s.rd .RAS_OWN_STAT_term [s.owner.n], s.owner.n)] ∧ partsBut [.ras, .time] s t ∧ fieldsBut [] s t)
  ∧ (∀ (s : State) (h : Half) (term own : Nat) (q : List (Half × Nat × Nat)), s.ras.renewSent = (h, term, own) :: q → term < 2 ^ 32 → own < 2 →
    ∃ t, exec .leaseRenewalRx s = .next t ∧ t.ras.renewSent = q ∧ t.ras.acksSent = s.ras.acksSent + 1 ∧ t.ras.rxAt = s.time.elapsed
      ∧ (s.own h ≠ 2 → s.rd .RAS_OWN_STAT_term [h.n] < term → t.rd .RAS_OWN_STAT_term [h.n] = term ∧ t.own h = b2n (decide (own ≠ h.n)))
      ∧ ((s.own h = 2 ∨ term ≤ s.rd .RAS_OWN_STAT_term [h.n]) → fieldsBut [] s t) ∧ partsBut [.ras] s t)
  ∧ (∀ s : State, s.ras.acksSent ≠ 0 → ∃ t, exec .leaseAck s = .next t ∧ t.ras.acksSent = s.ras.acksSent - 1 ∧ t.ras.ackAt = s.time.elapsed ∧ partsBut [.ras] s t ∧ fieldsBut [] s t)
  ∧ (∀ (s : State) (h : Half), s.own h ≠ 2 → s.xingBusy h 4 0 = true →
    ∃ t, exec (.leaseLapse h) s = .next t ∧ t.own h = s.own h ∧ t.rd .RAS_CNT_v [h.n, 10] = (s.rd .RAS_CNT_v [h.n, 10] + 1) % 2 ^ 64
      ∧ partsBut [.time] s t ∧ fieldsBut [] s t)
  ∧ (∀ (s : State) (h : Half), s.own h ≠ 2 → s.xingBusy h 4 0 = false →
    ∃ t pre ev, exec (.leaseLapse h) s = .next t ∧ t.own h = 2 ∧ t.own h.other = s.own h.other
      ∧ t.time.elapsed = max s.time.elapsed ((if s.own h = 0 then s.ras.ackAt else s.ras.rxAt) + s.leaseNs h)
      ∧ t.host.events = s.host.events ++ pre ++ [ev] ∧ ev.code = 0x0111 ∧ partsBut [.time] s t ∧ fieldsBut [.RAS_OWN_STAT_state] s t)
  ∧ (∀ (s : State) (a b : Half) (term : Nat), s.bridgeUp = true → s.unresolved = true → b = a.other → term = s.rd .RAS_OWN_STAT_term [a.n] → term < 2 ^ 32 →
    (s.rd .RAS_OWN_STAT_term [b.n] < term → s.rd .RAS_OWN_STAT_owner [a.n] < 2 →
      ∃ t ev, exec .termExchange s = .next t ∧ t.own (Half.of (s.rd .RAS_OWN_STAT_owner [a.n])) = 0 ∧ t.own (Half.of (s.rd .RAS_OWN_STAT_owner [a.n])).other = 1
        ∧ (∀ h : Half, t.rd .RAS_OWN_STAT_term [h.n] = term ∧ t.rd .RAS_OWN_STAT_owner [h.n] = s.rd .RAS_OWN_STAT_owner [a.n]) ∧ t.ras.deferred = []
        ∧ ev ∈ t.host.events ∧ ev.code = 0x0112)
    ∧ (s.rd .RAS_OWN_STAT_term [b.n] = term → s.rd .RAS_OWN_STAT_owner [a.n] ≠ s.rd .RAS_OWN_STAT_owner [b.n] →
      ∃ t pre ev, exec .termExchange s = .next t ∧ (∀ h : Half, t.rd .RAS_OWN_STAT_conflict [h.n] = 1 ∧ t.own h = s.own h)
        ∧ t.host.events = s.host.events ++ pre ++ [ev] ∧ ev.code = 0x0113 ∧ partsBut [] s t ∧ fieldsBut [.RAS_OWN_STAT_conflict] s t))
  ∧ (∀ (s : State) (target : Nat) (w : Fld × List Nat × Nat) (ts : List Nat), s.ras.mirrorQ.find? (fun q => q.2.contains target) = some ([w], ts) →
    (target < 33 ∨ s.bridgeUp = true) → w.1 ∉ reportFlds →
    ∃ t, exec (.mirroredWrite target) s = .next t
      ∧ t.rd w.1 ((if target < 33 then target else target - 33) :: w.2.1.drop 1) = w.2.2 % 2 ^ w.1.info.w
      ∧ (∀ ix, ix ≠ (if target < 33 then target else target - 33) :: w.2.1.drop 1 → t.rd w.1 ix = s.rd w.1 ix)
      ∧ (ts = [target] → t.ras.mirrorQ = s.ras.mirrorQ.erase ([w], ts)) ∧ partsBut [.ras] s t ∧ fieldsBut [w.1] s t)
  ∧ (∀ s : State, s.bridgeUp = true → s.bridgeLinks < s.minLinks →
    ∃ t, exec .bridgeLost s = .next t ∧ t.bridgeUp = false ∧ (∀ h : Half, t.own h = 2 ∧ t.rd .RAS_LINK_STAT_lost [h.n] = 1 ∧ t.rd .RAS_OWN_STAT_term [h.n] = s.rd .RAS_OWN_STAT_term [h.n])
      ∧ t.ras.renewSent = [] ∧ t.ras.acksSent = 0 ∧ t.buf.grants = [] ∧ t.buf.notices = []
      ∧ (∀ x ∈ t.ras.steps, x.reached = false → x.lost = true))
  ∧ (∀ s : State, s.bridgeUp = false → s.minLinks ≤ s.bridgeLinks → s.pkg.resetEnded = true →
    ∃ t, exec .bridgeRestored s = .next t ∧ t.bridgeUp = true ∧ (∀ h : Half, t.rd .RAS_LINK_STAT_lost [h.n] = 0 ∧ t.rd .FDB_STAT_resync [h.n] = 1 ∧ t.own h = s.own h)
      ∧ t.fdb.resync = [.E, .W] ∧ t.time.resyncDue = some (nextMultiple 1024 s.time.elapsed) ∧ partsBut [.fdb, .time] s t
      ∧ fieldsBut [.RAS_OWN_STAT_bridge_up, .RAS_LINK_STAT_lost, .FDB_STAT_resync, .CLV_ENG_STAT_irq_pend, .CLV_ENG_STAT_irq_ovr, .CLV_CNT_v, .RAS_XSTAT_ovr, .RAS_CNT_v] s t)

/-- R389, R402–R415, R441: BANK_RETIRE starts the copy of a bank, or completes where no spare is left or the bank is retired; each BANK_COPY copies a word, and the last one remaps the bank and completes; a retrain trains the failed links of its group one at a time and completes with their number; a waiting operation starts when none runs; ECC_INJECT puts an error into a word, a scrub corrects a single-bit one and rewrites a TCAM cell that differs from its shadow, and a repair restores a poisoned word; the audit returns cells that nothing holds; a stuck crossing keeps its value and is reported after 1 ms, and the reset of a pair frees it and discards and counts what it held; the ECC log pops its head. Banks of 4,096 words and the TCAM's upset are log entry 52, what a crossing holds and a reset of it discards log entry 53, the details of a retrain log entry 51, and the two wires that a trained link's command names log entry 54. -/
def Obligations.RepairAndMaintenance : Prop :=
  (∀ (s : State) (d : Hdr) (cls inst bank : Nat) (h : Half), h = Machine.Hdr.half d → served s d ⟨0xC1, .maint, true, false, 1⟩ true (cleanHdr d false false false) →
    bankOk cls inst bank = true →
    (s.ras.retired.getD [cls, h.n, inst, bank] false = false → s.spareLeft cls h inst ≠ 0 →
      due s (.bankRetire d cls inst bank) → ∃ t, exec (.bankRetire d cls inst bank) s = .next t ∧ t.host.cpls = s.host.cpls ∧ t.ras.job = some ⟨3, h, cls, inst, bank, some d⟩
        ∧ t.rd .RAS_RETIRE_STAT_state [h.n] = 2 ∧ t.rd .RAS_RETIRE_STAT_class [h.n] = cls ∧ t.rd .RAS_RETIRE_STAT_done [h.n] = 0 ∧ t.mode = 5
        ∧ t.rd .SYS_MODE_base_mode [0] = s.mode ∧ t.rd .SYS_MODE_maint_op [0] = 3 ∧ partsBut [.ras] s t
        ∧ fieldsBut [.RAS_RETIRE_STAT_state, .RAS_RETIRE_STAT_class, .RAS_RETIRE_STAT_instance, .RAS_RETIRE_STAT_bank, .RAS_RETIRE_STAT_done, .SYS_MODE_mode, .SYS_MODE_base_mode, .SYS_MODE_maint_op] s t)
    ∧ (s.ras.retired.getD [cls, h.n, inst, bank] false = true → due s (.bankRetire d cls inst bank) → ∃ t, exec (.bankRetire d cls inst bank) s = .next t ∧ completed s t d 1 0x68 0 ∧ partsBut [] s t ∧ fieldsBut [] s t)
    ∧ (s.ras.retired.getD [cls, h.n, inst, bank] false = false → s.spareLeft cls h inst = 0 →
      due s (.bankRetire d cls inst bank) → ∃ t, exec (.bankRetire d cls inst bank) s = .next t ∧ completed s t d 0x28 0 0 ∧ partsBut [] s t ∧ fieldsBut [] s t))
  ∧ (∀ (s : State) (m : Maint) (h : Half), s.ras.job = some m → m.op = 3 → m.half = h → s.serves h 1 [BitVec.ofNat 64 m.bank] = true → s.ras.poison = [] →
    (s.rd .RAS_RETIRE_STAT_done [h.n] + 1 < 4096 → ∃ t, exec (.bankCopy h) s = .next t ∧ t.rd .RAS_RETIRE_STAT_done [h.n] = s.rd .RAS_RETIRE_STAT_done [h.n] + 1
      ∧ partsBut [] s t ∧ fieldsBut [.RAS_RETIRE_STAT_done] s t)
    ∧ (s.rd .RAS_RETIRE_STAT_done [h.n] = 4095 → ∃ t, exec (.bankCopy h) s = .next t ∧ t.ras.job = none ∧ t.ras.retired.getD [m.cls, h.n, m.inst, m.bank] false = true
      ∧ t.rd .RAS_CNT_v [h.n, 7] = (s.rd .RAS_CNT_v [h.n, 7] + 1) % 2 ^ 64 ∧ (s.ras.train = [] → s.mode = 5 → s.rd .SYS_MODE_base_mode [0] < 8 → t.mode = s.rd .SYS_MODE_base_mode [0])
      ∧ (∀ d, m.desc = some d → completed s t d 0 0 (t.spareLeft m.cls h m.inst)) ∧ partsBut [.ras] s t
      ∧ fieldsBut [.RAS_RETIRE_STAT_done, .RAS_RETIRE_STAT_state, .RAS_CNT_v, .RAS_SPARE_used, .SYS_MODE_mode, .SYS_MODE_base_mode, .SYS_MODE_maint_op] s t))
  ∧ (∀ (s : State) (inst link : Nat) (l : Nat × Nat) (ls : List (Nat × Nat)), 8 ≤ inst → inst ≤ 13 → s.ras.train = [] → s.trainList inst link = l :: ls →
    (∀ d, (link = 255 ∨ link < glbLinks inst) → s.refusal d ⟨0xC2, .maint, true, false, 0⟩ true (cleanHdr d false false false) (isBridge inst) = none →
      due s (.linkRetrain d inst link) → ∃ t, exec (.linkRetrain d inst link) s = .next t ∧ t.ras.train = [⟨inst, l :: ls, some d, 0⟩] ∧ t.link l.1 l.2 = 1 ∧ t.host.cpls = s.host.cpls ∧ partsBut [.ras] s t
        ∧ fieldsBut [.GLB_LINK_STAT_state, .SYS_MODE_mode, .SYS_MODE_base_mode, .SYS_MODE_maint_op] s t)
    ∧ (link = 255 → s.on .RAS_LINK_CFG_auto_retrain [0] = true → s.mode ≠ 1 → s.rd .SYS_MODE_maint_op [0] = 0 →
      ∃ t, exec (.autoRetrain inst) s = .next t ∧ t.ras.train = [⟨inst, l :: ls, none, 0⟩] ∧ t.link l.1 l.2 = 1 ∧ t.host.cpls = s.host.cpls ∧ partsBut [.ras] s t
        ∧ fieldsBut [.GLB_LINK_STAT_state, .SYS_MODE_mode, .SYS_MODE_base_mode, .SYS_MODE_maint_op] s t))
  ∧ (∀ (s : State) (d : Hdr) (inst link : Nat), 8 ≤ inst → inst ≤ 13 → (link = 255 ∨ link < glbLinks inst) → s.training = true → s.trainFree inst = false →
    s.refusal d ⟨0xC2, .maint, true, false, 0⟩ true (cleanHdr d false false false) (isBridge inst) = none →
    due s (.linkRetrain d inst link) → ∃ t, exec (.linkRetrain d inst link) s = .next t ∧ completed s t d 1 0x2A 4 ∧ partsBut [] s t ∧ fieldsBut [] s t)
  ∧ (∀ (s : State) (inst link i l wire n : Nat) (pass : Bool) (rest : List (Nat × Nat)) (desc : Option Hdr), 8 ≤ i → i ≤ 13 → s.ras.train = [⟨i, (i, l) :: rest, desc, n⟩] →
    (glbViews i l).contains [inst, link] = true → s.link i l = 1 →
    (∀ l2 r2, rest = (i, l2) :: r2 → l2 ≠ l → l2 < glbLinks i →
      ∃ t, exec (.linkTrainDone inst link pass wire) s = .next t ∧ t.ras.train = [⟨i, rest, desc, n + b2n pass⟩] ∧ t.link i l2 = 1
        ∧ t.link i l = (if pass then (if (s.linksIn i l 2).length < glbActive i then 2 else 3) else 4) ∧ t.host.cpls = s.host.cpls ∧ partsBut [.ras, .lanes] s t
        ∧ fieldsBut [.GLB_LINK_STAT_state, .GLB_LINK_STAT_wire_repaired, .GLB_LINK_STAT_repaired_wire, .GLB_CNT_v, .RAS_CNT_v, .RAS_LINK_STAT_bridge_ok, .RAS_LINK_STAT_bridge_spares, .RAS_LINK_STAT_degraded, .RAS_LINK_STAT_pipe_rl] s t)
    ∧ (rest = [] →
      ∃ t, exec (.linkTrainDone inst link pass wire) s = .next t ∧ t.ras.train = []
        ∧ t.link i l = (if pass then (if (s.linksIn i l 2).length < glbActive i then 2 else 3) else 4)
        ∧ (pass = true → ∀ x ∈ (glbViews i l).zip [0, 1], t.rd .GLB_LINK_STAT_wire_repaired x.1 = b2n (viewWire wire x.2).isSome
          ∧ t.rd .GLB_LINK_STAT_repaired_wire x.1 = (viewWire wire x.2).getD 0)
        ∧ (∀ d, desc = some d → completed s t d 0 0 (n + b2n pass)) ∧ partsBut [.ras, .lanes] s t
        ∧ fieldsBut [.GLB_LINK_STAT_state, .GLB_LINK_STAT_wire_repaired, .GLB_LINK_STAT_repaired_wire, .GLB_CNT_v, .RAS_CNT_v, .RAS_LINK_STAT_bridge_ok, .RAS_LINK_STAT_bridge_spares, .RAS_LINK_STAT_degraded, .RAS_LINK_STAT_pipe_rl,
          .SYS_MODE_mode, .SYS_MODE_base_mode, .SYS_MODE_maint_op] s t))
  ∧ (∀ (s : State) (m : Maint) (q : List Maint), s.ras.queueM = m :: q → s.rd .SYS_MODE_maint_op [0] = 0 → s.ras.train = [] → m.op = 3 → s.ras.retired.getD [m.cls, m.half.n, m.inst, m.bank] false = false → s.spareLeft m.cls m.half m.inst ≠ 0 →
    ∃ t, exec .maintQueuedStart s = .next t ∧ t.ras.job = some m ∧ t.ras.queueM = q ∧ t.rd .SYS_MODE_maint_op [0] = 3 ∧ partsBut [.ras] s t
      ∧ fieldsBut [.SYS_MODE_maint_queued, .RAS_RETIRE_STAT_state, .RAS_RETIRE_STAT_class, .RAS_RETIRE_STAT_instance, .RAS_RETIRE_STAT_bank, .RAS_RETIRE_STAT_done, .SYS_MODE_mode, .SYS_MODE_base_mode, .SYS_MODE_maint_op] s t)
  ∧ (∀ (s : State) (d : Hdr) (cls inst bank row kind : Nat), served s d ⟨0xC3, .inject, true, false, 1⟩ true (cleanHdr d false false false) →
    bankOk cls inst bank = true → row < 4096 → (kind = 1 ∨ kind = 2) →
    due s (.eccInject d cls inst bank row kind) → ∃ t, exec (.eccInject d cls inst bank row kind) s = .next t ∧ completed s t d 0 0 0 ∧ t.ras.poison.get? [cls, (Machine.Hdr.half d).n, inst, bank, row] = some kind
      ∧ (∀ k, k ≠ [cls, (Machine.Hdr.half d).n, inst, bank, row] → t.ras.poison.get? k = s.ras.poison.get? k) ∧ partsBut [.ras] s t ∧ fieldsBut [] s t)
  ∧ (∀ (s : State) (h : Half) (cls inst bank row : Nat),
    (s.on .RAS_ECC_CFG_scrub_en [h.n] = true → s.serves h 1 ([cls, inst, bank, row].map (BitVec.ofNat 64)) = true → s.ras.poison.get? [cls, h.n, inst, bank, row] = some 1 →
      ∃ t, exec (.scrub h cls inst bank row) s = .next t ∧ t.ras.poison.get? [cls, h.n, inst, bank, row] = none
        ∧ t.rd .RAS_CNT_v [h.n, 0] = (s.rd .RAS_CNT_v [h.n, 0] + 1) % 2 ^ 64 ∧ t.rd .RAS_CNT_v [h.n, 2] = (s.rd .RAS_CNT_v [h.n, 2] + 1) % 2 ^ 64 ∧ partsBut [.ras, .tables] s t
        ∧ fieldsBut [.RAS_CNT_v, .SYS_MODE_maint_queued, .SYS_MODE_mode, .SYS_MODE_base_mode, .SYS_MODE_maint_op, .RAS_RETIRE_STAT_state, .RAS_RETIRE_STAT_class, .RAS_RETIRE_STAT_instance, .RAS_RETIRE_STAT_bank,
          .RAS_RETIRE_STAT_done] s t)
    ∧ (∀ k v, s.on .RAS_ECC_CFG_scrub_en [h.n] = true → s.serves h 1 ([cls, inst, bank, row].map (BitVec.ofNat 64)) = true → cls = 1 → s.ras.poison.get? [cls, h.n, inst, bank, row] = none →
      k = (16 * h.n + inst) :: Config.eccWord 1 bank row → s.tables.upset.get? k = some v →
      ∃ t, exec (.scrub h cls inst bank row) s = .next t ∧ t.tables.upset.get? k = none ∧ t.tables.tcam = s.tables.tcam
        ∧ t.rd .RAS_CNT_v [h.n, 14] = (s.rd .RAS_CNT_v [h.n, 14] + 1) % 2 ^ 64 ∧ partsBut [.tables] s t ∧ fieldsBut [.RAS_CNT_v] s t)
    ∧ (s.ras.poison.get? [cls, h.n, inst, bank, row] = some 2 →
      (cls = 1 ∧ (∃ p, p < 16 ∧ p ≠ inst ∧ s.ras.poison.get? [cls, h.n, p, bank, row] = none)) ∨ (cls = 5 ∧ row + bank * 4096 < 0xC000) →
      ∃ t, exec (.ueRepair h cls inst bank row) s = .next t ∧ t.ras.poison.get? [cls, h.n, inst, bank, row] = none
        ∧ t.rd .RAS_CNT_v [h.n, 3] = (s.rd .RAS_CNT_v [h.n, 3] + 1) % 2 ^ 64 ∧ partsBut [.ras] s t ∧ fieldsBut [.RAS_CNT_v] s t))
  ∧ (∀ (s : State) (h : Half) (n : Nat), s.rd .RAS_ECC_CFG_audit_s [h.n] ≠ 0 → n = 786431 - s.cellsHeld h - s.rd .BUF_FREE_phys_free [h.n] →
    ∃ t, exec (.audit h) s = .next t ∧ t.rd .BUF_FREE_phys_free [h.n] = (s.rd .BUF_FREE_phys_free [h.n] + n) % 2 ^ 20
      ∧ t.rd .RAS_CNT_v [h.n, 6] = (s.rd .RAS_CNT_v [h.n, 6] + n) % 2 ^ 64 ∧ partsBut [] s t ∧ fieldsBut [.BUF_FREE_phys_free, .RAS_CNT_v] s t)
  ∧ (∀ (s : State) (h : Half) (pair tile : Nat), pair < 7 → tile < 4 → bit (s.rd .RAS_XSTAT_stuck [h.n]) pair = false → s.xingBusy h pair (xingTile pair tile) = false →
    ∃ t pre, exec (.xingStuck h pair tile) s = .next t ∧ t.rd .RAS_XSTAT_stuck [h.n] = (s.rd .RAS_XSTAT_stuck [h.n] + 2 ^ pair) % 2 ^ 7
      ∧ t.xingAt h pair (xingTile pair tile) = some ⟨s.now h, s.incOf h, s.time.elapsed⟩ ∧ t.time.elapsed = s.time.elapsed + 1000000
      ∧ t.host.events = s.host.events ++ pre ++ [⟨0x011B, h.n, record 32 [(0, 1, h.n), (1, 1, pair), (2, 1, xingTile pair tile)]⟩] ∧ partsBut [.time, .ras] s t ∧ fieldsBut [.RAS_XSTAT_stuck] s t)
  ∧ (∀ (s : State) (h : Half) (value tile : Nat), tile = bits value 7 2 → s.regOff (decide (h = .W)) = false →
    ∃ t, exec (.xingReset h value) s = .next t
      ∧ (∀ pair, pair < 7 → bit value pair = true → t.xingBusy h pair (xingTile pair tile) = false
        ∧ (s.xingBusy h pair (xingTile pair tile) = true → (∀ k, k < 4 → k ≠ xingTile pair tile → s.xingBusy h pair k = false) → bit (t.rd .RAS_XSTAT_stuck [h.n]) pair = false))
      ∧ (bit value 0 = true → (∀ f ∈ s.frames, inLane h tile f = true → t.fr? f.id = none)
        ∧ t.rd .TEL_DROP_CNT_v [h.n, 0x16] = (s.rd .TEL_DROP_CNT_v [h.n, 0x16] + (s.frames.filter (inLane h tile)).length) % 2 ^ 64)
      ∧ (bit value 2 = false → ∀ i, (∀ f ∈ s.frames, f.id = i → inLane h tile f = false) → t.fr? i = s.fr? i)
      ∧ (bit value 2 = true → ∀ g, s.timed.gridA = some g → t.epochNo h = s.epochAt h g)
      ∧ (bit value 2 = false → partsBut [.frames, .time, .ras] s t ∧ fieldsBut [.RAS_XSTAT_stuck, .RAS_CNT_v, .TEL_DROP_CNT_v] s t))
  ∧ (∀ (s : State) (h : Half) (e : Nat × Nat) (q : List (Nat × Nat)), s.eccLog h = e :: q →
    s.regOff (decide (h = .W)) = false → ∃ t, exec (.rasErrPop h) s = .next t ∧ t.eccLog h = q ∧ t.eccLog h.other = s.eccLog h.other ∧ t.host.resp = e.2 ∧ partsBut [.ras] s t ∧ fieldsBut [] s t)

/-- R9, R10, R12, R324, R329, R401, R473, R479: a write to a block of the function gives every RW field of the register its value, clears the bits of W1C fields where the value has a 1, and leaves the other fields; an access outside the function's blocks faults, a VF's blocks being its directory and its own HST_ instance, and a write that does not reach the device, in reset or in West with no host link, changes nothing. A read of an RC register returns the count and clears it, while a 32-bit read of a 64-bit register clears nothing. A write of the per-copy entry of a program that is loaded and in use leaves it as it is and sets `wr_ignored`, in the time base at the write's apply edge. A write that rewrites the groups of a queue, or the exporter's target, also clears the deficits of groups left empty, or drains the exporter to its ring. Unmasking a vector that pends sends its message (log entry 31). The fault for an access outside the function's blocks is log entry 6, which blocks a function reaches log entry 32, and an access off reach log entries 58 and 60. -/
def Obligations.RegisterAccess : Prop :=
  (∀ (s : State) (fn blk inst off value : Nat) (wide : Bool) (r : Reg) (ix : List Nat), blkReach fn blk inst = true → blk ≠ 0 →
    s.regOff (blkWest blk inst) = false → off % (if wide then 8 else 4) = 0 → regAt blk inst off = some (r, ix, 0) → r.info.width = (if wide then 64 else 32) →
    r.info.blk ≠ 10 → copyFlag r = none →
    r ∉ [.FDB_SEED, .HST_DB, .HST_RING_CFG, .HST_RING_BASE, .HST_RING_WB, .TEL_HIST_CFG, .RAS_OWN_CLAIM, .RAS_XRST, .PMC_CNT, .PMC_THRESH, .CLV_ENG_CTL] →
    ∃ t, exec (.registerWrite fn blk inst off wide value) s = .next t
      ∧ (∀ f ∈ r.fields, (f.info.acc = .RW → t.rd f ix = bits value f.info.lo f.info.w)
        ∧ (f.info.acc = .W1C → t.rd f ix = (s.rd f ix ^^^ (s.rd f ix &&& bits value f.info.lo f.info.w)) % 2 ^ f.info.w)
        ∧ (f.info.acc ≠ .RW → f.info.acc ≠ .W1C → f.info.acc ≠ .W1S → t.rd f ix = s.rd f ix)
        ∧ (∀ jx, jx ≠ ix → t.rd f jx = s.rd f jx))
      ∧ partsBut (if r = .TMG_Q_CFG then [.ras, .sched] else if r = .TEL_EXP_CFG then [.ras, .tel] else [.ras]) s t
      ∧ fieldsBut (.RAS_OWN_STAT_mirror_split :: .BUF_IPOOL_use :: r.fields ++ (if r = .TEL_EXP_CFG then [.TEL_EXP_STAT_fifo, .TEL_CNT_v] else [])) s t)
  ∧ (∀ (s : State) (fn blk inst off value : Nat) (wide : Bool),
    (blkReach fn blk inst = false → exec (.registerWrite fn blk inst off wide value) s = .fault .noSuchBlock)
    ∧ (blkReach fn blk inst = true → s.regOff (blkWest blk inst) = true →
      ∃ t, exec (.registerWrite fn blk inst off wide value) s = .next t ∧ t.host = s.host ∧ partsBut [] s t ∧ fieldsBut [] s t)
    ∧ (blkReach fn blk inst = false → exec (.rcCounterRead ⟨fn, blk⟩ inst off wide) s = .fault .noSuchBlock)
    ∧ (∀ v, 1 ≤ v → v ≤ 64 → blk ≠ 0 → blk ≠ 2 → ¬ (blk = 18 ∧ inst = v) → blkReach v blk inst = false))
  ∧ (∀ (s : State) (fn v value : Nat), fn ≤ 64 → v < vectors fn → (s.msixAt fn v).pend = true → bit value 0 = false → s.regOff false = false → s.msixEn fn = true → s.msixFnMask fn = false →
    ∃ t, exec (.registerWrite fn 0 fn (16 * v + 12) false value) s = .next t ∧ t.host.msgs = s.host.msgs ++ [(fn, v)] ∧ (t.msixAt fn v).masked = false
      ∧ (t.msixAt fn v).pend = false ∧ partsBut [] s t ∧ fieldsBut [] s t)
  ∧ (∀ (s : State) (fn blk inst off b : Nat) (r : Reg) (ix : List Nat), blkReach fn blk inst = true → blk ≠ 0 → blk ≠ 2 → s.regOff (blkWest blk inst) = false →
    regAt blk inst off = some (r, ix, b) → r.info.width = 64 →
    (off % 8 = 0 → b = 0 → r ∉ [.TIM_NOW_LO, .TIM_TXTS_W1, .TIM_TIO_CAP_HI, .PMC_SAMP_W1, .RAS_ERR_W1] →
      ∃ t, exec (.rcCounterRead ⟨fn, blk⟩ inst off true) s = .next t ∧ t.host.resp = s.regNow r ix % 2 ^ 64 ∧ t.host.cpls = s.host.cpls
        ∧ (∀ f ∈ r.fields, f.info.acc = .RC → t.rd f ix = 0 ∧ ∀ jx, jx ≠ ix → t.rd f jx = s.rd f jx)
        ∧ partsBut (if r = .LAN_PRBS_CNT ∨ r = .LAN_LANE_STAT then [.fresh] else []) s t
        ∧ (∀ f jx, (f ∈ r.fields → f.info.acc ≠ .RC ∧ f ≠ .LAN_LANE_STAT_prbs_lock) → t.rd f jx = s.rd f jx))
    ∧ (off % 4 = 0 → ∃ t, exec (.rcCounterRead ⟨fn, blk⟩ inst off false) s = .next t ∧ t.host.resp = bits (s.regNow r ix) (8 * b) 32 ∧ partsBut [] s t
        ∧ ∀ f jx, t.rd f jx = s.rd f jx))
  ∧ (∀ (s : State) (which c value : Nat) (h : Half) (r : Reg) (flag : Fld) (ix : List Nat), copyReg which = some r → copyFlag r = some flag → c < 2 →
    ix = [if which = 1 then 0 else h.n, c] →
    (s.copyHeld c = true → (∃ f ∈ r.fields, f.info.acc = .RW ∧ s.rd f ix % 2 ^ f.info.w ≠ bits value f.info.lo f.info.w) →
      s.regOff (decide (h = .W) && decide (which ≠ 1)) = false → ∃ t, exec (.protectedCopyRegWrite which h c value) s = .next t
        ∧ (if which = 1 then (s.applyEdge, flag, ix, 2 ^ flag.info.w) ∈ t.time.pendCfg else t.rd flag ix = 1)
        ∧ partsBut (if which = 1 then [.time] else []) s t ∧ fieldsBut (if which = 1 then [] else [flag]) s t)
    ∧ (s.copyHeld c = false → which ≠ 1 →
      s.regOff (decide (h = .W) && decide (which ≠ 1)) = false → ∃ t, exec (.protectedCopyRegWrite which h c value) s = .next t ∧ (∀ f ∈ r.fields, f.info.acc = .RW → t.rd f ix = bits value f.info.lo f.info.w)
        ∧ partsBut [.ras] s t ∧ fieldsBut (.RAS_OWN_STAT_mirror_split :: r.fields) s t)
    ∧ (s.copyHeld c = false → which = 1 →
      s.regOff (decide (h = .W) && decide (which ≠ 1)) = false → ∃ t, exec (.protectedCopyRegWrite which h c value) s = .next t
        ∧ (∀ f ∈ r.fields, f.info.acc = .RW → s.lastW f ix < 2 ^ f.info.w → (s.applyEdge, f, ix, bits value f.info.lo f.info.w) ∈ t.time.pendCfg)
        ∧ partsBut [.time] s t ∧ fieldsBut [] s t))

/-- R355, R356, R358, R362, R364–R368, R382, R394, R440, R467: the end of RESET samples the straps, trains the links and sets term 1; the flash is read and its headers ordered; an accepted body makes its slot the one applied, and no accepted slot leads to Fallback mode; a record is applied or fails its image; forwarding starts in Autonomous mode with every configured port entered, neither while a patch is ARMING; BOOT_RETRY selects again, with the self-tests where they have not passed. How RESET_END spells the links that train is log entry 54; bit 63 of BOOT_RETRY's result, result 5 and a slot that stays valid though its body fails are log entry 35. -/
def Obligations.BootFlow : Prop :=
  (∀ (s : State) (tmode fsafe : Bool) (sba links : Nat) (pass : Nat → Bool), s.pkg.resetEnded = false → s.pkg.valid = 0x1FF →
    (∀ l, pass l = (decide (l < links % 256) && !bit (linkWord links l) 0)) →
    ∃ t, exec (.resetEnd tmode fsafe sba links) s = .next t ∧ t.pkg.resetEnded = true ∧ t.pkg.resetAt = s.time.elapsed ∧ t.rd .SYS_STRAP_tmode [0] = b2n tmode ∧ t.rd .SYS_STRAP_fsafe [0] = b2n fsafe
      ∧ t.rd .SYS_STRAP_sba [0] = sba % 8 ∧ t.rd .TIM_STAT_pll_lock [0] = 1
      ∧ (∀ l, l < 128 → t.link 9 l = if pass l then (if ((List.range l).filter pass).length < 120 then 2 else 3) else 4)
      ∧ (∀ l, l < 128 → t.link 8 l = (if bit (linkWord links (128 + l)) 0 then 4 else 2) ∧ t.link 11 l = (if bit (linkWord links (256 + l)) 0 then 4 else 2))
      ∧ (∀ l, l < 2 → t.link 10 l = if bit (linkWord links (384 + l)) 0 then 4 else 2)
      ∧ t.bridgeUp = decide (s.minLinks ≤ t.bridgeLinks)
      ∧ (∀ h : Half, t.rd .RAS_OWN_STAT_term [h.n] = 1 ∧ t.rd .RAS_OWN_STAT_owner [h.n] = 0 ∧ t.own h = if t.bridgeUp then h.n else 2)
      ∧ (tmode = true → t.mode = 1) ∧ (tmode = false → t.mode = s.mode ∧ t.rd .SYS_BOOT_STAT_phase [0] = 1 ∧ t.rd .TRB_STAT_testing [0] = 1)
      ∧ partsBut [.pkg, .time, .ras, .fresh] s t
      ∧ fieldsBut [.SYS_STRAP_tmode, .SYS_STRAP_fsafe, .SYS_STRAP_sba, .TIM_STAT_pll_lock, .TIM_STAT_lockstep_lost, .GLB_LINK_STAT_state, .GLB_CNT_v,
        .RAS_LINK_STAT_bridge_ok, .RAS_LINK_STAT_bridge_spares, .RAS_LINK_STAT_degraded, .RAS_LINK_STAT_pipe_rl, .RAS_LINK_STAT_lost, .RAS_OWN_STAT_term,
        .RAS_OWN_STAT_owner, .RAS_OWN_STAT_bridge_up, .RAS_OWN_STAT_state, .SYS_MODE_mode, .SYS_MODE_base_mode, .SYS_MODE_maint_op, .SYS_BOOT_STAT_phase,
        .TRB_STAT_testing, .GLB_LINK_STAT_wire_repaired, .GLB_LINK_STAT_repaired_wire] s t)
  ∧ (∀ (s : State) (fail alg : Nat), s.rd .TRB_STAT_testing [0] ≠ 0 →
    ∃ t, exec (.selftestDone fail alg) s = .next t ∧ t.boot = { s.boot with selfDone := true } ∧ t.rd .TRB_STAT_testing [0] = 0
      ∧ t.rd .TRB_STAT_approved [0] = b2n (decide (fail = 0)) ∧ t.rd .TRB_STAT_error [0] = b2n (decide (fail ≠ 0)) ∧ t.rd .TRB_STAT_err_cause [0] = min fail 4
      ∧ (fail ≠ 0 → ∃ ev, t.host.events = s.host.events ++ [ev] ∧ ev.code = 0x0100) ∧ partsBut [.boot] s t
      ∧ fieldsBut [.TRB_STAT_testing, .TRB_STAT_approved, .TRB_STAT_error, .TRB_STAT_err_cause, .TRB_CNT_v] s t)
  ∧ (∀ (s : State) (ok octal : Bool), s.mode = 0 → s.pkg.resetEnded = true → s.boot.discovered = false →
    ∃ t, exec (.flashDiscovery ok octal) s = .next t ∧ t.boot.discovered = true ∧ t.time.elapsed = max s.time.elapsed (s.pkg.resetAt + 1000000)
      ∧ t.rd .SYS_BOOT_STAT_slow_flash [0] = b2n (decide (s.rd .SYS_STRAP_fsafe [0] ≠ 0) || !octal)
      ∧ (ok = false → t.rd .SYS_BOOT_STAT_res_a [0] = 7 ∧ t.rd .SYS_BOOT_STAT_res_b [0] = 7)
      ∧ (ok = true → (le s.boot.flashA 0 4 ≠ 0x4D49584F → t.rd .SYS_BOOT_STAT_res_a [0] = 2 ∧ t.rd .TRB_SLOT_valid [0, 0] = 0 ∧ 0 ∉ t.boot.cand)
        ∧ (le s.boot.flashB 0 4 ≠ 0x4D49584F → t.rd .SYS_BOOT_STAT_res_b [0] = 2 ∧ t.rd .TRB_SLOT_valid [0, 1] = 0 ∧ 1 ∉ t.boot.cand)
        ∧ (objForm s.boot.flashA imgMagic bodyMax = true → s.objKeys s.boot.flashA = true → t.rd .SYS_BOOT_STAT_res_a [0] = 0 ∧ 0 ∈ t.boot.cand)
        ∧ (t.rd .SYS_BOOT_STAT_res_a [0] = 0 → t.rd .SYS_BOOT_STAT_res_b [0] = 0 →
          t.boot.cand = if objSeq s.boot.flashA < objSeq s.boot.flashB then [1, 0] else [0, 1]))
      ∧ ((ok = false ∨ t.boot.cand = []) → t.mode = 6 ∧ t.rd .SYS_BOOT_STAT_phase [0] = 5)
      ∧ (ok = true → t.boot.cand ≠ [] → t.mode = 0 ∧ t.rd .SYS_BOOT_STAT_phase [0] = 2) ∧ t.boot.flashA = s.boot.flashA ∧ t.boot.flashB = s.boot.flashB
      ∧ partsBut [.boot, .time] s t
      ∧ fieldsBut [.SYS_BOOT_STAT_slow_flash, .SYS_BOOT_STAT_res_a, .SYS_BOOT_STAT_res_b, .SYS_BOOT_STAT_phase, .TRB_SLOT_seq, .TRB_SLOT_valid, .TRB_CNT_v,
        .SYS_MODE_mode, .SYS_MODE_base_mode, .SYS_MODE_maint_op] s t)
  ∧ (∀ (s : State) (c : Nat) (rest : List Nat), s.boot.cand = c :: rest → c < 2 → s.boot.cur = none → s.boot.selfDone = true →
    ∃ t, exec .slotBodyRead s = .next t
      ∧ (∀ rs n, (s.objCheck (s.flash c) imgMagic bodyMax).1 = 0 → imagePlan (s.flash c) = some (rs, n) →
        t.boot.cur = some c ∧ t.boot.recs = rs ∧ t.boot.cand = rest ∧ t.rd .TRB_SLOT_valid [0, c] = 1 ∧ t.rd .TRB_SLOT_seq [0, c] = objSeq (s.flash c) % 2 ^ 64
          ∧ t.rd (if c = 0 then .SYS_BOOT_STAT_res_a else .SYS_BOOT_STAT_res_b) [0] = 1 ∧ t.rd .SYS_BOOT_STAT_phase [0] = 3 ∧ t.mode = s.mode
          ∧ t.rd .TRB_CNT_v [0, 4] = (s.rd .TRB_CNT_v [0, 4] + n) % 2 ^ 64)
      ∧ ((s.objCheck (s.flash c) imgMagic bodyMax).1 ≠ 0 ∨ imagePlan (s.flash c) = none →
        t.boot.cur = none ∧ t.boot.cand = rest
          ∧ ((s.objCheck (s.flash c) imgMagic bodyMax).1 ≠ 0 → t.rd .TRB_SLOT_valid [0, c] = 0)
          ∧ ((s.objCheck (s.flash c) imgMagic bodyMax).1 = 0 → t.rd .TRB_SLOT_valid [0, c] = 1 ∧ t.rd .TRB_SLOT_seq [0, c] = objSeq (s.flash c) % 2 ^ 64)
          ∧ (t.rd (if c = 0 then .SYS_BOOT_STAT_res_a else .SYS_BOOT_STAT_res_b) [0] = match (s.objCheck (s.flash c) imgMagic bodyMax).1 with | 0x21 => 3 | 7 => 4 | 0x24 => 4 | _ => 5)
          ∧ (rest = [] → t.mode = 6 ∧ t.rd .SYS_BOOT_STAT_phase [0] = 5))
      ∧ partsBut [.boot] s t
      ∧ fieldsBut [.SYS_BOOT_STAT_res_a, .SYS_BOOT_STAT_res_b, .SYS_BOOT_STAT_phase, .TRB_SLOT_seq, .TRB_SLOT_valid, .TRB_CNT_v, .SYS_MODE_mode, .SYS_MODE_base_mode,
        .SYS_MODE_maint_op] s t)
  ∧ (∀ (s : State) (c i : Nat) (p : List Byte) (rest : List (Nat × Nat × List Byte × Nat)), s.boot.cur = some c → s.boot.recs = (4, i, p, 0) :: rest →
    p.length = 12 → le p 0 4 < 64 → le p 4 4 ≤ 131072 → le p 8 4 ≤ 65536 → s.unresolved = false → s.mode ≤ 6 → s.arming = false →
    ∃ t, exec .recordApply s = .next t ∧ t.boot = { s.boot with recs := rest } ∧ t.mode = s.mode ∧ t.host.cpls = s.host.cpls
      ∧ (∀ h : Half, t.rd .SLC_QUOTA_em_quota [h.n, le p 0 4] = le p 4 4 ∧ t.rd .SLC_QUOTA_tcam_quota [h.n, le p 0 4] = le p 8 4)
      ∧ partsBut [.boot] s t ∧ fieldsBut [.SLC_QUOTA_em_quota, .SLC_QUOTA_tcam_quota] s t)
  ∧ (∀ (s : State) (c ty i arg : Nat) (p : List Byte) (rest : List (Nat × Nat × List Byte × Nat)), s.boot.cur = some c → c < 2 → s.boot.recs = (ty, i, p, arg) :: rest →
    arg ≠ 0 → ty ≠ 3 → ty ≠ 8 → ty < 12 → i < 2 ^ 24 → s.arming = false →
    ∃ t, exec .recordApply s = .next t ∧ t.boot.cur = none ∧ t.boot.recs = [] ∧ t.boot.store0 = [] ∧ t.boot.cand = s.boot.cand
      ∧ t.rd (if c = 0 then .SYS_BOOT_STAT_res_a else .SYS_BOOT_STAT_res_b) [0] = 6 ∧ t.rd .SYS_BOOT_STAT_fail_type [0] = ty ∧ t.rd .SYS_BOOT_STAT_fail_index [0] = i
      ∧ (s.boot.cand = [] → t.mode = 6 ∧ t.rd .SYS_BOOT_STAT_phase [0] = 5) ∧ (∀ h : Half, ∀ sl, sl < 64 → t.rd .SLC_QUOTA_em_quota [h.n, sl] = Fld.SLC_QUOTA_em_quota.reset [h.n, sl]))
  ∧ (∀ (s : State) (c ms : Nat), s.boot.cur = some c → c < 2 → s.boot.recs = [] → s.arming = false → (∀ p, s.portState p ≠ 4) →
    ∃ t, exec (.forwardingStart ms) s = .next t ∧ t.mode = 2 ∧ t.rd .SYS_MODE_base_mode [0] = 2 ∧ t.pkg.ready = true ∧ t.rd .SYS_BOOT_STAT_phase [0] = 4
      ∧ t.rd .SYS_BOOT_STAT_slot [0] = c ∧ t.rd .SYS_BOOT_STAT_fwd_ms [0] = min ms 65535 ∧ t.rd .TRB_SLOT_booted [0, c] = 1 ∧ t.rd .TRB_SLOT_booted [0, 1 - c] = 0
      ∧ t.time.elapsed = max s.time.elapsed (s.pkg.allValidAt + ms * 1000000 - 2000000) ∧ t.boot.cur = none
      ∧ (∀ p g, s.lanes.ports.get? [p] = some g → t.portState p = if g.enable then 2 else 1)
      ∧ (∀ d, s.boot.retry = some d → completed s t d 0 0 (2 ^ 63 + c)) ∧ (s.boot.retry = none → t.host.cpls = s.host.cpls) ∧ partsBut [.boot, .time, .lanes] s t
      ∧ fieldsBut [.SYS_BOOT_STAT_phase, .SYS_BOOT_STAT_slot, .SYS_BOOT_STAT_fwd_ms, .TRB_SLOT_booted, .SYS_MODE_mode, .SYS_MODE_base_mode, .SYS_MODE_maint_op,
        .LAN_PORT_STAT_state, .LAN_PORT_STAT_tx_rev, .LAN_PORT_STAT_fec_corr, .LAN_PORT_STAT_fec_ind, .LAN_LANE_STAT_eq_default, .LAN_LANE_STAT_pwr,
        .LAN_LANE_STAT_rate, .LAN_LANE_STAT_sig, .LAN_LANE_STAT_cdr_lock, .LAN_LANE_STAT_rx_pos] s t)
  ∧ (∀ (s : State) (d : Hdr), served s d ⟨0x81, .retry, false, false, 0⟩ true (cleanHdr d false false false) →
    (s.boot.writing = none → s.boot.retry = none →
      due s (.bootRetry d) → ∃ t, exec (.bootRetry d) s = .next t ∧ t.mode = 6 ∧ (t.boot.cand = [] → completed s t d 0x20 0 0 ∧ t.rd .SYS_BOOT_STAT_phase [0] = 5)
        ∧ (t.boot.cand ≠ [] → t.boot.retry = some d ∧ t.host.cpls = s.host.cpls ∧ t.rd .SYS_BOOT_STAT_phase [0] = 2)
        ∧ (objForm s.boot.flashA imgMagic bodyMax = true → s.objKeys s.boot.flashA = true → 0 ∈ t.boot.cand)
        ∧ (s.rd .TRB_STAT_approved [0] = 0 → t.rd .TRB_STAT_testing [0] = 1 ∧ t.boot.selfDone = false)
        ∧ (s.rd .TRB_STAT_approved [0] ≠ 0 → t.rd .TRB_STAT_testing [0] = s.rd .TRB_STAT_testing [0] ∧ t.boot.selfDone = s.boot.selfDone) ∧ partsBut [.boot] s t
        ∧ fieldsBut [.SYS_BOOT_STAT_res_a, .SYS_BOOT_STAT_res_b, .SYS_BOOT_STAT_phase, .TRB_SLOT_seq, .TRB_SLOT_valid, .TRB_CNT_v, .SYS_MODE_mode, .SYS_MODE_base_mode,
          .SYS_MODE_maint_op, .TRB_STAT_testing] s t)
    ∧ (s.boot.writing.isSome = true ∨ s.boot.retry.isSome = true → due s (.bootRetry d) → ∃ t, exec (.bootRetry d) s = .next t ∧ completed s t d 1 0x60 0 ∧ partsBut [] s t ∧ fieldsBut [] s t))

/-- R362, R367, R369–R371, R375–R377, R381–R385: an image that passes the checks is being written and its slot is whole and valid once the write is done; a commit of the configuration store makes the merged store current and starts a two-half step; the reports, certificates and the enrolment complete with their results and wait while the self-tests run and refuse in ERROR, into which a failed entropy test puts the module; a run of the self-tests decides ERROR. Commits run one at a time, and the module's services too, in the order in which they start. IMAGE_WRITE's result 2^63 + c, against R384, and the slot written are log entry 35, the entropy failure at ATTEST log entry 81, and what the fuses hold after a failed read-back log entry 57. -/
def Obligations.ImagesAndTrust : Prop :=
  (∀ (s : State) (d : Hdr), served s d ⟨0x80, .imageWrite, true, false, 0⟩ true (cleanHdr d false false true) →
    (s.boot.writing.isSome = true → due s (.imageWrite d) → ∃ t, exec (.imageWrite d) s = .next t ∧ completed s t d 1 0x60 0 ∧ partsBut [] s t ∧ fieldsBut [] s t)
    ∧ (s.boot.writing = none → s.trbWaits d = true → due s (.imageWrite d) → ∃ t, exec (.imageWrite d) s = .next t ∧ t.host.cpls = s.host.cpls ∧ partsBut [] s t ∧ fieldsBut [] s t)
    ∧ (s.boot.writing = none → s.trbWaits d = false → d.buf = none → due s (.imageWrite d) → ∃ t, exec (.imageWrite d) s = .next t ∧ completed s t d 5 0 0 ∧ partsBut [] s t ∧ fieldsBut [] s t)
    ∧ (∀ b st, s.boot.writing = none → s.trbWaits d = false → d.buf = some b → st = (s.objCheck b imgMagic bodyMax).1 →
      due s (.imageWrite d) → ∃ t, exec (.imageWrite d) s = .next t
        ∧ (st ≠ 0 → completed s t d st 0 0 ∧ t.boot = s.boot)
        ∧ (st = 0 → (∃ c, c < 2 ∧ s.slotValid c = true ∧ objSeq b ≤ s.rd .TRB_SLOT_seq [0, c]) → completed s t d 0x22 0 0 ∧ t.boot = s.boot)
        ∧ (st = 0 → (∀ c, c < 2 → s.slotValid c = true → s.rd .TRB_SLOT_seq [0, c] < objSeq b) →
          t.boot = { s.boot with writing := some (d, s.writeSlot, b.take (objHdr + objLen b)) } ∧ t.host.cpls = s.host.cpls)
        ∧ partsBut [.boot] s t ∧ fieldsBut [.TRB_CNT_v] s t))
  ∧ (∀ (s : State) (d : Hdr) (c : Nat) (b : List Byte), s.boot.writing = some (d, c, b) → c < 2 →
    (∀ ok, s.trbError = true → ∃ t, exec (.imageWriteDone ok) s = .next t ∧ t.boot.writing = none ∧ t.flash c = [] ∧ t.flash (1 - c) = s.flash (1 - c) ∧ t.slotValid c = false
      ∧ completed s t d 0x24 0 0 ∧ partsBut [.boot] s t ∧ fieldsBut [.TRB_SLOT_seq, .TRB_SLOT_valid] s t)
    ∧ (s.trbError = false → ∃ t, exec (.imageWriteDone true) s = .next t ∧ t.boot.writing = none ∧ t.flash c = b ∧ t.flash (1 - c) = s.flash (1 - c) ∧ t.slotValid c = true
      ∧ t.rd .TRB_SLOT_seq [0, c] = objSeq b % 2 ^ 64 ∧ t.rd .TRB_CNT_v [0, 1] = (s.rd .TRB_CNT_v [0, 1] + 1) % 2 ^ 64 ∧ completed s t d 0 0 (2 ^ 63 + c) ∧ partsBut [.boot] s t
      ∧ fieldsBut [.TRB_SLOT_seq, .TRB_SLOT_valid, .TRB_CNT_v] s t)
    ∧ (s.trbError = false → ∃ t, exec (.imageWriteDone false) s = .next t ∧ t.boot.writing = none ∧ t.flash c = [] ∧ t.flash (1 - c) = s.flash (1 - c) ∧ t.slotValid c = false
      ∧ completed s t d 0x23 0 0 ∧ partsBut [.boot] s t ∧ fieldsBut [.TRB_SLOT_seq, .TRB_SLOT_valid] s t))
  ∧ (∀ (s : State) (d : Hdr) (b : List Byte) (es : List CfgEnt) (seq : Nat), served s d ⟨0x82, .config, true, false, 0⟩ true (cleanHdr d false false true) →
    d.hlen % 16 = 0 → 16 ≤ d.hlen → d.hlen ≤ 65536 → d.buf = some b → es = (List.range (d.hlen / 16)).map (fun i => cfgEnt (slice b (16 * i) 16)) →
    seq = (s.rd .TRB_CFG_SEQ_cfg_seq [0] + 1) % 2 ^ 64 →
    (s.committing = true ∨ s.turnOf d [0x82] = false → due s (.cfgCommit d) → ∃ t, exec (.cfgCommit d) s = .next t ∧ t.host.cpls = s.host.cpls ∧ partsBut [] s t ∧ fieldsBut [] s t)
    ∧ (s.committing = false → s.turnOf d [0x82] = true → es.all cfgNames = false → due s (.cfgCommit d) → ∃ t, exec (.cfgCommit d) s = .next t ∧ completed s t d 3 0 0 ∧ partsBut [] s t ∧ fieldsBut [] s t)
    ∧ (s.committing = false → s.turnOf d [0x82] = true → es.all cfgNames = true → 8192 < (es.foldl cfgMerge s.store).length → due s (.cfgCommit d) → ∃ t, exec (.cfgCommit d) s = .next t ∧ completed s t d 0x10 0 0 ∧ partsBut [] s t ∧ fieldsBut [] s t)
    ∧ (s.committing = false → s.turnOf d [0x82] = true → es.all cfgNames = true → (es.foldl cfgMerge s.store).length ≤ 8192 →
      due s (.cfgCommit d) → ∃ t x, exec (.cfgCommit d) s = .next t ∧ t.store = es.foldl cfgMerge s.store ∧ t.rd .TRB_CFG_SEQ_cfg_seq [0] = seq ∧ t.ras.steps = s.ras.steps ++ [x]
        ∧ x.kind = .cfg (cfgOrder (es.foldl cfgMerge s.store) es) ∧ x.desc = some d ∧ x.result = seq ∧ t.host.cpls = s.host.cpls ∧ partsBut [.boot, .ras] s t ∧ fieldsBut [.TRB_CFG_SEQ_cfg_seq] s t))
  ∧ (∀ (s : State) (d : Hdr), served s d ⟨0x83, .reads, false, false, 0⟩ true (cleanHdr d false false true) → 16 * s.store.length ≤ d.hlen → d.buf.isSome = true →
    due s (.cfgRead d) → ∃ t, exec (.cfgRead d) s = .next t ∧ completed s t d 0 0 s.store.length
      ∧ (s.on .HST_RING_CFG_en [d.fn, d.ring + 4] = false → s.on .HST_RING_CFG_en [0, 8] = false → t.host.mem = s.host.mem.setBytes d.haddr (s.store.flatMap cfgBytes)) ∧ partsBut [] s t ∧ fieldsBut [] s t)
  ∧ (∀ (s : State) (d : Hdr) (nonce : List Byte) (alg : Nat), d.buf.isSome = true →
    (served s d ⟨0x84, .reads, false, false, 0⟩ true (cleanHdr d false false true) → 7392 ≤ d.hlen →
      (s.trbWaits d = true → due s (.attest d nonce) → ∃ t, exec (.attest d nonce) s = .next t ∧ t.host.cpls = s.host.cpls ∧ partsBut [] s t ∧ fieldsBut [] s t)
      ∧ (∀ fails, s.trbWaits d = false → s.trbError = false → fails = Config.entropyFails s.fresh → due s (.attest d nonce) →
        ∃ t, exec (.attest d nonce) s = .next t ∧ completed s t d (if fails then 0x24 else 0) 0 (if fails then 0 else 2 ^ 63) ∧ t.trbError = fails
          ∧ (fails = true → t.rd .TRB_STAT_approved [0] = 0 ∧ t.rd .TRB_STAT_err_cause [0] = 4 ∧ t.rd .TRB_CNT_v [0, 3] = s.rd .TRB_CNT_v [0, 3])
          ∧ (fails = false → t.rd .TRB_STAT_approved [0] = s.rd .TRB_STAT_approved [0] ∧ t.rd .TRB_CNT_v [0, 3] = (s.rd .TRB_CNT_v [0, 3] + 1) % 2 ^ 64
            ∧ (s.on .HST_RING_CFG_en [d.fn, d.ring + 4] = false → s.on .HST_RING_CFG_en [0, 8] = false → t.host.mem = s.host.mem.setBytes d.haddr (s.report nonce
              ++ padTo 64 ((Config.ed25519Sign (s.report nonce)).take 64) ++ padTo 3312 ((Config.mldsaSign (Config.freeValue s.fresh) (s.report nonce)).take 3309))))
          ∧ partsBut [.fresh] s t ∧ fieldsBut [.TRB_CNT_v, .TRB_STAT_approved, .TRB_STAT_error, .TRB_STAT_err_cause] s t)
      ∧ (s.trbWaits d = false → s.trbError = true → due s (.attest d nonce) → ∃ t, exec (.attest d nonce) s = .next t ∧ completed s t d 0x24 0 0 ∧ partsBut [] s t ∧ fieldsBut [] s t))
    ∧ (served s d ⟨0x85, .reads, false, false, 0⟩ true (cleanHdr d false false true) → alg < 2 → (Config.certChain alg).length ≤ d.hlen → s.trbWaits d = false → s.trbError = false →
      due s (.idCertRead d alg) → ∃ t, exec (.idCertRead d alg) s = .next t ∧ completed s t d 0 0 (2 ^ 63 + (Config.certChain alg).length)
        ∧ (s.on .HST_RING_CFG_en [d.fn, d.ring + 4] = false → s.on .HST_RING_CFG_en [0, 8] = false → t.host.mem = s.host.mem.setBytes d.haddr (Config.certChain alg)) ∧ partsBut [] s t ∧ fieldsBut [] s t))
  ∧ (∀ (s : State) (d : Hdr) (b : List Byte) (off fuseOk : Bool), served s d ⟨0x86, .enroll, true, false, 0⟩ true (cleanHdr d false false true) → d.buf = some b →
    (s.rd .TRB_STAT_owner_enrolled [0] ≠ 0 → due s (.ownerEnroll d off fuseOk) → ∃ t, exec (.ownerEnroll d off fuseOk) s = .next t ∧ completed s t d 1 0x61 0 ∧ partsBut [] s t ∧ fieldsBut [] s t)
    ∧ (s.rd .TRB_STAT_owner_enrolled [0] = 0 → 1984 ≤ d.hlen → s.trbWaits d = false → s.trbError = false →
      (fuseOk = true → due s (.ownerEnroll d off fuseOk) → ∃ t, exec (.ownerEnroll d off fuseOk) s = .next t ∧ completed s t d 0 0 (2 ^ 63) ∧ t.rd .TRB_STAT_owner_enrolled [0] = 1
        ∧ t.rd .TRB_STAT_vendor_img_off [0] = b2n off ∧ t.rd .TRB_OWNER_DIGEST_v [0] = digestNat (sha384 (slice b 0 1984)) % 2 ^ 384 ∧ partsBut [] s t
        ∧ fieldsBut [.TRB_STAT_owner_enrolled, .TRB_STAT_vendor_img_off, .TRB_OWNER_DIGEST_v] s t)
      ∧ (fuseOk = false → due s (.ownerEnroll d off fuseOk) → ∃ t, exec (.ownerEnroll d off fuseOk) s = .next t ∧ completed s t d 0x23 0 0 ∧ partsBut [.fresh] s t
        ∧ fieldsBut [.TRB_STAT_owner_enrolled, .TRB_STAT_vendor_img_off, .TRB_OWNER_DIGEST_v] s t)))
  ∧ (∀ (s : State) (d : Hdr) (fail alg : Nat), served s d ⟨0x87, .reads, false, false, 0⟩ true (cleanHdr d false false false) → s.trbWaits d = true →
    due s (.trbSelftest d fail alg) → ∃ t, exec (.trbSelftest d fail alg) s = .next t ∧ t.host.cpls = s.host.cpls ∧ partsBut [] s t ∧ fieldsBut [] s t)
  ∧ (∀ (s : State) (d : Hdr) (fail alg : Nat), served s d ⟨0x87, .reads, false, false, 0⟩ true (cleanHdr d false false false) → s.trbWaits d = false →
    due s (.trbSelftest d fail alg) → ∃ t, exec (.trbSelftest d fail alg) s = .next t ∧ (fail = 0 → completed s t d 0 0 (2 ^ 63)) ∧ (fail ≠ 0 → completed s t d 0x24 0 0)
      ∧ t.rd .TRB_STAT_approved [0] = b2n (decide (fail = 0)) ∧ t.rd .TRB_STAT_error [0] = b2n (decide (fail ≠ 0)) ∧ t.rd .TRB_STAT_err_cause [0] = min fail 4
      ∧ t.rd .TRB_CNT_v [0, 5] = (s.rd .TRB_CNT_v [0, 5] + 1) % 2 ^ 64 ∧ t.boot = { s.boot with selfDone := true } ∧ partsBut [.boot] s t
      ∧ fieldsBut [.TRB_STAT_testing, .TRB_STAT_approved, .TRB_STAT_error, .TRB_STAT_err_cause, .TRB_CNT_v] s t)

/-- R355, R358, R452, R454, R455, R457, R458, R471: once every supply is valid the device starts from its reset values; the loss of a rail resets every register but the fuses and, unless their own rails fail, the thermal alarms; while VDDA_18 and VDD_IO are valid a reading at or above 105.0 degrees sets the warning and one below 102.0 clears it; 1 ms at 120.0 degrees sets the critical alarm; the target moves by at most 5 mV to the half's goal; a bus without answer for 10 ms, the first counted from RESET's end, is an error. A sample at the next multiple of 100 µs, the one that wakes the sensors 1 ms after their own rails became valid, and elapsed time 0 at SUPPLY_VALID are log entry 58; the read-back at multiples of 1 ms is log entry 85. -/
def Obligations.SuppliesAndTemperature : Prop :=
  (∀ s : State, s.pkg.valid ≠ 0x1FF → ∃ t, exec .supplyValid s = .next t ∧ t.pkg.valid = 0x1FF ∧ t.pkg.allValidAt = 0
    ∧ t.time = State.reset.time ∧ (∀ f ix, t.rd f ix = if powerKeeps 0 f then s.rd f ix else f.reset ix) ∧ t.mode = 0 ∧ t.pkg.resetEnded = false ∧ t.pending = s.pending
    ∧ t.host.mem = s.host.mem ∧ t.boot.flashA = s.boot.flashA ∧ t.boot.flashB = s.boot.flashB)
  ∧ (∀ (s : State) (rail : Nat), rail < 9 →
    (∃ t, exec (.supplyInvalid rail) s = .next t ∧ (∀ f ix, t.rd f ix = if powerKeeps rail f then s.rd f ix else f.reset ix) ∧ t.frames = [] ∧ t.mode = 0
      ∧ t.pkg.ready = false ∧ t.pkg.resetEnded = false ∧ t.pending = s.pending ∧ t.host.mem = s.host.mem ∧ bit t.pkg.valid rail = false
      ∧ (∀ a, s.pkg.hotSince = some a → rail ≠ 7 → rail ≠ 8 → t.pkg.hotSince = some 0 ∧ t.pkg.hotHeld = s.pkg.hotHeld + (s.time.elapsed - a))
      ∧ (s.boot.writing = none → t.boot.flashA = s.boot.flashA ∧ t.boot.flashB = s.boot.flashB)
      ∧ (∀ d c b, s.boot.writing = some (d, c, b) → t.flash c = [] ∧ (c < 2 → t.flash (1 - c) = s.flash (1 - c))))
    ∧ (bit s.pkg.valid rail = true →
      ∃ t, exec (.railBelowRange rail) s = .next t ∧ t.rd .SYS_SUPPLY_low [0] = (s.rd .SYS_SUPPLY_low [0] ||| 2 ^ rail) % 2 ^ 9 ∧ partsBut [] s t ∧ fieldsBut [.SYS_SUPPLY_low] s t))
  ∧ (∀ (s : State) (east west tiles top : Int) (fault : Bool), top = max (max east west) tiles → s.thermOn = true →
    ∃ t, exec (.thermSample east west tiles fault) s = .next t ∧ t.time.elapsed = nextMultiple 100000 s.time.elapsed ∧ t.rd .SYS_THERM_t_max [0] = unsigned 16 top
      ∧ t.rd .SYS_THERM_t_east [0] = unsigned 16 east ∧ t.rd .SYS_THERM_t_west [0] = unsigned 16 west ∧ t.rd .SYS_THERM_sens_fault [0] = b2n fault
      ∧ (1680 ≤ top ∨ fault = true → t.rd .SYS_THERM_warn [0] = 1 ∧ t.pkg.warnN = false)
      ∧ (top < 1632 → fault = false → t.rd .SYS_THERM_warn [0] = 0 ∧ t.pkg.warnN = true)
      ∧ (1632 ≤ top → top < 1680 → fault = false → t.rd .SYS_THERM_warn [0] = b2n s.pkg.hot)
      ∧ (1920 ≤ top → t.pkg.hotSince = some (s.pkg.hotSince.getD t.time.elapsed)) ∧ (top < 1920 → t.pkg.hotSince = none)
      ∧ (fault = true → t.rd .SYS_THERM_crit [0] = 1 ∧ t.pkg.critN = false) ∧ (fault = false → t.rd .SYS_THERM_crit [0] = b2n s.pkg.burnt) ∧ partsBut [.time, .pkg] s t
      ∧ fieldsBut [.SYS_THERM_t_max, .SYS_THERM_t_east, .SYS_THERM_t_west, .SYS_THERM_warn, .SYS_THERM_crit, .SYS_THERM_sens_fault] s t)
  ∧ (∀ (s : State) (a : Nat), s.pkg.hotSince = some a →
    ∃ t, exec .thermCrit s = .next t ∧ t.time.elapsed = max s.time.elapsed (a + (1000000 - s.pkg.hotHeld)) ∧ t.rd .SYS_THERM_crit [0] = 1 ∧ t.pkg.critN = false ∧ t.pkg.burnt = true
      ∧ partsBut [.time, .pkg] s t ∧ fieldsBut [.SYS_THERM_warn, .SYS_THERM_crit, .SYS_THERM_sens_fault] s t)
  ∧ (∀ (s : State) (h : Half) (goal v : Nat), s.pkg.resetEnded = true → goal = s.avsGoal h → v = s.rd .SYS_AVS_v_target [0, h.n] →
    s.rd .SYS_AVS_avs_err [0, h.n] = 0 → v ≠ goal →
    ∃ t, exec (.avsStep h) s = .next t ∧ t.rd .SYS_AVS_v_target [0, h.n] = (if v < goal then min goal (v + 5) else max goal (v - 5)) % 2 ^ 8
      ∧ t.rd .SYS_AVS_v_target [0, h.other.n] = s.rd .SYS_AVS_v_target [0, h.other.n]
      ∧ t.time.elapsed = (match s.pkg.avsAt.get? [h.n, 0] with | some a => max s.time.elapsed (a + 20000) | none => s.time.elapsed)
      ∧ t.pkg.avsAt.get? [h.n, 0] = some t.time.elapsed ∧ partsBut [.time, .pkg] s t ∧ fieldsBut [.SYS_AVS_v_target] s t)
  ∧ (∀ (s : State) (h : Half) (mv amps : Nat), s.pkg.resetEnded = true →
    (∃ t, exec (.avsReadback h mv amps) s = .next t ∧ t.time.elapsed = nextMultiple 1000000 s.time.elapsed ∧ t.rd .SYS_AVS_v_read [0, h.n] = mv % 2 ^ 16
      ∧ t.rd .SYS_AVS_i_read [0, h.n] = amps % 2 ^ 16 ∧ partsBut [.time, .pkg] s t ∧ fieldsBut [.SYS_AVS_v_read, .SYS_AVS_i_read] s t)
    ∧ (∃ t, exec (.avsTimeout h) s = .next t ∧ t.rd .SYS_AVS_avs_err [0, h.n] = 1 ∧ t.time.elapsed = max s.time.elapsed (s.pkg.avsAt.getD [h.n, 1] s.pkg.resetAt + 10000000)
      ∧ partsBut [.time] s t ∧ fieldsBut [.SYS_AVS_avs_err] s t))
  ∧ (∀ (s : State) (east west tiles : Int) (fault : Bool), s.thermOn = false →
    ∃ t, exec (.thermSample east west tiles fault) s = .next t ∧ t.time.elapsed = nextMultiple 100000 (max s.time.elapsed 1000000) ∧ t.thermOn = true
      ∧ t.pkg.valid = s.pkg.valid ∧ t.rd .SYS_THERM_t_max [0] = unsigned 16 (max (max east west) tiles)
      ∧ partsBut [.time, .pkg] s t ∧ fieldsBut [.SYS_THERM_t_max, .SYS_THERM_t_east, .SYS_THERM_t_west, .SYS_THERM_warn, .SYS_THERM_crit, .SYS_THERM_sens_fault] s t)

/-- R454, R455, R470–R472: after RESET the sideband commands return what their rows name and the PEC of the transfer for a host that reads on, a code beyond them is not acknowledged, and before RESET ends the device does not acknowledge its address; an alert response returns the address and releases SMB_ALERT_N; the JTAG instructions select their registers, and the boundary instructions act as BYPASS outside Test mode, while in it HIGHZ floats every output but TDO, and EXTEST, EXTEST_PULSE, EXTEST_TRAIN and CLAMP show what SAMPLE/PRELOAD left in the boundary register. Until RESET ends TDO is at high impedance. The numbers of the JTAG instructions and the boundary register's free contents are the model's (log entry 36); that an alert response is answered only while SMB_ALERT_N is asserted, and the PEC's polynomial, are log entry 59. -/
def Obligations.SidebandAndJtag : Prop :=
  (∀ s : State, s.pkg.resetEnded = true →
    (∃ t, exec .caps s = .next t ∧ t.pkg.sideband = [1] ∧ partsBut [.pkg] s t ∧ fieldsBut [] s t)
    ∧ (∃ t, exec .ident s = .next t ∧ t.pkg.sideband = leBytes 6 (s.regVal .SYS_ID [0]) ∧ partsBut [.pkg] s t ∧ fieldsBut [] s t)
    ∧ (∃ t, exec .mode s = .next t ∧ t.pkg.sideband = [byteOf s.mode] ∧ partsBut [.pkg] s t ∧ fieldsBut [] s t)
    ∧ (∃ t, exec .boot s = .next t ∧ t.pkg.sideband = leBytes 8 (s.regVal .SYS_BOOT_STAT [0]) ∧ partsBut [.pkg] s t ∧ fieldsBut [] s t)
    ∧ (∃ t, exec .temp s = .next t ∧ t.pkg.sideband = leBytes 2 (s.rd .SYS_THERM_t_max [0]) ∧ partsBut [.pkg] s t ∧ fieldsBut [] s t)
    ∧ (∃ t, exec .alarm s = .next t ∧ t.pkg.sideband = [byteOf s.alarm] ∧ partsBut [.pkg] s t ∧ fieldsBut [] s t)
    ∧ (∃ t, exec .supply s = .next t ∧ t.pkg.sideband = leBytes 2 (s.rd .SYS_SUPPLY_low [0]) ∧ partsBut [.pkg] s t ∧ fieldsBut [] s t)
    ∧ (∃ t, exec .power s = .next t ∧ t.pkg.sideband = leBytes 2 (s.corePower + Config.otherRailPower s.fresh) ∧ partsBut [.pkg, .fresh] s t ∧ fieldsBut [] s t)
    ∧ (s.pkg.alertN = false → ∃ t, exec .alertResponse s = .next t ∧ t.pkg.sideband = [byteOf (0x60 + s.rd .SYS_STRAP_sba [0])] ∧ t.pkg.alertN = true
      ∧ t.pkg.alarmAck = s.alarm ∧ partsBut [.pkg] s t ∧ fieldsBut [] s t)
    ∧ (s.pkg.alertN = true → ∃ t, exec .alertResponse s = .next t ∧ t.pkg.sideband = [] ∧ t.pkg.alarmAck = s.pkg.alarmAck ∧ partsBut [.pkg] s t ∧ fieldsBut [] s t))
  ∧ (∀ (s : State) (c : Instr), s.pkg.resetEnded = false → c ∈ [.caps, .ident, .mode, .boot, .temp, .alarm, .supply, .power, .alertResponse] →
    ∃ t, exec c s = .next t ∧ t.pkg.sideband = [] ∧ partsBut [.pkg, .fresh] s t ∧ fieldsBut [] s t)
  ∧ (∀ (s : State) (wr rd : Byte), s.pkg.resetEnded = true → wr = byteOf (2 * (0x60 + s.rd .SYS_STRAP_sba [0])) → rd = byteOf (2 * (0x60 + s.rd .SYS_STRAP_sba [0]) + 1) →
    (∀ c code, (c, code) ∈ [(Instr.caps, 0), (.mode, 2), (.temp, 4), (.alarm, 5), (.supply, 6), (.power, 7)] →
      ∃ t, exec c s = .next t ∧ t.pkg.pec = pecOf ([wr, byteOf code, rd] ++ t.pkg.sideband) ∧ partsBut [.pkg, .fresh] s t ∧ fieldsBut [] s t)
    ∧ (∀ c code, (c, code) ∈ [(Instr.ident, 1), (.boot, 3)] →
      ∃ t, exec c s = .next t ∧ t.pkg.pec = pecOf ([wr, byteOf code, rd, byteOf t.pkg.sideband.length] ++ t.pkg.sideband) ∧ partsBut [.pkg] s t ∧ fieldsBut [] s t)
    ∧ (∀ code, 7 < code → (s.sideband code).pkg.sideband = []))
  ∧ (∀ (s : State) (out : Nat → Option Nat), (∀ v, out v = if s.pkg.resetEnded then some v else none) →
    (∃ t, exec .bypass s = .next t ∧ t.pkg.ir = irBypass ∧ t.pkg.tdo = out 0 ∧ partsBut [.pkg] s t ∧ fieldsBut [] s t)
    ∧ (∃ t, exec .idcode s = .next t ∧ t.pkg.ir = irIdcode ∧ t.pkg.tdo = out 0x1920456B ∧ partsBut [.pkg] s t ∧ fieldsBut [] s t)
    ∧ (∃ t, exec .samplePreload s = .next t ∧ t.pkg.ir = irSample ∧ t.pkg.tdo = out (Config.freeValue s.fresh) ∧ t.pkg.bsr = Config.freeValue (s.fresh + 1)
      ∧ (∀ p, p ≠ .tdo → t.pin p = t.driven p) ∧ partsBut [.pkg, .fresh] s t ∧ fieldsBut [] s t)
    ∧ (∃ t, exec .tapReset s = .next t ∧ t.pkg.ir = irIdcode ∧ t.pkg.tdo = none ∧ partsBut [.pkg] s t ∧ fieldsBut [] s t)
    ∧ (∀ c ir, (c, ir) ∈ [(Instr.extest, irExtest), (.extestPulse, irPulse), (.extestTrain, irTrain)] → s.mode = 1 →
      ∃ t, exec c s = .next t ∧ t.pkg.ir = ir ∧ t.pkg.tdo = out (Config.freeValue s.fresh) ∧ (∀ p, p ≠ .tdo → t.pin p = some (Config.boundaryCell s.pkg.bsr p.cell))
        ∧ partsBut [.pkg, .fresh] s t ∧ fieldsBut [] s t)
    ∧ (s.mode = 1 → ∃ t, exec .highz s = .next t ∧ t.pkg.ir = irHighz ∧ t.pkg.tdo = out 0 ∧ (∀ p, p ≠ .tdo → t.pin p = none) ∧ partsBut [.pkg] s t ∧ fieldsBut [] s t)
    ∧ (s.mode = 1 → ∃ t, exec .clamp s = .next t ∧ t.pkg.ir = irClamp ∧ t.pkg.tdo = out 0 ∧ (∀ p, p ≠ .tdo → t.pin p = some (Config.boundaryCell s.pkg.bsr p.cell))
      ∧ partsBut [.pkg] s t ∧ fieldsBut [] s t)
    ∧ (∀ c, c ∈ [Instr.extest, .extestPulse, .extestTrain, .highz, .clamp] → s.mode ≠ 1 →
      ∃ t, exec c s = .next t ∧ t.pkg.ir = irBypass ∧ t.pkg.tdo = out 0 ∧ (∀ p, t.pin p = t.driven p) ∧ partsBut [.pkg] s t ∧ fieldsBut [] s t))

/-- A step runs the command at the front of the queue with the queue's rest; on an empty queue one tick of the time base passes, which is the model's choice (log entry 5): where no work waits for an engine (log entry 45), the elapsed time rises by one and each half's network time by its increment (R177), and a function reset that waited for descriptors ends in it once they have completed (R354). -/
def Obligations.StepRunsTheFrontCommand : Prop :=
  (∀ (c : Instr) (rest : List Instr) (s : State), step { s with pending := c :: rest } = exec c { s with pending := rest })
  ∧ (∀ s : State, s.pending = [] → s.host.flr = [] → s.host.late = [] → s.fdb.portDue = [] → s.tel.histDue = [] → ∃ t, step s = .next t ∧ t.time.elapsed = s.time.elapsed + 1 ∧ t.time.tE = (s.time.tE + s.time.incE) % tsMod
    ∧ t.time.tW = (s.time.tW + s.time.incW) % tsMod ∧ partsBut [.time] s t ∧ fieldsBut [] s t)
  ∧ (∀ (s : State) (fn : Nat), s.pending = [] → s.host.flr = [fn] → s.host.late = [] → s.fdb.portDue = [] → s.tel.histDue = [] → fn < 65 → (∀ x ∈ s.host.taken, x.hdr.fn ≠ fn) →
    ∃ t, step s = .next t ∧ t.host.flr = [] ∧ t.time.elapsed = s.time.elapsed + 1)

/-- R458, R468, R471: from every state that has them so, a step leaves READY high exactly in modes 2 to 5, each thermal pin low exactly while its alarm is set, and SMB_ALERT_N as the alarms and their last release have it. -/
def Obligations.PinsFollowKeptByEveryStep : Prop := ∀ s t : State, s.pinsFollow → step s = .next t → t.pinsFollow

/-- R10, R387, R468: State.reset has the pins that follow its registers, and the registers hold the values of their tables: the device code, the free cells of a half, the mode before RESET ends. -/
def Obligations.ResetState : Prop :=
  State.reset.pinsFollow ∧ State.reset.legalMode ∧ State.reset.pkg.ready = false ∧ (∀ f ix, State.reset.rd f ix = f.reset ix)
    ∧ State.reset.rd .SYS_ID_device [0] = 0x00090204 ∧ State.reset.rd .BUF_FREE_phys_free [0] = 786431 ∧ State.reset.rd .BUF_FREE_phys_free [1] = 786431
    ∧ State.reset.rd .TRB_SLOT_seq [0, 0] = 0xFFFFFFFFFFFFFFFF ∧ State.reset.rd .SYS_AVS_v_target [0, 0] = 150 ∧ State.reset.pending = []

/-- R333, R337: every entry that the device puts into a completion, event or receive-completion ring stands in the slot of its count n with the phase bit ((n div size) mod 2) XOR 1, which is 1 on the first pass; the completion of a NOP on an enabled completion ring is such an entry of 16 bytes, and the ring's count rises by one. -/
def Obligations.CompletionCarriesThePhaseBit : Prop :=
  (∀ (s : State) (fn r n size phase pa pb : Nat) (ent : List Byte) (sig : Bool), n = s.rd .HST_RING_STAT_dev_idx [fn, r] → size = s.ringSize fn r →
    phase = (n / size) % 2 ^^^ 1 → pa < ent.length → pb < 8 → bit (byteAt ent pa) pb = false →
    (s.ringPut fn r ent pa pb sig).host.mem.bytes (s.rd .HST_RING_BASE_base [fn, r] * 4096 + ent.length * (n % size)) ent.length
        = overlay ent pa [byteOf (byteAt ent pa + phase * 2 ^ pb)]
      ∧ (n < size → phase = 1) ∧ (s.ringPut fn r ent pa pb sig).rd .HST_RING_STAT_dev_idx [fn, r] = (n + 1) % 2 ^ 32)
  ∧ (∀ (s : State) (d : Hdr) (n size phase : Nat), served s d ⟨0x01, .any, false, true, 0⟩ true (cleanHdr d false false false) →
    s.routineUp (s.ringHalf d) 8 = true → s.xingBusy (s.ringHalf d) 5 0 = false → s.host.late = [] →
    s.on .HST_RING_CFG_en [d.fn, d.ring + 4] = true → s.host.voidC.any (fun x => sameHdr x d) = false → n = s.rd .HST_RING_STAT_dev_idx [d.fn, d.ring + 4] → size = s.ringSize d.fn (d.ring + 4) →
    phase = (n / size) % 2 ^^^ 1 →
    due s (.nop d) → ∃ t, exec (.nop d) s = .next t ∧ t.rd .HST_RING_STAT_dev_idx [d.fn, d.ring + 4] = (n + 1) % 2 ^ 32
      ∧ t.host.mem.bytes (s.rd .HST_RING_BASE_base [d.fn, d.ring + 4] * 4096 + 16 * (n % size)) 16
        = leBytes 4 d.tag ++ leBytes 3 0 ++ [byteOf phase] ++ leBytes 8 0)
end

