-- ==== Sys2Proof/Laws/Maps.lean ====
section
/-!
SUPPORT. Lemmas of the sparse maps and of the addressed memories: a read after a write, the other places left alone, and the canonical form kept.
-/

namespace Sys2Proof

theorem keyLt_irrefl (a : List Nat) : keyLt a a = false := by
  induction a with
  | nil => rfl
  | cons x xs ih => simp [keyLt, ih]

theorem keyLt_cons (a b : Nat) (as bs : List Nat) :
    keyLt (a :: as) (b :: bs) = true ↔ a < b ∨ (a = b ∧ keyLt as bs = true) := by
  simp only [keyLt]
  split
  · simp [*]
  · split
    · simp; omega
    · have : a = b := by omega
      simp [this]

theorem keyLt_trans {a b c : List Nat} (h : keyLt a b = true) (k : keyLt b c = true) : keyLt a c = true := by
  induction a generalizing b c with
  | nil =>
    cases c with
    | nil => cases b <;> simp [keyLt] at k
    | cons z zs => rfl
  | cons x xs ih =>
    cases b with
    | nil => simp [keyLt] at h
    | cons y ys =>
      cases c with
      | nil => simp [keyLt] at k
      | cons z zs =>
        rw [keyLt_cons] at h k ⊢
        rcases h with h | ⟨h, h'⟩ <;> rcases k with k | ⟨k, k'⟩
        · exact .inl (by omega)
        · exact .inl (by omega)
        · exact .inl (by omega)
        · exact .inr ⟨by omega, ih h' k'⟩

theorem keyLt_total {a b : List Nat} (h : a ≠ b) (k : keyLt a b = false) : keyLt b a = true := by
  induction a generalizing b with
  | nil => cases b with
    | nil => exact absurd rfl h
    | cons y ys => simp [keyLt] at k
  | cons x xs ih =>
    cases b with
    | nil => rfl
    | cons y ys =>
      simp only [keyLt] at k ⊢
      split at k
      · simp at k
      · split at k
        · split <;> rfl
        · have hxy : x = y := by omega
          subst hxy
          simp only [Nat.lt_irrefl, if_false]
          exact ih (fun e => h (by rw [e])) k

@[simp] theorem SMap.get?_nil {α : Type} (k : List Nat) : SMap.get? ([] : SMap α) k = none := rfl

theorem SMap.get?_set {α : Type} (m : SMap α) (k j : List Nat) (v : α) :
    (SMap.set m k v).get? j = if k = j then some v else m.get? j := by
  induction m with
  | nil => simp [SMap.set, SMap.get?]
  | cons e m ih =>
    obtain ⟨x, a⟩ := e
    simp only [SMap.set]
    split
    · rename_i hx
      subst hx
      by_cases hj : x = j <;> simp [SMap.get?, hj]
    · split
      · by_cases hj : k = j <;> simp [SMap.get?, hj]
      · rename_i hx _
        simp only [SMap.get?, ih]
        by_cases hj : x = j
        · have : k ≠ j := fun e => hx (hj.trans e.symm)
          simp [hj, this]
        · simp [hj]

@[simp] theorem SMap.get?_set_self {α : Type} (m : SMap α) (k : List Nat) (v : α) : (SMap.set m k v).get? k = some v := by
  simp [SMap.get?_set]

theorem SMap.get?_set_ne {α : Type} (m : SMap α) {k j : List Nat} (v : α) (h : k ≠ j) : (SMap.set m k v).get? j = m.get? j := by
  simp [SMap.get?_set, h]

theorem SMap.get?_erase {α : Type} (m : SMap α) (k j : List Nat) :
    (SMap.erase m k).get? j = if k = j then none else m.get? j := by
  induction m with
  | nil => simp [SMap.erase]
  | cons e m ih =>
    obtain ⟨x, a⟩ := e
    simp only [SMap.erase]
    split
    · rename_i hx
      subst hx
      rw [ih]
      by_cases hj : x = j <;> simp [SMap.get?, hj]
    · rename_i hx
      simp only [SMap.get?, ih]
      by_cases hj : x = j
      · have : k ≠ j := fun e => hx (hj.trans e.symm)
        simp [hj, this]
      · simp [hj]

theorem SMap.get?_put {α : Type} [DecidableEq α] (m : SMap α) (k j : List Nat) (v d : α) :
    (SMap.put m k v d).get? j = if k = j then (if v = d then none else some v) else m.get? j := by
  unfold SMap.put
  split <;> rename_i h <;> simp [SMap.get?_set, SMap.get?_erase]

theorem SMap.getD_set {α : Type} (m : SMap α) (k j : List Nat) (v d : α) :
    (SMap.set m k v).getD j d = if k = j then v else m.getD j d := by
  unfold SMap.getD
  rw [SMap.get?_set]
  by_cases h : k = j <;> simp [h]

theorem SMap.getD_put {α : Type} [DecidableEq α] (m : SMap α) (k j : List Nat) (v d : α) :
    (SMap.put m k v d).getD j d = if k = j then v else m.getD j d := by
  unfold SMap.getD
  rw [SMap.get?_put]
  by_cases h : k = j <;> by_cases e : v = d <;> simp [h, e]

@[simp] theorem SMap.getD_set_self {α : Type} (m : SMap α) (k : List Nat) (v d : α) : (SMap.set m k v).getD k d = v := by
  simp [SMap.getD_set]

/-- A key below the first key of a map. -/
def SMap.below {α : Type} (x : List Nat) : SMap α → Bool
  | [] => true
  | (k, _) :: _ => keyLt x k

theorem SMap.sorted_cons {α : Type} (x : List Nat) (a : α) (m : SMap α) :
    SMap.sorted ((x, a) :: m) = (SMap.below x m && SMap.sorted m) := by
  cases m with
  | nil => rfl
  | cons e m => obtain ⟨k, v⟩ := e; rfl

theorem SMap.below_set {α : Type} {m : SMap α} {x k : List Nat} {v : α}
    (h : SMap.below x m = true) (hk : keyLt x k = true) : SMap.below x (SMap.set m k v) = true := by
  cases m with
  | nil => exact hk
  | cons e m =>
    obtain ⟨y, b⟩ := e
    simp only [SMap.set]
    split
    · exact hk
    · split
      · exact hk
      · exact h

/-- A write keeps the keys rising. -/
theorem SMap.sorted_set {α : Type} {m : SMap α} (h : SMap.sorted m = true) (k : List Nat) (v : α) :
    SMap.sorted (SMap.set m k v) = true := by
  induction m with
  | nil => rfl
  | cons e m ih =>
    obtain ⟨y, b⟩ := e
    have h' := h
    rw [SMap.sorted_cons, Bool.and_eq_true] at h'
    simp only [SMap.set]
    split
    · rename_i hy; subst hy
      rw [SMap.sorted_cons, Bool.and_eq_true]; exact h'
    · split
      · rename_i hlt
        rw [SMap.sorted_cons, Bool.and_eq_true]; exact ⟨hlt, h⟩
      · rename_i hne hlt
        have hlt' : keyLt y k = true := keyLt_total (fun e => hne e.symm) (by simpa using hlt)
        rw [SMap.sorted_cons, Bool.and_eq_true]
        exact ⟨SMap.below_set h'.1 hlt', ih h'.2⟩

theorem SMap.below_of_lt {α : Type} {m : SMap α} {x y : List Nat} (h : keyLt x y = true) (k : SMap.below y m = true) :
    SMap.below x m = true := by
  cases m with
  | nil => rfl
  | cons e m => obtain ⟨z, c⟩ := e; exact keyLt_trans h k

theorem SMap.below_erase {α : Type} {m : SMap α} {x k : List Nat} (h : SMap.below x m = true) (hs : SMap.sorted m = true) :
    SMap.below x (SMap.erase m k) = true := by
  induction m with
  | nil => rfl
  | cons e m ih =>
    obtain ⟨y, b⟩ := e
    rw [SMap.sorted_cons, Bool.and_eq_true] at hs
    simp only [SMap.erase]
    split
    · exact ih (SMap.below_of_lt h hs.1) hs.2
    · exact h

/-- An erasure keeps the keys rising. -/
theorem SMap.sorted_erase {α : Type} {m : SMap α} (h : SMap.sorted m = true) (k : List Nat) :
    SMap.sorted (SMap.erase m k) = true := by
  induction m with
  | nil => rfl
  | cons e m ih =>
    obtain ⟨y, b⟩ := e
    rw [SMap.sorted_cons, Bool.and_eq_true] at h
    simp only [SMap.erase]
    split
    · exact ih h.2
    · rw [SMap.sorted_cons, Bool.and_eq_true]
      exact ⟨SMap.below_erase h.1 h.2, ih h.2⟩

/-- A write that drops defaults keeps the keys rising. -/
theorem SMap.sorted_put {α : Type} [DecidableEq α] {m : SMap α} (h : SMap.sorted m = true) (k : List Nat) (v d : α) :
    SMap.sorted (SMap.put m k v d) = true := by
  unfold SMap.put
  split
  · exact SMap.sorted_erase h k
  · exact SMap.sorted_set h k v

namespace Machine

/-- An address below the first address of a memory. -/
def Memory.below (a : Nat) : Memory → Bool
  | [] => true
  | (b, _) :: _ => decide (a < b)

theorem Memory.wf_cons (a : Nat) (x : Byte) (m : Memory) : Memory.wf ((a, x) :: m) = (Memory.below a m && Memory.wf m) := by
  cases m with
  | nil => rfl
  | cons e m => obtain ⟨b, y⟩ := e; rfl

theorem Memory.get?_set (m : Memory) (a c : Nat) (v : Byte) : (m.set a v).get? c = if a = c then some v else m.get? c := by
  induction m with
  | nil => simp [Memory.set, Memory.get?]
  | cons e m ih =>
    obtain ⟨b, w⟩ := e
    simp only [Memory.set]
    split
    · rename_i h; subst h
      by_cases hc : a = c <;> simp [Memory.get?, hc]
    · split
      · by_cases hc : a = c <;> simp [Memory.get?, hc]
      · rename_i h _
        simp only [Memory.get?, ih]
        by_cases hc : b = c
        · have : a ≠ c := fun e => h (e.trans hc.symm)
          simp [hc, this]
        · simp [hc]

theorem Memory.below_set {m : Memory} {x a : Nat} {v : Byte} (h : Memory.below x m = true) (ha : x < a) :
    Memory.below x (m.set a v) = true := by
  cases m with
  | nil => simpa [Memory.set, Memory.below] using ha
  | cons e m =>
    obtain ⟨b, w⟩ := e
    simp only [Memory.set]
    split
    · simpa [Memory.below] using ha
    · split
      · simpa [Memory.below] using ha
      · simpa [Memory.below] using h

/-- A write keeps a memory's form. -/
theorem Memory.wf_set {m : Memory} (h : m.wf = true) (a : Nat) (v : Byte) : (m.set a v).wf = true := by
  induction m with
  | nil => rfl
  | cons e m ih =>
    obtain ⟨b, w⟩ := e
    have h' := h
    rw [Memory.wf_cons, Bool.and_eq_true] at h'
    simp only [Memory.set]
    split
    · rename_i e; subst e
      rw [Memory.wf_cons, Bool.and_eq_true]; exact h'
    · split
      · rename_i hlt
        rw [Memory.wf_cons, Bool.and_eq_true]; exact ⟨by simpa [Memory.below] using hlt, h⟩
      · rw [Memory.wf_cons, Bool.and_eq_true]
        exact ⟨Memory.below_set h'.1 (by omega), ih h'.2⟩

theorem Memory.below_erase {m : Memory} {x a : Nat} (h : Memory.below x m = true) (hs : m.wf = true) :
    Memory.below x (m.erase a) = true := by
  cases m with
  | nil => rfl
  | cons e m =>
    obtain ⟨b, w⟩ := e
    rw [Memory.wf_cons, Bool.and_eq_true] at hs
    simp only [Memory.erase]
    split
    · cases m with
      | nil => rfl
      | cons e m =>
        obtain ⟨c, y⟩ := e
        simp [Memory.below] at h hs ⊢
        omega
    · exact h

theorem Memory.wf_erase {m : Memory} (h : m.wf = true) (a : Nat) : (m.erase a).wf = true := by
  induction m with
  | nil => rfl
  | cons e m ih =>
    obtain ⟨b, w⟩ := e
    rw [Memory.wf_cons, Bool.and_eq_true] at h
    simp only [Memory.erase]
    split
    · exact h.2
    · rw [Memory.wf_cons, Bool.and_eq_true]
      exact ⟨Memory.below_erase h.1 h.2, ih h.2⟩

theorem Memory.get?_of_below {m : Memory} {a : Nat} (h : Memory.below a m = true) (hs : m.wf = true) : m.get? a = none := by
  induction m with
  | nil => rfl
  | cons e m ih =>
    obtain ⟨b, w⟩ := e
    rw [Memory.wf_cons, Bool.and_eq_true] at hs
    have hb : a < b := by simpa [Memory.below] using h
    have : Memory.below a m = true := by
      cases m with
      | nil => rfl
      | cons e m =>
        obtain ⟨c, y⟩ := e
        have := hs.1
        simp [Memory.below] at this ⊢
        omega
    have hne : b ≠ a := by omega
    simp [Memory.get?, hne, ih this hs.2]

theorem Memory.get?_erase {m : Memory} (h : m.wf = true) (a c : Nat) :
    (m.erase a).get? c = if a = c then none else m.get? c := by
  induction m with
  | nil => simp [Memory.erase, Memory.get?]
  | cons e m ih =>
    obtain ⟨b, w⟩ := e
    rw [Memory.wf_cons, Bool.and_eq_true] at h
    simp only [Memory.erase]
    split
    · rename_i e; subst e
      by_cases hc : a = c
      · subst hc; simp [Memory.get?_of_below h.1 h.2]
      · simp [Memory.get?, hc]
    · rename_i hne
      simp only [Memory.get?, ih h.2]
      by_cases hc : b = c
      · have : a ≠ c := fun e => hne (e.trans hc.symm)
        simp [hc, this]
      · simp [hc]

/-- A write of bytes keeps a memory's form. -/
theorem Memory.wf_setBytes {m : Memory} (h : m.wf = true) (a : Nat) (bs : List Byte) : (m.setBytes a bs).wf = true := by
  induction bs generalizing m a with
  | nil => exact h
  | cons b bs ih => exact ih (Memory.wf_set h a b) (a + 1)

/-- Bytes outside a write keep their value. -/
theorem Memory.get?_setBytes_of_out {m : Memory} {a c : Nat} {bs : List Byte} (h : c < a ∨ a + bs.length ≤ c) :
    (m.setBytes a bs).get? c = m.get? c := by
  induction bs generalizing m a with
  | nil => rfl
  | cons b bs ih =>
    simp only [List.length_cons] at h
    rw [Memory.setBytes, ih (by omega), Memory.get?_set, if_neg (by omega)]

/-- Each byte of a write is there after it. -/
theorem Memory.get?_setBytes {m : Memory} {a i : Nat} {bs : List Byte} (h : i < bs.length) :
    (m.setBytes a bs).get? (a + i) = some bs[i] := by
  induction bs generalizing m a i with
  | nil => simp at h
  | cons b bs ih =>
    cases i with
    | zero =>
      rw [Memory.setBytes, Memory.get?_setBytes_of_out (by omega), Memory.get?_set]
      simp
    | succ i =>
      have e : a + (i + 1) = a + 1 + i := by omega
      rw [Memory.setBytes, e, ih (by simpa using h)]
      simp

theorem Memory.mem_erase {m : Memory} {a : Nat} {c : Host.Cell} (h : c ∈ m.erase a) : c ∈ m := by
  induction m with
  | nil => simp [Memory.erase] at h
  | cons e m ih =>
    obtain ⟨b, w⟩ := e
    simp only [Memory.erase] at h
    split at h
    · exact List.mem_cons_of_mem _ h
    · rcases List.mem_cons.1 h with h | h
      · exact h ▸ List.mem_cons_self
      · exact List.mem_cons_of_mem _ (ih h)

theorem Memory.mem_set {m : Memory} {a : Nat} {v : Byte} {c : Host.Cell} (h : c ∈ m.set a v) : c = (a, v) ∨ c ∈ m := by
  induction m with
  | nil => simpa [Memory.set] using h
  | cons e m ih =>
    obtain ⟨b, w⟩ := e
    simp only [Memory.set] at h
    split at h
    · rcases List.mem_cons.1 h with h | h
      · exact .inl h
      · exact .inr (List.mem_cons_of_mem _ h)
    · split at h
      · exact List.mem_cons.1 h
      · rcases List.mem_cons.1 h with h | h
        · exact .inr (h ▸ List.mem_cons_self)
        · rcases ih h with h | h
          · exact .inl h
          · exact .inr (List.mem_cons_of_mem _ h)

/-- A write of a memory whose unlisted bytes read as 0 keeps its form. -/
theorem Memory.wf0_put {m : Memory} (h : m.wf0 = true) (a : Nat) (v : Byte) : (m.put a v).wf0 = true := by
  simp only [Memory.wf0, Bool.and_eq_true, List.all_eq_true] at h ⊢
  unfold Memory.put
  split
  · exact ⟨Memory.wf_erase h.1 a, fun c hc => h.2 c (Memory.mem_erase hc)⟩
  · rename_i hv
    refine ⟨Memory.wf_set h.1 a v, fun c hc => ?_⟩
    rcases Memory.mem_set hc with e | hc
    · subst e; simpa using hv
    · exact h.2 c hc

/-- A write of bytes of a memory whose unlisted bytes read as 0 keeps its form. -/
theorem Memory.wf0_putBytes {m : Memory} (h : m.wf0 = true) (a : Nat) (bs : List Byte) : (m.putBytes a bs).wf0 = true := by
  induction bs generalizing m a with
  | nil => exact h
  | cons b bs ih => exact ih (Memory.wf0_put h a b) (a + 1)

end Machine

end Sys2Proof
end

