-- ==== Sys2Proof/Laws/State.lean ====
section
/-!
SUPPORT. The fields of the state under its plain updates: for every field an update does not touch, one lemma, true by rfl.
-/

namespace Sys2Proof.Machine

@[simp] theorem st_pending (s : State) (f : Fld) (ix : List Nat) (v : Nat) : (s.st f ix v).pending = s.pending := rfl
@[simp] theorem st_fresh (s : State) (f : Fld) (ix : List Nat) (v : Nat) : (s.st f ix v).fresh = s.fresh := rfl
@[simp] theorem st_nextId (s : State) (f : Fld) (ix : List Nat) (v : Nat) : (s.st f ix v).nextId = s.nextId := rfl
@[simp] theorem st_frames (s : State) (f : Fld) (ix : List Nat) (v : Nat) : (s.st f ix v).frames = s.frames := rfl
@[simp] theorem st_progA (s : State) (f : Fld) (ix : List Nat) (v : Nat) : (s.st f ix v).progA = s.progA := rfl
@[simp] theorem st_progB (s : State) (f : Fld) (ix : List Nat) (v : Nat) : (s.st f ix v).progB = s.progB := rfl
@[simp] theorem st_swap (s : State) (f : Fld) (ix : List Nat) (v : Nat) : (s.st f ix v).swap = s.swap := rfl
@[simp] theorem st_tables (s : State) (f : Fld) (ix : List Nat) (v : Nat) : (s.st f ix v).tables = s.tables := rfl
@[simp] theorem st_fdb (s : State) (f : Fld) (ix : List Nat) (v : Nat) : (s.st f ix v).fdb = s.fdb := rfl
@[simp] theorem st_buf (s : State) (f : Fld) (ix : List Nat) (v : Nat) : (s.st f ix v).buf = s.buf := rfl
@[simp] theorem st_sched (s : State) (f : Fld) (ix : List Nat) (v : Nat) : (s.st f ix v).sched = s.sched := rfl
@[simp] theorem st_time (s : State) (f : Fld) (ix : List Nat) (v : Nat) : (s.st f ix v).time = s.time := rfl
@[simp] theorem st_timed (s : State) (f : Fld) (ix : List Nat) (v : Nat) : (s.st f ix v).timed = s.timed := rfl
@[simp] theorem st_toa (s : State) (f : Fld) (ix : List Nat) (v : Nat) : (s.st f ix v).toa = s.toa := rfl
@[simp] theorem st_tel (s : State) (f : Fld) (ix : List Nat) (v : Nat) : (s.st f ix v).tel = s.tel := rfl
@[simp] theorem st_clove (s : State) (f : Fld) (ix : List Nat) (v : Nat) : (s.st f ix v).clove = s.clove := rfl
@[simp] theorem st_host (s : State) (f : Fld) (ix : List Nat) (v : Nat) : (s.st f ix v).host = s.host := rfl
@[simp] theorem st_boot (s : State) (f : Fld) (ix : List Nat) (v : Nat) : (s.st f ix v).boot = s.boot := rfl
@[simp] theorem st_ras (s : State) (f : Fld) (ix : List Nat) (v : Nat) : (s.st f ix v).ras = s.ras := rfl
@[simp] theorem st_lanes (s : State) (f : Fld) (ix : List Nat) (v : Nat) : (s.st f ix v).lanes = s.lanes := rfl
@[simp] theorem st_pkg (s : State) (f : Fld) (ix : List Nat) (v : Nat) : (s.st f ix v).pkg = s.pkg := rfl

@[simp] theorem bump_pending (s : State) (f : Fld) (ix : List Nat) (v : Nat) : (s.bump f ix v).pending = s.pending := rfl
@[simp] theorem bump_fresh (s : State) (f : Fld) (ix : List Nat) (v : Nat) : (s.bump f ix v).fresh = s.fresh := rfl
@[simp] theorem bump_nextId (s : State) (f : Fld) (ix : List Nat) (v : Nat) : (s.bump f ix v).nextId = s.nextId := rfl
@[simp] theorem bump_frames (s : State) (f : Fld) (ix : List Nat) (v : Nat) : (s.bump f ix v).frames = s.frames := rfl
@[simp] theorem bump_progA (s : State) (f : Fld) (ix : List Nat) (v : Nat) : (s.bump f ix v).progA = s.progA := rfl
@[simp] theorem bump_progB (s : State) (f : Fld) (ix : List Nat) (v : Nat) : (s.bump f ix v).progB = s.progB := rfl
@[simp] theorem bump_swap (s : State) (f : Fld) (ix : List Nat) (v : Nat) : (s.bump f ix v).swap = s.swap := rfl
@[simp] theorem bump_tables (s : State) (f : Fld) (ix : List Nat) (v : Nat) : (s.bump f ix v).tables = s.tables := rfl
@[simp] theorem bump_fdb (s : State) (f : Fld) (ix : List Nat) (v : Nat) : (s.bump f ix v).fdb = s.fdb := rfl
@[simp] theorem bump_buf (s : State) (f : Fld) (ix : List Nat) (v : Nat) : (s.bump f ix v).buf = s.buf := rfl
@[simp] theorem bump_sched (s : State) (f : Fld) (ix : List Nat) (v : Nat) : (s.bump f ix v).sched = s.sched := rfl
@[simp] theorem bump_time (s : State) (f : Fld) (ix : List Nat) (v : Nat) : (s.bump f ix v).time = s.time := rfl
@[simp] theorem bump_timed (s : State) (f : Fld) (ix : List Nat) (v : Nat) : (s.bump f ix v).timed = s.timed := rfl
@[simp] theorem bump_toa (s : State) (f : Fld) (ix : List Nat) (v : Nat) : (s.bump f ix v).toa = s.toa := rfl
@[simp] theorem bump_tel (s : State) (f : Fld) (ix : List Nat) (v : Nat) : (s.bump f ix v).tel = s.tel := rfl
@[simp] theorem bump_clove (s : State) (f : Fld) (ix : List Nat) (v : Nat) : (s.bump f ix v).clove = s.clove := rfl
@[simp] theorem bump_host (s : State) (f : Fld) (ix : List Nat) (v : Nat) : (s.bump f ix v).host = s.host := rfl
@[simp] theorem bump_boot (s : State) (f : Fld) (ix : List Nat) (v : Nat) : (s.bump f ix v).boot = s.boot := rfl
@[simp] theorem bump_ras (s : State) (f : Fld) (ix : List Nat) (v : Nat) : (s.bump f ix v).ras = s.ras := rfl
@[simp] theorem bump_lanes (s : State) (f : Fld) (ix : List Nat) (v : Nat) : (s.bump f ix v).lanes = s.lanes := rfl
@[simp] theorem bump_pkg (s : State) (f : Fld) (ix : List Nat) (v : Nat) : (s.bump f ix v).pkg = s.pkg := rfl

@[simp] theorem lower_pending (s : State) (f : Fld) (ix : List Nat) (v : Nat) : (s.lower f ix v).pending = s.pending := rfl
@[simp] theorem lower_fresh (s : State) (f : Fld) (ix : List Nat) (v : Nat) : (s.lower f ix v).fresh = s.fresh := rfl
@[simp] theorem lower_nextId (s : State) (f : Fld) (ix : List Nat) (v : Nat) : (s.lower f ix v).nextId = s.nextId := rfl
@[simp] theorem lower_frames (s : State) (f : Fld) (ix : List Nat) (v : Nat) : (s.lower f ix v).frames = s.frames := rfl
@[simp] theorem lower_progA (s : State) (f : Fld) (ix : List Nat) (v : Nat) : (s.lower f ix v).progA = s.progA := rfl
@[simp] theorem lower_progB (s : State) (f : Fld) (ix : List Nat) (v : Nat) : (s.lower f ix v).progB = s.progB := rfl
@[simp] theorem lower_swap (s : State) (f : Fld) (ix : List Nat) (v : Nat) : (s.lower f ix v).swap = s.swap := rfl
@[simp] theorem lower_tables (s : State) (f : Fld) (ix : List Nat) (v : Nat) : (s.lower f ix v).tables = s.tables := rfl
@[simp] theorem lower_fdb (s : State) (f : Fld) (ix : List Nat) (v : Nat) : (s.lower f ix v).fdb = s.fdb := rfl
@[simp] theorem lower_buf (s : State) (f : Fld) (ix : List Nat) (v : Nat) : (s.lower f ix v).buf = s.buf := rfl
@[simp] theorem lower_sched (s : State) (f : Fld) (ix : List Nat) (v : Nat) : (s.lower f ix v).sched = s.sched := rfl
@[simp] theorem lower_time (s : State) (f : Fld) (ix : List Nat) (v : Nat) : (s.lower f ix v).time = s.time := rfl
@[simp] theorem lower_timed (s : State) (f : Fld) (ix : List Nat) (v : Nat) : (s.lower f ix v).timed = s.timed := rfl
@[simp] theorem lower_toa (s : State) (f : Fld) (ix : List Nat) (v : Nat) : (s.lower f ix v).toa = s.toa := rfl
@[simp] theorem lower_tel (s : State) (f : Fld) (ix : List Nat) (v : Nat) : (s.lower f ix v).tel = s.tel := rfl
@[simp] theorem lower_clove (s : State) (f : Fld) (ix : List Nat) (v : Nat) : (s.lower f ix v).clove = s.clove := rfl
@[simp] theorem lower_host (s : State) (f : Fld) (ix : List Nat) (v : Nat) : (s.lower f ix v).host = s.host := rfl
@[simp] theorem lower_boot (s : State) (f : Fld) (ix : List Nat) (v : Nat) : (s.lower f ix v).boot = s.boot := rfl
@[simp] theorem lower_ras (s : State) (f : Fld) (ix : List Nat) (v : Nat) : (s.lower f ix v).ras = s.ras := rfl
@[simp] theorem lower_lanes (s : State) (f : Fld) (ix : List Nat) (v : Nat) : (s.lower f ix v).lanes = s.lanes := rfl
@[simp] theorem lower_pkg (s : State) (f : Fld) (ix : List Nat) (v : Nat) : (s.lower f ix v).pkg = s.pkg := rfl

@[simp] theorem hostWrite_pending (s : State) (a : Nat) (bs : List Byte) : (s.hostWrite a bs).pending = s.pending := rfl
@[simp] theorem hostWrite_regs (s : State) (a : Nat) (bs : List Byte) : (s.hostWrite a bs).regs = s.regs := rfl
@[simp] theorem hostWrite_fresh (s : State) (a : Nat) (bs : List Byte) : (s.hostWrite a bs).fresh = s.fresh := rfl
@[simp] theorem hostWrite_nextId (s : State) (a : Nat) (bs : List Byte) : (s.hostWrite a bs).nextId = s.nextId := rfl
@[simp] theorem hostWrite_frames (s : State) (a : Nat) (bs : List Byte) : (s.hostWrite a bs).frames = s.frames := rfl
@[simp] theorem hostWrite_progA (s : State) (a : Nat) (bs : List Byte) : (s.hostWrite a bs).progA = s.progA := rfl
@[simp] theorem hostWrite_progB (s : State) (a : Nat) (bs : List Byte) : (s.hostWrite a bs).progB = s.progB := rfl
@[simp] theorem hostWrite_swap (s : State) (a : Nat) (bs : List Byte) : (s.hostWrite a bs).swap = s.swap := rfl
@[simp] theorem hostWrite_tables (s : State) (a : Nat) (bs : List Byte) : (s.hostWrite a bs).tables = s.tables := rfl
@[simp] theorem hostWrite_fdb (s : State) (a : Nat) (bs : List Byte) : (s.hostWrite a bs).fdb = s.fdb := rfl
@[simp] theorem hostWrite_buf (s : State) (a : Nat) (bs : List Byte) : (s.hostWrite a bs).buf = s.buf := rfl
@[simp] theorem hostWrite_sched (s : State) (a : Nat) (bs : List Byte) : (s.hostWrite a bs).sched = s.sched := rfl
@[simp] theorem hostWrite_time (s : State) (a : Nat) (bs : List Byte) : (s.hostWrite a bs).time = s.time := rfl
@[simp] theorem hostWrite_timed (s : State) (a : Nat) (bs : List Byte) : (s.hostWrite a bs).timed = s.timed := rfl
@[simp] theorem hostWrite_toa (s : State) (a : Nat) (bs : List Byte) : (s.hostWrite a bs).toa = s.toa := rfl
@[simp] theorem hostWrite_tel (s : State) (a : Nat) (bs : List Byte) : (s.hostWrite a bs).tel = s.tel := rfl
@[simp] theorem hostWrite_clove (s : State) (a : Nat) (bs : List Byte) : (s.hostWrite a bs).clove = s.clove := rfl
@[simp] theorem hostWrite_boot (s : State) (a : Nat) (bs : List Byte) : (s.hostWrite a bs).boot = s.boot := rfl
@[simp] theorem hostWrite_ras (s : State) (a : Nat) (bs : List Byte) : (s.hostWrite a bs).ras = s.ras := rfl
@[simp] theorem hostWrite_lanes (s : State) (a : Nat) (bs : List Byte) : (s.hostWrite a bs).lanes = s.lanes := rfl
@[simp] theorem hostWrite_pkg (s : State) (a : Nat) (bs : List Byte) : (s.hostWrite a bs).pkg = s.pkg := rfl

@[simp] theorem setFr_pending (s : State) (f : Frame) : (s.setFr f).pending = s.pending := rfl
@[simp] theorem setFr_regs (s : State) (f : Frame) : (s.setFr f).regs = s.regs := rfl
@[simp] theorem setFr_fresh (s : State) (f : Frame) : (s.setFr f).fresh = s.fresh := rfl
@[simp] theorem setFr_nextId (s : State) (f : Frame) : (s.setFr f).nextId = s.nextId := rfl
@[simp] theorem setFr_progA (s : State) (f : Frame) : (s.setFr f).progA = s.progA := rfl
@[simp] theorem setFr_progB (s : State) (f : Frame) : (s.setFr f).progB = s.progB := rfl
@[simp] theorem setFr_swap (s : State) (f : Frame) : (s.setFr f).swap = s.swap := rfl
@[simp] theorem setFr_tables (s : State) (f : Frame) : (s.setFr f).tables = s.tables := rfl
@[simp] theorem setFr_fdb (s : State) (f : Frame) : (s.setFr f).fdb = s.fdb := rfl
@[simp] theorem setFr_buf (s : State) (f : Frame) : (s.setFr f).buf = s.buf := rfl
@[simp] theorem setFr_sched (s : State) (f : Frame) : (s.setFr f).sched = s.sched := rfl
@[simp] theorem setFr_time (s : State) (f : Frame) : (s.setFr f).time = s.time := rfl
@[simp] theorem setFr_timed (s : State) (f : Frame) : (s.setFr f).timed = s.timed := rfl
@[simp] theorem setFr_toa (s : State) (f : Frame) : (s.setFr f).toa = s.toa := rfl
@[simp] theorem setFr_tel (s : State) (f : Frame) : (s.setFr f).tel = s.tel := rfl
@[simp] theorem setFr_clove (s : State) (f : Frame) : (s.setFr f).clove = s.clove := rfl
@[simp] theorem setFr_host (s : State) (f : Frame) : (s.setFr f).host = s.host := rfl
@[simp] theorem setFr_boot (s : State) (f : Frame) : (s.setFr f).boot = s.boot := rfl
@[simp] theorem setFr_ras (s : State) (f : Frame) : (s.setFr f).ras = s.ras := rfl
@[simp] theorem setFr_lanes (s : State) (f : Frame) : (s.setFr f).lanes = s.lanes := rfl
@[simp] theorem setFr_pkg (s : State) (f : Frame) : (s.setFr f).pkg = s.pkg := rfl

@[simp] theorem delFr_pending (s : State) (i : Nat) : (s.delFr i).pending = s.pending := rfl
@[simp] theorem delFr_regs (s : State) (i : Nat) : (s.delFr i).regs = s.regs := rfl
@[simp] theorem delFr_fresh (s : State) (i : Nat) : (s.delFr i).fresh = s.fresh := rfl
@[simp] theorem delFr_nextId (s : State) (i : Nat) : (s.delFr i).nextId = s.nextId := rfl
@[simp] theorem delFr_progA (s : State) (i : Nat) : (s.delFr i).progA = s.progA := rfl
@[simp] theorem delFr_progB (s : State) (i : Nat) : (s.delFr i).progB = s.progB := rfl
@[simp] theorem delFr_swap (s : State) (i : Nat) : (s.delFr i).swap = s.swap := rfl
@[simp] theorem delFr_tables (s : State) (i : Nat) : (s.delFr i).tables = s.tables := rfl
@[simp] theorem delFr_fdb (s : State) (i : Nat) : (s.delFr i).fdb = s.fdb := rfl
@[simp] theorem delFr_buf (s : State) (i : Nat) : (s.delFr i).buf = s.buf := rfl
@[simp] theorem delFr_sched (s : State) (i : Nat) : (s.delFr i).sched = s.sched := rfl
@[simp] theorem delFr_time (s : State) (i : Nat) : (s.delFr i).time = s.time := rfl
@[simp] theorem delFr_timed (s : State) (i : Nat) : (s.delFr i).timed = s.timed := rfl
@[simp] theorem delFr_toa (s : State) (i : Nat) : (s.delFr i).toa = s.toa := rfl
@[simp] theorem delFr_tel (s : State) (i : Nat) : (s.delFr i).tel = s.tel := rfl
@[simp] theorem delFr_clove (s : State) (i : Nat) : (s.delFr i).clove = s.clove := rfl
@[simp] theorem delFr_host (s : State) (i : Nat) : (s.delFr i).host = s.host := rfl
@[simp] theorem delFr_boot (s : State) (i : Nat) : (s.delFr i).boot = s.boot := rfl
@[simp] theorem delFr_ras (s : State) (i : Nat) : (s.delFr i).ras = s.ras := rfl
@[simp] theorem delFr_lanes (s : State) (i : Nat) : (s.delFr i).lanes = s.lanes := rfl
@[simp] theorem delFr_pkg (s : State) (i : Nat) : (s.delFr i).pkg = s.pkg := rfl

@[simp] theorem addFr_pending (s : State) (f : Frame) : (s.addFr f).pending = s.pending := rfl
@[simp] theorem addFr_regs (s : State) (f : Frame) : (s.addFr f).regs = s.regs := rfl
@[simp] theorem addFr_fresh (s : State) (f : Frame) : (s.addFr f).fresh = s.fresh := rfl
@[simp] theorem addFr_progA (s : State) (f : Frame) : (s.addFr f).progA = s.progA := rfl
@[simp] theorem addFr_progB (s : State) (f : Frame) : (s.addFr f).progB = s.progB := rfl
@[simp] theorem addFr_swap (s : State) (f : Frame) : (s.addFr f).swap = s.swap := rfl
@[simp] theorem addFr_tables (s : State) (f : Frame) : (s.addFr f).tables = s.tables := rfl
@[simp] theorem addFr_fdb (s : State) (f : Frame) : (s.addFr f).fdb = s.fdb := rfl
@[simp] theorem addFr_buf (s : State) (f : Frame) : (s.addFr f).buf = s.buf := rfl
@[simp] theorem addFr_sched (s : State) (f : Frame) : (s.addFr f).sched = s.sched := rfl
@[simp] theorem addFr_time (s : State) (f : Frame) : (s.addFr f).time = s.time := rfl
@[simp] theorem addFr_timed (s : State) (f : Frame) : (s.addFr f).timed = s.timed := rfl
@[simp] theorem addFr_toa (s : State) (f : Frame) : (s.addFr f).toa = s.toa := rfl
@[simp] theorem addFr_tel (s : State) (f : Frame) : (s.addFr f).tel = s.tel := rfl
@[simp] theorem addFr_clove (s : State) (f : Frame) : (s.addFr f).clove = s.clove := rfl
@[simp] theorem addFr_host (s : State) (f : Frame) : (s.addFr f).host = s.host := rfl
@[simp] theorem addFr_boot (s : State) (f : Frame) : (s.addFr f).boot = s.boot := rfl
@[simp] theorem addFr_ras (s : State) (f : Frame) : (s.addFr f).ras = s.ras := rfl
@[simp] theorem addFr_lanes (s : State) (f : Frame) : (s.addFr f).lanes = s.lanes := rfl
@[simp] theorem addFr_pkg (s : State) (f : Frame) : (s.addFr f).pkg = s.pkg := rfl

@[simp] theorem toEnd_pending (s : State) (f : Frame) : (s.toEnd f).pending = s.pending := rfl
@[simp] theorem toEnd_regs (s : State) (f : Frame) : (s.toEnd f).regs = s.regs := rfl
@[simp] theorem toEnd_fresh (s : State) (f : Frame) : (s.toEnd f).fresh = s.fresh := rfl
@[simp] theorem toEnd_nextId (s : State) (f : Frame) : (s.toEnd f).nextId = s.nextId := rfl
@[simp] theorem toEnd_progA (s : State) (f : Frame) : (s.toEnd f).progA = s.progA := rfl
@[simp] theorem toEnd_progB (s : State) (f : Frame) : (s.toEnd f).progB = s.progB := rfl
@[simp] theorem toEnd_swap (s : State) (f : Frame) : (s.toEnd f).swap = s.swap := rfl
@[simp] theorem toEnd_tables (s : State) (f : Frame) : (s.toEnd f).tables = s.tables := rfl
@[simp] theorem toEnd_fdb (s : State) (f : Frame) : (s.toEnd f).fdb = s.fdb := rfl
@[simp] theorem toEnd_buf (s : State) (f : Frame) : (s.toEnd f).buf = s.buf := rfl
@[simp] theorem toEnd_sched (s : State) (f : Frame) : (s.toEnd f).sched = s.sched := rfl
@[simp] theorem toEnd_time (s : State) (f : Frame) : (s.toEnd f).time = s.time := rfl
@[simp] theorem toEnd_timed (s : State) (f : Frame) : (s.toEnd f).timed = s.timed := rfl
@[simp] theorem toEnd_toa (s : State) (f : Frame) : (s.toEnd f).toa = s.toa := rfl
@[simp] theorem toEnd_tel (s : State) (f : Frame) : (s.toEnd f).tel = s.tel := rfl
@[simp] theorem toEnd_clove (s : State) (f : Frame) : (s.toEnd f).clove = s.clove := rfl
@[simp] theorem toEnd_host (s : State) (f : Frame) : (s.toEnd f).host = s.host := rfl
@[simp] theorem toEnd_boot (s : State) (f : Frame) : (s.toEnd f).boot = s.boot := rfl
@[simp] theorem toEnd_ras (s : State) (f : Frame) : (s.toEnd f).ras = s.ras := rfl
@[simp] theorem toEnd_lanes (s : State) (f : Frame) : (s.toEnd f).lanes = s.lanes := rfl
@[simp] theorem toEnd_pkg (s : State) (f : Frame) : (s.toEnd f).pkg = s.pkg := rfl
@[simp] theorem toEnd_frames (s : State) (f : Frame) : (s.toEnd f).frames = s.frames.filter (fun g => g.id ≠ f.id) ++ [f] := rfl

@[simp] theorem descWait_pending (s : State) (d : Hdr) : (s.descWait d).pending = s.pending := rfl
@[simp] theorem descWait_regs (s : State) (d : Hdr) : (s.descWait d).regs = s.regs := rfl
@[simp] theorem descWait_fresh (s : State) (d : Hdr) : (s.descWait d).fresh = s.fresh := rfl
@[simp] theorem descWait_nextId (s : State) (d : Hdr) : (s.descWait d).nextId = s.nextId := rfl
@[simp] theorem descWait_frames (s : State) (d : Hdr) : (s.descWait d).frames = s.frames := rfl
@[simp] theorem descWait_progA (s : State) (d : Hdr) : (s.descWait d).progA = s.progA := rfl
@[simp] theorem descWait_progB (s : State) (d : Hdr) : (s.descWait d).progB = s.progB := rfl
@[simp] theorem descWait_swap (s : State) (d : Hdr) : (s.descWait d).swap = s.swap := rfl
@[simp] theorem descWait_tables (s : State) (d : Hdr) : (s.descWait d).tables = s.tables := rfl
@[simp] theorem descWait_fdb (s : State) (d : Hdr) : (s.descWait d).fdb = s.fdb := rfl
@[simp] theorem descWait_buf (s : State) (d : Hdr) : (s.descWait d).buf = s.buf := rfl
@[simp] theorem descWait_sched (s : State) (d : Hdr) : (s.descWait d).sched = s.sched := rfl
@[simp] theorem descWait_time (s : State) (d : Hdr) : (s.descWait d).time = s.time := rfl
@[simp] theorem descWait_timed (s : State) (d : Hdr) : (s.descWait d).timed = s.timed := rfl
@[simp] theorem descWait_toa (s : State) (d : Hdr) : (s.descWait d).toa = s.toa := rfl
@[simp] theorem descWait_tel (s : State) (d : Hdr) : (s.descWait d).tel = s.tel := rfl
@[simp] theorem descWait_clove (s : State) (d : Hdr) : (s.descWait d).clove = s.clove := rfl
@[simp] theorem descWait_boot (s : State) (d : Hdr) : (s.descWait d).boot = s.boot := rfl
@[simp] theorem descWait_ras (s : State) (d : Hdr) : (s.descWait d).ras = s.ras := rfl
@[simp] theorem descWait_lanes (s : State) (d : Hdr) : (s.descWait d).lanes = s.lanes := rfl
@[simp] theorem descWait_pkg (s : State) (d : Hdr) : (s.descWait d).pkg = s.pkg := rfl
@[simp] theorem descRun_pending (s : State) (d : Hdr) : (s.descRun d).pending = s.pending := by unfold State.descRun; split <;> rfl
@[simp] theorem descRun_regs (s : State) (d : Hdr) : (s.descRun d).regs = s.regs := by unfold State.descRun; split <;> rfl
@[simp] theorem descRun_fresh (s : State) (d : Hdr) : (s.descRun d).fresh = s.fresh := by unfold State.descRun; split <;> rfl
@[simp] theorem descRun_nextId (s : State) (d : Hdr) : (s.descRun d).nextId = s.nextId := by unfold State.descRun; split <;> rfl
@[simp] theorem descRun_frames (s : State) (d : Hdr) : (s.descRun d).frames = s.frames := by unfold State.descRun; split <;> rfl
@[simp] theorem descRun_progA (s : State) (d : Hdr) : (s.descRun d).progA = s.progA := by unfold State.descRun; split <;> rfl
@[simp] theorem descRun_progB (s : State) (d : Hdr) : (s.descRun d).progB = s.progB := by unfold State.descRun; split <;> rfl
@[simp] theorem descRun_swap (s : State) (d : Hdr) : (s.descRun d).swap = s.swap := by unfold State.descRun; split <;> rfl
@[simp] theorem descRun_tables (s : State) (d : Hdr) : (s.descRun d).tables = s.tables := by unfold State.descRun; split <;> rfl
@[simp] theorem descRun_fdb (s : State) (d : Hdr) : (s.descRun d).fdb = s.fdb := by unfold State.descRun; split <;> rfl
@[simp] theorem descRun_buf (s : State) (d : Hdr) : (s.descRun d).buf = s.buf := by unfold State.descRun; split <;> rfl
@[simp] theorem descRun_sched (s : State) (d : Hdr) : (s.descRun d).sched = s.sched := by unfold State.descRun; split <;> rfl
@[simp] theorem descRun_time (s : State) (d : Hdr) : (s.descRun d).time = s.time := by unfold State.descRun; split <;> rfl
@[simp] theorem descRun_timed (s : State) (d : Hdr) : (s.descRun d).timed = s.timed := by unfold State.descRun; split <;> rfl
@[simp] theorem descRun_toa (s : State) (d : Hdr) : (s.descRun d).toa = s.toa := by unfold State.descRun; split <;> rfl
@[simp] theorem descRun_tel (s : State) (d : Hdr) : (s.descRun d).tel = s.tel := by unfold State.descRun; split <;> rfl
@[simp] theorem descRun_clove (s : State) (d : Hdr) : (s.descRun d).clove = s.clove := by unfold State.descRun; split <;> rfl
@[simp] theorem descRun_boot (s : State) (d : Hdr) : (s.descRun d).boot = s.boot := by unfold State.descRun; split <;> rfl
@[simp] theorem descRun_ras (s : State) (d : Hdr) : (s.descRun d).ras = s.ras := by unfold State.descRun; split <;> rfl
@[simp] theorem descRun_lanes (s : State) (d : Hdr) : (s.descRun d).lanes = s.lanes := by unfold State.descRun; split <;> rfl
@[simp] theorem descRun_pkg (s : State) (d : Hdr) : (s.descRun d).pkg = s.pkg := by unfold State.descRun; split <;> rfl

@[simp] theorem draw_pending (s : State) : (s.draw.2).pending = s.pending := rfl
@[simp] theorem draw_regs (s : State) : (s.draw.2).regs = s.regs := rfl
@[simp] theorem draw_nextId (s : State) : (s.draw.2).nextId = s.nextId := rfl
@[simp] theorem draw_frames (s : State) : (s.draw.2).frames = s.frames := rfl
@[simp] theorem draw_progA (s : State) : (s.draw.2).progA = s.progA := rfl
@[simp] theorem draw_progB (s : State) : (s.draw.2).progB = s.progB := rfl
@[simp] theorem draw_swap (s : State) : (s.draw.2).swap = s.swap := rfl
@[simp] theorem draw_tables (s : State) : (s.draw.2).tables = s.tables := rfl
@[simp] theorem draw_fdb (s : State) : (s.draw.2).fdb = s.fdb := rfl
@[simp] theorem draw_buf (s : State) : (s.draw.2).buf = s.buf := rfl
@[simp] theorem draw_sched (s : State) : (s.draw.2).sched = s.sched := rfl
@[simp] theorem draw_time (s : State) : (s.draw.2).time = s.time := rfl
@[simp] theorem draw_timed (s : State) : (s.draw.2).timed = s.timed := rfl
@[simp] theorem draw_toa (s : State) : (s.draw.2).toa = s.toa := rfl
@[simp] theorem draw_tel (s : State) : (s.draw.2).tel = s.tel := rfl
@[simp] theorem draw_clove (s : State) : (s.draw.2).clove = s.clove := rfl
@[simp] theorem draw_host (s : State) : (s.draw.2).host = s.host := rfl
@[simp] theorem draw_boot (s : State) : (s.draw.2).boot = s.boot := rfl
@[simp] theorem draw_ras (s : State) : (s.draw.2).ras = s.ras := rfl
@[simp] theorem draw_lanes (s : State) : (s.draw.2).lanes = s.lanes := rfl
@[simp] theorem draw_pkg (s : State) : (s.draw.2).pkg = s.pkg := rfl

@[simp] theorem settle_pending (s : State) : (settle s).pending = s.pending := rfl
@[simp] theorem settle_regs (s : State) : (settle s).regs = s.regs := rfl
@[simp] theorem settle_fresh (s : State) : (settle s).fresh = s.fresh := rfl
@[simp] theorem settle_nextId (s : State) : (settle s).nextId = s.nextId := rfl
@[simp] theorem settle_frames (s : State) : (settle s).frames = s.frames := rfl
@[simp] theorem settle_progA (s : State) : (settle s).progA = s.progA := rfl
@[simp] theorem settle_progB (s : State) : (settle s).progB = s.progB := rfl
@[simp] theorem settle_swap (s : State) : (settle s).swap = s.swap := rfl
@[simp] theorem settle_tables (s : State) : (settle s).tables = s.tables := rfl
@[simp] theorem settle_fdb (s : State) : (settle s).fdb = s.fdb := rfl
@[simp] theorem settle_buf (s : State) : (settle s).buf = s.buf := rfl
@[simp] theorem settle_sched (s : State) : (settle s).sched = s.sched := rfl
@[simp] theorem settle_time (s : State) : (settle s).time = s.time := rfl
@[simp] theorem settle_timed (s : State) : (settle s).timed = s.timed := rfl
@[simp] theorem settle_toa (s : State) : (settle s).toa = s.toa := rfl
@[simp] theorem settle_tel (s : State) : (settle s).tel = s.tel := rfl
@[simp] theorem settle_clove (s : State) : (settle s).clove = s.clove := rfl
@[simp] theorem settle_host (s : State) : (settle s).host = s.host := rfl
@[simp] theorem settle_boot (s : State) : (settle s).boot = s.boot := rfl
@[simp] theorem settle_ras (s : State) : (settle s).ras = s.ras := rfl
@[simp] theorem settle_lanes (s : State) : (settle s).lanes = s.lanes := rfl

@[simp] theorem draw_fresh (s : State) : s.draw.2.fresh = s.fresh + 1 := rfl
@[simp] theorem draw_fst (s : State) : s.draw.1 = Config.freeValue s.fresh := rfl

@[simp] theorem setFr_frames (s : State) (f : Frame) : (s.setFr f).frames = s.frames.map (fun g => if g.id = f.id then f else g) := rfl
@[simp] theorem delFr_frames (s : State) (i : Nat) : (s.delFr i).frames = s.frames.filter (fun g => g.id ≠ i) := rfl
@[simp] theorem addFr_frames (s : State) (f : Frame) : (s.addFr f).frames = s.frames ++ [{ f with id := s.nextId }] := rfl
@[simp] theorem addFr_nextId (s : State) (f : Frame) : (s.addFr f).nextId = s.nextId + 1 := rfl

@[simp] theorem hostWrite_cpls (s : State) (a : Nat) (bs : List Byte) : (s.hostWrite a bs).host.cpls = s.host.cpls := rfl
@[simp] theorem hostWrite_events (s : State) (a : Nat) (bs : List Byte) : (s.hostWrite a bs).host.events = s.host.events := rfl
@[simp] theorem hostWrite_taken (s : State) (a : Nat) (bs : List Byte) : (s.hostWrite a bs).host.taken = s.host.taken := rfl
@[simp] theorem hostWrite_swCnt (s : State) (a : Nat) (bs : List Byte) : (s.hostWrite a bs).host.swCnt = s.host.swCnt := rfl
@[simp] theorem hostWrite_stopped (s : State) (a : Nat) (bs : List Byte) : (s.hostWrite a bs).host.stopped = s.host.stopped := rfl
@[simp] theorem hostWrite_msix (s : State) (a : Nat) (bs : List Byte) : (s.hostWrite a bs).host.msix = s.host.msix := rfl
@[simp] theorem hostWrite_hold (s : State) (a : Nat) (bs : List Byte) : (s.hostWrite a bs).host.hold = s.host.hold := rfl
@[simp] theorem hostWrite_msgs (s : State) (a : Nat) (bs : List Byte) : (s.hostWrite a bs).host.msgs = s.host.msgs := rfl
@[simp] theorem hostWrite_evtSeq (s : State) (a : Nat) (bs : List Byte) : (s.hostWrite a bs).host.evtSeq = s.host.evtSeq := rfl
@[simp] theorem hostWrite_evtLost (s : State) (a : Nat) (bs : List Byte) : (s.hostWrite a bs).host.evtLost = s.host.evtLost := rfl
@[simp] theorem hostWrite_resp (s : State) (a : Nat) (bs : List Byte) : (s.hostWrite a bs).host.resp = s.host.resp := rfl
@[simp] theorem hostWrite_holdEnd (s : State) (a : Nat) (bs : List Byte) : (s.hostWrite a bs).host.holdEnd = s.host.holdEnd := rfl
@[simp] theorem hostWrite_msixCtl (s : State) (a : Nat) (bs : List Byte) : (s.hostWrite a bs).host.msixCtl = s.host.msixCtl := rfl
@[simp] theorem hostWrite_cfgSpace (s : State) (a : Nat) (bs : List Byte) : (s.hostWrite a bs).host.cfgSpace = s.host.cfgSpace := rfl
@[simp] theorem hostWrite_lack (s : State) (a : Nat) (bs : List Byte) : (s.hostWrite a bs).host.lack = s.host.lack := rfl
@[simp] theorem hostWrite_voidC (s : State) (a : Nat) (bs : List Byte) : (s.hostWrite a bs).host.voidC = s.host.voidC := rfl
@[simp] theorem hostWrite_flr (s : State) (a : Nat) (bs : List Byte) : (s.hostWrite a bs).host.flr = s.host.flr := rfl
@[simp] theorem hostWrite_cfgResp (s : State) (a : Nat) (bs : List Byte) : (s.hostWrite a bs).host.cfgResp = s.host.cfgResp := rfl
@[simp] theorem hostWrite_d3 (s : State) (a : Nat) (bs : List Byte) : (s.hostWrite a bs).host.d3 = s.host.d3 := rfl
@[simp] theorem hostWrite_mem (s : State) (a : Nat) (bs : List Byte) : (s.hostWrite a bs).host.mem = s.host.mem.setBytes a bs := rfl

end Sys2Proof.Machine
end

