-- ==== Sys2Proof/Laws/Ops.lean ====
section
/-!
SUPPORT. What the shared operations do, said once: the register field store, the pins that follow it, events, completions and the descriptor checks.
-/

namespace Sys2Proof.Machine

theorem Fld.ctorIdx_inj {f g : Fld} (h : f.ctorIdx = g.ctorIdx) : f = g := by
  rw [← Fld.ofNat_ctorIdx f, ← Fld.ofNat_ctorIdx g, h]

/-- A field read after a field is set. -/
theorem rd_st (s : State) (f g : Fld) (ix jx : List Nat) (v : Nat) :
    (s.st f ix v).rd g jx = if g = f ∧ jx = ix then v % 2 ^ f.info.w else s.rd g jx := by
  unfold State.rd State.st
  simp only [SMap.get?_put]
  by_cases h : g = f ∧ jx = ix
  · obtain ⟨rfl, rfl⟩ := h
    by_cases e : v % 2 ^ g.info.w = g.reset jx <;> simp [e]
  · have : (f.ctorIdx :: ix) ≠ (g.ctorIdx :: jx) := by
      intro e
      injection e with e1 e2
      exact h ⟨Fld.ctorIdx_inj e1.symm, e2.symm⟩
    simp [h, this]

@[simp] theorem rd_st_self (s : State) (f : Fld) (ix : List Nat) (v : Nat) : (s.st f ix v).rd f ix = v % 2 ^ f.info.w := by
  simp [rd_st]

theorem rd_st_of_ne (s : State) {f g : Fld} (ix jx : List Nat) (v : Nat) (h : g ≠ f) : (s.st f ix v).rd g jx = s.rd g jx := by
  simp [rd_st, h]

theorem rd_bump (s : State) (f g : Fld) (ix jx : List Nat) (n : Nat) :
    (s.bump f ix n).rd g jx = if g = f ∧ jx = ix then (s.rd f ix + n) % 2 ^ f.info.w else s.rd g jx := rd_st ..

theorem rd_lower (s : State) (f g : Fld) (ix jx : List Nat) (n : Nat) :
    (s.lower f ix n).rd g jx = if g = f ∧ jx = ix then (s.rd f ix - n) % 2 ^ f.info.w else s.rd g jx := rd_st ..

/-- Two states with the same registers read alike. -/
theorem rd_congr {s t : State} (h : s.regs = t.regs) (f : Fld) (ix : List Nat) : s.rd f ix = t.rd f ix := by
  unfold State.rd
  rw [h]

@[simp] theorem rd_settle (s : State) (f : Fld) (ix : List Nat) : (settle s).rd f ix = s.rd f ix := rfl
@[simp] theorem rd_hostWrite (s : State) (a : Nat) (bs : List Byte) (f : Fld) (ix : List Nat) : (s.hostWrite a bs).rd f ix = s.rd f ix := rfl
@[simp] theorem rd_setFr (s : State) (x : Frame) (f : Fld) (ix : List Nat) : (s.setFr x).rd f ix = s.rd f ix := rfl
@[simp] theorem rd_delFr (s : State) (i : Nat) (f : Fld) (ix : List Nat) : (s.delFr i).rd f ix = s.rd f ix := rfl
@[simp] theorem rd_addFr (s : State) (x : Frame) (f : Fld) (ix : List Nat) : (s.addFr x).rd f ix = s.rd f ix := rfl

/-- Every command ends with the pins settled. -/
theorem done_eq (s : State) : done s = .next (settle s) := rfl

/-- What the reports of the device (messages, events, completions, performance counters) may change: the host interface, the fields that `reported` names, the marks of raised thresholds and the routine queues; no report completes a descriptor. -/
structure Reports (s t : State) : Prop where
  eq : t = { s with host := t.host, regs := t.regs, tel := { s.tel with raised := t.tel.raised }, clove := { s.clove with rq := t.clove.rq } }
  rd : ∀ f ix, reported f ix = false → t.rd f ix = s.rd f ix
  taken : t.host.taken = s.host.taken
  cpls : t.host.cpls = s.host.cpls
  events : s.host.events <+: t.host.events

namespace Reports

theorem refl (s : State) : Reports s s := ⟨rfl, fun _ _ _ => rfl, rfl, rfl, List.prefix_rfl⟩

theorem trans {s t u : State} (h : Reports s t) (k : Reports t u) : Reports s u := by
  refine ⟨?_, fun f ix hf => (k.rd f ix hf).trans (h.rd f ix hf), k.taken.trans h.taken, k.cpls.trans h.cpls, h.events.trans k.events⟩
  have e1 := h.eq
  have e2 := k.eq
  rw [e1] at e2
  exact e2

/-- A change of the host interface that completes nothing, takes nothing and forgets no event. -/
theorem then_host {s t : State} (h : Reports s t) (x : HostIf) (ht : x.taken = t.host.taken) (hc : x.cpls = t.host.cpls)
    (he : t.host.events <+: x.events) : Reports s { t with host := x } :=
  h.trans ⟨rfl, fun _ _ _ => rfl, ht, hc, he⟩

theorem then_st {s t : State} {f : Fld} {ix : List Nat} {v : Nat} (h : Reports s t) (hf : reported f ix = true) : Reports s (t.st f ix v) := by
  refine h.trans ⟨rfl, fun g jx hg => ?_, rfl, rfl, List.prefix_rfl⟩
  rw [rd_st, if_neg]
  rintro ⟨rfl, rfl⟩
  simp [hf] at hg

theorem then_bump {s t : State} {f : Fld} {ix : List Nat} {v : Nat} (h : Reports s t) (hf : reported f ix = true) : Reports s (t.bump f ix v) :=
  h.then_st hf

theorem ite {s t u : State} (c : Prop) [Decidable c] (h : Reports s t) (k : Reports s u) : Reports s (if c then t else u) := by
  split
  · exact h
  · exact k

theorem foldl {α : Type} {f : State → α → State} (hf : ∀ s a, Reports s (f s a)) (l : List α) (s : State) :
    Reports s (l.foldl f s) := by
  induction l generalizing s with
  | nil => exact .refl s
  | cons a l ih => exact (hf s a).trans (ih _)

theorem msixSend {s t : State} (h : Reports s t) (fn vec : Nat) : Reports s (t.msixSend fn vec) := by
  unfold State.msixSend
  exact ite _ h (ite _ (h.then_host _ rfl rfl List.prefix_rfl) (h.then_host _ rfl rfl List.prefix_rfl))

theorem holdBegin {s t : State} (h : Reports s t) (fn vec r : Nat) : Reports s (t.holdBegin fn vec r) := by
  unfold State.holdBegin
  exact ite _ h (h.then_host _ rfl rfl List.prefix_rfl)

theorem signal {s t : State} (h : Reports s t) (fn r : Nat) : Reports s (t.signal fn r) := by
  unfold State.signal
  dsimp only
  split
  · exact h.then_host _ rfl rfl List.prefix_rfl
  · exact (h.msixSend _ _).holdBegin _ _ _

theorem hostWrite {s t : State} (h : Reports s t) (a : Nat) (bs : List Byte) : Reports s (t.hostWrite a bs) :=
  h.then_host _ rfl rfl List.prefix_rfl

theorem ringPut {s t : State} (h : Reports s t) (fn r : Nat) (ent : List Byte) (a b : Nat) (sig : Bool) :
    Reports s (t.ringPut fn r ent a b sig) := by
  unfold State.ringPut
  have k := (h.hostWrite (t.slotAddr fn r (overlay ent a [byteOf (byteAt ent a + t.phase fn r (t.devIdx fn r) * 2 ^ b)]).length (t.devIdx fn r))
    (overlay ent a [byteOf (byteAt ent a + t.phase fn r (t.devIdx fn r) * 2 ^ b)])).then_st
      (f := .HST_RING_STAT_dev_idx) (ix := [fn, r]) (v := t.devIdx fn r + 1) (by rfl)
  exact ite _ (k.signal _ _) k

theorem then_evtLost {s t : State} (h : Reports s t) (x : SMap Nat) : Reports s { t with host := { t.host with evtLost := x } } :=
  h.trans ⟨rfl, fun _ _ _ => rfl, rfl, rfl, List.prefix_rfl⟩

theorem then_evtSeq {s t : State} (h : Reports s t) (x : SMap Nat) : Reports s { t with host := { t.host with evtSeq := x } } :=
  h.trans ⟨rfl, fun _ _ _ => rfl, rfl, rfl, List.prefix_rfl⟩

theorem then_event {s t : State} (h : Reports s t) (e : Evt) : Reports s { t with host := { t.host with events := t.host.events ++ [e] } } :=
  h.trans ⟨rfl, fun _ _ _ => rfl, rfl, rfl, List.prefix_append _ _⟩

theorem eventTo {s t : State} (h : Reports s t) (fn : Nat) (e : Evt) : Reports s (t.eventTo fn e) := by
  unfold State.eventTo
  dsimp only
  have k := h.then_evtLost (t.host.evtLost.erase [fn])
  refine ite _ h (ite _ ?_ (ite _ ?_ (ite _ ?_ ?_)))
  · exact (h.then_evtLost _).then_bump (by rfl)
  · exact (h.then_evtSeq _).ringPut _ _ _ _ _ _
  · exact (((k.then_evtSeq _).ringPut _ _ _ _ _ _).then_evtLost _).then_bump (by rfl)
  · exact (((k.then_evtSeq _).ringPut _ _ _ _ _ _).then_evtSeq _).ringPut _ _ _ _ _ _

theorem raise {s t : State} (h : Reports s t) (code half : Nat) (fs : List (Nat × Nat × Nat)) (vf : Option Nat) :
    Reports s (t.raise code half fs vf) := by
  unfold State.raise
  have k : ∀ e, Reports s (State.eventTo { t with host := { t.host with events := t.host.events ++ [e] } } 0 e) :=
    fun e => (h.then_event e).eventTo _ _
  dsimp only
  split
  · exact ite _ ((k _).eventTo _ _) (k _)
  · exact k _

theorem pmcThresh {s t : State} (h : Reports s t) (x : Half) (i : Nat) : Reports s (t.pmcThresh x i) := by
  unfold State.pmcThresh
  have k : Reports s { t with tel := { t.tel with raised := t.tel.raised.set [x.n, i] 1 } } :=
    h.trans ⟨rfl, fun _ _ _ => rfl, rfl, rfl, List.prefix_rfl⟩
  exact ite _ h (k.raise _ _ _ _)

theorem pmc {s t : State} (h : Reports s t) (x : Half) (ev : Nat) (e : PmcEv) (n : Nat) : Reports s (t.pmc x ev e n) := by
  unfold State.pmc
  exact h.trans (foldl (fun s i => ite _ (((refl s).then_bump (by rfl)).pmcThresh _ _) (refl s)) _ _)

theorem unpost {s t : State} (h : Reports s t) (d : Hdr) : Reports s (t.unpost d) :=
  h.trans ⟨rfl, fun _ _ _ => rfl, rfl, rfl, List.prefix_rfl⟩

theorem rqPost {s t : State} (h : Reports s t) (x : Half) (r : Nat) (ev : RtEv) : Reports s (t.rqPost x r ev).2 := by
  unfold State.rqPost
  split
  · exact h
  · exact h.trans ⟨rfl, fun _ _ _ => rfl, rfl, rfl, List.prefix_rfl⟩

theorem xingLost {s t : State} (h : Reports s t) (x : Half) (pair : Nat) : Reports s (t.xingLost x pair) := by
  unfold State.xingLost
  exact (ite _ h (h.then_st (by rfl))).then_bump (by rfl)

theorem cplWrite {s t : State} (h : Reports s t) (w : CplWait) : Reports s (t.cplWrite w) := by
  unfold State.cplWrite
  cases w.ext with
  | none => exact h.ringPut _ _ _ _ _ _
  | some x => exact (h.hostWrite _ _).ringPut _ _ _ _ _ _

theorem lateRun {s t : State} (h : Reports s t) (x : Half) : Reports s (t.lateRun x) := by
  unfold State.lateRun
  refine ite _ h ?_
  extract_lets ws host0 u
  have k : Reports s u := h.then_host _ rfl rfl List.prefix_rfl
  refine k.trans (foldl (fun u w => ?_) _ _)
  unfold State.xingSend
  exact ite _ (((refl u).unpost _).xingLost _ _) (((refl u).unpost _).cplWrite _)

theorem frames {s t : State} (h : Reports s t) : t.frames = s.frames := by rw [h.eq]
theorem pending {s t : State} (h : Reports s t) : t.pending = s.pending := by rw [h.eq]
theorem fresh {s t : State} (h : Reports s t) : t.fresh = s.fresh := by rw [h.eq]
theorem nextId {s t : State} (h : Reports s t) : t.nextId = s.nextId := by rw [h.eq]
theorem progA {s t : State} (h : Reports s t) : t.progA = s.progA := by rw [h.eq]
theorem progB {s t : State} (h : Reports s t) : t.progB = s.progB := by rw [h.eq]
theorem swap {s t : State} (h : Reports s t) : t.swap = s.swap := by rw [h.eq]
theorem tables {s t : State} (h : Reports s t) : t.tables = s.tables := by rw [h.eq]
theorem fdb {s t : State} (h : Reports s t) : t.fdb = s.fdb := by rw [h.eq]
theorem buf {s t : State} (h : Reports s t) : t.buf = s.buf := by rw [h.eq]
theorem sched {s t : State} (h : Reports s t) : t.sched = s.sched := by rw [h.eq]
theorem time {s t : State} (h : Reports s t) : t.time = s.time := by rw [h.eq]
theorem timed {s t : State} (h : Reports s t) : t.timed = s.timed := by rw [h.eq]
theorem toa {s t : State} (h : Reports s t) : t.toa = s.toa := by rw [h.eq]
theorem boot {s t : State} (h : Reports s t) : t.boot = s.boot := by rw [h.eq]
theorem ras {s t : State} (h : Reports s t) : t.ras = s.ras := by rw [h.eq]
theorem lanes {s t : State} (h : Reports s t) : t.lanes = s.lanes := by rw [h.eq]
theorem pkg {s t : State} (h : Reports s t) : t.pkg = s.pkg := by rw [h.eq]

end Reports

/-! ## Completions and events as simp lemmas -/

theorem msixSend_events (s : State) (fn vec : Nat) : (s.msixSend fn vec).host.events = s.host.events := by
  unfold State.msixSend
  dsimp only
  split
  · rfl
  · split <;> rfl

theorem holdBegin_events (s : State) (fn vec r : Nat) : (s.holdBegin fn vec r).host.events = s.host.events := by
  unfold State.holdBegin
  dsimp only
  split <;> rfl

theorem signal_events (s : State) (fn r : Nat) : (s.signal fn r).host.events = s.host.events := by
  unfold State.signal
  dsimp only
  split
  · rfl
  · rw [holdBegin_events, msixSend_events]

theorem ringPut_events (s : State) (fn r : Nat) (ent : List Byte) (a b : Nat) (sig : Bool) :
    (s.ringPut fn r ent a b sig).host.events = s.host.events := by
  unfold State.ringPut
  dsimp only
  split
  · rw [signal_events]; rfl
  · rfl

theorem eventTo_events (s : State) (fn : Nat) (e : Evt) : (s.eventTo fn e).host.events = s.host.events := by
  unfold State.eventTo
  dsimp only
  split
  · rfl
  · split
    · rfl
    · split
      · rw [ringPut_events]
      · split
        · rw [bump_host]; exact ringPut_events ..
        · rw [ringPut_events]; exact ringPut_events ..

/-- An event is raised. -/
@[simp] theorem raise_events (s : State) (code half : Nat) (fs : List (Nat × Nat × Nat)) (vf : Option Nat) :
    (s.raise code half fs vf).host.events = s.host.events ++ [⟨code, half, record 32 fs⟩] := by
  unfold State.raise
  dsimp only
  split
  · split
    · rw [eventTo_events, eventTo_events]
    · rw [eventTo_events]
  · rw [eventTo_events]

@[simp] theorem raise_cpls (s : State) (code half : Nat) (fs : List (Nat × Nat × Nat)) (vf : Option Nat) :
    (s.raise code half fs vf).host.cpls = s.host.cpls := ((Reports.refl s).raise _ _ _ _).cpls

@[simp] theorem raise_taken (s : State) (code half : Nat) (fs : List (Nat × Nat × Nat)) (vf : Option Nat) :
    (s.raise code half fs vf).host.taken = s.host.taken := ((Reports.refl s).raise _ _ _ _).taken

theorem rd_raise (s : State) (code half : Nat) (fs : List (Nat × Nat × Nat)) (vf : Option Nat) {f : Fld} {ix : List Nat} (h : reported f ix = false) :
    (s.raise code half fs vf).rd f ix = s.rd f ix := ((Reports.refl s).raise _ _ _ _).rd f ix h

theorem rd_pmc (s : State) (x : Half) (ev : Nat) (e : PmcEv) (n : Nat) {f : Fld} {ix : List Nat} (h : reported f ix = false) :
    (s.pmc x ev e n).rd f ix = s.rd f ix := ((Reports.refl s).pmc _ _ _ _).rd f ix h

@[simp] theorem pmc_cpls (s : State) (x : Half) (ev : Nat) (e : PmcEv) (n : Nat) : (s.pmc x ev e n).host.cpls = s.host.cpls :=
  ((Reports.refl s).pmc _ _ _ _).cpls

/-- What a completion does: the descriptor leaves its ring's list and the order of starts, its completion joins the history, and nothing but reports follows. -/
theorem completeX_spec (s : State) (d : Hdr) (st a r : Nat) (ext : Option (List Byte)) :
    Reports { s with host := { s.host with
        cpls := s.host.cpls ++ [Cpl.mk d.fn d.ring d.tag st a r]
        taken := s.host.taken.filter (fun t => !sameHdr t.hdr d)
        starts := s.host.starts.filter (fun x => !sameHdr x d)
        voidC := s.host.voidC.filter (fun x => !sameHdr x d) } }
      (s.completeX d st a r ext) := by
  unfold State.completeX
  extract_lets host0 lost s0 s1 s2 h host1 s3
  have h1 : Reports s0 s1 := ((Reports.refl s0).unpost d).then_st (by rfl)
  have h2 : Reports s0 s2 := Reports.ite _ (h1.pmc _ _ _ _) h1
  have h3 : Reports s0 s3 := h2.then_host _ rfl rfl List.prefix_rfl
  exact Reports.ite _ h2 (Reports.ite _ (h3.lateRun _) (h3.rqPost _ _ _))

/-- The completion that a descriptor receives. -/
@[simp] theorem completeX_cpls (s : State) (d : Hdr) (st a r : Nat) (ext : Option (List Byte)) :
    (s.completeX d st a r ext).host.cpls = s.host.cpls ++ [⟨d.fn, d.ring, d.tag, st, a, r⟩] := (completeX_spec s d st a r ext).cpls

@[simp] theorem completeX_taken (s : State) (d : Hdr) (st a r : Nat) (ext : Option (List Byte)) :
    (s.completeX d st a r ext).host.taken = s.host.taken.filter (fun t => !sameHdr t.hdr d) := (completeX_spec s d st a r ext).taken

theorem completeX_events (s : State) (d : Hdr) (st a r : Nat) (ext : Option (List Byte)) :
    s.host.events <+: (s.completeX d st a r ext).host.events := (completeX_spec s d st a r ext).events

theorem rd_completeX (s : State) (d : Hdr) (st a r : Nat) (ext : Option (List Byte)) {f : Fld} {ix : List Nat} (h : reported f ix = false) :
    (s.completeX d st a r ext).rd f ix = s.rd f ix := (completeX_spec s d st a r ext).rd f ix h

@[simp] theorem completeX_pending (s : State) (d : Hdr) (st a r : Nat) (ext : Option (List Byte)) : (s.completeX d st a r ext).pending = s.pending := (completeX_spec s d st a r ext).pending
@[simp] theorem completeX_fresh (s : State) (d : Hdr) (st a r : Nat) (ext : Option (List Byte)) : (s.completeX d st a r ext).fresh = s.fresh := (completeX_spec s d st a r ext).fresh
@[simp] theorem completeX_nextId (s : State) (d : Hdr) (st a r : Nat) (ext : Option (List Byte)) : (s.completeX d st a r ext).nextId = s.nextId := (completeX_spec s d st a r ext).nextId
@[simp] theorem completeX_frames (s : State) (d : Hdr) (st a r : Nat) (ext : Option (List Byte)) : (s.completeX d st a r ext).frames = s.frames := (completeX_spec s d st a r ext).frames
@[simp] theorem completeX_progA (s : State) (d : Hdr) (st a r : Nat) (ext : Option (List Byte)) : (s.completeX d st a r ext).progA = s.progA := (completeX_spec s d st a r ext).progA
@[simp] theorem completeX_progB (s : State) (d : Hdr) (st a r : Nat) (ext : Option (List Byte)) : (s.completeX d st a r ext).progB = s.progB := (completeX_spec s d st a r ext).progB
@[simp] theorem completeX_swap (s : State) (d : Hdr) (st a r : Nat) (ext : Option (List Byte)) : (s.completeX d st a r ext).swap = s.swap := (completeX_spec s d st a r ext).swap
@[simp] theorem completeX_tables (s : State) (d : Hdr) (st a r : Nat) (ext : Option (List Byte)) : (s.completeX d st a r ext).tables = s.tables := (completeX_spec s d st a r ext).tables
@[simp] theorem completeX_fdb (s : State) (d : Hdr) (st a r : Nat) (ext : Option (List Byte)) : (s.completeX d st a r ext).fdb = s.fdb := (completeX_spec s d st a r ext).fdb
@[simp] theorem completeX_buf (s : State) (d : Hdr) (st a r : Nat) (ext : Option (List Byte)) : (s.completeX d st a r ext).buf = s.buf := (completeX_spec s d st a r ext).buf
@[simp] theorem completeX_sched (s : State) (d : Hdr) (st a r : Nat) (ext : Option (List Byte)) : (s.completeX d st a r ext).sched = s.sched := (completeX_spec s d st a r ext).sched
@[simp] theorem completeX_time (s : State) (d : Hdr) (st a r : Nat) (ext : Option (List Byte)) : (s.completeX d st a r ext).time = s.time := (completeX_spec s d st a r ext).time
@[simp] theorem completeX_timed (s : State) (d : Hdr) (st a r : Nat) (ext : Option (List Byte)) : (s.completeX d st a r ext).timed = s.timed := (completeX_spec s d st a r ext).timed
@[simp] theorem completeX_toa (s : State) (d : Hdr) (st a r : Nat) (ext : Option (List Byte)) : (s.completeX d st a r ext).toa = s.toa := (completeX_spec s d st a r ext).toa
@[simp] theorem completeX_boot (s : State) (d : Hdr) (st a r : Nat) (ext : Option (List Byte)) : (s.completeX d st a r ext).boot = s.boot := (completeX_spec s d st a r ext).boot
@[simp] theorem completeX_ras (s : State) (d : Hdr) (st a r : Nat) (ext : Option (List Byte)) : (s.completeX d st a r ext).ras = s.ras := (completeX_spec s d st a r ext).ras
@[simp] theorem completeX_lanes (s : State) (d : Hdr) (st a r : Nat) (ext : Option (List Byte)) : (s.completeX d st a r ext).lanes = s.lanes := (completeX_spec s d st a r ext).lanes
@[simp] theorem completeX_pkg (s : State) (d : Hdr) (st a r : Nat) (ext : Option (List Byte)) : (s.completeX d st a r ext).pkg = s.pkg := (completeX_spec s d st a r ext).pkg
@[simp] theorem complete_def (s : State) (d : Hdr) (st a r : Nat) : s.complete d st a r = s.completeX d st a r none := rfl
@[simp] theorem ok_def (s : State) (d : Hdr) (r : Nat) : s.ok d r = s.completeX d 0 0 r none := rfl
@[simp] theorem fail_def (s : State) (d : Hdr) (st : Nat) : s.fail d st = s.completeX d st 0 0 none := rfl
@[simp] theorem reject_def (s : State) (d : Hdr) (st : Nat) : s.reject d st = s.completeX d 1 st 0 none := rfl

@[simp] theorem raise_pending (s : State) (code half : Nat) (fs : List (Nat × Nat × Nat)) (vf : Option Nat) : (s.raise code half fs vf).pending = s.pending := ((Reports.refl s).raise _ _ _ _).pending
@[simp] theorem raise_fresh (s : State) (code half : Nat) (fs : List (Nat × Nat × Nat)) (vf : Option Nat) : (s.raise code half fs vf).fresh = s.fresh := ((Reports.refl s).raise _ _ _ _).fresh
@[simp] theorem raise_nextId (s : State) (code half : Nat) (fs : List (Nat × Nat × Nat)) (vf : Option Nat) : (s.raise code half fs vf).nextId = s.nextId := ((Reports.refl s).raise _ _ _ _).nextId
@[simp] theorem raise_frames (s : State) (code half : Nat) (fs : List (Nat × Nat × Nat)) (vf : Option Nat) : (s.raise code half fs vf).frames = s.frames := ((Reports.refl s).raise _ _ _ _).frames
@[simp] theorem raise_progA (s : State) (code half : Nat) (fs : List (Nat × Nat × Nat)) (vf : Option Nat) : (s.raise code half fs vf).progA = s.progA := ((Reports.refl s).raise _ _ _ _).progA
@[simp] theorem raise_progB (s : State) (code half : Nat) (fs : List (Nat × Nat × Nat)) (vf : Option Nat) : (s.raise code half fs vf).progB = s.progB := ((Reports.refl s).raise _ _ _ _).progB
@[simp] theorem raise_swap (s : State) (code half : Nat) (fs : List (Nat × Nat × Nat)) (vf : Option Nat) : (s.raise code half fs vf).swap = s.swap := ((Reports.refl s).raise _ _ _ _).swap
@[simp] theorem raise_tables (s : State) (code half : Nat) (fs : List (Nat × Nat × Nat)) (vf : Option Nat) : (s.raise code half fs vf).tables = s.tables := ((Reports.refl s).raise _ _ _ _).tables
@[simp] theorem raise_fdb (s : State) (code half : Nat) (fs : List (Nat × Nat × Nat)) (vf : Option Nat) : (s.raise code half fs vf).fdb = s.fdb := ((Reports.refl s).raise _ _ _ _).fdb
@[simp] theorem raise_buf (s : State) (code half : Nat) (fs : List (Nat × Nat × Nat)) (vf : Option Nat) : (s.raise code half fs vf).buf = s.buf := ((Reports.refl s).raise _ _ _ _).buf
@[simp] theorem raise_sched (s : State) (code half : Nat) (fs : List (Nat × Nat × Nat)) (vf : Option Nat) : (s.raise code half fs vf).sched = s.sched := ((Reports.refl s).raise _ _ _ _).sched
@[simp] theorem raise_time (s : State) (code half : Nat) (fs : List (Nat × Nat × Nat)) (vf : Option Nat) : (s.raise code half fs vf).time = s.time := ((Reports.refl s).raise _ _ _ _).time
@[simp] theorem raise_timed (s : State) (code half : Nat) (fs : List (Nat × Nat × Nat)) (vf : Option Nat) : (s.raise code half fs vf).timed = s.timed := ((Reports.refl s).raise _ _ _ _).timed
@[simp] theorem raise_toa (s : State) (code half : Nat) (fs : List (Nat × Nat × Nat)) (vf : Option Nat) : (s.raise code half fs vf).toa = s.toa := ((Reports.refl s).raise _ _ _ _).toa
@[simp] theorem raise_boot (s : State) (code half : Nat) (fs : List (Nat × Nat × Nat)) (vf : Option Nat) : (s.raise code half fs vf).boot = s.boot := ((Reports.refl s).raise _ _ _ _).boot
@[simp] theorem raise_ras (s : State) (code half : Nat) (fs : List (Nat × Nat × Nat)) (vf : Option Nat) : (s.raise code half fs vf).ras = s.ras := ((Reports.refl s).raise _ _ _ _).ras
@[simp] theorem raise_lanes (s : State) (code half : Nat) (fs : List (Nat × Nat × Nat)) (vf : Option Nat) : (s.raise code half fs vf).lanes = s.lanes := ((Reports.refl s).raise _ _ _ _).lanes
@[simp] theorem raise_pkg (s : State) (code half : Nat) (fs : List (Nat × Nat × Nat)) (vf : Option Nat) : (s.raise code half fs vf).pkg = s.pkg := ((Reports.refl s).raise _ _ _ _).pkg

@[simp] theorem pmc_pending (s : State) (x : Half) (ev : Nat) (e : PmcEv) (n : Nat) : (s.pmc x ev e n).pending = s.pending := ((Reports.refl s).pmc _ _ _ _).pending
@[simp] theorem pmc_fresh (s : State) (x : Half) (ev : Nat) (e : PmcEv) (n : Nat) : (s.pmc x ev e n).fresh = s.fresh := ((Reports.refl s).pmc _ _ _ _).fresh
@[simp] theorem pmc_nextId (s : State) (x : Half) (ev : Nat) (e : PmcEv) (n : Nat) : (s.pmc x ev e n).nextId = s.nextId := ((Reports.refl s).pmc _ _ _ _).nextId
@[simp] theorem pmc_frames (s : State) (x : Half) (ev : Nat) (e : PmcEv) (n : Nat) : (s.pmc x ev e n).frames = s.frames := ((Reports.refl s).pmc _ _ _ _).frames
@[simp] theorem pmc_progA (s : State) (x : Half) (ev : Nat) (e : PmcEv) (n : Nat) : (s.pmc x ev e n).progA = s.progA := ((Reports.refl s).pmc _ _ _ _).progA
@[simp] theorem pmc_progB (s : State) (x : Half) (ev : Nat) (e : PmcEv) (n : Nat) : (s.pmc x ev e n).progB = s.progB := ((Reports.refl s).pmc _ _ _ _).progB
@[simp] theorem pmc_swap (s : State) (x : Half) (ev : Nat) (e : PmcEv) (n : Nat) : (s.pmc x ev e n).swap = s.swap := ((Reports.refl s).pmc _ _ _ _).swap
@[simp] theorem pmc_tables (s : State) (x : Half) (ev : Nat) (e : PmcEv) (n : Nat) : (s.pmc x ev e n).tables = s.tables := ((Reports.refl s).pmc _ _ _ _).tables
@[simp] theorem pmc_fdb (s : State) (x : Half) (ev : Nat) (e : PmcEv) (n : Nat) : (s.pmc x ev e n).fdb = s.fdb := ((Reports.refl s).pmc _ _ _ _).fdb
@[simp] theorem pmc_buf (s : State) (x : Half) (ev : Nat) (e : PmcEv) (n : Nat) : (s.pmc x ev e n).buf = s.buf := ((Reports.refl s).pmc _ _ _ _).buf
@[simp] theorem pmc_sched (s : State) (x : Half) (ev : Nat) (e : PmcEv) (n : Nat) : (s.pmc x ev e n).sched = s.sched := ((Reports.refl s).pmc _ _ _ _).sched
@[simp] theorem pmc_time (s : State) (x : Half) (ev : Nat) (e : PmcEv) (n : Nat) : (s.pmc x ev e n).time = s.time := ((Reports.refl s).pmc _ _ _ _).time
@[simp] theorem pmc_timed (s : State) (x : Half) (ev : Nat) (e : PmcEv) (n : Nat) : (s.pmc x ev e n).timed = s.timed := ((Reports.refl s).pmc _ _ _ _).timed
@[simp] theorem pmc_toa (s : State) (x : Half) (ev : Nat) (e : PmcEv) (n : Nat) : (s.pmc x ev e n).toa = s.toa := ((Reports.refl s).pmc _ _ _ _).toa
@[simp] theorem pmc_boot (s : State) (x : Half) (ev : Nat) (e : PmcEv) (n : Nat) : (s.pmc x ev e n).boot = s.boot := ((Reports.refl s).pmc _ _ _ _).boot
@[simp] theorem pmc_ras (s : State) (x : Half) (ev : Nat) (e : PmcEv) (n : Nat) : (s.pmc x ev e n).ras = s.ras := ((Reports.refl s).pmc _ _ _ _).ras
@[simp] theorem pmc_lanes (s : State) (x : Half) (ev : Nat) (e : PmcEv) (n : Nat) : (s.pmc x ev e n).lanes = s.lanes := ((Reports.refl s).pmc _ _ _ _).lanes
@[simp] theorem pmc_pkg (s : State) (x : Half) (ev : Nat) (e : PmcEv) (n : Nat) : (s.pmc x ev e n).pkg = s.pkg := ((Reports.refl s).pmc _ _ _ _).pkg

/-- Reports leave every part unchanged. -/
theorem Reports.parts {s t : State} (h : Reports s t) (p : Part) : p.same s t := by
  cases p <;> (simp only [Part.same]; rw [h.eq])

theorem Reports.fields {s t : State} (h : Reports s t) : fieldsBut [] s t := fun f ix _ hf => h.rd f ix hf

/-- The parts after the pins settle are those before. -/
theorem partsBut_settle {ps : List Part} {s t : State} (h : partsBut ps s t) : partsBut ps s (settle t) := by
  intro p hp
  have := h p hp
  cases p <;> simp only [Part.same] at this ⊢ <;> first | exact this | (show (settle t).pkg = _; unfold settle; rw [this])

theorem fieldsBut_settle {fs : List Fld} {s t : State} (h : fieldsBut fs s t) : fieldsBut fs s (settle t) := h

theorem partsBut_trans {ps : List Part} {s t u : State} (h : partsBut ps s t) (k : partsBut ps t u) : partsBut ps s u := by
  intro p hp
  have e1 := h p hp
  have e2 := k p hp
  cases p <;> simp only [Part.same] at e1 e2 ⊢ <;> rw [e2, e1]

theorem fieldsBut_trans {fs : List Fld} {s t u : State} (h : fieldsBut fs s t) (k : fieldsBut fs t u) : fieldsBut fs s u :=
  fun f ix hf hr => (k f ix hf hr).trans (h f ix hf hr)

theorem partsBut_refl (ps : List Part) (s : State) : partsBut ps s s := by
  intro p _
  cases p <;> rfl

theorem fieldsBut_refl (fs : List Fld) (s : State) : fieldsBut fs s s := fun _ _ _ _ => rfl

theorem fieldsBut_st {fs : List Fld} {s t : State} {f : Fld} {ix : List Nat} {v : Nat} (h : fieldsBut fs s t) (hf : f ∈ fs) :
    fieldsBut fs s (t.st f ix v) := fun g jx hg hr =>
  (rd_st_of_ne t ix jx v (fun e : g = f => hg (e ▸ hf))).trans (h g jx hg hr)

/-- After a completion, every part is as before it. -/
theorem partsBut_completeX {ps : List Part} {s t : State} (h : partsBut ps s t) (d : Hdr) (st a r : Nat) (ext : Option (List Byte)) :
    partsBut ps s (t.completeX d st a r ext) := by
  refine partsBut_trans h (fun p hp => ?_)
  have := (completeX_spec t d st a r ext).parts p
  cases p <;> exact this

theorem fieldsBut_completeX {fs : List Fld} {s t : State} (h : fieldsBut fs s t) (d : Hdr) (st a r : Nat) (ext : Option (List Byte)) :
    fieldsBut fs s (t.completeX d st a r ext) :=
  fieldsBut_trans h (fun f ix _ hr => (completeX_spec t d st a r ext).rd f ix hr)

/-- After an event, every part is as before it. -/
theorem partsBut_raise {ps : List Part} {s t : State} (h : partsBut ps s t) (code half : Nat) (fs : List (Nat × Nat × Nat)) (vf : Option Nat) :
    partsBut ps s (t.raise code half fs vf) := by
  refine partsBut_trans h (fun p hp => ?_)
  exact ((Reports.refl t).raise code half fs vf).parts p

theorem fieldsBut_raise {gs : List Fld} {s t : State} (h : fieldsBut gs s t) (code half : Nat) (fs : List (Nat × Nat × Nat)) (vf : Option Nat) :
    fieldsBut gs s (t.raise code half fs vf) :=
  fieldsBut_trans h (fun f ix _ hr => ((Reports.refl t).raise code half fs vf).rd f ix hr)

theorem partsBut_set_pending {ps : List Part} {s t : State} (h : partsBut ps s t) (hp : Part.pending ∈ ps) (x : List Instr) :
    partsBut ps s { t with pending := x } := by
  intro p hn
  have := h p hn
  cases p <;> first | exact this | exact absurd hp hn

theorem partsBut_set_fresh {ps : List Part} {s t : State} (h : partsBut ps s t) (hp : Part.fresh ∈ ps) (x : Nat) :
    partsBut ps s { t with fresh := x } := by
  intro p hn
  have := h p hn
  cases p <;> first | exact this | exact absurd hp hn

theorem partsBut_set_nextId {ps : List Part} {s t : State} (h : partsBut ps s t) (hp : Part.nextId ∈ ps) (x : Nat) :
    partsBut ps s { t with nextId := x } := by
  intro p hn
  have := h p hn
  cases p <;> first | exact this | exact absurd hp hn

theorem partsBut_set_frames {ps : List Part} {s t : State} (h : partsBut ps s t) (hp : Part.frames ∈ ps) (x : List Frame) :
    partsBut ps s { t with frames := x } := by
  intro p hn
  have := h p hn
  cases p <;> first | exact this | exact absurd hp hn

theorem partsBut_set_progA {ps : List Part} {s t : State} (h : partsBut ps s t) (hp : Part.progA ∈ ps) (x : Prog) :
    partsBut ps s { t with progA := x } := by
  intro p hn
  have := h p hn
  cases p <;> first | exact this | exact absurd hp hn

theorem partsBut_set_progB {ps : List Part} {s t : State} (h : partsBut ps s t) (hp : Part.progB ∈ ps) (x : Prog) :
    partsBut ps s { t with progB := x } := by
  intro p hn
  have := h p hn
  cases p <;> first | exact this | exact absurd hp hn

theorem partsBut_set_swap {ps : List Part} {s t : State} (h : partsBut ps s t) (hp : Part.swap ∈ ps) (x : Option Swap) :
    partsBut ps s { t with swap := x } := by
  intro p hn
  have := h p hn
  cases p <;> first | exact this | exact absurd hp hn

theorem partsBut_set_tables {ps : List Part} {s t : State} (h : partsBut ps s t) (hp : Part.tables ∈ ps) (x : Tables) :
    partsBut ps s { t with tables := x } := by
  intro p hn
  have := h p hn
  cases p <;> first | exact this | exact absurd hp hn

theorem partsBut_set_fdb {ps : List Part} {s t : State} (h : partsBut ps s t) (hp : Part.fdb ∈ ps) (x : Fdb) :
    partsBut ps s { t with fdb := x } := by
  intro p hn
  have := h p hn
  cases p <;> first | exact this | exact absurd hp hn

theorem partsBut_set_buf {ps : List Part} {s t : State} (h : partsBut ps s t) (hp : Part.buf ∈ ps) (x : Buf) :
    partsBut ps s { t with buf := x } := by
  intro p hn
  have := h p hn
  cases p <;> first | exact this | exact absurd hp hn

theorem partsBut_set_sched {ps : List Part} {s t : State} (h : partsBut ps s t) (hp : Part.sched ∈ ps) (x : Sched) :
    partsBut ps s { t with sched := x } := by
  intro p hn
  have := h p hn
  cases p <;> first | exact this | exact absurd hp hn

theorem partsBut_set_time {ps : List Part} {s t : State} (h : partsBut ps s t) (hp : Part.time ∈ ps) (x : Time) :
    partsBut ps s { t with time := x } := by
  intro p hn
  have := h p hn
  cases p <;> first | exact this | exact absurd hp hn

theorem partsBut_set_timed {ps : List Part} {s t : State} (h : partsBut ps s t) (hp : Part.timed ∈ ps) (x : Timed) :
    partsBut ps s { t with timed := x } := by
  intro p hn
  have := h p hn
  cases p <;> first | exact this | exact absurd hp hn

theorem partsBut_set_toa {ps : List Part} {s t : State} (h : partsBut ps s t) (hp : Part.toa ∈ ps) (x : Toa) :
    partsBut ps s { t with toa := x } := by
  intro p hn
  have := h p hn
  cases p <;> first | exact this | exact absurd hp hn

theorem partsBut_set_boot {ps : List Part} {s t : State} (h : partsBut ps s t) (hp : Part.boot ∈ ps) (x : Boot) :
    partsBut ps s { t with boot := x } := by
  intro p hn
  have := h p hn
  cases p <;> first | exact this | exact absurd hp hn

theorem partsBut_set_ras {ps : List Part} {s t : State} (h : partsBut ps s t) (hp : Part.ras ∈ ps) (x : Ras) :
    partsBut ps s { t with ras := x } := by
  intro p hn
  have := h p hn
  cases p <;> first | exact this | exact absurd hp hn

theorem partsBut_set_lanes {ps : List Part} {s t : State} (h : partsBut ps s t) (hp : Part.lanes ∈ ps) (x : Lanes) :
    partsBut ps s { t with lanes := x } := by
  intro p hn
  have := h p hn
  cases p <;> first | exact this | exact absurd hp hn

theorem partsBut_set_pkg {ps : List Part} {s t : State} (h : partsBut ps s t) (hp : Part.pkg ∈ ps) (x : Pkg) :
    partsBut ps s { t with pkg := x } := by
  intro p hn
  have := h p hn
  cases p <;> first | exact this | exact absurd hp hn

theorem partsBut_set_tel {ps : List Part} {s t : State} (h : partsBut ps s t) (hp : Part.tel ∈ ps) (x : Tel) :
    partsBut ps s { t with tel := x } := by
  intro p hn
  have := h p hn
  cases p <;> first | exact this | exact absurd hp hn

theorem partsBut_set_clove {ps : List Part} {s t : State} (h : partsBut ps s t) (hp : Part.clove ∈ ps) (x : Clove) :
    partsBut ps s { t with clove := x } := by
  intro p hn
  have := h p hn
  cases p <;> first | exact this | exact absurd hp hn

theorem partsBut_st {ps : List Part} {s t : State} (h : partsBut ps s t) (f : Fld) (ix : List Nat) (v : Nat) : partsBut ps s (t.st f ix v) := by
  intro p hn
  have := h p hn
  cases p <;> exact this

theorem partsBut_bump {ps : List Part} {s t : State} (h : partsBut ps s t) (f : Fld) (ix : List Nat) (v : Nat) : partsBut ps s (t.bump f ix v) :=
  partsBut_st h f ix _

theorem partsBut_lower {ps : List Part} {s t : State} (h : partsBut ps s t) (f : Fld) (ix : List Nat) (v : Nat) : partsBut ps s (t.lower f ix v) :=
  partsBut_st h f ix _

theorem partsBut_set_regs {ps : List Part} {s t : State} (h : partsBut ps s t) (x : SMap Nat) : partsBut ps s { t with regs := x } := by
  intro p hn
  have := h p hn
  cases p <;> exact this

theorem partsBut_set_host {ps : List Part} {s t : State} (h : partsBut ps s t) (x : HostIf) : partsBut ps s { t with host := x } := by
  intro p hn
  have := h p hn
  cases p <;> exact this

theorem partsBut_hostWrite {ps : List Part} {s t : State} (h : partsBut ps s t) (a : Nat) (bs : List Byte) : partsBut ps s (t.hostWrite a bs) :=
  partsBut_set_host h _

theorem partsBut_pmc {ps : List Part} {s t : State} (h : partsBut ps s t) (x : Half) (ev : Nat) (e : PmcEv) (n : Nat) : partsBut ps s (t.pmc x ev e n) := by
  refine partsBut_trans h (fun p _ => ?_)
  exact ((Reports.refl t).pmc x ev e n).parts p

theorem fieldsBut_pmc {gs : List Fld} {s t : State} (h : fieldsBut gs s t) (x : Half) (ev : Nat) (e : PmcEv) (n : Nat) : fieldsBut gs s (t.pmc x ev e n) :=
  fieldsBut_trans h (fun f ix _ hr => ((Reports.refl t).pmc x ev e n).rd f ix hr)

theorem fieldsBut_bump {fs : List Fld} {s t : State} {f : Fld} {ix : List Nat} {v : Nat} (h : fieldsBut fs s t) (hf : f ∈ fs) :
    fieldsBut fs s (t.bump f ix v) := fieldsBut_st h hf

theorem fieldsBut_lower {fs : List Fld} {s t : State} {f : Fld} {ix : List Nat} {v : Nat} (h : fieldsBut fs s t) (hf : f ∈ fs) :
    fieldsBut fs s (t.lower f ix v) := fieldsBut_st h hf

theorem fieldsBut_of_regs {fs : List Fld} {s t u : State} (h : fieldsBut fs s t) (e : u.regs = t.regs) : fieldsBut fs s u :=
  fun f ix hf hr => (rd_congr e f ix).trans (h f ix hf hr)

theorem fieldsBut_set_pending {fs : List Fld} {s t : State} (h : fieldsBut fs s t) (x : List Instr) : fieldsBut fs s { t with pending := x } := h
theorem fieldsBut_set_fresh {fs : List Fld} {s t : State} (h : fieldsBut fs s t) (x : Nat) : fieldsBut fs s { t with fresh := x } := h
theorem fieldsBut_set_nextId {fs : List Fld} {s t : State} (h : fieldsBut fs s t) (x : Nat) : fieldsBut fs s { t with nextId := x } := h
theorem fieldsBut_set_frames {fs : List Fld} {s t : State} (h : fieldsBut fs s t) (x : List Frame) : fieldsBut fs s { t with frames := x } := h
theorem fieldsBut_set_progA {fs : List Fld} {s t : State} (h : fieldsBut fs s t) (x : Prog) : fieldsBut fs s { t with progA := x } := h
theorem fieldsBut_set_progB {fs : List Fld} {s t : State} (h : fieldsBut fs s t) (x : Prog) : fieldsBut fs s { t with progB := x } := h
theorem fieldsBut_set_swap {fs : List Fld} {s t : State} (h : fieldsBut fs s t) (x : Option Swap) : fieldsBut fs s { t with swap := x } := h
theorem fieldsBut_set_tables {fs : List Fld} {s t : State} (h : fieldsBut fs s t) (x : Tables) : fieldsBut fs s { t with tables := x } := h
theorem fieldsBut_set_fdb {fs : List Fld} {s t : State} (h : fieldsBut fs s t) (x : Fdb) : fieldsBut fs s { t with fdb := x } := h
theorem fieldsBut_set_buf {fs : List Fld} {s t : State} (h : fieldsBut fs s t) (x : Buf) : fieldsBut fs s { t with buf := x } := h
theorem fieldsBut_set_sched {fs : List Fld} {s t : State} (h : fieldsBut fs s t) (x : Sched) : fieldsBut fs s { t with sched := x } := h
theorem fieldsBut_set_time {fs : List Fld} {s t : State} (h : fieldsBut fs s t) (x : Time) : fieldsBut fs s { t with time := x } := h
theorem fieldsBut_set_timed {fs : List Fld} {s t : State} (h : fieldsBut fs s t) (x : Timed) : fieldsBut fs s { t with timed := x } := h
theorem fieldsBut_set_toa {fs : List Fld} {s t : State} (h : fieldsBut fs s t) (x : Toa) : fieldsBut fs s { t with toa := x } := h
theorem fieldsBut_set_boot {fs : List Fld} {s t : State} (h : fieldsBut fs s t) (x : Boot) : fieldsBut fs s { t with boot := x } := h
theorem fieldsBut_set_ras {fs : List Fld} {s t : State} (h : fieldsBut fs s t) (x : Ras) : fieldsBut fs s { t with ras := x } := h
theorem fieldsBut_set_lanes {fs : List Fld} {s t : State} (h : fieldsBut fs s t) (x : Lanes) : fieldsBut fs s { t with lanes := x } := h
theorem fieldsBut_set_pkg {fs : List Fld} {s t : State} (h : fieldsBut fs s t) (x : Pkg) : fieldsBut fs s { t with pkg := x } := h
theorem fieldsBut_set_tel {fs : List Fld} {s t : State} (h : fieldsBut fs s t) (x : Tel) : fieldsBut fs s { t with tel := x } := h
theorem fieldsBut_set_clove {fs : List Fld} {s t : State} (h : fieldsBut fs s t) (x : Clove) : fieldsBut fs s { t with clove := x } := h
theorem fieldsBut_set_host {fs : List Fld} {s t : State} (h : fieldsBut fs s t) (x : HostIf) : fieldsBut fs s { t with host := x } := h
theorem fieldsBut_hostWrite {fs : List Fld} {s t : State} (h : fieldsBut fs s t) (a : Nat) (bs : List Byte) : fieldsBut fs s (t.hostWrite a bs) := h

theorem partsBut_mono {ps qs : List Part} {s t : State} (h : partsBut ps s t) (k : ∀ p ∈ ps, p ∈ qs) : partsBut qs s t :=
  fun p hp => h p (fun hq => hp (k p hq))

theorem fieldsBut_mono {fs gs : List Fld} {s t : State} (h : fieldsBut fs s t) (k : ∀ f ∈ fs, f ∈ gs) : fieldsBut gs s t :=
  fun f ix hf hr => h f ix (fun hq => hf (k f hq)) hr

theorem partsBut_foldl {ps : List Part} {α : Type} {f : State → α → State} (hf : ∀ t a, partsBut ps t (f t a)) (l : List α) {s t : State}
    (h : partsBut ps s t) : partsBut ps s (l.foldl f t) := by
  induction l generalizing t with
  | nil => exact h
  | cons a l ih => exact ih (partsBut_trans h (hf t a))

theorem fieldsBut_foldl {fs : List Fld} {α : Type} {f : State → α → State} (hf : ∀ t a, fieldsBut fs t (f t a)) (l : List α) {s t : State}
    (h : fieldsBut fs s t) : fieldsBut fs s (l.foldl f t) := by
  induction l generalizing t with
  | nil => exact h
  | cons a l ih => exact ih (fieldsBut_trans h (hf t a))

theorem partsBut_ite {ps : List Part} {s t u : State} (c : Prop) [Decidable c] (h : partsBut ps s t) (k : partsBut ps s u) :
    partsBut ps s (if c then t else u) := by
  split
  · exact h
  · exact k

theorem fieldsBut_ite {fs : List Fld} {s t u : State} (c : Prop) [Decidable c] (h : fieldsBut fs s t) (k : fieldsBut fs s u) :
    fieldsBut fs s (if c then t else u) := by
  split
  · exact h
  · exact k

/-- What a descriptor that passed its checks is known to be. -/
theorem served_clean {s : State} {d : Hdr} {r : Rule} {own clean : Bool} (h : served s d r own clean) : clean = true ∧ halvesFit d r.halves = true := by
  unfold served State.refusal at h
  split at h
  · simp at h
  · split at h
    · simp at h
    · rename_i hc
      simpa using hc

/-- A descriptor that passes its checks runs its operation. -/
theorem serveX_of_pass {s : State} {d : Hdr} {r : Rule} {own clean train : Bool} (op : State → State)
    (h : s.refusal d r own clean train = none) : s.serveX d r own clean train op = op s := by
  simp [State.serveX, h]

theorem serve_of_pass {s : State} {d : Hdr} {r : Rule} {own clean : Bool} (op : State → State)
    (h : s.refusal d r own clean false = none) : s.serve d r own clean op = op s := serveX_of_pass op h

/-- A descriptor that a check refuses completes at once, with no other effect. -/
theorem serve_of_refused {s : State} {d : Hdr} {r : Rule} {own clean : Bool} (op : State → State) {st a res : Nat}
    (h : s.refusal d r own clean false = some (st, a, res)) : s.serve d r own clean op = s.complete d st a res := by
  simp [State.serve, State.serveX, h]

/-! ## When a descriptor's command takes effect, and when a host's access reaches a register -/

/-- The mark that a taken descriptor has run changes nothing but the list of taken descriptors. -/
theorem descRun_spec (s : State) (d : Hdr) : Reports { s with host := { s.host with taken := (s.descRun d).host.taken } } (s.descRun d) := by
  unfold State.descRun
  split <;> exact ⟨rfl, fun _ _ _ => rfl, rfl, rfl, List.prefix_rfl⟩

@[simp] theorem descRun_cpls (s : State) (d : Hdr) : (s.descRun d).host.cpls = s.host.cpls := (descRun_spec s d).cpls

@[simp] theorem descRun_rd (s : State) (d : Hdr) (f : Fld) (ix : List Nat) : (s.descRun d).rd f ix = s.rd f ix := by
  unfold State.descRun
  split <;> rfl

/-- Whether a descriptor has been fetched does not change by its running. -/
@[simp] theorem descRun_isTaken (s : State) (d x : Hdr) : (s.descRun d).isTaken x = s.isTaken x := by
  unfold State.descRun
  split
  · unfold State.isTaken
    dsimp only
    rw [List.any_map]
    congr 1
    funext t
    simp only [Function.comp]
    split <;> rfl
  · rfl

/-- The checks of R338 do not see that a descriptor has run. -/
theorem descRun_refusal (s : State) (d x : Hdr) (r : Rule) (own clean train : Bool) :
    (s.descRun d).refusal x r own clean train = s.refusal x r own clean train := by
  have e : ∀ f ix, (s.descRun d).on f ix = s.on f ix := fun f ix => by unfold State.on; rw [descRun_rd]
  have m : (s.descRun d).mode = s.mode := by unfold State.mode; rw [descRun_rd]
  have u : (s.descRun d).unresolved = s.unresolved := by unfold State.unresolved State.own; rw [descRun_rd, descRun_rd]
  have b : (s.descRun d).bridgeUp = s.bridgeUp := by unfold State.descRun; split <;> rfl
  have i : ∀ l, (s.descRun d).illegal l = s.illegal l := fun l => by unfold State.illegal; simp only [m, descRun_rd]
  unfold State.refusal
  rw [e, descRun_isTaken, u, m, i, b]

/-- A descriptor's command that is due runs its operation (R339). -/
theorem doneDesc_of_due {c : Instr} {d : Hdr} {s : State} (op : State → State) (h : s.descDue c d = true) :
    doneDesc c d op s = .next (settle (op (s.descRun d))) := by
  unfold doneDesc
  rw [if_pos h]
  rfl

/-- One that is held, or does not spell its descriptor, changes nothing (R339). -/
theorem doneDesc_of_not_due {c : Instr} {d : Hdr} {s : State} (op : State → State) (h : s.descDue c d = false) :
    doneDesc c d op s = .next (settle s) := by
  unfold doneDesc
  rw [if_neg (by simp [h])]
  rfl

/-- An access that reaches the device does what the register's rule says (R355, R401). -/
theorem doneReg_of_reached {west : Bool} {s : State} (op : State → State) (h : s.regOff west = false) : doneReg west op s = .next (settle (op s)) := by
  unfold doneReg
  rw [if_neg (by simp [h])]
  rfl

theorem doneReg_of_off {west : Bool} {s : State} (op : State → State) (h : s.regOff west = true) : doneReg west op s = .next (settle s) := by
  unfold doneReg
  rw [if_pos h]
  rfl

/-- The mode check looks at the rule alone, so one mode serves a rule or refuses it. -/
theorem refusal_of_config {s : State} {d : Hdr} {r : Rule} {own clean : Bool} (hf : d.fn = 0 ∨ (r.vf = true ∧ own = true ∧ s.on .HST_FN_desc_en [0, d.fn] = true))
    (hc : clean = true) (hh : halvesFit d r.halves = true) (ho : r.changes = false ∨ s.unresolved = false)
    (hm : s.mode ≠ 6 ∨ d.fn = 0) (hl : s.illegal r.legal = none) : s.refusal d r own clean false = none := by
  unfold State.refusal
  have e1 : ¬ (d.fn ≠ 0 ∧ (¬ r.vf ∨ ¬ own ∨ (¬ s.on .HST_FN_desc_en [0, d.fn] ∧ ¬ s.isTaken d))) := by
    rintro ⟨h0, h⟩
    rcases hf with hf | ⟨a, b, c⟩
    · exact h0 hf
    · rcases h with h | h | h
      · exact h a
      · exact h b
      · exact h.1 c
  have e2 : ¬ (¬ clean = true ∨ ¬ halvesFit d r.halves = true) := by simp [hc, hh]
  have e3 : ¬ (r.changes = true ∧ s.unresolved = true ∧ ¬ false = true) := by
    rcases ho with ho | ho <;> simp [ho]
  have e4 : ¬ (s.mode = 6 ∧ d.fn ≠ 0) := by
    rcases hm with hm | hm <;> simp [hm]
  simp only [e1, e2, e3, e4, if_false, hl]

end Sys2Proof.Machine
end

