-- ==== Sys2Proof/Laws/PerInstr.lean ====
section
/-!
SUPPORT. One law per command, on its syntax: the descriptor header of a well-formed command is well formed.
-/

namespace Sys2Proof.Laws.Header

/-- The descriptor header that a command carries (R336), none for an event or an access. -/
def ofCommand : Instr → Option Hdr
  | .nop d => some d
  | .tblWrite d _ _ _ => some d
  | .tblRead d _ _ _ => some d
  | .sliceCommit d => some d
  | .sliceAbort d => some d
  | .sliceQuota d _ _ => some d
  | .vniMapWrite d _ => some d
  | .vniMapDelete d _ => some d
  | .progLoad d _ => some d
  | .progSwap d => some d
  | .progDrainLimit => none
  | .progSwapDrained => none
  | .fdbInsert d _ _ _ _ _ => some d
  | .fdbDelete d _ => some d
  | .fdbRead d _ _ _ => some d
  | .lock d _ => some d
  | .unlock d _ => some d
  | .fdbWayWrite d _ _ => some d
  | .fdbUnfreeze d _ => some d
  | .fdbFlush d _ _ _ _ _ _ => some d
  | .bufPartSet d _ => some d
  | .portFlush d _ => some d
  | .policerSet d _ _ _ _ _ _ _ _ _ => some d
  | .gateLoad d _ _ _ _ _ => some d
  | .epochLoad d _ _ _ _ _ _ => some d
  | .epochStop d => some d
  | .toaGroupOpen d => some d
  | .toaGroupClose d _ => some d
  | .toaMemberSet d _ _ => some d
  | .toaGroupRead d _ => some d
  | .cntSnap d _ => some d
  | .patchLoad d => some d
  | .patchArm d _ => some d
  | .patchArmDrained => none
  | .hamRead d _ _ => some d
  | .hamWrite d _ _ _ => some d
  | .imageWrite d => some d
  | .imageWriteDone _ => none
  | .bootRetry d => some d
  | .cfgCommit d => some d
  | .cfgRead d => some d
  | .attest d _ => some d
  | .idCertRead d _ => some d
  | .ownerEnroll d _ _ => some d
  | .trbSelftest d _ _ => some d
  | .hostClaim d => some d
  | .bankRetire d _ _ _ => some d
  | .linkRetrain d _ _ => some d
  | .eccInject d _ _ _ _ _ => some d
  | .portSet d _ _ _ _ _ => some d
  | .laneEqSet d _ => some d
  | .laneTest d _ _ _ _ _ => some d
  | .portRestart d _ => some d
  | .portRead d => some d
  | .eqRead d => some d
  | .doorbell _ _ _ => none
  | .descriptorFetch _ _ _ => none
  | .descriptorStart _ _ _ => none
  | .ringCfgWrite _ _ _ => none
  | .txEntry _ _ _ _ => none
  | .rxDelivery _ _ => none
  | .ringStalled _ _ => none
  | .msixHoldoffEnd _ _ => none
  | .flr _ => none
  | .hotReset => none
  | .perstN _ => none
  | .configRequest _ _ _ => none
  | .frameReceive _ _ _ _ => none
  | .codewordDecode _ _ _ _ => none
  | .hiSer _ => none
  | .parse _ => none
  | .stagePass _ => none
  | .hitNotice _ => none
  | .hitStampSkip _ => none
  | .regMissed _ => none
  | .tmFrontEnd _ => none
  | .pfcRefresh _ _ => none
  | .pfcStorm _ _ => none
  | .admissionDecision _ => none
  | .admissionGrant _ => none
  | .pgReleaseNotice _ => none
  | .refcntRelease _ => none
  | .bridgeCellArrival _ => none
  | .enqueue _ => none
  | .schedulerSelect _ => none
  | .launchTest _ => none
  | .refill _ => none
  | .pfcRx _ _ _ => none
  | .pauseTimerExpiry _ _ => none
  | .deparse _ => none
  | .transmit _ _ => none
  | .txtsEntry _ => none
  | .txtsPop _ => none
  | .tioEdge _ _ => none
  | .tioCapPop _ => none
  | .tioOutputEdge _ => none
  | .timeApplyEdge => none
  | .timIncWrite _ => none
  | .stepGo => none
  | .gmSet => none
  | .holdoverExit => none
  | .timCfgWrite _ => none
  | .watchdogExpiry => none
  | .timeRefLost => none
  | .timeRead _ => none
  | .nowTickAdvance => none
  | .learnEventEnqueue _ => none
  | .learnApply _ => none
  | .fdbRemoteWrite _ => none
  | .fdbWriteAck _ => none
  | .agerVisit _ => none
  | .lockLeaseExpiry _ => none
  | .lockRetry _ _ _ => none
  | .fdbResyncDone _ => none
  | .genRetire _ => none
  | .portAcquired _ => none
  | .portAligned _ => none
  | .portLinkLoss _ _ => none
  | .debounceExpiry _ => none
  | .flushFenceRetire _ => none
  | .gateListStart _ => none
  | .epochBoundary => none
  | .epochGridStart => none
  | .epochGridSwap => none
  | .epochPurge _ => none
  | .toaData _ => none
  | .toaAck _ => none
  | .toaResultEmit _ => none
  | .toaStallTimer _ _ => none
  | .toaRetainExpiry _ _ => none
  | .toaCloseDone _ => none
  | .exportFlushTimer _ => none
  | .histWindowEdge _ => none
  | .histAck _ => none
  | .snapPeriodicTrigger _ => none
  | .cntSnapReady _ => none
  | .pmcSampPop _ => none
  | .rcCounterRead _ _ _ _ => none
  | .cloveDispatch _ _ => none
  | .microwordExecute _ _ => none
  | .irqLatch _ _ _ => none
  | .routineTimer _ _ => none
  | .engineRestart _ _ => none
  | .leaseRenewal => none
  | .leaseRenewalRx => none
  | .leaseAck => none
  | .leaseLapse _ => none
  | .prepare => none
  | .twoHalfStepEdge _ => none
  | .stepAppliedReport => none
  | .ownerClaim _ _ _ => none
  | .termExchange => none
  | .mirroredWrite _ => none
  | .gulubLinkFail _ _ => none
  | .flitCrcError _ _ => none
  | .bridgeLost => none
  | .bridgeRestored => none
  | .autoRetrain _ => none
  | .linkTrainDone _ _ _ _ => none
  | .linkRecentre _ _ => none
  | .maintQueuedStart => none
  | .scrub _ _ _ _ _ => none
  | .ueRepair _ _ _ _ _ => none
  | .audit _ => none
  | .bankCopy _ => none
  | .xingStuck _ _ _ => none
  | .xingReset _ _ => none
  | .rasErrPop _ => none
  | .fdbSeedWrite _ _ => none
  | .protectedCopyRegWrite _ _ _ _ => none
  | .registerWrite _ _ _ _ _ _ => none
  | .supplyValid => none
  | .supplyInvalid _ => none
  | .railBelowRange _ => none
  | .resetEnd _ _ _ _ => none
  | .selftestDone _ _ => none
  | .flashDiscovery _ _ => none
  | .slotBodyRead => none
  | .recordApply => none
  | .forwardingStart _ => none
  | .thermSample _ _ _ _ => none
  | .thermCrit => none
  | .avsStep _ => none
  | .avsReadback _ _ _ => none
  | .avsTimeout _ => none
  | .caps => none
  | .ident => none
  | .mode => none
  | .boot => none
  | .temp => none
  | .alarm => none
  | .supply => none
  | .power => none
  | .alertResponse => none
  | .bypass => none
  | .idcode => none
  | .samplePreload => none
  | .extest => none
  | .extestPulse => none
  | .extestTrain => none
  | .highz => none
  | .clamp => none
  | .tapReset => none
  | .timeRefRestored => none

/-- The header of a well-formed command names a function and a command ring that exist (R323, R331), and its values fit their fields (R336). -/
def Statement (i : Instr) : Prop := ∀ d, ofCommand i = some d → i.wf = true → d.wf = true

/-- The first of two checks that both hold. -/
theorem left {a b : Bool} (h : (a && b) = true) : a = true := (Bool.and_eq_true_iff.mp h).1

theorem nop (d : Hdr) : Statement (.nop d) := by rintro _ ⟨⟩ w; exact w
theorem tblWrite (d : Hdr) (x1 : Nat) (x2 : Nat) (x3 : Nat) : Statement (.tblWrite d x1 x2 x3) := by rintro _ ⟨⟩ w; exact left (left (left w))
theorem tblRead (d : Hdr) (x1 : Nat) (x2 : Nat) (x3 : Nat) : Statement (.tblRead d x1 x2 x3) := by rintro _ ⟨⟩ w; exact left (left (left w))
theorem sliceCommit (d : Hdr) : Statement (.sliceCommit d) := by rintro _ ⟨⟩ w; exact w
theorem sliceAbort (d : Hdr) : Statement (.sliceAbort d) := by rintro _ ⟨⟩ w; exact w
theorem sliceQuota (d : Hdr) (x1 : Nat) (x2 : Nat) : Statement (.sliceQuota d x1 x2) := by rintro _ ⟨⟩ w; exact left (left w)
theorem vniMapWrite (d : Hdr) (x1 : Nat) : Statement (.vniMapWrite d x1) := by rintro _ ⟨⟩ w; exact left w
theorem vniMapDelete (d : Hdr) (x1 : Nat) : Statement (.vniMapDelete d x1) := by rintro _ ⟨⟩ w; exact left w
theorem progLoad (d : Hdr) (x1 : Nat) : Statement (.progLoad d x1) := by rintro _ ⟨⟩ w; exact left w
theorem progSwap (d : Hdr) : Statement (.progSwap d) := by rintro _ ⟨⟩ w; exact w
theorem progDrainLimit : Statement (.progDrainLimit) := fun _ h => nomatch h
theorem progSwapDrained : Statement (.progSwapDrained) := fun _ h => nomatch h
theorem fdbInsert (d : Hdr) (x1 : KeyArg) (x2 : Nat) (x3 : Bool) (x4 : Bool) (x5 : Nat) : Statement (.fdbInsert d x1 x2 x3 x4 x5) := by rintro _ ⟨⟩ w; exact left (left (left w))
theorem fdbDelete (d : Hdr) (x1 : KeyArg) : Statement (.fdbDelete d x1) := by rintro _ ⟨⟩ w; exact left w
theorem fdbRead (d : Hdr) (x1 : Nat) (x2 : KeyArg) (x3 : Nat) : Statement (.fdbRead d x1 x2 x3) := by rintro _ ⟨⟩ w; exact left (left (left w))
theorem lock (d : Hdr) (x1 : Nat) : Statement (.lock d x1) := by rintro _ ⟨⟩ w; exact left w
theorem unlock (d : Hdr) (x1 : Nat) : Statement (.unlock d x1) := by rintro _ ⟨⟩ w; exact left w
theorem fdbWayWrite (d : Hdr) (x1 : Nat) (x2 : Nat) : Statement (.fdbWayWrite d x1 x2) := by rintro _ ⟨⟩ w; exact left (left w)
theorem fdbUnfreeze (d : Hdr) (x1 : KeyArg) : Statement (.fdbUnfreeze d x1) := by rintro _ ⟨⟩ w; exact left w
theorem fdbFlush (d : Hdr) (x1 : Bool) (x2 : Bool) (x3 : Bool) (x4 : Bool) (x5 : Nat) (x6 : Nat) : Statement (.fdbFlush d x1 x2 x3 x4 x5 x6) := by rintro _ ⟨⟩ w; exact left (left w)
theorem bufPartSet (d : Hdr) (x1 : List Nat) : Statement (.bufPartSet d x1) := by rintro _ ⟨⟩ w; exact left (left w)
theorem portFlush (d : Hdr) (x1 : Nat) : Statement (.portFlush d x1) := by rintro _ ⟨⟩ w; exact left w
theorem policerSet (d : Hdr) (x1 : Nat) (x2 : Nat) (x3 : Nat) (x4 : Nat) (x5 : Nat) (x6 : Bool) (x7 : Bool) (x8 : Bool) (x9 : Nat) : Statement (.policerSet d x1 x2 x3 x4 x5 x6 x7 x8 x9) := by rintro _ ⟨⟩ w; exact left (left (left (left (left (left w)))))
theorem gateLoad (d : Hdr) (x1 : Nat) (x2 : Nat) (x3 : Nat) (x4 : Nat) (x5 : Nat) : Statement (.gateLoad d x1 x2 x3 x4 x5) := by rintro _ ⟨⟩ w; exact left (left (left (left (left w))))
theorem epochLoad (d : Hdr) (x1 : Nat) (x2 : Nat) (x3 : Nat) (x4 : Nat) (x5 : Nat) (x6 : Nat) : Statement (.epochLoad d x1 x2 x3 x4 x5 x6) := by rintro _ ⟨⟩ w; exact left (left (left (left (left (left w)))))
theorem epochStop (d : Hdr) : Statement (.epochStop d) := by rintro _ ⟨⟩ w; exact w
theorem toaGroupOpen (d : Hdr) : Statement (.toaGroupOpen d) := by rintro _ ⟨⟩ w; exact w
theorem toaGroupClose (d : Hdr) (x1 : Nat) : Statement (.toaGroupClose d x1) := by rintro _ ⟨⟩ w; exact left w
theorem toaMemberSet (d : Hdr) (x1 : Nat) (x2 : Nat) : Statement (.toaMemberSet d x1 x2) := by rintro _ ⟨⟩ w; exact left (left w)
theorem toaGroupRead (d : Hdr) (x1 : Nat) : Statement (.toaGroupRead d x1) := by rintro _ ⟨⟩ w; exact left w
theorem cntSnap (d : Hdr) (x1 : Nat) : Statement (.cntSnap d x1) := by rintro _ ⟨⟩ w; exact left w
theorem patchLoad (d : Hdr) : Statement (.patchLoad d) := by rintro _ ⟨⟩ w; exact w
theorem patchArm (d : Hdr) (x1 : Nat) : Statement (.patchArm d x1) := by rintro _ ⟨⟩ w; exact left w
theorem patchArmDrained : Statement (.patchArmDrained) := fun _ h => nomatch h
theorem hamRead (d : Hdr) (x1 : Nat) (x2 : Nat) : Statement (.hamRead d x1 x2) := by rintro _ ⟨⟩ w; exact left (left w)
theorem hamWrite (d : Hdr) (x1 : Nat) (x2 : Nat) (x3 : Nat) : Statement (.hamWrite d x1 x2 x3) := by rintro _ ⟨⟩ w; exact left (left (left w))
theorem imageWrite (d : Hdr) : Statement (.imageWrite d) := by rintro _ ⟨⟩ w; exact w
theorem imageWriteDone (x0 : Bool) : Statement (.imageWriteDone x0) := fun _ h => nomatch h
theorem bootRetry (d : Hdr) : Statement (.bootRetry d) := by rintro _ ⟨⟩ w; exact w
theorem cfgCommit (d : Hdr) : Statement (.cfgCommit d) := by rintro _ ⟨⟩ w; exact w
theorem cfgRead (d : Hdr) : Statement (.cfgRead d) := by rintro _ ⟨⟩ w; exact w
theorem attest (d : Hdr) (x1 : List Byte) : Statement (.attest d x1) := by rintro _ ⟨⟩ w; exact left w
theorem idCertRead (d : Hdr) (x1 : Nat) : Statement (.idCertRead d x1) := by rintro _ ⟨⟩ w; exact left w
theorem ownerEnroll (d : Hdr) (x1 : Bool) (x2 : Bool) : Statement (.ownerEnroll d x1 x2) := by rintro _ ⟨⟩ w; exact w
theorem trbSelftest (d : Hdr) (x1 : Nat) (x2 : Nat) : Statement (.trbSelftest d x1 x2) := by rintro _ ⟨⟩ w; exact left (left w)
theorem hostClaim (d : Hdr) : Statement (.hostClaim d) := by rintro _ ⟨⟩ w; exact w
theorem bankRetire (d : Hdr) (x1 : Nat) (x2 : Nat) (x3 : Nat) : Statement (.bankRetire d x1 x2 x3) := by rintro _ ⟨⟩ w; exact left (left (left w))
theorem linkRetrain (d : Hdr) (x1 : Nat) (x2 : Nat) : Statement (.linkRetrain d x1 x2) := by rintro _ ⟨⟩ w; exact left (left w)
theorem eccInject (d : Hdr) (x1 : Nat) (x2 : Nat) (x3 : Nat) (x4 : Nat) (x5 : Nat) : Statement (.eccInject d x1 x2 x3 x4 x5) := by rintro _ ⟨⟩ w; exact left (left (left (left (left w))))
theorem portSet (d : Hdr) (x1 : Nat) (x2 : Nat) (x3 : Nat) (x4 : Nat) (x5 : Nat) : Statement (.portSet d x1 x2 x3 x4 x5) := by rintro _ ⟨⟩ w; exact left (left (left (left (left w))))
theorem laneEqSet (d : Hdr) (x1 : Bool) : Statement (.laneEqSet d x1) := by rintro _ ⟨⟩ w; exact w
theorem laneTest (d : Hdr) (x1 : Nat) (x2 : Nat) (x3 : Nat) (x4 : Nat) (x5 : Bool) : Statement (.laneTest d x1 x2 x3 x4 x5) := by rintro _ ⟨⟩ w; exact left (left (left (left w)))
theorem portRestart (d : Hdr) (x1 : Nat) : Statement (.portRestart d x1) := by rintro _ ⟨⟩ w; exact left w
theorem portRead (d : Hdr) : Statement (.portRead d) := by rintro _ ⟨⟩ w; exact w
theorem eqRead (d : Hdr) : Statement (.eqRead d) := by rintro _ ⟨⟩ w; exact w
theorem doorbell (x0 : Nat) (x1 : Nat) (x2 : Nat) : Statement (.doorbell x0 x1 x2) := fun _ h => nomatch h
theorem descriptorFetch (x0 : Nat) (x1 : Nat) (x2 : Option (List Byte)) : Statement (.descriptorFetch x0 x1 x2) := fun _ h => nomatch h
theorem descriptorStart (x0 : Nat) (x1 : Nat) (x2 : Nat) : Statement (.descriptorStart x0 x1 x2) := fun _ h => nomatch h
theorem ringCfgWrite (x0 : Nat) (x1 : Nat) (x2 : Nat) : Statement (.ringCfgWrite x0 x1 x2) := fun _ h => nomatch h
theorem txEntry (x0 : Nat) (x1 : Nat) (x2 : Option (List Byte)) (x3 : Option (List Byte)) : Statement (.txEntry x0 x1 x2 x3) := fun _ h => nomatch h
theorem rxDelivery (x0 : Nat) (x1 : List Nat) : Statement (.rxDelivery x0 x1) := fun _ h => nomatch h
theorem ringStalled (x0 : Nat) (x1 : Nat) : Statement (.ringStalled x0 x1) := fun _ h => nomatch h
theorem msixHoldoffEnd (x0 : Nat) (x1 : Nat) : Statement (.msixHoldoffEnd x0 x1) := fun _ h => nomatch h
theorem flr (x0 : Nat) : Statement (.flr x0) := fun _ h => nomatch h
theorem hotReset : Statement (.hotReset) := fun _ h => nomatch h
theorem perstN (x0 : Bool) : Statement (.perstN x0) := fun _ h => nomatch h
theorem configRequest (x0 : Nat) (x1 : Nat) (x2 : Option Nat) : Statement (.configRequest x0 x1 x2) := fun _ h => nomatch h
theorem frameReceive (x0 : Nat) (x1 : List Byte) (x2 : Bool) (x3 : Nat) : Statement (.frameReceive x0 x1 x2 x3) := fun _ h => nomatch h
theorem codewordDecode (x0 : Nat) (x1 : Nat) (x2 : Bool) (x3 : Nat) : Statement (.codewordDecode x0 x1 x2 x3) := fun _ h => nomatch h
theorem hiSer (x0 : Nat) : Statement (.hiSer x0) := fun _ h => nomatch h
theorem parse (x0 : Nat) : Statement (.parse x0) := fun _ h => nomatch h
theorem stagePass (x0 : Nat) : Statement (.stagePass x0) := fun _ h => nomatch h
theorem hitNotice (x0 : Half) : Statement (.hitNotice x0) := fun _ h => nomatch h
theorem hitStampSkip (x0 : Half) : Statement (.hitStampSkip x0) := fun _ h => nomatch h
theorem regMissed (x0 : Nat) : Statement (.regMissed x0) := fun _ h => nomatch h
theorem tmFrontEnd (x0 : Nat) : Statement (.tmFrontEnd x0) := fun _ h => nomatch h
theorem pfcRefresh (x0 : Nat) (x1 : Nat) : Statement (.pfcRefresh x0 x1) := fun _ h => nomatch h
theorem pfcStorm (x0 : Nat) (x1 : Nat) : Statement (.pfcStorm x0 x1) := fun _ h => nomatch h
theorem admissionDecision (x0 : Half) : Statement (.admissionDecision x0) := fun _ h => nomatch h
theorem admissionGrant (x0 : Half) : Statement (.admissionGrant x0) := fun _ h => nomatch h
theorem pgReleaseNotice (x0 : Half) : Statement (.pgReleaseNotice x0) := fun _ h => nomatch h
theorem refcntRelease (x0 : Half) : Statement (.refcntRelease x0) := fun _ h => nomatch h
theorem bridgeCellArrival (x0 : Nat) : Statement (.bridgeCellArrival x0) := fun _ h => nomatch h
theorem enqueue (x0 : Nat) : Statement (.enqueue x0) := fun _ h => nomatch h
theorem schedulerSelect (x0 : Nat) : Statement (.schedulerSelect x0) := fun _ h => nomatch h
theorem launchTest (x0 : Nat) : Statement (.launchTest x0) := fun _ h => nomatch h
theorem refill (x0 : Half) : Statement (.refill x0) := fun _ h => nomatch h
theorem pfcRx (x0 : Nat) (x1 : Nat) (x2 : List Nat) : Statement (.pfcRx x0 x1 x2) := fun _ h => nomatch h
theorem pauseTimerExpiry (x0 : Nat) (x1 : Nat) : Statement (.pauseTimerExpiry x0 x1) := fun _ h => nomatch h
theorem deparse (x0 : Nat) : Statement (.deparse x0) := fun _ h => nomatch h
theorem transmit (x0 : Nat) (x1 : Nat) : Statement (.transmit x0 x1) := fun _ h => nomatch h
theorem txtsEntry (x0 : Half) : Statement (.txtsEntry x0) := fun _ h => nomatch h
theorem txtsPop (x0 : Half) : Statement (.txtsPop x0) := fun _ h => nomatch h
theorem tioEdge (x0 : Nat) (x1 : Bool) : Statement (.tioEdge x0 x1) := fun _ h => nomatch h
theorem tioCapPop (x0 : Nat) : Statement (.tioCapPop x0) := fun _ h => nomatch h
theorem tioOutputEdge (x0 : Nat) : Statement (.tioOutputEdge x0) := fun _ h => nomatch h
theorem timeApplyEdge : Statement (.timeApplyEdge) := fun _ h => nomatch h
theorem timIncWrite (x0 : Nat) : Statement (.timIncWrite x0) := fun _ h => nomatch h
theorem stepGo : Statement (.stepGo) := fun _ h => nomatch h
theorem gmSet : Statement (.gmSet) := fun _ h => nomatch h
theorem holdoverExit : Statement (.holdoverExit) := fun _ h => nomatch h
theorem timCfgWrite (x0 : Nat) : Statement (.timCfgWrite x0) := fun _ h => nomatch h
theorem watchdogExpiry : Statement (.watchdogExpiry) := fun _ h => nomatch h
theorem timeRefLost : Statement (.timeRefLost) := fun _ h => nomatch h
theorem timeRead (x0 : Bool) : Statement (.timeRead x0) := fun _ h => nomatch h
theorem nowTickAdvance : Statement (.nowTickAdvance) := fun _ h => nomatch h
theorem learnEventEnqueue (x0 : Half) : Statement (.learnEventEnqueue x0) := fun _ h => nomatch h
theorem learnApply (x0 : Half) : Statement (.learnApply x0) := fun _ h => nomatch h
theorem fdbRemoteWrite (x0 : Half) : Statement (.fdbRemoteWrite x0) := fun _ h => nomatch h
theorem fdbWriteAck (x0 : Half) : Statement (.fdbWriteAck x0) := fun _ h => nomatch h
theorem agerVisit (x0 : Nat) : Statement (.agerVisit x0) := fun _ h => nomatch h
theorem lockLeaseExpiry (x0 : Nat) : Statement (.lockLeaseExpiry x0) := fun _ h => nomatch h
theorem lockRetry (x0 : Nat) (x1 : Nat) (x2 : Nat) : Statement (.lockRetry x0 x1 x2) := fun _ h => nomatch h
theorem fdbResyncDone (x0 : Half) : Statement (.fdbResyncDone x0) := fun _ h => nomatch h
theorem genRetire (x0 : Nat) : Statement (.genRetire x0) := fun _ h => nomatch h
theorem portAcquired (x0 : Nat) : Statement (.portAcquired x0) := fun _ h => nomatch h
theorem portAligned (x0 : Nat) : Statement (.portAligned x0) := fun _ h => nomatch h
theorem portLinkLoss (x0 : Nat) (x1 : Nat) : Statement (.portLinkLoss x0 x1) := fun _ h => nomatch h
theorem debounceExpiry (x0 : Nat) : Statement (.debounceExpiry x0) := fun _ h => nomatch h
theorem flushFenceRetire (x0 : Nat) : Statement (.flushFenceRetire x0) := fun _ h => nomatch h
theorem gateListStart (x0 : Nat) : Statement (.gateListStart x0) := fun _ h => nomatch h
theorem epochBoundary : Statement (.epochBoundary) := fun _ h => nomatch h
theorem epochGridStart : Statement (.epochGridStart) := fun _ h => nomatch h
theorem epochGridSwap : Statement (.epochGridSwap) := fun _ h => nomatch h
theorem epochPurge (x0 : Half) : Statement (.epochPurge x0) := fun _ h => nomatch h
theorem toaData (x0 : Nat) : Statement (.toaData x0) := fun _ h => nomatch h
theorem toaAck (x0 : Nat) : Statement (.toaAck x0) := fun _ h => nomatch h
theorem toaResultEmit (x0 : Nat) : Statement (.toaResultEmit x0) := fun _ h => nomatch h
theorem toaStallTimer (x0 : Nat) (x1 : Nat) : Statement (.toaStallTimer x0 x1) := fun _ h => nomatch h
theorem toaRetainExpiry (x0 : Nat) (x1 : Nat) : Statement (.toaRetainExpiry x0 x1) := fun _ h => nomatch h
theorem toaCloseDone (x0 : Nat) : Statement (.toaCloseDone x0) := fun _ h => nomatch h
theorem exportFlushTimer (x0 : Half) : Statement (.exportFlushTimer x0) := fun _ h => nomatch h
theorem histWindowEdge (x0 : Half) : Statement (.histWindowEdge x0) := fun _ h => nomatch h
theorem histAck (x0 : Half) : Statement (.histAck x0) := fun _ h => nomatch h
theorem snapPeriodicTrigger (x0 : Half) : Statement (.snapPeriodicTrigger x0) := fun _ h => nomatch h
theorem cntSnapReady (x0 : Half) : Statement (.cntSnapReady x0) := fun _ h => nomatch h
theorem pmcSampPop (x0 : Half) : Statement (.pmcSampPop x0) := fun _ h => nomatch h
theorem rcCounterRead (x0 : BlkAt) (x1 : Nat) (x2 : Nat) (x3 : Bool) : Statement (.rcCounterRead x0 x1 x2 x3) := fun _ h => nomatch h
theorem cloveDispatch (x0 : Half) (x1 : Nat) : Statement (.cloveDispatch x0 x1) := fun _ h => nomatch h
theorem microwordExecute (x0 : Half) (x1 : Nat) : Statement (.microwordExecute x0 x1) := fun _ h => nomatch h
theorem irqLatch (x0 : Half) (x1 : Nat) (x2 : Nat) : Statement (.irqLatch x0 x1 x2) := fun _ h => nomatch h
theorem routineTimer (x0 : Half) (x1 : Nat) : Statement (.routineTimer x0 x1) := fun _ h => nomatch h
theorem engineRestart (x0 : Half) (x1 : Nat) : Statement (.engineRestart x0 x1) := fun _ h => nomatch h
theorem leaseRenewal : Statement (.leaseRenewal) := fun _ h => nomatch h
theorem leaseRenewalRx : Statement (.leaseRenewalRx) := fun _ h => nomatch h
theorem leaseAck : Statement (.leaseAck) := fun _ h => nomatch h
theorem leaseLapse (x0 : Half) : Statement (.leaseLapse x0) := fun _ h => nomatch h
theorem prepare : Statement (.prepare) := fun _ h => nomatch h
theorem twoHalfStepEdge (x0 : Half) : Statement (.twoHalfStepEdge x0) := fun _ h => nomatch h
theorem stepAppliedReport : Statement (.stepAppliedReport) := fun _ h => nomatch h
theorem ownerClaim (x0 : Half) (x1 : Nat) (x2 : Nat) : Statement (.ownerClaim x0 x1 x2) := fun _ h => nomatch h
theorem termExchange : Statement (.termExchange) := fun _ h => nomatch h
theorem mirroredWrite (x0 : Nat) : Statement (.mirroredWrite x0) := fun _ h => nomatch h
theorem gulubLinkFail (x0 : Nat) (x1 : Nat) : Statement (.gulubLinkFail x0 x1) := fun _ h => nomatch h
theorem flitCrcError (x0 : Nat) (x1 : Nat) : Statement (.flitCrcError x0 x1) := fun _ h => nomatch h
theorem bridgeLost : Statement (.bridgeLost) := fun _ h => nomatch h
theorem bridgeRestored : Statement (.bridgeRestored) := fun _ h => nomatch h
theorem autoRetrain (x0 : Nat) : Statement (.autoRetrain x0) := fun _ h => nomatch h
theorem linkTrainDone (x0 : Nat) (x1 : Nat) (x2 : Bool) (x3 : Nat) : Statement (.linkTrainDone x0 x1 x2 x3) := fun _ h => nomatch h
theorem linkRecentre (x0 : Nat) (x1 : Nat) : Statement (.linkRecentre x0 x1) := fun _ h => nomatch h
theorem maintQueuedStart : Statement (.maintQueuedStart) := fun _ h => nomatch h
theorem scrub (x0 : Half) (x1 : Nat) (x2 : Nat) (x3 : Nat) (x4 : Nat) : Statement (.scrub x0 x1 x2 x3 x4) := fun _ h => nomatch h
theorem ueRepair (x0 : Half) (x1 : Nat) (x2 : Nat) (x3 : Nat) (x4 : Nat) : Statement (.ueRepair x0 x1 x2 x3 x4) := fun _ h => nomatch h
theorem audit (x0 : Half) : Statement (.audit x0) := fun _ h => nomatch h
theorem bankCopy (x0 : Half) : Statement (.bankCopy x0) := fun _ h => nomatch h
theorem xingStuck (x0 : Half) (x1 : Nat) (x2 : Nat) : Statement (.xingStuck x0 x1 x2) := fun _ h => nomatch h
theorem xingReset (x0 : Half) (x1 : Nat) : Statement (.xingReset x0 x1) := fun _ h => nomatch h
theorem rasErrPop (x0 : Half) : Statement (.rasErrPop x0) := fun _ h => nomatch h
theorem fdbSeedWrite (x0 : Half) (x1 : Nat) : Statement (.fdbSeedWrite x0 x1) := fun _ h => nomatch h
theorem protectedCopyRegWrite (x0 : Nat) (x1 : Half) (x2 : Nat) (x3 : Nat) : Statement (.protectedCopyRegWrite x0 x1 x2 x3) := fun _ h => nomatch h
theorem registerWrite (x0 : Nat) (x1 : Nat) (x2 : Nat) (x3 : Nat) (x4 : Bool) (x5 : Nat) : Statement (.registerWrite x0 x1 x2 x3 x4 x5) := fun _ h => nomatch h
theorem supplyValid : Statement (.supplyValid) := fun _ h => nomatch h
theorem supplyInvalid (x0 : Nat) : Statement (.supplyInvalid x0) := fun _ h => nomatch h
theorem railBelowRange (x0 : Nat) : Statement (.railBelowRange x0) := fun _ h => nomatch h
theorem resetEnd (x0 : Bool) (x1 : Bool) (x2 : Nat) (x3 : Nat) : Statement (.resetEnd x0 x1 x2 x3) := fun _ h => nomatch h
theorem selftestDone (x0 : Nat) (x1 : Nat) : Statement (.selftestDone x0 x1) := fun _ h => nomatch h
theorem flashDiscovery (x0 : Bool) (x1 : Bool) : Statement (.flashDiscovery x0 x1) := fun _ h => nomatch h
theorem slotBodyRead : Statement (.slotBodyRead) := fun _ h => nomatch h
theorem recordApply : Statement (.recordApply) := fun _ h => nomatch h
theorem forwardingStart (x0 : Nat) : Statement (.forwardingStart x0) := fun _ h => nomatch h
theorem thermSample (x0 : Int) (x1 : Int) (x2 : Int) (x3 : Bool) : Statement (.thermSample x0 x1 x2 x3) := fun _ h => nomatch h
theorem thermCrit : Statement (.thermCrit) := fun _ h => nomatch h
theorem avsStep (x0 : Half) : Statement (.avsStep x0) := fun _ h => nomatch h
theorem avsReadback (x0 : Half) (x1 : Nat) (x2 : Nat) : Statement (.avsReadback x0 x1 x2) := fun _ h => nomatch h
theorem avsTimeout (x0 : Half) : Statement (.avsTimeout x0) := fun _ h => nomatch h
theorem caps : Statement (.caps) := fun _ h => nomatch h
theorem ident : Statement (.ident) := fun _ h => nomatch h
theorem mode : Statement (.mode) := fun _ h => nomatch h
theorem boot : Statement (.boot) := fun _ h => nomatch h
theorem temp : Statement (.temp) := fun _ h => nomatch h
theorem alarm : Statement (.alarm) := fun _ h => nomatch h
theorem supply : Statement (.supply) := fun _ h => nomatch h
theorem power : Statement (.power) := fun _ h => nomatch h
theorem alertResponse : Statement (.alertResponse) := fun _ h => nomatch h
theorem bypass : Statement (.bypass) := fun _ h => nomatch h
theorem idcode : Statement (.idcode) := fun _ h => nomatch h
theorem samplePreload : Statement (.samplePreload) := fun _ h => nomatch h
theorem extest : Statement (.extest) := fun _ h => nomatch h
theorem extestPulse : Statement (.extestPulse) := fun _ h => nomatch h
theorem extestTrain : Statement (.extestTrain) := fun _ h => nomatch h
theorem highz : Statement (.highz) := fun _ h => nomatch h
theorem clamp : Statement (.clamp) := fun _ h => nomatch h
theorem tapReset : Statement (.tapReset) := fun _ h => nomatch h
theorem timeRefRestored : Statement (.timeRefRestored) := fun _ h => nomatch h

end Sys2Proof.Laws.Header
end

