-- ==== Sys2Proof/Laws/Tables.lean ====
section
/-!
SUPPORT. What the writes of stage tables and of their logs do (R83, R84).
-/

namespace Sys2Proof.Machine

theorem eccClearAt_fold (l : List Nat) (s : State) (f : Nat → Half) (g : Nat → Nat) (c : Nat) (a : List Nat) :
    ∃ x, l.foldl (fun (s : State) p => s.eccClearAt (f p) c (g p) a) s = { s with ras := { s.ras with poison := x } } := by
  induction l generalizing s with
  | nil => exact ⟨s.ras.poison, rfl⟩
  | cons p l ih =>
    obtain ⟨x, hx⟩ := ih (s.eccClearAt (f p) c (g p) a)
    exact ⟨x, by rw [List.foldl_cons, hx]; rfl⟩

/-- A write of a stage table word: the entry, and the errors of its word. -/
theorem tblPut_eq (s : State) (tcam : Bool) (place : List Nat) (e : Option Ent) :
    ∃ x u, s.tblPut tcam place e = { s with
      ras := { s.ras with poison := x }
      tables := { s.tables with
        em := if tcam then s.tables.em else (match e with | some v => s.tables.em.set place v | none => s.tables.em.erase place)
        tcam := if tcam then (match e with | some v => s.tables.tcam.set place v | none => s.tables.tcam.erase place) else s.tables.tcam
        upset := u } } := by
  obtain ⟨x, hx⟩ := eccClearAt_fold (List.range 32) (if tcam then s.upsetClear place else s) pipeHalf (· % 16) 1 (tblAddr tcam place)
  refine ⟨x, (if tcam then s.upsetClear place else s).tables.upset, ?_⟩
  unfold State.tblPut
  dsimp only
  rw [hx]
  cases e <;> cases tcam <;> rfl

theorem tblPut_rd (s : State) (tcam : Bool) (place : List Nat) (e : Option Ent) (f : Fld) (ix : List Nat) :
    (s.tblPut tcam place e).rd f ix = s.rd f ix := by
  obtain ⟨x, u, hx⟩ := tblPut_eq s tcam place e
  rw [hx]; rfl

theorem tblPut_fields {fs : List Fld} {s t : State} (h : fieldsBut fs s t) (tcam : Bool) (place : List Nat) (e : Option Ent) :
    fieldsBut fs s (t.tblPut tcam place e) := fun f ix hf hr => (tblPut_rd t tcam place e f ix).trans (h f ix hf hr)

theorem tblPut_parts {ps : List Part} {s t : State} (h : partsBut ps s t) (hr : Part.ras ∈ ps) (ht : Part.tables ∈ ps) (tcam : Bool)
    (place : List Nat) (e : Option Ent) : partsBut ps s (t.tblPut tcam place e) := by
  obtain ⟨x, u, hx⟩ := tblPut_eq t tcam place e
  rw [hx]
  intro p hn
  have := h p hn
  cases p <;> first | exact this | exact absurd hr hn | exact absurd ht hn

@[simp] theorem tblPut_host (s : State) (tcam : Bool) (place : List Nat) (e : Option Ent) : (s.tblPut tcam place e).host = s.host := by
  obtain ⟨x, u, hx⟩ := tblPut_eq s tcam place e
  rw [hx]

@[simp] theorem tblPut_plog (s : State) (tcam : Bool) (place : List Nat) (e : Option Ent) : (s.tblPut tcam place e).tables.plog = s.tables.plog := by
  obtain ⟨x, u, hx⟩ := tblPut_eq s tcam place e
  rw [hx]

@[simp] theorem tblPut_dlog (s : State) (tcam : Bool) (place : List Nat) (e : Option Ent) : (s.tblPut tcam place e).tables.dlog = s.tables.dlog := by
  obtain ⟨x, u, hx⟩ := tblPut_eq s tcam place e
  rw [hx]

@[simp] theorem tblPut_clog (s : State) (tcam : Bool) (place : List Nat) (e : Option Ent) : (s.tblPut tcam place e).tables.clog = s.tables.clog := by
  obtain ⟨x, u, hx⟩ := tblPut_eq s tcam place e
  rw [hx]

/-- The entry at a place after a write: the one written, or the one before. -/
theorem tblAt_tblPut (s : State) (tcam c : Bool) (place k : List Nat) (e : Option Ent) :
    (s.tblPut tcam place e).tblAt c k = if c = tcam ∧ k = place then e else s.tblAt c k := by
  obtain ⟨x, u, hx⟩ := tblPut_eq s tcam place e
  rw [hx]
  unfold State.tblAt
  cases c <;> cases tcam <;> cases e <;> simp [SMap.get?_set, SMap.get?_erase, eq_comm]

theorem usage_parts {ps : List Part} {s t : State} (h : partsBut ps s t) (f : Fld) (sl n : Nat) (up : Bool) : partsBut ps s (t.usage f sl n up) := by
  cases up <;> exact partsBut_st (partsBut_st h _ _ _) _ _ _

theorem usage_fields {fs : List Fld} {s t : State} (h : fieldsBut fs s t) {f : Fld} (hf : f ∈ fs) (sl n : Nat) (up : Bool) : fieldsBut fs s (t.usage f sl n up) := by
  cases up <;> exact fieldsBut_st (fieldsBut_st h hf) hf

@[simp] theorem usage_host (s : State) (f : Fld) (sl n : Nat) (up : Bool) : (s.usage f sl n up).host = s.host := by cases up <;> rfl
@[simp] theorem usage_tables (s : State) (f : Fld) (sl n : Nat) (up : Bool) : (s.usage f sl n up).tables = s.tables := by cases up <;> rfl
@[simp] theorem usage_tblAt (s : State) (f : Fld) (sl n : Nat) (up : Bool) (c : Bool) (k : List Nat) : (s.usage f sl n up).tblAt c k = s.tblAt c k := by
  cases up <;> rfl

theorem rd_usage (s : State) (f g : Fld) (sl n : Nat) (jx : List Nat) (up : Bool) :
    (s.usage f sl n up).rd g jx = if g = f ∧ (jx = [0, sl] ∨ jx = [1, sl]) then
      (if up then s.rd f jx + n else s.rd f jx - n) % 2 ^ f.info.w else s.rd g jx := by
  unfold State.usage halves
  simp only [List.foldl_cons, List.foldl_nil]
  have e0 : Half.n .E = 0 := rfl
  have e1 : Half.n .W = 1 := rfl
  rw [e0, e1]
  by_cases hg : g = f
  · subst hg
    by_cases h0 : jx = [0, sl]
    · subst h0; cases up <;> simp [rd_bump, rd_lower]
    · by_cases h1 : jx = [1, sl]
      · subst h1; cases up <;> simp [rd_bump, rd_lower]
      · cases up <;> simp [rd_bump, rd_lower, h0, h1]
  · cases up <;> simp [rd_bump, rd_lower, hg]

theorem setPlog_parts {ps : List Part} {s t : State} (h : partsBut ps s t) (ht : Part.tables ∈ ps) (sl : Nat) (l : List LogW) : partsBut ps s (t.setPlog sl l) :=
  partsBut_st (partsBut_st (partsBut_set_tables h ht _) _ _ _) _ _ _

theorem setPlog_fields {fs : List Fld} {s t : State} (h : fieldsBut fs s t) (hf : .SLC_USAGE_log_used ∈ fs) (sl : Nat) (l : List LogW) :
    fieldsBut fs s (t.setPlog sl l) := fieldsBut_st (fieldsBut_st (fieldsBut_set_tables h _) hf) hf

theorem setDlog_parts {ps : List Part} {s t : State} (h : partsBut ps s t) (ht : Part.tables ∈ ps) (sl : Nat) (l : List LogW) : partsBut ps s (t.setDlog sl l) :=
  partsBut_set_tables h ht _

theorem setDlog_fields {fs : List Fld} {s t : State} (h : fieldsBut fs s t) (sl : Nat) (l : List LogW) : fieldsBut fs s (t.setDlog sl l) := h

@[simp] theorem setPlog_host (s : State) (sl : Nat) (l : List LogW) : (s.setPlog sl l).host = s.host := rfl
@[simp] theorem setDlog_host (s : State) (sl : Nat) (l : List LogW) : (s.setDlog sl l).host = s.host := rfl
@[simp] theorem setPlog_tblAt (s : State) (sl : Nat) (l : List LogW) (c : Bool) (k : List Nat) : (s.setPlog sl l).tblAt c k = s.tblAt c k := rfl
@[simp] theorem setDlog_tblAt (s : State) (sl : Nat) (l : List LogW) (c : Bool) (k : List Nat) : (s.setDlog sl l).tblAt c k = s.tblAt c k := rfl
@[simp] theorem setPlog_plog (s : State) (sl : Nat) (l : List LogW) : (s.setPlog sl l).plog sl = l := by
  show SMap.getD (SMap.put _ _ _ _) _ _ = l
  simp [SMap.getD_put]
@[simp] theorem setDlog_plog (s : State) (sl sl' : Nat) (l : List LogW) : (s.setDlog sl l).plog sl' = s.plog sl' := rfl
@[simp] theorem setDlog_rd (s : State) (sl : Nat) (l : List LogW) (f : Fld) (ix : List Nat) : (s.setDlog sl l).rd f ix = s.rd f ix := rfl

theorem rd_setPlog (s : State) (sl : Nat) (l : List LogW) {f : Fld} (ix : List Nat) (h : f ≠ .SLC_USAGE_log_used) : (s.setPlog sl l).rd f ix = s.rd f ix := by
  unfold State.setPlog halves
  simp only [List.foldl_cons, List.foldl_nil]
  rw [rd_st_of_ne _ _ _ _ h, rd_st_of_ne _ _ _ _ h]
  rfl

theorem rd_setPlog_log (s : State) (sl : Nat) (l : List LogW) (h : Half) : (s.setPlog sl l).rd .SLC_USAGE_log_used [h.n, sl] = l.length % 2 ^ 17 := by
  have w : Fld.SLC_USAGE_log_used.info.w = 17 := rfl
  unfold State.setPlog halves
  cases h <;> simp [rd_st, Half.n, w]

@[simp] theorem logWrite_host (s : State) (sl : Nat) (w : LogW) : (s.logWrite sl w).host = s.host := rfl
@[simp] theorem logWrite_tblAt (s : State) (sl : Nat) (w : LogW) (c : Bool) (k : List Nat) : (s.logWrite sl w).tblAt c k = s.tblAt c k := rfl
@[simp] theorem logWrite_plog (s : State) (sl : Nat) (w : LogW) : (s.logWrite sl w).plog sl = s.plog sl ++ [w] := by
  simp [State.logWrite]

theorem logWrite_parts {ps : List Part} {s t : State} (h : partsBut ps s t) (ht : Part.tables ∈ ps) (sl : Nat) (w : LogW) :
    partsBut ps s (t.logWrite sl w) := setDlog_parts (setPlog_parts h ht _ _) ht _ _

theorem logWrite_fields {fs : List Fld} {s t : State} (h : fieldsBut fs s t) (hf : .SLC_USAGE_log_used ∈ fs) (sl : Nat) (w : LogW) :
    fieldsBut fs s (t.logWrite sl w) := setDlog_fields (setPlog_fields h hf _ _) _ _

theorem rd_logWrite (s : State) (sl : Nat) (w : LogW) {f : Fld} (ix : List Nat) (h : f ≠ .SLC_USAGE_log_used) : (s.logWrite sl w).rd f ix = s.rd f ix :=
  rd_setPlog _ _ _ _ h

theorem tblAt_congr {s t : State} (h : t.tables = s.tables) (c : Bool) (k : List Nat) : t.tblAt c k = s.tblAt c k := by
  unfold State.tblAt
  rw [h]

theorem plog_congr {s t : State} (h : t.tables.plog = s.tables.plog) (sl : Nat) : t.plog sl = s.plog sl := by
  unfold State.plog
  rw [h]

@[simp] theorem settle_tblAt (s : State) (c : Bool) (k : List Nat) : (settle s).tblAt c k = s.tblAt c k := rfl
@[simp] theorem settle_plog (s : State) (sl : Nat) : (settle s).plog sl = s.plog sl := rfl
@[simp] theorem completeX_tblAt (s : State) (d : Hdr) (st a r : Nat) (ext : Option (List Byte)) (c : Bool) (k : List Nat) :
    (s.completeX d st a r ext).tblAt c k = s.tblAt c k := tblAt_congr (completeX_tables ..) c k
@[simp] theorem completeX_plog (s : State) (d : Hdr) (st a r : Nat) (ext : Option (List Byte)) (sl : Nat) :
    (s.completeX d st a r ext).plog sl = s.plog sl := plog_congr (by rw [completeX_tables]) sl
@[simp] theorem tblPut_plogOf (s : State) (tcam : Bool) (place : List Nat) (e : Option Ent) (sl : Nat) : (s.tblPut tcam place e).plog sl = s.plog sl :=
  plog_congr (tblPut_plog ..) sl
@[simp] theorem usage_plog (s : State) (f : Fld) (sl n : Nat) (up : Bool) (x : Nat) : (s.usage f sl n up).plog x = s.plog x := plog_congr (by rw [usage_tables]) x

/-- What freeing an occupied place does. -/
theorem tblFree_eq {s : State} {tcam : Bool} {place : List Nat} {e : Ent} (h : s.tblAt tcam place = some e) :
    s.tblFree tcam place = (s.usage (if tcam then .SLC_USAGE_tcam_used else .SLC_USAGE_em_used) e.slice (if tcam ∧ e.wide then 2 else 1) false).tblPut tcam place none := by
  unfold State.tblFree
  rw [h]
  cases tcam <;> simp

/-- The entry that a descriptor addresses is the one at its place (R83). -/
theorem tcamTarget_tblAt {s : State} {m : Config.TableMap} {sl i : Nat} {place : List Nat} {e : Ent} (h : s.tcamTarget m sl i = some (place, e)) :
    s.tblAt true place = some e := by
  unfold State.tcamTarget at h
  split at h
  · rename_i x hx
    split at h
    · simp only [Option.some.injEq, Prod.mk.injEq] at h
      obtain ⟨rfl, rfl⟩ := h
      exact hx
    · simp at h
  · simp at h

theorem emHits_tblAt {s : State} {m : Config.TableMap} {sl key : Nat} {x : List Nat × Ent} (h : x ∈ s.emHits m sl key) : s.tblAt false x.1 = some x.2 := by
  unfold State.emHits at h
  rw [List.mem_filterMap] at h
  obtain ⟨w, _, h⟩ := h
  dsimp only at h
  split at h
  · rename_i y hy
    split at h
    · simp only [Option.some.injEq] at h
      subst h
      exact hy
    · simp at h
  · simp at h

/-- The entry that a descriptor addresses among those it has read is one of them (R83). -/
theorem emFirst_mem {l : List (List Nat × Ent)} {x : List Nat × Ent} (h : emFirst l = some x) : x ∈ l := by
  unfold emFirst at h
  split at h
  · rename_i y hy
    cases h
    exact List.mem_of_find?_eq_some hy
  · exact List.mem_of_mem_head? h

/-- A transfer of an engine is counted, and does nothing else. -/
theorem Reports.dma {s t : State} (h : Reports s t) (x : Half) (ev : PmcEv) (mem : Nat) (addr : List Nat) (cls : Nat) :
    Reports s (t.dma x ev mem addr cls) := by
  unfold State.dma
  exact Reports.ite _ (h.pmc _ _ _ _) h

/-- A word is read where no word has an error. -/
theorem eccReadAt_clean {s : State} (hp : s.ras.poison = []) (h : Half) (cls inst : Nat) (addr : List Nat) (e : PmcEv) :
    s.eccReadAt h cls inst addr e = (false, s) := by
  unfold State.eccReadAt State.eccRead
  simp [hp, SMap.getD]

/-- Where no word has an error, a way is listed, and its reading is reported and does nothing else. -/
theorem emWay_clean {s : State} {m : Config.TableMap} {key w : Nat} (hp : s.ras.poison = []) (d : Hdr) {a : List (List Nat) × State}
    (ha : Reports s a.2) : (State.emWay d m key a w).1 = a.1 ++ [[stageOf m.stage, emBucket m key, w]] ∧ Reports s (State.emWay d m key a w).2 := by
  unfold State.emWay
  extract_lets h p ev x
  have k : Reports s (a.2.dma h ev 1 (tblAddr false p) 0) := ha.dma _ _ _ _ _
  have c : x = (false, a.2.dma h ev 1 (tblAddr false p) 0) := eccReadAt_clean (by rw [k.ras, hp]) _ _ _ _ _
  rw [c]
  dsimp only
  exact ⟨rfl, k⟩

/-- Where no word has an error, the ways read are all that hold the key, and the reading is reported and does nothing else (R83, R92, R404). -/
theorem emRead_clean {s : State} (hp : s.ras.poison = []) (d : Hdr) (m : Config.TableMap) (key : Nat) :
    (s.emRead d m key).1 = s.emHits m d.slice key ∧ Reports s (s.emRead d m key).2 := by
  have fold : ∀ (l : List Nat) (a : List (List Nat) × State), Reports s a.2 →
      (l.foldl (State.emWay d m key) a).1 = a.1 ++ l.map (fun w => [stageOf m.stage, emBucket m key, w])
        ∧ Reports s (l.foldl (State.emWay d m key) a).2 := by
    intro l
    induction l with
    | nil => intro a ha; exact ⟨by simp, ha⟩
    | cons w l ih =>
      intro a ha
      obtain ⟨e1, e2⟩ := emWay_clean (m := m) (key := key) (w := w) hp d ha
      obtain ⟨k1, k2⟩ := ih _ e2
      rw [List.foldl_cons]
      refine ⟨k1.trans ?_, k2⟩
      simp [e1]
  obtain ⟨e1, e2⟩ := fold (List.range 4) ([], s) (Reports.refl s)
  unfold State.emRead
  dsimp only
  refine ⟨?_, e2⟩
  rw [e1, List.nil_append, List.filter_eq_self]
  intro x hx
  unfold State.emHits at hx
  obtain ⟨w, hw, hx⟩ := List.mem_filterMap.1 hx
  dsimp only at hx
  split at hx
  · split at hx
    · simp only [Option.some.injEq] at hx
      subst hx
      simp only [List.contains_iff_mem, List.mem_map]
      exact ⟨w, hw, rfl⟩
    · simp at hx
  · simp at hx

/-- A table update over a crossing that is free is done (R411). -/
theorem tblSend_free {s : State} {h : Half} (hx : s.xingBusy h 3 0 = false) (op : State → State) : s.tblSend h op = op s := by
  unfold State.tblSend State.xingSend
  simp [hx]

/-- One that meets a value not acknowledged is lost there (R412). -/
theorem tblSend_busy {s : State} {h : Half} (hx : s.xingBusy h 3 0 = true) (op : State → State) : s.tblSend h op = s.xingLost h 3 := by
  unfold State.tblSend State.xingSend
  simp [hx]

/-- What a write of a table word for a descriptor does where its crossing is free: the word, and nothing but reports. -/
theorem tblStore_free {s : State} {d : Hdr} (hx : s.xingBusy (s.ringHalf d) 3 0 = false) (tcam : Bool) (place : List Nat) (e : Ent) :
    Reports (s.tblPut tcam place (some e)) (s.tblStore d tcam place e) := by
  unfold State.tblStore State.tblDma
  rw [tblSend_free hx]
  exact (Reports.refl _).dma _ _ _ _ _

end Sys2Proof.Machine
end

