-- ==== Sys2Proof/Tests/Slice0.lean ====
section
/-!
SUPPORT. The model's own tests: refused ill-formed commands, small steps with results that the spec or a published standard gives, and for every statement with hypotheses a state and operands that meet each of its cases.
-/

set_option Elab.async false
set_option linter.unusedVariables false
set_option linter.unusedSimpArgs false

open Sys2Proof Sys2Proof.Machine

namespace Sys2Proof.Tests

/-- A header that is well formed. -/
def w0 : Hdr := ⟨0, 0, 0, 0, false, false, false, false, 0, 0, 0, 0, none⟩
def k0 : KeyArg := ⟨0, 0, 0⟩

/-- Headers and keys with one field out of its range. -/
theorem test_wf_headers_refused :
    (([{ w0 with fn := 65 }, { w0 with ring := 4 }, { w0 with cnt := 2 ^ 32 }, { w0 with tag := 2 ^ 32 }, { w0 with slice := 256 }, { w0 with token := 65536 },
        { w0 with haddr := 2 ^ 64 }, { w0 with hlen := 2 ^ 32 }] : List Hdr).map Instr.nop
      ++ ([{ k0 with kind := 256 }, { k0 with scope := 2 ^ 24 }, { k0 with addr := 2 ^ 128 }] : List KeyArg).map (Instr.fdbDelete w0)).all (fun c => !c.wf) = true := by
  decide +kernel

/-- Descriptor arguments out of their fields. -/
theorem test_wf_descriptors_refused :
    ([.tblWrite w0 256 0 0, .tblWrite w0 0 256 0, .tblWrite w0 0 0 (2 ^ 32), .tblRead w0 256 0 0, .tblRead w0 0 (2 ^ 32) 0, .tblRead w0 0 0 (2 ^ 160),
      .sliceQuota w0 (2 ^ 32) 0, .sliceQuota w0 0 (2 ^ 32), .vniMapWrite w0 (2 ^ 32), .vniMapDelete w0 (2 ^ 32), .progLoad w0 256, .fdbInsert w0 k0 65536 false false 0,
      .fdbInsert w0 k0 0 false false (2 ^ 32), .fdbRead w0 256 k0 0, .fdbRead w0 0 k0 (2 ^ 32), .lock w0 (2 ^ 32), .unlock w0 (2 ^ 32), .fdbWayWrite w0 (2 ^ 32) 0,
      .fdbWayWrite w0 0 256, .fdbFlush w0 false false false false (2 ^ 24) 0, .fdbFlush w0 false false false false 0 65536, .bufPartSet w0 [], .bufPartSet w0 (List.replicate 8 (2 ^ 32)),
      .portFlush w0 65536, .policerSet w0 65536 0 0 0 0 false false false 0, .policerSet w0 0 (2 ^ 32) 0 0 0 false false false 0, .policerSet w0 0 0 (2 ^ 32) 0 0 false false false 0,
      .policerSet w0 0 0 0 (2 ^ 32) 0 false false false 0, .policerSet w0 0 0 0 0 (2 ^ 32) false false false 0, .policerSet w0 0 0 0 0 0 false false false 256,
      .gateLoad w0 65536 0 0 0 0, .gateLoad w0 0 65536 0 0 0, .gateLoad w0 0 0 (2 ^ 64) 0 0, .gateLoad w0 0 0 0 (2 ^ 32) 0, .gateLoad w0 0 0 0 0 (2 ^ 32),
      .epochLoad w0 (2 ^ 64) 0 0 0 0 0, .epochLoad w0 0 (2 ^ 32) 0 0 0 0, .epochLoad w0 0 0 (2 ^ 32) 0 0 0, .epochLoad w0 0 0 0 65536 0 0, .epochLoad w0 0 0 0 0 65536 0,
      .epochLoad w0 0 0 0 0 0 65536, .toaGroupClose w0 65536, .toaMemberSet w0 65536 0, .toaMemberSet w0 0 65536, .toaGroupRead w0 65536, .cntSnap w0 256, .patchArm w0 256,
      .hamRead w0 (2 ^ 32) 0, .hamRead w0 0 65536, .hamWrite w0 (2 ^ 32) 0 0, .hamWrite w0 0 65536 0, .hamWrite w0 0 0 256, .attest w0 [], .idCertRead w0 256, .trbSelftest w0 256 0,
      .trbSelftest w0 0 256, .bankRetire w0 256 0 0, .bankRetire w0 0 256 0, .bankRetire w0 0 0 65536, .linkRetrain w0 256 0, .linkRetrain w0 0 256, .eccInject w0 256 0 0 0 0,
      .eccInject w0 0 256 0 0 0, .eccInject w0 0 0 65536 0 0, .eccInject w0 0 0 0 (2 ^ 32) 0, .eccInject w0 0 0 0 0 256, .portSet w0 65536 0 0 0 0, .portSet w0 0 256 0 0 0,
      .portSet w0 0 0 256 0 0, .portSet w0 0 0 0 256 0, .portSet w0 0 0 0 0 256, .laneTest w0 65536 0 0 0 false, .laneTest w0 0 65536 0 0 false, .laneTest w0 0 0 256 0 false,
      .laneTest w0 0 0 0 256 false, .portRestart w0 65536] : List Instr).all (fun c => !c.wf) = true := by
  decide +kernel

/-- Events that name what the device does not have, or a value that does not fit. -/
theorem test_wf_events_refused :
    ([.doorbell 65 0 0, .doorbell 0 64 0, .doorbell 0 0 (2 ^ 32), .descriptorFetch 65 0 none, .descriptorFetch 0 4 none, .descriptorFetch 0 0 (some []), .descriptorStart 65 0 0,
      .descriptorStart 0 4 0, .descriptorStart 0 0 (2 ^ 32), .ringCfgWrite 65 0 0, .ringCfgWrite 0 64 0, .ringCfgWrite 0 0 (2 ^ 64), .txEntry 65 0 none none, .txEntry 0 64 none none,
      .txEntry 0 0 (some []) none, .rxDelivery 16 [], .rxDelivery 0 [2 ^ 64], .ringStalled 65 0, .ringStalled 0 64, .msixHoldoffEnd 65 0, .msixHoldoffEnd 0 1024, .flr 65,
      .configRequest 65 0 none, .configRequest 0 4096 none, .configRequest 0 0 (some (2 ^ 32)), .frameReceive 1024 [] false 0, .frameReceive 0 [] false (2 ^ 17),
      .codewordDecode 1024 0 false 0, .codewordDecode 0 65536 false 0, .codewordDecode 0 0 false (2 ^ 32), .hiSer 1024, .parse 32, .pfcRefresh 1088 0, .pfcRefresh 0 8,
      .pfcStorm 1088 0, .pfcStorm 0 8, .schedulerSelect 1088, .launchTest 1088, .pfcRx 1088 0 (List.replicate 8 0), .pfcRx 0 65536 (List.replicate 8 0), .pfcRx 0 0 [],
      .pfcRx 0 0 (List.replicate 8 65536), .pauseTimerExpiry 1088 0, .pauseTimerExpiry 0 8, .transmit 0 (2 ^ 17), .tioEdge 8 true, .tioCapPop 8, .tioOutputEdge 8, .timIncWrite (2 ^ 64),
      .timCfgWrite (2 ^ 64), .agerVisit 1048576, .lockLeaseExpiry 1048576, .lockRetry 65 0 0, .lockRetry 0 4 0, .lockRetry 0 0 (2 ^ 32), .genRetire 64, .portAcquired 1024,
      .portAligned 1024, .portLinkLoss 1024 0, .portLinkLoss 0 8, .debounceExpiry 1024, .flushFenceRetire 1088, .gateListStart 1088, .toaData 32, .toaAck 32, .toaResultEmit 32,
      .toaStallTimer 4096 0, .toaRetainExpiry 4096 0, .toaCloseDone 4096, .rcCounterRead ⟨65, 0⟩ 0 0 false, .rcCounterRead ⟨0, 65536⟩ 0 0 false, .rcCounterRead ⟨0, 0⟩ 65536 0 false, .rcCounterRead ⟨0, 0⟩ 0 (2 ^ 32) false,
      .cloveDispatch .E 16, .microwordExecute .E 16, .irqLatch .E 16 0, .irqLatch .E 0 8, .routineTimer .E 16, .engineRestart .E 16, .ownerClaim .E (2 ^ 32) 0, .ownerClaim .E 0 2,
      .mirroredWrite 35, .gulubLinkFail 16 0, .gulubLinkFail 0 256, .flitCrcError 16 0, .flitCrcError 0 256, .autoRetrain 7, .autoRetrain 14, .linkTrainDone 14 0 true 0,
      .linkTrainDone 8 256 true 0, .linkTrainDone 8 0 true 4096, .linkRecentre 16 0, .linkRecentre 0 256, .scrub .E 8 0 0 0, .scrub .E 0 256 0 0, .scrub .E 0 0 65536 0,
      .scrub .E 0 0 0 (2 ^ 32), .ueRepair .E 8 0 0 0, .ueRepair .E 0 256 0 0, .ueRepair .E 0 0 65536 0, .ueRepair .E 0 0 0 (2 ^ 32), .xingStuck .E 8 0, .xingStuck .E 0 8,
      .xingReset .E (2 ^ 64), .fdbSeedWrite .E (2 ^ 64), .protectedCopyRegWrite 4 .E 0 0, .protectedCopyRegWrite 0 .E 65536 0, .protectedCopyRegWrite 0 .E 0 (2 ^ 64),
      .registerWrite 65 0 0 0 true 0, .registerWrite 0 65536 0 0 true 0, .registerWrite 0 0 65536 0 true 0, .registerWrite 0 0 0 (2 ^ 32) true 0, .registerWrite 0 0 0 0 true (2 ^ 64),
      .registerWrite 0 0 0 0 false (2 ^ 32), .supplyInvalid 9, .railBelowRange 9, .resetEnd false false 4 0, .resetEnd false false 0 (2 ^ 6184), .selftestDone 256 0, .selftestDone 0 256,
      .forwardingStart (2 ^ 32), .thermSample 32768 0 0 false, .thermSample 0 (-32769) 0 false, .thermSample 0 0 32768 false, .avsReadback .E 65536 0, .avsReadback .E 0 65536] :
      List Instr).all (fun c => !c.wf) = true := by
  decide +kernel

/-- The check values of CRC-32C and of CRC-32 over the digits 1 to 9. -/
def digits : List Byte := [0x31, 0x32, 0x33, 0x34, 0x35, 0x36, 0x37, 0x38, 0x39]
theorem test_crc32c_check_value : crc32c 0 digits = 0xE3069283 := by decide +kernel
theorem test_fcs_check_value : fcs digits = leBytes 4 0xCBF43926 := by decide +kernel

/-- SHA-384 of "abc" (FIPS 180-4). -/
theorem test_sha384_abc : digestNat (sha384 [0x61, 0x62, 0x63])
    = leNat (beBytes 48 0xcb00753f45a35e8bb5a03d699ac65007272c32ab0eded1631a8b605a43ff5bed8086072ba1e7cc2358baeca134c825a7) := by decide +kernel

/-- The two commands of a queue run in order: the write of the ring context, then the doorbell (R332, R335). -/
def ringOn : State := { State.reset with pending := [.ringCfgWrite 0 0 (6 + 2 ^ 5), .doorbell 0 0 3], pkg := { State.reset.pkg with resetEnded := true } }
def after (o : Host.Outcome State Fault Refusal) : State := match o with | .next t => t | _ => State.reset
theorem test_queue_order : ((after (step (after (step ringOn)))).swIdx 0 0, (after (step (after (step ringOn)))).pending) = (3, []) := by decide +kernel

/-- With no command, one nanosecond passes (log entry 5). -/
theorem test_idle_tick : (after (step State.reset)).time.elapsed = 1 := by decide +kernel

/-- A write at a block that does not exist stops by name. -/
theorem test_no_such_block : exec (.registerWrite 0 8 2 4096 false 0) State.reset = .fault .noSuchBlock := rfl

/-- Before start-up ends no descriptor is legal (log entry 7); NOP completes STATE_REJECT. -/
theorem test_nop_before_startup : ((after (exec (.nop w0) State.reset)).host.cpls.map (fun c => (c.status, c.st))) = [(1, 0)] := by decide +kernel

/-- The worked example of R4: port 740 lies in pipe P23 and half West; its local index is 228. -/
theorem test_port_740 : (portPipe 740, portHalf 740, localIdx 740) = (23, .W, 228) := by decide

/-- The worked example of R82: F, H and J meet E1, E2 and E3 before the retirement and after it. -/
def e1 : Ent := ⟨0, 0, 0, 0, 0, 0, 0xFE, false, true, 0, false, 0⟩
def e2 (st : Bool) : Ent := ⟨0, 0, 0, 0, 0, 0xFF, 0xFF, false, st, 0, false, 0⟩
def e3 : Ent := ⟨0, 0, 0, 0, 0, 0, 0, true, false, 0, false, 0⟩
theorem test_windows_of_slice_s07 :
    [e1, e2 false, e3].map (fun e => [0x2FE, 0x2FF, 0x300].map (windowHolds e 0x2FE)) = [[true, false, false], [false, true, false], [false, false, true]]
      ∧ [e2 true, e3].map (fun e => [0x2FF, 0x300].map (windowHolds e 0x2FF)) = [[true, false], [false, true]] := by decide +kernel

/-- The worked example of R136: alpha 1/2 of 240,299 free cells. -/
theorem test_alpha : alphaOf 6 240299 = 120149 := by decide

/-- The owner of the bucket in the example after R111, and the hashed byte string of its key in the order of R95. -/
theorem test_fdb_bucket : bucketOwner 0x4C2B5 = .W ∧ (FKey.bytes ⟨5, 0, 0x64, 0x021A2B3C4D5E⟩).map BitVec.toNat = [5, 0, 0, 0, 0x64, 0, 0, 0, 0, 0, 0, 0, 0, 0, 0, 0x02, 0x1A, 0x2B, 0x3C, 0x4D, 0x5E] := by decide +kernel

/-- The worked example of R187: a capture at 1,000 s + 500,000,123.25 ns and bit position 3,200 of port 740. -/
def p740 : State := { State.reset with lanes := { State.reset.lanes with ports := [([740], ⟨4, 0, true, false, false, false⟩)] } }
theorem test_ts_in : tsIn (p740.rxTime 740 3200 (1000 * tsSec + 500000123 * tsNs + tsNs / 4)) = 0x03E8 * 2 ^ 48 + 0x1DCD6535 * 2 ^ 16 + 0x8985 := by decide +kernel

/-- The worked example of R209: the start of a list that is too early is searched. -/
theorem test_gate_start :
    startOf (5000 * 1000000000) 250000 (5000 * tsSec + 123456789 * tsNs) = (5000 * 1000000000 + 123500000, 494, true) := by decide +kernel

/-- The worked example of R212: 9,020 counted bytes take 90.2 ns at 800 Gb/s. -/
theorem test_tx_time : txTime 9020 800 * 10 = 902 * tuNs := by decide +kernel

/-- The worked example of R250 and R252: a contribution that saturates, and the rounded sum. -/
theorem test_toanton_group_12 :
    (convertElem (-20) 50 (decodeElem 0 0xCF32D05E), convertElem (-20) 50 (decodeElem 0 0x4B800000), encodeElem 0 (-20) (-1125899904745471))
      = ((-1125899906842623, flSat), (17592186044416, 0), (0xCE800000, flOutInexact)) := by decide +kernel

/-- The worked example of R283, with units of 8 ns. -/
theorem test_hist_bins : [20, 350, 1234, 2000000].map (fun l => histBin (l / 8)) = [2, 17, 24, 63] := by decide +kernel

/-- The worked example of R317: the bank and the row of an address. -/
theorem test_ham_address : (hamBank 0x123458, hamRow 0x123458) = (11, 0x48D) := by decide

/-- The worked example of R333: the slots and the phases of counts 62 to 65 in a ring of 64. -/
theorem test_phases : [62, 63, 64, 65].map (fun n => (n % State.reset.ringSize 8 4, State.reset.phase 8 4 n)) = [(62, 1), (63, 1), (0, 0), (1, 0)] := by decide +kernel

/-- The worked example of R395: a PREPARE sent at 399.2 microseconds names the edge 400.384 microseconds. -/
theorem test_step_edge :
    (({ State.reset with time := { State.reset.time with elapsed := 399200 } } : State).request .hostClaim none 0).ras.steps.map (fun p => p.edge) = [400384] := by decide +kernel

/-- The worked example of R428: the entry of lane 516 is accepted. -/
theorem test_eq_entry : eqEntryOk [0x04, 0x02, 0x1D, 0x00, 0x12, 0x02, 0xFC, 0xF6, 0x2C, 0xFC, 0x0E, 0x06, 0xFE, 0x05, 0x09, 0x00] = true := by decide +kernel

/-- Ties round to even (R250): 5 / 2 and 7 / 2. -/
theorem test_round_half_even : (roundHE 5 2, roundHE 7 2) = (2, 4) := by decide

/-- 1.0, the largest finite value and NaN of format E4M3 (R240). -/
theorem test_e4m3 : (decodeElem 2 0x38, decodeElem 2 0x7E, decodeElem 2 0x7F) = (.num false 8 (-3), .num false 14 5, .nan) := by decide

/-- Hosted mode, the bridge up, East the owner. -/
def hosted : State :=
  ({ State.reset with pkg := { State.reset.pkg with valid := 0x1FF, resetEnded := true } } : State).sts [(.SYS_MODE_mode, [0], 3), (.SYS_MODE_base_mode, [0], 3), (.RAS_OWN_STAT_bridge_up, [0], 1), (.RAS_OWN_STAT_bridge_up, [1], 1),
    (.RAS_OWN_STAT_state, [0], 0), (.RAS_OWN_STAT_state, [1], 1), (.RAS_OWN_STAT_term, [0], 1), (.RAS_OWN_STAT_term, [1], 1), (.GLB_LINK_STAT_state, [10, 0], 2), (.GLB_LINK_STAT_state, [10, 1], 2)]

/-- A descriptor of PF0 that names halves and a host buffer. -/
def hd (e w : Bool) (slice token : Nat) (b : List Byte) : Hdr := ⟨0, 0, 0, 7, false, false, e, w, slice, token, 0, b.length, some b⟩

/-- A descriptor of PF0 without arguments. -/
def d0 : Hdr := hd false false 0 0 []

/-- A buffer of zeros. -/
def z (n : Nat) : List Byte := List.replicate n 0

/-- Hosted mode with some registers set. -/
def hs (ws : List (Fld × List Nat × Nat)) : State := hosted.sts ws

/-- A state that holds one frame. -/
def withFr (s : State) (f : Frame) : State := { s with frames := [f], nextId := f.id + 1 }

/-- An exact-match table and a TCAM table of a program. -/
def tm0 : Config.TableMap := ⟨1, 0, 2, 16, 0, 64, 0, 0⟩
def tm1 : Config.TableMap := ⟨2, 1, 2, 160, 0, 64, 0, 0⟩

/-- A state whose active program has both tables. -/
def hT (ws : List (Fld × List Nat × Nat)) : State := { hs ws with progA := { Prog.empty with loaded := true, tmap := [tm0, tm1] } }

/-- An entry of `tm0`, and a state that holds it. -/
def ent (lo : Nat) (o st : Bool) : Ent := ⟨0, 0, 0, 0, 0, lo, 0, o, st, 1, false, 0⟩
def hE (e : Ent) : State := { hT [] with tables := { (hT []).tables with em := [([stageOf 2, emBucket tm0 0, 0], e)] } }

/-- A small Izbe object of one section type. -/
def izbe (t n : Nat) : List Byte :=
  let b := leBytes 4 0x31425A49 ++ leBytes 4 1 ++ leBytes 4 (80 + n * secSize t) ++ leBytes 4 1 ++ leBytes 4 0x00090204 ++ z 44 ++ leBytes 2 t ++ leBytes 2 255
    ++ leBytes 4 80 ++ leBytes 4 (n * secSize t) ++ leBytes 4 n ++ z (n * secSize t)
  overlay b 20 (leBytes 4 (crc32c 0 b))

/-- An FDB key, its bucket, an entry, and a state that holds it. -/
def ka : KeyArg := ⟨0, 0, 5⟩
def fk : FKey := ⟨0, 0, 0, 5⟩
def fe : FdbEnt := ⟨fk, 0, 3, 0, 0, 0, false, false, true⟩
def fb : Nat := hosted.fdbBucket .E fk
def hF (ws : List (Fld × List Nat × Nat)) : State :=
  { hs ws with fdb := { hosted.fdb with ents := [([(bucketOwner fb).n, fb, 0], fe)] } }

/-- A bucket locked by a host under token 9. -/
def hL (b : Nat) (ws : List (Fld × List Nat × Nat)) : State := { hs ws with fdb := { hosted.fdb with locks := [([(bucketOwner b).n, b], ⟨true, 9, 0, 100⟩)] } }

/-- The table map of an object with one section record. -/
theorem prog_tmap (p : Prog) (h : progParse (izbe 8 1) = some p) : p.tmap = [Config.decodeTableMap (z 32)] := by
  have hr : secRecords (izbe 8 1) ((List.range (le (izbe 8 1) 12 2)).map (secAt (izbe 8 1))) 8 = [(255, z 32)] := by decide +kernel
  unfold progParse at h
  simp only [hr] at h
  split at h
  · simp only [Option.some.injEq] at h; rw [← h]; rfl
  · exact absurd h (by simp)

/-- A TxTs request, a Toanton group of two members in format INT32, a block of it, and a frame for unit 0. -/
def tx0 : TxTs := ⟨3, 5, 77⟩
def tm : Member := ⟨1, 0, 0, false, 0x0A000001, 9⟩
def tg (b : SMap Blk) : Grp :=
  { Grp.reset with st := 1, inc := 1, members := 2, fmtIn := 4, fmtOut := 4, blkElems := 4, winTop := 40, maxBlocks := 2, stallUs := 1, mem := [([0], tm)], blks := b }
def tk : Blk := ⟨.accum, [], [], 1, 0, [7], [], 0, false⟩
def tc : Blk := ⟨.cached, [], [], 1, 0, [], leBytes 4 7, 0, false⟩
def tf (op n : Nat) : Frame :=
  { Frame.blank with
    loc := .toa
    bytes := z 12 ++ beBytes 2 0x0800 ++ [0x45] ++ z 8 ++ [17, 0, 0] ++ beBytes 4 0x0A000001 ++ z 4 ++ z 2 ++ beBytes 2 10768 ++ beBytes 2 (24 + 4 * n) ++ z 2
      ++ [BitVec.ofNat 8 (16 + op), 0x44, 0, 3, 0, 1, 0, 0, 0, 0, 0, 2] ++ beBytes 2 n ++ z 2 ++ leBytes 4 9 ++ z 4 }
def hG (g : Grp) : State := { hs [(.TOA_CFG_en, [0], 1), (.TOA_SLICE_CFG_max_groups, [0, 0], 9), (.TOA_SLICE_CFG_max_members, [0, 0], 9),
  (.TOA_SLICE_CFG_max_granules, [0, 0], 9)] with toa := { hosted.toa with grp := [([3], g)] } }

/-- A group's parameter block with one member. -/
def tb : List Byte := [3, 0, 0, 0, 1, 0, 0x44, 0, 4, 0, 0, 0, 10, 0, 2, 0, 1] ++ z 79

/-- Rings of PF0 and VF 1 in use: one descriptor, one transmit entry and five receive slots wait. -/
def hR (ws : List (Fld × List Nat × Nat)) : State :=
  { hs ([(.HST_RING_CFG_en, [0, 0], 1), (.HST_RING_CFG_en, [0, 4], 1), (.HST_RING_CFG_en, [0, 16], 1), (.HST_RING_CFG_en, [0, 32], 1), (.HST_RING_CFG_en, [0, 48], 1)] ++ ws) with
    host := { hosted.host with swCnt := [([0, 0], 1), ([0, 16], 1), ([0, 32], 5)] } }

/-- A descriptor taken from ring 0 of PF0. -/
def hK (op : Nat) (ws : List (Fld × List Nat × Nat)) : State := { hR ws with host := { (hR ws).host with taken := [⟨d0, op, [], false, .nop d0, false⟩] } }

/-- A port of one lane, and a state that has it configured. -/
def pc : PortCfg := ⟨1, 0, true, false, false, false⟩
def hP (ws : List (Fld × List Nat × Nat)) : State := { hs ws with lanes := { hosted.lanes with ports := [([5], pc)] } }

/-- A full copy of the store and an entry of another word. -/
theorem merge_full (l : List CfgEnt) (h : l = [cfgEnt (leBytes 2 8 ++ leBytes 2 0 ++ leBytes 4 4096 ++ z 8)]) :
    8192 < (l.foldl cfgMerge (List.replicate 8192 ⟨0, 0, 0, false, 0⟩)).length := by
  subst h
  have hn : (cfgEnt (leBytes 2 8 ++ leBytes 2 0 ++ leBytes 4 4096 ++ z 8)).typ = 8 := by decide +kernel
  generalize cfgEnt (leBytes 2 8 ++ leBytes 2 0 ++ leBytes 4 4096 ++ z 8) = e at hn
  rw [List.foldl_cons, List.foldl_nil]
  unfold cfgMerge
  rw [if_neg (by rw [List.any_replicate]; simp [hn]), List.length_append, List.length_replicate]
  show 8192 < 8192 + 1
  decide

/-- A descriptor stands behind nothing on its ring. -/
theorem dueOf {s : State} {c : Instr} {d : Hdr} (h : cmdHdr c = some d) (hs : s.descDue (bareCmd c) d = true) : due s c := by
  intro e he
  rw [h] at he
  cases he
  exact hs

/-- A program without tables chooses no action. -/
theorem choose_empty (s : State) (p : Prog) (pipe stage : Nat) (f : Frame) (h : p.tmap = []) : s.choose p pipe stage f = (none, s) := by
  have hl : ∀ ks, p.lookup stage f ks = none := by
    intro ks
    unfold Prog.lookup
    dsimp only
    rw [Option.map_eq_none_iff, List.findSome?_eq_none_iff]
    intro k _
    cases k.table with
    | none => rfl
    | some id => simp [Prog.table?, h]
  unfold State.choose
  simp only [hl]
  rfl

/-- A triple and its parts. -/
theorem tripleOf {A B C : Type} (c : Prop) [Decidable c] (a x : A × B × C) (h : ¬c) : (x.1, x.2.1, x.2.2) = (if c then a else x) := by rw [if_neg h]

/-- The cases of NopCompletesAndDoesNothing can be met. -/
theorem test_witness_NopCompletesAndDoesNothing :
    (∃ (s : State) (d : Hdr), (due s (.nop d)) ∧ (served s d ⟨0x01, .any, false, true, 0⟩ true (cleanHdr d false false false))) :=
  ⟨hosted, d0, dueOf rfl (by decide +kernel), by decide +kernel⟩

/-- The cases of SliceQuotaAndVniMap can be met. -/
theorem test_witness_SliceQuotaAndVniMap :
    (∃ (s : State) (d : Hdr) (em : Nat) (tcam : Nat), (due s (.sliceQuota d em tcam)) ∧ (served s d ⟨0x14, .config, true, false, 0⟩ true (cleanHdr d true false false && decide (em ≤ 131072) && decide (tcam ≤ 65536))))
    ∧ (∃ (s : State) (d : Hdr) (vni : Nat) (w : Nat), (due s (.vniMapWrite d vni)) ∧ (served s d ⟨0x15, .config, true, false, 0⟩ true (cleanHdr d true false false && decide (vni < 16777216))) ∧ ((s.vniWay vni = some w ∨ (s.vniWay vni = none ∧ (List.range 4).find? (fun w => (s.tables.vni.get? [vniBucket vni, w]).isNone) = some w))))
    ∧ (∃ (s : State) (d : Hdr) (vni : Nat), (due s (.vniMapWrite d vni)) ∧ (served s d ⟨0x15, .config, true, false, 0⟩ true (cleanHdr d true false false && decide (vni < 16777216))) ∧ (s.vniWay vni = none) ∧ ((∀ w, w < 4 → (s.tables.vni.get? [vniBucket vni, w]).isSome = true)))
    ∧ (∃ (s : State) (d : Hdr) (vni : Nat) (w : Nat), (due s (.vniMapDelete d vni)) ∧ (served s d ⟨0x16, .config, true, false, 0⟩ true (cleanHdr d false false false && decide (vni < 16777216))) ∧ (s.vniWay vni = some w))
    ∧ (∃ (s : State) (d : Hdr) (vni : Nat), (due s (.vniMapDelete d vni)) ∧ (served s d ⟨0x16, .config, true, false, 0⟩ true (cleanHdr d false false false && decide (vni < 16777216))) ∧ (s.vniWay vni = none)) :=
  ⟨⟨hosted, d0, 0, 0, dueOf rfl (by decide +kernel), by decide +kernel⟩,
   ⟨hosted, d0, 0, 0, dueOf rfl (by decide +kernel), by decide +kernel⟩,
   ⟨{ hosted with tables := { hosted.tables with vni := [([vniBucket 0, 0], (1, 0)), ([vniBucket 0, 1], (2, 0)), ([vniBucket 0, 2], (3, 0)), ([vniBucket 0, 3], (4, 0))] } }, d0, 0, dueOf rfl (by decide +kernel), by decide +kernel⟩,
   ⟨{ hosted with tables := { hosted.tables with vni := [([vniBucket 0, 0], (0, 0))] } }, d0, 0, ((({ hosted with tables := { hosted.tables with vni := [([vniBucket 0, 0], (0, 0))] } } : State).vniWay (0)).get (by decide +kernel)), dueOf rfl (by decide +kernel), by decide +kernel⟩,
   ⟨hosted, d0, 0, dueOf rfl (by decide +kernel), by decide +kernel⟩⟩

/-- The cases of TableWriteAdd can be met. -/
theorem test_witness_TableWriteAdd :
    (∃ (s : State) (d : Hdr) (id : Nat) (i : Nat) (m : Config.TableMap) (buf : List Byte) (w : Nat), (due s (.tblWrite d 0 id i)) ∧ (served s d ⟨0x10, .config, true, true, 0⟩ (ownSlice d d.slice) (cleanHdr d true false true)) ∧ (s.tableMap? id = some m) ∧ (badIndex m i = false) ∧ (64 ≤ d.hlen) ∧ (d.buf = some buf) ∧ (byteAt buf 48 ≤ 63) ∧ ((s.plog d.slice).length < 65536) ∧ (s.xingBusy (s.ringHalf d) 3 0 = false) ∧ (m.kind = 0) ∧ (s.ras.poison = []) ∧ (le buf 0 20 < 2 ^ m.keyW) ∧ (s.rd .SLC_USAGE_em_used [s.owner.n, d.slice] + 1 ≤ s.rd .SLC_QUOTA_em_quota [s.owner.n, d.slice]) ∧ ((∀ e ∈ s.emHits m d.slice (le buf 0 20), e.2.opn = false)) ∧ ((List.range 4).find? (fun w => (s.tables.em.get? [stageOf m.stage, emBucket m (le buf 0 20), w]).isNone) = some w))
    ∧ (∃ (s : State) (d : Hdr) (id : Nat) (i : Nat) (m : Config.TableMap) (buf : List Byte), (due s (.tblWrite d 0 id i)) ∧ (served s d ⟨0x10, .config, true, true, 0⟩ (ownSlice d d.slice) (cleanHdr d true false true)) ∧ (s.tableMap? id = some m) ∧ (badIndex m i = false) ∧ (64 ≤ d.hlen) ∧ (d.buf = some buf) ∧ (byteAt buf 48 ≤ 63) ∧ ((s.plog d.slice).length < 65536) ∧ (s.xingBusy (s.ringHalf d) 3 0 = false) ∧ (m.kind ≠ 0) ∧ (s.rd .SLC_USAGE_tcam_used [s.owner.n, d.slice] + (if m.kind = 2 then 2 else 1) ≤ s.rd .SLC_QUOTA_tcam_quota [s.owner.n, d.slice]) ∧ (s.tcamBusy (stageOf m.stage) i = false) ∧ ((m.kind = 2 → s.tcamBusy (stageOf m.stage) (i + 1) = false))) :=
  ⟨⟨hT [(.SLC_QUOTA_em_quota, [0, 0], 8), (.SLC_QUOTA_tcam_quota, [0, 0], 8)], (hd false false 0 0 (z 128)), 1, 0, tm0, z 128, (((List.range 4).find? (fun w => ((hT [(.SLC_QUOTA_em_quota, [0, 0], 8), (.SLC_QUOTA_tcam_quota, [0, 0], 8)]).tables.em.get? [stageOf (tm0).stage, emBucket (tm0) (le (z 128) 0 20), w]).isNone)).get (by decide +kernel)), dueOf rfl (by decide +kernel), by decide +kernel⟩,
   ⟨hT [(.SLC_QUOTA_em_quota, [0, 0], 8), (.SLC_QUOTA_tcam_quota, [0, 0], 8)], (hd false false 0 0 (z 128)), 2, 0, tm1, z 128, dueOf rfl (by decide +kernel), by decide +kernel⟩⟩

/-- The cases of TableWriteCloseAndReplace can be met. -/
theorem test_witness_TableWriteCloseAndReplace :
    (∃ (s : State) (d : Hdr) (id : Nat) (i : Nat) (m : Config.TableMap) (buf : List Byte) (tcam : Bool) (lost : Bool) (hit : Option (List Nat × Ent)) (place : List Nat) (e : Ent), (tcam = decide (m.kind ≠ 0)) ∧ (hit = (if m.kind = 0 then emFirst (s.emHits m d.slice (le buf 0 20)) else s.tcamTarget m d.slice i)) ∧ (s.xingBusy (s.ringHalf d) 3 0 = lost) ∧ (due s (.tblWrite d 1 id i)) ∧ (served s d ⟨0x10, .config, true, true, 0⟩ (ownSlice d d.slice) (cleanHdr d true false true)) ∧ (s.tableMap? id = some m) ∧ (badIndex m i = false) ∧ (64 ≤ d.hlen) ∧ (d.buf = some buf) ∧ ((m.kind = 0 → le buf 0 20 < 2 ^ m.keyW)) ∧ (byteAt buf 48 ≤ 63) ∧ ((m.kind = 0 → s.ras.poison = [])) ∧ (hit = some (place, e)) ∧ (lost = false) ∧ (e.opn = true) ∧ (¬ (e.genLo = s.genP d.slice % 256 ∧ e.settled = false)) ∧ ((s.plog d.slice).length < 65536))
    ∧ (∃ (s : State) (d : Hdr) (id : Nat) (i : Nat) (m : Config.TableMap) (buf : List Byte) (tcam : Bool) (lost : Bool) (hit : Option (List Nat × Ent)) (place : List Nat) (e : Ent), (tcam = decide (m.kind ≠ 0)) ∧ (hit = (if m.kind = 0 then emFirst (s.emHits m d.slice (le buf 0 20)) else s.tcamTarget m d.slice i)) ∧ (s.xingBusy (s.ringHalf d) 3 0 = lost) ∧ (due s (.tblWrite d 1 id i)) ∧ (served s d ⟨0x10, .config, true, true, 0⟩ (ownSlice d d.slice) (cleanHdr d true false true)) ∧ (s.tableMap? id = some m) ∧ (badIndex m i = false) ∧ (64 ≤ d.hlen) ∧ (d.buf = some buf) ∧ ((m.kind = 0 → le buf 0 20 < 2 ^ m.keyW)) ∧ (byteAt buf 48 ≤ 63) ∧ ((m.kind = 0 → s.ras.poison = [])) ∧ (hit = some (place, e)) ∧ (lost = false) ∧ (e.opn = true) ∧ (e.genLo = s.genP d.slice % 256) ∧ (e.settled = false))
    ∧ (∃ (s : State) (d : Hdr) (id : Nat) (i : Nat) (m : Config.TableMap) (buf : List Byte) (tcam : Bool) (lost : Bool) (hit : Option (List Nat × Ent)) (place : List Nat) (e : Ent), (tcam = decide (m.kind ≠ 0)) ∧ (hit = (if m.kind = 0 then emFirst (s.emHits m d.slice (le buf 0 20)) else s.tcamTarget m d.slice i)) ∧ (s.xingBusy (s.ringHalf d) 3 0 = lost) ∧ (due s (.tblWrite d 2 id i)) ∧ (served s d ⟨0x10, .config, true, true, 0⟩ (ownSlice d d.slice) (cleanHdr d true false true)) ∧ (s.tableMap? id = some m) ∧ (badIndex m i = false) ∧ (64 ≤ d.hlen) ∧ (d.buf = some buf) ∧ ((m.kind = 0 → le buf 0 20 < 2 ^ m.keyW)) ∧ (byteAt buf 48 ≤ 63) ∧ ((m.kind = 0 → s.ras.poison = [])) ∧ (hit = some (place, e)))
    ∧ (∃ (s : State) (d : Hdr) (id : Nat) (i : Nat) (m : Config.TableMap) (buf : List Byte) (tcam : Bool) (lost : Bool) (hit : Option (List Nat × Ent)) (place : List Nat) (e : Ent), (tcam = decide (m.kind ≠ 0)) ∧ (hit = (if m.kind = 0 then emFirst (s.emHits m d.slice (le buf 0 20)) else s.tcamTarget m d.slice i)) ∧ (s.xingBusy (s.ringHalf d) 3 0 = lost) ∧ (due s (.tblWrite d 1 id i)) ∧ (served s d ⟨0x10, .config, true, true, 0⟩ (ownSlice d d.slice) (cleanHdr d true false true)) ∧ (s.tableMap? id = some m) ∧ (badIndex m i = false) ∧ (64 ≤ d.hlen) ∧ (d.buf = some buf) ∧ ((m.kind = 0 → le buf 0 20 < 2 ^ m.keyW)) ∧ (byteAt buf 48 ≤ 63) ∧ ((m.kind = 0 → s.ras.poison = [])) ∧ (hit = some (place, e)) ∧ (e.opn = false))
    ∧ (∃ (s : State) (d : Hdr) (id : Nat) (i : Nat) (m : Config.TableMap) (buf : List Byte) (tcam : Bool) (lost : Bool) (hit : Option (List Nat × Ent)), (tcam = decide (m.kind ≠ 0)) ∧ (hit = (if m.kind = 0 then emFirst (s.emHits m d.slice (le buf 0 20)) else s.tcamTarget m d.slice i)) ∧ (s.xingBusy (s.ringHalf d) 3 0 = lost) ∧ (due s (.tblWrite d 1 id i)) ∧ (served s d ⟨0x10, .config, true, true, 0⟩ (ownSlice d d.slice) (cleanHdr d true false true)) ∧ (s.tableMap? id = some m) ∧ (badIndex m i = false) ∧ (64 ≤ d.hlen) ∧ (d.buf = some buf) ∧ ((m.kind = 0 → le buf 0 20 < 2 ^ m.keyW)) ∧ (byteAt buf 48 ≤ 63) ∧ ((m.kind = 0 → s.ras.poison = [])) ∧ (hit = none)) :=
  ⟨⟨hE (ent 0 true true), (hd false false 0 0 (z 128)), 1, 0, tm0, z 128, (decide ((tm0).kind ≠ 0)), ((hE (ent 0 true true)).xingBusy ((hE (ent 0 true true)).ringHalf ((hd false false 0 0 (z 128)))) 3 0), ((if (tm0).kind = 0 then emFirst ((hE (ent 0 true true)).emHits (tm0) ((hd false false 0 0 (z 128))).slice (le (z 128) 0 20)) else (hE (ent 0 true true)).tcamTarget (tm0) ((hd false false 0 0 (z 128))).slice (0))), ((((((if (tm0).kind = 0 then emFirst ((hE (ent 0 true true)).emHits (tm0) ((hd false false 0 0 (z 128))).slice (le (z 128) 0 20)) else (hE (ent 0 true true)).tcamTarget (tm0) ((hd false false 0 0 (z 128))).slice (0)))).get (by decide +kernel))).1), ((((((if (tm0).kind = 0 then emFirst ((hE (ent 0 true true)).emHits (tm0) ((hd false false 0 0 (z 128))).slice (le (z 128) 0 20)) else (hE (ent 0 true true)).tcamTarget (tm0) ((hd false false 0 0 (z 128))).slice (0)))).get (by decide +kernel))).2), rfl, rfl, rfl, dueOf rfl (by decide +kernel), by decide +kernel⟩,
   ⟨hE (ent 1 true false), (hd false false 0 0 (z 128)), 1, 0, tm0, z 128, (decide ((tm0).kind ≠ 0)), ((hE (ent 1 true false)).xingBusy ((hE (ent 1 true false)).ringHalf ((hd false false 0 0 (z 128)))) 3 0), ((if (tm0).kind = 0 then emFirst ((hE (ent 1 true false)).emHits (tm0) ((hd false false 0 0 (z 128))).slice (le (z 128) 0 20)) else (hE (ent 1 true false)).tcamTarget (tm0) ((hd false false 0 0 (z 128))).slice (0))), ((((((if (tm0).kind = 0 then emFirst ((hE (ent 1 true false)).emHits (tm0) ((hd false false 0 0 (z 128))).slice (le (z 128) 0 20)) else (hE (ent 1 true false)).tcamTarget (tm0) ((hd false false 0 0 (z 128))).slice (0)))).get (by decide +kernel))).1), ((((((if (tm0).kind = 0 then emFirst ((hE (ent 1 true false)).emHits (tm0) ((hd false false 0 0 (z 128))).slice (le (z 128) 0 20)) else (hE (ent 1 true false)).tcamTarget (tm0) ((hd false false 0 0 (z 128))).slice (0)))).get (by decide +kernel))).2), rfl, rfl, rfl, dueOf rfl (by decide +kernel), by decide +kernel⟩,
   ⟨hE (ent 0 true true), (hd false false 0 0 (z 128)), 1, 0, tm0, z 128, (decide ((tm0).kind ≠ 0)), ((hE (ent 0 true true)).xingBusy ((hE (ent 0 true true)).ringHalf ((hd false false 0 0 (z 128)))) 3 0), ((if (tm0).kind = 0 then emFirst ((hE (ent 0 true true)).emHits (tm0) ((hd false false 0 0 (z 128))).slice (le (z 128) 0 20)) else (hE (ent 0 true true)).tcamTarget (tm0) ((hd false false 0 0 (z 128))).slice (0))), ((((((if (tm0).kind = 0 then emFirst ((hE (ent 0 true true)).emHits (tm0) ((hd false false 0 0 (z 128))).slice (le (z 128) 0 20)) else (hE (ent 0 true true)).tcamTarget (tm0) ((hd false false 0 0 (z 128))).slice (0)))).get (by decide +kernel))).1), ((((((if (tm0).kind = 0 then emFirst ((hE (ent 0 true true)).emHits (tm0) ((hd false false 0 0 (z 128))).slice (le (z 128) 0 20)) else (hE (ent 0 true true)).tcamTarget (tm0) ((hd false false 0 0 (z 128))).slice (0)))).get (by decide +kernel))).2), rfl, rfl, rfl, dueOf rfl (by decide +kernel), by decide +kernel⟩,
   ⟨hE (ent 1 false false), (hd false false 0 0 (z 128)), 1, 0, tm0, z 128, (decide ((tm0).kind ≠ 0)), ((hE (ent 1 false false)).xingBusy ((hE (ent 1 false false)).ringHalf ((hd false false 0 0 (z 128)))) 3 0), ((if (tm0).kind = 0 then emFirst ((hE (ent 1 false false)).emHits (tm0) ((hd false false 0 0 (z 128))).slice (le (z 128) 0 20)) else (hE (ent 1 false false)).tcamTarget (tm0) ((hd false false 0 0 (z 128))).slice (0))), ((((((if (tm0).kind = 0 then emFirst ((hE (ent 1 false false)).emHits (tm0) ((hd false false 0 0 (z 128))).slice (le (z 128) 0 20)) else (hE (ent 1 false false)).tcamTarget (tm0) ((hd false false 0 0 (z 128))).slice (0)))).get (by decide +kernel))).1), ((((((if (tm0).kind = 0 then emFirst ((hE (ent 1 false false)).emHits (tm0) ((hd false false 0 0 (z 128))).slice (le (z 128) 0 20)) else (hE (ent 1 false false)).tcamTarget (tm0) ((hd false false 0 0 (z 128))).slice (0)))).get (by decide +kernel))).2), rfl, rfl, rfl, dueOf rfl (by decide +kernel), by decide +kernel⟩,
   ⟨hT [], (hd false false 0 0 (z 128)), 1, 0, tm0, z 128, (decide ((tm0).kind ≠ 0)), ((hT []).xingBusy ((hT []).ringHalf ((hd false false 0 0 (z 128)))) 3 0), ((if (tm0).kind = 0 then emFirst ((hT []).emHits (tm0) ((hd false false 0 0 (z 128))).slice (le (z 128) 0 20)) else (hT []).tcamTarget (tm0) ((hd false false 0 0 (z 128))).slice (0))), rfl, rfl, rfl, dueOf rfl (by decide +kernel), by decide +kernel⟩⟩

/-- The cases of TableRead can be met. -/
theorem test_witness_TableRead :
    (∃ (s : State) (d : Hdr) (id : Nat) (i : Nat) (key : Nat) (m : Config.TableMap) (place : List Nat) (e : Ent), (due s (.tblRead d id i key)) ∧ (served s d ⟨0x11, .reads, false, true, 0⟩ (ownSlice d d.slice) (cleanHdr d true false true)) ∧ (s.tableMap? id = some m) ∧ (badIndex m i = false) ∧ ((m.kind = 0 → key < 2 ^ m.keyW)) ∧ ((if m.kind = 0 then 32 else 64) ≤ d.hlen) ∧ (d.buf.isSome = true) ∧ (s.ras.poison = []) ∧ (s.tables.upset = []) ∧ ((if m.kind = 0 then emFirst (s.emHits m d.slice key) else s.tcamTarget m d.slice i) = some (place, e)))
    ∧ (∃ (s : State) (d : Hdr) (id : Nat) (i : Nat) (key : Nat) (m : Config.TableMap) (e : Ent), (due s (.tblRead d id i key)) ∧ (served s d ⟨0x11, .reads, false, true, 0⟩ (ownSlice d d.slice) (cleanHdr d true false true)) ∧ (s.tableMap? id = some m) ∧ (badIndex m i = false) ∧ ((m.kind = 0 → key < 2 ^ m.keyW)) ∧ ((if m.kind = 0 then 32 else 64) ≤ d.hlen) ∧ (d.buf.isSome = true) ∧ (s.ras.poison = []) ∧ (s.tables.upset = []) ∧ (m.kind ≠ 0) ∧ (i % 2 = 1) ∧ (s.tcamTarget m d.slice i = none) ∧ (s.tables.tcam.get? [stageOf m.stage, i - 1] = some e) ∧ (e.wide = true) ∧ (e.slice = d.slice) ∧ (e.table = m.id))
    ∧ (∃ (s : State) (d : Hdr) (id : Nat) (i : Nat) (key : Nat) (m : Config.TableMap), ((∀ e, m.kind ≠ 0 → i % 2 = 1 → s.tables.tcam.get? [stageOf m.stage, i - 1] = some e → ¬ (e.wide = true ∧ e.slice = d.slice ∧ e.table = m.id))) ∧ (due s (.tblRead d id i key)) ∧ (served s d ⟨0x11, .reads, false, true, 0⟩ (ownSlice d d.slice) (cleanHdr d true false true)) ∧ (s.tableMap? id = some m) ∧ (badIndex m i = false) ∧ ((m.kind = 0 → key < 2 ^ m.keyW)) ∧ ((if m.kind = 0 then 32 else 64) ≤ d.hlen) ∧ (d.buf.isSome = true) ∧ (s.ras.poison = []) ∧ (s.tables.upset = []) ∧ ((if m.kind = 0 then emFirst (s.emHits m d.slice key) else s.tcamTarget m d.slice i) = none)) :=
  ⟨⟨hE (ent 0 true true), (hd false false 0 0 (z 128)), 1, 0, 0, tm0, (((((if (tm0).kind = 0 then emFirst ((hE (ent 0 true true)).emHits (tm0) ((hd false false 0 0 (z 128))).slice (0)) else (hE (ent 0 true true)).tcamTarget (tm0) ((hd false false 0 0 (z 128))).slice (0))).get (by decide +kernel))).1), (((((if (tm0).kind = 0 then emFirst ((hE (ent 0 true true)).emHits (tm0) ((hd false false 0 0 (z 128))).slice (0)) else (hE (ent 0 true true)).tcamTarget (tm0) ((hd false false 0 0 (z 128))).slice (0))).get (by decide +kernel))).2), dueOf rfl (by decide +kernel), by decide +kernel⟩,
   ⟨{ hT [] with tables := { (hT []).tables with tcam := [([stageOf 2, 0], (⟨0, 0, 0, 0, 0, 0, 0, true, true, 2, true, 0⟩ : Ent))] } }, (hd false false 0 0 (z 128)), 2, 1, 0, tm1, (⟨0, 0, 0, 0, 0, 0, 0, true, true, 2, true, 0⟩ : Ent), dueOf rfl (by decide +kernel), by decide +kernel⟩,
   ⟨hT [], (hd false false 0 0 (z 128)), 1, 0, 0, tm0, fun e _ h => absurd h (by decide), dueOf rfl (by decide +kernel), by decide +kernel⟩⟩

/-- The cases of SliceCommitAndAbort can be met. -/
theorem test_witness_SliceCommitAndAbort :
    (∃ (s : State) (d : Hdr), (due s (.sliceCommit d)) ∧ (served s d ⟨0x12, .config, true, true, 0⟩ (ownSlice d d.slice) (cleanHdr d true false false)) ∧ (s.tables.passed = []) ∧ ((s.genG d.slice + s.commitsPending d.slice + 65536 - s.genO d.slice) % 65536 + 1 < 4) ∧ (s.writesBefore d = false))
    ∧ (∃ (s : State) (d : Hdr), (due s (.sliceCommit d)) ∧ (served s d ⟨0x12, .config, true, true, 0⟩ (ownSlice d d.slice) (cleanHdr d true false false)) ∧ (s.tables.passed = []) ∧ ((s.genG d.slice + s.commitsPending d.slice + 65536 - s.genO d.slice) % 65536 + 1 < 4) ∧ (s.writesBefore d = true))
    ∧ (∃ (s : State) (d : Hdr), (due s (.sliceCommit d)) ∧ (served s d ⟨0x12, .config, true, true, 0⟩ (ownSlice d d.slice) (cleanHdr d true false false)) ∧ (s.tables.passed = []) ∧ (4 ≤ (s.genG d.slice + s.commitsPending d.slice + 65536 - s.genO d.slice) % 65536 + 1))
    ∧ (∃ (s : State) (d : Hdr), (due s (.sliceAbort d)) ∧ (served s d ⟨0x13, .config, true, true, 0⟩ (ownSlice d d.slice) (cleanHdr d true false false))) :=
  ⟨⟨hosted, d0, dueOf rfl (by decide +kernel), by decide +kernel⟩,
   ⟨{ hosted with host := { hosted.host with taken := [⟨d0, 0x10, [], true, .nop d0, false⟩] } }, { d0 with ring := 1, cnt := 1 }, dueOf rfl (by decide +kernel), by decide +kernel⟩,
   ⟨hs [(.SLC_GEN_cur_gen, [0, 0], 3)], d0, dueOf rfl (by decide +kernel), by decide +kernel⟩,
   ⟨hosted, d0, dueOf rfl (by decide +kernel), by decide +kernel⟩⟩

/-- The cases of GenerationsAndReferences can be met. -/
theorem test_witness_GenerationsAndReferences :
    (∃ (s : State) (sl : Nat) (log : List LogW) (ends : LogW → Bool), (log = s.tables.clog.getD [sl, (s.genO sl + 1) % 65536] []) ∧ (ends = (fun w => match s.tblAt w.tcam w.place with | some e => !e.opn && decide (e.genHi = s.genO sl % 256) | none => false)) ∧ ((∀ h : Half, s.rd .SLC_GEN_cur_gen [h.n, sl] ≠ s.genO sl)) ∧ ((∀ h : Half, s.rd .SLC_REFCNT_count [h.n, sl, s.genO sl % 4] = 0)) ∧ (s.unresolved = false) ∧ (s.serves s.owner 3 (retireBody sl) = true) ∧ (s.xingBusy s.owner 3 0 = false) ∧ (s.ras.poison = []))
    ∧ (∃ (s : State) (sl : Nat) (log : List LogW) (ends : LogW → Bool), (log = s.tables.clog.getD [sl, (s.genO sl + 1) % 65536] []) ∧ (ends = (fun w => match s.tblAt w.tcam w.place with | some e => !e.opn && decide (e.genHi = s.genO sl % 256) | none => false)) ∧ ((∃ h : Half, s.rd .SLC_REFCNT_count [h.n, sl, s.genO sl % 4] ≠ 0)))
    ∧ (∃ (s : State) (h : Half) (m : Half × Nat × Nat), (s.unresolved = false) ∧ (s.tables.refRel.find? (fun m => m.1 = h) = some m))
    ∧ (∃ (s : State) (h : Half), (s.unresolved = true)) :=
  ⟨⟨hs [(.SLC_GEN_cur_gen, [0, 0], 1), (.SLC_GEN_cur_gen, [1, 0], 1)], 0, ((hs [(.SLC_GEN_cur_gen, [0, 0], 1), (.SLC_GEN_cur_gen, [1, 0], 1)]).tables.clog.getD [(0), ((hs [(.SLC_GEN_cur_gen, [0, 0], 1), (.SLC_GEN_cur_gen, [1, 0], 1)]).genO (0) + 1) % 65536] []), ((fun w => match (hs [(.SLC_GEN_cur_gen, [0, 0], 1), (.SLC_GEN_cur_gen, [1, 0], 1)]).tblAt w.tcam w.place with | some e => !e.opn && decide (e.genHi = (hs [(.SLC_GEN_cur_gen, [0, 0], 1), (.SLC_GEN_cur_gen, [1, 0], 1)]).genO (0) % 256) | none => false)), rfl, rfl, by intro h; cases h <;> decide +kernel, by intro h; cases h <;> decide +kernel, by decide +kernel⟩,
   ⟨hs [(.SLC_REFCNT_count, [0, 0, 0], 1)], 0, ((hs [(.SLC_REFCNT_count, [0, 0, 0], 1)]).tables.clog.getD [(0), ((hs [(.SLC_REFCNT_count, [0, 0, 0], 1)]).genO (0) + 1) % 65536] []), ((fun w => match (hs [(.SLC_REFCNT_count, [0, 0, 0], 1)]).tblAt w.tcam w.place with | some e => !e.opn && decide (e.genHi = (hs [(.SLC_REFCNT_count, [0, 0, 0], 1)]).genO (0) % 256) | none => false)), rfl, rfl, ⟨.E, by decide +kernel⟩⟩,
   ⟨{ hosted with tables := { hosted.tables with refRel := [(.E, 0, 0)] } }, .E, ((({ hosted with tables := { hosted.tables with refRel := [(.E, 0, 0)] } } : State).tables.refRel.find? (fun m => m.1 = (.E))).get (by decide +kernel)), by decide +kernel⟩,
   ⟨hs [(.RAS_OWN_STAT_state, [0], 2)], .E, by decide +kernel⟩⟩

/-- The cases of ProgLoad can be met. -/
theorem test_witness_ProgLoad :
    (∃ (s : State) (d : Hdr) (copy : Nat) (bs : List Byte) (p : Prog), (due s (.progLoad d copy)) ∧ (served s d ⟨0x18, .config, true, false, 0⟩ true (cleanHdr d false false true && decide (copy < 2))) ∧ (s.swap = none) ∧ (d.buf = some bs) ∧ ((copy = s.active → (s.prog copy).loaded = false)) ∧ (progParse bs = some p) ∧ (((s.prog (1 - copy)).loaded = true → layoutsAgree p (s.prog (1 - copy)) = true)))
    ∧ (∃ (s : State) (d : Hdr) (copy : Nat) (bs : List Byte), (due s (.progLoad d copy)) ∧ (served s d ⟨0x18, .config, true, false, 0⟩ true (cleanHdr d false false true && decide (copy < 2))) ∧ (s.swap = none) ∧ (d.buf = some bs) ∧ ((copy = s.active → (s.prog copy).loaded = false)) ∧ (progParse bs = none))
    ∧ (∃ (s : State) (d : Hdr) (copy : Nat) (bs : List Byte) (p : Prog), (due s (.progLoad d copy)) ∧ (served s d ⟨0x18, .config, true, false, 0⟩ true (cleanHdr d false false true && decide (copy < 2))) ∧ (s.swap = none) ∧ (d.buf = some bs) ∧ ((copy = s.active → (s.prog copy).loaded = false)) ∧ (progParse bs = some p) ∧ ((s.prog (1 - copy)).loaded = true) ∧ (layoutsAgree p (s.prog (1 - copy)) = false))
    ∧ (∃ (s : State) (d : Hdr) (copy : Nat) (bs : List Byte), (copy = s.active) ∧ (due s (.progLoad d copy)) ∧ (served s d ⟨0x18, .config, true, false, 0⟩ true (cleanHdr d false false true && decide (copy < 2))) ∧ (s.swap = none) ∧ (d.buf = some bs) ∧ ((s.prog copy).loaded = true))
    ∧ (∃ (s : State) (d : Hdr) (copy : Nat) (bs : List Byte) (e : Hdr), (e = { d with buf := none }) ∧ (due s (.progLoad e copy)) ∧ (served s d ⟨0x18, .config, true, false, 0⟩ true (cleanHdr d false false true && decide (copy < 2))) ∧ (s.swap = none) ∧ (d.buf = some bs) ∧ ((copy = s.active → (s.prog copy).loaded = false))) :=
  ⟨⟨hosted, (hd false false 0 0 (izbe 4 0)), 0, izbe 4 0, ((progParse (izbe 4 0)).get (by decide +kernel)), dueOf rfl (by decide +kernel), by decide +kernel⟩,
   ⟨hosted, (hd false false 0 0 []), 0, [], dueOf rfl (by decide +kernel), by decide +kernel⟩,
   by
  have hp : progParse (izbe 8 1) = some ((progParse (izbe 8 1)).get (by decide +kernel)) := by simp
  have ht : ((progParse (izbe 8 1)).get (by decide +kernel)).tmap = [Config.decodeTableMap (z 32)] := prog_tmap _ hp
  refine ⟨{ hosted with progB := { Prog.empty with loaded := true, tmap := [{ Config.decodeTableMap (z 32) with kind := (Config.decodeTableMap (z 32)).kind + 1 }] } },
    hd false false 0 0 (izbe 8 1), 0, izbe 8 1, _, dueOf rfl (by decide +kernel), ?_, rfl, rfl, by decide +kernel, hp, rfl, ?_⟩
  · decide +kernel
  · simp only [layoutsAgree, ht]
    simp [State.prog, hosted, Prog.table?],
   ⟨hT [], (hd false false 0 0 []), ((hT []).active), [], rfl, dueOf rfl (by decide +kernel), by decide +kernel⟩,
   ⟨hosted, (hd false false 0 0 (izbe 4 0)), 0, izbe 4 0, ({ ((hd false false 0 0 (izbe 4 0))) with buf := none }), rfl, dueOf rfl (by decide +kernel), by decide +kernel⟩⟩

/-- The cases of ProgramSwap can be met. -/
theorem test_witness_ProgramSwap :
    (∃ (s : State) (d : Hdr), (due s (.progSwap d)) ∧ (served s d ⟨0x19, .maint, true, false, 0⟩ true (cleanHdr d false false false)) ∧ ((s.prog (1 - s.active)).loaded = true))
    ∧ (∃ (s : State) (d : Hdr), (due s (.progSwap d)) ∧ (served s d ⟨0x19, .maint, true, false, 0⟩ true (cleanHdr d false false false)) ∧ ((s.prog (1 - s.active)).loaded = false))
    ∧ (∃ (s : State) (w : Swap), (s.swap = some w) ∧ ((s.flippedIn .E w.old = true ∨ s.flippedIn .W w.old = true)) ∧ (s.rd .MAT_PROG_CTL_state [32] = 1) ∧ (s.drainLimit ≠ 0) ∧ (s.oldFrames ≠ []))
    ∧ (∃ (s : State) (w : Swap), (s.swap = some w) ∧ (w.flipped = true) ∧ (s.oldFrames = []) ∧ (s.ras.deferred = []) ∧ (s.serves s.owner 3 [0, 2] = true)) :=
  ⟨⟨{ hosted with progB := { Prog.empty with loaded := true } }, d0, dueOf rfl (by decide +kernel), by decide +kernel⟩,
   ⟨hosted, d0, dueOf rfl (by decide +kernel), by decide +kernel⟩,
   ⟨{ hs [(.MAT_PROG_CTL_state, [32], 1), (.MAT_PROG_CTL_drain_limit, [32], 5), (.MAT_PROG_CTL_active, [33], 1)] with swap := some ⟨d0, 0, true, 0, 0⟩, frames := [{ Frame.blank with loc := .queued }] }, ⟨d0, 0, true, 0, 0⟩, by decide +kernel⟩,
   ⟨{ hosted with swap := some ⟨d0, 0, true, 0, 0⟩ }, ⟨d0, 0, true, 0, 0⟩, by decide +kernel⟩⟩

/-- The cases of FdbInsert can be met. -/
theorem test_witness_FdbInsert :
    (∃ (s : State) (d : Hdr) (ka : KeyArg) (port : Nat) (adata : Nat) (static : Bool) (replace : Bool) (o : Half) (p : List Nat), (o = bucketOwner (s.fdbBucket (s.ringHalf d) (fkeyOf ka d))) ∧ (due s (.fdbInsert d ka port static replace adata)) ∧ (served s d (fdbRule 0x20 true) (ownSlice d d.slice) (cleanHdr d true false false && decide (port < 1088))) ∧ ((fkeyOf ka d).bad = false) ∧ (s.lockOf (s.fdbBucket (s.ringHalf d) (fkeyOf ka d)) = none) ∧ (s.ras.poison = []) ∧ (s.fdbFind o (fkeyOf ka d) = none) ∧ (s.rd .FDB_SLICE_USE_used [o.n, d.slice] < s.rd .FDB_SLICE_CFG_quota [o.n, d.slice]) ∧ (s.fdbFree o (s.fdbBucket (s.ringHalf d) (fkeyOf ka d)) = some p))
    ∧ (∃ (s : State) (d : Hdr) (ka : KeyArg) (port : Nat) (adata : Nat) (static : Bool) (replace : Bool) (o : Half) (p : List Nat) (e : FdbEnt), (o = bucketOwner (s.fdbBucket (s.ringHalf d) (fkeyOf ka d))) ∧ (due s (.fdbInsert d ka port static replace adata)) ∧ (served s d (fdbRule 0x20 true) (ownSlice d d.slice) (cleanHdr d true false false && decide (port < 1088))) ∧ ((fkeyOf ka d).bad = false) ∧ (s.lockOf (s.fdbBucket (s.ringHalf d) (fkeyOf ka d)) = none) ∧ (s.ras.poison = []) ∧ (s.fdbFind o (fkeyOf ka d) = some p) ∧ (s.fdbAt o p = some e) ∧ (replace = true))
    ∧ (∃ (s : State) (d : Hdr) (ka : KeyArg) (port : Nat) (adata : Nat) (static : Bool) (replace : Bool) (o : Half) (p : List Nat) (e : FdbEnt), (o = bucketOwner (s.fdbBucket (s.ringHalf d) (fkeyOf ka d))) ∧ (replace = false) ∧ (due s (.fdbInsert d ka port static replace adata)) ∧ (served s d (fdbRule 0x20 true) (ownSlice d d.slice) (cleanHdr d true false false && decide (port < 1088))) ∧ ((fkeyOf ka d).bad = false) ∧ (s.lockOf (s.fdbBucket (s.ringHalf d) (fkeyOf ka d)) = none) ∧ (s.ras.poison = []) ∧ (s.fdbFind o (fkeyOf ka d) = some p) ∧ (s.fdbAt o p = some e))
    ∧ (∃ (s : State) (d : Hdr) (ka : KeyArg) (port : Nat) (adata : Nat) (static : Bool) (replace : Bool) (o : Half), (o = bucketOwner (s.fdbBucket (s.ringHalf d) (fkeyOf ka d))) ∧ (due s (.fdbInsert d ka port static replace adata)) ∧ (served s d (fdbRule 0x20 true) (ownSlice d d.slice) (cleanHdr d true false false && decide (port < 1088))) ∧ ((fkeyOf ka d).bad = false) ∧ (s.lockOf (s.fdbBucket (s.ringHalf d) (fkeyOf ka d)) = none) ∧ (s.ras.poison = []) ∧ (s.fdbFind o (fkeyOf ka d) = none) ∧ (s.rd .FDB_SLICE_CFG_quota [o.n, d.slice] ≤ s.rd .FDB_SLICE_USE_used [o.n, d.slice])) :=
  ⟨⟨hs [(.FDB_SLICE_CFG_quota, [0, 0], 9), (.FDB_SLICE_CFG_quota, [1, 0], 9)], d0, ka, 0, 0, false, false, (bucketOwner ((hs [(.FDB_SLICE_CFG_quota, [0, 0], 9), (.FDB_SLICE_CFG_quota, [1, 0], 9)]).fdbBucket ((hs [(.FDB_SLICE_CFG_quota, [0, 0], 9), (.FDB_SLICE_CFG_quota, [1, 0], 9)]).ringHalf (d0)) (fkeyOf (ka) (d0)))), (((hs [(.FDB_SLICE_CFG_quota, [0, 0], 9), (.FDB_SLICE_CFG_quota, [1, 0], 9)]).fdbFree (bucketOwner ((hs [(.FDB_SLICE_CFG_quota, [0, 0], 9), (.FDB_SLICE_CFG_quota, [1, 0], 9)]).fdbBucket ((hs [(.FDB_SLICE_CFG_quota, [0, 0], 9), (.FDB_SLICE_CFG_quota, [1, 0], 9)]).ringHalf (d0)) (fkeyOf (ka) (d0)))) ((hs [(.FDB_SLICE_CFG_quota, [0, 0], 9), (.FDB_SLICE_CFG_quota, [1, 0], 9)]).fdbBucket ((hs [(.FDB_SLICE_CFG_quota, [0, 0], 9), (.FDB_SLICE_CFG_quota, [1, 0], 9)]).ringHalf (d0)) (fkeyOf (ka) (d0)))).get (by decide +kernel)), rfl, dueOf rfl (by decide +kernel), by decide +kernel⟩,
   ⟨hF [], d0, ka, 0, 0, false, true, (bucketOwner ((hF []).fdbBucket ((hF []).ringHalf (d0)) (fkeyOf (ka) (d0)))), (((hF []).fdbFind (bucketOwner ((hF []).fdbBucket ((hF []).ringHalf (d0)) (fkeyOf (ka) (d0)))) (fkeyOf (ka) (d0))).get (by decide +kernel)), (((hF []).fdbAt (bucketOwner ((hF []).fdbBucket ((hF []).ringHalf (d0)) (fkeyOf (ka) (d0)))) (((hF []).fdbFind (bucketOwner ((hF []).fdbBucket ((hF []).ringHalf (d0)) (fkeyOf (ka) (d0)))) (fkeyOf (ka) (d0))).get (by decide +kernel))).get (by decide +kernel)), rfl, dueOf rfl (by decide +kernel), by decide +kernel⟩,
   ⟨hF [], d0, ka, 0, 0, false, (false), (bucketOwner ((hF []).fdbBucket ((hF []).ringHalf (d0)) (fkeyOf (ka) (d0)))), (((hF []).fdbFind (bucketOwner ((hF []).fdbBucket ((hF []).ringHalf (d0)) (fkeyOf (ka) (d0)))) (fkeyOf (ka) (d0))).get (by decide +kernel)), (((hF []).fdbAt (bucketOwner ((hF []).fdbBucket ((hF []).ringHalf (d0)) (fkeyOf (ka) (d0)))) (((hF []).fdbFind (bucketOwner ((hF []).fdbBucket ((hF []).ringHalf (d0)) (fkeyOf (ka) (d0)))) (fkeyOf (ka) (d0))).get (by decide +kernel))).get (by decide +kernel)), rfl, rfl, dueOf rfl (by decide +kernel), by decide +kernel⟩,
   ⟨hs [(.FDB_SLICE_CFG_quota, [0, 0], 0), (.FDB_SLICE_CFG_quota, [1, 0], 0)], d0, ka, 0, 0, false, false, (bucketOwner ((hs [(.FDB_SLICE_CFG_quota, [0, 0], 0), (.FDB_SLICE_CFG_quota, [1, 0], 0)]).fdbBucket ((hs [(.FDB_SLICE_CFG_quota, [0, 0], 0), (.FDB_SLICE_CFG_quota, [1, 0], 0)]).ringHalf (d0)) (fkeyOf (ka) (d0)))), rfl, dueOf rfl (by decide +kernel), by decide +kernel⟩⟩

/-- The cases of FdbDeleteUnfreezeFlush can be met. -/
theorem test_witness_FdbDeleteUnfreezeFlush :
    (∃ (s : State) (d : Hdr) (ka : KeyArg) (o : Half) (p : List Nat), (o = bucketOwner (s.fdbBucket (s.ringHalf d) (fkeyOf ka d))) ∧ (due s (.fdbDelete d ka)) ∧ ((fkeyOf ka d).bad = false) ∧ (s.ras.poison = []) ∧ (s.lockOf (s.fdbBucket (s.ringHalf d) (fkeyOf ka d)) = none) ∧ (served s d (fdbRule 0x21 true) (ownSlice d d.slice) (cleanHdr d true false false)) ∧ (s.fdbFind o (fkeyOf ka d) = some p))
    ∧ (∃ (s : State) (d : Hdr) (ka : KeyArg) (o : Half), (o = bucketOwner (s.fdbBucket (s.ringHalf d) (fkeyOf ka d))) ∧ (due s (.fdbDelete d ka)) ∧ ((fkeyOf ka d).bad = false) ∧ (s.ras.poison = []) ∧ (s.lockOf (s.fdbBucket (s.ringHalf d) (fkeyOf ka d)) = none) ∧ (served s d (fdbRule 0x21 true) (ownSlice d d.slice) (cleanHdr d true false false)) ∧ (s.fdbFind o (fkeyOf ka d) = none))
    ∧ (∃ (s : State) (d : Hdr) (ka : KeyArg) (o : Half) (p : List Nat) (e : FdbEnt), (o = bucketOwner (s.fdbBucket (s.ringHalf d) (fkeyOf ka d))) ∧ (due s (.fdbUnfreeze d ka)) ∧ ((fkeyOf ka d).bad = false) ∧ (s.ras.poison = []) ∧ (s.lockOf (s.fdbBucket (s.ringHalf d) (fkeyOf ka d)) = none) ∧ (served s d (fdbRule 0x26 true) (ownSlice d d.slice) (cleanHdr d true false false)) ∧ (s.fdbFind o (fkeyOf ka d) = some p) ∧ (s.fdbAt o p = some e))
    ∧ (∃ (s : State) (d : Hdr) (ka : KeyArg) (o : Half) (bySlice : Bool) (byPort : Bool) (byScope : Bool) (inclStatic : Bool) (scope : Nat) (port : Nat) (sel : FdbEnt → Bool), (o = bucketOwner (s.fdbBucket (s.ringHalf d) (fkeyOf ka d))) ∧ (sel = (fun e => (!bySlice || e.key.slice = d.slice) && (!byPort || e.port = port) && (!byScope || e.key.scope = scope) && (inclStatic || !e.static))) ∧ (due s (.fdbFlush d bySlice byPort byScope inclStatic scope port)) ∧ ((fkeyOf ka d).bad = false) ∧ (s.ras.poison = []) ∧ (served s d (fdbRule 0x27 true) (d.fn = 0 || (bySlice && ownSlice d d.slice)) (cleanHdr d bySlice false false && (byPort || port = 0) && (byScope || scope = 0) && decide (port < 1088))) ∧ (s.fdb.locks = [])) :=
  ⟨⟨hF [], d0, ka, (bucketOwner ((hF []).fdbBucket ((hF []).ringHalf (d0)) (fkeyOf (ka) (d0)))), (((hF []).fdbFind (bucketOwner ((hF []).fdbBucket ((hF []).ringHalf (d0)) (fkeyOf (ka) (d0)))) (fkeyOf (ka) (d0))).get (by decide +kernel)), rfl, dueOf rfl (by decide +kernel), by decide +kernel⟩,
   ⟨hosted, d0, ka, (bucketOwner ((hosted).fdbBucket ((hosted).ringHalf (d0)) (fkeyOf (ka) (d0)))), rfl, dueOf rfl (by decide +kernel), by decide +kernel⟩,
   ⟨hF [], d0, ka, (bucketOwner ((hF []).fdbBucket ((hF []).ringHalf (d0)) (fkeyOf (ka) (d0)))), (((hF []).fdbFind (bucketOwner ((hF []).fdbBucket ((hF []).ringHalf (d0)) (fkeyOf (ka) (d0)))) (fkeyOf (ka) (d0))).get (by decide +kernel)), (((hF []).fdbAt (bucketOwner ((hF []).fdbBucket ((hF []).ringHalf (d0)) (fkeyOf (ka) (d0)))) (((hF []).fdbFind (bucketOwner ((hF []).fdbBucket ((hF []).ringHalf (d0)) (fkeyOf (ka) (d0)))) (fkeyOf (ka) (d0))).get (by decide +kernel))).get (by decide +kernel)), rfl, dueOf rfl (by decide +kernel), by decide +kernel⟩,
   ⟨hosted, d0, ka, (bucketOwner ((hosted).fdbBucket ((hosted).ringHalf (d0)) (fkeyOf (ka) (d0)))), false, false, false, false, 0, 0, fun e => (!false || e.key.slice = d0.slice) && (!false || e.port = 0) && (!false || e.key.scope = 0) && (false || !e.static), rfl, rfl, dueOf rfl (by decide +kernel), by decide +kernel⟩⟩

/-- The cases of FdbHostLockAndRetry can be met. -/
theorem test_witness_FdbHostLockAndRetry :
    (∃ (s : State) (d : Hdr) (b : Nat), (due s (.lock d b)) ∧ (served s d (fdbRule 0x23 false) true (cleanHdr d false false false && decide (b < 1048576))) ∧ (s.lockOf b = none) ∧ (s.hostLocks (bucketOwner b) < 256))
    ∧ (∃ (s : State) (d : Hdr) (b : Nat), (due s (.unlock d b)) ∧ (served s d (fdbRule 0x24 false) true (cleanHdr d false true false && decide (b < 1048576))) ∧ (s.heldBy b d.token = true) ∧ (s.fdb.portDel = []) ∧ (s.fdb.resyncLeft = []))
    ∧ (∃ (s : State) (d : Hdr) (b : Nat), (due s (.unlock d b)) ∧ (served s d (fdbRule 0x24 false) true (cleanHdr d false true false && decide (b < 1048576))) ∧ (s.heldBy b d.token = false))
    ∧ (∃ (s : State) (d : Hdr) (b : Nat) (way : Nat) (bs : List Byte) (e : FdbEnt), (due s (.fdbWayWrite d b way)) ∧ (served s d (fdbRule 0x25 false) true (cleanHdr d false true true && decide (b < 1048576) && decide (way < 4) && decide (32 ≤ d.hlen))) ∧ (d.buf = some bs) ∧ (s.heldBy b d.token = true) ∧ (entOf bs = some e) ∧ ((∀ x ∈ s.fdb.ents, x.2.key ≠ e.key)))
    ∧ (∃ (s : State) (d : Hdr) (b : Nat) (way : Nat) (bs : List Byte), (due s (.fdbWayWrite d b way)) ∧ (served s d (fdbRule 0x25 false) true (cleanHdr d false true true && decide (b < 1048576) && decide (way < 4) && decide (32 ≤ d.hlen))) ∧ (d.buf = some bs) ∧ (s.heldBy b d.token = false))
    ∧ (∃ (s : State) (d : Hdr) (b : Nat) (left : Nat), (due s (.lock d b)) ∧ (served s d (fdbRule 0x23 false) true (cleanHdr d false false false && decide (b < 1048576))) ∧ (s.fdb.retries = []) ∧ ((s.lockOf b).isSome = true) ∧ (0 < s.rd .FDB_LOCK_CFG_read_retry [(bucketOwner b).n]))
    ∧ (∃ (s : State) (d : Hdr) (b : Nat) (left : Nat) (l : Lock), (served s d (fdbRule 0x23 false) true (cleanHdr d false false false && decide (b < 1048576))) ∧ (s.fdb.retries = [⟨d, .lock d b, left⟩]) ∧ (s.lockOf b = some l) ∧ (left ≠ noLimit) ∧ (0 < s.rd .FDB_LOCK_CFG_read_retry [(bucketOwner b).n]))
    ∧ (∃ (s : State) (d : Hdr) (b : Nat) (left : Nat), (served s d (fdbRule 0x23 false) true (cleanHdr d false false false && decide (b < 1048576))) ∧ (s.fdb.retries = [⟨d, .lock d b, left⟩]) ∧ (s.lockOf b = none) ∧ (s.hostLocks (bucketOwner b) < 256)) :=
  ⟨⟨hosted, d0, 0, dueOf rfl (by decide +kernel), by decide +kernel⟩,
   ⟨hL 0 [], (hd false false 0 9 []), 0, dueOf rfl (by decide +kernel), by decide +kernel⟩,
   ⟨hosted, d0, 0, dueOf rfl (by decide +kernel), by decide +kernel⟩,
   ⟨hL 0 [], (hd false false 0 9 (leBytes 32 (2 ^ 246))), 0, 0, leBytes 32 (2 ^ 246), ((entOf (leBytes 32 (2 ^ 246))).get (by decide +kernel)), dueOf rfl (by decide +kernel), by decide +kernel⟩,
   ⟨hosted, (hd false false 0 0 (z 128)), 0, 0, z 128, dueOf rfl (by decide +kernel), by decide +kernel⟩,
   ⟨hL 0 [(.FDB_LOCK_CFG_read_retry, [0], 4)], d0, 0, 0, dueOf rfl (by decide +kernel), by decide +kernel⟩,
   ⟨{ hL 0 [(.FDB_LOCK_CFG_read_retry, [0], 4)] with fdb := { (hL 0 []).fdb with retries := [⟨d0, .lock d0 0, 3⟩] } }, d0, 0, 3, ((({ hL 0 [(.FDB_LOCK_CFG_read_retry, [0], 4)] with fdb := { (hL 0 []).fdb with retries := [⟨d0, .lock d0 0, 3⟩] } } : State).lockOf (0)).get (by decide +kernel)), by decide +kernel⟩,
   ⟨{ hosted with fdb := { hosted.fdb with retries := [⟨d0, .lock d0 0, 3⟩] } }, d0, 0, 3, by decide +kernel⟩⟩

/-- The cases of FdbRead can be met. -/
theorem test_witness_FdbRead :
    (∃ (s : State) (d : Hdr) (ka : KeyArg) (mode : Nat) (idx : Nat) (b : Nat) (o : Half) (out : Option (List Byte × Nat)), (b = (match mode with | 0 => s.fdbBucket (s.ringHalf d) (fkeyOf ka d) | 1 => idx | _ => s.fdbBucketAt (Half.of (idx / 8192)) [ovfBucket, idx])) ∧ (o = (if mode = 2 then Half.of (idx / 8192) else bucketOwner b)) ∧ (out = (match mode with | 0 => (s.fdbFind o (fkeyOf ka d)).map (fun p => (entBytes (s.fdbAt o p), 0)) | 1 => some ((List.range 4).flatMap (fun w => entBytes (s.fdbAt o [idx, w])), (s.fdbOvfOf o idx).length) | _ => (s.fdbAt o [ovfBucket, idx]).map (fun e => (entBytes (some e), 0)))) ∧ (due s (.fdbRead d mode ka idx)) ∧ (served s d ⟨0x22, .reads, false, true, 0⟩ (ownSlice d d.slice && (d.fn = 0 || mode = 0)) (cleanHdr d true true true && (match mode with | 0 => true | 1 => decide (idx < 1048576) | 2 => decide (idx < 16384) | _ => false) && decide ((if mode = 1 then 128 else 32) ≤ d.hlen))) ∧ ((mode = 0 → (fkeyOf ka d).bad = false)) ∧ ((s.bridgeUp = true ∨ o = s.ringHalf d)) ∧ ((d.token = 0 ∨ s.fdb.broken.get? [o.n, b, d.token] = none)) ∧ ((s.lockOf b = none ∨ s.heldBy b d.token = true)) ∧ (d.buf.isSome = true) ∧ (s.ras.poison = [])) :=
  ⟨hF [], (hd false false 0 0 (z 128)), ka, 0, 0, ((match (0) with | 0 => (hF []).fdbBucket ((hF []).ringHalf ((hd false false 0 0 (z 128)))) (fkeyOf (ka) ((hd false false 0 0 (z 128)))) | 1 => (0) | _ => (hF []).fdbBucketAt (Half.of ((0) / 8192)) [ovfBucket, (0)])), ((if (0) = 2 then Half.of ((0) / 8192) else bucketOwner ((match (0) with | 0 => (hF []).fdbBucket ((hF []).ringHalf ((hd false false 0 0 (z 128)))) (fkeyOf (ka) ((hd false false 0 0 (z 128)))) | 1 => (0) | _ => (hF []).fdbBucketAt (Half.of ((0) / 8192)) [ovfBucket, (0)])))), ((match (0) with | 0 => ((hF []).fdbFind ((if (0) = 2 then Half.of ((0) / 8192) else bucketOwner ((match (0) with | 0 => (hF []).fdbBucket ((hF []).ringHalf ((hd false false 0 0 (z 128)))) (fkeyOf (ka) ((hd false false 0 0 (z 128)))) | 1 => (0) | _ => (hF []).fdbBucketAt (Half.of ((0) / 8192)) [ovfBucket, (0)])))) (fkeyOf (ka) ((hd false false 0 0 (z 128))))).map (fun p => (entBytes ((hF []).fdbAt ((if (0) = 2 then Half.of ((0) / 8192) else bucketOwner ((match (0) with | 0 => (hF []).fdbBucket ((hF []).ringHalf ((hd false false 0 0 (z 128)))) (fkeyOf (ka) ((hd false false 0 0 (z 128)))) | 1 => (0) | _ => (hF []).fdbBucketAt (Half.of ((0) / 8192)) [ovfBucket, (0)])))) p), 0)) | 1 => some ((List.range 4).flatMap (fun w => entBytes ((hF []).fdbAt ((if (0) = 2 then Half.of ((0) / 8192) else bucketOwner ((match (0) with | 0 => (hF []).fdbBucket ((hF []).ringHalf ((hd false false 0 0 (z 128)))) (fkeyOf (ka) ((hd false false 0 0 (z 128)))) | 1 => (0) | _ => (hF []).fdbBucketAt (Half.of ((0) / 8192)) [ovfBucket, (0)])))) [(0), w])), ((hF []).fdbOvfOf ((if (0) = 2 then Half.of ((0) / 8192) else bucketOwner ((match (0) with | 0 => (hF []).fdbBucket ((hF []).ringHalf ((hd false false 0 0 (z 128)))) (fkeyOf (ka) ((hd false false 0 0 (z 128)))) | 1 => (0) | _ => (hF []).fdbBucketAt (Half.of ((0) / 8192)) [ovfBucket, (0)])))) (0)).length) | _ => ((hF []).fdbAt ((if (0) = 2 then Half.of ((0) / 8192) else bucketOwner ((match (0) with | 0 => (hF []).fdbBucket ((hF []).ringHalf ((hd false false 0 0 (z 128)))) (fkeyOf (ka) ((hd false false 0 0 (z 128)))) | 1 => (0) | _ => (hF []).fdbBucketAt (Half.of ((0) / 8192)) [ovfBucket, (0)])))) [ovfBucket, (0)]).map (fun e => (entBytes (some e), 0)))), rfl, rfl, rfl, dueOf rfl (by decide +kernel), by decide +kernel⟩

/-- The cases of FdbLearning can be met. -/
theorem test_witness_FdbLearning :
    (∃ (s : State) (h : Half) (e : Half × LearnEv), (s.fdb.learns.find? (fun e => e.1 = h) = some e) ∧ ((s.fdb.learnQ.filter (fun e => e.1 = h)).length < 4096) ∧ (s.xingBusy h 3 0 = false))
    ∧ (∃ (s : State) (h : Half) (ev : LearnEv) (rest : List (Half × LearnEv)) (p : List Nat) (b : Nat), (b = s.fdbBucket h ev.key) ∧ (s.learnBusy h = false) ∧ (s.serves h 4 [BitVec.ofNat 64 ev.key.addr] = true) ∧ (s.ras.poison = []) ∧ (s.fdb.defer = []) ∧ (s.on .FDB_LEARN_CFG_learn_run [h.n] = true) ∧ (s.fdb.learnQ = (h, ev) :: rest) ∧ (s.lockOf b = none) ∧ (s.fdbFind h ev.key = none) ∧ (s.rd .FDB_SLICE_USE_used [h.n, ev.key.slice] < s.rd .FDB_SLICE_CFG_quota [h.n, ev.key.slice]) ∧ (s.fdbFree h b = some p))
    ∧ (∃ (s : State) (h : Half) (m : FdbMsg), (s.fdb.msgs.find? (fun m => m.dst = h) = some m))
    ∧ (∃ (s : State) (h : Half) (m : Half × Nat), (s.fdb.acks.find? (fun m => m.1 = h) = some m) ∧ (s.hostHeld m.2 = false) ∧ (s.fdb.portDel = []) ∧ (s.fdb.resyncLeft = [])) :=
  ⟨⟨{ hosted with fdb := { hosted.fdb with learns := [(.E, (⟨fk, 3, .E⟩ : LearnEv))] } }, .E, ((({ hosted with fdb := { hosted.fdb with learns := [(.E, (⟨fk, 3, .E⟩ : LearnEv))] } } : State).fdb.learns.find? (fun e => e.1 = (.E))).get (by decide +kernel)), by decide +kernel⟩,
   ⟨{ hs [(.FDB_SLICE_CFG_quota, [0, 0], 9), (.FDB_SLICE_CFG_quota, [1, 0], 9), (.FDB_LEARN_CFG_learn_run, [0], 1), (.FDB_LEARN_CFG_learn_run, [1], 1)] with fdb := { hosted.fdb with learnQ := [(bucketOwner fb, ⟨fk, 3, bucketOwner fb⟩)] } }, bucketOwner fb, (⟨fk, 3, bucketOwner fb⟩ : LearnEv), [], ((({ hs [(.FDB_SLICE_CFG_quota, [0, 0], 9), (.FDB_SLICE_CFG_quota, [1, 0], 9), (.FDB_LEARN_CFG_learn_run, [0], 1), (.FDB_LEARN_CFG_learn_run, [1], 1)] with fdb := { hosted.fdb with learnQ := [(bucketOwner fb, ⟨fk, 3, bucketOwner fb⟩)] } } : State).fdbFree (bucketOwner fb) (({ hs [(.FDB_SLICE_CFG_quota, [0, 0], 9), (.FDB_SLICE_CFG_quota, [1, 0], 9), (.FDB_LEARN_CFG_learn_run, [0], 1), (.FDB_LEARN_CFG_learn_run, [1], 1)] with fdb := { hosted.fdb with learnQ := [(bucketOwner fb, ⟨fk, 3, bucketOwner fb⟩)] } } : State).fdbBucket (bucketOwner fb) ((⟨fk, 3, bucketOwner fb⟩ : LearnEv)).key)).get (by decide +kernel)), (({ hs [(.FDB_SLICE_CFG_quota, [0, 0], 9), (.FDB_SLICE_CFG_quota, [1, 0], 9), (.FDB_LEARN_CFG_learn_run, [0], 1), (.FDB_LEARN_CFG_learn_run, [1], 1)] with fdb := { hosted.fdb with learnQ := [(bucketOwner fb, ⟨fk, 3, bucketOwner fb⟩)] } } : State).fdbBucket (bucketOwner fb) ((⟨fk, 3, bucketOwner fb⟩ : LearnEv)).key), rfl, by decide +kernel⟩,
   ⟨{ hosted with fdb := { hosted.fdb with msgs := [⟨.E, 4, [4, 0], none⟩] } }, .E, ((({ hosted with fdb := { hosted.fdb with msgs := [⟨.E, 4, [4, 0], none⟩] } } : State).fdb.msgs.find? (fun m => m.dst = (.E))).get (by decide +kernel)), by decide +kernel⟩,
   ⟨{ hosted with fdb := { hosted.fdb with acks := [(.E, 4)] } }, .E, ((({ hosted with fdb := { hosted.fdb with acks := [(.E, 4)] } } : State).fdb.acks.find? (fun m => m.1 = (.E))).get (by decide +kernel)), by decide +kernel⟩⟩

/-- The cases of HitStampsResyncAndSeed can be met. -/
theorem test_witness_HitStampsResyncAndSeed :
    (∃ (s : State) (h : Half) (m : Half × List Nat × FKey) (e : FdbEnt), (s.fdb.hits.find? (fun m => m.1 = h) = some m) ∧ (s.fdbAt h m.2.1 = some e) ∧ (s.ras.poison = []))
    ∧ (∃ (s : State) (h : Half) (g : Half × List Nat × FKey × Nat × Nat) (e : FdbEnt), (s.fdb.tags.find? (fun t => t.1 = h) = some g) ∧ (s.fdbAt h g.2.1 = some e) ∧ ((s.fdb.tags.erase g).find? (sameTag g) = none))
    ∧ (∃ (s : State) (h : Half) (g : Half × List Nat × FKey × Nat × Nat), (s.fdb.tags.find? (fun t => t.1 = h) = some g) ∧ (((s.fdb.tags.erase g).find? (sameTag g)).isSome = true))
    ∧ (∃ (s : State) (h : Half), (s.fdb.resync.contains h = true) ∧ (s.fdb.locks.any (fun l => l.1.head? = some h.n) = false) ∧ (s.fdb.resyncLeft.any (fun d => d.1 = h) = false) ∧ (s.ras.poison = []))
    ∧ (∃ (s : State) (h : Half) (v : Nat), ((∃ x : Half, s.rd .FDB_OCC_bucket_used [x.n] ≠ 0 ∨ s.rd .FDB_OCC_ovf_used [x.n] ≠ 0)) ∧ (v < 2 ^ 32) ∧ (s.regOff (decide (h = .W)) = false))
    ∧ (∃ (s : State) (h : Half) (v : Nat), ((∀ x : Half, s.rd .FDB_OCC_bucket_used [x.n] = 0 ∧ s.rd .FDB_OCC_ovf_used [x.n] = 0)) ∧ (v < 2 ^ 32) ∧ (s.regOff (decide (h = .W)) = false)) :=
  ⟨⟨{ hF [] with fdb := { (hF []).fdb with hits := [(bucketOwner fb, [fb, 0], fk)] } }, bucketOwner fb, ((({ hF [] with fdb := { (hF []).fdb with hits := [(bucketOwner fb, [fb, 0], fk)] } } : State).fdb.hits.find? (fun m => m.1 = (bucketOwner fb))).get (by decide +kernel)), ((({ hF [] with fdb := { (hF []).fdb with hits := [(bucketOwner fb, [fb, 0], fk)] } } : State).fdbAt (bucketOwner fb) ((({ hF [] with fdb := { (hF []).fdb with hits := [(bucketOwner fb, [fb, 0], fk)] } } : State).fdb.hits.find? (fun m => m.1 = (bucketOwner fb))).get (by decide +kernel)).2.1).get (by decide +kernel)), by decide +kernel⟩,
   ⟨{ hF [] with fdb := { (hF []).fdb with tags := [(bucketOwner fb, [fb, 0], fk, 0, 0)] } }, bucketOwner fb, ((({ hF [] with fdb := { (hF []).fdb with tags := [(bucketOwner fb, [fb, 0], fk, 0, 0)] } } : State).fdb.tags.find? (fun t => t.1 = (bucketOwner fb))).get (by decide +kernel)), ((({ hF [] with fdb := { (hF []).fdb with tags := [(bucketOwner fb, [fb, 0], fk, 0, 0)] } } : State).fdbAt (bucketOwner fb) ((({ hF [] with fdb := { (hF []).fdb with tags := [(bucketOwner fb, [fb, 0], fk, 0, 0)] } } : State).fdb.tags.find? (fun t => t.1 = (bucketOwner fb))).get (by decide +kernel)).2.1).get (by decide +kernel)), by decide +kernel⟩,
   ⟨{ hosted with fdb := { hosted.fdb with tags := [(Half.E, [fb, 0], fk, 0, 0), (Half.E, [fb, 0], fk, 0, 0)] } }, Half.E, (Half.E, [fb, 0], fk, 0, 0), by decide +kernel⟩,
   ⟨{ hosted with fdb := { hosted.fdb with resync := [.E] } }, .E, by decide +kernel⟩,
   ⟨hs [(.FDB_OCC_bucket_used, [0], 1)], .E, 0, ⟨.E, by decide +kernel⟩, by decide +kernel⟩,
   ⟨hosted, .E, 0, by intro h; cases h <;> decide +kernel, by decide +kernel⟩⟩

/-- The cases of AgeingAndLeases can be met. -/
theorem test_witness_AgeingAndLeases :
    (∃ (s : State) (b : Nat) (e : FdbEnt) (o : Half), (o = bucketOwner b) ∧ ((∀ w, 0 < w → w < 4 → s.fdbAt o [b, w] = none)) ∧ (b < 1048576) ∧ (s.on .FDB_AGE_CFG_age_run [o.n] = true) ∧ (s.lockOf b = none) ∧ (s.fdbAt o [b, 0] = some e) ∧ (s.fdbOvf o = []) ∧ (s.serves o 5 [] = true) ∧ (s.fdb.swept.getD [o.n, b] false = false) ∧ (s.ras.poison = []) ∧ (s.fdb.hits = []) ∧ (s.fdb.tags = []))
    ∧ (∃ (s : State) (b : Nat) (l : Lock), (s.lockOf b = some l) ∧ (s.serves (bucketOwner b) 0 [BitVec.ofNat 64 b] = true) ∧ (s.xingBusy (bucketOwner b) 4 0 = false) ∧ (s.fdb.portDel = []) ∧ (s.fdb.resyncLeft = [])) :=
  ⟨⟨hF [(.FDB_AGE_CFG_age_run, [0], 1), (.FDB_AGE_CFG_age_run, [1], 1)], fb, (((hF [(.FDB_AGE_CFG_age_run, [0], 1), (.FDB_AGE_CFG_age_run, [1], 1)]).fdbAt (bucketOwner (fb)) [(fb), 0]).get (by decide +kernel)), (bucketOwner (fb)), rfl, by intro w h1 h2; have : w = 1 ∨ w = 2 ∨ w = 3 := (by omega); rcases this with h | h | h <;> subst h <;> decide +kernel, by decide +kernel⟩,
   ⟨hL 0 [], 0, (((hL 0 []).lockOf (0)).get (by decide +kernel)), by decide +kernel⟩⟩

/-- The cases of ParseSendsToStages can be met. -/
theorem test_witness_ParseSendsToStages :
    (∃ (s : State) (u : State) (pipe : Nat) (f : Frame) (p : Prog) (ps : PState) (pix : List Nat), (p = s.prog (if 1024 ≤ f.inPort ∧ f.inPort < 1056 then f.tag else s.activeOf (pipeHalf pipe))) ∧ (pix = [pipe, s.rd .PAR_PORT_CFG_profile [pipe, parEntry f.inPort]]) ∧ (ps = parseRun p (f.bytes.take (f.bytes.length - 4)) (max 1 (min 16 (s.rd .PAR_PROFILE_hdr_limit pix))) (max 64 (min 512 (s.rd .PAR_PROFILE_depth_limit pix))) 18 PState.start) ∧ ((s.prog (s.activeOf (pipeHalf pipe))).loaded = true) ∧ (2 ≤ s.mode ∧ s.mode ≤ 5) ∧ (s.arbitrate pipe = (some f, u)) ∧ (ps.conflict = false) ∧ (ps.short = false) ∧ (ps.trunc = false)) :=
  ⟨withFr ({ hT [] with progA := { (hT []).progA with states := [([0], 255 * 2 ^ 103 + 14 * 2 ^ 10)] } }) { Frame.atPort (z 64) 0 0 0 with id := 0, loc := .input }, (((withFr ({ hT [] with progA := { (hT []).progA with states := [([0], 255 * 2 ^ 103 + 14 * 2 ^ 10)] } }) { Frame.atPort (z 64) 0 0 0 with id := 0, loc := .input }).arbitrate (0)).2), 0, ((((withFr ({ hT [] with progA := { (hT []).progA with states := [([0], 255 * 2 ^ 103 + 14 * 2 ^ 10)] } }) { Frame.atPort (z 64) 0 0 0 with id := 0, loc := .input }).arbitrate (0)).1).get (by decide +kernel)), ((withFr ({ hT [] with progA := { (hT []).progA with states := [([0], 255 * 2 ^ 103 + 14 * 2 ^ 10)] } }) { Frame.atPort (z 64) 0 0 0 with id := 0, loc := .input }).prog (if 1024 ≤ ((((withFr ({ hT [] with progA := { (hT []).progA with states := [([0], 255 * 2 ^ 103 + 14 * 2 ^ 10)] } }) { Frame.atPort (z 64) 0 0 0 with id := 0, loc := .input }).arbitrate (0)).1).get (by decide +kernel)).inPort ∧ ((((withFr ({ hT [] with progA := { (hT []).progA with states := [([0], 255 * 2 ^ 103 + 14 * 2 ^ 10)] } }) { Frame.atPort (z 64) 0 0 0 with id := 0, loc := .input }).arbitrate (0)).1).get (by decide +kernel)).inPort < 1056 then ((((withFr ({ hT [] with progA := { (hT []).progA with states := [([0], 255 * 2 ^ 103 + 14 * 2 ^ 10)] } }) { Frame.atPort (z 64) 0 0 0 with id := 0, loc := .input }).arbitrate (0)).1).get (by decide +kernel)).tag else (withFr ({ hT [] with progA := { (hT []).progA with states := [([0], 255 * 2 ^ 103 + 14 * 2 ^ 10)] } }) { Frame.atPort (z 64) 0 0 0 with id := 0, loc := .input }).activeOf (pipeHalf (0)))), (parseRun ((withFr ({ hT [] with progA := { (hT []).progA with states := [([0], 255 * 2 ^ 103 + 14 * 2 ^ 10)] } }) { Frame.atPort (z 64) 0 0 0 with id := 0, loc := .input }).prog (if 1024 ≤ ((((withFr ({ hT [] with progA := { (hT []).progA with states := [([0], 255 * 2 ^ 103 + 14 * 2 ^ 10)] } }) { Frame.atPort (z 64) 0 0 0 with id := 0, loc := .input }).arbitrate (0)).1).get (by decide +kernel)).inPort ∧ ((((withFr ({ hT [] with progA := { (hT []).progA with states := [([0], 255 * 2 ^ 103 + 14 * 2 ^ 10)] } }) { Frame.atPort (z 64) 0 0 0 with id := 0, loc := .input }).arbitrate (0)).1).get (by decide +kernel)).inPort < 1056 then ((((withFr ({ hT [] with progA := { (hT []).progA with states := [([0], 255 * 2 ^ 103 + 14 * 2 ^ 10)] } }) { Frame.atPort (z 64) 0 0 0 with id := 0, loc := .input }).arbitrate (0)).1).get (by decide +kernel)).tag else (withFr ({ hT [] with progA := { (hT []).progA with states := [([0], 255 * 2 ^ 103 + 14 * 2 ^ 10)] } }) { Frame.atPort (z 64) 0 0 0 with id := 0, loc := .input }).activeOf (pipeHalf (0)))) (((((withFr ({ hT [] with progA := { (hT []).progA with states := [([0], 255 * 2 ^ 103 + 14 * 2 ^ 10)] } }) { Frame.atPort (z 64) 0 0 0 with id := 0, loc := .input }).arbitrate (0)).1).get (by decide +kernel)).bytes.take (((((withFr ({ hT [] with progA := { (hT []).progA with states := [([0], 255 * 2 ^ 103 + 14 * 2 ^ 10)] } }) { Frame.atPort (z 64) 0 0 0 with id := 0, loc := .input }).arbitrate (0)).1).get (by decide +kernel)).bytes.length - 4)) (max 1 (min 16 ((withFr ({ hT [] with progA := { (hT []).progA with states := [([0], 255 * 2 ^ 103 + 14 * 2 ^ 10)] } }) { Frame.atPort (z 64) 0 0 0 with id := 0, loc := .input }).rd .PAR_PROFILE_hdr_limit ([(0), (withFr ({ hT [] with progA := { (hT []).progA with states := [([0], 255 * 2 ^ 103 + 14 * 2 ^ 10)] } }) { Frame.atPort (z 64) 0 0 0 with id := 0, loc := .input }).rd .PAR_PORT_CFG_profile [(0), parEntry ((((withFr ({ hT [] with progA := { (hT []).progA with states := [([0], 255 * 2 ^ 103 + 14 * 2 ^ 10)] } }) { Frame.atPort (z 64) 0 0 0 with id := 0, loc := .input }).arbitrate (0)).1).get (by decide +kernel)).inPort]])))) (max 64 (min 512 ((withFr ({ hT [] with progA := { (hT []).progA with states := [([0], 255 * 2 ^ 103 + 14 * 2 ^ 10)] } }) { Frame.atPort (z 64) 0 0 0 with id := 0, loc := .input }).rd .PAR_PROFILE_depth_limit ([(0), (withFr ({ hT [] with progA := { (hT []).progA with states := [([0], 255 * 2 ^ 103 + 14 * 2 ^ 10)] } }) { Frame.atPort (z 64) 0 0 0 with id := 0, loc := .input }).rd .PAR_PORT_CFG_profile [(0), parEntry ((((withFr ({ hT [] with progA := { (hT []).progA with states := [([0], 255 * 2 ^ 103 + 14 * 2 ^ 10)] } }) { Frame.atPort (z 64) 0 0 0 with id := 0, loc := .input }).arbitrate (0)).1).get (by decide +kernel)).inPort]])))) 18 PState.start), ([(0), (withFr ({ hT [] with progA := { (hT []).progA with states := [([0], 255 * 2 ^ 103 + 14 * 2 ^ 10)] } }) { Frame.atPort (z 64) 0 0 0 with id := 0, loc := .input }).rd .PAR_PORT_CFG_profile [(0), parEntry ((((withFr ({ hT [] with progA := { (hT []).progA with states := [([0], 255 * 2 ^ 103 + 14 * 2 ^ 10)] } }) { Frame.atPort (z 64) 0 0 0 with id := 0, loc := .input }).arbitrate (0)).1).get (by decide +kernel)).inPort]]), rfl, rfl, rfl, by decide +kernel⟩

/-- The cases of StagePassAndRegMissed can be met. -/
theorem test_witness_StagePassAndRegMissed :
    (∃ (s : State) (u : State) (id : Nat) (f : Frame) (c : Option (Nat × Nat)) (r : Frame × State), (s.choose (s.prog f.tag) f.pipe f.stage f = (c, u)) ∧ (r = (match c with | some (act, adata) => u.runOps f.pipe (decide (20 ≤ f.stage)) adata f (oneReg false ((Config.decodeActionProgram ((s.prog f.tag).act.getD [f.stage, act] 0)).take 16)) | none => (f, u))) ∧ (s.fr? id = some f) ∧ (f.loc = .stages) ∧ (f.stage ≠ 19) ∧ (f.stage < 31) ∧ (s.stageHeld f = false))
    ∧ (∃ (s : State) (u : State) (id : Nat) (f : Frame) (c : Option (Nat × Nat)) (r : Frame × State), (s.choose (s.prog f.tag) f.pipe f.stage f = (c, u)) ∧ (r = (match c with | some (act, adata) => u.runOps f.pipe (decide (20 ≤ f.stage)) adata f (oneReg false ((Config.decodeActionProgram ((s.prog f.tag).act.getD [f.stage, act] 0)).take 16)) | none => (f, u))) ∧ (s.fr? id = some f) ∧ (f.loc = .stages) ∧ (f.stage = 19) ∧ (f.mirror = false) ∧ (f.fdbRes = none) ∧ (s.rd .FDB_REQ_issue_stage [(pipeHalf f.pipe).n, f.tag] ≠ 19) ∧ (s.stageHeld f = false))
    ∧ (∃ (s : State) (u : State) (id : Nat) (f : Frame) (c : Option (Nat × Nat)) (r : Frame × State), (s.choose (s.prog f.tag) f.pipe f.stage f = (c, u)) ∧ (r = (match c with | some (act, adata) => u.runOps f.pipe (decide (20 ≤ f.stage)) adata f (oneReg false ((Config.decodeActionProgram ((s.prog f.tag).act.getD [f.stage, act] 0)).take 16)) | none => (f, u))) ∧ (s.fr? id = some f) ∧ (f.loc = .stages) ∧ (f.stage = 31) ∧ (f.mirror = false) ∧ (f.fdbRes = none) ∧ (r.1.m 273 1 = 0) ∧ (s.stageHeld f = false))
    ∧ (∃ (s : State) (u : State) (id : Nat) (f : Frame) (c : Option (Nat × Nat)) (r : Frame × State), (s.choose (s.prog f.tag) f.pipe f.stage f = (c, u)) ∧ (r = (match c with | some (act, adata) => u.runOps f.pipe (decide (20 ≤ f.stage)) adata f (oneReg false ((Config.decodeActionProgram ((s.prog f.tag).act.getD [f.stage, act] 0)).take 16)) | none => (f, u))) ∧ (s.fr? id = some f) ∧ (f.loc = .stages) ∧ (f.stage = 31) ∧ (f.mirror = false) ∧ (f.fdbRes = none) ∧ (r.1.m 273 1 = 1) ∧ (s.stageHeld f = false))
    ∧ (∃ (s : State) (u : State) (id : Nat) (f : Frame) (c : Option (Nat × Nat)) (r : Frame × State), (s.choose (s.prog f.tag) f.pipe f.stage f = (c, u)) ∧ (r = (match c with | some (act, adata) => u.runOps f.pipe (decide (20 ≤ f.stage)) adata f (oneReg false ((Config.decodeActionProgram ((s.prog f.tag).act.getD [f.stage, act] 0)).take 16)) | none => (f, u))) ∧ (s.fr? id = some f) ∧ (f.loc = .stages) ∧ (f.mirror = true) ∧ (20 < f.stage) ∧ (f.fdbRes = none) ∧ (s.stageHeld f = false))
    ∧ (∃ (s : State) (u : State) (id : Nat) (f : Frame) (c : Option (Nat × Nat)) (r : Frame × State), (s.choose (s.prog f.tag) f.pipe f.stage f = (c, u)) ∧ (r = (match c with | some (act, adata) => u.runOps f.pipe (decide (20 ≤ f.stage)) adata f (oneReg false ((Config.decodeActionProgram ((s.prog f.tag).act.getD [f.stage, act] 0)).take 16)) | none => (f, u))) ∧ (s.fr? id = some f) ∧ (f.loc = .stages) ∧ (s.stageHeld f = true))
    ∧ (∃ (s : State) (u : State) (id : Nat) (f : Frame) (c : Option (Nat × Nat)) (r : Frame × State), (s.choose (s.prog f.tag) f.pipe f.stage f = (c, u)) ∧ (r = (match c with | some (act, adata) => u.runOps f.pipe (decide (20 ≤ f.stage)) adata f (oneReg false ((Config.decodeActionProgram ((s.prog f.tag).act.getD [f.stage, act] 0)).take 16)) | none => (f, u))) ∧ (s.fr? id = some f) ∧ (f.loc = .stages))
    ∧ (∃ (s : State) (pipe : Nat) (adata : Nat) (eg : Bool) (f : Frame) (cls : Nat) (idx : Nat) (a : Config.Src), (ctrOk cls idx = true))
    ∧ (∃ (s : State) (pipe : Nat) (adata : Nat) (eg : Bool) (f : Frame) (w : Nat) (cls : Nat) (idx : Nat) (a : Config.Src) (b : Config.Src), (ctrOk cls idx = true) ∧ (w = clsW cls))
    ∧ (∃ (s : State) (pipe : Nat) (adata : Nat) (eg : Bool) (f : Frame) (a : Config.Src) (n : Nat) (h : Half) (b : Nat), (n = srcVal f adata a % 16384) ∧ (h = pipeHalf pipe) ∧ (b = s.counted h (f.m 282 4) f.len) ∧ ((s.sched.pol.getD [h.n, n] Pol.off).cur.en = false ∨ f.color = 3))
    ∧ (∃ (s : State) (pipe : Nat) (adata : Nat) (eg : Bool) (f : Frame) (a : Config.Src) (n : Nat) (h : Half) (b : Nat) (p : Pol) (pre : Nat), (n = srcVal f adata a % 16384) ∧ (h = pipeHalf pipe) ∧ (b = s.counted h (f.m 282 4) f.len) ∧ (p = s.sched.pol.getD [h.n, n] Pol.off) ∧ (p.cur.en = true) ∧ (f.color ≠ 3) ∧ (pre = (if p.cur.aware = true then f.color else 0)))
    ∧ (∃ (s : State) (t : State) (f : Frame) (x : Frame) (h : Half) (ent : Nat), (t = s.afterI19 f) ∧ (ent = parEntry f.inPort) ∧ (s.fr? f.id = some x) ∧ (h = pipeHalf f.pipe) ∧ (s.on .GTE_LT_SRC_en [h.n, f.tag] = false) ∧ (f.m 275 1 = 0) ∧ (f.learn = none) ∧ (f.m 256 1 = 0))
    ∧ (∃ (s : State) (t : State) (f : Frame) (x : Frame) (h : Half) (ent : Nat), (t = s.afterI19 f) ∧ (ent = parEntry f.inPort) ∧ (s.fr? f.id = some x) ∧ (h = pipeHalf f.pipe) ∧ (s.on .GTE_LT_SRC_en [h.n, f.tag] = false) ∧ (f.m 275 1 = 0) ∧ (f.learn = none) ∧ (f.m 273 1 = 1))
    ∧ (∃ (s : State) (t : State) (f : Frame) (x : Frame) (h : Half) (ent : Nat), (t = s.afterI19 f) ∧ (ent = parEntry f.inPort) ∧ (s.fr? f.id = some x) ∧ (h = pipeHalf f.pipe) ∧ (s.on .GTE_LT_SRC_en [h.n, f.tag] = false) ∧ (f.m 275 1 = 0) ∧ (f.learn = none) ∧ (f.m 273 1 = 0) ∧ (f.m 256 1 = 0) ∧ (severity f.nmAct = 2))
    ∧ (∃ (s : State) (t : State) (f : Frame) (x : Frame) (h : Half) (ent : Nat), (t = s.afterI19 f) ∧ (ent = parEntry f.inPort) ∧ (s.fr? f.id = some x) ∧ (h = pipeHalf f.pipe) ∧ (s.on .GTE_LT_SRC_en [h.n, f.tag] = false) ∧ (f.m 275 1 = 0) ∧ (f.learn = none) ∧ (f.m 273 1 = 0) ∧ (f.m 274 1 = 1) ∧ ((f.m 256 1 = 0 → severity f.nmAct ≠ 2)) ∧ (1056 + f.trapPort < 1088))
    ∧ (∃ (s : State) (t : State) (f : Frame) (x : Frame) (h : Half) (ent : Nat), (t = s.afterI19 f) ∧ (ent = parEntry f.inPort) ∧ (s.fr? f.id = some x) ∧ (h = pipeHalf f.pipe) ∧ (s.on .GTE_LT_SRC_en [h.n, f.tag] = false) ∧ (f.m 275 1 = 0) ∧ (f.learn = none) ∧ (f.m 273 1 = 0) ∧ (f.m 274 1 = 0) ∧ (f.m 256 1 = 0) ∧ (severity f.nmAct = 1) ∧ (1056 + f.trapPort < 1088))
    ∧ (∃ (s : State) (t : State) (f : Frame) (x : Frame) (h : Half) (ent : Nat), (t = s.afterI19 f) ∧ (ent = parEntry f.inPort) ∧ (s.fr? f.id = some x) ∧ (h = pipeHalf f.pipe) ∧ (s.on .GTE_LT_SRC_en [h.n, f.tag] = false) ∧ (f.m 275 1 = 0) ∧ (f.learn = none) ∧ (f.m 273 1 = 0) ∧ (f.m 274 1 = 0) ∧ (f.m 256 1 = 0) ∧ (severity f.nmAct = 0) ∧ (f.nmPort < 1088))
    ∧ (∃ (s : State) (t : State) (f : Frame) (x : Frame) (h : Half) (ent : Nat), (t = s.afterI19 f) ∧ (ent = parEntry f.inPort) ∧ (s.fr? f.id = some x) ∧ (h = pipeHalf f.pipe) ∧ (s.on .GTE_LT_SRC_en [h.n, f.tag] = false) ∧ (f.m 275 1 = 0) ∧ (f.learn = none) ∧ (f.m 273 1 = 0) ∧ (f.m 274 1 = 0) ∧ (f.m 256 1 = 1) ∧ (f.dest < 1088)) :=
  ⟨⟨withFr (hs []) (({ Frame.blank with loc := .stages } : Frame)), (((withFr (hs []) (({ Frame.blank with loc := .stages } : Frame))).choose ((withFr (hs []) (({ Frame.blank with loc := .stages } : Frame))).prog (({ Frame.blank with loc := .stages } : Frame)).tag) (({ Frame.blank with loc := .stages } : Frame)).pipe (({ Frame.blank with loc := .stages } : Frame)).stage (({ Frame.blank with loc := .stages } : Frame))).2), 0, ({ Frame.blank with loc := .stages } : Frame), (((withFr (hs []) (({ Frame.blank with loc := .stages } : Frame))).choose ((withFr (hs []) (({ Frame.blank with loc := .stages } : Frame))).prog (({ Frame.blank with loc := .stages } : Frame)).tag) (({ Frame.blank with loc := .stages } : Frame)).pipe (({ Frame.blank with loc := .stages } : Frame)).stage (({ Frame.blank with loc := .stages } : Frame))).1), ((match (((withFr (hs []) (({ Frame.blank with loc := .stages } : Frame))).choose ((withFr (hs []) (({ Frame.blank with loc := .stages } : Frame))).prog (({ Frame.blank with loc := .stages } : Frame)).tag) (({ Frame.blank with loc := .stages } : Frame)).pipe (({ Frame.blank with loc := .stages } : Frame)).stage (({ Frame.blank with loc := .stages } : Frame))).1) with | some (act, adata) => (((withFr (hs []) (({ Frame.blank with loc := .stages } : Frame))).choose ((withFr (hs []) (({ Frame.blank with loc := .stages } : Frame))).prog (({ Frame.blank with loc := .stages } : Frame)).tag) (({ Frame.blank with loc := .stages } : Frame)).pipe (({ Frame.blank with loc := .stages } : Frame)).stage (({ Frame.blank with loc := .stages } : Frame))).2).runOps (({ Frame.blank with loc := .stages } : Frame)).pipe (decide (20 ≤ (({ Frame.blank with loc := .stages } : Frame)).stage)) adata (({ Frame.blank with loc := .stages } : Frame)) (oneReg false ((Config.decodeActionProgram (((withFr (hs []) (({ Frame.blank with loc := .stages } : Frame))).prog (({ Frame.blank with loc := .stages } : Frame)).tag).act.getD [(({ Frame.blank with loc := .stages } : Frame)).stage, act] 0)).take 16)) | none => ((({ Frame.blank with loc := .stages } : Frame)), (((withFr (hs []) (({ Frame.blank with loc := .stages } : Frame))).choose ((withFr (hs []) (({ Frame.blank with loc := .stages } : Frame))).prog (({ Frame.blank with loc := .stages } : Frame)).tag) (({ Frame.blank with loc := .stages } : Frame)).pipe (({ Frame.blank with loc := .stages } : Frame)).stage (({ Frame.blank with loc := .stages } : Frame))).2)))), (Prod.mk.eta).symm, rfl, by decide +kernel⟩,
   ⟨withFr (hs []) (({ Frame.blank with loc := .stages, stage := 19 } : Frame)), (((withFr (hs []) (({ Frame.blank with loc := .stages, stage := 19 } : Frame))).choose ((withFr (hs []) (({ Frame.blank with loc := .stages, stage := 19 } : Frame))).prog (({ Frame.blank with loc := .stages, stage := 19 } : Frame)).tag) (({ Frame.blank with loc := .stages, stage := 19 } : Frame)).pipe (({ Frame.blank with loc := .stages, stage := 19 } : Frame)).stage (({ Frame.blank with loc := .stages, stage := 19 } : Frame))).2), 0, ({ Frame.blank with loc := .stages, stage := 19 } : Frame), (((withFr (hs []) (({ Frame.blank with loc := .stages, stage := 19 } : Frame))).choose ((withFr (hs []) (({ Frame.blank with loc := .stages, stage := 19 } : Frame))).prog (({ Frame.blank with loc := .stages, stage := 19 } : Frame)).tag) (({ Frame.blank with loc := .stages, stage := 19 } : Frame)).pipe (({ Frame.blank with loc := .stages, stage := 19 } : Frame)).stage (({ Frame.blank with loc := .stages, stage := 19 } : Frame))).1), ((match (((withFr (hs []) (({ Frame.blank with loc := .stages, stage := 19 } : Frame))).choose ((withFr (hs []) (({ Frame.blank with loc := .stages, stage := 19 } : Frame))).prog (({ Frame.blank with loc := .stages, stage := 19 } : Frame)).tag) (({ Frame.blank with loc := .stages, stage := 19 } : Frame)).pipe (({ Frame.blank with loc := .stages, stage := 19 } : Frame)).stage (({ Frame.blank with loc := .stages, stage := 19 } : Frame))).1) with | some (act, adata) => (((withFr (hs []) (({ Frame.blank with loc := .stages, stage := 19 } : Frame))).choose ((withFr (hs []) (({ Frame.blank with loc := .stages, stage := 19 } : Frame))).prog (({ Frame.blank with loc := .stages, stage := 19 } : Frame)).tag) (({ Frame.blank with loc := .stages, stage := 19 } : Frame)).pipe (({ Frame.blank with loc := .stages, stage := 19 } : Frame)).stage (({ Frame.blank with loc := .stages, stage := 19 } : Frame))).2).runOps (({ Frame.blank with loc := .stages, stage := 19 } : Frame)).pipe (decide (20 ≤ (({ Frame.blank with loc := .stages, stage := 19 } : Frame)).stage)) adata (({ Frame.blank with loc := .stages, stage := 19 } : Frame)) (oneReg false ((Config.decodeActionProgram (((withFr (hs []) (({ Frame.blank with loc := .stages, stage := 19 } : Frame))).prog (({ Frame.blank with loc := .stages, stage := 19 } : Frame)).tag).act.getD [(({ Frame.blank with loc := .stages, stage := 19 } : Frame)).stage, act] 0)).take 16)) | none => ((({ Frame.blank with loc := .stages, stage := 19 } : Frame)), (((withFr (hs []) (({ Frame.blank with loc := .stages, stage := 19 } : Frame))).choose ((withFr (hs []) (({ Frame.blank with loc := .stages, stage := 19 } : Frame))).prog (({ Frame.blank with loc := .stages, stage := 19 } : Frame)).tag) (({ Frame.blank with loc := .stages, stage := 19 } : Frame)).pipe (({ Frame.blank with loc := .stages, stage := 19 } : Frame)).stage (({ Frame.blank with loc := .stages, stage := 19 } : Frame))).2)))), (Prod.mk.eta).symm, rfl, by decide +kernel⟩,
   ⟨withFr hosted (({ Frame.blank with loc := .stages, stage := 31 } : Frame)), withFr hosted (({ Frame.blank with loc := .stages, stage := 31 } : Frame)), 0, ({ Frame.blank with loc := .stages, stage := 31 } : Frame), none, (({ Frame.blank with loc := .stages, stage := 31 } : Frame), withFr hosted (({ Frame.blank with loc := .stages, stage := 31 } : Frame))), choose_empty _ _ _ _ _ (by decide +kernel), rfl, by decide +kernel⟩,
   ⟨withFr hosted (({ Frame.blank with loc := .stages, stage := 31 } : Frame).mset 273 1 1), withFr hosted (({ Frame.blank with loc := .stages, stage := 31 } : Frame).mset 273 1 1), 0, ({ Frame.blank with loc := .stages, stage := 31 } : Frame).mset 273 1 1, none, (({ Frame.blank with loc := .stages, stage := 31 } : Frame).mset 273 1 1, withFr hosted (({ Frame.blank with loc := .stages, stage := 31 } : Frame).mset 273 1 1)), choose_empty _ _ _ _ _ (by decide +kernel), rfl, by decide +kernel⟩,
   ⟨withFr (hs []) (({ Frame.blank with loc := .stages, stage := 22, mirror := true } : Frame)), (((withFr (hs []) (({ Frame.blank with loc := .stages, stage := 22, mirror := true } : Frame))).choose ((withFr (hs []) (({ Frame.blank with loc := .stages, stage := 22, mirror := true } : Frame))).prog (({ Frame.blank with loc := .stages, stage := 22, mirror := true } : Frame)).tag) (({ Frame.blank with loc := .stages, stage := 22, mirror := true } : Frame)).pipe (({ Frame.blank with loc := .stages, stage := 22, mirror := true } : Frame)).stage (({ Frame.blank with loc := .stages, stage := 22, mirror := true } : Frame))).2), 0, ({ Frame.blank with loc := .stages, stage := 22, mirror := true } : Frame), (((withFr (hs []) (({ Frame.blank with loc := .stages, stage := 22, mirror := true } : Frame))).choose ((withFr (hs []) (({ Frame.blank with loc := .stages, stage := 22, mirror := true } : Frame))).prog (({ Frame.blank with loc := .stages, stage := 22, mirror := true } : Frame)).tag) (({ Frame.blank with loc := .stages, stage := 22, mirror := true } : Frame)).pipe (({ Frame.blank with loc := .stages, stage := 22, mirror := true } : Frame)).stage (({ Frame.blank with loc := .stages, stage := 22, mirror := true } : Frame))).1), ((match (((withFr (hs []) (({ Frame.blank with loc := .stages, stage := 22, mirror := true } : Frame))).choose ((withFr (hs []) (({ Frame.blank with loc := .stages, stage := 22, mirror := true } : Frame))).prog (({ Frame.blank with loc := .stages, stage := 22, mirror := true } : Frame)).tag) (({ Frame.blank with loc := .stages, stage := 22, mirror := true } : Frame)).pipe (({ Frame.blank with loc := .stages, stage := 22, mirror := true } : Frame)).stage (({ Frame.blank with loc := .stages, stage := 22, mirror := true } : Frame))).1) with | some (act, adata) => (((withFr (hs []) (({ Frame.blank with loc := .stages, stage := 22, mirror := true } : Frame))).choose ((withFr (hs []) (({ Frame.blank with loc := .stages, stage := 22, mirror := true } : Frame))).prog (({ Frame.blank with loc := .stages, stage := 22, mirror := true } : Frame)).tag) (({ Frame.blank with loc := .stages, stage := 22, mirror := true } : Frame)).pipe (({ Frame.blank with loc := .stages, stage := 22, mirror := true } : Frame)).stage (({ Frame.blank with loc := .stages, stage := 22, mirror := true } : Frame))).2).runOps (({ Frame.blank with loc := .stages, stage := 22, mirror := true } : Frame)).pipe (decide (20 ≤ (({ Frame.blank with loc := .stages, stage := 22, mirror := true } : Frame)).stage)) adata (({ Frame.blank with loc := .stages, stage := 22, mirror := true } : Frame)) (oneReg false ((Config.decodeActionProgram (((withFr (hs []) (({ Frame.blank with loc := .stages, stage := 22, mirror := true } : Frame))).prog (({ Frame.blank with loc := .stages, stage := 22, mirror := true } : Frame)).tag).act.getD [(({ Frame.blank with loc := .stages, stage := 22, mirror := true } : Frame)).stage, act] 0)).take 16)) | none => ((({ Frame.blank with loc := .stages, stage := 22, mirror := true } : Frame)), (((withFr (hs []) (({ Frame.blank with loc := .stages, stage := 22, mirror := true } : Frame))).choose ((withFr (hs []) (({ Frame.blank with loc := .stages, stage := 22, mirror := true } : Frame))).prog (({ Frame.blank with loc := .stages, stage := 22, mirror := true } : Frame)).tag) (({ Frame.blank with loc := .stages, stage := 22, mirror := true } : Frame)).pipe (({ Frame.blank with loc := .stages, stage := 22, mirror := true } : Frame)).stage (({ Frame.blank with loc := .stages, stage := 22, mirror := true } : Frame))).2)))), (Prod.mk.eta).symm, rfl, by decide +kernel⟩,
   ⟨({ hosted with frames := [({ Frame.blank with loc := .stages } : Frame), ({ Frame.blank with id := 1, loc := .stages } : Frame)], nextId := 2 } : State), ({ hosted with frames := [({ Frame.blank with loc := .stages } : Frame), ({ Frame.blank with id := 1, loc := .stages } : Frame)], nextId := 2 } : State), 1, ({ Frame.blank with id := 1, loc := .stages } : Frame), none, (({ Frame.blank with id := 1, loc := .stages } : Frame), ({ hosted with frames := [({ Frame.blank with loc := .stages } : Frame), ({ Frame.blank with id := 1, loc := .stages } : Frame)], nextId := 2 } : State)), choose_empty _ _ _ _ _ (by decide +kernel), rfl, by decide +kernel⟩,
   ⟨withFr (hs []) (({ Frame.blank with loc := .stages } : Frame)), (((withFr (hs []) (({ Frame.blank with loc := .stages } : Frame))).choose ((withFr (hs []) (({ Frame.blank with loc := .stages } : Frame))).prog (({ Frame.blank with loc := .stages } : Frame)).tag) (({ Frame.blank with loc := .stages } : Frame)).pipe (({ Frame.blank with loc := .stages } : Frame)).stage (({ Frame.blank with loc := .stages } : Frame))).2), 0, ({ Frame.blank with loc := .stages } : Frame), (((withFr (hs []) (({ Frame.blank with loc := .stages } : Frame))).choose ((withFr (hs []) (({ Frame.blank with loc := .stages } : Frame))).prog (({ Frame.blank with loc := .stages } : Frame)).tag) (({ Frame.blank with loc := .stages } : Frame)).pipe (({ Frame.blank with loc := .stages } : Frame)).stage (({ Frame.blank with loc := .stages } : Frame))).1), ((match (((withFr (hs []) (({ Frame.blank with loc := .stages } : Frame))).choose ((withFr (hs []) (({ Frame.blank with loc := .stages } : Frame))).prog (({ Frame.blank with loc := .stages } : Frame)).tag) (({ Frame.blank with loc := .stages } : Frame)).pipe (({ Frame.blank with loc := .stages } : Frame)).stage (({ Frame.blank with loc := .stages } : Frame))).1) with | some (act, adata) => (((withFr (hs []) (({ Frame.blank with loc := .stages } : Frame))).choose ((withFr (hs []) (({ Frame.blank with loc := .stages } : Frame))).prog (({ Frame.blank with loc := .stages } : Frame)).tag) (({ Frame.blank with loc := .stages } : Frame)).pipe (({ Frame.blank with loc := .stages } : Frame)).stage (({ Frame.blank with loc := .stages } : Frame))).2).runOps (({ Frame.blank with loc := .stages } : Frame)).pipe (decide (20 ≤ (({ Frame.blank with loc := .stages } : Frame)).stage)) adata (({ Frame.blank with loc := .stages } : Frame)) (oneReg false ((Config.decodeActionProgram (((withFr (hs []) (({ Frame.blank with loc := .stages } : Frame))).prog (({ Frame.blank with loc := .stages } : Frame)).tag).act.getD [(({ Frame.blank with loc := .stages } : Frame)).stage, act] 0)).take 16)) | none => ((({ Frame.blank with loc := .stages } : Frame)), (((withFr (hs []) (({ Frame.blank with loc := .stages } : Frame))).choose ((withFr (hs []) (({ Frame.blank with loc := .stages } : Frame))).prog (({ Frame.blank with loc := .stages } : Frame)).tag) (({ Frame.blank with loc := .stages } : Frame)).pipe (({ Frame.blank with loc := .stages } : Frame)).stage (({ Frame.blank with loc := .stages } : Frame))).2)))), (Prod.mk.eta).symm, rfl, by decide +kernel⟩,
   ⟨hosted, 0, 0, false, Frame.blank, 1, 95, (Config.Src.imm 70000), by decide +kernel⟩,
   ⟨hosted, 0, 0, false, Frame.blank, clsW 2, 2, 63, (Config.Src.imm 5), (Config.Src.imm 7), by decide +kernel⟩,
   ⟨hosted, 0, 0, false, Frame.blank, (Config.Src.imm 16383), 16383, Half.E, hosted.counted Half.E (Frame.blank.m 282 4) Frame.blank.len, by decide +kernel⟩,
   ⟨{ hosted with sched := { hosted.sched with pol := [([0, 7], (⟨⟨1, 2, 3, 4, true, false, true⟩, 5, 6⟩ : Pol))] } }, 0, 0, false, Frame.blank, (Config.Src.imm 7), 7, Half.E, hosted.counted Half.E (Frame.blank.m 282 4) Frame.blank.len, (⟨⟨1, 2, 3, 4, true, false, true⟩, 5, 6⟩ : Pol), Frame.blank.color, by decide +kernel⟩,
   ⟨withFr hosted (({ Frame.blank with stage := 20 } : Frame)), ((withFr hosted (({ Frame.blank with stage := 20 } : Frame))).afterI19 (({ Frame.blank with stage := 20 } : Frame))), ({ Frame.blank with stage := 20 } : Frame), ({ Frame.blank with stage := 20 } : Frame), Half.E, (parEntry (({ Frame.blank with stage := 20 } : Frame)).inPort), rfl, rfl, by decide +kernel⟩,
   ⟨withFr hosted (({ Frame.blank with stage := 20 } : Frame).mset 273 1 1), ((withFr hosted (({ Frame.blank with stage := 20 } : Frame).mset 273 1 1)).afterI19 (({ Frame.blank with stage := 20 } : Frame).mset 273 1 1)), ({ Frame.blank with stage := 20 } : Frame).mset 273 1 1, ({ Frame.blank with stage := 20 } : Frame).mset 273 1 1, Half.E, (parEntry (({ Frame.blank with stage := 20 } : Frame).mset 273 1 1).inPort), rfl, rfl, by decide +kernel⟩,
   ⟨withFr hosted (({ Frame.blank with stage := 20, nmAct := 1 } : Frame)), ((withFr hosted (({ Frame.blank with stage := 20, nmAct := 1 } : Frame))).afterI19 (({ Frame.blank with stage := 20, nmAct := 1 } : Frame))), ({ Frame.blank with stage := 20, nmAct := 1 } : Frame), ({ Frame.blank with stage := 20, nmAct := 1 } : Frame), Half.E, (parEntry (({ Frame.blank with stage := 20, nmAct := 1 } : Frame)).inPort), rfl, rfl, by decide +kernel⟩,
   ⟨withFr hosted (({ Frame.blank with stage := 20 } : Frame).mset 274 1 1), ((withFr hosted (({ Frame.blank with stage := 20 } : Frame).mset 274 1 1)).afterI19 (({ Frame.blank with stage := 20 } : Frame).mset 274 1 1)), ({ Frame.blank with stage := 20 } : Frame).mset 274 1 1, ({ Frame.blank with stage := 20 } : Frame).mset 274 1 1, Half.E, (parEntry (({ Frame.blank with stage := 20 } : Frame).mset 274 1 1).inPort), rfl, rfl, by decide +kernel⟩,
   ⟨withFr hosted (({ Frame.blank with stage := 20, nmAct := 2 } : Frame)), ((withFr hosted (({ Frame.blank with stage := 20, nmAct := 2 } : Frame))).afterI19 (({ Frame.blank with stage := 20, nmAct := 2 } : Frame))), ({ Frame.blank with stage := 20, nmAct := 2 } : Frame), ({ Frame.blank with stage := 20, nmAct := 2 } : Frame), Half.E, (parEntry (({ Frame.blank with stage := 20, nmAct := 2 } : Frame)).inPort), rfl, rfl, by decide +kernel⟩,
   ⟨withFr hosted (({ Frame.blank with stage := 20, nmPort := 5 } : Frame)), ((withFr hosted (({ Frame.blank with stage := 20, nmPort := 5 } : Frame))).afterI19 (({ Frame.blank with stage := 20, nmPort := 5 } : Frame))), ({ Frame.blank with stage := 20, nmPort := 5 } : Frame), ({ Frame.blank with stage := 20, nmPort := 5 } : Frame), Half.E, (parEntry (({ Frame.blank with stage := 20, nmPort := 5 } : Frame)).inPort), rfl, rfl, by decide +kernel⟩,
   ⟨withFr hosted (({ Frame.blank with stage := 20 } : Frame).mset 256 1 1 |>.mset 257 11 1023), ((withFr hosted (({ Frame.blank with stage := 20 } : Frame).mset 256 1 1 |>.mset 257 11 1023)).afterI19 (({ Frame.blank with stage := 20 } : Frame).mset 256 1 1 |>.mset 257 11 1023)), ({ Frame.blank with stage := 20 } : Frame).mset 256 1 1 |>.mset 257 11 1023, ({ Frame.blank with stage := 20 } : Frame).mset 256 1 1 |>.mset 257 11 1023, Half.E, (parEntry (({ Frame.blank with stage := 20 } : Frame).mset 256 1 1 |>.mset 257 11 1023).inPort), rfl, rfl, by decide +kernel⟩⟩

/-- The cases of WindowTestIsExact can be met. -/
theorem test_witness_WindowTestIsExact :
    (∃ (s : State) (h : Half) (f : Frame) (tbl : Config.TableMap) (e : Ent) (r : Nat → Nat) (lo : Nat), ((∀ x, r x = (x % 256 + 256 - s.rd .SLC_GEN_oldest_live [h.n, f.slice] % 256) % 256)) ∧ (lo = (if e.settled = true then 0 else r e.genLo)))
    ∧ (∃ (e : Ent) (o : Nat) (g : Nat) (lo : Nat) (hi : Nat), (o ≤ g) ∧ (g ≤ o + 3) ∧ ((e.settled = true → lo ≤ o)) ∧ ((e.settled = false → o ≤ lo)) ∧ (lo ≤ o + 4) ∧ (o ≤ hi + 1) ∧ (hi ≤ o + 4) ∧ (e.genLo = lo % 256) ∧ (e.genHi = hi % 256)) :=
  ⟨⟨hosted, Half.W, Frame.blank, tm0, ent 0 true true, fun x => (x % 256 + 256 - hosted.rd .SLC_GEN_oldest_live [Half.W.n, Frame.blank.slice] % 256) % 256, 0, fun _ => rfl, by decide +kernel⟩,
   ⟨⟨0, 0, 0, 0, 0, 5, 6, false, false, 1, false, 0⟩, 5, 6, 5, 6, by decide +kernel⟩⟩

/-- The cases of FrontEnd can be met. -/
theorem test_witness_FrontEnd :
    (∃ (s : State) (id : Nat) (f : Frame), (s.fr? id = some f) ∧ (f.loc = .front) ∧ (s.frontHeld f = false) ∧ (f.color = 3))
    ∧ (∃ (s : State) (id : Nat) (f : Frame), (s.fr? id = some f) ∧ (f.loc = .front) ∧ (s.frontHeld f = false) ∧ (f.color ≠ 3) ∧ (f.egress ≠ f.ingress) ∧ (s.bridgeUp = false))
    ∧ (∃ (s : State) (id : Nat) (f : Frame), (s.fr? id = some f) ∧ (f.loc = .front) ∧ (s.frontHeld f = false) ∧ (f.color ≠ 3) ∧ ((f.egress = f.ingress ∨ s.bridgeUp = true)) ∧ ((∀ g, s.pgOf f = some g → s.on .BUF_PG_CFG_lossless [(portHalf f.inPort).n, localIdx f.inPort, g] = false)))
    ∧ (∃ (s : State) (id : Nat) (f : Frame) (g : Nat) (j : Nat) (n : Nat) (l : Nat) (o : Half) (x : Bool), (o = portHalf f.inPort) ∧ (j = localIdx f.inPort) ∧ (n = ceilDiv f.len 256) ∧ (l = s.pgLimit o j g) ∧ (x = (if s.inXoff o j g = true then !(decide (s.pgShr o j g + s.rd .BUF_PG_CFG_xon_offset [o.n, j, g] ≤ l) && decide (s.rd .BUF_PG_CFG_pg_hdrm [o.n, j, g] = 0)) else decide (l ≤ s.pgShr o j g))) ∧ (s.fr? id = some f) ∧ (f.loc = .front) ∧ (s.frontHeld f = false) ∧ (f.color ≠ 3) ∧ ((f.egress = f.ingress ∨ s.bridgeUp = true)) ∧ (s.pgOf f = some g) ∧ (s.on .BUF_PG_CFG_lossless [o.n, j, g] = true)) :=
  ⟨⟨withFr hosted (({ Frame.blank with loc := .front } : Frame).mset 271 2 3), 0, ({ Frame.blank with loc := .front } : Frame).mset 271 2 3, by decide +kernel⟩,
   ⟨withFr (hs [(.RAS_OWN_STAT_bridge_up, [0], 0)]) { Frame.blank with loc := .front, out := 600 }, 0, { Frame.blank with loc := .front, out := 600 }, by decide +kernel⟩,
   ⟨withFr hosted (({ Frame.blank with loc := .front } : Frame)), 0, ({ Frame.blank with loc := .front } : Frame), by decide +kernel⟩,
   ⟨withFr (hs [(.BUF_PG_CFG_lossless, [0, 0, 0], 1)]) (({ Frame.blank with loc := .front } : Frame)), 0, ({ Frame.blank with loc := .front } : Frame), 0, (localIdx (({ Frame.blank with loc := .front } : Frame)).inPort), (ceilDiv (({ Frame.blank with loc := .front } : Frame)).len 256), ((withFr (hs [(.BUF_PG_CFG_lossless, [0, 0, 0], 1)]) (({ Frame.blank with loc := .front } : Frame))).pgLimit (portHalf (({ Frame.blank with loc := .front } : Frame)).inPort) (localIdx (({ Frame.blank with loc := .front } : Frame)).inPort) (0)), (portHalf (({ Frame.blank with loc := .front } : Frame)).inPort), ((if (withFr (hs [(.BUF_PG_CFG_lossless, [0, 0, 0], 1)]) (({ Frame.blank with loc := .front } : Frame))).inXoff (portHalf (({ Frame.blank with loc := .front } : Frame)).inPort) (localIdx (({ Frame.blank with loc := .front } : Frame)).inPort) (0) = true then !(decide ((withFr (hs [(.BUF_PG_CFG_lossless, [0, 0, 0], 1)]) (({ Frame.blank with loc := .front } : Frame))).pgShr (portHalf (({ Frame.blank with loc := .front } : Frame)).inPort) (localIdx (({ Frame.blank with loc := .front } : Frame)).inPort) (0) + (withFr (hs [(.BUF_PG_CFG_lossless, [0, 0, 0], 1)]) (({ Frame.blank with loc := .front } : Frame))).rd .BUF_PG_CFG_xon_offset [(portHalf (({ Frame.blank with loc := .front } : Frame)).inPort).n, (localIdx (({ Frame.blank with loc := .front } : Frame)).inPort), (0)] ≤ ((withFr (hs [(.BUF_PG_CFG_lossless, [0, 0, 0], 1)]) (({ Frame.blank with loc := .front } : Frame))).pgLimit (portHalf (({ Frame.blank with loc := .front } : Frame)).inPort) (localIdx (({ Frame.blank with loc := .front } : Frame)).inPort) (0))) && decide ((withFr (hs [(.BUF_PG_CFG_lossless, [0, 0, 0], 1)]) (({ Frame.blank with loc := .front } : Frame))).rd .BUF_PG_CFG_pg_hdrm [(portHalf (({ Frame.blank with loc := .front } : Frame)).inPort).n, (localIdx (({ Frame.blank with loc := .front } : Frame)).inPort), (0)] = 0)) else decide (((withFr (hs [(.BUF_PG_CFG_lossless, [0, 0, 0], 1)]) (({ Frame.blank with loc := .front } : Frame))).pgLimit (portHalf (({ Frame.blank with loc := .front } : Frame)).inPort) (localIdx (({ Frame.blank with loc := .front } : Frame)).inPort) (0)) ≤ (withFr (hs [(.BUF_PG_CFG_lossless, [0, 0, 0], 1)]) (({ Frame.blank with loc := .front } : Frame))).pgShr (portHalf (({ Frame.blank with loc := .front } : Frame)).inPort) (localIdx (({ Frame.blank with loc := .front } : Frame)).inPort) (0)))), rfl, rfl, rfl, rfl, rfl, by decide +kernel⟩⟩

/-- The cases of AdmissionDecided can be met. -/
theorem test_witness_AdmissionDecided :
    (∃ (s : State) (h : Half) (r : Half × Nat) (f : Frame) (q : Nat), (q = s.queueOf h f) ∧ (s.buf.reqs.find? (fun r => r.1 = h) = some r) ∧ (s.fr? r.2 = some f) ∧ (f.loc = .request)) :=
  ⟨{ withFr hosted { Frame.blank with loc := .request } with buf := { hosted.buf with reqs := [(.E, 0)] } }, .E, (.E, 0), { Frame.blank with loc := .request }, (({ withFr hosted { Frame.blank with loc := .request } with buf := { hosted.buf with reqs := [(.E, 0)] } } : State).queueOf (.E) ({ Frame.blank with loc := .request })), rfl, by decide +kernel⟩

/-- The cases of AdmissionNeverOverdraws can be met. -/
theorem test_witness_AdmissionNeverOverdraws :
    (∃ (s : State) (h : Half) (q : Nat) (n : Nat) (hdrmReq : Bool) (wred : Bool) (c : Charge), (s.admitTest h q n hdrmReq wred = .inr c))
    ∧ (∃ (s : State) (h : Half) (q : Nat) (n : Nat) (hdrmReq : Bool) (wred : Bool) (c : Charge), (s.admitTest h q n hdrmReq wred = .inr c) ∧ (c.hdrm = true))
    ∧ (∃ (s : State) (h : Half) (q : Nat) (n : Nat) (hdrmReq : Bool) (wred : Bool) (c : Charge), (s.admitTest h q n hdrmReq wred = .inr c) ∧ (c.hdrm = false))
    ∧ (∃ (s : State) (h : Half) (q : Nat) (n : Nat) (hdrmReq : Bool) (wred : Bool) (c : Charge), (s.admitTest h q n hdrmReq wred = .inr c) ∧ (c.hdrm = false) ∧ (s.on .BUF_Q_CFG_lossless [h.n, q] = false)) :=
  ⟨⟨hs [(.BUF_PART_size, [0, 1], 1000), (.BUF_PART_size, [0, 5], 100)], .E, 0, 1, false, false, ⟨0, 1, false⟩, by decide +kernel⟩,
   ⟨hs [(.BUF_PART_size, [0, 1], 1000), (.BUF_PART_size, [0, 5], 100)], .E, 0, 1, true, false, ⟨0, 1, true⟩, by decide +kernel⟩,
   ⟨hs [(.BUF_PART_size, [0, 1], 1000), (.BUF_PART_size, [0, 5], 100)], .E, 0, 1, false, false, ⟨0, 1, false⟩, by decide +kernel⟩,
   ⟨hs [(.BUF_PART_size, [0, 1], 1000), (.BUF_PART_size, [0, 5], 100)], .E, 0, 1, false, false, ⟨0, 1, false⟩, by decide +kernel⟩⟩

/-- The cases of GrantCrossingEnqueue can be met. -/
theorem test_witness_GrantCrossingEnqueue :
    (∃ (s : State) (h : Half) (r : Half × Nat) (f : Frame), (s.buf.grants.find? (fun r => r.1 = h) = some r) ∧ (s.fr? r.2 = some f) ∧ (f.loc = .granted))
    ∧ (∃ (s : State) (id : Nat) (f : Frame), (s.fr? id = some f) ∧ (f.loc = .crossing) ∧ (s.cellsHeldBack f false = false))
    ∧ (∃ (s : State) (id : Nat) (f : Frame), (s.fr? id = some f) ∧ (f.loc = .written) ∧ (s.cellsHeldBack f true = false) ∧ (s.rd .BUF_PORT_STAT_state [f.egress.n, localIdx f.out] ≠ 2) ∧ (s.forcedOld f = false) ∧ (¬ (s.gridRuns = true ∧ s.epQueue f.egress f.queue = true ∧ f.epoch ≠ s.epochCnt f.egress))) :=
  ⟨⟨{ withFr hosted { Frame.blank with loc := .granted } with buf := { hosted.buf with grants := [(.E, 0)] } }, .E, (.E, 0), { Frame.blank with loc := .granted }, by decide +kernel⟩,
   ⟨withFr hosted (({ Frame.blank with loc := .crossing } : Frame)), 0, ({ Frame.blank with loc := .crossing } : Frame), by decide +kernel⟩,
   ⟨withFr hosted (({ Frame.blank with loc := .written } : Frame)), 0, ({ Frame.blank with loc := .written } : Frame), by decide +kernel⟩⟩

/-- The cases of PriorityGroups can be met. -/
theorem test_witness_PriorityGroups :
    (∃ (s : State) (h : Half) (j : Nat) (g : Nat) (n : Nat) (hd : Bool), (s.buf.notices.find? (fun m => m.1 = h) = some (h, j, g, n, hd)))
    ∧ (∃ (s : State) (port : Nat) (pg : Nat) (x : Nat × Nat), (s.buf.pgTimes.get? [(portHalf port).n, localIdx port, pg] = some x) ∧ (s.on .BUF_PG_CFG_lossless [(portHalf port).n, localIdx port, pg] = true))
    ∧ (∃ (s : State) (port : Nat) (pg : Nat) (x : Nat × Nat), (s.buf.pgTimes.get? [(portHalf port).n, localIdx port, pg] = some x) ∧ (s.on .BUF_PG_CFG_lossless [(portHalf port).n, localIdx port, pg] = true) ∧ (s.rd .BUF_MISC_storm_ms [(portHalf port).n] ≠ 0) ∧ (s.buf.pgTimes.get? [(portHalf port).n, localIdx port, pg, 1] = none))
    ∧ (∃ (s : State) (port : Nat) (pg : Nat), (s.on .BUF_PG_CFG_lossless [(portHalf port).n, localIdx port, pg] = false)) :=
  ⟨⟨{ hosted with buf := { hosted.buf with notices := [(.E, 1, 2, 3, true)] } }, .E, 1, 2, 3, true, by decide +kernel⟩,
   ⟨{ hs [(.BUF_PG_CFG_lossless, [0, 0, 3], 1)] with buf := { hosted.buf with pgTimes := [([0, 0, 3], (5, 9))] } }, 0, 3, ((5, 9) : Nat × Nat), by decide +kernel⟩,
   ⟨{ hs [(.BUF_PG_CFG_lossless, [0, 0, 3], 1), (.BUF_MISC_storm_ms, [0], 4)] with buf := { hosted.buf with pgTimes := [([0, 0, 3], (5, 9))] } }, 0, 3, ((5, 9) : Nat × Nat), by decide +kernel⟩,
   ⟨hosted, 0, 0, by decide +kernel⟩⟩

/-- The cases of PartitionsAndFlush can be met. -/
theorem test_witness_PartitionsAndFlush :
    (∃ (s : State) (d : Hdr) (sizes : List Nat), (due s (.bufPartSet d sizes)) ∧ (served s d ⟨0x30, .config, true, false, 1⟩ true (cleanHdr d false false false)) ∧ (sizes.length = 8) ∧ ((∀ z ∈ sizes, z < 2 ^ 20)) ∧ (sizes.sum ≤ 786431))
    ∧ (∃ (s : State) (d : Hdr) (sizes : List Nat), (due s (.bufPartSet d sizes)) ∧ (served s d ⟨0x30, .config, true, false, 1⟩ true (cleanHdr d false false false)) ∧ (sizes.length = 8) ∧ ((∀ z ∈ sizes, z < 2 ^ 20)) ∧ (786431 < sizes.sum))
    ∧ (∃ (s : State) (d : Hdr) (port : Nat), (due s (.portFlush d port)) ∧ (served s d ⟨0x31, .config, true, false, 0⟩ true (cleanHdr d false false false)) ∧ (s.configured port = true) ∧ (s.rd .BUF_PORT_STAT_state [(portHalf port).n, localIdx port] = 0))
    ∧ (∃ (s : State) (d : Hdr) (port : Nat), (due s (.portFlush d port)) ∧ (served s d ⟨0x31, .config, true, false, 0⟩ true (cleanHdr d false false false)) ∧ (s.configured port = false))
    ∧ (∃ (s : State) (d : Hdr) (port : Nat), (due s (.portFlush d port)) ∧ (served s d ⟨0x31, .config, true, false, 0⟩ true (cleanHdr d false false false)) ∧ (s.configured port = true) ∧ (s.rd .BUF_PORT_STAT_state [(portHalf port).n, localIdx port] ≠ 0)) :=
  ⟨⟨hosted, (hd true false 0 0 []), [0, 0, 0, 0, 0, 0, 0, 786431], dueOf rfl (by decide +kernel), by decide +kernel⟩,
   ⟨hosted, (hd true false 0 0 []), [786432, 0, 0, 0, 0, 0, 0, 0], dueOf rfl (by decide +kernel), by decide +kernel⟩,
   ⟨hosted, d0, 1024, dueOf rfl (by decide +kernel), by decide +kernel⟩,
   ⟨hosted, d0, 7, dueOf rfl (by decide +kernel), by decide +kernel⟩,
   ⟨hs [(.BUF_PORT_STAT_state, [(portHalf 1024).n, localIdx 1024], 1)], d0, 1024, dueOf rfl (by decide +kernel), by decide +kernel⟩⟩

/-- The cases of RefillAndPolicers can be met. -/
theorem test_witness_RefillAndPolicers :
    (∃ (s : State) (h : Half), ((s.shpKeys h).Nodup) ∧ ((s.polKeys h).Nodup) ∧ (s.xingBusy h 2 0 = false))
    ∧ (∃ (inc : Nat) (burst : Nat) (en : Bool) (credit : Int), (credit ≤ ((burst * 4096 : Nat) : Int)))
    ∧ (∃ (s : State) (d : Hdr) (n : Nat) (cir : Nat) (pir : Nat) (cbs : Nat) (pbs : Nat) (owner : Nat) (aware : Bool) (redDrop : Bool) (en : Bool), (due s (.policerSet d n cir pir cbs pbs aware redDrop en owner)) ∧ (served s d ⟨0x34, .config, true, true, 2⟩ (d.fn = 0 || (owner = fnSlice d.fn && (Hdr.hs d).all (fun h => s.rd .SHP_POL_CFG_owner [h.n, n] = fnSlice d.fn))) (cleanHdr d false false false && decide (n < 16384) && decide (cir < 2 ^ 28) && decide (pir < 2 ^ 28) && decide (cbs < 2 ^ 24) && decide (pbs < 2 ^ 24) && decide (owner < 64))) ∧ ((en = true → cir ≤ pir ∧ cbs ≠ 0 ∧ pbs ≠ 0)))
    ∧ (∃ (s : State) (d : Hdr) (n : Nat) (cir : Nat) (pir : Nat) (cbs : Nat) (pbs : Nat) (owner : Nat) (aware : Bool) (redDrop : Bool) (en : Bool), (due s (.policerSet d n cir pir cbs pbs aware redDrop en owner)) ∧ (served s d ⟨0x34, .config, true, true, 2⟩ (d.fn = 0 || (owner = fnSlice d.fn && (Hdr.hs d).all (fun h => s.rd .SHP_POL_CFG_owner [h.n, n] = fnSlice d.fn))) (cleanHdr d false false false && decide (n < 16384) && decide (cir < 2 ^ 28) && decide (pir < 2 ^ 28) && decide (cbs < 2 ^ 24) && decide (pbs < 2 ^ 24) && decide (owner < 64))) ∧ (en = true) ∧ ((pir < cir ∨ cbs = 0 ∨ pbs = 0))) :=
  ⟨⟨hosted, .E, by decide +kernel⟩,
   ⟨0, 1, false, 4096, by decide +kernel⟩,
   ⟨hosted, (hd true false 0 0 []), 16383, 1, 1, 1, 1, 0, false, false, true, dueOf rfl (by decide +kernel), by decide +kernel⟩,
   ⟨hosted, (hd true false 0 0 []), 1, 0, 0, 0, 0, 0, false, false, true, dueOf rfl (by decide +kernel), by decide +kernel⟩⟩

/-- The cases of PauseTimers can be met. -/
theorem test_witness_PauseTimers :
    (∃ (s : State) (port : Nat) (vec : Nat) (times : List Nat), (port < 1024) ∧ (s.rd .LAN_PORT_STAT_state [port / 128, port % 128] = 4))
    ∧ (∃ (s : State) (port : Nat) (prio : Nat) (x : Nat × Nat), (s.sched.pause.get? [port, prio] = some x)) :=
  ⟨⟨{ hs [(.LAN_PORT_STAT_state, [7, 127], 4)] with lanes := { hosted.lanes with ports := [([1023], ⟨1, 0, true, false, false, false⟩)] } }, 1023, 3, [1, 2], by decide +kernel⟩,
   ⟨{ hosted with sched := { hosted.sched with pause := [([4, 2], (5, 9))] } }, 4, 2, (5, 9), by decide +kernel⟩⟩

/-- The cases of DwrrServes can be met. -/
theorem test_witness_DwrrServes :
    (∃ (s : State) (lvl : List Nat) (unit : Nat) (ms : List Member1), ((∃ m ∈ ms, m.elig = true)) ∧ (0 < unit) ∧ ((ms.map (fun m => m.key)).Nodup) ∧ ((∀ m ∈ ms, m.elig = true → m.holds = true))) :=
  ⟨hosted, [0], 256, [⟨0, [0], 1, true, true⟩, ⟨1, [1], 2, true, false⟩], ⟨⟨0, [0], 1, true, true⟩, by decide +kernel, rfl⟩, by decide +kernel⟩

/-- The cases of SchedulerSelects can be met. -/
theorem test_witness_SchedulerSelects :
    (∃ (s : State) (u : State) (v : State) (port : Nat) (k : Nat) (unit : Nat) (h : Half) (mg : Member1) (mq : Member1) (f : Frame) (x : Nat), (unit = 64 * 2 ^ min 10 (s.rd .TMG_PORT_CFG_q_unit [h.n, k])) ∧ (h = portHalf port) ∧ (k = localIdx port) ∧ (s.timedPort port = false) ∧ (s.accepts port = true) ∧ ((s.groupMembers port false).any (fun m => m.elig) = true) ∧ (s.dwrr [h.n, 1, k, (topLevel (fun m => s.rd .TMG_GRP_CFG_prio [h.n, k, m.ix]) (s.groupMembers port false)).1] unit (topLevel (fun m => s.rd .TMG_GRP_CFG_prio [h.n, k, m.ix]) (s.groupMembers port false)).2 = (some mg, u)) ∧ (u.dwrr [h.n, 0, 4 * k + mg.ix, (topLevel (fun m => u.rd .TMG_Q_CFG_prio [h.n, m.ix]) (u.queueMembers port mg.ix false)).1] unit (topLevel (fun m => u.rd .TMG_Q_CFG_prio [h.n, m.ix]) (u.queueMembers port mg.ix false)).2 = (some mq, v)) ∧ (v.queueOk port mq.ix false = some (f, x)) ∧ (s.ras.poison = [])) :=
  ⟨{ withFr hosted { Frame.blank with loc := .queued, out := 0, bytes := z 64 } with buf := { hosted.buf with queues := [([0, 0], [0])] } }, ((({ withFr hosted { Frame.blank with loc := .queued, out := 0, bytes := z 64 } with buf := { hosted.buf with queues := [([0, 0], [0])] } } : State).dwrr [(Half.E).n, 1, (0), (topLevel (fun m => ({ withFr hosted { Frame.blank with loc := .queued, out := 0, bytes := z 64 } with buf := { hosted.buf with queues := [([0, 0], [0])] } } : State).rd .TMG_GRP_CFG_prio [(Half.E).n, (0), m.ix]) (({ withFr hosted { Frame.blank with loc := .queued, out := 0, bytes := z 64 } with buf := { hosted.buf with queues := [([0, 0], [0])] } } : State).groupMembers (0) false)).1] (64 * 2 ^ min 10 (({ withFr hosted { Frame.blank with loc := .queued, out := 0, bytes := z 64 } with buf := { hosted.buf with queues := [([0, 0], [0])] } } : State).rd .TMG_PORT_CFG_q_unit [(Half.E).n, (0)])) (topLevel (fun m => ({ withFr hosted { Frame.blank with loc := .queued, out := 0, bytes := z 64 } with buf := { hosted.buf with queues := [([0, 0], [0])] } } : State).rd .TMG_GRP_CFG_prio [(Half.E).n, (0), m.ix]) (({ withFr hosted { Frame.blank with loc := .queued, out := 0, bytes := z 64 } with buf := { hosted.buf with queues := [([0, 0], [0])] } } : State).groupMembers (0) false)).2).2), ((((({ withFr hosted { Frame.blank with loc := .queued, out := 0, bytes := z 64 } with buf := { hosted.buf with queues := [([0, 0], [0])] } } : State).dwrr [(Half.E).n, 1, (0), (topLevel (fun m => ({ withFr hosted { Frame.blank with loc := .queued, out := 0, bytes := z 64 } with buf := { hosted.buf with queues := [([0, 0], [0])] } } : State).rd .TMG_GRP_CFG_prio [(Half.E).n, (0), m.ix]) (({ withFr hosted { Frame.blank with loc := .queued, out := 0, bytes := z 64 } with buf := { hosted.buf with queues := [([0, 0], [0])] } } : State).groupMembers (0) false)).1] (64 * 2 ^ min 10 (({ withFr hosted { Frame.blank with loc := .queued, out := 0, bytes := z 64 } with buf := { hosted.buf with queues := [([0, 0], [0])] } } : State).rd .TMG_PORT_CFG_q_unit [(Half.E).n, (0)])) (topLevel (fun m => ({ withFr hosted { Frame.blank with loc := .queued, out := 0, bytes := z 64 } with buf := { hosted.buf with queues := [([0, 0], [0])] } } : State).rd .TMG_GRP_CFG_prio [(Half.E).n, (0), m.ix]) (({ withFr hosted { Frame.blank with loc := .queued, out := 0, bytes := z 64 } with buf := { hosted.buf with queues := [([0, 0], [0])] } } : State).groupMembers (0) false)).2).2).dwrr [(Half.E).n, 0, 4 * (0) + (((({ withFr hosted { Frame.blank with loc := .queued, out := 0, bytes := z 64 } with buf := { hosted.buf with queues := [([0, 0], [0])] } } : State).dwrr [(Half.E).n, 1, (0), (topLevel (fun m => ({ withFr hosted { Frame.blank with loc := .queued, out := 0, bytes := z 64 } with buf := { hosted.buf with queues := [([0, 0], [0])] } } : State).rd .TMG_GRP_CFG_prio [(Half.E).n, (0), m.ix]) (({ withFr hosted { Frame.blank with loc := .queued, out := 0, bytes := z 64 } with buf := { hosted.buf with queues := [([0, 0], [0])] } } : State).groupMembers (0) false)).1] (64 * 2 ^ min 10 (({ withFr hosted { Frame.blank with loc := .queued, out := 0, bytes := z 64 } with buf := { hosted.buf with queues := [([0, 0], [0])] } } : State).rd .TMG_PORT_CFG_q_unit [(Half.E).n, (0)])) (topLevel (fun m => ({ withFr hosted { Frame.blank with loc := .queued, out := 0, bytes := z 64 } with buf := { hosted.buf with queues := [([0, 0], [0])] } } : State).rd .TMG_GRP_CFG_prio [(Half.E).n, (0), m.ix]) (({ withFr hosted { Frame.blank with loc := .queued, out := 0, bytes := z 64 } with buf := { hosted.buf with queues := [([0, 0], [0])] } } : State).groupMembers (0) false)).2).1).get (by decide +kernel)).ix, (topLevel (fun m => ((({ withFr hosted { Frame.blank with loc := .queued, out := 0, bytes := z 64 } with buf := { hosted.buf with queues := [([0, 0], [0])] } } : State).dwrr [(Half.E).n, 1, (0), (topLevel (fun m => ({ withFr hosted { Frame.blank with loc := .queued, out := 0, bytes := z 64 } with buf := { hosted.buf with queues := [([0, 0], [0])] } } : State).rd .TMG_GRP_CFG_prio [(Half.E).n, (0), m.ix]) (({ withFr hosted { Frame.blank with loc := .queued, out := 0, bytes := z 64 } with buf := { hosted.buf with queues := [([0, 0], [0])] } } : State).groupMembers (0) false)).1] (64 * 2 ^ min 10 (({ withFr hosted { Frame.blank with loc := .queued, out := 0, bytes := z 64 } with buf := { hosted.buf with queues := [([0, 0], [0])] } } : State).rd .TMG_PORT_CFG_q_unit [(Half.E).n, (0)])) (topLevel (fun m => ({ withFr hosted { Frame.blank with loc := .queued, out := 0, bytes := z 64 } with buf := { hosted.buf with queues := [([0, 0], [0])] } } : State).rd .TMG_GRP_CFG_prio [(Half.E).n, (0), m.ix]) (({ withFr hosted { Frame.blank with loc := .queued, out := 0, bytes := z 64 } with buf := { hosted.buf with queues := [([0, 0], [0])] } } : State).groupMembers (0) false)).2).2).rd .TMG_Q_CFG_prio [(Half.E).n, m.ix]) (((({ withFr hosted { Frame.blank with loc := .queued, out := 0, bytes := z 64 } with buf := { hosted.buf with queues := [([0, 0], [0])] } } : State).dwrr [(Half.E).n, 1, (0), (topLevel (fun m => ({ withFr hosted { Frame.blank with loc := .queued, out := 0, bytes := z 64 } with buf := { hosted.buf with queues := [([0, 0], [0])] } } : State).rd .TMG_GRP_CFG_prio [(Half.E).n, (0), m.ix]) (({ withFr hosted { Frame.blank with loc := .queued, out := 0, bytes := z 64 } with buf := { hosted.buf with queues := [([0, 0], [0])] } } : State).groupMembers (0) false)).1] (64 * 2 ^ min 10 (({ withFr hosted { Frame.blank with loc := .queued, out := 0, bytes := z 64 } with buf := { hosted.buf with queues := [([0, 0], [0])] } } : State).rd .TMG_PORT_CFG_q_unit [(Half.E).n, (0)])) (topLevel (fun m => ({ withFr hosted { Frame.blank with loc := .queued, out := 0, bytes := z 64 } with buf := { hosted.buf with queues := [([0, 0], [0])] } } : State).rd .TMG_GRP_CFG_prio [(Half.E).n, (0), m.ix]) (({ withFr hosted { Frame.blank with loc := .queued, out := 0, bytes := z 64 } with buf := { hosted.buf with queues := [([0, 0], [0])] } } : State).groupMembers (0) false)).2).2).queueMembers (0) (((({ withFr hosted { Frame.blank with loc := .queued, out := 0, bytes := z 64 } with buf := { hosted.buf with queues := [([0, 0], [0])] } } : State).dwrr [(Half.E).n, 1, (0), (topLevel (fun m => ({ withFr hosted { Frame.blank with loc := .queued, out := 0, bytes := z 64 } with buf := { hosted.buf with queues := [([0, 0], [0])] } } : State).rd .TMG_GRP_CFG_prio [(Half.E).n, (0), m.ix]) (({ withFr hosted { Frame.blank with loc := .queued, out := 0, bytes := z 64 } with buf := { hosted.buf with queues := [([0, 0], [0])] } } : State).groupMembers (0) false)).1] (64 * 2 ^ min 10 (({ withFr hosted { Frame.blank with loc := .queued, out := 0, bytes := z 64 } with buf := { hosted.buf with queues := [([0, 0], [0])] } } : State).rd .TMG_PORT_CFG_q_unit [(Half.E).n, (0)])) (topLevel (fun m => ({ withFr hosted { Frame.blank with loc := .queued, out := 0, bytes := z 64 } with buf := { hosted.buf with queues := [([0, 0], [0])] } } : State).rd .TMG_GRP_CFG_prio [(Half.E).n, (0), m.ix]) (({ withFr hosted { Frame.blank with loc := .queued, out := 0, bytes := z 64 } with buf := { hosted.buf with queues := [([0, 0], [0])] } } : State).groupMembers (0) false)).2).1).get (by decide +kernel)).ix false)).1] (64 * 2 ^ min 10 (({ withFr hosted { Frame.blank with loc := .queued, out := 0, bytes := z 64 } with buf := { hosted.buf with queues := [([0, 0], [0])] } } : State).rd .TMG_PORT_CFG_q_unit [(Half.E).n, (0)])) (topLevel (fun m => ((({ withFr hosted { Frame.blank with loc := .queued, out := 0, bytes := z 64 } with buf := { hosted.buf with queues := [([0, 0], [0])] } } : State).dwrr [(Half.E).n, 1, (0), (topLevel (fun m => ({ withFr hosted { Frame.blank with loc := .queued, out := 0, bytes := z 64 } with buf := { hosted.buf with queues := [([0, 0], [0])] } } : State).rd .TMG_GRP_CFG_prio [(Half.E).n, (0), m.ix]) (({ withFr hosted { Frame.blank with loc := .queued, out := 0, bytes := z 64 } with buf := { hosted.buf with queues := [([0, 0], [0])] } } : State).groupMembers (0) false)).1] (64 * 2 ^ min 10 (({ withFr hosted { Frame.blank with loc := .queued, out := 0, bytes := z 64 } with buf := { hosted.buf with queues := [([0, 0], [0])] } } : State).rd .TMG_PORT_CFG_q_unit [(Half.E).n, (0)])) (topLevel (fun m => ({ withFr hosted { Frame.blank with loc := .queued, out := 0, bytes := z 64 } with buf := { hosted.buf with queues := [([0, 0], [0])] } } : State).rd .TMG_GRP_CFG_prio [(Half.E).n, (0), m.ix]) (({ withFr hosted { Frame.blank with loc := .queued, out := 0, bytes := z 64 } with buf := { hosted.buf with queues := [([0, 0], [0])] } } : State).groupMembers (0) false)).2).2).rd .TMG_Q_CFG_prio [(Half.E).n, m.ix]) (((({ withFr hosted { Frame.blank with loc := .queued, out := 0, bytes := z 64 } with buf := { hosted.buf with queues := [([0, 0], [0])] } } : State).dwrr [(Half.E).n, 1, (0), (topLevel (fun m => ({ withFr hosted { Frame.blank with loc := .queued, out := 0, bytes := z 64 } with buf := { hosted.buf with queues := [([0, 0], [0])] } } : State).rd .TMG_GRP_CFG_prio [(Half.E).n, (0), m.ix]) (({ withFr hosted { Frame.blank with loc := .queued, out := 0, bytes := z 64 } with buf := { hosted.buf with queues := [([0, 0], [0])] } } : State).groupMembers (0) false)).1] (64 * 2 ^ min 10 (({ withFr hosted { Frame.blank with loc := .queued, out := 0, bytes := z 64 } with buf := { hosted.buf with queues := [([0, 0], [0])] } } : State).rd .TMG_PORT_CFG_q_unit [(Half.E).n, (0)])) (topLevel (fun m => ({ withFr hosted { Frame.blank with loc := .queued, out := 0, bytes := z 64 } with buf := { hosted.buf with queues := [([0, 0], [0])] } } : State).rd .TMG_GRP_CFG_prio [(Half.E).n, (0), m.ix]) (({ withFr hosted { Frame.blank with loc := .queued, out := 0, bytes := z 64 } with buf := { hosted.buf with queues := [([0, 0], [0])] } } : State).groupMembers (0) false)).2).2).queueMembers (0) (((({ withFr hosted { Frame.blank with loc := .queued, out := 0, bytes := z 64 } with buf := { hosted.buf with queues := [([0, 0], [0])] } } : State).dwrr [(Half.E).n, 1, (0), (topLevel (fun m => ({ withFr hosted { Frame.blank with loc := .queued, out := 0, bytes := z 64 } with buf := { hosted.buf with queues := [([0, 0], [0])] } } : State).rd .TMG_GRP_CFG_prio [(Half.E).n, (0), m.ix]) (({ withFr hosted { Frame.blank with loc := .queued, out := 0, bytes := z 64 } with buf := { hosted.buf with queues := [([0, 0], [0])] } } : State).groupMembers (0) false)).1] (64 * 2 ^ min 10 (({ withFr hosted { Frame.blank with loc := .queued, out := 0, bytes := z 64 } with buf := { hosted.buf with queues := [([0, 0], [0])] } } : State).rd .TMG_PORT_CFG_q_unit [(Half.E).n, (0)])) (topLevel (fun m => ({ withFr hosted { Frame.blank with loc := .queued, out := 0, bytes := z 64 } with buf := { hosted.buf with queues := [([0, 0], [0])] } } : State).rd .TMG_GRP_CFG_prio [(Half.E).n, (0), m.ix]) (({ withFr hosted { Frame.blank with loc := .queued, out := 0, bytes := z 64 } with buf := { hosted.buf with queues := [([0, 0], [0])] } } : State).groupMembers (0) false)).2).1).get (by decide +kernel)).ix false)).2).2), 0, 0, (64 * 2 ^ min 10 (({ withFr hosted { Frame.blank with loc := .queued, out := 0, bytes := z 64 } with buf := { hosted.buf with queues := [([0, 0], [0])] } } : State).rd .TMG_PORT_CFG_q_unit [(Half.E).n, (0)])), Half.E, (((({ withFr hosted { Frame.blank with loc := .queued, out := 0, bytes := z 64 } with buf := { hosted.buf with queues := [([0, 0], [0])] } } : State).dwrr [(Half.E).n, 1, (0), (topLevel (fun m => ({ withFr hosted { Frame.blank with loc := .queued, out := 0, bytes := z 64 } with buf := { hosted.buf with queues := [([0, 0], [0])] } } : State).rd .TMG_GRP_CFG_prio [(Half.E).n, (0), m.ix]) (({ withFr hosted { Frame.blank with loc := .queued, out := 0, bytes := z 64 } with buf := { hosted.buf with queues := [([0, 0], [0])] } } : State).groupMembers (0) false)).1] (64 * 2 ^ min 10 (({ withFr hosted { Frame.blank with loc := .queued, out := 0, bytes := z 64 } with buf := { hosted.buf with queues := [([0, 0], [0])] } } : State).rd .TMG_PORT_CFG_q_unit [(Half.E).n, (0)])) (topLevel (fun m => ({ withFr hosted { Frame.blank with loc := .queued, out := 0, bytes := z 64 } with buf := { hosted.buf with queues := [([0, 0], [0])] } } : State).rd .TMG_GRP_CFG_prio [(Half.E).n, (0), m.ix]) (({ withFr hosted { Frame.blank with loc := .queued, out := 0, bytes := z 64 } with buf := { hosted.buf with queues := [([0, 0], [0])] } } : State).groupMembers (0) false)).2).1).get (by decide +kernel)), (((((({ withFr hosted { Frame.blank with loc := .queued, out := 0, bytes := z 64 } with buf := { hosted.buf with queues := [([0, 0], [0])] } } : State).dwrr [(Half.E).n, 1, (0), (topLevel (fun m => ({ withFr hosted { Frame.blank with loc := .queued, out := 0, bytes := z 64 } with buf := { hosted.buf with queues := [([0, 0], [0])] } } : State).rd .TMG_GRP_CFG_prio [(Half.E).n, (0), m.ix]) (({ withFr hosted { Frame.blank with loc := .queued, out := 0, bytes := z 64 } with buf := { hosted.buf with queues := [([0, 0], [0])] } } : State).groupMembers (0) false)).1] (64 * 2 ^ min 10 (({ withFr hosted { Frame.blank with loc := .queued, out := 0, bytes := z 64 } with buf := { hosted.buf with queues := [([0, 0], [0])] } } : State).rd .TMG_PORT_CFG_q_unit [(Half.E).n, (0)])) (topLevel (fun m => ({ withFr hosted { Frame.blank with loc := .queued, out := 0, bytes := z 64 } with buf := { hosted.buf with queues := [([0, 0], [0])] } } : State).rd .TMG_GRP_CFG_prio [(Half.E).n, (0), m.ix]) (({ withFr hosted { Frame.blank with loc := .queued, out := 0, bytes := z 64 } with buf := { hosted.buf with queues := [([0, 0], [0])] } } : State).groupMembers (0) false)).2).2).dwrr [(Half.E).n, 0, 4 * (0) + (((({ withFr hosted { Frame.blank with loc := .queued, out := 0, bytes := z 64 } with buf := { hosted.buf with queues := [([0, 0], [0])] } } : State).dwrr [(Half.E).n, 1, (0), (topLevel (fun m => ({ withFr hosted { Frame.blank with loc := .queued, out := 0, bytes := z 64 } with buf := { hosted.buf with queues := [([0, 0], [0])] } } : State).rd .TMG_GRP_CFG_prio [(Half.E).n, (0), m.ix]) (({ withFr hosted { Frame.blank with loc := .queued, out := 0, bytes := z 64 } with buf := { hosted.buf with queues := [([0, 0], [0])] } } : State).groupMembers (0) false)).1] (64 * 2 ^ min 10 (({ withFr hosted { Frame.blank with loc := .queued, out := 0, bytes := z 64 } with buf := { hosted.buf with queues := [([0, 0], [0])] } } : State).rd .TMG_PORT_CFG_q_unit [(Half.E).n, (0)])) (topLevel (fun m => ({ withFr hosted { Frame.blank with loc := .queued, out := 0, bytes := z 64 } with buf := { hosted.buf with queues := [([0, 0], [0])] } } : State).rd .TMG_GRP_CFG_prio [(Half.E).n, (0), m.ix]) (({ withFr hosted { Frame.blank with loc := .queued, out := 0, bytes := z 64 } with buf := { hosted.buf with queues := [([0, 0], [0])] } } : State).groupMembers (0) false)).2).1).get (by decide +kernel)).ix, (topLevel (fun m => ((({ withFr hosted { Frame.blank with loc := .queued, out := 0, bytes := z 64 } with buf := { hosted.buf with queues := [([0, 0], [0])] } } : State).dwrr [(Half.E).n, 1, (0), (topLevel (fun m => ({ withFr hosted { Frame.blank with loc := .queued, out := 0, bytes := z 64 } with buf := { hosted.buf with queues := [([0, 0], [0])] } } : State).rd .TMG_GRP_CFG_prio [(Half.E).n, (0), m.ix]) (({ withFr hosted { Frame.blank with loc := .queued, out := 0, bytes := z 64 } with buf := { hosted.buf with queues := [([0, 0], [0])] } } : State).groupMembers (0) false)).1] (64 * 2 ^ min 10 (({ withFr hosted { Frame.blank with loc := .queued, out := 0, bytes := z 64 } with buf := { hosted.buf with queues := [([0, 0], [0])] } } : State).rd .TMG_PORT_CFG_q_unit [(Half.E).n, (0)])) (topLevel (fun m => ({ withFr hosted { Frame.blank with loc := .queued, out := 0, bytes := z 64 } with buf := { hosted.buf with queues := [([0, 0], [0])] } } : State).rd .TMG_GRP_CFG_prio [(Half.E).n, (0), m.ix]) (({ withFr hosted { Frame.blank with loc := .queued, out := 0, bytes := z 64 } with buf := { hosted.buf with queues := [([0, 0], [0])] } } : State).groupMembers (0) false)).2).2).rd .TMG_Q_CFG_prio [(Half.E).n, m.ix]) (((({ withFr hosted { Frame.blank with loc := .queued, out := 0, bytes := z 64 } with buf := { hosted.buf with queues := [([0, 0], [0])] } } : State).dwrr [(Half.E).n, 1, (0), (topLevel (fun m => ({ withFr hosted { Frame.blank with loc := .queued, out := 0, bytes := z 64 } with buf := { hosted.buf with queues := [([0, 0], [0])] } } : State).rd .TMG_GRP_CFG_prio [(Half.E).n, (0), m.ix]) (({ withFr hosted { Frame.blank with loc := .queued, out := 0, bytes := z 64 } with buf := { hosted.buf with queues := [([0, 0], [0])] } } : State).groupMembers (0) false)).1] (64 * 2 ^ min 10 (({ withFr hosted { Frame.blank with loc := .queued, out := 0, bytes := z 64 } with buf := { hosted.buf with queues := [([0, 0], [0])] } } : State).rd .TMG_PORT_CFG_q_unit [(Half.E).n, (0)])) (topLevel (fun m => ({ withFr hosted { Frame.blank with loc := .queued, out := 0, bytes := z 64 } with buf := { hosted.buf with queues := [([0, 0], [0])] } } : State).rd .TMG_GRP_CFG_prio [(Half.E).n, (0), m.ix]) (({ withFr hosted { Frame.blank with loc := .queued, out := 0, bytes := z 64 } with buf := { hosted.buf with queues := [([0, 0], [0])] } } : State).groupMembers (0) false)).2).2).queueMembers (0) (((({ withFr hosted { Frame.blank with loc := .queued, out := 0, bytes := z 64 } with buf := { hosted.buf with queues := [([0, 0], [0])] } } : State).dwrr [(Half.E).n, 1, (0), (topLevel (fun m => ({ withFr hosted { Frame.blank with loc := .queued, out := 0, bytes := z 64 } with buf := { hosted.buf with queues := [([0, 0], [0])] } } : State).rd .TMG_GRP_CFG_prio [(Half.E).n, (0), m.ix]) (({ withFr hosted { Frame.blank with loc := .queued, out := 0, bytes := z 64 } with buf := { hosted.buf with queues := [([0, 0], [0])] } } : State).groupMembers (0) false)).1] (64 * 2 ^ min 10 (({ withFr hosted { Frame.blank with loc := .queued, out := 0, bytes := z 64 } with buf := { hosted.buf with queues := [([0, 0], [0])] } } : State).rd .TMG_PORT_CFG_q_unit [(Half.E).n, (0)])) (topLevel (fun m => ({ withFr hosted { Frame.blank with loc := .queued, out := 0, bytes := z 64 } with buf := { hosted.buf with queues := [([0, 0], [0])] } } : State).rd .TMG_GRP_CFG_prio [(Half.E).n, (0), m.ix]) (({ withFr hosted { Frame.blank with loc := .queued, out := 0, bytes := z 64 } with buf := { hosted.buf with queues := [([0, 0], [0])] } } : State).groupMembers (0) false)).2).1).get (by decide +kernel)).ix false)).1] (64 * 2 ^ min 10 (({ withFr hosted { Frame.blank with loc := .queued, out := 0, bytes := z 64 } with buf := { hosted.buf with queues := [([0, 0], [0])] } } : State).rd .TMG_PORT_CFG_q_unit [(Half.E).n, (0)])) (topLevel (fun m => ((({ withFr hosted { Frame.blank with loc := .queued, out := 0, bytes := z 64 } with buf := { hosted.buf with queues := [([0, 0], [0])] } } : State).dwrr [(Half.E).n, 1, (0), (topLevel (fun m => ({ withFr hosted { Frame.blank with loc := .queued, out := 0, bytes := z 64 } with buf := { hosted.buf with queues := [([0, 0], [0])] } } : State).rd .TMG_GRP_CFG_prio [(Half.E).n, (0), m.ix]) (({ withFr hosted { Frame.blank with loc := .queued, out := 0, bytes := z 64 } with buf := { hosted.buf with queues := [([0, 0], [0])] } } : State).groupMembers (0) false)).1] (64 * 2 ^ min 10 (({ withFr hosted { Frame.blank with loc := .queued, out := 0, bytes := z 64 } with buf := { hosted.buf with queues := [([0, 0], [0])] } } : State).rd .TMG_PORT_CFG_q_unit [(Half.E).n, (0)])) (topLevel (fun m => ({ withFr hosted { Frame.blank with loc := .queued, out := 0, bytes := z 64 } with buf := { hosted.buf with queues := [([0, 0], [0])] } } : State).rd .TMG_GRP_CFG_prio [(Half.E).n, (0), m.ix]) (({ withFr hosted { Frame.blank with loc := .queued, out := 0, bytes := z 64 } with buf := { hosted.buf with queues := [([0, 0], [0])] } } : State).groupMembers (0) false)).2).2).rd .TMG_Q_CFG_prio [(Half.E).n, m.ix]) (((({ withFr hosted { Frame.blank with loc := .queued, out := 0, bytes := z 64 } with buf := { hosted.buf with queues := [([0, 0], [0])] } } : State).dwrr [(Half.E).n, 1, (0), (topLevel (fun m => ({ withFr hosted { Frame.blank with loc := .queued, out := 0, bytes := z 64 } with buf := { hosted.buf with queues := [([0, 0], [0])] } } : State).rd .TMG_GRP_CFG_prio [(Half.E).n, (0), m.ix]) (({ withFr hosted { Frame.blank with loc := .queued, out := 0, bytes := z 64 } with buf := { hosted.buf with queues := [([0, 0], [0])] } } : State).groupMembers (0) false)).1] (64 * 2 ^ min 10 (({ withFr hosted { Frame.blank with loc := .queued, out := 0, bytes := z 64 } with buf := { hosted.buf with queues := [([0, 0], [0])] } } : State).rd .TMG_PORT_CFG_q_unit [(Half.E).n, (0)])) (topLevel (fun m => ({ withFr hosted { Frame.blank with loc := .queued, out := 0, bytes := z 64 } with buf := { hosted.buf with queues := [([0, 0], [0])] } } : State).rd .TMG_GRP_CFG_prio [(Half.E).n, (0), m.ix]) (({ withFr hosted { Frame.blank with loc := .queued, out := 0, bytes := z 64 } with buf := { hosted.buf with queues := [([0, 0], [0])] } } : State).groupMembers (0) false)).2).2).queueMembers (0) (((({ withFr hosted { Frame.blank with loc := .queued, out := 0, bytes := z 64 } with buf := { hosted.buf with queues := [([0, 0], [0])] } } : State).dwrr [(Half.E).n, 1, (0), (topLevel (fun m => ({ withFr hosted { Frame.blank with loc := .queued, out := 0, bytes := z 64 } with buf := { hosted.buf with queues := [([0, 0], [0])] } } : State).rd .TMG_GRP_CFG_prio [(Half.E).n, (0), m.ix]) (({ withFr hosted { Frame.blank with loc := .queued, out := 0, bytes := z 64 } with buf := { hosted.buf with queues := [([0, 0], [0])] } } : State).groupMembers (0) false)).1] (64 * 2 ^ min 10 (({ withFr hosted { Frame.blank with loc := .queued, out := 0, bytes := z 64 } with buf := { hosted.buf with queues := [([0, 0], [0])] } } : State).rd .TMG_PORT_CFG_q_unit [(Half.E).n, (0)])) (topLevel (fun m => ({ withFr hosted { Frame.blank with loc := .queued, out := 0, bytes := z 64 } with buf := { hosted.buf with queues := [([0, 0], [0])] } } : State).rd .TMG_GRP_CFG_prio [(Half.E).n, (0), m.ix]) (({ withFr hosted { Frame.blank with loc := .queued, out := 0, bytes := z 64 } with buf := { hosted.buf with queues := [([0, 0], [0])] } } : State).groupMembers (0) false)).2).1).get (by decide +kernel)).ix false)).2).1).get (by decide +kernel)), { Frame.blank with loc := .queued, out := 0, bytes := z 64 }, 0, rfl, by decide +kernel⟩

/-- The cases of DeparseAndTransmit can be met. -/
theorem test_witness_DeparseAndTransmit :
    (∃ (s : State) (id : Nat) (f : Frame) (b : List Byte) (tbl : List HdrEnt) (pay : Nat), ((b, tbl, pay) = (if f.mirror = true then (f.bytes, f.hdrs, f.payAt) else s.deparseBytes f)) ∧ (s.fr? id = some f) ∧ (f.loc = .deparse) ∧ (s.deparseHeld f = false) ∧ (f.stomp = false) ∧ ((f.m 275 1 = 0 ∨ f.mirror = true)) ∧ (b.length ≤ 16383) ∧ ((f.m 274 1 = 0 ∨ f.mirror = true)) ∧ (¬ (1024 ≤ f.dest ∧ f.dest < 1056)) ∧ (f.out < 1024) ∧ ((f.telExp = true → (s.expFifo (pipeHalf f.pipe)).length + 1 < s.expBatch (pipeHalf f.pipe) ∧ s.rd .TEL_EXP_CFG_target [(pipeHalf f.pipe).n] ≠ 1)))
    ∧ (∃ (s : State) (id : Nat) (f : Frame) (b : List Byte) (tbl : List HdrEnt) (pay : Nat), (s.fr? id = some f) ∧ (f.loc = .deparse) ∧ ((b, tbl, pay) = (if f.mirror = true then (f.bytes, f.hdrs, f.payAt) else s.deparseBytes f)) ∧ (16383 < b.length) ∧ (s.deparseHeld f = false) ∧ (f.stomp = false) ∧ ((f.m 275 1 = 0 ∨ f.mirror = true)) ∧ (¬ (1024 ≤ f.dest ∧ f.dest < 1056 ∧ f.pass = 7)))
    ∧ (∃ (s : State) (id : Nat) (f : Frame) (b : List Byte) (tbl : List HdrEnt) (pay : Nat), ((b, tbl, pay) = (if f.mirror = true then (f.bytes, f.hdrs, f.payAt) else s.deparseBytes f)) ∧ (s.fr? id = some f) ∧ (f.loc = .deparse) ∧ (s.deparseHeld f = false) ∧ (f.stomp = false) ∧ ((f.m 275 1 = 0 ∨ f.mirror = true)) ∧ (f.telExp = false) ∧ (1024 ≤ f.dest) ∧ (f.dest < 1056) ∧ (f.pass = 7))
    ∧ (∃ (s : State) (id : Nat) (f : Frame) (b : List Byte) (tbl : List HdrEnt) (pay : Nat), ((b, tbl, pay) = (if f.mirror = true then (f.bytes, f.hdrs, f.payAt) else s.deparseBytes f)) ∧ (s.fr? id = some f) ∧ (f.loc = .deparse) ∧ (s.deparseHeld f = false) ∧ (f.stomp = false) ∧ ((f.m 275 1 = 0 ∨ f.mirror = true)) ∧ (f.telExp = false) ∧ (1024 ≤ f.dest) ∧ (f.dest < 1056) ∧ (f.pass ≠ 7) ∧ (b.length ≤ 16383) ∧ ((f.m 274 1 = 0 ∨ f.mirror = true)))
    ∧ (∃ (s : State) (id : Nat) (f : Frame) (b : List Byte) (tbl : List HdrEnt) (pay : Nat), ((b, tbl, pay) = (if f.mirror = true then (f.bytes, f.hdrs, f.payAt) else s.deparseBytes f)) ∧ (s.fr? id = some f) ∧ (f.loc = .deparse) ∧ (s.deparseHeld f = false) ∧ (f.stomp = false) ∧ ((f.m 275 1 = 0 ∨ f.mirror = true)) ∧ (f.telExp = false) ∧ (f.m 274 1 = 1) ∧ (f.mirror = false) ∧ (¬ (1024 ≤ f.dest ∧ f.dest < 1056 ∧ f.pass = 7)) ∧ (b.length ≤ 16383) ∧ (1056 + f.trapPort < 1088))
    ∧ (∃ (s : State) (id : Nat) (pos : Nat) (f : Frame) (c : PortCfg) (slip : Bool) (T : Ts) (b : List Byte) (req : Bool), (slip = (f.timed && decide (f.tStart - 64 * tuNs / s.rate f.out < s.now (portHalf f.out) * 200))) ∧ ((if f.timed = true ∧ slip = false then T = tsAdd (f.tStart / 200) (adjTs (s.rd .TIM_PORT_CFG_tx_adj [0, f.out])) else T = s.txTime f.out pos)) ∧ (b = (match s.ptpWord f with | some w => (s.ptpRun (portHalf f.out) f w T).1 | none => f.bytes)) ∧ (req = ((match s.ptpWord f with | some w => bit w 13 | none => false) || decide (f.tsId ≠ 0))) ∧ (s.fr? id = some f) ∧ (f.loc = .tile) ∧ (s.tileHeld f = false) ∧ (f.out < 1024) ∧ (s.rd .LAN_PORT_STAT_state [f.out / 128, f.out % 128] = 4) ∧ (s.xingBusy (portHalf f.out) 1 (portTile f.out) = false) ∧ (s.lanes.ports.get? [f.out] = some c))
    ∧ (∃ (s : State) (id : Nat) (pos : Nat) (f : Frame), (s.fr? id = some f) ∧ (f.loc = .tile) ∧ (s.tileHeld f = false) ∧ (s.rd .LAN_PORT_STAT_state [f.out / 128, f.out % 128] ≠ 4))
    ∧ (∃ (s : State) (h : Half) (f : Frame) (w : Nat) (off : Nat) (T : Ts) (b : List Byte), (b = (s.ptpRun h f w T).1) ∧ (off = bits w 2 10) ∧ (bit w 14 = false) ∧ (f.stomp = false) ∧ (bits w 0 2 = 1) ∧ (26 ≤ off) ∧ (off + 10 ≤ min 1024 (f.bytes.length - 4)))
    ∧ (∃ (s : State) (h : Half) (f : Frame) (w : Nat) (off : Nat) (T : Ts) (b : List Byte) (r : Int) (v : Int), (b = (s.ptpRun h f w T).1) ∧ (off = bits w 2 10) ∧ (v = signed 64 (be f.bytes off 8) + r) ∧ (bit w 14 = false) ∧ (f.stomp = false) ∧ (bits w 0 2 = 2) ∧ (bit w 12 = false) ∧ (off + 8 ≤ min 1024 (f.bytes.length - 4)) ∧ (s.residence h f T = some r)) :=
  ⟨⟨withFr hosted (({ Frame.blank with loc := .deparse, out := 0, bytes := z 64 } : Frame)), 0, ({ Frame.blank with loc := .deparse, out := 0, bytes := z 64 } : Frame), ((withFr hosted (({ Frame.blank with loc := .deparse, out := 0, bytes := z 64 } : Frame))).deparseBytes (({ Frame.blank with loc := .deparse, out := 0, bytes := z 64 } : Frame))).1, ((withFr hosted (({ Frame.blank with loc := .deparse, out := 0, bytes := z 64 } : Frame))).deparseBytes (({ Frame.blank with loc := .deparse, out := 0, bytes := z 64 } : Frame))).2.1, ((withFr hosted (({ Frame.blank with loc := .deparse, out := 0, bytes := z 64 } : Frame))).deparseBytes (({ Frame.blank with loc := .deparse, out := 0, bytes := z 64 } : Frame))).2.2, tripleOf _ _ _ (by decide +kernel), by decide +kernel⟩,
   ⟨withFr hosted (({ Frame.blank with loc := .deparse, mirror := true, bytes := List.replicate 16384 0 } : Frame)), 0, ({ Frame.blank with loc := .deparse, mirror := true, bytes := List.replicate 16384 0 } : Frame), (({ Frame.blank with loc := .deparse, mirror := true, bytes := List.replicate 16384 0 } : Frame)).bytes, (({ Frame.blank with loc := .deparse, mirror := true, bytes := List.replicate 16384 0 } : Frame)).hdrs, (({ Frame.blank with loc := .deparse, mirror := true, bytes := List.replicate 16384 0 } : Frame)).payAt, rfl, rfl, rfl, by rw [List.length_replicate]; decide, by decide +kernel⟩,
   ⟨withFr hosted (({ Frame.blank with loc := .deparse, bytes := z 64 } : Frame).mset 257 11 1055 |>.mset 34 3 7), 0, ({ Frame.blank with loc := .deparse, bytes := z 64 } : Frame).mset 257 11 1055 |>.mset 34 3 7, ((withFr hosted (({ Frame.blank with loc := .deparse, bytes := z 64 } : Frame).mset 257 11 1055 |>.mset 34 3 7)).deparseBytes (({ Frame.blank with loc := .deparse, bytes := z 64 } : Frame).mset 257 11 1055 |>.mset 34 3 7)).1, ((withFr hosted (({ Frame.blank with loc := .deparse, bytes := z 64 } : Frame).mset 257 11 1055 |>.mset 34 3 7)).deparseBytes (({ Frame.blank with loc := .deparse, bytes := z 64 } : Frame).mset 257 11 1055 |>.mset 34 3 7)).2.1, ((withFr hosted (({ Frame.blank with loc := .deparse, bytes := z 64 } : Frame).mset 257 11 1055 |>.mset 34 3 7)).deparseBytes (({ Frame.blank with loc := .deparse, bytes := z 64 } : Frame).mset 257 11 1055 |>.mset 34 3 7)).2.2, tripleOf _ _ _ (by decide +kernel), by decide +kernel⟩,
   ⟨withFr hosted (({ Frame.blank with loc := .deparse, bytes := z 64 } : Frame).mset 257 11 1024 |>.mset 34 3 6), 0, ({ Frame.blank with loc := .deparse, bytes := z 64 } : Frame).mset 257 11 1024 |>.mset 34 3 6, ((withFr hosted (({ Frame.blank with loc := .deparse, bytes := z 64 } : Frame).mset 257 11 1024 |>.mset 34 3 6)).deparseBytes (({ Frame.blank with loc := .deparse, bytes := z 64 } : Frame).mset 257 11 1024 |>.mset 34 3 6)).1, ((withFr hosted (({ Frame.blank with loc := .deparse, bytes := z 64 } : Frame).mset 257 11 1024 |>.mset 34 3 6)).deparseBytes (({ Frame.blank with loc := .deparse, bytes := z 64 } : Frame).mset 257 11 1024 |>.mset 34 3 6)).2.1, ((withFr hosted (({ Frame.blank with loc := .deparse, bytes := z 64 } : Frame).mset 257 11 1024 |>.mset 34 3 6)).deparseBytes (({ Frame.blank with loc := .deparse, bytes := z 64 } : Frame).mset 257 11 1024 |>.mset 34 3 6)).2.2, tripleOf _ _ _ (by decide +kernel), by decide +kernel⟩,
   ⟨withFr hosted (({ Frame.blank with loc := .deparse, trapPort := 31, bytes := z 64 } : Frame).mset 274 1 1), 0, ({ Frame.blank with loc := .deparse, trapPort := 31, bytes := z 64 } : Frame).mset 274 1 1, ((withFr hosted (({ Frame.blank with loc := .deparse, trapPort := 31, bytes := z 64 } : Frame).mset 274 1 1)).deparseBytes (({ Frame.blank with loc := .deparse, trapPort := 31, bytes := z 64 } : Frame).mset 274 1 1)).1, ((withFr hosted (({ Frame.blank with loc := .deparse, trapPort := 31, bytes := z 64 } : Frame).mset 274 1 1)).deparseBytes (({ Frame.blank with loc := .deparse, trapPort := 31, bytes := z 64 } : Frame).mset 274 1 1)).2.1, ((withFr hosted (({ Frame.blank with loc := .deparse, trapPort := 31, bytes := z 64 } : Frame).mset 274 1 1)).deparseBytes (({ Frame.blank with loc := .deparse, trapPort := 31, bytes := z 64 } : Frame).mset 274 1 1)).2.2, tripleOf _ _ _ (by decide +kernel), by decide +kernel⟩,
   ⟨{ withFr (hs [(.LAN_PORT_STAT_state, [0, 0], 4)]) (({ Frame.blank with loc := .tile, out := 0, bytes := z 64 } : Frame)) with lanes := { hosted.lanes with ports := [([0], pc)] } }, 0, 0, ({ Frame.blank with loc := .tile, out := 0, bytes := z 64 } : Frame), pc, (((({ Frame.blank with loc := .tile, out := 0, bytes := z 64 } : Frame)).timed && decide ((({ Frame.blank with loc := .tile, out := 0, bytes := z 64 } : Frame)).tStart - 64 * tuNs / ({ withFr (hs [(.LAN_PORT_STAT_state, [0, 0], 4)]) (({ Frame.blank with loc := .tile, out := 0, bytes := z 64 } : Frame)) with lanes := { hosted.lanes with ports := [([0], pc)] } } : State).rate (({ Frame.blank with loc := .tile, out := 0, bytes := z 64 } : Frame)).out < ({ withFr (hs [(.LAN_PORT_STAT_state, [0, 0], 4)]) (({ Frame.blank with loc := .tile, out := 0, bytes := z 64 } : Frame)) with lanes := { hosted.lanes with ports := [([0], pc)] } } : State).now (portHalf (({ Frame.blank with loc := .tile, out := 0, bytes := z 64 } : Frame)).out) * 200))), (({ withFr (hs [(.LAN_PORT_STAT_state, [0, 0], 4)]) (({ Frame.blank with loc := .tile, out := 0, bytes := z 64 } : Frame)) with lanes := { hosted.lanes with ports := [([0], pc)] } } : State).txTime 0 0), ((match ({ withFr (hs [(.LAN_PORT_STAT_state, [0, 0], 4)]) (({ Frame.blank with loc := .tile, out := 0, bytes := z 64 } : Frame)) with lanes := { hosted.lanes with ports := [([0], pc)] } } : State).ptpWord (({ Frame.blank with loc := .tile, out := 0, bytes := z 64 } : Frame)) with | some w => (({ withFr (hs [(.LAN_PORT_STAT_state, [0, 0], 4)]) (({ Frame.blank with loc := .tile, out := 0, bytes := z 64 } : Frame)) with lanes := { hosted.lanes with ports := [([0], pc)] } } : State).ptpRun (portHalf (({ Frame.blank with loc := .tile, out := 0, bytes := z 64 } : Frame)).out) (({ Frame.blank with loc := .tile, out := 0, bytes := z 64 } : Frame)) w ((({ withFr (hs [(.LAN_PORT_STAT_state, [0, 0], 4)]) (({ Frame.blank with loc := .tile, out := 0, bytes := z 64 } : Frame)) with lanes := { hosted.lanes with ports := [([0], pc)] } } : State).txTime 0 0))).1 | none => (({ Frame.blank with loc := .tile, out := 0, bytes := z 64 } : Frame)).bytes)), (((match ({ withFr (hs [(.LAN_PORT_STAT_state, [0, 0], 4)]) (({ Frame.blank with loc := .tile, out := 0, bytes := z 64 } : Frame)) with lanes := { hosted.lanes with ports := [([0], pc)] } } : State).ptpWord (({ Frame.blank with loc := .tile, out := 0, bytes := z 64 } : Frame)) with | some w => bit w 13 | none => false) || decide ((({ Frame.blank with loc := .tile, out := 0, bytes := z 64 } : Frame)).tsId ≠ 0))), rfl, by rw [if_neg (by decide +kernel)], rfl, rfl, by decide +kernel⟩,
   ⟨withFr hosted (({ Frame.blank with loc := .tile } : Frame)), 0, 0, ({ Frame.blank with loc := .tile } : Frame), by decide +kernel⟩,
   ⟨hosted, Half.W, ({ Frame.blank with bytes := z 64 } : Frame), 121, (bits (121) 2 10), 0, (((hosted).ptpRun (Half.W) (({ Frame.blank with bytes := z 64 } : Frame)) (121) (0)).1), rfl, rfl, by decide +kernel⟩,
   ⟨hosted, Half.W, ({ Frame.blank with bytes := z 64 } : Frame), 122, (bits (122) 2 10), 0, (((hosted).ptpRun (Half.W) (({ Frame.blank with bytes := z 64 } : Frame)) (122) (0)).1), (((hosted).residence (Half.W) (({ Frame.blank with bytes := z 64 } : Frame)) (0)).get (by decide +kernel)), (signed 64 (be (({ Frame.blank with bytes := z 64 } : Frame)).bytes (bits (122) 2 10) 8) + (((hosted).residence (Half.W) (({ Frame.blank with bytes := z 64 } : Frame)) (0)).get (by decide +kernel))), rfl, rfl, rfl, by decide +kernel⟩⟩

/-- The cases of ExportFlushAndSamplePop can be met. -/
theorem test_witness_ExportFlushAndSamplePop :
    (∃ (s : State) (h : Half) (port : Nat) (n : Nat), (port = 1056 + 8 * h.n + s.rd .TEL_EXP_CFG_exp_port [h.n]) ∧ (n = min (s.expFifo h).length (s.expBatch h)) ∧ (s.expFifo h ≠ []) ∧ (s.rd .TEL_EXP_CFG_target [h.n] ≠ 1) ∧ (s.portClear port = true) ∧ (s.serves h 9 [0, 1] = true) ∧ (s.xingBusy h 4 0 = false) ∧ (s.fr? s.nextId = none))
    ∧ (∃ (s : State) (h : Half) (x : Half × Nat × Nat), (s.pmcHead h = some x) ∧ (s.regOff (decide (h = .W)) = false))
    ∧ (∃ (s : State) (h : Half), (s.pmcHead h = none) ∧ (s.regOff (decide (h = .W)) = false)) :=
  ⟨⟨{ hosted with tel := { hosted.tel with fifoE := [z 64] } }, Half.E, (1056 + 8 * (Half.E).n + ({ hosted with tel := { hosted.tel with fifoE := [z 64] } } : State).rd .TEL_EXP_CFG_exp_port [(Half.E).n]), (min (({ hosted with tel := { hosted.tel with fifoE := [z 64] } } : State).expFifo (Half.E)).length (({ hosted with tel := { hosted.tel with fifoE := [z 64] } } : State).expBatch (Half.E))), rfl, rfl, by decide +kernel⟩,
   ⟨{ hosted with tel := { hosted.tel with fifoS := [(.W, 3, 9)] } }, .W, (.W, 3, 9), by decide +kernel⟩,
   ⟨hosted, .W, by decide +kernel⟩⟩

/-- The cases of HistogramWindows can be met. -/
theorem test_witness_HistogramWindows :
    (∃ (s : State) (h : Half) (w : Word), (w = BitVec.ofNat 64 (tTotalNs (nextMultiple (s.histWin h) (tTotalNs (s.now h)) * tsNs))) ∧ (s.serves h 9 [w, 2] = true) ∧ ((∀ d ∈ s.tel.histDue, d.1 ≠ h)) ∧ ((match h with | .E => s.tel.ackE | .W => s.tel.ackW) = true) ∧ (s.xingBusy h 2 0 = false))
    ∧ (∃ (s : State) (h : Half) (w : Word), (w = BitVec.ofNat 64 (tTotalNs (nextMultiple (s.histWin h) (tTotalNs (s.now h)) * tsNs))) ∧ (s.serves h 9 [w, 2] = true) ∧ ((∀ d ∈ s.tel.histDue, d.1 ≠ h)) ∧ ((match h with | .E => s.tel.ackE | .W => s.tel.ackW) = false) ∧ (s.xingBusy h 2 0 = false))
    ∧ (∃ (s : State) (h : Half) (w : Word), (w = BitVec.ofNat 64 (tTotalNs (nextMultiple (s.histWin h) (tTotalNs (s.now h)) * tsNs))) ∧ (s.regOff (decide (h = .W)) = false)) :=
  ⟨⟨{ hosted with tel := { hosted.tel with ackW := true } }, .W, (BitVec.ofNat 64 (tTotalNs (nextMultiple (({ hosted with tel := { hosted.tel with ackW := true } } : State).histWin (.W)) (tTotalNs (({ hosted with tel := { hosted.tel with ackW := true } } : State).now (.W))) * tsNs))), rfl, by decide +kernel⟩,
   ⟨{ hosted with tel := { hosted.tel with ackW := false } }, .W, (BitVec.ofNat 64 (tTotalNs (nextMultiple (({ hosted with tel := { hosted.tel with ackW := false } } : State).histWin (.W)) (tTotalNs (({ hosted with tel := { hosted.tel with ackW := false } } : State).now (.W))) * tsNs))), rfl, by decide +kernel⟩,
   ⟨hosted, .E, (BitVec.ofNat 64 (tTotalNs (nextMultiple ((hosted).histWin (.E)) (tTotalNs ((hosted).now (.E))) * tsNs))), rfl, by decide +kernel⟩⟩

/-- The cases of Snapshots can be met. -/
theorem test_witness_Snapshots :
    (∃ (s : State) (d : Hdr) (mask : Nat), (due s (.cntSnap d mask)) ∧ (served s d ⟨0x60, .reads, false, false, 2⟩ true (cleanHdr d false false true && decide (mask < 128))) ∧ ((∀ h ∈ Hdr.hs d, s.rd .TEL_SNAP_STAT_busy [h.n] = 0)))
    ∧ (∃ (s : State) (d : Hdr) (mask : Nat), ((∃ h ∈ Hdr.hs d, s.rd .TEL_SNAP_STAT_busy [h.n] ≠ 0)) ∧ (due s (.cntSnap d mask)) ∧ (served s d ⟨0x60, .reads, false, false, 2⟩ true (cleanHdr d false false true && decide (mask < 128))))
    ∧ (∃ (s : State) (h : Half), (s.rd .TEL_SNAP_CFG_period_ms [h.n] ≠ 0))
    ∧ (∃ (s : State) (h : Half) (x : Snap), (s.tel.snaps.find? (fun x => x.half = h && x.taken) = some x) ∧ (s.serves h 9 [BitVec.ofNat 64 x.seq] = true) ∧ (x.desc = none) ∧ (s.ringUp 0 8 = false))
    ∧ (∃ (s : State) (h : Half) (x : Snap) (d : Hdr), (s.tel.snaps.find? (fun x => x.half = h && x.taken) = some x) ∧ (s.serves h 9 [BitVec.ofNat 64 x.seq] = true) ∧ (x.desc = some d) ∧ (d.buf.isSome = true) ∧ ((s.tel.snaps.erase x).any (sameDesc d) = false)) :=
  ⟨⟨hosted, (hd true false 0 0 (z 128)), 127, dueOf rfl (by decide +kernel), by decide +kernel⟩,
   ⟨hs [(.TEL_SNAP_STAT_busy, [0], 1)], (hd true false 0 0 (z 128)), 0, ⟨.E, by decide +kernel⟩, dueOf rfl (by decide +kernel), by decide +kernel⟩,
   ⟨hs [(.TEL_SNAP_CFG_period_ms, [0], 1)], .E, by decide +kernel⟩,
   ⟨{ hosted with tel := { hosted.tel with snaps := [⟨.E, 1, 0, 0, true, 1, 0, z 8, none⟩] } }, Half.E, ⟨.E, 1, 0, 0, true, 1, 0, z 8, none⟩, by decide +kernel⟩,
   ⟨{ hosted with tel := { hosted.tel with snaps := [⟨.E, 1, 0, 0, true, 1, 0, z 8, some (hd true false 0 0 (z 128))⟩] } }, Half.E, ⟨.E, 1, 0, 0, true, 1, 0, z 8, some (hd true false 0 0 (z 128))⟩, (hd true false 0 0 (z 128)), by decide +kernel⟩⟩

/-- The cases of GateListsAndLaunchTimes can be met. -/
theorem test_witness_GateListsAndLaunchTimes :
    (∃ (s : State) (u : State) (d : Hdr) (port : Nat) (entries : Nat) (bsec : Nat) (bns : Nat) (cycle : Nat) (c : Nat) (es : List (Nat × Nat)), (((entries = 0 ∧ es = []) ∨ (entries ≠ 0 ∧ ∃ bs, d.buf = some bs ∧ gateEntries bs entries = some es))) ∧ (u = s.gateDue port) ∧ (due s (.gateLoad d port entries bsec bns cycle)) ∧ (served s d ⟨0x40, .config, true, false, 0⟩ true (cleanHdr d false false true && decide (bns < 1000000000))) ∧ (entries ≤ 1024) ∧ ((entries ≠ 0 → 64 ≤ cycle)) ∧ (port < 1024) ∧ (s.configured port = true) ∧ (c = (if entries = 0 then 1 else cycle)) ∧ (es.length ≤ u.rd .GTE_MEM_free [(portHalf port).n]))
    ∧ (∃ (s : State) (u : State) (d : Hdr) (port : Nat) (entries : Nat) (bsec : Nat) (bns : Nat) (cycle : Nat) (c : Nat) (es : List (Nat × Nat)), (((entries = 0 ∧ es = []) ∨ (entries ≠ 0 ∧ ∃ bs, d.buf = some bs ∧ gateEntries bs entries = some es))) ∧ (u = s.gateDue port) ∧ (due s (.gateLoad d port entries bsec bns cycle)) ∧ (served s d ⟨0x40, .config, true, false, 0⟩ true (cleanHdr d false false true && decide (bns < 1000000000))) ∧ (entries ≤ 1024) ∧ ((entries ≠ 0 → 64 ≤ cycle)) ∧ (port < 1024) ∧ (s.configured port = true) ∧ (c = (if entries = 0 then 1 else cycle)) ∧ (u.rd .GTE_MEM_free [(portHalf port).n] < es.length))
    ∧ (∃ (s : State) (port : Nat) (p : GList), (s.glP port = some p) ∧ (s.xingBusy (portHalf port) 2 0 = true))
    ∧ (∃ (s : State) (port : Nat) (p : GList), (s.glP port = some p) ∧ (s.xingBusy (portHalf port) 2 0 = false))
    ∧ (∃ (s : State) (port : Nat) (q : Nat) (i : Nat) (h : Half) (f : Frame) (v : Nat) (p : List Nat), (p = s.gprof h q) ∧ (h = portHalf port) ∧ (i < 16) ∧ (q = 16 * localIdx port + i) ∧ (s.timedPort port = true) ∧ (s.on .GTE_Q_CFG_lt_en [h.n, q] = true) ∧ ((∀ j, j < 16 → j ≠ i → s.on .GTE_Q_CFG_lt_en [h.n, 16 * localIdx port + j] = false)) ∧ (s.queueIds h q = [f.id]) ∧ (s.fr? f.id = some f) ∧ (f.egress = h) ∧ (f.queue = q) ∧ (f.launch = some v) ∧ (s.stale f = false) ∧ (s.rd .GTE_PROF_lt_max p ≠ 0) ∧ (((s.rd .GTE_PROF_lt_max p * 1000 * tuNs : Nat) : Int) < s.launchTime port f - s.base port))
    ∧ (∃ (s : State) (port : Nat) (q : Nat) (i : Nat) (h : Half) (f : Frame) (v : Nat) (p : List Nat), (p = s.gprof h q) ∧ (h = portHalf port) ∧ (i < 16) ∧ (q = 16 * localIdx port + i) ∧ (s.timedPort port = true) ∧ (s.on .GTE_Q_CFG_lt_en [h.n, q] = true) ∧ ((∀ j, j < 16 → j ≠ i → s.on .GTE_Q_CFG_lt_en [h.n, 16 * localIdx port + j] = false)) ∧ (s.queueIds h q = [f.id]) ∧ (s.fr? f.id = some f) ∧ (f.egress = h) ∧ (f.queue = q) ∧ (f.launch = some v) ∧ (s.stale f = false) ∧ ((s.rd .GTE_PROF_lt_max p = 0 ∨ s.launchTime port f - s.base port ≤ ((s.rd .GTE_PROF_lt_max p * 1000 * tuNs : Nat) : Int))) ∧ (f.lateDone = false) ∧ (s.launchTime port f + ((s.rd .GTE_PROF_lt_tol p * tuNs : Nat) : Int) < s.base port) ∧ (s.on .GTE_PROF_late_act p = true))
    ∧ (∃ (s : State) (port : Nat) (q : Nat) (i : Nat) (h : Half) (f : Frame) (v : Nat) (p : List Nat), (p = s.gprof h q) ∧ (h = portHalf port) ∧ (i < 16) ∧ (q = 16 * localIdx port + i) ∧ (s.timedPort port = true) ∧ (s.on .GTE_Q_CFG_lt_en [h.n, q] = true) ∧ ((∀ j, j < 16 → j ≠ i → s.on .GTE_Q_CFG_lt_en [h.n, 16 * localIdx port + j] = false)) ∧ (s.queueIds h q = [f.id]) ∧ (s.fr? f.id = some f) ∧ (f.egress = h) ∧ (f.queue = q) ∧ (f.launch = some v) ∧ (s.stale f = false) ∧ ((s.rd .GTE_PROF_lt_max p = 0 ∨ s.launchTime port f - s.base port ≤ ((s.rd .GTE_PROF_lt_max p * 1000 * tuNs : Nat) : Int))) ∧ (f.lateDone = false) ∧ (s.launchTime port f + ((s.rd .GTE_PROF_lt_tol p * tuNs : Nat) : Int) < s.base port) ∧ (s.on .GTE_PROF_late_act p = false)) :=
  ⟨⟨{ hs [(.GTE_MEM_free, [0], 100)] with lanes := { hosted.lanes with ports := [([0], ⟨1, 0, true, false, false, false⟩)] } }, (({ hs [(.GTE_MEM_free, [0], 100)] with lanes := { hosted.lanes with ports := [([0], ⟨1, 0, true, false, false, false⟩)] } } : State).gateDue (0)), (hd false false 0 0 (leBytes 8 (1 + 8 * 2 ^ 16))), 0, 1, 0, 0, 64, 64, [(1, 8)], Or.inr ⟨by decide, _, rfl, by decide +kernel⟩, rfl, dueOf rfl (by decide +kernel), by decide +kernel⟩,
   ⟨{ hs [(.GTE_MEM_free, [0], 0)] with lanes := { hosted.lanes with ports := [([0], ⟨1, 0, true, false, false, false⟩)] } }, (({ hs [(.GTE_MEM_free, [0], 0)] with lanes := { hosted.lanes with ports := [([0], ⟨1, 0, true, false, false, false⟩)] } } : State).gateDue (0)), (hd false false 0 0 (leBytes 8 (1 + 8 * 2 ^ 16))), 0, 1, 0, 0, 64, 64, [(1, 8)], Or.inr ⟨by decide, _, rfl, by decide +kernel⟩, rfl, dueOf rfl (by decide +kernel), by decide +kernel⟩,
   ⟨{ ({ hs [] with ras := { hosted.ras with xing := [([0, 2, 0], ⟨0, 0, 0⟩)] } } : State) with timed := { hosted.timed with gl := [([0, 1], (⟨5, 64, [(1, 8)]⟩ : GList))] } }, 0, (⟨5, 64, [(1, 8)]⟩ : GList), by decide +kernel⟩,
   ⟨{ hosted with timed := { hosted.timed with gl := [([0, 1], ⟨5, 64, [(1, 8)]⟩)] } }, 0, ⟨5, 64, [(1, 8)]⟩, by decide +kernel⟩,
   ⟨{ withFr (hs [(.GTE_Q_CFG_lt_en, [0, 0], 1), (.GTE_PROF_lt_max, [0, 0], 1)]) { Frame.blank with loc := .queued, out := 0, queue := 0, bytes := z 64, launch := some (2 ^ 40) } with buf := { hosted.buf with queues := [([0, 0], [0])] } }, 0, 0, 0, Half.E, { Frame.blank with loc := .queued, out := 0, queue := 0, bytes := z 64, launch := some (2 ^ 40) }, (2 ^ 40), (({ withFr (hs [(.GTE_Q_CFG_lt_en, [0, 0], 1), (.GTE_PROF_lt_max, [0, 0], 1)]) { Frame.blank with loc := .queued, out := 0, queue := 0, bytes := z 64, launch := some (2 ^ 40) } with buf := { hosted.buf with queues := [([0, 0], [0])] } } : State).gprof (Half.E) (0)), rfl, by decide +kernel⟩,
   ⟨{ withFr (hs [(.GTE_Q_CFG_lt_en, [0, 0], 1), (.GTE_PROF_late_act, [0, 0], 1)]) { Frame.blank with loc := .queued, out := 0, queue := 0, bytes := z 64, launch := some (2 ^ 48 - 5000) } with buf := { hosted.buf with queues := [([0, 0], [0])] } }, 0, 0, 0, Half.E, { Frame.blank with loc := .queued, out := 0, queue := 0, bytes := z 64, launch := some (2 ^ 48 - 5000) }, (2 ^ 48 - 5000), (({ withFr (hs [(.GTE_Q_CFG_lt_en, [0, 0], 1), (.GTE_PROF_late_act, [0, 0], 1)]) { Frame.blank with loc := .queued, out := 0, queue := 0, bytes := z 64, launch := some (2 ^ 48 - 5000) } with buf := { hosted.buf with queues := [([0, 0], [0])] } } : State).gprof (Half.E) (0)), rfl, by decide +kernel⟩,
   ⟨{ withFr (hs [(.GTE_Q_CFG_lt_en, [0, 0], 1)]) { Frame.blank with loc := .queued, out := 0, queue := 0, bytes := z 64, launch := some (2 ^ 48 - 5000) } with buf := { hosted.buf with queues := [([0, 0], [0])] } }, 0, 0, 0, Half.E, { Frame.blank with loc := .queued, out := 0, queue := 0, bytes := z 64, launch := some (2 ^ 48 - 5000) }, (2 ^ 48 - 5000), (({ withFr (hs [(.GTE_Q_CFG_lt_en, [0, 0], 1)]) { Frame.blank with loc := .queued, out := 0, queue := 0, bytes := z 64, launch := some (2 ^ 48 - 5000) } with buf := { hosted.buf with queues := [([0, 0], [0])] } } : State).gprof (Half.E) (0)), rfl, by decide +kernel⟩⟩

/-- The cases of EpochGrid can be met. -/
theorem test_witness_EpochGrid :
    (∃ (s : State) (u : State) (d : Hdr) (sec : Nat) (ns : Nat) (len : Nat) (slots : Nat) (og : Nat) (cg : Nat) (bs : List Byte), (u = s.gridDue) ∧ (due s (.epochLoad d sec ns len slots og cg)) ∧ (served s d ⟨0x41, .config, true, false, 0⟩ true (cleanHdr d false false true && decide (ns < 1000000000))) ∧ (1000 ≤ len) ∧ (len ≤ 100000000) ∧ (slots ≠ 0) ∧ (slots ≤ 1024) ∧ (og + cg < len) ∧ (d.buf = some bs) ∧ (s.rd .EPC_STAT_state [0] ≠ 4))
    ∧ (∃ (s : State) (u : State) (d : Hdr) (sec : Nat) (ns : Nat) (len : Nat) (slots : Nat) (og : Nat) (cg : Nat) (bs : List Byte), (u = s.gridDue) ∧ (due s (.epochLoad d sec ns len slots og cg)) ∧ (served s d ⟨0x41, .config, true, false, 0⟩ true (cleanHdr d false false true && decide (ns < 1000000000))) ∧ (1000 ≤ len) ∧ (len ≤ 100000000) ∧ (slots ≠ 0) ∧ (slots ≤ 1024) ∧ (og + cg < len) ∧ (d.buf = some bs) ∧ (s.rd .EPC_STAT_state [0] = 4))
    ∧ (∃ (s : State) (u : State) (d : Hdr), (u = s.gridDue) ∧ (due s (.epochStop d)) ∧ (served s d ⟨0x42, .config, true, false, 0⟩ true (cleanHdr d false false false)) ∧ (u.rd .EPC_STAT_state [0] = 0))
    ∧ (∃ (s : State) (u : State) (d : Hdr), (u = s.gridDue) ∧ (due s (.epochStop d)) ∧ (served s d ⟨0x42, .config, true, false, 0⟩ true (cleanHdr d false false false)) ∧ (u.rd .EPC_STAT_state [0] = 1))
    ∧ (∃ (s : State) (u : State) (d : Hdr), (u = s.gridDue) ∧ (due s (.epochStop d)) ∧ (served s d ⟨0x42, .config, true, false, 0⟩ true (cleanHdr d false false false)) ∧ (u.rd .EPC_STAT_state [0] = 2 ∨ u.rd .EPC_STAT_state [0] = 3))
    ∧ (∃ (s : State) (u : State) (d : Hdr), (u = s.gridDue) ∧ (due s (.epochStop d)) ∧ (served s d ⟨0x42, .config, true, false, 0⟩ true (cleanHdr d false false false)) ∧ (u.rd .EPC_STAT_state [0] = 4))
    ∧ (∃ (s : State) (g : Grid), (s.timed.gridP = some g) ∧ (s.rd .EPC_STAT_state [0] = 1))
    ∧ (∃ (s : State) (g : Grid), (s.timed.gridP = some g) ∧ (s.rd .EPC_STAT_state [0] = 3))
    ∧ (∃ (s : State) (g : Grid), ((∀ h : Half, s.xingBusy h 2 0 = false)) ∧ (s.timed.gridA = some g) ∧ (s.timed.gridP = none) ∧ (s.rd .EPC_STAT_state [0] ≠ 4) ∧ (0 < g.slots))
    ∧ (∃ (s : State) (g : Grid), ((∀ h : Half, s.xingBusy h 2 0 = false)) ∧ (s.timed.gridA = some g) ∧ (s.timed.gridP = none) ∧ (s.rd .EPC_STAT_state [0] = 4) ∧ (s.epochLeft s.owner g ≤ s.epochLeft s.owner.other g))
    ∧ (∃ (s : State) (h : Half), ((∀ f ∈ s.frames, f.id < s.nextId))) :=
  ⟨⟨hosted, ((hosted).gridDue), (hd false false 0 0 (z 128)), 0, 0, 1000, 1, 10, 10, z 128, rfl, dueOf rfl (by decide +kernel), by decide +kernel⟩,
   ⟨hs [(.EPC_STAT_state, [0], 4)], ((hs [(.EPC_STAT_state, [0], 4)]).gridDue), (hd false false 0 0 (z 128)), 0, 0, 1000, 1, 10, 10, z 128, rfl, dueOf rfl (by decide +kernel), by decide +kernel⟩,
   ⟨hosted, ((hosted).gridDue), d0, rfl, dueOf rfl (by decide +kernel), by decide +kernel⟩,
   ⟨hs [(.EPC_STAT_state, [0], 1)], ((hs [(.EPC_STAT_state, [0], 1)]).gridDue), d0, rfl, dueOf rfl (by decide +kernel), by decide +kernel⟩,
   ⟨hs [(.EPC_STAT_state, [0], 3)], ((hs [(.EPC_STAT_state, [0], 3)]).gridDue), d0, rfl, dueOf rfl (by decide +kernel), by decide +kernel⟩,
   ⟨hs [(.EPC_STAT_state, [0], 4)], ((hs [(.EPC_STAT_state, [0], 4)]).gridDue), d0, rfl, dueOf rfl (by decide +kernel), by decide +kernel⟩,
   ⟨{ hs [(.EPC_STAT_state, [0], 1)] with timed := { hosted.timed with gridP := some (⟨0, 1000, 1, 10, 10, [1]⟩ : Grid) } }, (⟨0, 1000, 1, 10, 10, [1]⟩ : Grid), by decide +kernel⟩,
   ⟨{ hs [(.EPC_STAT_state, [0], 3)] with timed := { hosted.timed with gridP := some (⟨0, 1000, 1, 10, 10, [1]⟩ : Grid) } }, (⟨0, 1000, 1, 10, 10, [1]⟩ : Grid), by decide +kernel⟩,
   ⟨{ hs [(.EPC_STAT_state, [0], 2)] with timed := { hosted.timed with gridA := some (⟨0, 1000, 1, 10, 10, [1]⟩ : Grid) } }, (⟨0, 1000, 1, 10, 10, [1]⟩ : Grid), by intro h; cases h <;> decide +kernel, by decide +kernel⟩,
   ⟨{ hs [(.EPC_STAT_state, [0], 4)] with timed := { hosted.timed with gridA := some (⟨0, 1000, 1, 10, 10, [1]⟩ : Grid) } }, (⟨0, 1000, 1, 10, 10, [1]⟩ : Grid), by intro h; cases h <;> decide +kernel, by decide +kernel⟩,
   ⟨{ withFr (hs [(.EPC_STAT_state, [0], 2)]) Frame.blank with timed := { hosted.timed with gridA := some (⟨0, 1000, 1, 10, 10, [1]⟩ : Grid) } }, .E, by decide +kernel⟩⟩

/-- The cases of TimeCommands can be met. -/
theorem test_witness_TimeCommands :
    (∃ (s : State) (value : Nat) (v : Nat), (v = value % 2 ^ 40) ∧ ((v < 0xFFBE76C9 ∨ 0x100418937 < v)) ∧ (s.regOff false = false))
    ∧ (∃ (s : State) (value : Nat) (v : Nat), (v = value % 2 ^ 40) ∧ (0xFFBE76C9 ≤ v) ∧ (v ≤ 0x100418937) ∧ (((s.holdNext ≠ 0 ∧ s.on .TIM_CFG_hold_en [0] = true) ∨ s.on .TIM_STAT_lockstep_lost [0] = true)) ∧ (s.regOff false = false))
    ∧ (∃ (s : State) (value : Nat) (v : Nat), (v = value % 2 ^ 40) ∧ (0xFFBE76C9 ≤ v) ∧ (v ≤ 0x100418937) ∧ ((s.holdNext = 0 ∨ s.on .TIM_CFG_hold_en [0] = false)) ∧ (s.on .TIM_STAT_lockstep_lost [0] = false) ∧ (s.regOff false = false))
    ∧ (∃ (s : State), (s.rd .TIM_STAT_step_pend [0] = 0) ∧ (s.regOff false = false))
    ∧ (∃ (s : State), (s.rd .TIM_STAT_step_pend [0] ≠ 0) ∧ (s.regOff false = false))
    ∧ (∃ (s : State) (value : Nat), (s.regOff false = false))
    ∧ (∃ (s : State), (s.regOff false = false))
    ∧ (∃ (s : State), (s.rd .TIM_STAT_holdover [0] = 0) ∧ (s.rd .TIM_CFG_wd_ms [0] ≠ 0)) :=
  ⟨⟨hosted, 0, ((0) % 2 ^ 40), rfl, by decide +kernel⟩,
   ⟨hs [(.TIM_STAT_holdover, [0], 1), (.TIM_CFG_hold_en, [0], 1)], 2 ^ 32, ((2 ^ 32) % 2 ^ 40), rfl, by decide +kernel⟩,
   ⟨hosted, 2 ^ 32, ((2 ^ 32) % 2 ^ 40), rfl, by decide +kernel⟩,
   ⟨hosted, by decide +kernel⟩,
   ⟨hs [(.TIM_STAT_step_pend, [0], 1)], by decide +kernel⟩,
   ⟨hosted, 0, by decide +kernel⟩,
   ⟨hosted, by decide +kernel⟩,
   ⟨hs [(.TIM_CFG_wd_ms, [0], 5)], by decide +kernel⟩⟩

/-- The cases of ApplyEdgeAndReference can be met. -/
theorem test_witness_ApplyEdgeAndReference :
    (∃ (s : State) (r : StepReq) (aE : Ts) (aW : Ts) (D : Int), (aE = (s.time.tE + (nextMultiple 1024 s.time.elapsed - s.time.elapsed) * s.time.incE) % tsMod) ∧ (aW = (s.time.tW + (nextMultiple 1024 s.time.elapsed - s.time.elapsed) * s.time.incW) % tsMod) ∧ (D = (if r.abs then (r.value : Int) - (aE : Int) else if r.neg then -(r.value : Int) else (r.value : Int))) ∧ (s.time.pendStep = some r) ∧ (r.due ≤ nextMultiple 1024 s.time.elapsed) ∧ (s.time.pendCfg = []) ∧ (s.time.resyncDue = none) ∧ (s.rd .TIM_STAT_lockstep_lost [0] = 0) ∧ ((s.rd .TIM_CFG_guard_en [0] = 0 ∨ D.natAbs ≤ s.rd .TIM_GUARD_guard_ns [0] * tsNs)))
    ∧ (∃ (s : State) (r : StepReq) (aE : Ts) (aW : Ts) (D : Int), (aE = (s.time.tE + (nextMultiple 1024 s.time.elapsed - s.time.elapsed) * s.time.incE) % tsMod) ∧ (aW = (s.time.tW + (nextMultiple 1024 s.time.elapsed - s.time.elapsed) * s.time.incW) % tsMod) ∧ (D = (if r.abs then (r.value : Int) - (aE : Int) else if r.neg then -(r.value : Int) else (r.value : Int))) ∧ (s.time.pendStep = some r) ∧ (r.due ≤ nextMultiple 1024 s.time.elapsed) ∧ (s.time.pendCfg = []) ∧ (s.time.resyncDue = none) ∧ ((s.rd .TIM_STAT_lockstep_lost [0] ≠ 0 ∨ (s.rd .TIM_CFG_guard_en [0] ≠ 0 ∧ s.rd .TIM_GUARD_guard_ns [0] * tsNs < D.natAbs))))
    ∧ (∃ (s : State), (s.rd .TIM_STAT_ref_lost [0] = 0))
    ∧ (∃ (s : State), (s.regOff false = false)) :=
  ⟨⟨{ hs [] with time := { hosted.time with pendStep := some ⟨0, true, false, 5⟩ } }, (⟨0, true, false, 5⟩ : StepReq), ((({ hs [] with time := { hosted.time with pendStep := some ⟨0, true, false, 5⟩ } } : State).time.tE + (nextMultiple 1024 ({ hs [] with time := { hosted.time with pendStep := some ⟨0, true, false, 5⟩ } } : State).time.elapsed - ({ hs [] with time := { hosted.time with pendStep := some ⟨0, true, false, 5⟩ } } : State).time.elapsed) * ({ hs [] with time := { hosted.time with pendStep := some ⟨0, true, false, 5⟩ } } : State).time.incE) % tsMod), ((({ hs [] with time := { hosted.time with pendStep := some ⟨0, true, false, 5⟩ } } : State).time.tW + (nextMultiple 1024 ({ hs [] with time := { hosted.time with pendStep := some ⟨0, true, false, 5⟩ } } : State).time.elapsed - ({ hs [] with time := { hosted.time with pendStep := some ⟨0, true, false, 5⟩ } } : State).time.elapsed) * ({ hs [] with time := { hosted.time with pendStep := some ⟨0, true, false, 5⟩ } } : State).time.incW) % tsMod), ((if ((⟨0, true, false, 5⟩ : StepReq)).abs then (((⟨0, true, false, 5⟩ : StepReq)).value : Int) - (((({ hs [] with time := { hosted.time with pendStep := some ⟨0, true, false, 5⟩ } } : State).time.tE + (nextMultiple 1024 ({ hs [] with time := { hosted.time with pendStep := some ⟨0, true, false, 5⟩ } } : State).time.elapsed - ({ hs [] with time := { hosted.time with pendStep := some ⟨0, true, false, 5⟩ } } : State).time.elapsed) * ({ hs [] with time := { hosted.time with pendStep := some ⟨0, true, false, 5⟩ } } : State).time.incE) % tsMod) : Int) else if ((⟨0, true, false, 5⟩ : StepReq)).neg then -(((⟨0, true, false, 5⟩ : StepReq)).value : Int) else (((⟨0, true, false, 5⟩ : StepReq)).value : Int))), rfl, rfl, rfl, by decide +kernel⟩,
   ⟨{ hs [(.TIM_CFG_guard_en, [0], 1), (.TIM_GUARD_guard_ns, [0], 1)] with time := { hosted.time with pendStep := some ⟨0, false, true, 2 ^ 60⟩ } }, (⟨0, false, true, 2 ^ 60⟩ : StepReq), ((({ hs [(.TIM_CFG_guard_en, [0], 1), (.TIM_GUARD_guard_ns, [0], 1)] with time := { hosted.time with pendStep := some ⟨0, false, true, 2 ^ 60⟩ } } : State).time.tE + (nextMultiple 1024 ({ hs [(.TIM_CFG_guard_en, [0], 1), (.TIM_GUARD_guard_ns, [0], 1)] with time := { hosted.time with pendStep := some ⟨0, false, true, 2 ^ 60⟩ } } : State).time.elapsed - ({ hs [(.TIM_CFG_guard_en, [0], 1), (.TIM_GUARD_guard_ns, [0], 1)] with time := { hosted.time with pendStep := some ⟨0, false, true, 2 ^ 60⟩ } } : State).time.elapsed) * ({ hs [(.TIM_CFG_guard_en, [0], 1), (.TIM_GUARD_guard_ns, [0], 1)] with time := { hosted.time with pendStep := some ⟨0, false, true, 2 ^ 60⟩ } } : State).time.incE) % tsMod), ((({ hs [(.TIM_CFG_guard_en, [0], 1), (.TIM_GUARD_guard_ns, [0], 1)] with time := { hosted.time with pendStep := some ⟨0, false, true, 2 ^ 60⟩ } } : State).time.tW + (nextMultiple 1024 ({ hs [(.TIM_CFG_guard_en, [0], 1), (.TIM_GUARD_guard_ns, [0], 1)] with time := { hosted.time with pendStep := some ⟨0, false, true, 2 ^ 60⟩ } } : State).time.elapsed - ({ hs [(.TIM_CFG_guard_en, [0], 1), (.TIM_GUARD_guard_ns, [0], 1)] with time := { hosted.time with pendStep := some ⟨0, false, true, 2 ^ 60⟩ } } : State).time.elapsed) * ({ hs [(.TIM_CFG_guard_en, [0], 1), (.TIM_GUARD_guard_ns, [0], 1)] with time := { hosted.time with pendStep := some ⟨0, false, true, 2 ^ 60⟩ } } : State).time.incW) % tsMod), ((if ((⟨0, false, true, 2 ^ 60⟩ : StepReq)).abs then (((⟨0, false, true, 2 ^ 60⟩ : StepReq)).value : Int) - (((({ hs [(.TIM_CFG_guard_en, [0], 1), (.TIM_GUARD_guard_ns, [0], 1)] with time := { hosted.time with pendStep := some ⟨0, false, true, 2 ^ 60⟩ } } : State).time.tE + (nextMultiple 1024 ({ hs [(.TIM_CFG_guard_en, [0], 1), (.TIM_GUARD_guard_ns, [0], 1)] with time := { hosted.time with pendStep := some ⟨0, false, true, 2 ^ 60⟩ } } : State).time.elapsed - ({ hs [(.TIM_CFG_guard_en, [0], 1), (.TIM_GUARD_guard_ns, [0], 1)] with time := { hosted.time with pendStep := some ⟨0, false, true, 2 ^ 60⟩ } } : State).time.elapsed) * ({ hs [(.TIM_CFG_guard_en, [0], 1), (.TIM_GUARD_guard_ns, [0], 1)] with time := { hosted.time with pendStep := some ⟨0, false, true, 2 ^ 60⟩ } } : State).time.incE) % tsMod) : Int) else if ((⟨0, false, true, 2 ^ 60⟩ : StepReq)).neg then -(((⟨0, false, true, 2 ^ 60⟩ : StepReq)).value : Int) else (((⟨0, false, true, 2 ^ 60⟩ : StepReq)).value : Int))), rfl, rfl, rfl, by decide +kernel⟩,
   ⟨hosted, by decide +kernel⟩,
   ⟨hosted, by decide +kernel⟩⟩

/-- The cases of TimestampsAndPins can be met. -/
theorem test_witness_TimestampsAndPins :
    (∃ (s : State) (h : Half) (e : Half × TxTs), (s.time.txtsReq.find? (fun e => e.1 = h) = some e) ∧ ((s.txts h).length < 256))
    ∧ (∃ (s : State) (h : Half) (e : Half × TxTs), (s.time.txtsReq.find? (fun e => e.1 = h) = some e) ∧ (256 ≤ (s.txts h).length))
    ∧ (∃ (s : State) (h : Half) (e : TxTs) (q : List TxTs), (s.txts h = e :: q) ∧ (s.regOff false = false))
    ∧ (∃ (s : State) (pin : Nat) (rising : Bool), ((∀ l, s.time.tioLast.get? [pin] = some l → l + 16 ≤ s.time.elapsed)) ∧ (s.rd .TIM_TIO_CFG_mode [0, pin] = 1) ∧ (bit (s.rd .TIM_TIO_CFG_edge [0, pin]) (if rising then 0 else 1) = true) ∧ ((s.time.tio.getD [pin] []).length < 16))
    ∧ (∃ (s : State) (pin : Nat) (rising : Bool), ((∀ l, s.time.tioLast.get? [pin] = some l → l + 16 ≤ s.time.elapsed)) ∧ (s.rd .TIM_TIO_CFG_mode [0, pin] = 1) ∧ (bit (s.rd .TIM_TIO_CFG_edge [0, pin]) (if rising then 0 else 1) = true) ∧ (16 ≤ (s.time.tio.getD [pin] []).length))
    ∧ (∃ (s : State) (pin : Nat) (e : Bool × Ts) (q : List (Bool × Ts)), (s.time.tio.getD [pin] [] = e :: q) ∧ (s.regOff false = false))
    ∧ (∃ (s : State) (pin : Nat), (s.rd .TIM_TIO_CFG_mode [0, pin] = 2) ∧ (s.tioBad pin = false) ∧ (s.time.tioHigh.get? [pin] = none))
    ∧ (∃ (s : State) (pin : Nat) (e : Nat), (s.rd .TIM_TIO_CFG_mode [0, pin] = 2) ∧ (s.tioBad pin = false) ∧ (s.time.tioHigh.get? [pin] = some e)) :=
  ⟨⟨{ hosted with time := { hosted.time with txtsReq := [(.W, tx0)] } }, Half.W, (.W, tx0), by decide +kernel⟩,
   ⟨{ hosted with time := { hosted.time with txtsReq := [(.W, tx0)], txtsW := List.replicate 256 tx0 } }, Half.W, (.W, tx0), by decide +kernel⟩,
   ⟨{ hosted with time := { hosted.time with txtsE := [tx0] } }, Half.E, tx0, [], by decide +kernel⟩,
   ⟨hs [(.TIM_TIO_CFG_mode, [0, 3], 1), (.TIM_TIO_CFG_edge, [0, 3], 3)], 3, true, fun l h => absurd h (by simp [show (hs [(.TIM_TIO_CFG_mode, [0, 3], 1), (.TIM_TIO_CFG_edge, [0, 3], 3)]).time.tioLast.get? [3] = none from by decide +kernel]), by decide +kernel⟩,
   ⟨{ hs [(.TIM_TIO_CFG_mode, [0, 3], 1), (.TIM_TIO_CFG_edge, [0, 3], 3)] with time := { hosted.time with tio := [([3], List.replicate 16 (true, 0))] } }, 3, false, fun l h => absurd h (by simp [show ({ hs [(.TIM_TIO_CFG_mode, [0, 3], 1), (.TIM_TIO_CFG_edge, [0, 3], 3)] with time := { hosted.time with tio := [([3], List.replicate 16 (true, 0))] } } : State).time.tioLast.get? [3] = none from by decide +kernel]), by decide +kernel⟩,
   ⟨{ hosted with time := { hosted.time with tio := [([3], [(true, 9)])] } }, 3, (true, 9), [], by decide +kernel⟩,
   ⟨hs [(.TIM_TIO_CFG_mode, [0, 3], 2), (.TIM_TIO_CFG_period, [0, 3], 100), (.TIM_TIO_OUT_width, [0, 3], 50)], 3, by decide +kernel⟩,
   ⟨{ hs [(.TIM_TIO_CFG_mode, [0, 3], 2), (.TIM_TIO_CFG_period, [0, 3], 100), (.TIM_TIO_OUT_width, [0, 3], 50)] with time := { hosted.time with tioHigh := [([3], 4)] } }, 3, 4, by decide +kernel⟩⟩

/-- The cases of ToantonGroups can be met. -/
theorem test_witness_ToantonGroups :
    (∃ (s : State) (d : Hdr) (bs : List Byte) (gid : Nat) (g : Grp), ((d.fn = 0 ∨ le bs 2 1 = fnSlice d.fn)) ∧ (due s (.toaGroupOpen d)) ∧ (served s d ⟨0x50, .config, true, true, 0⟩ true (cleanHdr d false false true)) ∧ (d.buf = some bs) ∧ (groupOf bs = some (gid, g)) ∧ ((s.grp gid).st = 0) ∧ (s.rd .TOA_SLICE_USE_groups [32, g.slice] + 1 ≤ s.rd .TOA_SLICE_CFG_max_groups [g.unit, g.slice]) ∧ (s.rd .TOA_SLICE_USE_members [32, g.slice] + g.members ≤ s.rd .TOA_SLICE_CFG_max_members [g.unit, g.slice]) ∧ (g.members ≤ s.rd .TOA_UNIT_STAT_mem_free [g.unit]))
    ∧ (∃ (s : State) (d : Hdr) (bs : List Byte) (gid : Nat) (g : Grp), ((d.fn = 0 ∨ le bs 2 1 = fnSlice d.fn)) ∧ (due s (.toaGroupOpen d)) ∧ (served s d ⟨0x50, .config, true, true, 0⟩ true (cleanHdr d false false true)) ∧ (d.buf = some bs) ∧ (groupOf bs = some (gid, g)) ∧ ((s.grp gid).st ≠ 0))
    ∧ (∃ (s : State) (d : Hdr) (gid : Nat), (due s (.toaGroupClose d gid)) ∧ (served s d ⟨0x51, .config, true, true, 0⟩ (s.ownGroup d gid) (cleanHdr d false false false && decide (gid < 4096))) ∧ ((s.grp gid).st = 1))
    ∧ (∃ (s : State) (d : Hdr) (gid : Nat), (due s (.toaGroupClose d gid)) ∧ (served s d ⟨0x51, .config, true, true, 0⟩ (s.ownGroup d gid) (cleanHdr d false false false && decide (gid < 4096))) ∧ ((s.grp gid).st ≠ 1))
    ∧ (∃ (s : State) (gid : Nat), ((s.grp gid).st = 2) ∧ (s.serves (Half.of ((s.grp gid).unit / 16)) 7 [BitVec.ofNat 64 gid] = true))
    ∧ (∃ (s : State) (d : Hdr) (gid : Nat) (member : Nat) (bs : List Byte) (m : Member), (due s (.toaMemberSet d gid member)) ∧ (served s d ⟨0x52, .config, true, true, 0⟩ (s.ownGroup d gid) (cleanHdr d false false true && decide (gid < 4096))) ∧ (d.buf = some bs) ∧ ((s.grp gid).st = 1) ∧ (memberOf (s.grp gid).ip6 bs = some m) ∧ (member < (s.grp gid).members))
    ∧ (∃ (s : State) (d : Hdr) (gid : Nat) (member : Nat) (bs : List Byte) (m : Member), (due s (.toaMemberSet d gid member)) ∧ (served s d ⟨0x52, .config, true, true, 0⟩ (s.ownGroup d gid) (cleanHdr d false false true && decide (gid < 4096))) ∧ (d.buf = some bs) ∧ ((s.grp gid).st ≠ 1))
    ∧ (∃ (s : State) (d : Hdr) (gid : Nat), (due s (.toaGroupRead d gid)) ∧ (served s d ⟨0x53, .reads, false, true, 0⟩ (s.ownGroup d gid) (cleanHdr d false false true && decide (gid < 4096))) ∧ (d.buf.isSome = true)) :=
  ⟨⟨{ hG (tg []) with toa := hosted.toa }, (hd false false 0 0 tb), tb, 3, ((groupOf tb).get (by decide +kernel)).2, Or.inl rfl, dueOf rfl (by decide +kernel), by decide +kernel⟩,
   ⟨hG (tg []), (hd false false 0 0 tb), tb, 3, ((groupOf tb).get (by decide +kernel)).2, Or.inl rfl, dueOf rfl (by decide +kernel), by decide +kernel⟩,
   ⟨hG (tg []), d0, 3, dueOf rfl (by decide +kernel), by decide +kernel⟩,
   ⟨hosted, d0, 3, dueOf rfl (by decide +kernel), by decide +kernel⟩,
   ⟨hG { tg [] with st := 2 }, 3, by decide +kernel⟩,
   ⟨hG (tg []), (hd false false 0 0 (z 128)), 3, 1, z 128, (memberOf false (z 128)).get (by decide +kernel), dueOf rfl (by decide +kernel), by decide +kernel⟩,
   ⟨hosted, (hd false false 0 0 (z 128)), 3, 1, z 128, (memberOf false (z 128)).get (by decide +kernel), dueOf rfl (by decide +kernel), by decide +kernel⟩,
   ⟨hG (tg []), (hd false false 0 0 (z 128)), 3, dueOf rfl (by decide +kernel), by decide +kernel⟩⟩

/-- The cases of ToantonReduction can be met. -/
theorem test_witness_ToantonReduction :
    (∃ (s : State) (r : State) (u : Nat) (gid : Nat) (f : Frame) (x : ToaHdr) (g : Grp) (m : Member) (k : Blk) (k' : Blk), (r = s.toaRenew u) ∧ (((g.blk x.block).st = .accum ∧ k = g.blk x.block ∨ (g.blk x.block).st = .free ∧ k = ⟨.accum, [], [], x.count, 0, List.replicate x.count 0, [], s.elapsed, false⟩ ∧ g.slots < g.maxBlocks ∧ slotGran g ≤ s.rd .TOA_UNIT_STAT_gran_free [u] ∧ s.rd .TOA_SLICE_USE_granules [32, g.slice] + slotGran g ≤ s.rd .TOA_SLICE_CFG_max_granules [u, g.slice])) ∧ (k' = { k with acc := (addElems g.winLsb (g.winTop - g.winLsb).toNat g.fmtIn x.payload k.acc).1, data := k.data ++ [x.member], flags := k.flags ||| (addElems g.winLsb (g.winTop - g.winLsb).toNat g.fmtIn x.payload k.acc).2 }) ∧ (s.toaHead u = some f) ∧ (s.toaRead u f = some x) ∧ (s.on .TOA_CFG_en [u] = true) ∧ (x.bad = false) ∧ (gid = x.group) ∧ (g = r.grp gid) ∧ (g.st = 1) ∧ (g.unit = u) ∧ (x.inc = g.inc) ∧ (f.slice = g.slice) ∧ (x.member < g.members) ∧ (g.mem.get? [x.member] = some m) ∧ (x.ip6 = g.ip6) ∧ (x.src = m.ip) ∧ (x.fmt = g.fmtIn + 16 * g.fmtOut) ∧ ((x.block + 2 ^ 32 - g.base) % 2 ^ 32 < 256) ∧ (s.ras.poison = []) ∧ (x.op = 1) ∧ (x.count ≠ 0) ∧ (x.count ≤ g.blkElems) ∧ (k.count = x.count) ∧ (x.member ∉ k.data))
    ∧ (∃ (s : State) (r : State) (u : Nat) (gid : Nat) (f : Frame) (x : ToaHdr) (g : Grp) (m : Member) (k : Blk) (k' : Blk), (r = s.toaRenew u) ∧ (s.toaHead u = some f) ∧ (s.toaRead u f = some x) ∧ (s.on .TOA_CFG_en [u] = true) ∧ (x.bad = false) ∧ (gid = x.group) ∧ (g = r.grp gid) ∧ (g.st = 1) ∧ (g.unit = u) ∧ (x.inc = g.inc) ∧ (f.slice = g.slice) ∧ (x.member < g.members) ∧ (g.mem.get? [x.member] = some m) ∧ (x.ip6 = g.ip6) ∧ (x.src = m.ip) ∧ (x.fmt = g.fmtIn + 16 * g.fmtOut) ∧ ((x.block + 2 ^ 32 - g.base) % 2 ^ 32 < 256) ∧ (s.ras.poison = []) ∧ (x.op = 3) ∧ (x.count = 0) ∧ (k = g.blk x.block) ∧ (k.st = .cached) ∧ (x.member ∉ k.ack))
    ∧ (∃ (s : State) (u : Nat) (e : Emit) (e' : Emit) (q : List Emit) (m : Member) (k : Blk), (k = (s.grp e.group).blk e.block) ∧ (e' = (if e.op = 2 ∧ k.st = .cached then { e with flags := k.flags, payload := resultBytes k } else e)) ∧ (s.toa.emitQ.getD [u] [] = e :: q) ∧ ((s.grp e.group).mem.get? [e.member] = some m) ∧ (s.portClear (1072 + u / 2) = true) ∧ (s.ras.poison = []) ∧ (s.fr? s.nextId = none))
    ∧ (∃ (s : State) (gid : Nat) (b : Nat) (g : Grp) (k : Blk), (g = s.grp gid) ∧ (k = g.blk b) ∧ (g.st = 1) ∧ (k.st = .accum) ∧ (k.stalled = false) ∧ (g.stallUs ≠ 0))
    ∧ (∃ (s : State) (gid : Nat) (b : Nat) (g : Grp) (k : Blk), (g = s.grp gid) ∧ (k = g.blk b) ∧ (g.st = 1) ∧ (k.st = .cached) ∧ (s.serves (Half.of (g.unit / 16)) 7 [BitVec.ofNat 64 gid, BitVec.ofNat 64 b] = true))
    ∧ (∃ (raw : Nat) (w : Nat), (raw < 2 ^ 32) ∧ (32 ≤ w)) :=
  ⟨⟨withFr (hG (tg [([2], tk)])) (tf 1 1), ((withFr (hG (tg [([2], tk)])) (tf 1 1)).toaRenew (0)), 0, 3, tf 1 1, ((toaParse 10768 true (tf 1 1).bytes).get (by decide +kernel)), tg [([2], tk)], tm, tk, ({ (tk) with acc := (addElems (tg [([2], tk)]).winLsb ((tg [([2], tk)]).winTop - (tg [([2], tk)]).winLsb).toNat (tg [([2], tk)]).fmtIn (((toaParse 10768 true (tf 1 1).bytes).get (by decide +kernel))).payload (tk).acc).1, data := (tk).data ++ [(((toaParse 10768 true (tf 1 1).bytes).get (by decide +kernel))).member], flags := (tk).flags ||| (addElems (tg [([2], tk)]).winLsb ((tg [([2], tk)]).winTop - (tg [([2], tk)]).winLsb).toNat (tg [([2], tk)]).fmtIn (((toaParse 10768 true (tf 1 1).bytes).get (by decide +kernel))).payload (tk).acc).2 }), rfl, Or.inl ⟨by decide +kernel, by decide +kernel⟩, rfl, by decide +kernel⟩,
   ⟨withFr (hG (tg [([2], tc)])) (tf 3 0), ((withFr (hG (tg [([2], tc)])) (tf 3 0)).toaRenew (0)), 0, 3, tf 3 0, ((toaParse 10768 true (tf 3 0).bytes).get (by decide +kernel)), tg [([2], tc)], tm, tc, tc, rfl, by decide +kernel⟩,
   ⟨{ hG (tg []) with toa := { (hG (tg [])).toa with emitQ := [([0], [(⟨3, 0, 2, 2, 1, 0, 0, leBytes 4 7⟩ : Emit)])] } }, 0, (⟨3, 0, 2, 2, 1, 0, 0, leBytes 4 7⟩ : Emit), ((if ((⟨3, 0, 2, 2, 1, 0, 0, leBytes 4 7⟩ : Emit)).op = 2 ∧ ((({ hG (tg []) with toa := { (hG (tg [])).toa with emitQ := [([0], [(⟨3, 0, 2, 2, 1, 0, 0, leBytes 4 7⟩ : Emit)])] } } : State).grp ((⟨3, 0, 2, 2, 1, 0, 0, leBytes 4 7⟩ : Emit)).group).blk ((⟨3, 0, 2, 2, 1, 0, 0, leBytes 4 7⟩ : Emit)).block).st = .cached then { ((⟨3, 0, 2, 2, 1, 0, 0, leBytes 4 7⟩ : Emit)) with flags := ((({ hG (tg []) with toa := { (hG (tg [])).toa with emitQ := [([0], [(⟨3, 0, 2, 2, 1, 0, 0, leBytes 4 7⟩ : Emit)])] } } : State).grp ((⟨3, 0, 2, 2, 1, 0, 0, leBytes 4 7⟩ : Emit)).group).blk ((⟨3, 0, 2, 2, 1, 0, 0, leBytes 4 7⟩ : Emit)).block).flags, payload := resultBytes ((({ hG (tg []) with toa := { (hG (tg [])).toa with emitQ := [([0], [(⟨3, 0, 2, 2, 1, 0, 0, leBytes 4 7⟩ : Emit)])] } } : State).grp ((⟨3, 0, 2, 2, 1, 0, 0, leBytes 4 7⟩ : Emit)).group).blk ((⟨3, 0, 2, 2, 1, 0, 0, leBytes 4 7⟩ : Emit)).block) } else ((⟨3, 0, 2, 2, 1, 0, 0, leBytes 4 7⟩ : Emit)))), [], tm, ((({ hG (tg []) with toa := { (hG (tg [])).toa with emitQ := [([0], [(⟨3, 0, 2, 2, 1, 0, 0, leBytes 4 7⟩ : Emit)])] } } : State).grp ((⟨3, 0, 2, 2, 1, 0, 0, leBytes 4 7⟩ : Emit)).group).blk ((⟨3, 0, 2, 2, 1, 0, 0, leBytes 4 7⟩ : Emit)).block), rfl, rfl, by decide +kernel⟩,
   ⟨hG (tg [([2], tk)]), 3, 2, tg [([2], tk)], tk, by decide +kernel⟩,
   ⟨hG (tg [([2], tc)]), 3, 2, tg [([2], tc)], tc, by decide +kernel⟩,
   ⟨0xFFFFFFFF, 32, by decide +kernel⟩⟩

/-- The cases of PatchesAndHamper can be met. -/
theorem test_witness_PatchesAndHamper :
    (∃ (s : State) (d : Hdr), (due s (.patchLoad d)) ∧ (served s d ⟨0x70, .config, true, false, 0⟩ true (cleanHdr d false false true)) ∧ (s.arming = true))
    ∧ (∃ (s : State) (d : Hdr), (due s (.patchLoad d)) ∧ (served s d ⟨0x70, .config, true, false, 0⟩ true (cleanHdr d false false true)) ∧ (s.arming = false) ∧ (s.trbWaits d = true))
    ∧ (∃ (s : State) (d : Hdr) (bs : List Byte) (st : Nat) (act : Nat), (st = (s.objCheck bs patchMagic 0xFFFFFFFF).1) ∧ (act = s.patchSet s.owner) ∧ (due s (.patchLoad d)) ∧ (served s d ⟨0x70, .config, true, false, 0⟩ true (cleanHdr d false false true)) ∧ (s.arming = false) ∧ (s.trbWaits d = false) ∧ (d.buf = some bs))
    ∧ (∃ (s : State) (d : Hdr) (mode : Nat), (due s (.patchArm d mode)) ∧ (served s d ⟨0x71, .maint, true, false, 0⟩ true (cleanHdr d false false false && decide (mode < 2))) ∧ (s.arming = true))
    ∧ (∃ (s : State) (d : Hdr) (mode : Nat), (due s (.patchArm d mode)) ∧ (served s d ⟨0x71, .maint, true, false, 0⟩ true (cleanHdr d false false false && decide (mode < 2))) ∧ (s.arming = false))
    ∧ (∃ (s : State) (a : Arm), (s.clove.arm = some a) ∧ (a.lost = false) ∧ (s.patchDrained .E a.old = true) ∧ (s.patchDrained .W a.old = true) ∧ (s.serves s.owner 3 [0, 3] = true))
    ∧ (∃ (s : State) (a : Arm), ((∀ h : Half, s.serves h 3 [0, 3] = true)) ∧ (s.clove.arm = some a) ∧ (a.lost = true))
    ∧ (∃ (s : State) (d : Hdr) (addr : Nat) (count : Nat), (due s (.hamRead d addr count)) ∧ (served s d ⟨0x72, .reads, false, false, 1⟩ true (cleanHdr d false false true)) ∧ (hamArgs d addr count = false))
    ∧ (∃ (s : State) (d : Hdr) (addr : Nat) (count : Nat), (due s (.hamRead d addr count)) ∧ (served s d ⟨0x72, .reads, false, false, 1⟩ true (cleanHdr d false false true)) ∧ (hamArgs d addr count = true) ∧ (d.buf.isSome = true) ∧ (s.ras.poison = []))
    ∧ (∃ (s : State) (d : Hdr) (addr : Nat) (count : Nat) (als : Nat) (bs : List Byte), (due s (.hamWrite d addr count als)) ∧ (served s d ⟨0x73, .config, true, false, 1⟩ true (cleanHdr d false false true)) ∧ (d.buf = some bs) ∧ ((hamArgs d addr count = false ∨ 3 ≤ als)))
    ∧ (∃ (s : State) (d : Hdr) (addr : Nat) (count : Nat) (als : Nat) (bs : List Byte), (due s (.hamWrite d addr count als)) ∧ (served s d ⟨0x73, .config, true, false, 1⟩ true (cleanHdr d false false true)) ∧ (d.buf = some bs) ∧ (hamArgs d addr count = true) ∧ (als < 3) ∧ ((s.ham (Machine.Hdr.half d)).wf0 = true) ∧ ((als = 0 ∨ s.ras.poison = []))) :=
  ⟨⟨hs [(.CLV_PATCH_CTL_state, [0], 1)], (hd false false 0 0 (z 128)), dueOf rfl (by decide +kernel), by decide +kernel⟩,
   ⟨hs [(.TRB_STAT_testing, [0], 1)], (hd false false 0 0 (z 128)), dueOf rfl (by decide +kernel), by decide +kernel⟩,
   ⟨hosted, (hd false false 0 0 (z 128)), z 128, (((hosted).objCheck (z 128) patchMagic 0xFFFFFFFF).1), ((hosted).patchSet (hosted).owner), rfl, rfl, dueOf rfl (by decide +kernel), by decide +kernel⟩,
   ⟨hs [(.CLV_PATCH_CTL_state, [0], 1)], d0, 1, dueOf rfl (by decide +kernel), by decide +kernel⟩,
   ⟨hosted, d0, 1, dueOf rfl (by decide +kernel), by decide +kernel⟩,
   ⟨{ hs [(.CLV_PATCH_CTL_active, [0], 1), (.CLV_PATCH_CTL_active, [1], 1), (.CLV_ENG_STAT_tag, [0, 0], 1), (.CLV_ENG_STAT_tag, [0, 1], 1), (.CLV_ENG_STAT_tag, [0, 2], 1), (.CLV_ENG_STAT_tag, [0, 3], 1), (.CLV_ENG_STAT_tag, [0, 4], 1), (.CLV_ENG_STAT_tag, [0, 5], 1), (.CLV_ENG_STAT_tag, [0, 6], 1), (.CLV_ENG_STAT_tag, [0, 7], 1), (.CLV_ENG_STAT_tag, [0, 8], 1), (.CLV_ENG_STAT_tag, [0, 9], 1), (.CLV_ENG_STAT_tag, [0, 10], 1), (.CLV_ENG_STAT_tag, [0, 11], 1), (.CLV_ENG_STAT_tag, [0, 12], 1), (.CLV_ENG_STAT_tag, [0, 13], 1), (.CLV_ENG_STAT_tag, [0, 14], 1), (.CLV_ENG_STAT_tag, [0, 15], 1), (.CLV_ENG_STAT_tag, [1, 0], 1), (.CLV_ENG_STAT_tag, [1, 1], 1), (.CLV_ENG_STAT_tag, [1, 2], 1), (.CLV_ENG_STAT_tag, [1, 3], 1), (.CLV_ENG_STAT_tag, [1, 4], 1), (.CLV_ENG_STAT_tag, [1, 5], 1), (.CLV_ENG_STAT_tag, [1, 6], 1), (.CLV_ENG_STAT_tag, [1, 7], 1), (.CLV_ENG_STAT_tag, [1, 8], 1), (.CLV_ENG_STAT_tag, [1, 9], 1), (.CLV_ENG_STAT_tag, [1, 10], 1), (.CLV_ENG_STAT_tag, [1, 11], 1), (.CLV_ENG_STAT_tag, [1, 12], 1), (.CLV_ENG_STAT_tag, [1, 13], 1), (.CLV_ENG_STAT_tag, [1, 14], 1), (.CLV_ENG_STAT_tag, [1, 15], 1)] with clove := { hosted.clove with arm := some ⟨some d0, 0, 0, false⟩ } }, ⟨some d0, 0, 0, false⟩, by decide +kernel⟩,
   ⟨{ hosted with clove := { hosted.clove with arm := some (⟨some d0, 0, 0, true⟩ : Arm) } }, (⟨some d0, 0, 0, true⟩ : Arm), by intro h; cases h <;> decide +kernel, by decide +kernel⟩,
   ⟨hosted, (hd true false 0 0 (z 128)), 0x100001, 1, dueOf rfl (by decide +kernel), by decide +kernel⟩,
   ⟨hosted, (hd true false 0 0 (z 128)), 0x100000, 1, dueOf rfl (by decide +kernel), by decide +kernel⟩,
   ⟨hosted, (hd true false 0 0 (z 128)), 0x100000, 1, 3, z 128, dueOf rfl (by decide +kernel), by decide +kernel⟩,
   ⟨hosted, (hd true false 0 0 (z 128)), 0x100000, 1, 2, z 128, dueOf rfl (by decide +kernel), by decide +kernel⟩⟩

/-- The cases of CloveEngines can be met. -/
theorem test_witness_CloveEngines :
    (∃ (s : State) (h : Half) (e : Nat) (l : Nat), (e < 16) ∧ (s.rd .CLV_ENG_STAT_state [h.n, e] = 0) ∧ (s.irqReady h e = some l))
    ∧ (∃ (s : State) (h : Half) (e : Nat) (r : Nat) (v : RtEv) (q : List RtEv), (e < 16) ∧ (s.rd .CLV_ENG_STAT_state [h.n, e] = 0) ∧ (s.irqReady h e = none) ∧ (s.eligible h e = some r) ∧ (s.rq h r = v :: q))
    ∧ (∃ (s : State) (h : Half) (e : Nat) (n : Nat) (cur : Nat) (patched : Bool) (a : Nat) (b : Nat) (fv : Nat), (s.fetchAt h e = (cur, patched)) ∧ (n = (s.microword h cur).toNat) ∧ (a = (s.eng h e).reg (bits n 33 6)) ∧ (b = (if bit n 26 then bits n 128 64 else (s.eng h e).reg (bits n 39 6))) ∧ (fv = cloveFlagValue (bits n 28 5) a b s.elapsed) ∧ (e < 16) ∧ (s.rd .CLV_ENG_STAT_state [h.n, e] = 1) ∧ (s.ras.poison = []) ∧ (uwIllegal n = false) ∧ (bits n 74 3 = 0) ∧ (bits n 91 5 = 0) ∧ (bits n 102 3 = 0) ∧ (bits n 51 5 = 0) ∧ (bits n 16 4 ≤ 1) ∧ (s.irqReady h e = none) ∧ (s.rd .PMC_SAMP_CFG_en [h.n] = 0))
    ∧ (∃ (s : State) (h : Half) (e : Nat) (n : Nat) (cur : Nat) (patched : Bool) (a : Nat) (b : Nat) (fv : Nat), (s.fetchAt h e = (cur, patched)) ∧ (n = (s.microword h cur).toNat) ∧ (e < 16) ∧ (s.rd .CLV_ENG_STAT_state [h.n, e] = 1) ∧ (s.ras.poison = []) ∧ (uwIllegal n = true))
    ∧ (∃ (s : State) (h : Half) (e : Nat) (line : Nat), (e < 16) ∧ (line < 5) ∧ (s.xingBusy h (if line = 4 then 4 else 3) 0 = false) ∧ (bit (s.rd .CLV_ENG_STAT_irq_pend [h.n, e]) line = false))
    ∧ (∃ (s : State) (h : Half) (e : Nat) (line : Nat), (e < 16) ∧ (line < 5) ∧ (s.xingBusy h (if line = 4 then 4 else 3) 0 = false) ∧ (bit (s.rd .CLV_ENG_STAT_irq_pend [h.n, e]) line = true))
    ∧ (∃ (s : State) (h : Half) (e : Nat), (e < 16) ∧ (s.rd .CLV_ENG_STAT_routine [h.n, e] < 10) ∧ (s.rd .CLV_ROUTE_timer_us [h.n, s.rd .CLV_ENG_STAT_routine [h.n, e]] ≠ 0) ∧ (bit (s.rd .CLV_ENG_STAT_irq_pend [h.n, e]) 4 = false) ∧ (s.xingBusy h 4 0 = false))
    ∧ (∃ (s : State) (h : Half) (e : Nat), (e < 16) ∧ (s.rd .CLV_ENG_STAT_state [h.n, e] = 3))
    ∧ (∃ (s : State) (h : Half) (e : Nat), (e < 16) ∧ (s.rd .CLV_ENG_STAT_state [h.n, e] = 3) ∧ ((∀ w ∈ s.host.late, s.ringHalf w.hdr ≠ h)) ∧ ((∀ w ∈ s.fdb.portDue, w.1 ≠ h)) ∧ ((∀ w ∈ s.tel.histDue, w.1 ≠ h))) :=
  ⟨⟨hs [(.CLV_ENG_STAT_irq_pend, [0, 3], 2), (.CLV_ENG_CTL_irq_en, [0, 3], 2)], Half.E, 3, 1, by decide +kernel⟩,
   ⟨{ hs [(.CLV_ROUTE_mask, [0, 4], 8)] with clove := { hosted.clove with rq := [([0, 4], [⟨[], false, none⟩])] } }, Half.E, 3, 4, ⟨[], false, none⟩, [], by decide +kernel⟩,
   ⟨hs [(.CLV_ENG_STAT_state, [0, 3], 1), (.CLV_ENG_STAT_pc, [0, 3], 0xC000)], Half.E, 3, (((hs [(.CLV_ENG_STAT_state, [0, 3], 1), (.CLV_ENG_STAT_pc, [0, 3], 0xC000)]).microword (Half.E) (((hs [(.CLV_ENG_STAT_state, [0, 3], 1), (.CLV_ENG_STAT_pc, [0, 3], 0xC000)]).fetchAt (Half.E) (3)).1)).toNat), (((hs [(.CLV_ENG_STAT_state, [0, 3], 1), (.CLV_ENG_STAT_pc, [0, 3], 0xC000)]).fetchAt (Half.E) (3)).1), (((hs [(.CLV_ENG_STAT_state, [0, 3], 1), (.CLV_ENG_STAT_pc, [0, 3], 0xC000)]).fetchAt (Half.E) (3)).2), (((hs [(.CLV_ENG_STAT_state, [0, 3], 1), (.CLV_ENG_STAT_pc, [0, 3], 0xC000)]).eng (Half.E) (3)).reg (bits (((hs [(.CLV_ENG_STAT_state, [0, 3], 1), (.CLV_ENG_STAT_pc, [0, 3], 0xC000)]).microword (Half.E) (((hs [(.CLV_ENG_STAT_state, [0, 3], 1), (.CLV_ENG_STAT_pc, [0, 3], 0xC000)]).fetchAt (Half.E) (3)).1)).toNat) 33 6)), ((if bit (((hs [(.CLV_ENG_STAT_state, [0, 3], 1), (.CLV_ENG_STAT_pc, [0, 3], 0xC000)]).microword (Half.E) (((hs [(.CLV_ENG_STAT_state, [0, 3], 1), (.CLV_ENG_STAT_pc, [0, 3], 0xC000)]).fetchAt (Half.E) (3)).1)).toNat) 26 then bits (((hs [(.CLV_ENG_STAT_state, [0, 3], 1), (.CLV_ENG_STAT_pc, [0, 3], 0xC000)]).microword (Half.E) (((hs [(.CLV_ENG_STAT_state, [0, 3], 1), (.CLV_ENG_STAT_pc, [0, 3], 0xC000)]).fetchAt (Half.E) (3)).1)).toNat) 128 64 else ((hs [(.CLV_ENG_STAT_state, [0, 3], 1), (.CLV_ENG_STAT_pc, [0, 3], 0xC000)]).eng (Half.E) (3)).reg (bits (((hs [(.CLV_ENG_STAT_state, [0, 3], 1), (.CLV_ENG_STAT_pc, [0, 3], 0xC000)]).microword (Half.E) (((hs [(.CLV_ENG_STAT_state, [0, 3], 1), (.CLV_ENG_STAT_pc, [0, 3], 0xC000)]).fetchAt (Half.E) (3)).1)).toNat) 39 6))), (cloveFlagValue (bits (((hs [(.CLV_ENG_STAT_state, [0, 3], 1), (.CLV_ENG_STAT_pc, [0, 3], 0xC000)]).microword (Half.E) (((hs [(.CLV_ENG_STAT_state, [0, 3], 1), (.CLV_ENG_STAT_pc, [0, 3], 0xC000)]).fetchAt (Half.E) (3)).1)).toNat) 28 5) (((hs [(.CLV_ENG_STAT_state, [0, 3], 1), (.CLV_ENG_STAT_pc, [0, 3], 0xC000)]).eng (Half.E) (3)).reg (bits (((hs [(.CLV_ENG_STAT_state, [0, 3], 1), (.CLV_ENG_STAT_pc, [0, 3], 0xC000)]).microword (Half.E) (((hs [(.CLV_ENG_STAT_state, [0, 3], 1), (.CLV_ENG_STAT_pc, [0, 3], 0xC000)]).fetchAt (Half.E) (3)).1)).toNat) 33 6)) ((if bit (((hs [(.CLV_ENG_STAT_state, [0, 3], 1), (.CLV_ENG_STAT_pc, [0, 3], 0xC000)]).microword (Half.E) (((hs [(.CLV_ENG_STAT_state, [0, 3], 1), (.CLV_ENG_STAT_pc, [0, 3], 0xC000)]).fetchAt (Half.E) (3)).1)).toNat) 26 then bits (((hs [(.CLV_ENG_STAT_state, [0, 3], 1), (.CLV_ENG_STAT_pc, [0, 3], 0xC000)]).microword (Half.E) (((hs [(.CLV_ENG_STAT_state, [0, 3], 1), (.CLV_ENG_STAT_pc, [0, 3], 0xC000)]).fetchAt (Half.E) (3)).1)).toNat) 128 64 else ((hs [(.CLV_ENG_STAT_state, [0, 3], 1), (.CLV_ENG_STAT_pc, [0, 3], 0xC000)]).eng (Half.E) (3)).reg (bits (((hs [(.CLV_ENG_STAT_state, [0, 3], 1), (.CLV_ENG_STAT_pc, [0, 3], 0xC000)]).microword (Half.E) (((hs [(.CLV_ENG_STAT_state, [0, 3], 1), (.CLV_ENG_STAT_pc, [0, 3], 0xC000)]).fetchAt (Half.E) (3)).1)).toNat) 39 6))) (hs [(.CLV_ENG_STAT_state, [0, 3], 1), (.CLV_ENG_STAT_pc, [0, 3], 0xC000)]).elapsed), (Prod.mk.eta).symm, rfl, rfl, rfl, rfl, by decide +kernel⟩,
   ⟨{ hs [(.CLV_ENG_STAT_state, [0, 3], 1), (.CLV_ENG_STAT_pc, [0, 3], 0xC000)] with clove := { hosted.clove with patch := [([0, 0], 2 ^ 105)] } }, Half.E, 3, ((({ hs [(.CLV_ENG_STAT_state, [0, 3], 1), (.CLV_ENG_STAT_pc, [0, 3], 0xC000)] with clove := { hosted.clove with patch := [([0, 0], 2 ^ 105)] } } : State).microword (Half.E) ((({ hs [(.CLV_ENG_STAT_state, [0, 3], 1), (.CLV_ENG_STAT_pc, [0, 3], 0xC000)] with clove := { hosted.clove with patch := [([0, 0], 2 ^ 105)] } } : State).fetchAt (Half.E) (3)).1)).toNat), ((({ hs [(.CLV_ENG_STAT_state, [0, 3], 1), (.CLV_ENG_STAT_pc, [0, 3], 0xC000)] with clove := { hosted.clove with patch := [([0, 0], 2 ^ 105)] } } : State).fetchAt (Half.E) (3)).1), ((({ hs [(.CLV_ENG_STAT_state, [0, 3], 1), (.CLV_ENG_STAT_pc, [0, 3], 0xC000)] with clove := { hosted.clove with patch := [([0, 0], 2 ^ 105)] } } : State).fetchAt (Half.E) (3)).2), 0, 0, 0, (Prod.mk.eta).symm, rfl, by decide +kernel⟩,
   ⟨hosted, Half.E, 3, 4, by decide +kernel⟩,
   ⟨hs [(.CLV_ENG_STAT_irq_pend, [0, 3], 16)], Half.E, 3, 4, by decide +kernel⟩,
   ⟨hs [(.CLV_ENG_STAT_routine, [0, 3], 9), (.CLV_ROUTE_timer_us, [0, 9], 5)], Half.E, 3, by decide +kernel⟩,
   ⟨hs [(.CLV_ENG_STAT_state, [0, 3], 3)], Half.E, 3, by decide +kernel⟩,
   ⟨hs [(.CLV_ENG_STAT_state, [0, 3], 3)], Half.E, 3, by decide +kernel⟩⟩

/-- The cases of DescriptorRings can be met. -/
theorem test_witness_DescriptorRings :
    (∃ (s : State) (fn : Nat) (r : Nat) (count : Nat) (gap : Nat) (k : RingKind), (gap = (if k.soft then (count % 2 ^ 32 + 2 ^ 32 - s.devIdx fn r) % 2 ^ 32 else (s.devIdx fn r + 2 ^ 32 - count % 2 ^ 32) % 2 ^ 32)) ∧ (ringKind fn r = some k) ∧ (s.on .HST_RING_CFG_en [fn, r] = true) ∧ (s.host.stopped.getD [fn, r] false = false) ∧ (s.xingBusy (s.ringEngine fn r) 5 0 = false) ∧ (gap ≤ s.ringSize fn r) ∧ (s.regOff false = false))
    ∧ (∃ (s : State) (fn : Nat) (r : Nat) (count : Nat) (gap : Nat) (k : RingKind), (gap = (if k.soft then (count % 2 ^ 32 + 2 ^ 32 - s.devIdx fn r) % 2 ^ 32 else (s.devIdx fn r + 2 ^ 32 - count % 2 ^ 32) % 2 ^ 32)) ∧ (ringKind fn r = some k) ∧ (s.on .HST_RING_CFG_en [fn, r] = true) ∧ (s.host.stopped.getD [fn, r] false = false) ∧ (s.xingBusy (s.ringEngine fn r) 5 0 = false) ∧ (s.ringSize fn r < gap) ∧ (s.regOff false = false))
    ∧ (∃ (s : State) (u : State) (fn : Nat) (r : Nat) (b : List Byte) (d : Hdr), (d = hdrOf fn r (s.devIdx fn r) b) ∧ (u = s.st .HST_RING_STAT_dev_idx [fn, r] (s.devIdx fn r + 1)) ∧ (fn ≤ 64) ∧ (r < 4) ∧ (s.ringUp fn r = true) ∧ (s.ringWaiting fn r ≠ 0) ∧ (s.ringUp fn (r + 4) = true) ∧ (s.xingBusy (s.ringEngine fn r) 5 0 = false) ∧ ((s.takenOf fn r).length < s.ringSpace fn (r + 4)) ∧ (s.serves (s.ringEngine fn r) 8 [BitVec.ofNat 64 (64 * fn + r)] = true) ∧ (opInfo (le b 0 2) = none))
    ∧ (∃ (s : State) (u : State) (fn : Nat) (r : Nat) (b : List Byte) (d : Hdr) (o : OpInfo) (c : Instr) (st : Nat) (x : Nat) (res : Nat), (d = hdrOf fn r (s.devIdx fn r) b) ∧ (u = s.st .HST_RING_STAT_dev_idx [fn, r] (s.devIdx fn r + 1)) ∧ (fn ≤ 64) ∧ (r < 4) ∧ (s.ringUp fn r = true) ∧ (s.ringWaiting fn r ≠ 0) ∧ (s.ringUp fn (r + 4) = true) ∧ (s.xingBusy (s.ringEngine fn r) 5 0 = false) ∧ ((s.takenOf fn r).length < s.ringSpace fn (r + 4)) ∧ (s.serves (s.ringEngine fn r) 8 [BitVec.ofNat 64 (64 * fn + r)] = true) ∧ (opInfo (le b 0 2) = some o) ∧ (descCmd (le b 0 2) d b = some c) ∧ (u.refusal d o.rule (u.descOwn (le b 0 2) d b) (descClean o d b) (bridgeTrain c) = some (st, x, res)))
    ∧ (∃ (s : State) (u : State) (fn : Nat) (r : Nat) (b : List Byte) (d : Hdr) (o : OpInfo) (c : Instr), (d = hdrOf fn r (s.devIdx fn r) b) ∧ (u = s.st .HST_RING_STAT_dev_idx [fn, r] (s.devIdx fn r + 1)) ∧ (fn ≤ 64) ∧ (r < 4) ∧ (s.ringUp fn r = true) ∧ (s.ringWaiting fn r ≠ 0) ∧ (s.ringUp fn (r + 4) = true) ∧ (s.xingBusy (s.ringEngine fn r) 5 0 = false) ∧ ((s.takenOf fn r).length < s.ringSpace fn (r + 4)) ∧ (s.serves (s.ringEngine fn r) 8 [BitVec.ofNat 64 (64 * fn + r)] = true) ∧ (opInfo (le b 0 2) = some o) ∧ (descCmd (le b 0 2) d b = some c) ∧ (u.refusal d o.rule (u.descOwn (le b 0 2) d b) (descClean o d b) (bridgeTrain c) = none))
    ∧ (∃ (s : State) (fn : Nat) (r : Nat) (cnt : Nat) (x : Taken) (o : OpInfo) (st : Nat) (y : Nat) (res : Nat), ((s.takenOf fn r).find? (fun t => t.hdr.cnt = cnt) = some x) ∧ (x.started = false) ∧ (heldBy ((s.takenOf fn r).takeWhile (fun a => decide (a.hdr.cnt ≠ cnt))) x.object x.hdr.fence = false) ∧ (opInfo x.opcode = some o) ∧ (s.refusal x.hdr o.rule true true (bridgeTrain x.cmd) = some (st, y, res)))
    ∧ (∃ (s : State) (fn : Nat) (r : Nat) (cnt : Nat) (x : Taken) (o : OpInfo), ((s.takenOf fn r).find? (fun t => t.hdr.cnt = cnt) = some x) ∧ (x.started = false) ∧ (heldBy ((s.takenOf fn r).takeWhile (fun a => decide (a.hdr.cnt ≠ cnt))) x.object x.hdr.fence = false) ∧ (opInfo x.opcode = some o) ∧ (s.refusal x.hdr o.rule true true (bridgeTrain x.cmd) = none))
    ∧ (∃ (s : State) (fn : Nat) (r : Nat) (v : Nat), ((ringKind fn r).isSome = true) ∧ (v < 2 ^ 64) ∧ (s.on .HST_RING_CFG_en [fn, r] = false) ∧ (s.regOff false = false))
    ∧ (∃ (s : State) (fn : Nat) (r : Nat) (v : Nat), ((ringKind fn r).isSome = true) ∧ (v < 2 ^ 64) ∧ (s.on .HST_RING_CFG_en [fn, r] = true) ∧ (s.regOff false = false))
    ∧ (∃ (s : State) (c : Instr) (d : Hdr), (cmdHdr c = some d) ∧ (s.descDue (bareCmd c) d = false)) :=
  ⟨⟨hR [], 0, 0, 64, ((if (RingKind.cmd).soft then ((64) % 2 ^ 32 + 2 ^ 32 - (hR []).devIdx (0) (0)) % 2 ^ 32 else ((hR []).devIdx (0) (0) + 2 ^ 32 - (64) % 2 ^ 32) % 2 ^ 32)), RingKind.cmd, rfl, by decide +kernel⟩,
   ⟨hR [], 0, 4, 1, ((if (RingKind.cpl).soft then ((1) % 2 ^ 32 + 2 ^ 32 - (hR []).devIdx (0) (4)) % 2 ^ 32 else ((hR []).devIdx (0) (4) + 2 ^ 32 - (1) % 2 ^ 32) % 2 ^ 32)), RingKind.cpl, rfl, by decide +kernel⟩,
   ⟨hR [], ((hR []).st .HST_RING_STAT_dev_idx [(0), (0)] ((hR []).devIdx (0) (0) + 1)), 0, 0, z 64, (hdrOf (0) (0) ((hR []).devIdx (0) (0)) (z 64)), rfl, rfl, by decide +kernel⟩,
   ⟨hR [], ((hR []).st .HST_RING_STAT_dev_idx [(0), (0)] ((hR []).devIdx (0) (0) + 1)), 0, 0, ([1, 0, 0, 0, 0, 0, 0, 0, 0, 1] ++ z 54), (hdrOf (0) (0) ((hR []).devIdx (0) (0)) (([1, 0, 0, 0, 0, 0, 0, 0, 0, 1] ++ z 54))), ((opInfo (le (([1, 0, 0, 0, 0, 0, 0, 0, 0, 1] ++ z 54)) 0 2)).get (by decide +kernel)), ((descCmd (le (([1, 0, 0, 0, 0, 0, 0, 0, 0, 1] ++ z 54)) 0 2) (hdrOf (0) (0) ((hR []).devIdx (0) (0)) (([1, 0, 0, 0, 0, 0, 0, 0, 0, 1] ++ z 54))) (([1, 0, 0, 0, 0, 0, 0, 0, 0, 1] ++ z 54))).get (by decide +kernel)), ((((((hR []).st .HST_RING_STAT_dev_idx [(0), (0)] ((hR []).devIdx (0) (0) + 1)).refusal (hdrOf (0) (0) ((hR []).devIdx (0) (0)) (([1, 0, 0, 0, 0, 0, 0, 0, 0, 1] ++ z 54))) ((opInfo (le (([1, 0, 0, 0, 0, 0, 0, 0, 0, 1] ++ z 54)) 0 2)).get (by decide +kernel)).rule (((hR []).st .HST_RING_STAT_dev_idx [(0), (0)] ((hR []).devIdx (0) (0) + 1)).descOwn (le (([1, 0, 0, 0, 0, 0, 0, 0, 0, 1] ++ z 54)) 0 2) (hdrOf (0) (0) ((hR []).devIdx (0) (0)) (([1, 0, 0, 0, 0, 0, 0, 0, 0, 1] ++ z 54))) (([1, 0, 0, 0, 0, 0, 0, 0, 0, 1] ++ z 54))) (descClean ((opInfo (le (([1, 0, 0, 0, 0, 0, 0, 0, 0, 1] ++ z 54)) 0 2)).get (by decide +kernel)) (hdrOf (0) (0) ((hR []).devIdx (0) (0)) (([1, 0, 0, 0, 0, 0, 0, 0, 0, 1] ++ z 54))) (([1, 0, 0, 0, 0, 0, 0, 0, 0, 1] ++ z 54))) (bridgeTrain ((descCmd (le (([1, 0, 0, 0, 0, 0, 0, 0, 0, 1] ++ z 54)) 0 2) (hdrOf (0) (0) ((hR []).devIdx (0) (0)) (([1, 0, 0, 0, 0, 0, 0, 0, 0, 1] ++ z 54))) (([1, 0, 0, 0, 0, 0, 0, 0, 0, 1] ++ z 54))).get (by decide +kernel)))).get (by decide +kernel))).1), ((((((hR []).st .HST_RING_STAT_dev_idx [(0), (0)] ((hR []).devIdx (0) (0) + 1)).refusal (hdrOf (0) (0) ((hR []).devIdx (0) (0)) (([1, 0, 0, 0, 0, 0, 0, 0, 0, 1] ++ z 54))) ((opInfo (le (([1, 0, 0, 0, 0, 0, 0, 0, 0, 1] ++ z 54)) 0 2)).get (by decide +kernel)).rule (((hR []).st .HST_RING_STAT_dev_idx [(0), (0)] ((hR []).devIdx (0) (0) + 1)).descOwn (le (([1, 0, 0, 0, 0, 0, 0, 0, 0, 1] ++ z 54)) 0 2) (hdrOf (0) (0) ((hR []).devIdx (0) (0)) (([1, 0, 0, 0, 0, 0, 0, 0, 0, 1] ++ z 54))) (([1, 0, 0, 0, 0, 0, 0, 0, 0, 1] ++ z 54))) (descClean ((opInfo (le (([1, 0, 0, 0, 0, 0, 0, 0, 0, 1] ++ z 54)) 0 2)).get (by decide +kernel)) (hdrOf (0) (0) ((hR []).devIdx (0) (0)) (([1, 0, 0, 0, 0, 0, 0, 0, 0, 1] ++ z 54))) (([1, 0, 0, 0, 0, 0, 0, 0, 0, 1] ++ z 54))) (bridgeTrain ((descCmd (le (([1, 0, 0, 0, 0, 0, 0, 0, 0, 1] ++ z 54)) 0 2) (hdrOf (0) (0) ((hR []).devIdx (0) (0)) (([1, 0, 0, 0, 0, 0, 0, 0, 0, 1] ++ z 54))) (([1, 0, 0, 0, 0, 0, 0, 0, 0, 1] ++ z 54))).get (by decide +kernel)))).get (by decide +kernel))).2.1), ((((((hR []).st .HST_RING_STAT_dev_idx [(0), (0)] ((hR []).devIdx (0) (0) + 1)).refusal (hdrOf (0) (0) ((hR []).devIdx (0) (0)) (([1, 0, 0, 0, 0, 0, 0, 0, 0, 1] ++ z 54))) ((opInfo (le (([1, 0, 0, 0, 0, 0, 0, 0, 0, 1] ++ z 54)) 0 2)).get (by decide +kernel)).rule (((hR []).st .HST_RING_STAT_dev_idx [(0), (0)] ((hR []).devIdx (0) (0) + 1)).descOwn (le (([1, 0, 0, 0, 0, 0, 0, 0, 0, 1] ++ z 54)) 0 2) (hdrOf (0) (0) ((hR []).devIdx (0) (0)) (([1, 0, 0, 0, 0, 0, 0, 0, 0, 1] ++ z 54))) (([1, 0, 0, 0, 0, 0, 0, 0, 0, 1] ++ z 54))) (descClean ((opInfo (le (([1, 0, 0, 0, 0, 0, 0, 0, 0, 1] ++ z 54)) 0 2)).get (by decide +kernel)) (hdrOf (0) (0) ((hR []).devIdx (0) (0)) (([1, 0, 0, 0, 0, 0, 0, 0, 0, 1] ++ z 54))) (([1, 0, 0, 0, 0, 0, 0, 0, 0, 1] ++ z 54))) (bridgeTrain ((descCmd (le (([1, 0, 0, 0, 0, 0, 0, 0, 0, 1] ++ z 54)) 0 2) (hdrOf (0) (0) ((hR []).devIdx (0) (0)) (([1, 0, 0, 0, 0, 0, 0, 0, 0, 1] ++ z 54))) (([1, 0, 0, 0, 0, 0, 0, 0, 0, 1] ++ z 54))).get (by decide +kernel)))).get (by decide +kernel))).2.2), rfl, rfl, by decide +kernel⟩,
   ⟨hR [], ((hR []).st .HST_RING_STAT_dev_idx [(0), (0)] ((hR []).devIdx (0) (0) + 1)), 0, 0, ([1, 0] ++ z 62), (hdrOf (0) (0) ((hR []).devIdx (0) (0)) (([1, 0] ++ z 62))), ((opInfo (le (([1, 0] ++ z 62)) 0 2)).get (by decide +kernel)), ((descCmd (le (([1, 0] ++ z 62)) 0 2) (hdrOf (0) (0) ((hR []).devIdx (0) (0)) (([1, 0] ++ z 62))) (([1, 0] ++ z 62))).get (by decide +kernel)), rfl, rfl, by decide +kernel⟩,
   ⟨hK 0x23 [(.RAS_OWN_STAT_state, [0], 2)], 0, 0, 0, ((((hK 0x23 [(.RAS_OWN_STAT_state, [0], 2)]).takenOf (0) (0)).find? (fun t => t.hdr.cnt = (0))).get (by decide +kernel)), ((opInfo ((((hK 0x23 [(.RAS_OWN_STAT_state, [0], 2)]).takenOf (0) (0)).find? (fun t => t.hdr.cnt = (0))).get (by decide +kernel)).opcode).get (by decide +kernel)), (((((hK 0x23 [(.RAS_OWN_STAT_state, [0], 2)]).refusal ((((hK 0x23 [(.RAS_OWN_STAT_state, [0], 2)]).takenOf (0) (0)).find? (fun t => t.hdr.cnt = (0))).get (by decide +kernel)).hdr ((opInfo ((((hK 0x23 [(.RAS_OWN_STAT_state, [0], 2)]).takenOf (0) (0)).find? (fun t => t.hdr.cnt = (0))).get (by decide +kernel)).opcode).get (by decide +kernel)).rule true true (bridgeTrain ((((hK 0x23 [(.RAS_OWN_STAT_state, [0], 2)]).takenOf (0) (0)).find? (fun t => t.hdr.cnt = (0))).get (by decide +kernel)).cmd)).get (by decide +kernel))).1), (((((hK 0x23 [(.RAS_OWN_STAT_state, [0], 2)]).refusal ((((hK 0x23 [(.RAS_OWN_STAT_state, [0], 2)]).takenOf (0) (0)).find? (fun t => t.hdr.cnt = (0))).get (by decide +kernel)).hdr ((opInfo ((((hK 0x23 [(.RAS_OWN_STAT_state, [0], 2)]).takenOf (0) (0)).find? (fun t => t.hdr.cnt = (0))).get (by decide +kernel)).opcode).get (by decide +kernel)).rule true true (bridgeTrain ((((hK 0x23 [(.RAS_OWN_STAT_state, [0], 2)]).takenOf (0) (0)).find? (fun t => t.hdr.cnt = (0))).get (by decide +kernel)).cmd)).get (by decide +kernel))).2.1), (((((hK 0x23 [(.RAS_OWN_STAT_state, [0], 2)]).refusal ((((hK 0x23 [(.RAS_OWN_STAT_state, [0], 2)]).takenOf (0) (0)).find? (fun t => t.hdr.cnt = (0))).get (by decide +kernel)).hdr ((opInfo ((((hK 0x23 [(.RAS_OWN_STAT_state, [0], 2)]).takenOf (0) (0)).find? (fun t => t.hdr.cnt = (0))).get (by decide +kernel)).opcode).get (by decide +kernel)).rule true true (bridgeTrain ((((hK 0x23 [(.RAS_OWN_STAT_state, [0], 2)]).takenOf (0) (0)).find? (fun t => t.hdr.cnt = (0))).get (by decide +kernel)).cmd)).get (by decide +kernel))).2.2), by decide +kernel⟩,
   ⟨hK 1 [], 0, 0, 0, ((((hK 1 []).takenOf (0) (0)).find? (fun t => t.hdr.cnt = (0))).get (by decide +kernel)), ((opInfo ((((hK 1 []).takenOf (0) (0)).find? (fun t => t.hdr.cnt = (0))).get (by decide +kernel)).opcode).get (by decide +kernel)), by decide +kernel⟩,
   ⟨hosted, 64, 17, 2 ^ 64 - 1, by decide +kernel⟩,
   ⟨hR [], 0, 16, 63, by decide +kernel⟩,
   ⟨hK 1 [], Instr.nop d0, d0, by decide +kernel⟩⟩

/-- The cases of PacketRings can be met. -/
theorem test_witness_PacketRings :
    (∃ (s : State) (fn : Nat) (r : Nat) (k : Nat) (e : List Byte) (b : List Byte), (k = s.ringPort fn r) ∧ (ringKind fn r = some .tx) ∧ (s.forwarding = true) ∧ (s.xingBusy (s.ringEngine fn r) 6 0 = false) ∧ (s.portClear (1056 + k) = true) ∧ (s.txNext k = some (fn * 64 + r)) ∧ (60 ≤ le e 8 2) ∧ (le e 8 2 ≤ 16379) ∧ (byteAt e 11 < 16) ∧ (le e 14 2 = 0) ∧ (leNat (slice e 22 10) = 0) ∧ (s.fr? s.nextId = none))
    ∧ (∃ (s : State) (k : Nat) (fn : Nat) (r : Nat) (n : Nat) (step : Nat) (redir : Bool) (f : Frame) (bufs : List Nat), (s.forwarding = true) ∧ (s.xingBusy (portHalf (1056 + k)) 6 0 = false) ∧ (s.rxHead k = some f) ∧ (s.rxRing k f = (fn, r, redir)) ∧ (s.rxUsable fn r = true) ∧ (s.rxFits fn r f.bytes.length = true) ∧ (n = s.rxNeed fn r f.bytes.length) ∧ (bufs.length = n) ∧ (step = max 2 (min 16 (s.rd .HST_RING_CFG_buf_kib [fn, r])) * 1024))
    ∧ (∃ (s : State) (v : Nat) (r : Nat) (b : Nat) (f : Frame), (v ≠ 0) ∧ ((ringKind v r = some .rxb ∨ ringKind v r = some .rxc)) ∧ (b = 32 + r % 16) ∧ (s.rxHead (s.ringPort v (b + 16)) = some f) ∧ (s.rxRing (s.ringPort v (b + 16)) f = (v, b, false)) ∧ (s.rxFits v b f.bytes.length = false))
    ∧ (∃ (s : State) (u : State) (fn : Nat) (vec : Nat) (us : Nat) (e : Nat × Nat), (e = s.host.holdEnd.getD [fn, vec] (s.time.elapsed, 64)) ∧ (u = s.runTo e.1) ∧ (us = s.rd .HST_RING_CFG_coal_us [fn, e.2]) ∧ (s.host.hold.get? [fn, vec] = some true) ∧ ((s.host.msix.getD [fn, vec] (Msix.mk 0 0 true false)).masked = false) ∧ (s.msixEn fn = true) ∧ (s.msixFnMask fn = false))
    ∧ (∃ (s : State) (u : State) (fn : Nat) (vec : Nat) (us : Nat) (e : Nat × Nat), (e = s.host.holdEnd.getD [fn, vec] (s.time.elapsed, 64)) ∧ (u = s.runTo e.1) ∧ (us = s.rd .HST_RING_CFG_coal_us [fn, e.2]) ∧ (s.host.hold.get? [fn, vec] = some false)) :=
  ⟨⟨hR [], 0, 16, ((hR []).ringPort (0) (16)), (z 8 ++ [60] ++ z 23), z 60, rfl, by decide +kernel⟩,
   ⟨withFr (hR []) ({ Frame.blank with loc := .hostPort, out := 1056, bytes := z 64 }), 0, 0, 32, ((withFr (hR []) ({ Frame.blank with loc := .hostPort, out := 1056, bytes := z 64 })).rxNeed (0) (32) ({ Frame.blank with loc := .hostPort, out := 1056, bytes := z 64 }).bytes.length), (max 2 (min 16 ((withFr (hR []) ({ Frame.blank with loc := .hostPort, out := 1056, bytes := z 64 })).rd .HST_RING_CFG_buf_kib [(0), (32)])) * 1024), false, { Frame.blank with loc := .hostPort, out := 1056, bytes := z 64 }, [0x1000], by decide +kernel⟩,
   ⟨withFr (hs [(.HST_FN_rx_en, [0, 1], 1), (.HST_RING_CFG_en, [1, 32], 1), (.HST_RING_CFG_en, [1, 48], 1)]) ({ Frame.blank with loc := .hostPort, out := 1056, bytes := z 64 }), 1, 32, 32, { Frame.blank with loc := .hostPort, out := 1056, bytes := z 64 }, by decide +kernel⟩,
   ⟨{ hosted with host := { hosted.host with hold := [([64, 15], true)], msix := [([64, 15], ⟨0, 0, false, false⟩)], msixCtl := [([64], 2 ^ 15)] } }, (({ hosted with host := { hosted.host with hold := [([64, 15], true)], msix := [([64, 15], ⟨0, 0, false, false⟩)], msixCtl := [([64], 2 ^ 15)] } } : State).runTo (({ hosted with host := { hosted.host with hold := [([64, 15], true)], msix := [([64, 15], ⟨0, 0, false, false⟩)], msixCtl := [([64], 2 ^ 15)] } } : State).host.holdEnd.getD [(64), (15)] (({ hosted with host := { hosted.host with hold := [([64, 15], true)], msix := [([64, 15], ⟨0, 0, false, false⟩)], msixCtl := [([64], 2 ^ 15)] } } : State).time.elapsed, 64)).1), 64, 15, (({ hosted with host := { hosted.host with hold := [([64, 15], true)], msix := [([64, 15], ⟨0, 0, false, false⟩)], msixCtl := [([64], 2 ^ 15)] } } : State).rd .HST_RING_CFG_coal_us [(64), (({ hosted with host := { hosted.host with hold := [([64, 15], true)], msix := [([64, 15], ⟨0, 0, false, false⟩)], msixCtl := [([64], 2 ^ 15)] } } : State).host.holdEnd.getD [(64), (15)] (({ hosted with host := { hosted.host with hold := [([64, 15], true)], msix := [([64, 15], ⟨0, 0, false, false⟩)], msixCtl := [([64], 2 ^ 15)] } } : State).time.elapsed, 64)).2]), (({ hosted with host := { hosted.host with hold := [([64, 15], true)], msix := [([64, 15], ⟨0, 0, false, false⟩)], msixCtl := [([64], 2 ^ 15)] } } : State).host.holdEnd.getD [(64), (15)] (({ hosted with host := { hosted.host with hold := [([64, 15], true)], msix := [([64, 15], ⟨0, 0, false, false⟩)], msixCtl := [([64], 2 ^ 15)] } } : State).time.elapsed, 64)), rfl, rfl, rfl, by decide +kernel⟩,
   ⟨{ hosted with host := { hosted.host with hold := [([64, 15], false)] } }, (({ hosted with host := { hosted.host with hold := [([64, 15], false)] } } : State).runTo (({ hosted with host := { hosted.host with hold := [([64, 15], false)] } } : State).host.holdEnd.getD [(64), (15)] (({ hosted with host := { hosted.host with hold := [([64, 15], false)] } } : State).time.elapsed, 64)).1), 64, 15, (({ hosted with host := { hosted.host with hold := [([64, 15], false)] } } : State).rd .HST_RING_CFG_coal_us [(64), (({ hosted with host := { hosted.host with hold := [([64, 15], false)] } } : State).host.holdEnd.getD [(64), (15)] (({ hosted with host := { hosted.host with hold := [([64, 15], false)] } } : State).time.elapsed, 64)).2]), (({ hosted with host := { hosted.host with hold := [([64, 15], false)] } } : State).host.holdEnd.getD [(64), (15)] (({ hosted with host := { hosted.host with hold := [([64, 15], false)] } } : State).time.elapsed, 64)), rfl, rfl, rfl, by decide +kernel⟩⟩

/-- The cases of HostResets can be met. -/
theorem test_witness_HostResets :
    (∃ (s : State) (c : Instr), ((c = .flr 0 ∨ c = .hotReset ∨ c = .perstN true)) ∧ ((∀ a ∈ s.host.taken, a.hdr.fn < 65 → a.started = false)))
    ∧ (∃ (s : State) (v : Nat), (1 ≤ v) ∧ (v ≤ 64) ∧ (s.host.flr = []) ∧ ((∀ a ∈ s.host.taken, a.hdr.fn = v → a.started = false)))
    ∧ (∃ (s : State) (v : Nat), (1 ≤ v) ∧ (v ≤ 64) ∧ (s.host.flr = []) ∧ ((∃ a ∈ s.host.taken, a.hdr.fn = v ∧ a.started = true)))
    ∧ (∃ (s : State) (fn : Nat) (off : Nat) (w : Option Nat), (fn ≤ 64) ∧ (s.pkg.perstLow = false) ∧ (s.pkg.resetEnded = true))
    ∧ (∃ (s : State) (fn : Nat) (off : Nat) (w : Option Nat), (fn ≤ 64) ∧ ((s.pkg.perstLow = true ∨ s.pkg.resetEnded = false))) :=
  ⟨⟨hosted, .flr 0, by decide +kernel⟩,
   ⟨hosted, 64, by decide +kernel⟩,
   ⟨{ hosted with host := { hosted.host with taken := [⟨{ d0 with fn := 3 }, 1, [], true, .nop d0, false⟩] } }, 3, by decide +kernel⟩,
   ⟨{ hosted with pkg := { hosted.pkg with perstLow := false, resetEnded := true } }, 64, 4, some 3, by decide +kernel⟩,
   ⟨{ hosted with pkg := { hosted.pkg with perstLow := true, resetEnded := true } }, 64, 4, none, by decide +kernel⟩⟩

/-- The cases of LaneDescriptors can be met. -/
theorem test_witness_LaneDescriptors :
    (∃ (s : State) (d : Hdr) (first : Nat) (w : Nat) (rate : Nat) (fl : Nat), (due s (.portSet d first w rate fl 0)) ∧ (served s d ⟨0x100, .config, true, false, 0⟩ true (cleanHdr d false false false)) ∧ (first < 1024) ∧ (fl < 16) ∧ (w ∈ ([1, 2, 4, 8] : List Nat)) ∧ (rate < 3) ∧ (first % w = 0) ∧ (s.lanes.ports.get? [first] = none) ∧ ((∀ l ∈ portLanes first w, s.portOfLane l = none ∧ s.laneLeaving l = false ∧ Machine.State.laneTest s l = false)))
    ∧ (∃ (s : State) (d : Hdr) (first : Nat) (w : Nat) (rate : Nat) (fl : Nat) (c : PortCfg), (due s (.portSet d first 0 rate fl 0)) ∧ (served s d ⟨0x100, .config, true, false, 0⟩ true (cleanHdr d false false false)) ∧ (first < 1024) ∧ (fl < 16) ∧ (s.lanes.ports.get? [first] = some c) ∧ (rate < 3))
    ∧ (∃ (s : State) (d : Hdr) (first : Nat) (w : Nat) (rate : Nat) (fl : Nat) (c : PortCfg), (due s (.portSet d first w rate fl 0)) ∧ (served s d ⟨0x100, .config, true, false, 0⟩ true (cleanHdr d false false false)) ∧ (first < 1024) ∧ (fl < 16) ∧ (s.lanes.ports.get? [first] = some c) ∧ (w ∈ ([1, 2, 4, 8] : List Nat)) ∧ (rate < 3) ∧ (first % w = 0) ∧ ((c.width ≠ w ∨ c.rate ≠ rate)))
    ∧ (∃ (s : State) (d : Hdr) (restart : Bool) (b : List Byte) (es : List (List Byte)), (due s (.laneEqSet d restart)) ∧ (served s d ⟨0x101, .config, true, false, 0⟩ true (cleanHdr d false false true)) ∧ (d.buf = some b) ∧ (eqParse b = some es))
    ∧ (∃ (s : State) (d : Hdr) (first : Nat) (n : Nat) (loop : Nat) (pattern : Nat) (check : Bool), (due s (.laneTest d first n loop pattern check)) ∧ (served s d ⟨0x102, .config, true, false, 0⟩ true (cleanHdr d false false false)) ∧ (first < 1024) ∧ (1 ≤ n) ∧ (first % 128 + n ≤ 128) ∧ (loop ≤ 3) ∧ (pattern ≤ 4))
    ∧ (∃ (s : State) (d : Hdr) (port : Nat) (c : PortCfg), (due s (.portRestart d port)) ∧ (served s d ⟨0x103, .config, true, false, 0⟩ true (cleanHdr d false false false)) ∧ (s.lanes.ports.get? [port] = some c))
    ∧ (∃ (s : State) (d : Hdr) (port : Nat), (due s (.portRestart d port)) ∧ (served s d ⟨0x103, .config, true, false, 0⟩ true (cleanHdr d false false false)) ∧ (s.lanes.ports.get? [port] = none))
    ∧ (∃ (s : State) (d : Hdr) (out : List Byte), (due s (.portRead d)) ∧ (served s d ⟨0x110, .reads, false, false, 0⟩ true (cleanHdr d false false true)) ∧ (d.buf.isSome = true) ∧ (out = s.portList.flatMap (fun e => portEntry e.1 e.2)) ∧ (out.length ≤ d.hlen))
    ∧ (∃ (s : State) (d : Hdr) (es : List (List Byte)), (es = (List.range 1024).flatMap (fun l => (List.range 3).filterMap (fun r => if bit (byteAt (s.eqEntry l r) 2) 0 then some (s.eqEntry l r) else none))) ∧ (due s (.eqRead d)) ∧ (served s d ⟨0x111, .reads, false, false, 0⟩ true (cleanHdr d false false true)) ∧ (d.buf.isSome = true) ∧ (16 + es.flatten.length ≤ d.hlen)) :=
  ⟨⟨hosted, d0, 1016, 8, 2, 15, dueOf rfl (by decide +kernel), by decide +kernel⟩,
   ⟨hP [], d0, 5, 0, 0, 1, pc, dueOf rfl (by decide +kernel), by decide +kernel⟩,
   ⟨hP [], d0, 5, 1, 1, 0, pc, dueOf rfl (by decide +kernel), by decide +kernel⟩,
   ⟨hosted, (hd false false 0 0 ([0, 0, 0, 0, 1, 0, 1] ++ z 9 ++ (z 8 ++ [16] ++ z 7))), false, [0, 0, 0, 0, 1, 0, 1] ++ z 9 ++ (z 8 ++ [16] ++ z 7), [z 8 ++ [16] ++ z 7], dueOf rfl (by decide +kernel), by decide +kernel⟩,
   ⟨hosted, d0, 1023, 1, 3, 4, false, dueOf rfl (by decide +kernel), by decide +kernel⟩,
   ⟨hP [], d0, 5, pc, dueOf rfl (by decide +kernel), by decide +kernel⟩,
   ⟨hosted, d0, 4, dueOf rfl (by decide +kernel), by decide +kernel⟩,
   ⟨hP [], (hd false false 0 0 (z 128)), ((hP []).portList.flatMap (fun e => portEntry e.1 e.2)), dueOf rfl (by decide +kernel), by decide +kernel⟩,
   ⟨hosted, { hd false false 0 0 (z 128) with hlen := 65536 }, ((List.range 1024).flatMap (fun l => (List.range 3).filterMap (fun r => if bit (byteAt ((hosted).eqEntry l r) 2) 0 then some ((hosted).eqEntry l r) else none))), rfl, dueOf rfl (by decide +kernel), by decide +kernel⟩⟩

/-- The cases of LaneEvents can be met. -/
theorem test_witness_LaneEvents :
    (∃ (s : State) (port : Nat) (pos : Nat) (bytes : List Byte) (uncorr : Bool) (c : PortCfg), (s.lanes.ports.get? [port] = some c) ∧ ((s.portState port = 5 ∨ (s.portState port = 4 ∧ s.looped port c = true))))
    ∧ (∃ (s : State) (port : Nat) (pos : Nat) (bytes : List Byte) (uncorr : Bool) (c : PortCfg), (s.lanes.ports.get? [port] = some c) ∧ (s.portState port = 4) ∧ (s.looped port c = false) ∧ ((c.fecInd = false ∨ uncorr = false)) ∧ (fcsOk bytes = true) ∧ (64 ≤ bytes.length) ∧ (bytes.length ≤ 16383) ∧ (7 ≤ s.tileLinks (portPipe port)) ∧ ((c.fecCorr = true ∨ s.lanes.raw.getD [port] false = false)) ∧ (isPfc bytes = true))
    ∧ (∃ (s : State) (port : Nat) (pos : Nat) (bytes : List Byte) (uncorr : Bool) (c : PortCfg), (s.lanes.ports.get? [port] = some c) ∧ (s.portState port = 4) ∧ (s.looped port c = false) ∧ ((c.fecInd = false ∨ uncorr = false)) ∧ (fcsOk bytes = true) ∧ (64 ≤ bytes.length) ∧ (bytes.length ≤ 16383) ∧ (7 ≤ s.tileLinks (portPipe port)) ∧ ((c.fecCorr = true ∨ s.lanes.raw.getD [port] false = false)) ∧ (isPfc bytes = false) ∧ (s.fr? s.nextId = none))
    ∧ (∃ (s : State) (port : Nat) (pos : Nat) (bytes : List Byte) (uncorr : Bool) (c : PortCfg) (e : Nat), (s.lanes.ports.get? [port] = some c) ∧ ((s.portState port = 4 ∧ s.looped port c = false ∧ (c.fecInd = false ∨ uncorr = false) ∧ fcsOk bytes = false ∧ (c.fecCorr = true ∨ s.lanes.raw.getD [port] false = false) ∧ e = 4) ∨ (s.portState port = 3 ∧ e = 10)))
    ∧ (∃ (s : State) (u : State) (port : Nat) (sym : Nat) (inner : Nat) (k : Nat) (uncorr : Bool) (above : Bool) (c : PortCfg), (k = (if uncorr then 0 else min 15 sym)) ∧ (u = s.serNote port k) ∧ (above = decide (s.rd .LAN_CFG_ser_thresh [port / 128] < u.serSum port)) ∧ (s.lanes.ports.get? [port] = some c) ∧ (s.portState port = 3 ∨ s.portState port = 4))
    ∧ (∃ (s : State) (port : Nat) (c : PortCfg) (above : Bool), (s.lanes.ports.get? [port] = some c) ∧ (above = decide (s.rd .LAN_CFG_ser_thresh [port / 128] < s.serSum port)) ∧ (s.on .LAN_PORT_STAT_hi_ser (lanIx port) ≠ above) ∧ ((above = false → (s.serWin port).since + serSpan ≤ (s.serWin port).n)))
    ∧ (∃ (flags : Nat) (last : Nat) (pairs : List Nat), ((∀ p ∈ pairs, p < 4)) ∧ (bit flags 1 = bit flags 2) ∧ (bit flags 3 = bit flags 4))
    ∧ (∃ (s : State) (port : Nat) (c : PortCfg), (s.lanes.ports.get? [port] = some c) ∧ (s.portState port = 2))
    ∧ (∃ (s : State) (port : Nat) (c : PortCfg), (s.lanes.ports.get? [port] = some c) ∧ (s.portState port = 3))
    ∧ (∃ (s : State) (port : Nat) (c : PortCfg) (cause : Nat), (s.lanes.ports.get? [port] = some c) ∧ (s.portState port = 4) ∧ (1 ≤ cause) ∧ (cause ≤ 6) ∧ ((cause = 4 → s.on .LAN_PORT_STAT_hi_ser (lanIx port) = true)))
    ∧ (∃ (s : State) (port : Nat), (port < 1088) ∧ (s.rd .BUF_PORT_STAT_state [(portHalf port).n, localIdx port] = 1))
    ∧ (∃ (s : State) (port : Nat), (port < 1088) ∧ (s.rd .BUF_PORT_STAT_state [(portHalf port).n, localIdx port] = 2) ∧ (s.fenceClear port = true) ∧ ((∀ e ∈ s.lanes.removing, e.1 ≠ port)) ∧ (s.fdb.portDue = [])) :=
  ⟨⟨hP [(.LAN_PORT_STAT_state, [0, 5], 5)], 5, 0, [], false, pc, by decide +kernel⟩,
   ⟨hP [(.LAN_PORT_STAT_state, [0, 5], 4), (.GLB_LINK_STAT_state, [8, 0], 2), (.GLB_LINK_STAT_state, [8, 1], 2), (.GLB_LINK_STAT_state, [8, 2], 2), (.GLB_LINK_STAT_state, [8, 3], 2), (.GLB_LINK_STAT_state, [8, 4], 2), (.GLB_LINK_STAT_state, [8, 5], 2), (.GLB_LINK_STAT_state, [8, 6], 2)], 5, 0, [1, 0x80, 0xC2, 0, 0, 1] ++ z 6 ++ [0x88, 8, 1, 1] ++ z 44 ++ fcs ([1, 0x80, 0xC2, 0, 0, 1] ++ z 6 ++ [0x88, 8, 1, 1] ++ z 44), false, pc, by decide +kernel⟩,
   ⟨hP [(.LAN_PORT_STAT_state, [0, 5], 4), (.GLB_LINK_STAT_state, [8, 0], 2), (.GLB_LINK_STAT_state, [8, 1], 2), (.GLB_LINK_STAT_state, [8, 2], 2), (.GLB_LINK_STAT_state, [8, 3], 2), (.GLB_LINK_STAT_state, [8, 4], 2), (.GLB_LINK_STAT_state, [8, 5], 2), (.GLB_LINK_STAT_state, [8, 6], 2)], 5, 0, z 60 ++ fcs (z 60), false, pc, by decide +kernel⟩,
   ⟨hP [(.LAN_PORT_STAT_state, [0, 5], 4)], 5, 0, z 60 ++ [1, 2, 3, 4], false, pc, 4, by decide +kernel⟩,
   ⟨hP [(.LAN_PORT_STAT_state, [0, 5], 3)], ((hP [(.LAN_PORT_STAT_state, [0, 5], 3)]).serNote (5) ((if (false) then 0 else min 15 (9)))), 5, 9, 0, ((if (false) then 0 else min 15 (9))), false, (decide ((hP [(.LAN_PORT_STAT_state, [0, 5], 3)]).rd .LAN_CFG_ser_thresh [(5) / 128] < ((hP [(.LAN_PORT_STAT_state, [0, 5], 3)]).serNote (5) ((if (false) then 0 else min 15 (9)))).serSum (5))), pc, rfl, rfl, rfl, by decide +kernel⟩,
   ⟨{ hP [(.LAN_PORT_STAT_hi_ser, [0, 5], 1)] with lanes := { (hP []).lanes with win := [([5], ⟨8192, 0, []⟩)] } }, 5, pc, false, by decide +kernel⟩,
   ⟨30, 0, [0, 1, 2, 3], by decide +kernel⟩,
   ⟨hP [(.LAN_PORT_STAT_state, [0, 5], 2)], 5, pc, by decide +kernel⟩,
   ⟨hP [(.LAN_PORT_STAT_state, [0, 5], 3)], 5, pc, by decide +kernel⟩,
   ⟨hP [(.LAN_PORT_STAT_state, [0, 5], 4), (.LAN_PORT_STAT_hi_ser, [0, 5], 1)], 5, pc, 4, by decide +kernel⟩,
   ⟨hs [(.BUF_PORT_STAT_state, [(portHalf 1087).n, localIdx 1087], 1)], 1087, by decide +kernel⟩,
   ⟨hs [(.BUF_PORT_STAT_state, [(portHalf 1087).n, localIdx 1087], 2)], 1087, by decide +kernel⟩⟩

/-- The cases of GulubLinks can be met. -/
theorem test_witness_GulubLinks :
    (∃ (s : State) (i : Nat) (l : Nat) (inst : Nat) (link : Nat), (i ≤ 13) ∧ (l < glbLinks i) ∧ (glbView i l = [inst, link]) ∧ ((s.link inst link = 2 ∨ s.link inst link = 3)))
    ∧ (∃ (s : State) (i : Nat) (l : Nat) (inst : Nat) (link : Nat), (i ≤ 13) ∧ (l < glbLinks i) ∧ ((s.link i l = 2 ∨ s.link i l = 3)) ∧ ((((s.ras.crc.getD [i, l] []).filter (fun x => decide (s.elapsed < x + 1000000))).length + 1 ≤ s.rd .GLB_CFG_crc_limit [i])))
    ∧ (∃ (s : State) (i : Nat) (l : Nat) (inst : Nat) (link : Nat), (i ≤ 13) ∧ (l < glbLinks i) ∧ ((s.link i l = 2 ∨ s.link i l = 3)) ∧ (s.rd .GLB_CFG_crc_limit [i] < ((s.ras.crc.getD [i, l] []).filter (fun x => decide (s.elapsed < x + 1000000))).length + 1) ∧ (glbView i l = [inst, link]) ∧ ((s.link inst link = 2 ∨ s.link inst link = 3)))
    ∧ (∃ (s : State) (i : Nat) (l : Nat) (inst : Nat) (link : Nat), (i ≤ 13) ∧ (l < glbLinks i)) :=
  ⟨⟨hs [(.GLB_LINK_STAT_state, [8, 3], 2), (.GLB_LINK_STAT_state, [0, 3], 2)], 0, 3, 8, 3, by decide +kernel⟩,
   ⟨hs [(.GLB_LINK_STAT_state, [8, 3], 2), (.GLB_LINK_STAT_state, [0, 3], 2)], 0, 3, 8, 3, by decide +kernel⟩,
   ⟨hs [(.GLB_LINK_STAT_state, [8, 3], 2), (.GLB_LINK_STAT_state, [0, 3], 2), (.GLB_CFG_crc_limit, [0], 0)], 0, 3, 8, 3, by decide +kernel⟩,
   ⟨hosted, 13, 1, 0, 0, by decide +kernel⟩⟩

/-- The cases of TwoHalfSteps can be met. -/
theorem test_witness_TwoHalfSteps :
    (∃ (s : State) (d : Hdr), (due s (.hostClaim d)) ∧ (served s d ⟨0xC0, .claim, true, false, 0⟩ true (cleanHdr d false false false)))
    ∧ (∃ (s : State) (p : Step2), (s.ras.steps.find? (fun t => !t.reached && !t.lost) = some p) ∧ (p.doneE = false) ∧ (s.bridgeUp = true))
    ∧ (∃ (s : State) (h : Half) (p : Step2) (d : Hdr), (s.ras.steps.find? (fun t => !t.doneIn h && (t.own = h || t.reached)) = some p) ∧ (p.desc = some d) ∧ (p.lost = false) ∧ (s.bridgeUp = true) ∧ (p.kind = .hostClaim))
    ∧ (∃ (s : State) (h : Half) (p : Step2) (d : Hdr) (sl : Nat), (s.ras.steps.find? (fun t => !t.doneIn h && (t.own = h || t.reached)) = some p) ∧ (p.desc = some d) ∧ (p.lost = false) ∧ (s.bridgeUp = true) ∧ (p.kind = .commit sl))
    ∧ (∃ (s : State) (p : Step2) (d : Hdr), (s.ras.steps.find? (fun t => t.doneE && t.doneW && t.desc.isSome) = some p) ∧ (p.desc = some d) ∧ (s.bridgeUp = true))
    ∧ (∃ (s : State) (h : Half) (term : Nat) (own : Nat), (term < 2 ^ 32) ∧ (own < 2) ∧ (term ≤ s.rd .RAS_OWN_STAT_term [h.n]) ∧ (s.regOff (decide (h = .W)) = false))
    ∧ (∃ (s : State) (h : Half) (term : Nat) (own : Nat), (term < 2 ^ 32) ∧ (own < 2) ∧ (s.rd .RAS_OWN_STAT_term [h.n] < term) ∧ (s.bridgeUp = true) ∧ (s.unresolved = false) ∧ (s.regOff (decide (h = .W)) = false))
    ∧ (∃ (s : State) (h : Half) (term : Nat) (own : Nat), (term < 2 ^ 32) ∧ (own < 2) ∧ (s.rd .RAS_OWN_STAT_term [h.n] < term) ∧ ((s.bridgeUp = false ∨ s.unresolved = true)) ∧ (s.regOff (decide (h = .W)) = false))
    ∧ (∃ (s : State) (h : Half) (p : Step2), (s.ras.steps.find? (fun t => !t.doneIn h && (t.own = h || t.reached)) = some p) ∧ (p.claim = true) ∧ (p.reached = false)) :=
  ⟨⟨hs [(.SYS_MODE_mode, [0], 2)], d0, dueOf rfl (by decide +kernel), by decide +kernel⟩,
   ⟨{ hs [] with ras := { hosted.ras with steps := [⟨.hostClaim, some d0, .E, 4, 100, false, false, false, false, 0⟩] } }, ⟨.hostClaim, some d0, .E, 4, 100, false, false, false, false, 0⟩, by decide +kernel⟩,
   ⟨{ hs [] with ras := { hosted.ras with steps := [⟨.hostClaim, some d0, .E, 4, 100, true, false, false, false, 0⟩] } }, Half.W, ⟨.hostClaim, some d0, .E, 4, 100, true, false, false, false, 0⟩, d0, by decide +kernel⟩,
   ⟨{ hs [] with ras := { hosted.ras with steps := [⟨.commit 3, some d0, .E, 4, 100, true, false, false, false, 0⟩] } }, Half.E, ⟨.commit 3, some d0, .E, 4, 100, true, false, false, false, 0⟩, d0, 3, by decide +kernel⟩,
   ⟨{ hs [] with ras := { hosted.ras with steps := [⟨.hostClaim, some d0, .E, 4, 100, true, false, true, true, 0⟩] } }, ⟨.hostClaim, some d0, .E, 4, 100, true, false, true, true, 0⟩, d0, by decide +kernel⟩,
   ⟨hosted, Half.W, 1, 1, by decide +kernel⟩,
   ⟨hosted, Half.W, 2, 1, by decide +kernel⟩,
   ⟨hs [(.RAS_OWN_STAT_state, [0], 2)], Half.W, 2 ^ 32 - 1, 1, by decide +kernel⟩,
   ⟨{ hosted with ras := { hosted.ras with steps := [(⟨.adopt 2 0, none, .E, 4, 100, false, false, false, false, 0⟩ : Step2)] } }, Half.E, (⟨.adopt 2 0, none, .E, 4, 100, false, false, false, false, 0⟩ : Step2), by decide +kernel⟩⟩

/-- The cases of OwnershipAndBridge can be met. -/
theorem test_witness_OwnershipAndBridge :
    (∃ (s : State), (s.own s.owner = 0) ∧ (s.xingBusy s.owner 4 0 = true))
    ∧ (∃ (s : State), (s.own s.owner = 0) ∧ (s.bridgeUp = true) ∧ (s.xingBusy s.owner 4 0 = false) ∧ (s.serves s.owner 0 [0, 1] = true))
    ∧ (∃ (s : State) (h : Half) (term : Nat) (own : Nat) (q : List (Half × Nat × Nat)), (s.ras.renewSent = (h, term, own) :: q) ∧ (term < 2 ^ 32) ∧ (own < 2))
    ∧ (∃ (s : State), (s.ras.acksSent ≠ 0))
    ∧ (∃ (s : State) (h : Half), (s.own h ≠ 2) ∧ (s.xingBusy h 4 0 = true))
    ∧ (∃ (s : State) (h : Half), (s.own h ≠ 2) ∧ (s.xingBusy h 4 0 = false))
    ∧ (∃ (s : State) (a : Half) (b : Half) (term : Nat), (term = s.rd .RAS_OWN_STAT_term [a.n]) ∧ (s.bridgeUp = true) ∧ (s.unresolved = true) ∧ (b = a.other) ∧ (term < 2 ^ 32) ∧ (s.rd .RAS_OWN_STAT_term [b.n] < term) ∧ (s.rd .RAS_OWN_STAT_owner [a.n] < 2))
    ∧ (∃ (s : State) (a : Half) (b : Half) (term : Nat), (term = s.rd .RAS_OWN_STAT_term [a.n]) ∧ (s.bridgeUp = true) ∧ (s.unresolved = true) ∧ (b = a.other) ∧ (term < 2 ^ 32) ∧ (s.rd .RAS_OWN_STAT_term [b.n] = term) ∧ (s.rd .RAS_OWN_STAT_owner [a.n] ≠ s.rd .RAS_OWN_STAT_owner [b.n]))
    ∧ (∃ (s : State) (target : Nat) (w : Fld × List Nat × Nat) (ts : List Nat), (s.ras.mirrorQ.find? (fun q => q.2.contains target) = some ([w], ts)) ∧ ((target < 33 ∨ s.bridgeUp = true)) ∧ (w.1 ∉ reportFlds))
    ∧ (∃ (s : State), (s.bridgeUp = true) ∧ (s.bridgeLinks < s.minLinks))
    ∧ (∃ (s : State), (s.bridgeUp = false) ∧ (s.minLinks ≤ s.bridgeLinks) ∧ (s.pkg.resetEnded = true)) :=
  ⟨⟨{ hs [] with ras := { hosted.ras with xing := [([0, 4, 0], ⟨0, 0, 0⟩)] } }, by decide +kernel⟩,
   ⟨hosted, by decide +kernel⟩,
   ⟨{ hosted with ras := { hosted.ras with renewSent := [(.W, 7, 0)] } }, Half.W, 7, 0, [], by decide +kernel⟩,
   ⟨{ hosted with ras := { hosted.ras with acksSent := 1 } }, by decide +kernel⟩,
   ⟨{ hs [] with ras := { hosted.ras with xing := [([0, 4, 0], ⟨0, 0, 0⟩)] } }, Half.E, by decide +kernel⟩,
   ⟨hosted, Half.W, by decide +kernel⟩,
   ⟨hs [(.RAS_OWN_STAT_state, [0], 2), (.RAS_OWN_STAT_term, [1], 5)], Half.W, Half.E, ((hs [(.RAS_OWN_STAT_state, [0], 2), (.RAS_OWN_STAT_term, [1], 5)]).rd .RAS_OWN_STAT_term [(Half.W).n]), rfl, by decide +kernel⟩,
   ⟨hs [(.RAS_OWN_STAT_state, [0], 2), (.RAS_OWN_STAT_owner, [1], 1)], Half.W, Half.E, ((hs [(.RAS_OWN_STAT_state, [0], 2), (.RAS_OWN_STAT_owner, [1], 1)]).rd .RAS_OWN_STAT_term [(Half.W).n]), rfl, by decide +kernel⟩,
   ⟨{ hosted with ras := { hosted.ras with mirrorQ := [([(.TMG_PORT_CFG_pfc_rx_en, [32, 0], 1)], [34])] } }, 34, (.TMG_PORT_CFG_pfc_rx_en, [32, 0], 1), [34], by decide +kernel⟩,
   ⟨hosted, by decide +kernel⟩,
   ⟨{ hs [(.RAS_OWN_STAT_bridge_up, [0], 0), (.RAS_OWN_STAT_bridge_up, [1], 0), (.GLB_LINK_STAT_state, [9, 0], 2), (.GLB_LINK_STAT_state, [9, 1], 2), (.GLB_LINK_STAT_state, [9, 2], 2), (.GLB_LINK_STAT_state, [9, 3], 2), (.GLB_LINK_STAT_state, [9, 4], 2), (.GLB_LINK_STAT_state, [9, 5], 2), (.GLB_LINK_STAT_state, [9, 6], 2), (.GLB_LINK_STAT_state, [9, 7], 2), (.GLB_LINK_STAT_state, [9, 8], 2), (.GLB_LINK_STAT_state, [9, 9], 2), (.GLB_LINK_STAT_state, [9, 10], 2), (.GLB_LINK_STAT_state, [9, 11], 2), (.GLB_LINK_STAT_state, [9, 12], 2), (.GLB_LINK_STAT_state, [9, 13], 2), (.GLB_LINK_STAT_state, [9, 14], 2), (.GLB_LINK_STAT_state, [9, 15], 2)] with pkg := { hosted.pkg with resetEnded := true } }, by decide +kernel⟩⟩

/-- The cases of RepairAndMaintenance can be met. -/
theorem test_witness_RepairAndMaintenance :
    (∃ (s : State) (d : Hdr) (cls : Nat) (inst : Nat) (bank : Nat) (h : Half), (due s (.bankRetire d cls inst bank)) ∧ (h = Machine.Hdr.half d) ∧ (served s d ⟨0xC1, .maint, true, false, 1⟩ true (cleanHdr d false false false)) ∧ (bankOk cls inst bank = true) ∧ (s.ras.retired.getD [cls, h.n, inst, bank] false = false) ∧ (s.spareLeft cls h inst ≠ 0))
    ∧ (∃ (s : State) (d : Hdr) (cls : Nat) (inst : Nat) (bank : Nat) (h : Half), (due s (.bankRetire d cls inst bank)) ∧ (h = Machine.Hdr.half d) ∧ (served s d ⟨0xC1, .maint, true, false, 1⟩ true (cleanHdr d false false false)) ∧ (bankOk cls inst bank = true) ∧ (s.ras.retired.getD [cls, h.n, inst, bank] false = true))
    ∧ (∃ (s : State) (d : Hdr) (cls : Nat) (inst : Nat) (bank : Nat) (h : Half), (due s (.bankRetire d cls inst bank)) ∧ (h = Machine.Hdr.half d) ∧ (served s d ⟨0xC1, .maint, true, false, 1⟩ true (cleanHdr d false false false)) ∧ (bankOk cls inst bank = true) ∧ (s.ras.retired.getD [cls, h.n, inst, bank] false = false) ∧ (s.spareLeft cls h inst = 0))
    ∧ (∃ (s : State) (m : Maint) (h : Half), (s.ras.job = some m) ∧ (m.op = 3) ∧ (m.half = h) ∧ (s.serves h 1 [BitVec.ofNat 64 m.bank] = true) ∧ (s.ras.poison = []) ∧ (s.rd .RAS_RETIRE_STAT_done [h.n] + 1 < 4096))
    ∧ (∃ (s : State) (m : Maint) (h : Half), (s.ras.job = some m) ∧ (m.op = 3) ∧ (m.half = h) ∧ (s.serves h 1 [BitVec.ofNat 64 m.bank] = true) ∧ (s.ras.poison = []) ∧ (s.rd .RAS_RETIRE_STAT_done [h.n] = 4095))
    ∧ (∃ (s : State) (inst : Nat) (link : Nat) (l : Nat × Nat) (ls : List (Nat × Nat)) (d : Hdr), (due s (.linkRetrain d inst link)) ∧ (8 ≤ inst) ∧ (inst ≤ 13) ∧ (s.ras.train = []) ∧ (s.trainList inst link = l :: ls) ∧ ((link = 255 ∨ link < glbLinks inst)) ∧ (s.refusal d ⟨0xC2, .maint, true, false, 0⟩ true (cleanHdr d false false false) (isBridge inst) = none))
    ∧ (∃ (s : State) (inst : Nat) (link : Nat) (l : Nat × Nat) (ls : List (Nat × Nat)), (8 ≤ inst) ∧ (inst ≤ 13) ∧ (s.ras.train = []) ∧ (s.trainList inst link = l :: ls) ∧ (link = 255) ∧ (s.on .RAS_LINK_CFG_auto_retrain [0] = true) ∧ (s.mode ≠ 1) ∧ (s.rd .SYS_MODE_maint_op [0] = 0))
    ∧ (∃ (s : State) (d : Hdr) (inst : Nat) (link : Nat), (due s (.linkRetrain d inst link)) ∧ (8 ≤ inst) ∧ (inst ≤ 13) ∧ ((link = 255 ∨ link < glbLinks inst)) ∧ (s.training = true) ∧ (s.trainFree inst = false) ∧ (s.refusal d ⟨0xC2, .maint, true, false, 0⟩ true (cleanHdr d false false false) (isBridge inst) = none))
    ∧ (∃ (s : State) (inst : Nat) (link : Nat) (i : Nat) (l : Nat) (wire : Nat) (n : Nat) (pass : Bool) (rest : List (Nat × Nat)) (desc : Option Hdr) (l2 : Nat) (r2 : List (Nat × Nat)), (8 ≤ i) ∧ (i ≤ 13) ∧ (s.ras.train = [⟨i, (i, l) :: rest, desc, n⟩]) ∧ ((glbViews i l).contains [inst, link] = true) ∧ (s.link i l = 1) ∧ (rest = (i, l2) :: r2) ∧ (l2 ≠ l) ∧ (l2 < glbLinks i))
    ∧ (∃ (s : State) (inst : Nat) (link : Nat) (i : Nat) (l : Nat) (wire : Nat) (n : Nat) (pass : Bool) (rest : List (Nat × Nat)) (desc : Option Hdr), (8 ≤ i) ∧ (i ≤ 13) ∧ (s.ras.train = [⟨i, (i, l) :: rest, desc, n⟩]) ∧ ((glbViews i l).contains [inst, link] = true) ∧ (s.link i l = 1) ∧ (rest = []))
    ∧ (∃ (s : State) (m : Maint) (q : List Maint), (s.ras.queueM = m :: q) ∧ (s.rd .SYS_MODE_maint_op [0] = 0) ∧ (s.ras.train = []) ∧ (m.op = 3) ∧ (s.ras.retired.getD [m.cls, m.half.n, m.inst, m.bank] false = false) ∧ (s.spareLeft m.cls m.half m.inst ≠ 0))
    ∧ (∃ (s : State) (d : Hdr) (cls : Nat) (inst : Nat) (bank : Nat) (row : Nat) (kind : Nat), (due s (.eccInject d cls inst bank row kind)) ∧ (served s d ⟨0xC3, .inject, true, false, 1⟩ true (cleanHdr d false false false)) ∧ (bankOk cls inst bank = true) ∧ (row < 4096) ∧ ((kind = 1 ∨ kind = 2)))
    ∧ (∃ (s : State) (h : Half) (cls : Nat) (inst : Nat) (bank : Nat) (row : Nat), (s.on .RAS_ECC_CFG_scrub_en [h.n] = true) ∧ (s.serves h 1 ([cls, inst, bank, row].map (BitVec.ofNat 64)) = true) ∧ (s.ras.poison.get? [cls, h.n, inst, bank, row] = some 1))
    ∧ (∃ (s : State) (h : Half) (cls : Nat) (inst : Nat) (bank : Nat) (row : Nat) (k : List Nat) (v : Option Ent), (k = (16 * h.n + inst) :: Config.eccWord 1 bank row) ∧ (s.tables.upset.get? k = some v) ∧ (s.on .RAS_ECC_CFG_scrub_en [h.n] = true) ∧ (s.serves h 1 ([cls, inst, bank, row].map (BitVec.ofNat 64)) = true) ∧ (cls = 1) ∧ (s.ras.poison.get? [cls, h.n, inst, bank, row] = none))
    ∧ (∃ (s : State) (h : Half) (cls : Nat) (inst : Nat) (bank : Nat) (row : Nat), (s.ras.poison.get? [cls, h.n, inst, bank, row] = some 2) ∧ ((cls = 1 ∧ (∃ p, p < 16 ∧ p ≠ inst ∧ s.ras.poison.get? [cls, h.n, p, bank, row] = none)) ∨ (cls = 5 ∧ row + bank * 4096 < 0xC000)))
    ∧ (∃ (s : State) (h : Half) (n : Nat), (n = 786431 - s.cellsHeld h - s.rd .BUF_FREE_phys_free [h.n]) ∧ (s.rd .RAS_ECC_CFG_audit_s [h.n] ≠ 0))
    ∧ (∃ (s : State) (h : Half) (pair : Nat) (tile : Nat), (pair < 7) ∧ (tile < 4) ∧ (bit (s.rd .RAS_XSTAT_stuck [h.n]) pair = false) ∧ (s.xingBusy h pair (xingTile pair tile) = false))
    ∧ (∃ (s : State) (h : Half) (value : Nat) (tile : Nat), (tile = bits value 7 2) ∧ (s.regOff (decide (h = .W)) = false))
    ∧ (∃ (s : State) (h : Half) (e : Nat × Nat) (q : List (Nat × Nat)), (s.eccLog h = e :: q) ∧ (s.regOff (decide (h = .W)) = false)) :=
  ⟨⟨hosted, (hd false true 0 0 []), 1, 15, 4095, Half.W, dueOf rfl (by decide +kernel), by decide +kernel⟩,
   ⟨{ hs [] with ras := { hosted.ras with retired := [([1, 1, 15, 4095], true)] } }, (hd false true 0 0 []), 1, 15, 4095, Half.W, dueOf rfl (by decide +kernel), by decide +kernel⟩,
   ⟨{ hs [] with ras := { hosted.ras with retired := (List.range 64).map (fun i => ([1, 1, 15, i], true)) } }, (hd false true 0 0 []), 1, 15, 4095, Half.W, dueOf rfl (by decide +kernel), by decide +kernel⟩,
   ⟨{ hs [(.RAS_RETIRE_STAT_done, [1], 4094)] with ras := { hosted.ras with job := some ⟨3, .W, 1, 15, 4095, none⟩ } }, ⟨3, .W, 1, 15, 4095, none⟩, Half.W, by decide +kernel⟩,
   ⟨{ hs [(.RAS_RETIRE_STAT_done, [1], 4095)] with ras := { hosted.ras with job := some ⟨3, .W, 1, 15, 4095, none⟩ } }, ⟨3, .W, 1, 15, 4095, none⟩, Half.W, by decide +kernel⟩,
   ⟨hs [(.GLB_LINK_STAT_state, [8, 3], 4)], 8, 3, (8, 3), [], d0, dueOf rfl (by decide +kernel), by decide +kernel⟩,
   ⟨hs [(.GLB_LINK_STAT_state, [13, 1], 4)], 13, 255, (13, 1), [], by decide +kernel⟩,
   ⟨{ hs [] with ras := { hosted.ras with train := [⟨8, [(8, 3)], none, 0⟩] } }, d0, 8, 3, dueOf rfl (by decide +kernel), by decide +kernel⟩,
   ⟨{ hs [(.GLB_LINK_STAT_state, [8, 3], 1)] with ras := { hosted.ras with train := [⟨8, [(8, 3), (8, 4)], none, 0⟩] } }, 8, 3, 8, 3, 0, 0, true, [(8, 4)], none, 4, [], by decide +kernel⟩,
   ⟨{ hs [(.GLB_LINK_STAT_state, [8, 3], 1)] with ras := { hosted.ras with train := [⟨8, [(8, 3)], none, 0⟩] } }, 0, 3, 8, 3, 0, 0, false, [], none, by decide +kernel⟩,
   ⟨{ hs [] with ras := { hosted.ras with queueM := [⟨3, .W, 1, 15, 4095, none⟩] } }, ⟨3, .W, 1, 15, 4095, none⟩, [], by decide +kernel⟩,
   ⟨hosted, (hd false true 0 0 []), 1, 15, 4095, 4095, 2, dueOf rfl (by decide +kernel), by decide +kernel⟩,
   ⟨{ hs [] with ras := { hosted.ras with poison := [([1, 1, 15, 4095, 4095], 1)] } }, Half.W, 1, 15, 4095, 4095, by decide +kernel⟩,
   ⟨{ hs [(.RAS_ECC_CFG_scrub_en, [0], 1)] with tables := { hosted.tables with upset := [(((16 * Half.E.n + 0) :: Config.eccWord 1 0 0), none)] } }, Half.E, 1, 0, 0, 0, ((16 * Half.E.n + 0) :: Config.eccWord 1 0 0), none, rfl, by simp [SMap.get?], by decide +kernel⟩,
   ⟨{ hs [] with ras := { hosted.ras with poison := [([5, 1, 0, 11, 4095], 2)] } }, Half.W, 5, 0, 11, 4095, by decide +kernel⟩,
   ⟨hosted, Half.W, (786431 - (hosted).cellsHeld (Half.W) - (hosted).rd .BUF_FREE_phys_free [(Half.W).n]), rfl, by decide +kernel⟩,
   ⟨hosted, Half.W, 6, 3, by decide +kernel⟩,
   ⟨hosted, Half.W, 0, (bits (0) 7 2), rfl, by decide +kernel⟩,
   ⟨{ hs [] with ras := { hosted.ras with logW := [(7, 8)] } }, Half.W, (7, 8), [], by decide +kernel⟩⟩

/-- The cases of RegisterAccess can be met. -/
theorem test_witness_RegisterAccess :
    (∃ (s : State) (fn : Nat) (blk : Nat) (inst : Nat) (off : Nat) (value : Nat) (wide : Bool) (r : Reg) (ix : List Nat), (blkReach fn blk inst = true) ∧ (blk ≠ 0) ∧ (s.regOff (blkWest blk inst) = false) ∧ (off % (if wide then 8 else 4) = 0) ∧ (regAt blk inst off = some (r, ix, 0)) ∧ (r.info.width = (if wide then 64 else 32)) ∧ (r.info.blk ≠ 10) ∧ (copyFlag r = none) ∧ (r ∉ [.FDB_SEED, .HST_DB, .HST_RING_CFG, .HST_RING_BASE, .HST_RING_WB, .TEL_HIST_CFG, .RAS_OWN_CLAIM, .RAS_XRST, .PMC_CNT, .PMC_THRESH, .CLV_ENG_CTL]))
    ∧ (∃ (s : State) (fn : Nat) (blk : Nat) (inst : Nat) (off : Nat) (value : Nat) (wide : Bool), (blkReach fn blk inst = false))
    ∧ (∃ (s : State) (fn : Nat) (blk : Nat) (inst : Nat) (off : Nat) (value : Nat) (wide : Bool), (blkReach fn blk inst = true) ∧ (s.regOff (blkWest blk inst) = true))
    ∧ (∃ (s : State) (fn : Nat) (blk : Nat) (inst : Nat) (off : Nat) (value : Nat) (wide : Bool) (v : Nat), (1 ≤ v) ∧ (v ≤ 64) ∧ (blk ≠ 0) ∧ (blk ≠ 2) ∧ (¬ (blk = 18 ∧ inst = v)))
    ∧ (∃ (s : State) (fn : Nat) (v : Nat) (value : Nat), (fn ≤ 64) ∧ (v < vectors fn) ∧ ((s.msixAt fn v).pend = true) ∧ (bit value 0 = false) ∧ (s.regOff false = false) ∧ (s.msixEn fn = true) ∧ (s.msixFnMask fn = false))
    ∧ (∃ (s : State) (fn : Nat) (blk : Nat) (inst : Nat) (off : Nat) (b : Nat) (r : Reg) (ix : List Nat), (blkReach fn blk inst = true) ∧ (blk ≠ 0) ∧ (blk ≠ 2) ∧ (s.regOff (blkWest blk inst) = false) ∧ (regAt blk inst off = some (r, ix, b)) ∧ (r.info.width = 64) ∧ (off % 8 = 0) ∧ (b = 0) ∧ (r ∉ [.TIM_NOW_LO, .TIM_TXTS_W1, .TIM_TIO_CAP_HI, .PMC_SAMP_W1, .RAS_ERR_W1]))
    ∧ (∃ (s : State) (fn : Nat) (blk : Nat) (inst : Nat) (off : Nat) (b : Nat) (r : Reg) (ix : List Nat), (blkReach fn blk inst = true) ∧ (blk ≠ 0) ∧ (blk ≠ 2) ∧ (s.regOff (blkWest blk inst) = false) ∧ (regAt blk inst off = some (r, ix, b)) ∧ (r.info.width = 64) ∧ (off % 4 = 0))
    ∧ (∃ (s : State) (which : Nat) (c : Nat) (value : Nat) (h : Half) (r : Reg) (flag : Fld) (ix : List Nat), (copyReg which = some r) ∧ (copyFlag r = some flag) ∧ (c < 2) ∧ (ix = [if which = 1 then 0 else h.n, c]) ∧ (s.copyHeld c = true) ∧ ((∃ f ∈ r.fields, f.info.acc = .RW ∧ s.rd f ix % 2 ^ f.info.w ≠ bits value f.info.lo f.info.w)) ∧ (s.regOff (decide (h = .W) && decide (which ≠ 1)) = false))
    ∧ (∃ (s : State) (which : Nat) (c : Nat) (value : Nat) (h : Half) (r : Reg) (flag : Fld) (ix : List Nat), (copyReg which = some r) ∧ (copyFlag r = some flag) ∧ (c < 2) ∧ (ix = [if which = 1 then 0 else h.n, c]) ∧ (s.copyHeld c = false) ∧ (which ≠ 1) ∧ (s.regOff (decide (h = .W) && decide (which ≠ 1)) = false))
    ∧ (∃ (s : State) (which : Nat) (c : Nat) (value : Nat) (h : Half) (r : Reg) (flag : Fld) (ix : List Nat), (copyReg which = some r) ∧ (copyFlag r = some flag) ∧ (c < 2) ∧ (ix = [if which = 1 then 0 else h.n, c]) ∧ (s.copyHeld c = false) ∧ (which = 1) ∧ (s.regOff (decide (h = .W) && decide (which ≠ 1)) = false)) :=
  ⟨⟨hosted, 0, 8, 0, 4096, 2 ^ 32 - 1, false, Reg.TMG_PORT_CFG, [0, 0], by decide +kernel⟩,
   ⟨hosted, 1, 8, 0, 4096, 2 ^ 32 - 1, false, by decide +kernel⟩,
   ⟨hs [(.GLB_LINK_STAT_state, [10, 0], 4), (.GLB_LINK_STAT_state, [10, 1], 4)], 0, 8, 1, 4096, 2 ^ 32 - 1, false, by decide +kernel⟩,
   ⟨hosted, 0, 8, 0, 4096, 2 ^ 32 - 1, false, 1, by decide +kernel⟩,
   ⟨{ hosted with host := { hosted.host with msix := [([64, 15], ⟨0, 0, true, true⟩)], msixCtl := [([64], 2 ^ 15)] } }, 64, 15, 0, by decide +kernel⟩,
   ⟨hosted, 0, 14, 0, 131072, 0, Reg.TEL_PORT_CNT, [0, 0, 0], by decide +kernel⟩,
   ⟨hosted, 0, 14, 0, 131072, 0, Reg.TEL_PORT_CNT, [0, 0, 0], by decide +kernel⟩,
   ⟨hT [], 0, 0, 2 ^ 64 - 1, Half.W, Reg.FDB_REQ, Fld.FDB_REQ_wr_ignored, [1, 0], by decide +kernel⟩,
   ⟨hT [], 0, 1, 2 ^ 64 - 1, Half.W, Reg.FDB_REQ, Fld.FDB_REQ_wr_ignored, [1, 1], by decide +kernel⟩,
   ⟨hT [], 1, 1, 2 ^ 64 - 1, Half.W, Reg.TIM_PTP_REQ, Fld.TIM_PTP_REQ_wr_ignored, [0, 1], by decide +kernel⟩⟩

/-- The cases of BootFlow can be met. -/
theorem test_witness_BootFlow :
    (∃ (s : State) (tmode : Bool) (fsafe : Bool) (sba : Nat) (links : Nat) (pass : Nat → Bool), ((∀ l, pass l = (decide (l < links % 256) && !bit (linkWord links l) 0))) ∧ (s.pkg.resetEnded = false) ∧ (s.pkg.valid = 0x1FF))
    ∧ (∃ (s : State) (fail : Nat) (alg : Nat), (s.rd .TRB_STAT_testing [0] ≠ 0))
    ∧ (∃ (s : State) (ok : Bool) (octal : Bool), (s.mode = 0) ∧ (s.pkg.resetEnded = true) ∧ (s.boot.discovered = false))
    ∧ (∃ (s : State) (c : Nat) (rest : List Nat), (s.boot.cand = c :: rest) ∧ (c < 2) ∧ (s.boot.cur = none) ∧ (s.boot.selfDone = true))
    ∧ (∃ (s : State) (c : Nat) (i : Nat) (p : List Byte) (rest : List (Nat × Nat × List Byte × Nat)), (s.boot.cur = some c) ∧ (s.boot.recs = (4, i, p, 0) :: rest) ∧ (p.length = 12) ∧ (le p 0 4 < 64) ∧ (le p 4 4 ≤ 131072) ∧ (le p 8 4 ≤ 65536) ∧ (s.unresolved = false) ∧ (s.mode ≤ 6) ∧ (s.arming = false))
    ∧ (∃ (s : State) (c : Nat) (ty : Nat) (i : Nat) (arg : Nat) (p : List Byte) (rest : List (Nat × Nat × List Byte × Nat)), (s.boot.cur = some c) ∧ (c < 2) ∧ (s.boot.recs = (ty, i, p, arg) :: rest) ∧ (arg ≠ 0) ∧ (ty ≠ 3) ∧ (ty ≠ 8) ∧ (ty < 12) ∧ (i < 2 ^ 24) ∧ (s.arming = false))
    ∧ (∃ (s : State) (c : Nat) (ms : Nat), ((∀ p, s.portState p ≠ 4)) ∧ (s.boot.cur = some c) ∧ (c < 2) ∧ (s.boot.recs = []) ∧ (s.arming = false))
    ∧ (∃ (s : State) (d : Hdr), (due s (.bootRetry d)) ∧ (served s d ⟨0x81, .retry, false, false, 0⟩ true (cleanHdr d false false false)) ∧ (s.boot.writing = none) ∧ (s.boot.retry = none))
    ∧ (∃ (s : State) (d : Hdr), (due s (.bootRetry d)) ∧ (served s d ⟨0x81, .retry, false, false, 0⟩ true (cleanHdr d false false false)) ∧ (s.boot.writing.isSome = true ∨ s.boot.retry.isSome = true)) :=
  ⟨⟨{ State.reset with pkg := { State.reset.pkg with valid := 0x1FF } }, true, false, 0, 5, fun l => decide (l < 5 % 256) && !bit (linkWord 5 l) 0, fun _ => rfl, by decide +kernel⟩,
   ⟨hs [(.TRB_STAT_testing, [0], 1)], 0, 0, by decide +kernel⟩,
   ⟨{ State.reset with pkg := { State.reset.pkg with resetEnded := true } }, true, false, by decide +kernel⟩,
   ⟨{ hs [] with boot := { hosted.boot with cand := [1, 0], selfDone := true } }, 1, [0], by decide +kernel⟩,
   ⟨{ hs [] with boot := { hosted.boot with cur := some 1, recs := [(4, 0, z 12, 0)] } }, 1, 0, z 12, [], by decide +kernel⟩,
   ⟨{ hs [] with boot := { hosted.boot with cur := some 1, recs := [(11, 2, [], 1)] } }, 1, 11, 2, 1, [], [], by decide +kernel⟩,
   ⟨{ hs [] with boot := { hosted.boot with cur := some 0 } }, 0, 0, fun p => (by decide : (0 : Nat) ≠ 4), by decide +kernel⟩,
   ⟨hs [(.SYS_MODE_mode, [0], 6)], d0, dueOf rfl (by decide +kernel), by decide +kernel⟩,
   ⟨{ hs [(.SYS_MODE_mode, [0], 6)] with boot := { hosted.boot with retry := some d0 } }, d0, dueOf rfl (by decide +kernel), by decide +kernel⟩⟩

/-- The cases of ImagesAndTrust can be met. -/
theorem test_witness_ImagesAndTrust :
    (∃ (s : State) (d : Hdr), (due s (.imageWrite d)) ∧ (served s d ⟨0x80, .imageWrite, true, false, 0⟩ true (cleanHdr d false false true)) ∧ (s.boot.writing.isSome = true))
    ∧ (∃ (s : State) (d : Hdr), (due s (.imageWrite d)) ∧ (served s d ⟨0x80, .imageWrite, true, false, 0⟩ true (cleanHdr d false false true)) ∧ (s.boot.writing = none) ∧ (s.trbWaits d = true))
    ∧ (∃ (s : State) (d : Hdr), (due s (.imageWrite d)) ∧ (served s d ⟨0x80, .imageWrite, true, false, 0⟩ true (cleanHdr d false false true)) ∧ (s.boot.writing = none) ∧ (s.trbWaits d = false) ∧ (d.buf = none))
    ∧ (∃ (s : State) (d : Hdr) (b : List Byte) (st : Nat), (st = (s.objCheck b imgMagic bodyMax).1) ∧ (due s (.imageWrite d)) ∧ (served s d ⟨0x80, .imageWrite, true, false, 0⟩ true (cleanHdr d false false true)) ∧ (s.boot.writing = none) ∧ (s.trbWaits d = false) ∧ (d.buf = some b))
    ∧ (∃ (s : State) (d : Hdr) (c : Nat) (b : List Byte) (ok : Bool), (s.boot.writing = some (d, c, b)) ∧ (c < 2) ∧ (s.trbError = true))
    ∧ (∃ (s : State) (d : Hdr) (c : Nat) (b : List Byte), (s.boot.writing = some (d, c, b)) ∧ (c < 2) ∧ (s.trbError = false))
    ∧ (∃ (s : State) (d : Hdr) (b : List Byte) (es : List CfgEnt) (seq : Nat), (es = (List.range (d.hlen / 16)).map (fun i => cfgEnt (slice b (16 * i) 16))) ∧ (seq = (s.rd .TRB_CFG_SEQ_cfg_seq [0] + 1) % 2 ^ 64) ∧ (due s (.cfgCommit d)) ∧ (served s d ⟨0x82, .config, true, false, 0⟩ true (cleanHdr d false false true)) ∧ (d.hlen % 16 = 0) ∧ (16 ≤ d.hlen) ∧ (d.hlen ≤ 65536) ∧ (d.buf = some b) ∧ (s.committing = true ∨ s.turnOf d [0x82] = false))
    ∧ (∃ (s : State) (d : Hdr) (b : List Byte) (es : List CfgEnt) (seq : Nat), (es = (List.range (d.hlen / 16)).map (fun i => cfgEnt (slice b (16 * i) 16))) ∧ (seq = (s.rd .TRB_CFG_SEQ_cfg_seq [0] + 1) % 2 ^ 64) ∧ (due s (.cfgCommit d)) ∧ (served s d ⟨0x82, .config, true, false, 0⟩ true (cleanHdr d false false true)) ∧ (d.hlen % 16 = 0) ∧ (16 ≤ d.hlen) ∧ (d.hlen ≤ 65536) ∧ (d.buf = some b) ∧ (s.committing = false) ∧ (s.turnOf d [0x82] = true) ∧ (es.all cfgNames = false))
    ∧ (∃ (s : State) (d : Hdr) (b : List Byte) (es : List CfgEnt) (seq : Nat), (es = (List.range (d.hlen / 16)).map (fun i => cfgEnt (slice b (16 * i) 16))) ∧ (seq = (s.rd .TRB_CFG_SEQ_cfg_seq [0] + 1) % 2 ^ 64) ∧ (8192 < (es.foldl cfgMerge s.store).length) ∧ (due s (.cfgCommit d)) ∧ (served s d ⟨0x82, .config, true, false, 0⟩ true (cleanHdr d false false true)) ∧ (d.hlen % 16 = 0) ∧ (16 ≤ d.hlen) ∧ (d.hlen ≤ 65536) ∧ (d.buf = some b) ∧ (s.committing = false) ∧ (s.turnOf d [0x82] = true) ∧ (es.all cfgNames = true))
    ∧ (∃ (s : State) (d : Hdr) (b : List Byte) (es : List CfgEnt) (seq : Nat), (es = (List.range (d.hlen / 16)).map (fun i => cfgEnt (slice b (16 * i) 16))) ∧ (seq = (s.rd .TRB_CFG_SEQ_cfg_seq [0] + 1) % 2 ^ 64) ∧ (due s (.cfgCommit d)) ∧ (served s d ⟨0x82, .config, true, false, 0⟩ true (cleanHdr d false false true)) ∧ (d.hlen % 16 = 0) ∧ (16 ≤ d.hlen) ∧ (d.hlen ≤ 65536) ∧ (d.buf = some b) ∧ (s.committing = false) ∧ (s.turnOf d [0x82] = true) ∧ (es.all cfgNames = true) ∧ ((es.foldl cfgMerge s.store).length ≤ 8192))
    ∧ (∃ (s : State) (d : Hdr), (due s (.cfgRead d)) ∧ (served s d ⟨0x83, .reads, false, false, 0⟩ true (cleanHdr d false false true)) ∧ (16 * s.store.length ≤ d.hlen) ∧ (d.buf.isSome = true))
    ∧ (∃ (s : State) (d : Hdr) (nonce : List Byte) (alg : Nat), (due s (.attest d nonce)) ∧ (d.buf.isSome = true) ∧ (served s d ⟨0x84, .reads, false, false, 0⟩ true (cleanHdr d false false true)) ∧ (7392 ≤ d.hlen) ∧ (s.trbWaits d = true))
    ∧ (∃ (s : State) (d : Hdr) (nonce : List Byte) (alg : Nat) (fails : Bool), (fails = Config.entropyFails s.fresh) ∧ (due s (.attest d nonce)) ∧ (d.buf.isSome = true) ∧ (served s d ⟨0x84, .reads, false, false, 0⟩ true (cleanHdr d false false true)) ∧ (7392 ≤ d.hlen) ∧ (s.trbWaits d = false) ∧ (s.trbError = false))
    ∧ (∃ (s : State) (d : Hdr) (nonce : List Byte) (alg : Nat), (due s (.attest d nonce)) ∧ (d.buf.isSome = true) ∧ (served s d ⟨0x84, .reads, false, false, 0⟩ true (cleanHdr d false false true)) ∧ (7392 ≤ d.hlen) ∧ (s.trbWaits d = false) ∧ (s.trbError = true))
    ∧ (∃ (s : State) (d : Hdr) (nonce : List Byte) (alg : Nat), ((Config.certChain alg).length ≤ d.hlen) ∧ (due s (.idCertRead d alg)) ∧ (d.buf.isSome = true) ∧ (served s d ⟨0x85, .reads, false, false, 0⟩ true (cleanHdr d false false true)) ∧ (alg < 2) ∧ (s.trbWaits d = false) ∧ (s.trbError = false))
    ∧ (∃ (s : State) (d : Hdr) (b : List Byte) (off : Bool) (fuseOk : Bool), (due s (.ownerEnroll d off fuseOk)) ∧ (served s d ⟨0x86, .enroll, true, false, 0⟩ true (cleanHdr d false false true)) ∧ (d.buf = some b) ∧ (s.rd .TRB_STAT_owner_enrolled [0] ≠ 0))
    ∧ (∃ (s : State) (d : Hdr) (b : List Byte) (off : Bool) (fuseOk : Bool), (due s (.ownerEnroll d off fuseOk)) ∧ (served s d ⟨0x86, .enroll, true, false, 0⟩ true (cleanHdr d false false true)) ∧ (d.buf = some b) ∧ (s.rd .TRB_STAT_owner_enrolled [0] = 0) ∧ (1984 ≤ d.hlen) ∧ (s.trbWaits d = false) ∧ (s.trbError = false) ∧ (fuseOk = true))
    ∧ (∃ (s : State) (d : Hdr) (b : List Byte) (off : Bool) (fuseOk : Bool), (due s (.ownerEnroll d off fuseOk)) ∧ (served s d ⟨0x86, .enroll, true, false, 0⟩ true (cleanHdr d false false true)) ∧ (d.buf = some b) ∧ (s.rd .TRB_STAT_owner_enrolled [0] = 0) ∧ (1984 ≤ d.hlen) ∧ (s.trbWaits d = false) ∧ (s.trbError = false) ∧ (fuseOk = false))
    ∧ (∃ (s : State) (d : Hdr) (fail : Nat) (alg : Nat), (due s (.trbSelftest d fail alg)) ∧ (served s d ⟨0x87, .reads, false, false, 0⟩ true (cleanHdr d false false false)) ∧ (s.trbWaits d = true))
    ∧ (∃ (s : State) (d : Hdr) (fail : Nat) (alg : Nat), (due s (.trbSelftest d fail alg)) ∧ (served s d ⟨0x87, .reads, false, false, 0⟩ true (cleanHdr d false false false)) ∧ (s.trbWaits d = false)) :=
  ⟨⟨{ hs [] with boot := { hosted.boot with writing := some (d0, 1, z 16) } }, (hd false false 0 0 (z 128)), dueOf rfl (by decide +kernel), by decide +kernel⟩,
   ⟨hs [(.TRB_STAT_testing, [0], 1)], (hd false false 0 0 (z 128)), dueOf rfl (by decide +kernel), by decide +kernel⟩,
   ⟨hosted, { hd false false 0 0 (z 128) with buf := none }, dueOf rfl (by decide +kernel), by decide +kernel⟩,
   ⟨hosted, (hd false false 0 0 (z 128)), z 128, (((hosted).objCheck (z 128) imgMagic bodyMax).1), rfl, dueOf rfl (by decide +kernel), by decide +kernel⟩,
   ⟨{ hs [(.TRB_STAT_error, [0], 1)] with boot := { hosted.boot with writing := some (d0, 1, z 16) } }, d0, 1, z 16, true, by decide +kernel⟩,
   ⟨{ hs [] with boot := { hosted.boot with writing := some (d0, 1, z 16) } }, d0, 1, z 16, by decide +kernel⟩,
   ⟨{ hosted with ras := { hosted.ras with steps := [⟨.cfg [], none, .E, 4, 100, true, false, false, false, 0⟩] } }, (hd false false 0 0 (leBytes 2 8 ++ leBytes 2 0 ++ leBytes 4 4096 ++ z 8)), leBytes 2 8 ++ leBytes 2 0 ++ leBytes 4 4096 ++ z 8, ((List.range (((hd false false 0 0 (leBytes 2 8 ++ leBytes 2 0 ++ leBytes 4 4096 ++ z 8))).hlen / 16)).map (fun i => cfgEnt (slice (leBytes 2 8 ++ leBytes 2 0 ++ leBytes 4 4096 ++ z 8) (16 * i) 16))), ((({ hosted with ras := { hosted.ras with steps := [⟨.cfg [], none, .E, 4, 100, true, false, false, false, 0⟩] } } : State).rd .TRB_CFG_SEQ_cfg_seq [0] + 1) % 2 ^ 64), rfl, rfl, dueOf rfl (by decide +kernel), by decide +kernel⟩,
   ⟨hosted, (hd false false 0 0 (z 128)), z 128, ((List.range (((hd false false 0 0 (z 128))).hlen / 16)).map (fun i => cfgEnt (slice (z 128) (16 * i) 16))), (((hosted).rd .TRB_CFG_SEQ_cfg_seq [0] + 1) % 2 ^ 64), rfl, rfl, dueOf rfl (by decide +kernel), by decide +kernel⟩,
   ⟨{ hs [] with boot := { hosted.boot with store0 := List.replicate 8192 ⟨0, 0, 0, false, 0⟩ } }, (hd false false 0 0 (leBytes 2 8 ++ leBytes 2 0 ++ leBytes 4 4096 ++ z 8)), leBytes 2 8 ++ leBytes 2 0 ++ leBytes 4 4096 ++ z 8, ((List.range (((hd false false 0 0 (leBytes 2 8 ++ leBytes 2 0 ++ leBytes 4 4096 ++ z 8))).hlen / 16)).map (fun i => cfgEnt (slice (leBytes 2 8 ++ leBytes 2 0 ++ leBytes 4 4096 ++ z 8) (16 * i) 16))), ((({ hs [] with boot := { hosted.boot with store0 := List.replicate 8192 ⟨0, 0, 0, false, 0⟩ } } : State).rd .TRB_CFG_SEQ_cfg_seq [0] + 1) % 2 ^ 64), rfl, rfl, merge_full _ (by decide +kernel), dueOf rfl (by decide +kernel), by decide +kernel⟩,
   ⟨hosted, (hd false false 0 0 (leBytes 2 8 ++ leBytes 2 0 ++ leBytes 4 4096 ++ z 8)), leBytes 2 8 ++ leBytes 2 0 ++ leBytes 4 4096 ++ z 8, ((List.range (((hd false false 0 0 (leBytes 2 8 ++ leBytes 2 0 ++ leBytes 4 4096 ++ z 8))).hlen / 16)).map (fun i => cfgEnt (slice (leBytes 2 8 ++ leBytes 2 0 ++ leBytes 4 4096 ++ z 8) (16 * i) 16))), (((hosted).rd .TRB_CFG_SEQ_cfg_seq [0] + 1) % 2 ^ 64), rfl, rfl, dueOf rfl (by decide +kernel), by decide +kernel⟩,
   ⟨hosted, (hd false false 0 0 (z 128)), dueOf rfl (by decide +kernel), by decide +kernel⟩,
   ⟨hs [(.TRB_STAT_testing, [0], 1)], { hd false false 0 0 (z 128) with hlen := 7392 }, [], 0, dueOf rfl (by decide +kernel), by decide +kernel⟩,
   ⟨hosted, { hd false false 0 0 (z 128) with hlen := 7392 }, [], 0, (Config.entropyFails (hosted).fresh), rfl, dueOf rfl (by decide +kernel), by decide +kernel⟩,
   ⟨hs [(.TRB_STAT_error, [0], 1)], { hd false false 0 0 (z 128) with hlen := 7392 }, [], 0, dueOf rfl (by decide +kernel), by decide +kernel⟩,
   ⟨hosted, { hd false false 0 0 (z 128) with hlen := (Config.certChain 1).length }, [], 1, Nat.le_refl _, dueOf rfl (by decide +kernel), by decide +kernel⟩,
   ⟨hs [(.TRB_STAT_owner_enrolled, [0], 1)], (hd false false 0 0 (z 128)), z 128, false, false, dueOf rfl (by decide +kernel), by decide +kernel⟩,
   ⟨hosted, { hd false false 0 0 (z 128) with hlen := 1984 }, z 128, false, true, dueOf rfl (by decide +kernel), by decide +kernel⟩,
   ⟨hosted, { hd false false 0 0 (z 128) with hlen := 1984 }, z 128, false, false, dueOf rfl (by decide +kernel), by decide +kernel⟩,
   ⟨hs [(.TRB_STAT_testing, [0], 1)], d0, 0, 0, dueOf rfl (by decide +kernel), by decide +kernel⟩,
   ⟨hosted, d0, 0, 0, dueOf rfl (by decide +kernel), by decide +kernel⟩⟩

/-- The cases of SuppliesAndTemperature can be met. -/
theorem test_witness_SuppliesAndTemperature :
    (∃ (s : State), (s.pkg.valid ≠ 0x1FF))
    ∧ (∃ (s : State) (rail : Nat), (rail < 9))
    ∧ (∃ (s : State) (rail : Nat), (rail < 9) ∧ (bit s.pkg.valid rail = true))
    ∧ (∃ (s : State) (east : Int) (west : Int) (tiles : Int) (top : Int) (fault : Bool), (top = max (max east west) tiles) ∧ (s.thermOn = true))
    ∧ (∃ (s : State) (a : Nat), (s.pkg.hotSince = some a))
    ∧ (∃ (s : State) (h : Half) (goal : Nat) (v : Nat), (goal = s.avsGoal h) ∧ (v = s.rd .SYS_AVS_v_target [0, h.n]) ∧ (s.pkg.resetEnded = true) ∧ (s.rd .SYS_AVS_avs_err [0, h.n] = 0) ∧ (v ≠ goal))
    ∧ (∃ (s : State) (h : Half) (mv : Nat) (amps : Nat), (s.pkg.resetEnded = true))
    ∧ (∃ (s : State) (east : Int) (west : Int) (tiles : Int) (fault : Bool), (s.thermOn = false)) :=
  ⟨⟨State.reset, by decide +kernel⟩,
   ⟨hosted, 8, by decide +kernel⟩,
   ⟨{ hosted with pkg := { hosted.pkg with valid := 511 } }, 8, by decide +kernel⟩,
   ⟨{ hosted with pkg := { hosted.pkg with valid := 511 } }, -5, 3, 2, 3, false, by decide +kernel⟩,
   ⟨{ hosted with pkg := { hosted.pkg with hotSince := some 9 } }, 9, by decide +kernel⟩,
   ⟨{ hosted with regs := [([Fld.SYS_AVS_v_fuse.ctorIdx, 0, 1], 10)], pkg := { hosted.pkg with resetEnded := true } }, Half.W, (({ hosted with regs := [([Fld.SYS_AVS_v_fuse.ctorIdx, 0, 1], 10)], pkg := { hosted.pkg with resetEnded := true } } : State).avsGoal (Half.W)), (({ hosted with regs := [([Fld.SYS_AVS_v_fuse.ctorIdx, 0, 1], 10)], pkg := { hosted.pkg with resetEnded := true } } : State).rd .SYS_AVS_v_target [0, (Half.W).n]), rfl, rfl, by decide +kernel⟩,
   ⟨{ hs [] with pkg := { hosted.pkg with resetEnded := true } }, Half.W, 0, 0, by decide +kernel⟩,
   ⟨State.reset, -5, 3, 2, false, by decide +kernel⟩⟩

/-- The cases of SidebandAndJtag can be met. -/
theorem test_witness_SidebandAndJtag :
    (∃ (s : State), (s.pkg.resetEnded = true))
    ∧ (∃ (s : State), (s.pkg.resetEnded = true) ∧ (s.pkg.alertN = false))
    ∧ (∃ (s : State), (s.pkg.resetEnded = true) ∧ (s.pkg.alertN = true))
    ∧ (∃ (s : State) (c : Instr), (s.pkg.resetEnded = false) ∧ (c ∈ [.caps, .ident, .mode, .boot, .temp, .alarm, .supply, .power, .alertResponse]))
    ∧ (∃ (s : State) (wr : Byte) (rd : Byte) (c : Instr) (code : Nat), (wr = byteOf (2 * (0x60 + s.rd .SYS_STRAP_sba [0]))) ∧ (rd = byteOf (2 * (0x60 + s.rd .SYS_STRAP_sba [0]) + 1)) ∧ (s.pkg.resetEnded = true) ∧ ((c, code) ∈ [(Instr.caps, 0), (.mode, 2), (.temp, 4), (.alarm, 5), (.supply, 6), (.power, 7)]))
    ∧ (∃ (s : State) (wr : Byte) (rd : Byte) (c : Instr) (code : Nat), (wr = byteOf (2 * (0x60 + s.rd .SYS_STRAP_sba [0]))) ∧ (rd = byteOf (2 * (0x60 + s.rd .SYS_STRAP_sba [0]) + 1)) ∧ (s.pkg.resetEnded = true) ∧ ((c, code) ∈ [(Instr.ident, 1), (.boot, 3)]))
    ∧ (∃ (s : State) (wr : Byte) (rd : Byte) (code : Nat), (wr = byteOf (2 * (0x60 + s.rd .SYS_STRAP_sba [0]))) ∧ (rd = byteOf (2 * (0x60 + s.rd .SYS_STRAP_sba [0]) + 1)) ∧ (s.pkg.resetEnded = true) ∧ (7 < code))
    ∧ (∃ (s : State) (out : Nat → Option Nat), ((∀ v, out v = if s.pkg.resetEnded then some v else none)))
    ∧ (∃ (s : State) (out : Nat → Option Nat) (c : Instr) (ir : Nat), ((∀ v, out v = if s.pkg.resetEnded then some v else none)) ∧ ((c, ir) ∈ [(Instr.extest, irExtest), (.extestPulse, irPulse), (.extestTrain, irTrain)]) ∧ (s.mode = 1))
    ∧ (∃ (s : State) (out : Nat → Option Nat), ((∀ v, out v = if s.pkg.resetEnded then some v else none)) ∧ (s.mode = 1))
    ∧ (∃ (s : State) (out : Nat → Option Nat) (c : Instr), ((∀ v, out v = if s.pkg.resetEnded then some v else none)) ∧ (c ∈ [Instr.extest, .extestPulse, .extestTrain, .highz, .clamp]) ∧ (s.mode ≠ 1)) :=
  ⟨⟨{ hs [] with pkg := { hosted.pkg with resetEnded := true } }, by decide +kernel⟩,
   ⟨{ hs [] with pkg := { hosted.pkg with resetEnded := true, alertN := false } }, by decide +kernel⟩,
   ⟨{ hs [] with pkg := { hosted.pkg with resetEnded := true, alertN := true } }, by decide +kernel⟩,
   ⟨State.reset, .alertResponse, by decide +kernel⟩,
   ⟨hosted, (byteOf (2 * (0x60 + (hosted).rd .SYS_STRAP_sba [0]))), (byteOf (2 * (0x60 + (hosted).rd .SYS_STRAP_sba [0]) + 1)), Instr.power, 7, rfl, rfl, by decide +kernel⟩,
   ⟨hosted, (byteOf (2 * (0x60 + (hosted).rd .SYS_STRAP_sba [0]))), (byteOf (2 * (0x60 + (hosted).rd .SYS_STRAP_sba [0]) + 1)), Instr.boot, 3, rfl, rfl, by decide +kernel⟩,
   ⟨hosted, (byteOf (2 * (0x60 + (hosted).rd .SYS_STRAP_sba [0]))), (byteOf (2 * (0x60 + (hosted).rd .SYS_STRAP_sba [0]) + 1)), 8, rfl, rfl, by decide +kernel⟩,
   ⟨hosted, fun v => if (hosted).pkg.resetEnded then some v else none, fun _ => rfl⟩,
   ⟨hs [(.SYS_MODE_mode, [0], 1)], fun v => if (hs [(.SYS_MODE_mode, [0], 1)]).pkg.resetEnded then some v else none, Instr.extestTrain, irTrain, fun _ => rfl, by decide +kernel⟩,
   ⟨hs [(.SYS_MODE_mode, [0], 1)], fun v => if (hs [(.SYS_MODE_mode, [0], 1)]).pkg.resetEnded then some v else none, fun _ => rfl, by decide +kernel⟩,
   ⟨hosted, fun v => if (hosted).pkg.resetEnded then some v else none, Instr.clamp, fun _ => rfl, by decide +kernel⟩⟩

/-- The cases of StepRunsTheFrontCommand can be met. -/
theorem test_witness_StepRunsTheFrontCommand :
    (∃ (s : State), (s.pending = []) ∧ (s.host.flr = []) ∧ (s.host.late = []) ∧ (s.fdb.portDue = []) ∧ (s.tel.histDue = []))
    ∧ (∃ (s : State) (fn : Nat), (s.pending = []) ∧ (s.host.flr = [fn]) ∧ (s.host.late = []) ∧ (s.fdb.portDue = []) ∧ (s.tel.histDue = []) ∧ (fn < 65) ∧ ((∀ x ∈ s.host.taken, x.hdr.fn ≠ fn))) :=
  ⟨⟨hosted, by decide +kernel⟩,
   ⟨{ hosted with host := { hosted.host with flr := [3] } }, 3, by decide +kernel⟩⟩

/-- The cases of PinsFollowKeptByEveryStep can be met. -/
theorem test_witness_PinsFollowKeptByEveryStep :
    (∃ (s : State) (t : State), (s.pinsFollow) ∧ (step s = .next t)) :=
  ⟨State.reset, _, by unfold State.pinsFollow; decide +kernel, rfl⟩

/-- The cases of CompletionCarriesThePhaseBit can be met. -/
theorem test_witness_CompletionCarriesThePhaseBit :
    (∃ (s : State) (fn : Nat) (r : Nat) (n : Nat) (size : Nat) (phase : Nat) (pa : Nat) (pb : Nat) (ent : List Byte) (sig : Bool), (n = s.rd .HST_RING_STAT_dev_idx [fn, r]) ∧ (size = s.ringSize fn r) ∧ (phase = (n / size) % 2 ^^^ 1) ∧ (pa < ent.length) ∧ (pb < 8) ∧ (bit (byteAt ent pa) pb = false))
    ∧ (∃ (s : State) (fn : Nat) (r : Nat) (n : Nat) (size : Nat) (phase : Nat) (pa : Nat) (pb : Nat) (ent : List Byte) (sig : Bool), (n = s.rd .HST_RING_STAT_dev_idx [fn, r]) ∧ (size = s.ringSize fn r) ∧ (phase = (n / size) % 2 ^^^ 1) ∧ (pa < ent.length) ∧ (pb < 8) ∧ (bit (byteAt ent pa) pb = false) ∧ (n < size))
    ∧ (∃ (s : State) (d : Hdr) (n : Nat) (size : Nat) (phase : Nat), (n = s.rd .HST_RING_STAT_dev_idx [d.fn, d.ring + 4]) ∧ (size = s.ringSize d.fn (d.ring + 4)) ∧ (phase = (n / size) % 2 ^^^ 1) ∧ (due s (.nop d)) ∧ (served s d ⟨0x01, .any, false, true, 0⟩ true (cleanHdr d false false false)) ∧ (s.routineUp (s.ringHalf d) 8 = true) ∧ (s.xingBusy (s.ringHalf d) 5 0 = false) ∧ (s.host.late = []) ∧ (s.on .HST_RING_CFG_en [d.fn, d.ring + 4] = true) ∧ (s.host.voidC.any (fun x => sameHdr x d) = false)) :=
  ⟨⟨hR [], 0, 4, 0, 64, 1, 15, 7, z 16, false, by decide +kernel⟩,
   ⟨hR [], 0, 4, 0, 64, 1, 15, 7, z 16, false, by decide +kernel⟩,
   ⟨hR [], d0, ((hR []).rd .HST_RING_STAT_dev_idx [(d0).fn, (d0).ring + 4]), ((hR []).ringSize (d0).fn ((d0).ring + 4)), ((((hR []).rd .HST_RING_STAT_dev_idx [(d0).fn, (d0).ring + 4]) / ((hR []).ringSize (d0).fn ((d0).ring + 4))) % 2 ^^^ 1), rfl, rfl, rfl, dueOf rfl (by decide +kernel), by decide +kernel⟩⟩

end Sys2Proof.Tests
end

/-!
SUPPORT. Register accesses of a host: the register table, the fields of a register under a write or a read, the per-copy entries of R479, and the state after reset. The two statements of this family stand at the end.
-/

namespace Sys2Proof.Machine

/-! ## The register table -/

/-- Each field of a register lies within it. -/
theorem Reg.field_fits {r : Reg} {f : Fld} (h : f ∈ r.fields) : 0 < f.info.w ∧ f.info.lo + f.info.w ≤ r.info.width := by
  have table : ∀ g ∈ r.fields, 0 < g.info.w ∧ g.info.lo + g.info.w ≤ r.info.width := by cases r <;> decide
  exact table f h

theorem Reg.field_reg {r : Reg} {f : Fld} (h : f ∈ r.fields) : f.info.reg = r := by
  have table : ∀ g ∈ r.fields, g.info.reg = r := by cases r <;> decide
  exact table f h

theorem Reg.fields_nodup (r : Reg) : r.fields.Nodup := by
  cases r <;> decide

/-! ## Pieces and fields -/

theorem bits_mod_of_le (v : Nat) {lo w n : Nat} (h : lo + w ≤ n) : bits (v % 2 ^ n) lo w = bits v lo w := by
  obtain ⟨k, rfl⟩ := Nat.exists_eq_add_of_le (show lo ≤ n by omega)
  unfold bits
  rw [pow_add, Nat.mod_mul_right_div_self, Nat.mod_mod_of_dvd _ (pow_dvd_pow 2 (by omega))]

@[simp] theorem bits_mod_self (v lo w : Nat) : bits v lo w % 2 ^ w = bits v lo w := Nat.mod_mod ..

@[simp] theorem putBits_mod (a w x : Nat) : putBits a 0 w x % 2 ^ w = x % 2 ^ w := by
  simp [putBits, Nat.mod_one]

theorem putBits_of_lt {a w : Nat} (x : Nat) (h : a < 2 ^ w) : putBits a 0 w x = x % 2 ^ w := by
  simp [putBits, Nat.mod_one, Nat.div_eq_of_lt h]

/-- The piece that a write of a whole register carries. -/
def Reg.whole (r : Reg) (value : Nat) : Piece := (0, r.info.width, value % 2 ^ r.info.width)

/-- A write of a whole register covers every field of it whole. -/
theorem Reg.part_whole {r : Reg} {f : Fld} (value : Nat) (h : f ∈ r.fields) :
    f.part (r.whole value) = some (0, f.info.w, bits value f.info.lo f.info.w) := by
  obtain ⟨hw, hr⟩ := Reg.field_fits h
  have hb : min (f.info.lo + f.info.w) r.info.width = f.info.lo + f.info.w := by omega
  simp [Fld.part, Reg.whole, hb, bits_mod_of_le value hr, show f.info.w ≠ 0 by omega]

/-- What a write of a whole register gives an RW field: the field's bits, over the value last written. -/
def State.rwWrite (s : State) (ix : List Nat) (value : Nat) (f : Fld) : Nat :=
  putBits (s.lastW f ix) 0 f.info.w (bits value f.info.lo f.info.w)

@[simp] theorem rwWrite_mod (s : State) (ix : List Nat) (value : Nat) (f : Fld) :
    s.rwWrite ix value f % 2 ^ f.info.w = bits value f.info.lo f.info.w := by
  simp [State.rwWrite]

/-- A write of a whole register gives every RW field of it a value (R9). -/
theorem rwNew_whole (s : State) (r : Reg) (ix : List Nat) (value : Nat) :
    s.rwNew r ix [r.whole value] = (r.fields.filter (fun f => f.info.acc = .RW)).map (fun f => (f, ix, s.rwWrite ix value f)) := by
  rw [← List.filterMap_eq_map, List.filterMap_filter]
  refine List.filterMap_congr fun f hf => ?_
  by_cases ha : f.info.acc = .RW <;> simp [ha, Reg.part_whole value hf, State.rwWrite]

/-- What each 1 of a write of a whole register does to a W1C or W1S field: `m` holds the field's bits of the write (R9). -/
def State.oneField (s : State) (ix : List Nat) (f : Fld) (m : Nat) : State :=
  match f.info.acc with
  | .W1C => s.st f ix (s.rd f ix ^^^ (s.rd f ix &&& m))
  | .W1S => s.st f ix (s.rd f ix ||| m)
  | _ => s

theorem oneBits_whole (s : State) (r : Reg) (ix : List Nat) (value : Nat) :
    s.oneBits r ix [r.whole value] = r.fields.foldl (fun s f => s.oneField ix f (bits value f.info.lo f.info.w)) s := by
  unfold State.oneBits
  refine List.foldl_ext _ _ _ fun t f hf => ?_
  simp only [List.filterMap_cons, Reg.part_whole value hf, List.filterMap_nil, List.foldl_cons, List.foldl_nil, pow_zero, mul_one]
  rfl

/-! ## Register fields written in order -/

/-- Fields of one element set in order, each to a value of its own. -/
theorem rd_sts_map (l : List Fld) (v : Fld → Nat) (s : State) (f : Fld) (ix jx : List Nat) :
    (s.sts (l.map (fun g => (g, ix, v g)))).rd f jx = if f ∈ l ∧ jx = ix then v f % 2 ^ f.info.w else s.rd f jx := by
  induction l generalizing s with
  | nil => simp [State.sts]
  | cons g l ih =>
    have step : s.sts ((g :: l).map (fun g => (g, ix, v g))) = (s.st g ix (v g)).sts (l.map (fun g => (g, ix, v g))) := rfl
    rw [step, ih, rd_st]
    by_cases hj : jx = ix <;> by_cases hg : f = g <;> simp_all

theorem partsBut_sts (s : State) (ws : List (Fld × List Nat × Nat)) : partsBut [] s (s.sts ws) :=
  partsBut_foldl (fun t w => partsBut_st (partsBut_refl _ t) w.1 w.2.1 w.2.2) ws (partsBut_refl _ s)

/-- A field outside W1C and W1S takes no part in a write of 1s. -/
theorem oneField_of_plain {f : Fld} (hc : f.info.acc ≠ .W1C) (hs : f.info.acc ≠ .W1S) (s : State) (ix : List Nat) (m : Nat) : s.oneField ix f m = s := by
  unfold State.oneField
  split
  · exact absurd ‹_› hc
  · exact absurd ‹_› hs
  · rfl

theorem oneField_of_w1c {f : Fld} (hc : f.info.acc = .W1C) (s : State) (ix : List Nat) (m : Nat) :
    s.oneField ix f m = s.st f ix (s.rd f ix ^^^ (s.rd f ix &&& m)) := by
  simp [State.oneField, hc]

theorem rd_oneField_of_ne {f g : Fld} {ix jx : List Nat} (h : g ≠ f ∨ jx ≠ ix) (s : State) (m : Nat) : (s.oneField ix f m).rd g jx = s.rd g jx := by
  have hn : ¬ (g = f ∧ jx = ix) := by tauto
  unfold State.oneField
  split
  · rw [rd_st, if_neg hn]
  · rw [rd_st, if_neg hn]
  · rfl

theorem partsBut_oneField (s : State) (ix : List Nat) (f : Fld) (m : Nat) : partsBut [] s (s.oneField ix f m) := by
  unfold State.oneField
  split
  · exact partsBut_st (partsBut_refl _ s) _ _ _
  · exact partsBut_st (partsBut_refl _ s) _ _ _
  · exact partsBut_refl _ s

/-- Writes of 1s to other fields, or at another element, leave a field as it is. -/
theorem rd_foldl_oneField_of_ne {f : Fld} {l : List Fld} {ix jx : List Nat} (h : f ∉ l ∨ jx ≠ ix) (m : Fld → Nat) (s : State) :
    (l.foldl (fun s g => s.oneField ix g (m g)) s).rd f jx = s.rd f jx := by
  induction l generalizing s with
  | nil => rfl
  | cons g l ih =>
    rw [List.foldl_cons, ih (h.imp_left (List.not_mem_of_not_mem_cons ·)), rd_oneField_of_ne (h.imp_left (List.ne_of_not_mem_cons ·))]

/-- Each field receives its own write of 1s. -/
theorem rd_foldl_oneField_self {f : Fld} {l : List Fld} (hd : l.Nodup) (hf : f ∈ l) (ix : List Nat) (m : Fld → Nat) (s : State) :
    (l.foldl (fun s g => s.oneField ix g (m g)) s).rd f ix = (s.oneField ix f (m f)).rd f ix := by
  induction l generalizing s with
  | nil => simp at hf
  | cons g l ih =>
    obtain ⟨hg, hl⟩ := List.nodup_cons.1 hd
    rw [List.foldl_cons]
    rcases List.mem_cons.1 hf with rfl | hf
    · exact rd_foldl_oneField_of_ne (.inl hg) m _
    · have hne : f ≠ g := fun e => hg (e ▸ hf)
      rw [ih hl hf]
      have same : (s.oneField ix g (m g)).rd f ix = s.rd f ix := rd_oneField_of_ne (.inl hne) s _
      unfold State.oneField at same ⊢
      split <;> simp_all

theorem rd_oneBits_of_ne {r : Reg} {f : Fld} {ix jx : List Nat} (h : f ∉ r.fields ∨ jx ≠ ix) (s : State) (value : Nat) :
    (s.oneBits r ix [r.whole value]).rd f jx = s.rd f jx := by
  rw [oneBits_whole]
  exact rd_foldl_oneField_of_ne h (fun g => bits value g.info.lo g.info.w) s

theorem rd_oneBits_of_plain {f : Fld} (hc : f.info.acc ≠ .W1C) (hs : f.info.acc ≠ .W1S) (s : State) (r : Reg) (ix jx : List Nat) (value : Nat) :
    (s.oneBits r ix [r.whole value]).rd f jx = s.rd f jx := by
  by_cases hf : f ∈ r.fields ∧ jx = ix
  · obtain ⟨hf, rfl⟩ := hf
    rw [oneBits_whole, rd_foldl_oneField_self r.fields_nodup hf jx (fun g => bits value g.info.lo g.info.w), oneField_of_plain hc hs]
  · exact rd_oneBits_of_ne (by tauto) s value

/-- Each 1 of a write clears its bit of a W1C field (R9). -/
theorem rd_oneBits_of_w1c {r : Reg} {f : Fld} (hf : f ∈ r.fields) (hc : f.info.acc = .W1C) (s : State) (ix : List Nat) (value : Nat) :
    (s.oneBits r ix [r.whole value]).rd f ix = (s.rd f ix ^^^ (s.rd f ix &&& bits value f.info.lo f.info.w)) % 2 ^ f.info.w := by
  rw [oneBits_whole, rd_foldl_oneField_self r.fields_nodup hf ix (fun g => bits value g.info.lo g.info.w), oneField_of_w1c hc, rd_st_self]

theorem partsBut_oneBits (s : State) (r : Reg) (ix : List Nat) (value : Nat) : partsBut [] s (s.oneBits r ix [r.whole value]) := by
  rw [oneBits_whole]
  exact partsBut_foldl (fun t f => partsBut_oneField t ix f _) _ (partsBut_refl _ s)

/-! ## What follows a write: the other instances, groups, and the exporter -/

/-- What a write owes to other instances changes no part but the mirror's. -/
theorem partsBut_spread (s : State) (r : Reg) (ix : List Nat) (ws : List (Fld × List Nat × Nat)) : partsBut [.ras] s (s.spread r ix ws) := by
  have owed : ∀ x, partsBut [.ras] s { s with ras := x } := partsBut_set_ras (partsBut_refl _ s) (by simp)
  unfold State.spread
  exact partsBut_ite _ (partsBut_refl _ s) (partsBut_ite _ (partsBut_ite _ (owed _) (partsBut_st (partsBut_refl _ s) _ _ _))
    (partsBut_ite _ (owed _) (partsBut_refl _ s)))

/-- The one field that the spread of a write sets is `mirror_split`, which belongs to a register without mirrors (R398). -/
theorem rd_spread (s : State) {r : Reg} {f : Fld} (h : f = .RAS_OWN_STAT_mirror_split → r.info.mirrored = false) (ix jx : List Nat)
    (ws : List (Fld × List Nat × Nat)) : (s.spread r ix ws).rd f jx = s.rd f jx := by
  unfold State.spread
  dsimp only
  split
  · rfl
  · split
    · split
      · rfl
      · rename_i hm _
        rw [rd_st_of_ne]
        intro e
        simp [h e] at hm
    · split <;> rfl

theorem mirrored_of_mirror_split_mem {r : Reg} {f : Fld} (hf : f ∈ r.fields) (e : f = .RAS_OWN_STAT_mirror_split) : r.info.mirrored = false := by
  rw [← Reg.field_reg hf, e]
  rfl

/-- The registers whose write starts work elsewhere: thresholds, the use of the ingress pools, an engine's restart (R139, R289, R305). -/
def followedRegs : List Reg := [.PMC_CNT, .PMC_THRESH, .BUF_PG_CFG, .CLV_ENG_CTL]

/-- Of the other registers, a queue's groups and the exporter's target have an effect that follows the write (R165, R275). -/
theorem afterPut_cases (s : State) {r : Reg} (ix : List Nat) (ws : List (Fld × List Nat × Nat))
    (hr : r ∉ followedRegs) :
    s.afterPut r ix ws = s
      ∨ (r = .TMG_Q_CFG ∧ ∃ h k, s.afterPut r ix ws = s.groupsClear h k)
      ∨ (r = .TEL_EXP_CFG ∧ ∃ h, s.afterPut r ix ws = s.telDrain h) := by
  unfold State.afterPut
  split
  iterate 3 exact absurd (by decide) hr
  · exact .inr (.inl ⟨rfl, _, _, rfl⟩)
  · exact .inr (.inr ⟨rfl, _, rfl⟩)
  · exact absurd (by decide) hr
  · exact .inl rfl

theorem regs_deficitClear (s : State) (k : List Nat) : (s.deficitClear k).regs = s.regs := by
  unfold State.deficitClear
  split <;> rfl

theorem partsBut_deficitClear (s : State) (k : List Nat) : partsBut [.sched] s (s.deficitClear k) :=
  partsBut_ite _ (partsBut_set_sched (partsBut_refl _ s) (by simp) _) (partsBut_refl _ s)

theorem partsBut_groupsClear (s : State) (h : Half) (k : Nat) : partsBut [.sched] s (s.groupsClear h k) :=
  partsBut_foldl (fun t _ => partsBut_ite _ (partsBut_deficitClear t _) (partsBut_refl _ t)) _ (partsBut_refl _ s)

@[simp] theorem rd_groupsClear (s : State) (h : Half) (k : Nat) (f : Fld) (ix : List Nat) : (s.groupsClear h k).rd f ix = s.rd f ix := by
  refine List.foldlRecOn (motive := fun t : State => t.rd f ix = s.rd f ix) _ _ rfl fun t ht g _ => ?_
  split
  · exact (rd_congr (regs_deficitClear t _) f ix).trans ht
  · exact ht

namespace Reports

theorem writeBack {s t : State} (h : Reports s t) (fn r : Nat) : Reports s (t.writeBack fn r) := by
  unfold State.writeBack
  exact ite _ h ((h.hostWrite _ _).signal _ _)

end Reports

/-- A record that leaves the exporter's FIFO is written to the ring, which reports it, or counted lost (R275). -/
theorem telRing_cases (s : State) (h : Half) (rec : List Byte) : s.telRing h rec = s.bump .TEL_CNT_v [h.n, 1] 1 ∨ Reports s (s.telRing h rec) := by
  unfold State.telRing
  dsimp only
  split
  · exact .inl rfl
  · exact .inr ((((Reports.refl s).hostWrite _ _).then_st (by rfl)).writeBack _ _)

theorem partsBut_telRing (s : State) (h : Half) (rec : List Byte) : partsBut [.tel] s (s.telRing h rec) := by
  rcases telRing_cases s h rec with e | e
  · exact e ▸ partsBut_bump (partsBut_refl _ s) _ _ _
  · exact fun p _ => e.parts p

theorem fieldsBut_telRing (s : State) (h : Half) (rec : List Byte) : fieldsBut [.TEL_EXP_STAT_fifo, .TEL_CNT_v] s (s.telRing h rec) := by
  rcases telRing_cases s h rec with e | e
  · exact e ▸ fieldsBut_bump (fieldsBut_refl _ s) (by simp)
  · exact fun f ix _ hr => e.rd f ix hr

theorem partsBut_setExpFifo (s : State) (h : Half) (q : List (List Byte)) : partsBut [.tel] s (s.setExpFifo h q) := by
  cases h <;> exact partsBut_st (partsBut_set_tel (partsBut_refl _ s) (by simp) _) _ _ _

theorem fieldsBut_setExpFifo (s : State) (h : Half) (q : List (List Byte)) : fieldsBut [.TEL_EXP_STAT_fifo, .TEL_CNT_v] s (s.setExpFifo h q) := by
  cases h <;> exact fieldsBut_st (fieldsBut_set_tel (fieldsBut_refl _ s) _) (by simp)

theorem partsBut_telDrain (s : State) (h : Half) : partsBut [.tel] s (s.telDrain h) :=
  partsBut_ite _ (partsBut_refl _ s) (partsBut_foldl (fun t r => partsBut_telRing t h r) _ (partsBut_setExpFifo s h []))

theorem fieldsBut_telDrain (s : State) (h : Half) : fieldsBut [.TEL_EXP_STAT_fifo, .TEL_CNT_v] s (s.telDrain h) :=
  fieldsBut_ite _ (fieldsBut_refl _ s) (fieldsBut_foldl (fun t r => fieldsBut_telRing t h r) _ (fieldsBut_setExpFifo s h []))

/-- The exporter's own register keeps its fields while the records leave (R275). -/
theorem rd_telDrain_of_cfg (s : State) (h : Half) {f : Fld} (hf : f ∈ Reg.TEL_EXP_CFG.fields) (ix : List Nat) : (s.telDrain h).rd f ix = s.rd f ix := by
  have hr : reported f ix = false := by
    simp only [Reg.fields, List.mem_cons, List.not_mem_nil, or_false] at hf
    rcases hf with rfl | rfl | rfl | rfl | rfl <;> rfl
  refine fieldsBut_telDrain s h f ix (fun hx => ?_) hr
  have table : ∀ g ∈ Reg.TEL_EXP_CFG.fields, g ∉ [Fld.TEL_EXP_STAT_fifo, .TEL_CNT_v] := by decide
  exact table f hf hx

/-! ## A write of a whole register that has no rule of its own -/

/-- The registers whose writes go by rules of their own, and those that a change of counters or engines follows. -/
def specialRegs : List Reg :=
  [.FDB_SEED, .HST_DB, .HST_RING_CFG, .HST_RING_BASE, .HST_RING_WB, .TEL_HIST_CFG, .RAS_OWN_CLAIM, .RAS_XRST, .PMC_CNT, .PMC_THRESH, .CLV_ENG_CTL]

/-- The parts that a plain write of a register changes. -/
def Reg.putParts (r : Reg) : List Part := if r = .TMG_Q_CFG then [.ras, .sched] else if r = .TEL_EXP_CFG then [.ras, .tel] else [.ras]

/-- The fields that a plain write of a register changes beside its own and `mirror_split`. -/
def Reg.putFlds (r : Reg) : List Fld := if r = .TEL_EXP_CFG then [.TEL_EXP_STAT_fifo, .TEL_CNT_v] else []

/-- A write of the RW fields and of the 1s of a register, spread to its other instances (R9, R43, R473). -/
def State.putFields (s : State) (r : Reg) (ix : List Nat) (p : Piece) : State :=
  ((s.sts (s.rwNew r ix [p])).oneBits r ix [p]).spread r ix (s.rwNew r ix [p])

/-- A write of a register without a rule of its own, and what follows it. -/
def State.plainPut (s : State) (r : Reg) (ix : List Nat) (p : Piece) : State := (s.putFields r ix p).afterPut r ix (s.rwNew r ix [p])

/-- The entry is not one of R479 that a program in use protects. -/
def State.unheld (s : State) (r : Reg) (ix : List Nat) : Prop := copyFlag r = none ∨ ∃ i c, ix = [i, c] ∧ s.copyHeld c = false

theorem regPut_plain {s : State} {r : Reg} {ix : List Nat} (p : Piece) (hu : s.unheld r ix) (hb : r.info.blk ≠ 10) (hr : r ∉ specialRegs) :
    s.regPut r ix [p] = s.plainPut r ix p := by
  unfold State.regPut
  extract_lets v ws plain held
  have hh : held = none := by
    rcases hu with hu | ⟨i, c, rfl, hc⟩
    · dsimp only [held]
      split <;> simp [hu]
    · simp [held, hc]
  rw [hh]
  dsimp only
  split
  iterate 3 exact absurd rfl hb
  iterate 6 exact absurd (by decide) hr
  · rw [if_neg hb]
    rfl

section
variable (s : State) {r : Reg} (ix : List Nat) (value : Nat)

theorem partsBut_putFields : partsBut [.ras] s (s.putFields r ix (r.whole value)) :=
  partsBut_trans (partsBut_mono (partsBut_trans (partsBut_sts s _) (partsBut_oneBits _ r ix value)) (by simp)) (partsBut_spread _ r ix _)

theorem rd_sts_rwNew (f : Fld) (jx : List Nat) :
    (s.sts (s.rwNew r ix [r.whole value])).rd f jx
      = if f ∈ r.fields ∧ f.info.acc = .RW ∧ jx = ix then bits value f.info.lo f.info.w else s.rd f jx := by
  rw [rwNew_whole, rd_sts_map, rwWrite_mod]
  simp [and_assoc]

theorem rd_putFields_of_rw {f : Fld} (hf : f ∈ r.fields) (ha : f.info.acc = .RW) :
    (s.putFields r ix (r.whole value)).rd f ix = bits value f.info.lo f.info.w := by
  unfold State.putFields
  rw [rd_spread _ (mirrored_of_mirror_split_mem hf), rd_oneBits_of_plain (by simp [ha]) (by simp [ha]), rd_sts_rwNew, if_pos ⟨hf, ha, rfl⟩]

theorem rd_putFields_of_w1c {f : Fld} (hf : f ∈ r.fields) (ha : f.info.acc = .W1C) :
    (s.putFields r ix (r.whole value)).rd f ix = (s.rd f ix ^^^ (s.rd f ix &&& bits value f.info.lo f.info.w)) % 2 ^ f.info.w := by
  unfold State.putFields
  rw [rd_spread _ (mirrored_of_mirror_split_mem hf), rd_oneBits_of_w1c hf ha, rd_sts_rwNew, if_neg (by simp [ha])]

theorem rd_putFields_of_readOnly {f : Fld} (hf : f ∈ r.fields) (ha : f.info.acc ≠ .RW) (hc : f.info.acc ≠ .W1C) (hs : f.info.acc ≠ .W1S) :
    (s.putFields r ix (r.whole value)).rd f ix = s.rd f ix := by
  unfold State.putFields
  rw [rd_spread _ (mirrored_of_mirror_split_mem hf), rd_oneBits_of_plain hc hs, rd_sts_rwNew, if_neg (by simp [ha])]

theorem rd_putFields_of_ne {f : Fld} {jx : List Nat} (hf : f ∈ r.fields) (hj : jx ≠ ix) : (s.putFields r ix (r.whole value)).rd f jx = s.rd f jx := by
  unfold State.putFields
  rw [rd_spread _ (mirrored_of_mirror_split_mem hf), rd_oneBits_of_ne (.inr hj), rd_sts_rwNew, if_neg (by simp [hj])]

theorem fieldsBut_putFields : fieldsBut (.RAS_OWN_STAT_mirror_split :: r.fields) s (s.putFields r ix (r.whole value)) := by
  intro f jx hn _
  obtain ⟨hm, hf⟩ := not_or.1 (fun h => hn (List.mem_cons.2 h))
  unfold State.putFields
  rw [rd_spread _ (fun e => absurd e hm), rd_oneBits_of_ne (.inl hf), rd_sts_rwNew, if_neg (by simp [hf])]

variable (hr : r ∉ followedRegs)
include hr

/-- What follows a plain write leaves the register's own fields as the write made them. -/
theorem rd_plainPut_own (p : Piece) {f : Fld} (hf : f ∈ r.fields) (jx : List Nat) : (s.plainPut r ix p).rd f jx = (s.putFields r ix p).rd f jx := by
  unfold State.plainPut
  rcases afterPut_cases (s.putFields r ix p) ix (s.rwNew r ix [p]) hr with e | ⟨-, h, k, e⟩ | ⟨rfl, h, e⟩ <;> rw [e]
  · exact rd_groupsClear ..
  · exact rd_telDrain_of_cfg _ h hf jx

theorem partsBut_plainPut : partsBut r.putParts s (s.plainPut r ix (r.whole value)) := by
  have put := partsBut_putFields s (r := r) ix value
  unfold State.plainPut
  rcases afterPut_cases (s.putFields r ix (r.whole value)) ix (s.rwNew r ix [r.whole value]) hr with e | ⟨rfl, h, k, e⟩ | ⟨rfl, h, e⟩ <;> rw [e]
  · exact partsBut_mono put (by unfold Reg.putParts; split_ifs <;> simp)
  · exact partsBut_trans (partsBut_mono put (by decide)) (partsBut_mono (partsBut_groupsClear _ h k) (by decide))
  · exact partsBut_trans (partsBut_mono put (by decide)) (partsBut_mono (partsBut_telDrain _ h) (by decide))

theorem fieldsBut_plainPut : fieldsBut (.RAS_OWN_STAT_mirror_split :: r.fields ++ r.putFlds) s (s.plainPut r ix (r.whole value)) := by
  have put := fieldsBut_mono (fieldsBut_putFields s (r := r) ix value) (gs := .RAS_OWN_STAT_mirror_split :: r.fields ++ r.putFlds)
    (fun f hf => List.mem_append_left _ hf)
  unfold State.plainPut
  rcases afterPut_cases (s.putFields r ix (r.whole value)) ix (s.rwNew r ix [r.whole value]) hr with e | ⟨rfl, h, k, e⟩ | ⟨rfl, h, e⟩ <;> rw [e]
  · exact put
  · exact fieldsBut_trans put (fun f jx _ _ => rd_groupsClear ..)
  · exact fieldsBut_trans put (fieldsBut_mono (fieldsBut_telDrain _ h) (by decide))

end

/-! ## Which register an access names -/

/-- An aligned access as wide as the register at its offset names that register whole (R12). -/
theorem accessAt_whole {blk inst off : Nat} {wide : Bool} {r : Reg} {ix : List Nat} (value : Nat) (ha : off % (if wide then 8 else 4) = 0)
    (hr : regAt blk inst off = some (r, ix, 0)) (hw : r.info.width = if wide then 64 else 32) :
    accessAt blk inst off wide value = [(r, ix, r.whole value)] := by
  cases wide <;> simp_all [accessAt, narrowAt, Reg.whole]

/-- A 32-bit access to a register of at most 64 bits names the half at its offset (R12). -/
theorem accessAt_narrow {blk inst off b : Nat} {r : Reg} {ix : List Nat} (value : Nat) (ha : off % 4 = 0)
    (hr : regAt blk inst off = some (r, ix, b)) (hw : r.info.width ≤ 64) :
    accessAt blk inst off false value = [(r, ix, 8 * b, 32, value % 2 ^ 32)] := by
  simp [accessAt, narrowAt, ha, hr, Nat.not_lt.2 hw]

/-- A register of at most 64 bits is written at once (R12). -/
theorem wordPut_of_narrow (s : State) {r : Reg} (ix : List Nat) (p : Piece) (hw : r.info.width ≤ 64) : s.wordPut r ix p = s.regPut r ix [p] := by
  have gathered : s.gather r ix p = ([p], s) := by
    unfold State.gather
    exact if_pos (by omega)
  simp [State.wordPut, gathered]

/-- A write of a whole register that has no rule of its own. -/
theorem busPut_plain {s : State} {blk inst off value : Nat} {wide : Bool} {r : Reg} {ix : List Nat} (ha : off % (if wide then 8 else 4) = 0)
    (hr : regAt blk inst off = some (r, ix, 0)) (hw : r.info.width = if wide then 64 else 32) (hb : r.info.blk ≠ 10) (hf : copyFlag r = none)
    (hs : r ∉ specialRegs) : s.busPut blk inst off wide value = s.plainPut r ix (r.whole value) := by
  unfold State.busPut
  rw [accessAt_whole value ha hr hw, List.foldl_cons, List.foldl_nil]
  dsimp only
  split
  · exact absurd (by decide) hs
  · exact absurd (by decide) hs
  · rw [wordPut_of_narrow s ix _ (by split_ifs at hw <;> omega), regPut_plain _ (.inl hf) hb hs]

/-! ## REGISTER_WRITE -/

theorem exec_registerWrite (fn blk inst off value : Nat) (wide : Bool) (s : State) :
    exec (.registerWrite fn blk inst off wide value) s = execRegisterWrite fn blk inst off wide value s := rfl

theorem exec_rcCounterRead (fn blk inst off : Nat) (wide : Bool) (s : State) :
    exec (.rcCounterRead ⟨fn, blk⟩ inst off wide) s = execRcCounterRead ⟨fn, blk⟩ inst off wide s := rfl

theorem exec_protectedCopyRegWrite (which : Nat) (h : Half) (c value : Nat) (s : State) :
    exec (.protectedCopyRegWrite which h c value) s = execProtectedCopyRegWrite which h c value s := rfl

/-- A write that reaches the device and a block of the function (R324, R329, R401). -/
theorem exec_registerWrite_of_reached {s : State} {fn blk inst : Nat} (off value : Nat) (wide : Bool) (hb : blkReach fn blk inst = true)
    (ho : s.regOff (blkWest blk inst) = false) :
    exec (.registerWrite fn blk inst off wide value) s = .next (settle (doRegisterWrite fn blk inst off wide value s)) := by
  rw [exec_registerWrite, execRegisterWrite, if_pos hb, doneReg_of_reached _ ho]

/-- A write of a register's whole width gives its RW fields their value and clears its W1C bits (R9, R165, R275). -/
theorem registerWrite_sets_fields (s : State) (fn blk inst off value : Nat) (wide : Bool) (r : Reg) (ix : List Nat) (hreach : blkReach fn blk inst = true)
    (hblk : blk ≠ 0) (hon : s.regOff (blkWest blk inst) = false) (halign : off % (if wide then 8 else 4) = 0) (hat : regAt blk inst off = some (r, ix, 0))
    (hwidth : r.info.width = (if wide then 64 else 32)) (htime : r.info.blk ≠ 10) (hflag : copyFlag r = none) (hr : r ∉ specialRegs) :
    ∃ t, exec (.registerWrite fn blk inst off wide value) s = .next t
      ∧ (∀ f ∈ r.fields, (f.info.acc = .RW → t.rd f ix = bits value f.info.lo f.info.w)
        ∧ (f.info.acc = .W1C → t.rd f ix = (s.rd f ix ^^^ (s.rd f ix &&& bits value f.info.lo f.info.w)) % 2 ^ f.info.w)
        ∧ (f.info.acc ≠ .RW → f.info.acc ≠ .W1C → f.info.acc ≠ .W1S → t.rd f ix = s.rd f ix)
        ∧ (∀ jx, jx ≠ ix → t.rd f jx = s.rd f jx))
      ∧ partsBut r.putParts s t ∧ fieldsBut (.RAS_OWN_STAT_mirror_split :: r.fields ++ r.putFlds) s t := by
  have hfollow : r ∉ followedRegs := by
    intro h
    have wide128 : r ≠ .BUF_PG_CFG := by
      rintro rfl
      cases wide <;> simp [Reg.info] at hwidth
    simp_all [followedRegs, specialRegs]
  refine ⟨settle (s.plainPut r ix (r.whole value)), ?_, fun f hf => ⟨fun ha => ?_, fun ha => ?_, fun ha hc hs => ?_, fun jx hj => ?_⟩,
    partsBut_settle (partsBut_plainPut s ix value hfollow), fieldsBut_settle (fieldsBut_plainPut s ix value hfollow)⟩
  · rw [exec_registerWrite_of_reached off value wide hreach hon, doRegisterWrite, if_neg hblk, busPut_plain halign hat hwidth htime hflag hr]
  all_goals rw [rd_settle, rd_plainPut_own s ix hfollow _ hf]
  · exact rd_putFields_of_rw s ix value hf ha
  · exact rd_putFields_of_w1c s ix value hf ha
  · exact rd_putFields_of_readOnly s ix value hf ha hc hs
  · exact rd_putFields_of_ne s ix value hf hj

theorem registerWrite_of_no_block {fn blk inst : Nat} (h : blkReach fn blk inst = false) (s : State) (off value : Nat) (wide : Bool) :
    exec (.registerWrite fn blk inst off wide value) s = .fault .noSuchBlock := by
  rw [exec_registerWrite, execRegisterWrite, if_neg (by simp [h])]

theorem rcCounterRead_of_no_block {fn blk inst : Nat} (h : blkReach fn blk inst = false) (s : State) (off : Nat) (wide : Bool) :
    exec (.rcCounterRead ⟨fn, blk⟩ inst off wide) s = .fault .noSuchBlock := by
  rw [exec_rcCounterRead, execRcCounterRead, if_neg (by simp [h])]

/-- A write that does not reach the device changes nothing (R355, R401). -/
theorem registerWrite_of_off {s : State} {fn blk inst : Nat} (hb : blkReach fn blk inst = true) (ho : s.regOff (blkWest blk inst) = true)
    (off value : Nat) (wide : Bool) : exec (.registerWrite fn blk inst off wide value) s = .next (settle s) := by
  rw [exec_registerWrite, execRegisterWrite, if_pos hb, doneReg_of_off _ ho]

/-- A VF reaches its directory, its own HST_ block and its MSI-X table, and no other block (R324, R329). -/
theorem blkReach_of_vf {v blk inst : Nat} (h1 : 1 ≤ v) (h64 : v ≤ 64) (h0 : blk ≠ 0) (h2 : blk ≠ 2) (h18 : ¬ (blk = 18 ∧ inst = v)) :
    blkReach v blk inst = false := by
  have hv : v ≠ 0 := by omega
  simp_all [blkReach]

/-! ## The MSI-X table -/

/-- An unmasked vector of a function whose MSI-X is on sends its message (R352). -/
theorem msixSend_of_open {s : State} {fn v : Nat} (hen : s.msixEn fn = true) (hmask : s.msixFnMask fn = false) (he : (s.msixAt fn v).masked = false) :
    s.msixSend fn v = { s with host := { s.host with msgs := s.host.msgs ++ [(fn, v)] } } := by
  unfold State.msixSend
  unfold State.msixAt at he
  simp [hen, hmask, he]

/-- A write of a clear mask bit to a vector that pends sends its message and clears the pending bit (R324, R352). -/
theorem msixPut_unmask {s : State} {fn v value : Nat} (hv : v < vectors fn) (hp : (s.msixAt fn v).pend = true) (hb : bit value 0 = false)
    (hen : s.msixEn fn = true) (hmask : s.msixFnMask fn = false) :
    s.msixPut fn (16 * v + 12) value
      = { s with host := { s.host with msix := s.host.msix.set [fn, v] { s.msixAt fn v with masked := false, pend := false }
                                       msgs := s.host.msgs ++ [(fn, v)] } } := by
  have hd : (16 * v + 12) / 16 = v := by omega
  have hm : (16 * v + 12) % 16 = 12 := by omega
  have hx : bit (value % 2 ^ 32) 0 = false := by unfold bit at hb ⊢; simp at hb ⊢; omega
  unfold State.msixPut
  simp only [hd, hm, hx, hp, Nat.not_le.2 hv, if_false]
  rw [if_pos (by simp)]
  exact msixSend_of_open hen hmask (by simp [State.msixAt])

theorem registerWrite_unmasks (s : State) (fn v value : Nat) (hfn : fn ≤ 64) (hv : v < vectors fn) (hp : (s.msixAt fn v).pend = true)
    (hb : bit value 0 = false) (ho : s.regOff false = false) (hen : s.msixEn fn = true) (hmask : s.msixFnMask fn = false) :
    ∃ t, exec (.registerWrite fn 0 fn (16 * v + 12) false value) s = .next t ∧ t.host.msgs = s.host.msgs ++ [(fn, v)] ∧ (t.msixAt fn v).masked = false
      ∧ (t.msixAt fn v).pend = false ∧ partsBut [] s t ∧ fieldsBut [] s t := by
  have reach : blkReach fn 0 fn = true := by simp [blkReach, Nat.not_lt.2 hfn]
  have run := exec_registerWrite_of_reached (16 * v + 12) value false reach ho
  rw [doRegisterWrite, if_pos rfl, if_neg (by simp; omega), if_neg (by simp), msixPut_unmask hv hp hb hen hmask] at run
  exact ⟨_, run, rfl, by simp [State.msixAt], by simp [State.msixAt], partsBut_settle (partsBut_set_host (partsBut_refl _ s) _),
    fieldsBut_settle (fieldsBut_set_host (fieldsBut_refl _ s) _)⟩

/-! ## RC_COUNTER_READ -/

/-- The reads that pop a head or latch the seconds (R184, R196, R199, R291, R414). -/
def popRegs : List Reg := [.TIM_NOW_LO, .TIM_TXTS_W1, .TIM_TIO_CAP_HI, .PMC_SAMP_W1, .RAS_ERR_W1]

/-- The parts that a read without a pop changes: the errors of a lane's checker that it has told are drawn no more (log entry 63). -/
def Reg.getParts (r : Reg) : List Part := if r = .LAN_PRBS_CNT ∨ r = .LAN_LANE_STAT then [.fresh] else []

/-- A read clears the RC fields of an element (R9). -/
theorem rd_foldl_clear (l : List Fld) (s : State) (f : Fld) (ix jx : List Nat) :
    (l.foldl (fun (s : State) f => if f.info.acc = .RC then s.st f ix 0 else s) s).rd f jx
      = if f ∈ l ∧ f.info.acc = .RC ∧ jx = ix then 0 else s.rd f jx := by
  induction l generalizing s with
  | nil => simp
  | cons g l ih =>
    rw [List.foldl_cons, ih]
    by_cases hc : g.info.acc = .RC
    · rw [if_pos hc, rd_st]
      by_cases hg : f = g <;> by_cases hj : jx = ix <;> simp [hg, hj, hc]
    · have hg : f = g → f.info.acc ≠ .RC := fun e => e ▸ hc
      rw [if_neg hc]
      simp only [List.mem_cons]
      exact if_congr (by tauto) rfl rfl

@[simp] theorem rd_laneTold (s : State) (l : Nat) (f : Fld) (ix : List Nat) : (s.laneTold l).rd f ix = s.rd f ix := by
  unfold State.laneTold
  split <;> rfl

theorem partsBut_laneTold (s : State) (l : Nat) : partsBut [.fresh] s (s.laneTold l) :=
  partsBut_ite _ (partsBut_set_fresh (partsBut_refl _ s) (by simp) _) (partsBut_refl _ s)

theorem cpls_laneTold (s : State) (l : Nat) : (s.laneTold l).host.cpls = s.host.cpls := by
  unfold State.laneTold
  split <;> rfl

/-- What a read without a pop does: the two lane registers tell their checker's errors, every other register clears its RC fields (R9, R436). -/
theorem afterGet_cases (s : State) {r : Reg} (ix : List Nat) (hr : r ∉ popRegs) :
    (r = .LAN_LANE_STAT ∧ ∃ v l, s.afterGet r ix = (s.st .LAN_LANE_STAT_prbs_lock ix v).laneTold l)
      ∨ (r = .LAN_PRBS_CNT ∧ ∃ l, s.afterGet r ix = (s.st .LAN_PRBS_CNT_v ix 0).laneTold l)
      ∨ s.afterGet r ix = r.fields.foldl (fun (s : State) f => if f.info.acc = .RC then s.st f ix 0 else s) s := by
  unfold State.afterGet
  split
  iterate 5 exact absurd (by decide) hr
  · exact .inl ⟨rfl, _, _, rfl⟩
  · exact .inr (.inl ⟨rfl, _, rfl⟩)
  · exact .inr (.inr rfl)

section
variable (s : State) {r : Reg} (ix : List Nat) (hr : r ∉ popRegs)
include hr

theorem partsBut_afterGet : partsBut r.getParts s (s.afterGet r ix) := by
  rcases afterGet_cases s ix hr with ⟨rfl, v, l, e⟩ | ⟨rfl, l, e⟩ | e <;> rw [e]
  · exact partsBut_trans (partsBut_st (partsBut_refl _ s) _ _ _) (partsBut_laneTold _ l)
  · exact partsBut_trans (partsBut_st (partsBut_refl _ s) _ _ _) (partsBut_laneTold _ l)
  · exact partsBut_foldl (fun t f => partsBut_ite _ (partsBut_st (partsBut_refl _ t) _ _ _) (partsBut_refl _ t)) _ (partsBut_refl _ s)

theorem cpls_afterGet : (s.afterGet r ix).host.cpls = s.host.cpls := by
  rcases afterGet_cases s ix hr with ⟨rfl, v, l, e⟩ | ⟨rfl, l, e⟩ | e <;> rw [e]
  · exact cpls_laneTold _ l
  · exact cpls_laneTold _ l
  · refine List.foldlRecOn (motive := fun t : State => t.host.cpls = s.host.cpls) _ _ rfl fun t ht f _ => ?_
    split <;> exact ht

theorem rd_afterGet_of_rc {f : Fld} (hf : f ∈ r.fields) (ha : f.info.acc = .RC) (jx : List Nat) :
    (s.afterGet r ix).rd f jx = if jx = ix then 0 else s.rd f jx := by
  rcases afterGet_cases s ix hr with ⟨rfl, v, l, e⟩ | ⟨rfl, l, e⟩ | e <;> rw [e]
  · have noRc : ∀ g ∈ Reg.LAN_LANE_STAT.fields, g.info.acc ≠ .RC := by decide
    exact absurd ha (noRc f hf)
  · have only : f = .LAN_PRBS_CNT_v := by simpa [Reg.fields] using hf
    subst only
    simp [rd_st]
  · rw [rd_foldl_clear]
    simp [hf, ha]

theorem rd_afterGet_of_kept {f : Fld} (hf : f ∈ r.fields → f.info.acc ≠ .RC ∧ f ≠ .LAN_LANE_STAT_prbs_lock) (jx : List Nat) :
    (s.afterGet r ix).rd f jx = s.rd f jx := by
  rcases afterGet_cases s ix hr with ⟨rfl, v, l, e⟩ | ⟨rfl, l, e⟩ | e <;> rw [e]
  · rw [rd_laneTold, rd_st_of_ne]
    rintro rfl
    exact (hf (by decide)).2 rfl
  · rw [rd_laneTold, rd_st_of_ne]
    rintro rfl
    exact (hf (by decide)).1 rfl
  · rw [rd_foldl_clear, if_neg (by tauto)]

end

@[simp] theorem rd_answer (s : State) (v : Nat) (f : Fld) (ix : List Nat) : (s.answer v).rd f ix = s.rd f ix := rfl
@[simp] theorem answer_resp (s : State) (v : Nat) : (s.answer v).host.resp = v := rfl
@[simp] theorem answer_cpls (s : State) (v : Nat) : (s.answer v).host.cpls = s.host.cpls := rfl

theorem partsBut_answer {ps : List Part} {s t : State} (h : partsBut ps s t) (v : Nat) : partsBut ps s (t.answer v) := partsBut_set_host h _

/-- A read that reaches a register block (R324, R329). -/
theorem exec_rcCounterRead_of_reached {s : State} {fn blk inst : Nat} (off : Nat) (wide : Bool) (hb : blkReach fn blk inst = true) (h0 : blk ≠ 0)
    (h2 : blk ≠ 2) (ho : s.regOff (blkWest blk inst) = false) :
    exec (.rcCounterRead ⟨fn, blk⟩ inst off wide) s = .next (settle ((s.busGet blk inst off wide).2.answer (s.busGet blk inst off wide).1)) := by
  rw [exec_rcCounterRead, execRcCounterRead, if_pos hb, doRcCounterRead, if_neg (by simp [ho]), if_neg h0, if_neg h2]
  rfl

/-- A 64-bit read of a 64-bit register returns it whole and does what its read does (R9, R12). -/
theorem busGet_wide {s : State} {blk inst off : Nat} {r : Reg} {ix : List Nat} (ha : off % 8 = 0) (hr : regAt blk inst off = some (r, ix, 0))
    (hw : r.info.width = 64) : s.busGet blk inst off true = (s.regNow r ix % 2 ^ 64, s.afterGet r ix) := by
  unfold State.busGet
  rw [accessAt_whole 0 (by simpa using ha) hr (by simpa using hw)]
  simp [hr, hw, Reg.whole, bits]

/-- A 32-bit read of a 64-bit register returns one half of it and changes nothing (R12). -/
theorem busGet_narrow {s : State} {blk inst off b : Nat} {r : Reg} {ix : List Nat} (ha : off % 4 = 0) (hr : regAt blk inst off = some (r, ix, b))
    (hw : r.info.width = 64) : s.busGet blk inst off false = (bits (s.regNow r ix) (8 * b) 32, s) := by
  unfold State.busGet
  rw [accessAt_narrow 0 ha hr (by omega)]
  simp [hw]

theorem rcCounterRead_clears (s : State) (fn blk inst off : Nat) (r : Reg) (ix : List Nat) (hreach : blkReach fn blk inst = true) (h0 : blk ≠ 0)
    (h2 : blk ≠ 2) (hon : s.regOff (blkWest blk inst) = false) (hat : regAt blk inst off = some (r, ix, 0)) (hw : r.info.width = 64)
    (halign : off % 8 = 0) (hr : r ∉ popRegs) :
    ∃ t, exec (.rcCounterRead ⟨fn, blk⟩ inst off true) s = .next t ∧ t.host.resp = s.regNow r ix % 2 ^ 64 ∧ t.host.cpls = s.host.cpls
      ∧ (∀ f ∈ r.fields, f.info.acc = .RC → t.rd f ix = 0 ∧ ∀ jx, jx ≠ ix → t.rd f jx = s.rd f jx)
      ∧ partsBut r.getParts s t
      ∧ (∀ f jx, (f ∈ r.fields → f.info.acc ≠ .RC ∧ f ≠ .LAN_LANE_STAT_prbs_lock) → t.rd f jx = s.rd f jx) := by
  have run := exec_rcCounterRead_of_reached off true hreach h0 h2 hon
  rw [busGet_wide halign hat hw] at run
  refine ⟨_, run, by simp, by simp [cpls_afterGet s ix hr], fun f hf ha => ⟨?_, fun jx hj => ?_⟩,
    partsBut_settle (partsBut_answer (partsBut_afterGet s ix hr) _), fun f jx hf => ?_⟩
  · simp [rd_afterGet_of_rc s ix hr hf ha]
  · simp [rd_afterGet_of_rc s ix hr hf ha, hj]
  · simp [rd_afterGet_of_kept s ix hr hf]

theorem rcCounterRead_half_keeps (s : State) (fn blk inst off b : Nat) (r : Reg) (ix : List Nat) (hreach : blkReach fn blk inst = true) (h0 : blk ≠ 0)
    (h2 : blk ≠ 2) (hon : s.regOff (blkWest blk inst) = false) (hat : regAt blk inst off = some (r, ix, b)) (hw : r.info.width = 64)
    (halign : off % 4 = 0) :
    ∃ t, exec (.rcCounterRead ⟨fn, blk⟩ inst off false) s = .next t ∧ t.host.resp = bits (s.regNow r ix) (8 * b) 32 ∧ partsBut [] s t
      ∧ ∀ f jx, t.rd f jx = s.rd f jx := by
  have run := exec_rcCounterRead_of_reached off false hreach h0 h2 hon
  rw [busGet_narrow halign hat hw] at run
  exact ⟨_, run, by simp, partsBut_settle (partsBut_answer (partsBut_refl _ s) _), fun _ _ => by simp⟩

/-! ## Writes that wait for the apply edge of the time base -/

/-- A state that owes the time base some more writes at the next apply edge, and is otherwise as before (R179). -/
def Owes (s t : State) : Prop := ∃ q, t = { s with time := { s.time with pendCfg := s.time.pendCfg ++ q } }

namespace Owes

theorem refl (s : State) : Owes s s := ⟨[], by simp⟩

theorem trans {s t u : State} (h : Owes s t) (k : Owes t u) : Owes s u := by
  obtain ⟨q, rfl⟩ := h
  obtain ⟨q', rfl⟩ := k
  exact ⟨q ++ q', by simp⟩

theorem later (s : State) (f : Fld) (ix : List Nat) (v : Nat) : Owes s (s.later f ix v) := ⟨_, rfl⟩

theorem foldl {α : Type} {g : State → α → State} (hg : ∀ s a, Owes s (g s a)) (l : List α) (s : State) : Owes s (l.foldl g s) := by
  induction l generalizing s with
  | nil => exact refl s
  | cons a l ih => exact (hg s a).trans (ih _)

theorem laterBits (s : State) (r : Reg) (ix : List Nat) (ps : List Piece) : Owes s (s.laterBits r ix ps) := by
  refine foldl (fun t f => ?_) _ s
  dsimp only
  split
  · exact refl t
  · exact later t f ix _

variable {s t : State} (h : Owes s t)
include h

theorem applyEdge : t.applyEdge = s.applyEdge := by
  obtain ⟨q, rfl⟩ := h
  rfl

theorem mem {x : Nat × Fld × List Nat × Nat} (hx : x ∈ s.time.pendCfg) : x ∈ t.time.pendCfg := by
  obtain ⟨q, rfl⟩ := h
  exact List.mem_append_left _ hx

theorem parts : partsBut [.time] s t := by
  obtain ⟨q, rfl⟩ := h
  exact partsBut_set_time (partsBut_refl _ s) (by simp) _

theorem fields : fieldsBut [] s t := by
  obtain ⟨q, rfl⟩ := h
  exact fieldsBut_set_time (fieldsBut_refl _ s) _

end Owes

theorem mem_pendCfg_later (s : State) (f : Fld) (ix : List Nat) (v : Nat) : (s.applyEdge, f, ix, v) ∈ (s.later f ix v).time.pendCfg := by
  simp [State.later]

/-- Each write of a list waits for the apply edge. -/
theorem mem_pendCfg_foldl_later {ws : List (Fld × List Nat × Nat)} {w : Fld × List Nat × Nat} (hw : w ∈ ws) (s : State) :
    (s.applyEdge, w) ∈ (ws.foldl (fun (s : State) w => s.later w.1 w.2.1 w.2.2) s).time.pendCfg := by
  induction ws generalizing s with
  | nil => simp at hw
  | cons a l ih =>
    rw [List.foldl_cons]
    rcases List.mem_cons.1 hw with rfl | hw
    · exact (Owes.foldl (fun s w => Owes.later s w.1 w.2.1 w.2.2) l _).mem (mem_pendCfg_later ..)
    · exact (Owes.later s a.1 a.2.1 a.2.2).applyEdge ▸ ih hw _

/-! ## The per-copy entries of R479 -/

section
variable {which : Nat} {r : Reg} {flag : Fld}

theorem copyReg_cases (hr : copyReg which = some r) :
    (which = 0 ∧ r = .FDB_REQ) ∨ (which = 1 ∧ r = .TIM_PTP_REQ) ∨ (which = 2 ∧ r = .GTE_LT_SRC) ∨ (which = 3 ∧ r = .TEL_REQ) := by
  unfold copyReg at hr
  split at hr <;> simp_all

theorem copyReg_one (hr : copyReg 1 = some r) : r = .TIM_PTP_REQ := by
  simpa [copyReg] using hr.symm

/-- Only the time base's entry lies outside the halves (R179). -/
theorem copyReg_isTime (hr : copyReg which = some r) : r = .TIM_PTP_REQ ↔ which = 1 := by
  rcases copyReg_cases hr with ⟨rfl, rfl⟩ | ⟨rfl, rfl⟩ | ⟨rfl, rfl⟩ | ⟨rfl, rfl⟩ <;> simp

theorem copyReg_blk (hr : copyReg which = some r) : r.info.blk = 10 ↔ which = 1 := by
  rcases copyReg_cases hr with ⟨rfl, rfl⟩ | ⟨rfl, rfl⟩ | ⟨rfl, rfl⟩ | ⟨rfl, rfl⟩ <;> decide

theorem copyReg_plain (hr : copyReg which = some r) : r ∉ specialRegs ∧ r ∉ followedRegs ∧ r.putParts = [.ras] ∧ r.putFlds = [] := by
  rcases copyReg_cases hr with ⟨rfl, rfl⟩ | ⟨rfl, rfl⟩ | ⟨rfl, rfl⟩ | ⟨rfl, rfl⟩ <;> decide

/-- `wr_ignored` is one bit, and the one field of its register that is neither RW nor read-only. -/
theorem copyFlag_only (hf : copyFlag r = some flag) :
    flag.info.w = 1 ∧ ∀ f ∈ r.fields, f ≠ flag → f.info.acc ≠ .W1C ∧ f.info.acc ≠ .W1S := by
  unfold copyFlag at hf
  split at hf
  iterate 4
    obtain rfl := Option.some.inj hf
    decide
  · simp at hf

end

/-- A write of a per-copy entry that reaches the device (R355, R401). -/
theorem exec_protectedCopyRegWrite_of_reached {s : State} {which c : Nat} {h : Half} {r : Reg} (value : Nat) (hr : copyReg which = some r) (hc : c < 2)
    (ho : s.regOff (decide (h = .W) && decide (which ≠ 1)) = false) :
    exec (.protectedCopyRegWrite which h c value) s = .next (settle (s.regPut r [if which = 1 then 0 else h.n, c] [r.whole value])) := by
  rw [exec_protectedCopyRegWrite, execProtectedCopyRegWrite, doneReg_of_reached _ ho]
  unfold doProtectedCopyRegWrite
  simp only [hr, if_neg (Nat.not_le.2 hc), copyReg_isTime hr]
  rfl

theorem regPut_held {s : State} {r : Reg} {flag : Fld} {i c : Nat} (ps : List Piece) (hc : s.copyHeld c = true) (hf : copyFlag r = some flag) :
    s.regPut r [i, c] ps = s.heldPut r [i, c] ps flag := by
  unfold State.regPut
  simp only [hc, hf, if_true]

/-- A write of the time base's entry waits for the apply edge (R179). -/
theorem regPut_ptpReq {s : State} {i c : Nat} (ps : List Piece) (hc : s.copyHeld c = false) :
    s.regPut .TIM_PTP_REQ [i, c] ps
      = ((s.rwNew .TIM_PTP_REQ [i, c] ps).foldl (fun (s : State) w => s.later w.1 w.2.1 w.2.2) s).laterBits .TIM_PTP_REQ [i, c] ps := by
  unfold State.regPut
  simp [hc, Reg.info]

section
variable {s : State} {r : Reg} {flag : Fld} {ix : List Nat} {value : Nat}

/-- An RW field whose bits differ from the write's is one that the write would change (R479). -/
theorem rwNew_changes (h : ∃ f ∈ r.fields, f.info.acc = .RW ∧ s.rd f ix % 2 ^ f.info.w ≠ bits value f.info.lo f.info.w) :
    (s.rwNew r ix [r.whole value]).any (fun w => decide (s.rd w.1 w.2.1 ≠ w.2.2)) = true := by
  obtain ⟨f, hf, ha, hne⟩ := h
  rw [rwNew_whole, List.any_map, List.any_eq_true]
  refine ⟨f, by simp [hf, ha], ?_⟩
  have differs : s.rd f ix ≠ s.rwWrite ix value f := fun e => hne (by rw [e, rwWrite_mod])
  simpa using differs

variable (hf : copyFlag r = some flag) (hch : ∃ f ∈ r.fields, f.info.acc = .RW ∧ s.rd f ix % 2 ^ f.info.w ≠ bits value f.info.lo f.info.w)
include hch

/-- A protected entry outside the time base keeps its fields and sets `wr_ignored` (R479). -/
theorem heldPut_of_half (hb : r.info.blk ≠ 10) : s.heldPut r ix [r.whole value] flag = (s.oneBits r ix [r.whole value]).st flag ix 1 := by
  unfold State.heldPut
  simp only [rwNew_changes hch, if_neg hb, if_true]

/-- A protected entry of the time base sets `wr_ignored` at the write's apply edge (R179, R479). -/
theorem heldPut_of_time (hb : r.info.blk = 10) :
    s.heldPut r ix [r.whole value] flag = (s.laterBits r ix [r.whole value]).later flag ix (2 ^ flag.info.w) := by
  unfold State.heldPut
  simp only [rwNew_changes hch, if_pos hb, if_true]

include hf

theorem heldPut_of_half_spec (hb : r.info.blk ≠ 10) :
    (s.heldPut r ix [r.whole value] flag).rd flag ix = 1 ∧ partsBut [] s (s.heldPut r ix [r.whole value] flag)
      ∧ fieldsBut [flag] s (s.heldPut r ix [r.whole value] flag) := by
  obtain ⟨hw, hother⟩ := copyFlag_only hf
  rw [heldPut_of_half hch hb]
  refine ⟨by simp [hw], partsBut_st (partsBut_oneBits s r ix value) _ _ _, fieldsBut_st (fun f jx hn _ => ?_) (by simp)⟩
  by_cases hm : f ∈ r.fields
  · obtain ⟨hc, hs⟩ := hother f hm (by simpa using hn)
    exact rd_oneBits_of_plain hc hs s r ix jx value
  · exact rd_oneBits_of_ne (.inl hm) s value

end

theorem heldPut_of_time_spec {s : State} {r : Reg} {flag : Fld} {ix : List Nat} {value : Nat} (hb : r.info.blk = 10)
    (hch : ∃ f ∈ r.fields, f.info.acc = .RW ∧ s.rd f ix % 2 ^ f.info.w ≠ bits value f.info.lo f.info.w) :
    (s.applyEdge, flag, ix, 2 ^ flag.info.w) ∈ (s.heldPut r ix [r.whole value] flag).time.pendCfg ∧ Owes s (s.heldPut r ix [r.whole value] flag) := by
  have bits := Owes.laterBits s r ix [r.whole value]
  rw [heldPut_of_time hch hb]
  refine ⟨?_, bits.trans (Owes.later _ _ _ _)⟩
  exact bits.applyEdge ▸ mem_pendCfg_later ..

/-- A write of a protected entry sets `wr_ignored` and leaves the entry as it is (R479). -/
theorem protectedCopyRegWrite_held (s : State) (which c value : Nat) (h : Half) (r : Reg) (flag : Fld) (hr : copyReg which = some r)
    (hf : copyFlag r = some flag) (hc : c < 2) (hheld : s.copyHeld c = true)
    (hch : ∃ f ∈ r.fields, f.info.acc = .RW ∧ s.rd f [if which = 1 then 0 else h.n, c] % 2 ^ f.info.w ≠ bits value f.info.lo f.info.w)
    (ho : s.regOff (decide (h = .W) && decide (which ≠ 1)) = false) :
    ∃ t, exec (.protectedCopyRegWrite which h c value) s = .next t
      ∧ (if which = 1 then (s.applyEdge, flag, [if which = 1 then 0 else h.n, c], 2 ^ flag.info.w) ∈ t.time.pendCfg
          else t.rd flag [if which = 1 then 0 else h.n, c] = 1)
      ∧ partsBut (if which = 1 then [.time] else []) s t ∧ fieldsBut (if which = 1 then [] else [flag]) s t := by
  have run := exec_protectedCopyRegWrite_of_reached value hr hc ho
  rw [regPut_held _ hheld hf] at run
  refine ⟨_, run, ?_⟩
  by_cases hw : which = 1
  · obtain ⟨hmem, owes⟩ := heldPut_of_time_spec (flag := flag) ((copyReg_blk hr).2 hw) hch
    simp only [if_pos hw] at hmem owes ⊢
    exact ⟨hmem, partsBut_settle owes.parts, fieldsBut_settle owes.fields⟩
  · obtain ⟨hset, parts, fields⟩ := heldPut_of_half_spec hf hch (fun e => hw ((copyReg_blk hr).1 e))
    simp only [if_neg hw] at hset parts fields ⊢
    exact ⟨hset, partsBut_settle parts, fieldsBut_settle fields⟩

/-- An entry that no program in use protects takes the write (R473, R479). -/
theorem protectedCopyRegWrite_free (s : State) (which c value : Nat) (h : Half) (r : Reg) (hr : copyReg which = some r) (hc : c < 2)
    (hheld : s.copyHeld c = false) (hw : which ≠ 1) (ho : s.regOff (decide (h = .W) && decide (which ≠ 1)) = false) :
    ∃ t, exec (.protectedCopyRegWrite which h c value) s = .next t
      ∧ (∀ f ∈ r.fields, f.info.acc = .RW → t.rd f [if which = 1 then 0 else h.n, c] = bits value f.info.lo f.info.w)
      ∧ partsBut [.ras] s t ∧ fieldsBut (.RAS_OWN_STAT_mirror_split :: r.fields) s t := by
  obtain ⟨hspecial, hfollow, hparts, hflds⟩ := copyReg_plain hr
  have run := exec_protectedCopyRegWrite_of_reached value hr hc ho
  rw [regPut_plain _ (.inr ⟨_, _, rfl, hheld⟩) (fun e => hw ((copyReg_blk hr).1 e)) hspecial] at run
  refine ⟨_, run, fun f hf ha => ?_, ?_, ?_⟩
  · rw [rd_settle, rd_plainPut_own s _ hfollow _ hf, rd_putFields_of_rw s _ value hf ha]
  · exact hparts ▸ partsBut_settle (partsBut_plainPut s _ value hfollow)
  · simpa [hflds] using fieldsBut_settle (fieldsBut_plainPut s [if which = 1 then 0 else h.n, c] value hfollow)

/-- The time base's entry takes the write at its apply edge (R179, R479). -/
theorem protectedCopyRegWrite_free_time (s : State) (c value : Nat) (h : Half) (r : Reg) (hr : copyReg 1 = some r) (hc : c < 2)
    (hheld : s.copyHeld c = false) (ho : s.regOff (decide (h = .W) && decide ((1 : Nat) ≠ 1)) = false) :
    ∃ t, exec (.protectedCopyRegWrite 1 h c value) s = .next t
      ∧ (∀ f ∈ r.fields, f.info.acc = .RW → s.lastW f [0, c] < 2 ^ f.info.w → (s.applyEdge, f, [0, c], bits value f.info.lo f.info.w) ∈ t.time.pendCfg)
      ∧ partsBut [.time] s t ∧ fieldsBut [] s t := by
  obtain rfl := copyReg_one hr
  have run := exec_protectedCopyRegWrite_of_reached value hr hc ho
  rw [regPut_ptpReq _ hheld] at run
  have puts := Owes.foldl (fun s w => Owes.later s w.1 w.2.1 w.2.2) (s.rwNew .TIM_PTP_REQ [0, c] [Reg.TIM_PTP_REQ.whole value]) s
  have ones := Owes.laterBits ((s.rwNew .TIM_PTP_REQ [0, c] [Reg.TIM_PTP_REQ.whole value]).foldl (fun (s : State) w => s.later w.1 w.2.1 w.2.2) s)
    .TIM_PTP_REQ [0, c] [Reg.TIM_PTP_REQ.whole value]
  refine ⟨_, run, fun f hf ha hlast => ones.mem ?_, partsBut_settle (puts.trans ones).parts, fieldsBut_settle (puts.trans ones).fields⟩
  refine mem_pendCfg_foldl_later (w := (f, [0, c], bits value f.info.lo f.info.w)) ?_ s
  rw [rwNew_whole, List.mem_map]
  exact ⟨f, by simp [hf, ha], by simp [State.rwWrite, putBits_of_lt _ hlast]⟩

/-! ## The state after reset -/

/-- After reset every field holds the value of its table (R10). -/
@[simp] theorem rd_reset (f : Fld) (ix : List Nat) : State.reset.rd f ix = f.reset ix := rfl

theorem mode_reset : State.reset.mode = 0 := rfl

/-- READY is low: the mode is none of those that forward (R468). -/
theorem ready_reset : State.reset.pkg.ready = false := rfl

/-- Neither temperature signal is set, and both pins are high (R458). -/
theorem therm_reset : State.reset.rd .SYS_THERM_warn [0] = 0 ∧ State.reset.pkg.warnN = true
    ∧ State.reset.rd .SYS_THERM_crit [0] = 0 ∧ State.reset.pkg.critN = true := ⟨rfl, rfl, rfl, rfl⟩

/-- SMB_ALERT_N is high, as RESET has not ended (R471). -/
theorem alert_reset : State.reset.pkg.alertN = true ∧ State.reset.pkg.resetEnded = false := ⟨rfl, rfl⟩

theorem pinsFollow_reset : State.reset.pinsFollow := by
  obtain ⟨hwarn, hwarnN, hcrit, hcritN⟩ := therm_reset
  obtain ⟨halert, hend⟩ := alert_reset
  refine ⟨?ready, ?warn, ?crit, ?alert⟩
  case ready => rw [ready_reset, mode_reset]; decide
  case warn => rw [hwarnN, hwarn]; decide
  case crit => rw [hcritN, hcrit]; decide
  case alert => exact iff_of_true halert (.inl hend)

/-! ## The statements settled -/

/-- Settles O59: every field reads as its table's reset value, which gives the named registers and the pins. -/
theorem resetState : Obligations.ResetState := by
  unfold Obligations.ResetState
  have legal : State.reset.legalMode := by rw [State.legalMode, mode_reset]; decide
  refine ⟨pinsFollow_reset, legal, ready_reset, rd_reset, ?_, ?_, ?_, ?_, ?_, rfl⟩ <;> rw [rd_reset] <;> rfl

/-- Settles O52: plain writes, accesses outside the function's blocks or off reach, the unmasking of a vector, reads, and the per-copy entries of R479. -/
theorem registerAccess : Obligations.RegisterAccess := by
  unfold Obligations.RegisterAccess
  refine ⟨?writes, ?reach, ?unmask, ?reads, ?copies⟩
  case writes =>
    intro s fn blk inst off value wide r ix hreach hblk hon halign hat hwidth htime hflag hr
    obtain ⟨t, run, fields, parts, others⟩ :=
      registerWrite_sets_fields s fn blk inst off value wide r ix hreach hblk hon halign hat hwidth htime hflag hr
    exact ⟨t, run, fields, parts, fieldsBut_mono others (List.cons_subset_cons _ (List.subset_cons_self _ _))⟩
  case reach =>
    intro s fn blk inst off value wide
    exact ⟨fun h => registerWrite_of_no_block h s off value wide,
      fun hb ho => ⟨_, registerWrite_of_off hb ho off value wide, rfl, partsBut_settle (partsBut_refl _ s), fieldsBut_refl _ s⟩,
      fun h => rcCounterRead_of_no_block h s off wide, fun v h1 h64 h0 h2 h18 => blkReach_of_vf h1 h64 h0 h2 h18⟩
  case unmask => exact registerWrite_unmasks
  case reads =>
    intro s fn blk inst off b r ix hreach h0 h2 hon hat hw
    refine ⟨?_, rcCounterRead_half_keeps s fn blk inst off b r ix hreach h0 h2 hon hat hw⟩
    rintro halign rfl hr
    exact rcCounterRead_clears s fn blk inst off r ix hreach h0 h2 hon hat hw halign hr
  case copies =>
    rintro s which c value h r flag ix hr hf hc rfl
    refine ⟨fun hheld hch ho => protectedCopyRegWrite_held s which c value h r flag hr hf hc hheld hch ho,
      fun hheld hw ho => protectedCopyRegWrite_free s which c value h r hr hc hheld hw ho, ?_⟩
    rintro hheld rfl ho
    exact protectedCopyRegWrite_free_time s c value h r hr hc hheld ho

end Sys2Proof.Machine

/-!
SUPPORT. The path of a frame: what its steps leave unchanged, said once for each operation, the frames under the operations on their list, and the fields of the metadata block and the containers. Each part below ends with the statement that it settles.
-/

namespace Sys2Proof.Machine

/-! ## What an operation leaves unchanged -/

/-- An operation changes no part but `ps`, and no register field but `fs` and those that reports change. -/
structure Within (ps : List Part) (fs : List Fld) (s t : State) : Prop where
  parts : partsBut ps s t
  fields : fieldsBut fs s t

theorem Reports.within {s t : State} (h : Reports s t) : Within [] [] s t := ⟨fun p _ => h.parts p, h.fields⟩

namespace Within

theorem refl (ps : List Part) (fs : List Fld) (s : State) : Within ps fs s s := ⟨partsBut_refl ps s, fieldsBut_refl fs s⟩

variable {ps qs : List Part} {fs gs : List Fld} {s t u : State}

theorem mono (h : Within qs gs s t) (hp : ∀ p ∈ qs, p ∈ ps := by decide) (hf : ∀ f ∈ gs, f ∈ fs := by decide) : Within ps fs s t :=
  ⟨partsBut_mono h.parts hp, fieldsBut_mono h.fields hf⟩

theorem trans (h : Within ps fs s t) (k : Within ps fs t u) : Within ps fs s u :=
  ⟨partsBut_trans h.parts k.parts, fieldsBut_trans h.fields k.fields⟩

/-- An operation that changes less follows. -/
theorem andThen (h : Within ps fs s t) (k : Within qs gs t u) (hp : ∀ p ∈ qs, p ∈ ps := by decide) (hf : ∀ f ∈ gs, f ∈ fs := by decide) :
    Within ps fs s u := h.trans (k.mono hp hf)

theorem report (h : Within ps fs s t) (k : Reports t u) : Within ps fs s u := h.andThen k.within (by simp) (by simp)

theorem ite (c : Prop) [Decidable c] (h : Within ps fs s t) (k : Within ps fs s u) : Within ps fs s (if c then t else u) := by
  split
  · exact h
  · exact k

theorem foldl {α : Type} {op : State → α → State} (hop : ∀ t a, Within ps fs t (op t a)) (l : List α) (s : State) : Within ps fs s (l.foldl op s) :=
  ⟨partsBut_foldl (fun t a => (hop t a).parts) l (partsBut_refl ps s), fieldsBut_foldl (fun t a => (hop t a).fields) l (fieldsBut_refl fs s)⟩

theorem st (h : Within ps fs s t) {f : Fld} (ix : List Nat) (v : Nat) (hf : f ∈ fs := by decide) : Within ps fs s (t.st f ix v) :=
  ⟨partsBut_st h.parts f ix v, fieldsBut_st h.fields hf⟩

theorem bump (h : Within ps fs s t) {f : Fld} (ix : List Nat) (v : Nat) (hf : f ∈ fs := by decide) : Within ps fs s (t.bump f ix v) := h.st ix _ hf

theorem lower (h : Within ps fs s t) {f : Fld} (ix : List Nat) (v : Nat) (hf : f ∈ fs := by decide) : Within ps fs s (t.lower f ix v) := h.st ix _ hf

theorem sts (h : Within ps fs s t) (ws : List (Fld × List Nat × Nat)) (hf : ∀ w ∈ ws, w.1 ∈ fs) : Within ps fs s (t.sts ws) := by
  induction ws generalizing t with
  | nil => exact h
  | cons w ws ih => exact ih (h.st _ _ (hf w (by simp))) (fun x hx => hf x (by simp [hx]))

theorem settle (h : Within ps fs s t) : Within ps fs s (settle t) := ⟨partsBut_settle h.parts, fieldsBut_settle h.fields⟩

theorem set_fresh (h : Within ps fs s t) (x : Nat) (hp : Part.fresh ∈ ps := by decide) : Within ps fs s { t with fresh := x } := ⟨partsBut_set_fresh h.parts hp x, h.fields⟩
theorem set_frames (h : Within ps fs s t) (x : List Frame) (hp : Part.frames ∈ ps := by decide) : Within ps fs s { t with frames := x } := ⟨partsBut_set_frames h.parts hp x, h.fields⟩
theorem set_nextId (h : Within ps fs s t) (x : Nat) (hp : Part.nextId ∈ ps := by decide) : Within ps fs s { t with nextId := x } := ⟨partsBut_set_nextId h.parts hp x, h.fields⟩
theorem set_tables (h : Within ps fs s t) (x : Tables) (hp : Part.tables ∈ ps := by decide) : Within ps fs s { t with tables := x } := ⟨partsBut_set_tables h.parts hp x, h.fields⟩
theorem set_fdb (h : Within ps fs s t) (x : Fdb) (hp : Part.fdb ∈ ps := by decide) : Within ps fs s { t with fdb := x } := ⟨partsBut_set_fdb h.parts hp x, h.fields⟩
theorem set_buf (h : Within ps fs s t) (x : Buf) (hp : Part.buf ∈ ps := by decide) : Within ps fs s { t with buf := x } := ⟨partsBut_set_buf h.parts hp x, h.fields⟩
theorem set_sched (h : Within ps fs s t) (x : Sched) (hp : Part.sched ∈ ps := by decide) : Within ps fs s { t with sched := x } := ⟨partsBut_set_sched h.parts hp x, h.fields⟩
theorem set_tel (h : Within ps fs s t) (x : Tel) (hp : Part.tel ∈ ps := by decide) : Within ps fs s { t with tel := x } := ⟨partsBut_set_tel h.parts hp x, h.fields⟩
theorem set_clove (h : Within ps fs s t) (x : Clove) (hp : Part.clove ∈ ps := by decide) : Within ps fs s { t with clove := x } := ⟨partsBut_set_clove h.parts hp x, h.fields⟩
theorem set_ras (h : Within ps fs s t) (x : Ras) (hp : Part.ras ∈ ps := by decide) : Within ps fs s { t with ras := x } := ⟨partsBut_set_ras h.parts hp x, h.fields⟩
theorem set_lanes (h : Within ps fs s t) (x : Lanes) (hp : Part.lanes ∈ ps := by decide) : Within ps fs s { t with lanes := x } := ⟨partsBut_set_lanes h.parts hp x, h.fields⟩

theorem setFr (h : Within ps fs s t) (g : Frame) (hp : Part.frames ∈ ps := by decide) : Within ps fs s (t.setFr g) := h.set_frames _ hp
theorem toEnd (h : Within ps fs s t) (g : Frame) (hp : Part.frames ∈ ps := by decide) : Within ps fs s (t.toEnd g) := h.set_frames _ hp
theorem delFr (h : Within ps fs s t) (i : Nat) (hp : Part.frames ∈ ps := by decide) : Within ps fs s (t.delFr i) := h.set_frames _ hp
theorem addFr (h : Within ps fs s t) (g : Frame) (hp : Part.frames ∈ ps := by decide) (hn : Part.nextId ∈ ps := by decide) : Within ps fs s (t.addFr g) :=
  (h.set_frames (t.addFr g).frames hp).set_nextId (t.addFr g).nextId hn

theorem frames (h : Within ps fs s t) (hp : Part.frames ∉ ps := by decide) : t.frames = s.frames := h.parts .frames hp
theorem nextId (h : Within ps fs s t) (hp : Part.nextId ∉ ps := by decide) : t.nextId = s.nextId := h.parts .nextId hp

/-- A field outside the list reads as before. -/
theorem rd (h : Within ps fs s t) (f : Fld) (ix : List Nat) (hf : f ∉ fs := by decide) (hr : reported f ix = false := by rfl) : t.rd f ix = s.rd f ix :=
  h.fields f ix hf hr

end Within

/-! ## The frames -/

@[simp] theorem rd_toEnd (s : State) (x : Frame) (f : Fld) (ix : List Nat) : (s.toEnd x).rd f ix = s.rd f ix := rfl

theorem fr?_congr {s t : State} (h : t.frames = s.frames) (i : Nat) : t.fr? i = s.fr? i := by
  unfold State.fr?
  rw [h]

@[simp] theorem fr?_settle (s : State) (i : Nat) : (settle s).fr? i = s.fr? i := rfl

theorem id_of_fr? {s : State} {i : Nat} {f : Frame} (h : s.fr? i = some f) : f.id = i := by
  simpa using List.find?_some h

theorem fr?_setFr (s : State) (f : Frame) (i : Nat) : (s.setFr f).fr? i = if i = f.id then (s.fr? i).map (fun _ => f) else s.fr? i := by
  have same : (fun g : Frame => decide (g.id = i)) ∘ (fun g => if g.id = f.id then f else g) = fun g => decide (g.id = i) := by
    funext g
    by_cases h : g.id = f.id <;> simp [h]
  unfold State.fr?
  rw [setFr_frames, List.find?_map, same]
  cases hx : s.frames.find? (fun g => decide (g.id = i)) with
  | none => simp
  | some x =>
    have hi : x.id = i := by simpa using List.find?_some hx
    by_cases h : i = f.id <;> simp [hi, h]

theorem fr?_delFr (s : State) (j i : Nat) : (s.delFr j).fr? i = if i = j then none else s.fr? i := by
  unfold State.fr?
  rw [delFr_frames, List.find?_filter]
  by_cases h : i = j
  · simp [h]
  · rw [if_neg h]
    congr 1
    funext g
    by_cases hg : g.id = i <;> simp [hg, h]

theorem fr?_toEnd (s : State) (f : Frame) (i : Nat) : (s.toEnd f).fr? i = if i = f.id then some f else s.fr? i := by
  have front : (s.frames.filter (fun g => decide (g.id ≠ f.id))).find? (fun g => decide (g.id = i)) = (s.delFr f.id).fr? i := rfl
  unfold State.fr?
  rw [toEnd_frames, List.find?_append, front, fr?_delFr]
  by_cases h : i = f.id
  · simp [h]
  · have hf : f.id ≠ i := fun e => h e.symm
    simp [h, hf, State.fr?]

theorem fr?_addFr_of_ne (s : State) (f : Frame) {i : Nat} (h : i ≠ s.nextId) : (s.addFr f).fr? i = s.fr? i := by
  have hn : s.nextId ≠ i := fun e => h e.symm
  unfold State.fr?
  rw [addFr_frames, List.find?_append]
  simp [hn]

/-- The new frame stands under the next number where no frame has that number already. -/
theorem fr?_addFr_self (s : State) (f : Frame) (h : s.fr? s.nextId = none) : (s.addFr f).fr? s.nextId = some { f with id := s.nextId } := by
  unfold State.fr? at h ⊢
  rw [addFr_frames, List.find?_append, h]
  simp

theorem became_setFr {s : State} {i : Nat} {f g : Frame} (h : s.fr? i = some f) (hg : g.id = i) : became s (s.setFr g) i g :=
  ⟨by simp [fr?_setFr, hg, h], fun j hj => by rw [fr?_setFr, if_neg (hg ▸ hj)]⟩

theorem became_toEnd (s : State) {i : Nat} {g : Frame} (hg : g.id = i) : became s (s.toEnd g) i g :=
  ⟨by simp [fr?_toEnd, hg], fun j hj => by rw [fr?_toEnd, if_neg (hg ▸ hj)]⟩

/-- Operations before and after that leave the frames alone do not matter to what has become of one. -/
theorem became_congr {s s' t t' : State} {i : Nat} {g : Frame} (h : became s t i g) (hs : s.frames = s'.frames) (ht : t'.frames = t.frames) :
    became s' t' i g :=
  ⟨(fr?_congr ht i).trans h.1, fun j hj => ((fr?_congr ht j).trans (h.2 j hj)).trans (fr?_congr hs j)⟩

theorem became_settle {s t : State} {i : Nat} {g : Frame} (h : became s t i g) : became s (settle t) i g := h

theorem Half.n_inj {x y : Half} (h : x.n = y.n) : x = y := by
  cases x with
  | E =>
    cases y with
    | E => rfl
    | W => exact absurd h (by decide)
  | W =>
    cases y with
    | E => exact absurd h (by decide)
    | W => rfl

/-! ## The metadata block and the containers -/

theorem bits_putBits_self (v lo w x : Nat) : bits (putBits v lo w x) lo w = x % 2 ^ w := by
  have e : putBits v lo w x = v % 2 ^ lo + 2 ^ lo * (x % 2 ^ w + 2 ^ w * (v / 2 ^ (lo + w))) := by
    unfold putBits
    rw [pow_add]
    ring
  unfold bits
  rw [e, Nat.add_mul_div_left _ _ (by positivity), Nat.div_eq_of_lt (Nat.mod_lt _ (by positivity)), Nat.zero_add, Nat.add_mul_mod_self_left, Nat.mod_mod]

theorem bits_putBits_below (v lo w x : Nat) {l n : Nat} (h : l + n ≤ lo) : bits (putBits v lo w x) l n = bits v l n := by
  have e : putBits v lo w x % 2 ^ lo = v % 2 ^ lo := by
    unfold putBits
    rw [pow_add, show v % 2 ^ lo + x % 2 ^ w * 2 ^ lo + v / (2 ^ lo * 2 ^ w) * (2 ^ lo * 2 ^ w)
      = v % 2 ^ lo + 2 ^ lo * (x % 2 ^ w + v / (2 ^ lo * 2 ^ w) * 2 ^ w) by ring, Nat.add_mul_mod_self_left, Nat.mod_mod]
  rw [← bits_mod_of_le (putBits v lo w x) h, e, bits_mod_of_le v h]

theorem bits_putBits_above (v lo w x : Nat) {l n : Nat} (h : lo + w ≤ l) : bits (putBits v lo w x) l n = bits v l n := by
  obtain ⟨k, rfl⟩ := Nat.exists_eq_add_of_le h
  have low : v % 2 ^ lo + x % 2 ^ w * 2 ^ lo < 2 ^ (lo + w) := by
    have h1 : v % 2 ^ lo < 2 ^ lo := Nat.mod_lt _ (by positivity)
    have h2 : x % 2 ^ w + 1 ≤ 2 ^ w := Nat.mod_lt _ (by positivity)
    calc v % 2 ^ lo + x % 2 ^ w * 2 ^ lo < (x % 2 ^ w + 1) * 2 ^ lo := by linarith [Nat.succ_mul (x % 2 ^ w) (2 ^ lo)]
      _ ≤ 2 ^ w * 2 ^ lo := Nat.mul_le_mul_right _ h2
      _ = 2 ^ (lo + w) := by rw [pow_add, mul_comm]
  have e : putBits v lo w x / 2 ^ (lo + w) = v / 2 ^ (lo + w) := by
    unfold putBits
    rw [Nat.add_mul_div_right _ _ (by positivity), Nat.div_eq_of_lt low, Nat.zero_add]
  unfold bits
  rw [pow_add, ← Nat.div_div_eq_div_mul, e, Nat.div_div_eq_div_mul, ← pow_add]

theorem Frame.m_congr {f g : Frame} (h : f.md = g.md) (lo w : Nat) : f.m lo w = g.m lo w := by
  unfold Frame.m
  rw [h]

theorem bits_toNat_ofNat (n x : Nat) {lo w : Nat} (h : lo + w ≤ n) : bits (BitVec.ofNat n x).toNat lo w = bits x lo w := by
  rw [BitVec.toNat_ofNat, bits_mod_of_le x h]

theorem m_mset_self (f : Frame) {lo w : Nat} (v : Nat) (h : lo + w ≤ 512) : (f.mset lo w v).m lo w = v % 2 ^ w := by
  unfold Frame.m Frame.mset
  rw [bits_toNat_ofNat _ _ h, bits_putBits_self]

/-- A field of the metadata keeps its value when one beside it is written. -/
theorem m_mset_of_apart (f : Frame) {lo w l n : Nat} (v : Nat) (h : l + n ≤ 512) (ha : l + n ≤ lo ∨ lo + w ≤ l) : (f.mset lo w v).m l n = f.m l n := by
  unfold Frame.m Frame.mset
  rw [bits_toNat_ofNat _ _ h]
  rcases ha with ha | ha
  · exact bits_putBits_below _ _ _ _ ha
  · exact bits_putBits_above _ _ _ _ ha

end Sys2Proof.Machine

namespace Sys2Proof.Machine

/-! ## Grant, crossing and enqueue -/

theorem Within.ipRefresh (s : State) (h : Half) : Within [] [.BUF_IPOOL_use] s (s.ipRefresh h) :=
  .foldl (fun t _ => (Within.refl _ _ t).st _ _) _ s

theorem ipRefresh_rd (s : State) (h : Half) {f : Fld} (ix : List Nat) (hf : f ≠ .BUF_IPOOL_use) (hr : reported f ix = false) :
    (s.ipRefresh h).rd f ix = s.rd f ix := (Within.ipRefresh s h).rd f ix (by simpa using hf) hr

/-- The fields that a charge to a priority group changes (R139). -/
def pgFlds : List Fld := [.BUF_PG_CFG_pg_use, .BUF_PG_CFG_pg_hdrm, .BUF_PG_REMOTE_pg_remote, .BUF_IPOOL_use]

theorem Within.pgCharge (s : State) (h : Half) (j g n : Nat) (hdrm remote : Bool) : Within [] pgFlds s (s.pgCharge h j g n hdrm remote) := by
  unfold State.pgCharge
  extract_lets s1 s2 s3
  have use : Within [] pgFlds s s1 := (Within.refl _ _ s).bump _ _
  have hdr : Within [] pgFlds s s2 := .ite _ (use.bump _ _) use
  have rem : Within [] pgFlds s s3 := .ite _ (hdr.bump _ _) hdr
  exact rem.andThen (.ipRefresh s3 h)

/-- A charge of a copy held in the other half counts in `pg_remote` (R139). -/
theorem rd_pgCharge_remote (s : State) (h : Half) (j g n : Nat) (hdrm : Bool) :
    (s.pgCharge h j g n hdrm true).rd .BUF_PG_REMOTE_pg_remote [h.n, j, g] = (s.rd .BUF_PG_REMOTE_pg_remote [h.n, j, g] + n) % 2 ^ 20 := by
  unfold State.pgCharge
  rw [ipRefresh_rd _ _ _ (by decide) rfl, if_pos rfl, rd_bump, if_pos ⟨rfl, rfl⟩]
  have before : ∀ c : Prop, [Decidable c] → (if c then (s.bump .BUF_PG_CFG_pg_use [h.n, j, g] n).bump .BUF_PG_CFG_pg_hdrm [h.n, j, g] n
      else s.bump .BUF_PG_CFG_pg_use [h.n, j, g] n).rd .BUF_PG_REMOTE_pg_remote [h.n, j, g] = s.rd .BUF_PG_REMOTE_pg_remote [h.n, j, g] := by
    intro c _
    split <;> simp [rd_bump]
  rw [before]
  rfl

theorem Within.pgTake (s : State) (f : Frame) : Within [] pgFlds s (s.pgTake f) := by
  unfold State.pgTake
  split
  · exact .pgCharge ..
  · exact .refl ..

theorem pgTake_of_group {f : Frame} {g : Nat} (hg : f.pg = some g) (s : State) :
    s.pgTake f = s.pgCharge (portHalf f.inPort) (localIdx f.inPort) g f.cells f.hdrm f.remote := by
  unfold State.pgTake
  rw [hg]

/-- A grant leaves the bridge. -/
def State.takeGrant (s : State) (r : Half × Nat) : State := { s with buf := { s.buf with grants := s.buf.grants.erase r } }

/-- A grant that arrives at its ingress half (R130, R139). -/
theorem doAdmissionGrant_eq {s : State} {h : Half} {r : Half × Nat} {f : Frame} (hr : s.buf.grants.find? (fun r => r.1 = h) = some r)
    (hf : s.fr? r.2 = some f) (hl : f.loc = .granted) :
    doAdmissionGrant h s =
      (let t := ((s.takeGrant r).setFr { f with loc := .crossing }).pmc h 9 (pmcDev 0 0 0 0) f.cells
       if portHalf f.inPort = h then t.pgTake f else t) := by
  have hf' : (s.takeGrant r).fr? r.2 = some f := hf
  unfold State.takeGrant at hf' ⊢
  unfold doAdmissionGrant
  rw [hr]
  dsimp only
  rw [hf']
  simp [hl]

theorem admissionGrant_starts_crossing (s : State) (h : Half) (r : Half × Nat) (f : Frame) (hr : s.buf.grants.find? (fun r => r.1 = h) = some r)
    (hf : s.fr? r.2 = some f) (hl : f.loc = .granted) :
    ∃ t, exec (.admissionGrant h) s = .next t ∧ became s t r.2 { f with loc := .crossing } ∧ t.buf.grants = s.buf.grants.erase r
      ∧ (∀ g, f.pg = some g → portHalf f.inPort = h → f.remote = true →
          t.rd .BUF_PG_REMOTE_pg_remote [h.n, localIdx f.inPort, g] = (s.rd .BUF_PG_REMOTE_pg_remote [h.n, localIdx f.inPort, g] + f.cells) % 2 ^ 20)
      ∧ partsBut [.frames, .buf] s t ∧ fieldsBut pgFlds s t := by
  have run : exec (.admissionGrant h) s = .next (settle (doAdmissionGrant h s)) := rfl
  rw [doAdmissionGrant_eq hr hf hl] at run
  extract_lets t at run
  have hid := id_of_fr? hf
  have sent : Reports ((s.takeGrant r).setFr { f with loc := .crossing }) t := (Reports.refl _).pmc _ _ _ _
  have moved : became s t r.2 { f with loc := .crossing } := became_congr (became_setFr (s := s.takeGrant r) (g := { f with loc := .crossing }) hf hid) rfl sent.frames
  have changed : Within [.frames, .buf] pgFlds s t := (((Within.refl _ _ s).set_buf _).set_frames _).report sent
  have taken : Within [] pgFlds t (if portHalf f.inPort = h then t.pgTake f else t) := .ite _ (.pgTake t f) (.refl _ _ t)
  have all := (changed.andThen taken).settle
  refine ⟨_, run, became_settle (became_congr moved rfl taken.frames), ?grants, ?remote, all.parts, all.fields⟩
  case grants =>
    have same := taken.parts .buf (by decide)
    exact (congrArg Buf.grants same).trans (congrArg Buf.grants sent.buf)
  case remote =>
    intro g hg hh hrem
    rw [rd_settle, if_pos hh, pgTake_of_group hg, hh, hrem, rd_pgCharge_remote, sent.rd _ _ rfl]
    rfl

theorem Within.cellsWritten (s : State) (f : Frame) : Within [.ras] [] s (s.cellsWritten f) :=
  .foldl (fun t _ => (Within.refl _ _ t).set_ras _) _ s

theorem bridgeCellArrival_writes (s : State) (id : Nat) (f : Frame) (hf : s.fr? id = some f) (hl : f.loc = .crossing) (hb : s.cellsHeldBack f false = false) :
    ∃ t, exec (.bridgeCellArrival id) s = .next t ∧ became s t id { f with loc := .written } ∧ partsBut [.frames, .ras] s t ∧ fieldsBut [] s t := by
  have run : exec (.bridgeCellArrival id) s = .next (settle (doBridgeCellArrival id s)) := rfl
  have step : doBridgeCellArrival id s = (s.setFr { f with loc := .written }).cellsWritten f := by simp [doBridgeCellArrival, hf, hl, hb]
  rw [step] at run
  have hid := id_of_fr? hf
  have written := Within.cellsWritten (s.setFr { f with loc := .written }) f
  have all := (((Within.refl [.frames, .ras] [] s).set_frames _).andThen written).settle
  have moved := became_congr (became_setFr (g := { f with loc := .written }) hf hid) rfl written.frames
  exact ⟨_, run, became_settle moved, all.parts, all.fields⟩

theorem enqueue_joins_tail (s : State) (id : Nat) (f : Frame) (hf : s.fr? id = some f) (hl : f.loc = .written) (hb : s.cellsHeldBack f true = false)
    (hp : s.rd .BUF_PORT_STAT_state [f.egress.n, localIdx f.out] ≠ 2) (ho : s.forcedOld f = false)
    (he : ¬ (s.gridRuns = true ∧ s.epQueue f.egress f.queue = true ∧ f.epoch ≠ s.epochCnt f.egress)) :
    ∃ t, exec (.enqueue id) s = .next t ∧ became s t id { f with loc := .queued, enqNs := tNs (s.now f.egress) }
      ∧ t.queueIds f.egress f.queue = s.queueIds f.egress f.queue ++ [id]
      ∧ (∀ x q, (x, q) ≠ (f.egress, f.queue) → t.queueIds x q = s.queueIds x q) ∧ partsBut [.frames, .buf] s t ∧ fieldsBut [] s t := by
  have run : exec (.enqueue id) s = .next (settle (doEnqueue id s)) := rfl
  have step : doEnqueue id s = (let u := s.setFr { f with loc := .queued, enqNs := tNs (s.now f.egress) }
      { u with buf := { u.buf with queues := u.buf.queues.set [f.egress.n, f.queue] (u.queueIds f.egress f.queue ++ [id]) } }) := by
    unfold doEnqueue
    rw [hf]
    dsimp only
    rw [if_neg (by simp [hl, hb]), if_neg hp, if_neg (by simp [ho]), if_neg he]
  rw [step] at run
  extract_lets u at run
  have hid := id_of_fr? hf
  have all := (((Within.refl [.frames, .buf] [] s).set_frames u.frames).set_buf
    { u.buf with queues := u.buf.queues.set [f.egress.n, f.queue] (u.queueIds f.egress f.queue ++ [id]) }).settle
  refine ⟨_, run, became_congr (became_setFr (g := { f with loc := .queued, enqNs := tNs (s.now f.egress) }) hf hid) rfl rfl, ?tail, ?others,
    all.parts, all.fields⟩
  case tail => exact SMap.getD_set_self ..
  case others =>
    intro x q hx
    have key : [f.egress.n, f.queue] ≠ [x.n, q] := by
      intro e
      injection e with e1 e2
      exact hx (by rw [Half.n_inj e1, List.head_eq_of_cons_eq e2])
    refine (SMap.getD_set ..).trans ?_
    rw [if_neg key]
    rfl

/-- Settles O23: the grant, the last cell's arrival and the enqueue, each by its own lemma. -/
theorem grantCrossingEnqueue : Obligations.GrantCrossingEnqueue := by
  unfold Obligations.GrantCrossingEnqueue
  exact ⟨admissionGrant_starts_crossing, bridgeCellArrival_writes, enqueue_joins_tail⟩

end Sys2Proof.Machine

namespace Sys2Proof.Machine

/-! ## PARSE -/

theorem Within.arbServe (s : State) (pipe m : Nat) : Within [.sched] [] s (s.arbServe pipe m) := (Within.refl _ _ s).set_sched _

theorem Within.arbPick (s : State) (pipe : Nat) (ready : List Nat) : Within [.sched] [] s (s.arbPick pipe ready).2 := by
  unfold State.arbPick
  extract_lets order next round
  have begun : Within [.sched] [] s round := (Within.refl _ _ s).set_sched _
  split
  · exact .arbServe ..
  · split
    · exact begun.trans (.arbServe ..)
    · exact begun.trans (.arbServe ..)
    · exact begun

/-- The arbiter of a pipe changes its own counts only (R26, R28). -/
theorem Within.arbitrate (s : State) (pipe : Nat) : Within [.sched] [] s (s.arbitrate pipe).2 := by
  unfold State.arbitrate
  extract_lets waiting first ready
  split
  · exact .refl ..
  · have pick := Within.arbPick s pipe ready
    split
    all_goals
      rename_i h
      rw [h] at pick
      exact pick

/-- The receive counters (R279, R280). -/
def rxFlds : List Fld := [.TEL_PORT_CNT_v, .TEL_SLICE_CNT_v]

theorem Within.rxCount (s : State) (h : Half) (port sl : Nat) (bytes : List Byte) : Within [] rxFlds s (s.rxCount h port sl bytes) := by
  unfold State.rxCount
  extract_lets k da s1 s2
  have count : Within [] rxFlds s s1 := ((Within.refl _ _ s).bump _ _).bump _ _
  have cast : Within [] rxFlds s s2 := .ite _ (count.bump _ _) (.ite _ (count.bump _ _) count)
  exact (cast.bump _ _).bump _ _

/-- A frame as the parser leaves it (R38, R45, R54, R86): what its parse and its ports decide of it. -/
structure Parsed (f g : Frame) (pipe : Nat) (ctr : SMap Nat) : Prop where
  id : g.id = f.id
  loc : g.loc = .stages
  stage : g.stage = 0
  bytes : g.bytes = f.bytes
  ctr : g.ctr = ctr
  inPort : g.inPort = f.inPort
  pass : g.pass = if 1024 ≤ f.inPort ∧ f.inPort < 1056 then (f.pass + 1) % 8 else 0
  rhalf : ¬ (1024 ≤ f.inPort ∧ f.inPort < 1056) → g.rhalf = pipeHalf pipe

/-- A field of the metadata block written. -/
def mdPut (m : BitVec 512) (w : Nat × Nat × Nat) : BitVec 512 := BitVec.ofNat 512 (putBits m.toNat w.1 w.2.1 w.2.2)

/-- Fields of the metadata written in order change the metadata only. -/
theorem foldl_mset (f : Frame) (ws : List (Nat × Nat × Nat)) :
    ws.foldl (fun g w => g.mset w.1 w.2.1 w.2.2) f = { f with md := ws.foldl mdPut f.md } := by
  induction ws generalizing f with
  | nil => rfl
  | cons w ws ih => exact ih (f.mset w.1 w.2.1 w.2.2)

theorem bits_mdPut_self (m : BitVec 512) {lo w : Nat} (v : Nat) (h : lo + w ≤ 512) : bits (mdPut m (lo, w, v)).toNat lo w = v % 2 ^ w := by
  unfold mdPut
  rw [bits_toNat_ofNat _ _ h, bits_putBits_self]

/-- A field keeps its value while fields above it are written. -/
theorem bits_foldl_mdPut_of_above (m : BitVec 512) {ws : List (Nat × Nat × Nat)} {lo w : Nat} (h : lo + w ≤ 512) (ha : ∀ x ∈ ws, lo + w ≤ x.1) :
    bits (ws.foldl mdPut m).toNat lo w = bits m.toNat lo w := by
  induction ws generalizing m with
  | nil => rfl
  | cons x ws ih =>
    rw [List.foldl_cons, ih _ (fun y hy => ha y (List.mem_cons_of_mem _ hy))]
    unfold mdPut
    rw [bits_toNat_ofNat _ _ h, bits_putBits_below _ _ _ _ (ha x List.mem_cons_self)]

/-- What the parser writes first: the ports, the slice, the generation, the program tag and the pass number (R54). -/
def parsedMd (m : BitVec 512) (port sl gen tag pass : Nat) (ws : List (Nat × Nat × Nat)) : BitVec 512 :=
  ((0, 11, port) :: (11, 6, sl) :: (17, 16, gen) :: (33, 1, tag) :: (34, 3, pass) :: ws).foldl mdPut m

section
variable (m : BitVec 512) (port sl gen tag pass : Nat) {ws : List (Nat × Nat × Nat)} (above : ∀ x ∈ ws, 37 ≤ x.1)
include above

theorem parsedMd_inPort (h : port < 2 ^ 11) : bits (parsedMd m port sl gen tag pass ws).toNat 0 11 = port := by
  unfold parsedMd
  rw [List.foldl_cons, bits_foldl_mdPut_of_above _ (by decide), bits_mdPut_self _ _ (by decide), Nat.mod_eq_of_lt h]
  simp only [List.forall_mem_cons]
  exact ⟨by simp, by simp, by simp, by simp, fun x hx => le_trans (by simp) (above x hx)⟩

theorem parsedMd_pass : bits (parsedMd m port sl gen tag pass ws).toNat 34 3 = pass % 8 := by
  unfold parsedMd
  iterate 5 rw [List.foldl_cons]
  exact (bits_foldl_mdPut_of_above _ (by decide) above).trans (bits_mdPut_self _ _ (by decide))

end

/-- A parse that raises no event counts the frame, takes its reference, and leaves it before the first stage (R45, R51, R86). -/
theorem parseFrame_of_no_event (s : State) (pipe : Nat) (f : Frame) (p : Prog) (ps : PState) (pix : List Nat)
    (hp : p = s.prog (if 1024 ≤ f.inPort ∧ f.inPort < 1056 then f.tag else s.activeOf (pipeHalf pipe)))
    (hpix : pix = [pipe, s.rd .PAR_PORT_CFG_profile [pipe, parEntry f.inPort]])
    (hps : ps = parseRun p (f.bytes.take (f.bytes.length - 4)) (max 1 (min 16 (s.rd .PAR_PROFILE_hdr_limit pix)))
      (max 64 (min 512 (s.rd .PAR_PROFILE_depth_limit pix))) 18 PState.start)
    (hc : ps.conflict = false) (hs : ps.short = false) (ht : ps.trunc = false) :
    ∃ g sl, Parsed f g pipe ps.ctr
      ∧ s.parseFrame pipe f = ((if 1024 ≤ f.inPort ∧ f.inPort < 1056 then s else s.refAdd g).rxCount (pipeHalf pipe) f.inPort sl f.bytes).toEnd g := by
  unfold State.parseFrame
  extract_lets h port ent prof pix' recirc tag p' data ps' sl gen pcp hash ts blank f1 f2 f3 s1 s2 evs raised s3 worst
  have same : ps' = ps := by
    subst hps hpix hp
    simp only [ps', p', tag, recirc, decide_eq_true_eq]
    rfl
  clear_value pcp hash ts gen sl ps'
  have quiet : raised = [] := by simp [raised, evs, same, hc, hs, ht]
  have calm : worst = 0 := by simp [worst, quiet]
  have unevented : s3 = s2 := by simp [s3, quiet]
  have recirc_iff : recirc = true ↔ 1024 ≤ f.inPort ∧ f.inPort < 1056 := decide_eq_true_iff
  obtain ⟨hid, hloc, hstage, hbytes, hctr, hrhalf⟩ : f1.id = f.id ∧ f1.loc = .stages ∧ f1.stage = 0 ∧ f1.bytes = f.bytes ∧ f1.ctr = ps'.ctr
      ∧ f1.rhalf = if recirc then f.rhalf else h := ⟨rfl, rfl, rfl, rfl, rfl, rfl⟩
  clear_value f1
  obtain ⟨ws, l, listed, written, above⟩ : ∃ ws l, l = (0, 11, f.inPort) :: (11, 6, sl) :: (17, 16, gen) :: (33, 1, tag)
      :: (34, 3, if recirc then f.pass + 1 else 0) :: ws ∧ f2 = l.foldl (fun g w => g.mset w.1 w.2.1 w.2.2) f1 ∧ ∀ x ∈ ws, 37 ≤ x.1 :=
    ⟨_, _, rfl, rfl, by simp⟩
  obtain ⟨r, c, ended⟩ : ∃ r c, f3 = { f2 with range := r, tc := c } := ⟨_, _, rfl⟩
  clear_value f3 f2
  rw [foldl_mset] at written
  have block : f3.md = parsedMd f1.md f.inPort sl gen tag (if recirc then f.pass + 1 else 0) ws := by
    rw [ended, written, listed, parsedMd]
  have frame : Parsed f f3 pipe ps.ctr := by
    have port_lt : f.inPort < 2 ^ 11 := Nat.mod_lt _ (by decide)
    obtain ⟨kid, kloc, kstage, kbytes, kctr, krhalf⟩ : f3.id = f1.id ∧ f3.loc = f1.loc ∧ f3.stage = f1.stage ∧ f3.bytes = f1.bytes ∧ f3.ctr = f1.ctr
        ∧ f3.rhalf = f1.rhalf := by
      rw [ended, written]
      exact ⟨rfl, rfl, rfl, rfl, rfl, rfl⟩
    refine ⟨kid.trans hid, kloc.trans hloc, kstage.trans hstage, kbytes.trans hbytes, kctr.trans (hctr.trans (congrArg PState.ctr same)), ?_, ?_,
      fun hn => krhalf.trans (hrhalf.trans (if_neg ?_))⟩
    · unfold Frame.inPort Frame.m
      rw [block]
      exact parsedMd_inPort _ _ _ _ _ _ above port_lt
    · unfold Frame.pass Frame.m
      rw [block, parsedMd_pass _ _ _ _ _ _ above]
      simp only [recirc_iff]
      split <;> rfl
    · rwa [recirc_iff]
  refine ⟨f3, sl, frame, ?_⟩
  clear_value worst s3
  subst calm unevented
  simp only [s2, s1, recirc_iff]
  rfl

/-- A step that leaves the program copies and the choice of the active one leaves the copy of a tag (R90). -/
theorem prog_congr {s t : State} (ha : t.progA = s.progA) (hb : t.progB = s.progB) (tag : Nat) : t.prog tag = s.prog tag := by
  unfold State.prog
  rw [ha, hb]

theorem doParse_of_granted {s u : State} {pipe : Nat} {f : Frame} (hl : (s.prog (s.activeOf (pipeHalf pipe))).loaded = true)
    (hm : 2 ≤ s.mode ∧ s.mode ≤ 5) (ha : s.arbitrate pipe = (some f, u)) : doParse pipe s = u.parseFrame pipe f := by
  unfold doParse
  rw [ha, if_neg]
  simp [hl, hm]

/-- The reference counter of a new frame's slice and generation (R86). -/
theorem rd_refAdd_self (s : State) (g : Frame) :
    (s.refAdd g).rd .SLC_REFCNT_count [g.rhalf.n, g.slice, g.gen % 4] = (s.rd .SLC_REFCNT_count [g.rhalf.n, g.slice, g.gen % 4] + 1) % 2 ^ 24 := by
  unfold State.refAdd
  rw [rd_bump, if_pos ⟨rfl, rfl⟩]
  rfl

/-- Settles O17: the arbiter changes its own counts only, so the frame that it grants is parsed as the state before it says. -/
theorem parseSendsToStages : Obligations.ParseSendsToStages := by
  unfold Obligations.ParseSendsToStages
  intro s u pipe f p ps pix hl hm ha hp hpix hps hc hs ht
  have picked : Within [.sched] [] s u := by
    have h := Within.arbitrate s pipe
    rwa [ha] at h
  have progs := prog_congr (picked.parts .progA (by decide)) (picked.parts .progB (by decide))
  have active : u.activeOf (pipeHalf pipe) = s.activeOf (pipeHalf pipe) := picked.rd _ _
  have run : exec (.parse pipe) s = .next (settle (doParse pipe s)) := rfl
  obtain ⟨g, sl, parsed, eq⟩ := parseFrame_of_no_event u pipe f p ps pix (by rw [hp, progs, active]) (by rw [hpix, picked.rd _ _])
    (by rw [hps, picked.rd _ _, picked.rd _ _]) hc hs ht
  rw [doParse_of_granted hl hm ha, eq] at run
  have referred : Within [] [.SLC_REFCNT_count] u (if 1024 ≤ f.inPort ∧ f.inPort < 1056 then u else u.refAdd g) :=
    .ite _ (.refl ..) ((Within.refl _ _ u).bump _ _)
  have counted := Within.rxCount (if 1024 ≤ f.inPort ∧ f.inPort < 1056 then u else u.refAdd g) (pipeHalf pipe) f.inPort sl f.bytes
  generalize State.rxCount _ _ _ _ _ = v at run counted
  have all : Within [.frames, .sched] [.SLC_REFCNT_count, .TEL_PORT_CNT_v, .TEL_SLICE_CNT_v] s (settle (v.toEnd g)) :=
    ((((Within.refl _ _ s).andThen picked).andThen referred).andThen counted).toEnd g |>.settle
  refine ⟨_, g, run, ?frame, parsed.loc, parsed.stage, parsed.bytes, parsed.ctr, parsed.inPort, parsed.pass, fun hn => ⟨parsed.rhalf hn, ?count⟩,
    all.parts, all.fields⟩
  case frame =>
    have before : v.frames = s.frames := (counted.frames.trans referred.frames).trans picked.frames
    exact became_settle (became_congr (became_toEnd v parsed.id) before rfl)
  case count =>
    rw [rd_settle, rd_toEnd, counted.rd _ _, if_neg hn, rd_refAdd_self, picked.rd _ _]

end Sys2Proof.Machine

namespace Sys2Proof.Machine

/-! ## TRANSMIT at a looped port -/

/-- A frame that passes every test of its receiver waits under the next number (R436, R476). -/
theorem loopBack_of_passing (s : State) (port : Nat) (c : PortCfg) {b : List Byte} (hc : c.fecInd = false) (hf : fcsOk b = true) (hl : 64 ≤ b.length)
    (hu : b.length ≤ 16383) (hk : 7 ≤ s.tileLinks (portPipe port)) (hp : isPfc b = false) :
    ∃ g, s.loopBack port c b = s.draw.2.addFr g := by
  have links : 7 ≤ s.draw.2.tileLinks (portPipe port) := hk
  have test : s.draw.2.rlTest port b.length = (false, s.draw.2) := if_pos links
  have frame : s.loopBack port c b = s.draw.2.frameIn port c b false s.draw.1 := rfl
  rw [frame]
  unfold State.frameIn
  rw [test]
  simp only [hc, hf, hp, Nat.not_lt.mpr hl, Nat.not_lt.mpr hu]
  exact ⟨_, rfl⟩

/-- A copy without a request and without a start time leaves its looped tile and comes back (R435, R436). -/
theorem doTransmit_of_looped (s : State) (id pos : Nat) (f : Frame) (c : PortCfg) (hf : s.fr? id = some f) (hl : f.loc = .tile)
    (hh : s.tileHeld f = false) (hs : s.rd .LAN_PORT_STAT_state [f.out / 128, f.out % 128] = 4) (hc : s.lanes.ports.get? [f.out] = some c)
    (hloop : s.looped f.out c = true) (hw : s.ptpWord f = none) (hi : f.tsId = 0) (ht : f.timed = false) :
    doTransmit id pos s = (s.delFr id).loopBack f.out c f.bytes := by
  have loops : (s.delFr id).looped f.out c = true := hloop
  unfold doTransmit
  simp [hf, hl, hh, hs, hw, hi, ht, hc, loops]

/-- A copy of 64 bytes in the lane tile of port 0. -/
def tileCopy : Frame := { Frame.blank with loc := .tile, out := 0, bytes := withFcs (List.replicate 60 0) }

/-- The settings of port 0: one lane. -/
def oneLane : PortCfg := ⟨1, 0, true, false, false, false⟩

/-- Port 0 is up, its lane loops to its receiver and seven links of its tile work; the copy in the tile has the number that the next new frame gets. -/
def loopedState : State :=
  { State.reset.sts ([(.LAN_PORT_STAT_state, [0, 0], 4), (.LAN_LANE_STAT_loop, [0, 0], 2)] ++ (List.range 7).map (fun l => (.GLB_LINK_STAT_state, [8, l], 2))) with
    frames := [tileCopy], nextId := 0, lanes := { State.reset.lanes with ports := [([0], oneLane)] } }

theorem loopedState_ready : loopedState.tileHeld tileCopy = false ∧ loopedState.rd .LAN_PORT_STAT_state [0, 0] = 4
    ∧ loopedState.xingBusy .E 1 0 = false ∧ loopedState.looped 0 oneLane = true ∧ loopedState.ptpWord tileCopy = none
    ∧ 7 ≤ loopedState.tileLinks (portPipe 0) := by
  decide +kernel

theorem tileCopy_passes : fcsOk tileCopy.bytes = true ∧ 64 ≤ tileCopy.bytes.length ∧ tileCopy.bytes.length ≤ 16383 ∧ isPfc tileCopy.bytes = false
    ∧ tileCopy.tsId = 0 := by
  decide +kernel

/-- The copy that left comes back under its own number. -/
theorem fr?_transmit_loopedState : ∃ g, (doTransmit 0 0 loopedState).fr? 0 = some g := by
  obtain ⟨held, up, -, loops, quiet, links⟩ := loopedState_ready
  obtain ⟨ok, long, short, plain, untold⟩ := tileCopy_passes
  rw [doTransmit_of_looped loopedState 0 0 tileCopy oneLane rfl rfl held up rfl loops quiet untold rfl]
  obtain ⟨g, returned⟩ := loopBack_of_passing (loopedState.delFr 0) 0 oneLane rfl ok long short links plain
  exact ⟨_, (congrArg (State.fr? · 0) returned).trans (fr?_addFr_self (loopedState.delFr 0).draw.2 g rfl)⟩

/-- Refutes O30: TRANSMIT at a looped port. The statement asserts that no frame has the copy's number afterwards, but the frame that
comes back gets the next number, and no premise says that the next number is not the copy's own. Here both are 0. -/
theorem not_deparseAndTransmit : ¬ Obligations.DeparseAndTransmit := by
  unfold Obligations.DeparseAndTransmit
  intro h
  obtain ⟨held, up, clear, -, quiet, -⟩ := loopedState_ready
  obtain ⟨-, -, -, -, untold⟩ := tileCopy_passes
  obtain ⟨t, run, gone, -⟩ := (h.2.1 loopedState 0 0 tileCopy rfl rfl held).1 oneLane false (loopedState.txTime 0 0) tileCopy.bytes false (by decide) up clear rfl
    rfl (by rw [if_neg (by decide)]; rfl) (by rw [quiet]) (by rw [quiet, untold]; rfl)
  obtain ⟨g, back⟩ := fr?_transmit_loopedState
  have same : settle (doTransmit 0 0 loopedState) = t := Host.Outcome.next.inj run
  rw [← same, fr?_settle, back] at gone
  cases gone

end Sys2Proof.Machine

namespace Sys2Proof.Machine

/-! ## Drops -/

namespace Reports

theorem setRq {s t : State} (h : Reports s t) (x : Half) (r : Nat) (q : List RtEv) : Reports s (t.setRq x r q) :=
  h.trans ⟨rfl, fun _ _ _ => rfl, rfl, rfl, (refl t).events⟩

theorem postWork {s t : State} (h : Reports s t) (x : Half) (r : Nat) (body : List Word) : Reports s (t.postWork x r body) :=
  ite _ h (h.rqPost _ _ _)

theorem takeWork {s t : State} (h : Reports s t) (x : Half) (r : Nat) (body : List Word) : Reports s (t.takeWork x r body) :=
  ite _ (h.setRq _ _ _) h

theorem bridgeMsg {s t : State} (h : Reports s t) (x : Half) : Reports s (t.bridgeMsg x) := h.pmc _ _ _ _

end Reports

/-- Work of a routine waits, or is done where only reports came before it (R301, R302). -/
theorem viaRoutine_cases (s : State) (h : Half) (r : Nat) (body : List Word) (op : State → State) :
    Reports s (s.viaRoutine h r body op) ∨ ∃ u, Reports s u ∧ s.viaRoutine h r body op = op u := by
  unfold State.viaRoutine
  split
  · exact .inl ((Reports.refl s).postWork ..)
  · split
    · exact .inr ⟨_, (Reports.refl s).takeWork .., rfl⟩
    · exact .inl (.refl s)

theorem Within.sample (s : State) (h : Half) (who sess hash : Nat) : Within [.tel, .fresh] [] s (s.sample h who sess hash).2 := by
  unfold State.sample
  split
  · exact .refl ..
  · exact (Within.refl _ _ s).set_tel _
  · exact (Within.refl _ _ s).set_fresh _
  · exact .refl ..

/-- The fields that the exporter changes as it takes a record (R273, R274, R275). -/
def expFlds : List Fld := [.TEL_EXP_STAT_fifo, .TEL_EXP_STAT_seq, .TEL_CNT_v]

/-- The exporter works: its own parts and fields change, and it may send one new frame (R273, R274, R275). -/
def Exports (s t : State) : Prop :=
  Within [.tel, .fresh] expFlds s t ∨ ∃ u g, Within [.tel, .fresh] expFlds s u ∧ t = u.addFr g

namespace Exports

theorem of_within {s u t : State} (h : Within [.tel, .fresh] expFlds s u) (k : Exports u t) : Exports s t :=
  k.imp h.trans fun ⟨v, g, hv, ht⟩ => ⟨v, g, h.trans hv, ht⟩

theorem within {s t : State} (h : Exports s t) : Within [.tel, .fresh, .frames, .nextId] expFlds s t := by
  rcases h with h | ⟨u, g, h, rfl⟩
  · exact h.mono
  · have k : Within [.tel, .fresh, .frames, .nextId] expFlds s u := h.mono
    exact k.addFr g

theorem fr? {s t : State} (h : Exports s t) {i : Nat} (hi : i ≠ s.nextId) : t.fr? i = s.fr? i := by
  rcases h with h | ⟨u, g, h, rfl⟩
  · exact fr?_congr h.frames i
  · rw [fr?_addFr_of_ne u g (h.nextId ▸ hi)]
    exact fr?_congr h.frames i

theorem ite {s t u : State} (c : Prop) [Decidable c] (h : Exports s t) (k : Exports s u) : Exports s (if c then t else u) := by
  split
  · exact h
  · exact k

end Exports

theorem Within.setExpFifo (s : State) (h : Half) (q : List (List Byte)) : Within [.tel, .fresh] expFlds s (s.setExpFifo h q) :=
  Within.mono ⟨partsBut_setExpFifo s h q, fieldsBut_setExpFifo s h q⟩

theorem Within.telDrain (s : State) (h : Half) : Within [.tel, .fresh] expFlds s (s.telDrain h) :=
  Within.mono ⟨partsBut_telDrain s h, fieldsBut_telDrain s h⟩

theorem exportEmit_exports (s : State) (h : Half) : Exports s (s.exportEmit h) := by
  unfold State.exportEmit
  extract_lets q n port
  split
  · exact .inl (.refl ..)
  · rcases viaRoutine_cases s h 9 [0, 1] _ with waits | ⟨u, taken, sent⟩
    · exact .inl (waits.within.mono (by simp) (by simp))
    · refine .inr ⟨_, _, ?_, sent⟩
      have before : Within [.tel, .fresh] expFlds s u := (Within.refl _ _ s).report taken
      have fewer := before.trans (.setExpFifo u h (q.drop n))
      cases h <;> exact ((fewer.set_tel _).st _ _).bump _ _

theorem telOffer_exports (s : State) (h : Half) (rec : List Byte) : Exports s (s.telOffer h rec) := by
  unfold State.telOffer
  extract_lets q tel s1 s2
  split
  · exact .inl ((Within.refl _ _ s).bump _ _)
  · have first : Within [.tel, .fresh] expFlds s s1 := by
      refine .ite _ ?_ (.refl ..)
      cases h <;> exact (Within.refl _ _ s).set_tel _
    have taken : Within [.tel, .fresh] expFlds s s2 := first.trans (.setExpFifo ..)
    split
    · exact .inl (taken.trans (.telDrain ..))
    · split
      · exact .of_within taken (exportEmit_exports s2 h)
      · exact .inl taken

theorem dropCount_exports (s : State) (h : Half) (cause : Nat) (f : Frame) (record : Bool) :
    Exports (s.bump .TEL_DROP_CNT_v [h.n, cause] 1) (s.dropCount h cause f record) := by
  unfold State.dropCount
  extract_lets s1
  have sampled := (Within.sample s1 h (32 + h.n) (s1.rd .TEL_CFG_drop_sess [h.n]) f.hash).mono (ps := [.tel, .fresh]) (fs := expFlds)
  generalize s1.sample h (32 + h.n) (s1.rd .TEL_CFG_drop_sess [h.n]) f.hash = x at sampled ⊢
  refine .ite _ (.ite _ (.of_within sampled (telOffer_exports ..)) (.inl sampled)) (.inl (.refl ..))

theorem Within.release (s : State) (h : Half) (f : Frame) : Within [.tables, .ras] [.SLC_REFCNT_count, .RAS_CNT_v] s (s.release h f) := by
  unfold State.release
  refine .ite _ ((Within.refl _ _ s).lower _ _) (.ite _ ?_ ?_)
  · exact ((Within.refl _ _ s).set_ras _).bump _ _
  · exact ((Within.refl _ _ s).set_tables _).report ((Reports.refl _).bridgeMsg h)

/-- A drop changes its own parts and fields only (R40, R86, R272). -/
theorem Within.dropFr (s : State) (h : Half) (cause : Nat) (f : Frame) : Within dropParts dropFlds s (s.dropFr h cause f) :=
  ((((Within.refl _ _ s).bump _ _).andThen (dropCount_exports s h cause f true).within).andThen (.release _ h f)).delFr f.id

/-- A frame ends at a drop point: it is gone and counted, and only an export frame may be new (R40, R272, R274). -/
theorem dropped_dropFr (s : State) (h : Half) (cause : Nat) (f : Frame) : dropped s (s.dropFr h cause f) f.id h cause := by
  have counted := dropCount_exports s h cause f true
  have released := Within.release (s.dropCount h cause f true) h f
  refine ⟨by simp [State.dropFr, fr?_delFr], ?count, fun i hi hn => ?others⟩
  case count =>
    unfold State.dropFr
    rw [rd_delFr, released.rd _ _, counted.within.rd _ _, rd_bump, if_pos ⟨rfl, rfl⟩]
    rfl
  case others =>
    unfold State.dropFr
    rw [fr?_delFr, if_neg hi, fr?_congr released.frames, counted.fr? hn]
    rfl

/-- Operations before a drop that leave the other frames, the next number and the drop's count alone do not matter to it. -/
theorem dropped_congr {s u t : State} {i : Nat} {h : Half} {cause : Nat} (d : dropped u t i h cause) (hf : ∀ j, j ≠ i → u.fr? j = s.fr? j)
    (hn : u.nextId = s.nextId) (hc : u.rd .TEL_DROP_CNT_v [h.n, cause] = s.rd .TEL_DROP_CNT_v [h.n, cause]) : dropped s t i h cause := by
  obtain ⟨gone, count, others⟩ := d
  exact ⟨gone, hc ▸ count, fun j hj hk => (others j hj (hn ▸ hk)).trans (hf j hj)⟩

end Sys2Proof.Machine

namespace Sys2Proof.Machine

/-! ## A frame's fate after I19 -/

/-- The frame that stands after I19: one that no stage matched is marked so (R61). -/
def Frame.marked (f : Frame) : Frame := if f.m 256 1 = 0 then f.mset 106 1 1 else f

/-- The frame is marked and its NO_MATCH counted (R60, R61). -/
def State.marks (s : State) (f : Frame) : State :=
  if f.m 256 1 = 0 then (s.setFr f.marked).bump .PAR_EVT_CNT_v [f.pipe, parEntry f.inPort, 3] 1 else s.setFr f.marked

namespace Frame

variable (f : Frame)

theorem marked_m {l n : Nat} (h : l + n ≤ 512) (ha : l + n ≤ 106 ∨ 107 ≤ l) : f.marked.m l n = f.m l n := by
  unfold marked
  split
  · exact m_mset_of_apart f 1 h ha
  · rfl

theorem marked_noMatch (h : f.m 256 1 = 0) : f.marked.m 106 1 = 1 := by
  unfold marked
  rw [if_pos h]
  exact m_mset_self _ _ (by decide)

/-- Only the metadata of a marked frame differ. -/
theorem marked_eq : f.marked = { f with md := f.marked.md } := by
  unfold marked
  split <;> rfl

@[simp] theorem mset_id (lo w v : Nat) : (f.mset lo w v).id = f.id := by rw [mset]
@[simp] theorem marked_id : f.marked.id = f.id := by rw [marked_eq]
@[simp] theorem marked_bytes : f.marked.bytes = f.bytes := by rw [marked_eq]
@[simp] theorem marked_learn : f.marked.learn = f.learn := by rw [marked_eq]
@[simp] theorem marked_nmAct : f.marked.nmAct = f.nmAct := by rw [marked_eq]
@[simp] theorem marked_nmPort : f.marked.nmPort = f.nmPort := by rw [marked_eq]
@[simp] theorem marked_trapPort : f.marked.trapPort = f.trapPort := by rw [marked_eq]
@[simp] theorem marked_trapTc : f.marked.trapTc = f.trapTc := by rw [marked_eq]
@[simp] theorem marked_slice : f.marked.slice = f.slice := f.marked_m (by decide) (by decide)
@[simp] theorem marked_dest : f.marked.dest = f.dest := f.marked_m (by decide) (by decide)
@[simp] theorem marked_drop : f.marked.m 273 1 = f.m 273 1 := f.marked_m (by decide) (by decide)
@[simp] theorem marked_trap : f.marked.m 274 1 = f.m 274 1 := f.marked_m (by decide) (by decide)
@[simp] theorem marked_mirror : f.marked.m 275 1 = f.m 275 1 := f.marked_m (by decide) (by decide)
@[simp] theorem marked_reason : f.marked.m 107 8 = f.m 107 8 := f.marked_m (by decide) (by decide)
@[simp] theorem marked_tc : f.marked.m 268 3 = f.m 268 3 := f.marked_m (by decide) (by decide)

end Frame

theorem frames_marks (s : State) (f : Frame) : (s.marks f).frames = (s.setFr f.marked).frames := by
  unfold State.marks
  split <;> rfl

theorem nextId_marks (s : State) (f : Frame) : (s.marks f).nextId = s.nextId := by
  unfold State.marks
  split <;> rfl

theorem Within.marks (s : State) (f : Frame) : Within [.frames] [.PAR_EVT_CNT_v] s (s.marks f) :=
  .ite _ (((Within.refl _ _ s).setFr _).bump _ _) ((Within.refl _ _ s).setFr _)

/-- A NO_MATCH is counted once; the other events of the port are not (R60). -/
theorem rd_marks (s : State) (f : Frame) (k : Nat) : (s.marks f).rd .PAR_EVT_CNT_v [f.pipe, parEntry f.inPort, k]
    = if f.m 256 1 = 0 ∧ k = 3 then (s.rd .PAR_EVT_CNT_v [f.pipe, parEntry f.inPort, 3] + 1) % 2 ^ 64
      else s.rd .PAR_EVT_CNT_v [f.pipe, parEntry f.inPort, k] := by
  unfold State.marks
  by_cases hm : f.m 256 1 = 0
  · by_cases hk : k = 3
    · subst hk
      simp only [hm, rd_bump, rd_setFr, and_self, if_true]
      rfl
    · simp [hm, hk, rd_bump]
  · simp [hm]

/-- The decision after I19 of a frame without a mirror request, a learn candidate or a launch time: explicit drop, NO_MATCH DROP, trap, NO_MATCH TRAP, NO_MATCH FORWARD, forward, in this order (R61, R76). -/
theorem afterI19_eq (s : State) (f x : Frame) (hx : s.fr? f.id = some x) (hl : s.on .GTE_LT_SRC_en [(pipeHalf f.pipe).n, f.tag] = false)
    (hm : f.m 275 1 = 0) (hc : f.learn = none) :
    s.afterI19 f =
      if f.m 273 1 = 1 then ((s.marks f).bump .SLC_CNT_v [(pipeHalf f.pipe).n, f.slice, 0] 1).dropFr (pipeHalf f.pipe) 2 f.marked
      else if (if f.m 256 1 = 0 then severity f.nmAct else 0) = 2 then
        ((s.marks f).bump .PAR_EVT_CNT_v [f.pipe, parEntry f.inPort, 4] 1).dropFr (pipeHalf f.pipe) 1 f.marked
      else if f.m 274 1 = 1 then
        ((s.marks f).bump .SLC_CNT_v [(pipeHalf f.pipe).n, f.slice, 1] 1).toFront (pipeHalf f.pipe) f.marked (1056 + f.trapPort) f.trapTc
      else if (if f.m 256 1 = 0 then severity f.nmAct else 0) = 1 then
        ((s.marks f).bump .PAR_EVT_CNT_v [f.pipe, parEntry f.inPort, 5] 1).toFront (pipeHalf f.pipe) (f.marked.mset 107 8 4) (1056 + f.trapPort) f.trapTc
      else if f.m 256 1 = 0 then (s.marks f).toFront (pipeHalf f.pipe) (f.marked.mset 257 11 f.nmPort) f.nmPort (f.m 268 3)
      else (s.marks f).toFront (pipeHalf f.pipe) f.marked f.dest (f.m 268 3) := by
  unfold State.afterI19
  extract_lets pipe h ent lt word f1 noMatch f2 s1 s2 s3 f3 s4 nm host ttc
  have launched : f1 = f := if_neg (by simp [lt, h, pipe, hl])
  have mark : f2 = f.marked := by simp only [f2, noMatch, launched]; rfl
  have stored : s1 = s.setFr f.marked := congrArg s.setFr mark
  have unmirrored : s2 = s1 := if_neg (by rw [mark, Frame.marked_mirror, hm]; decide)
  have unlearned : s3 = s2 := by simp only [s3, mark, Frame.marked_learn, hc]
  have shared : s3.fr? f2.id = some f.marked := by
    rw [unlearned, unmirrored, stored, mark, fr?_setFr]
    simp [hx]
  have same : f3 = f.marked := by
    have e : f3 = { f2 with learn := none, share := ((s3.fr? f2.id).getD f2).share } := rfl
    rw [e, shared, mark, Option.getD_some, ← hc, ← Frame.marked_learn]
  have count : s4 = s.marks f := by
    simp only [s4, noMatch, launched, unlearned, unmirrored, stored]
    rfl
  simp only [nm, host, ttc, noMatch, ent, h, pipe, launched, same, count, Frame.marked_drop, Frame.marked_trap, Frame.marked_slice, Frame.marked_nmAct, Frame.marked_trapPort,
    Frame.marked_trapTc, Frame.marked_nmPort, Frame.marked_tc, Frame.marked_dest]

/-- A frame at the traffic manager's front end, for a port and class. -/
def Frame.fronted (f : Frame) (out tc : Nat) : Frame := { f with loc := .front, out := out, tc := tc }

section
variable (f : Frame) (out tc : Nat)

@[simp] theorem Frame.fronted_id : (f.fronted out tc).id = f.id := by rw [Frame.fronted]
@[simp] theorem Frame.fronted_bytes : (f.fronted out tc).bytes = f.bytes := by rw [Frame.fronted]
@[simp] theorem Frame.fronted_loc : (f.fronted out tc).loc = .front := by rw [Frame.fronted]
@[simp] theorem Frame.fronted_out : (f.fronted out tc).out = out := by rw [Frame.fronted]
@[simp] theorem Frame.fronted_tc : (f.fronted out tc).tc = tc := by rw [Frame.fronted]
@[simp] theorem Frame.fronted_m (lo w : Nat) : (f.fronted out tc).m lo w = f.m lo w := Frame.m_congr rfl lo w
@[simp] theorem Frame.fronted_dest : (f.fronted out tc).dest = f.dest := Frame.fronted_m ..

end

theorem toFront_of_lt (s : State) (h : Half) (f : Frame) {out : Nat} (tc : Nat) (ho : out < 1088) :
    s.toFront h f out tc = s.setFr (f.fronted out tc) := if_neg (Nat.not_le.mpr ho)

theorem Within.toFront (s : State) (h : Half) (f : Frame) (out tc : Nat) : Within dropParts (.SLC_CNT_v :: dropFlds) s (s.toFront h f out tc) :=
  .ite _ (((Within.refl _ _ s).bump _ _).andThen (.dropFr ..)) ((Within.refl _ _ s).setFr _)

section
variable {s u : State} {f x : Frame} (hx : s.fr? f.id = some x) (hu : u.frames = (s.setFr f.marked).frames)
include hx hu

/-- A marked frame goes on as another under its number. -/
theorem became_of_marked {g : Frame} (hg : g.id = f.id) : became s (u.setFr g) f.id g := by
  have stands : u.fr? f.id = some f.marked := by
    rw [fr?_congr hu, fr?_setFr]
    simp [hx]
  obtain ⟨here, others⟩ := became_setFr stands hg
  refine ⟨here, fun i hi => (others i hi).trans ?_⟩
  rw [fr?_congr hu, fr?_setFr, if_neg (by simpa using hi)]

omit hx in
/-- A marked frame ends at a drop point. -/
theorem dropped_of_marked (h : Half) (cause : Nat) (hn : u.nextId = s.nextId)
    (hc : u.rd .TEL_DROP_CNT_v [h.n, cause] = s.rd .TEL_DROP_CNT_v [h.n, cause]) : dropped s (u.dropFr h cause f.marked) f.id h cause := by
  have drop := dropped_dropFr u h cause f.marked
  rw [Frame.marked_id] at drop
  refine dropped_congr drop (fun j hj => ?_) hn hc
  rw [fr?_congr hu, fr?_setFr, if_neg (by simpa using hj)]

end

/-- A marked frame is dropped after a counter of its fate has counted (R60, R76). -/
theorem dropped_marks (s : State) (f : Frame) (h : Half) (cause : Nat) (c : Fld) (ix : List Nat) (hc : c ≠ .TEL_DROP_CNT_v) :
    dropped s (((s.marks f).bump c ix 1).dropFr h cause f.marked) f.id h cause := by
  have frames : ((s.marks f).bump c ix 1).frames = (s.setFr f.marked).frames := frames_marks s f
  refine dropped_of_marked frames h cause (nextId_marks s f) ?_
  rw [rd_bump, if_neg (fun e => hc e.1.symm), (Within.marks s f).rd _ _]

/-- A NO_MATCH counts in its own counter whatever follows (R60). -/
theorem rd_noMatch_afterI19 (s : State) (f x : Frame) (hx : s.fr? f.id = some x) (hl : s.on .GTE_LT_SRC_en [(pipeHalf f.pipe).n, f.tag] = false)
    (hm : f.m 275 1 = 0) (hc : f.learn = none) (h0 : f.m 256 1 = 0) :
    (s.afterI19 f).rd .PAR_EVT_CNT_v [f.pipe, parEntry f.inPort, 3] = (s.rd .PAR_EVT_CNT_v [f.pipe, parEntry f.inPort, 3] + 1) % 2 ^ 64 := by
  have marks : (s.marks f).rd .PAR_EVT_CNT_v [f.pipe, parEntry f.inPort, 3] = (s.rd .PAR_EVT_CNT_v [f.pipe, parEntry f.inPort, 3] + 1) % 2 ^ 64 := by
    rw [rd_marks, if_pos ⟨h0, rfl⟩]
  have kept : ∀ c ix, (c = .PAR_EVT_CNT_v → ix ≠ [f.pipe, parEntry f.inPort, 3]) →
      ((s.marks f).bump c ix 1).rd .PAR_EVT_CNT_v [f.pipe, parEntry f.inPort, 3] = (s.rd .PAR_EVT_CNT_v [f.pipe, parEntry f.inPort, 3] + 1) % 2 ^ 64 := by
    intro c ix hne
    rw [rd_bump, if_neg (fun e => hne e.1.symm e.2.symm), marks]
  rw [afterI19_eq s f x hx hl hm hc, if_pos h0]
  split
  · rw [(Within.dropFr ..).rd _ _, kept _ _ (by simp)]
  split
  · rw [(Within.dropFr ..).rd _ _, kept _ _ (by simp)]
  split
  · rw [(Within.toFront ..).rd _ _, kept _ _ (by simp)]
  split
  · rw [(Within.toFront ..).rd _ _, kept _ _ (by simp)]
  · rw [(Within.toFront ..).rd _ _, marks]

/-- What follows stage 19, for each decision (R60, R61, R76). -/
theorem afterI19_decides (s t : State) (f x : Frame) (h : Half) (ent : Nat) (ht : t = s.afterI19 f) (hx : s.fr? f.id = some x) (hh : h = pipeHalf f.pipe)
    (hent : ent = parEntry f.inPort) (hl : s.on .GTE_LT_SRC_en [h.n, f.tag] = false) (hm : f.m 275 1 = 0) (hc : f.learn = none) :
    (f.m 256 1 = 0 → t.rd .PAR_EVT_CNT_v [f.pipe, ent, 3] = (s.rd .PAR_EVT_CNT_v [f.pipe, ent, 3] + 1) % 2 ^ 64)
    ∧ (f.m 273 1 = 1 → dropped s t f.id h 2 ∧ t.rd .SLC_CNT_v [h.n, f.slice, 0] = (s.rd .SLC_CNT_v [h.n, f.slice, 0] + 1) % 2 ^ 64)
    ∧ (f.m 273 1 = 0 → f.m 256 1 = 0 → severity f.nmAct = 2 →
      dropped s t f.id h 1 ∧ t.rd .PAR_EVT_CNT_v [f.pipe, ent, 4] = (s.rd .PAR_EVT_CNT_v [f.pipe, ent, 4] + 1) % 2 ^ 64)
    ∧ (f.m 273 1 = 0 → f.m 274 1 = 1 → (f.m 256 1 = 0 → severity f.nmAct ≠ 2) → 1056 + f.trapPort < 1088 →
      ∃ g, became s t f.id g ∧ g.loc = .front ∧ g.out = 1056 + f.trapPort ∧ g.tc = f.trapTc ∧ g.m 107 8 = f.m 107 8
        ∧ t.rd .SLC_CNT_v [h.n, f.slice, 1] = (s.rd .SLC_CNT_v [h.n, f.slice, 1] + 1) % 2 ^ 64)
    ∧ (f.m 273 1 = 0 → f.m 274 1 = 0 → f.m 256 1 = 0 → severity f.nmAct = 1 → 1056 + f.trapPort < 1088 →
      ∃ g, became s t f.id g ∧ g.loc = .front ∧ g.out = 1056 + f.trapPort ∧ g.tc = f.trapTc ∧ g.m 107 8 = 4 ∧ g.m 106 1 = 1
        ∧ t.rd .PAR_EVT_CNT_v [f.pipe, ent, 5] = (s.rd .PAR_EVT_CNT_v [f.pipe, ent, 5] + 1) % 2 ^ 64)
    ∧ (f.m 273 1 = 0 → f.m 274 1 = 0 → f.m 256 1 = 0 → severity f.nmAct = 0 → f.nmPort < 1088 →
      ∃ g, became s t f.id g ∧ g.loc = .front ∧ g.out = f.nmPort ∧ g.dest = f.nmPort ∧ g.tc = f.m 268 3 ∧ g.m 106 1 = 1)
    ∧ (f.m 273 1 = 0 → f.m 274 1 = 0 → f.m 256 1 = 1 → f.dest < 1088 → ∃ g, became s t f.id g ∧ g.loc = .front ∧ g.out = f.dest ∧ g.tc = f.m 268 3 ∧ g.bytes = f.bytes) := by
  subst ht hh hent
  have eq := afterI19_eq s f x hx hl hm hc
  refine ⟨rd_noMatch_afterI19 s f x hx hl hm hc, fun hd => ?explicit, fun hd h0 hs => ?noMatchDrop, fun hd ht hs hp => ?trap,
    fun hd ht h0 hs hp => ?noMatchTrap, fun hd ht h0 hs hp => ?noMatchForward, fun hd ht h1 hp => ?forward⟩
  case explicit =>
    rw [eq, if_pos hd]
    refine ⟨dropped_marks _ _ _ _ _ _ (by decide), ?_⟩
    rw [(Within.dropFr ..).rd _ _, rd_bump, if_pos ⟨rfl, rfl⟩, (Within.marks s f).rd _ _]
    rfl
  case noMatchDrop =>
    rw [eq, if_neg (by rw [hd]; decide), if_pos (by rw [if_pos h0, hs])]
    refine ⟨dropped_marks _ _ _ _ _ _ (by decide), ?_⟩
    rw [(Within.dropFr ..).rd _ _, rd_bump, if_pos ⟨rfl, rfl⟩, rd_marks, if_neg (by simp)]
    rfl
  case trap =>
    have calm : ¬ (if f.m 256 1 = 0 then severity f.nmAct else 0) = 2 := by
      split
      next h0 => exact hs h0
      next => decide
    rw [eq, if_neg (by rw [hd]; decide), if_neg calm, if_pos ht, toFront_of_lt _ _ _ _ hp]
    refine ⟨f.marked.fronted _ _, became_of_marked hx (frames_marks s f) (by simp), by simp, by simp, by simp, by simp, ?_⟩
    rw [rd_setFr, rd_bump, if_pos ⟨rfl, rfl⟩, (Within.marks s f).rd _ _]
    rfl
  case noMatchTrap =>
    rw [eq, if_neg (by rw [hd]; decide), if_neg (by rw [if_pos h0, hs]; decide), if_neg (by rw [ht]; decide), if_pos (by rw [if_pos h0, hs]),
      toFront_of_lt _ _ _ _ hp]
    refine ⟨(f.marked.mset 107 8 4).fronted _ _, became_of_marked hx (frames_marks s f) (by simp), by simp, by simp, by simp, ?reason, ?mark, ?_⟩
    case reason => exact (Frame.fronted_m ..).trans (m_mset_self _ _ (by decide))
    case mark => rw [Frame.fronted_m, m_mset_of_apart _ _ (by decide) (by decide), f.marked_noMatch h0]
    rw [rd_setFr, rd_bump, if_pos ⟨rfl, rfl⟩, rd_marks, if_neg (by simp)]
    rfl
  case noMatchForward =>
    rw [eq, if_neg (by rw [hd]; decide), if_neg (by rw [if_pos h0, hs]; decide), if_neg (by rw [ht]; decide), if_neg (by rw [if_pos h0, hs]; decide),
      if_pos h0, toFront_of_lt _ _ _ _ hp]
    refine ⟨(f.marked.mset 257 11 f.nmPort).fronted _ _, became_of_marked hx (frames_marks s f) (by simp), by simp, by simp, ?port, by simp, ?mark⟩
    case port => rw [Frame.fronted_dest, Frame.dest, m_mset_self _ _ (by decide), Nat.mod_eq_of_lt (lt_trans hp (by decide))]
    case mark => rw [Frame.fronted_m, m_mset_of_apart _ _ (by decide) (by decide), f.marked_noMatch h0]
  case forward =>
    have matched : ¬ f.m 256 1 = 0 := by rw [h1]; decide
    rw [eq, if_neg (by rw [hd]; decide), if_neg (by rw [if_neg matched]; decide), if_neg (by rw [ht]; decide), if_neg (by rw [if_neg matched]; decide),
      if_neg matched, toFront_of_lt _ _ _ _ hp]
    exact ⟨f.marked.fronted _ _, became_of_marked hx (frames_marks s f) (by simp), by simp, by simp, by simp, by simp⟩

end Sys2Proof.Machine

namespace Sys2Proof.Machine

/-! ## The operations of an action program -/

theorem c_cset_self (f : Frame) {cls idx : Nat} (v : Nat) (h : ctrOk cls idx = true) : (f.cset cls idx v).c cls idx = v % 2 ^ clsW cls := by
  unfold Frame.c Frame.cset
  rw [if_pos h, if_pos h]
  exact SMap.getD_set_self ..

theorem c_cset_of_ne (f : Frame) {cls idx x y : Nat} (v : Nat) (h : (x, y) ≠ (cls, idx)) : (f.cset cls idx v).c x y = f.c x y := by
  unfold Frame.c Frame.cset
  by_cases hc : ctrOk cls idx = true
  · have key : [cls, idx] ≠ [x, y] := by
      intro e
      injection e with e1 e2
      exact h (by rw [e1, List.head_eq_of_cons_eq e2])
    rw [if_pos hc]
    dsimp only
    rw [SMap.getD_set, if_neg key]
  · rw [if_neg hc]

@[simp] theorem md_cset (f : Frame) (cls idx v : Nat) : (f.cset cls idx v).md = f.md := by
  unfold Frame.cset
  split <;> rfl

theorem ctr_mset (f : Frame) (lo w v : Nat) : (f.mset lo w v).ctr = f.ctr := by rw [Frame.mset]

/-- A sum wraps at the operands' width (R76). -/
theorem aluOp_add (w a b : Nat) : aluOp .add w a b = (a + b) % 2 ^ w := (Nat.add_mod ..).symm

section
variable (s : State) (pipe adata : Nat) (eg : Bool) (f : Frame)

theorem opStep_set (cls idx : Nat) (a : Config.Src) (h : ctrOk cls idx = true) :
    ∃ g, s.opStep pipe eg adata f (.set (.ctr cls idx) a) = (g, s) ∧ g.c cls idx = srcVal f adata a % 2 ^ clsW cls
      ∧ (∀ x y, (x, y) ≠ (cls, idx) → g.c x y = f.c x y) ∧ g.md = f.md :=
  ⟨f.cset cls idx _, rfl, c_cset_self f _ h, fun _ _ => c_cset_of_ne f _, md_cset ..⟩

theorem opStep_add (w cls idx : Nat) (a b : Config.Src) (h : ctrOk cls idx = true) (hw : w = clsW cls) :
    ∃ g, s.opStep pipe eg adata f (.alu .add w (.ctr cls idx) a b) = (g, s) ∧ g.c cls idx = (srcVal f adata a + srcVal f adata b) % 2 ^ w
      ∧ (∀ x y, (x, y) ≠ (cls, idx) → g.c x y = f.c x y) ∧ g.md = f.md := by
  refine ⟨f.cset cls idx (aluOp .add w (srcVal f adata a) (srcVal f adata b)), rfl, ?_, fun _ _ => c_cset_of_ne f _, md_cset ..⟩
  rw [c_cset_self f _ h, aluOp_add, ← hw, Nat.mod_mod]

theorem opStep_fwd (a : Config.Src) :
    ∃ g, s.opStep pipe false adata f (.fwd a) = (g, s) ∧ g.dest = srcVal f adata a % 2 ^ 11 ∧ g.m 256 1 = 1 ∧ g.ctr = f.ctr ∧ g.inPort = f.inPort ∧ g.slice = f.slice := by
  refine ⟨(f.mset 257 11 (srcVal f adata a)).mset 256 1 1, rfl, ?dest, m_mset_self _ _ (by decide), ?ctr, ?inPort, ?slice⟩
  case dest => exact (m_mset_of_apart _ _ (by decide) (by decide)).trans (m_mset_self _ _ (by decide))
  case ctr => rw [ctr_mset, ctr_mset]
  case inPort => exact (m_mset_of_apart _ _ (by decide) (by decide)).trans (m_mset_of_apart _ _ (by decide) (by decide))
  case slice => exact (m_mset_of_apart _ _ (by decide) (by decide)).trans (m_mset_of_apart _ _ (by decide) (by decide))

theorem opStep_drop : ∃ g, s.opStep pipe eg adata f .drop = (g, s) ∧ g.m 273 1 = 1 ∧ g.m 274 1 = f.m 274 1 ∧ g.m 256 1 = f.m 256 1 ∧ g.ctr = f.ctr :=
  ⟨f.mset 273 1 1, rfl, m_mset_self _ _ (by decide), m_mset_of_apart _ _ (by decide) (by decide), m_mset_of_apart _ _ (by decide) (by decide), ctr_mset ..⟩

theorem opStep_trap (a : Config.Src) :
    ∃ g, s.opStep pipe eg adata f (.trap a) = (g, s) ∧ g.m 274 1 = 1 ∧ g.m 107 8 = srcVal f adata a % 2 ^ 8 ∧ g.m 273 1 = f.m 273 1 ∧ g.ctr = f.ctr := by
  refine ⟨(f.mset 274 1 1).mset 107 8 (srcVal f adata a), rfl, ?trap, m_mset_self _ _ (by decide), ?drop, ?ctr⟩
  case trap => exact (m_mset_of_apart _ _ (by decide) (by decide)).trans (m_mset_self _ _ (by decide))
  case drop => exact (m_mset_of_apart _ _ (by decide) (by decide)).trans (m_mset_of_apart _ _ (by decide) (by decide))
  case ctr => rw [ctr_mset, ctr_mset]

theorem opStep_mirror (a : Config.Src) :
    ∃ g, s.opStep pipe eg adata f (.mirror a) = (g, s) ∧ g.m 275 1 = 1 ∧ g.m 276 6 = srcVal f adata a % 2 ^ 6 ∧ g.m 273 1 = f.m 273 1 ∧ g.ctr = f.ctr := by
  refine ⟨(f.mset 275 1 1).mset 276 6 (srcVal f adata a), rfl, ?mirror, m_mset_self _ _ (by decide), ?drop, ?ctr⟩
  case mirror => exact (m_mset_of_apart _ _ (by decide) (by decide)).trans (m_mset_self _ _ (by decide))
  case drop => exact (m_mset_of_apart _ _ (by decide) (by decide)).trans (m_mset_of_apart _ _ (by decide) (by decide))
  case ctr => rw [ctr_mset, ctr_mset]

end

/-! ## METER -/

/-- What a policer measures of a frame, and with what colour the frame comes (R173). -/
structure Metered (s : State) (h : Half) (n : Nat) (f : Frame) (p : Pol) (b pre : Nat) : Prop where
  pol : p = s.sched.pol.getD [h.n, n] Pol.off
  on : p.cur.en = true
  color : f.color ≠ 3
  len : b = s.counted h (f.m 282 4) f.len
  pre : pre = if p.cur.aware = true then f.color else 0

/-- The colour that the two buckets give: 2 red, 1 yellow, 0 green (R173). -/
def Pol.colour (p : Pol) (b pre : Nat) : Nat :=
  if pre = 2 ∨ p.tp < ((b * 4096 : Nat) : Int) then 2 else if pre = 1 ∨ p.tc < ((b * 4096 : Nat) : Int) then 1 else 0

/-- The buckets after a frame of a colour (R173). -/
def Pol.charged (p : Pol) (b res : Nat) : Pol :=
  { p with
    tp := if res = 2 then p.tp else p.tp - ((b * 4096 : Nat) : Int)
    tc := if res = 0 then p.tc - ((b * 4096 : Nat) : Int) else p.tc }

/-- A policer replaced. -/
def State.setPol (s : State) (h : Half) (n : Nat) (p : Pol) : State := { s with sched := { s.sched with pol := s.sched.pol.set [h.n, n] p } }

theorem rd_setPol (s : State) (h : Half) (n : Nat) (p : Pol) (f : Fld) (ix : List Nat) : (s.setPol h n p).rd f ix = s.rd f ix := rfl

theorem meter_of_idle {s : State} {h : Half} {n : Nat} {f : Frame} (hi : (s.sched.pol.getD [h.n, n] Pol.off).cur.en = false ∨ f.color = 3) :
    s.meter h n f = (f, s) := by
  unfold State.meter
  exact if_pos (by simpa using hi)

theorem meter_of_metered {s : State} {h : Half} {n b pre : Nat} {f : Frame} {p : Pol} (hm : Metered s h n f p b pre) :
    s.meter h n f = (f.mset 271 2 (if p.colour b pre = 2 ∧ p.cur.redDrop = true then 3 else p.colour b pre),
      ((s.setPol h n (p.charged b (p.colour b pre))).bump .SHP_POL_CNT_v [h.n, n, 2 * p.colour b pre] 1).bump
        .SHP_POL_CNT_v [h.n, n, 2 * p.colour b pre + 1] b) := by
  obtain ⟨hp, on, color, hb, hpre⟩ := hm
  subst hp hb hpre
  unfold State.meter
  exact if_neg (by simp [on, color])

/-- A policer colours the frame, charges its buckets and counts the frame and its bytes by the colour (R172, R173). -/
theorem meter_spec {s : State} {h : Half} {n b pre res : Nat} {f : Frame} {p : Pol} (hm : Metered s h n f p b pre) (hres : p.colour b pre = res) :
    ∃ g t, s.meter h n f = (g, t) ∧ t.sched.pol.get? [h.n, n] = some (p.charged b res) ∧ g.ctr = f.ctr
      ∧ g.color = (if res = 2 ∧ p.cur.redDrop = true then 3 else res) % 4
      ∧ t.rd .SHP_POL_CNT_v [h.n, n, 2 * res] = (s.rd .SHP_POL_CNT_v [h.n, n, 2 * res] + 1) % 2 ^ 64
      ∧ t.rd .SHP_POL_CNT_v [h.n, n, 2 * res + 1] = (s.rd .SHP_POL_CNT_v [h.n, n, 2 * res + 1] + b) % 2 ^ 64
      ∧ (∀ k, k ≠ [h.n, n] → t.sched.pol.get? k = s.sched.pol.get? k) ∧ Within [.sched] [.SHP_POL_CNT_v] s t := by
  rw [meter_of_metered hm, hres]
  refine ⟨_, _, rfl, SMap.get?_set_self .., ctr_mset .., m_mset_self _ _ (by decide), ?frames, ?bytes, fun k hk => SMap.get?_set_ne _ _ hk.symm,
    (((Within.refl _ _ s).set_sched _).bump _ _).bump _ _⟩
  case frames =>
    rw [rd_bump, if_neg (by simp), rd_bump, if_pos ⟨rfl, rfl⟩, rd_setPol]
    rfl
  case bytes =>
    rw [rd_bump, if_pos ⟨rfl, rfl⟩, rd_bump, if_neg (by simp), rd_setPol]
    rfl

/-- METER at an ingress stage, by the colour that the buckets give (R172, R173). -/
theorem opStep_meter (s : State) (pipe adata : Nat) (f : Frame) (a : Config.Src) (n : Nat) (h : Half) (b : Nat) (hn : n = srcVal f adata a % 16384)
    (hh : h = pipeHalf pipe) (hb : b = s.counted h (f.m 282 4) f.len) :
    ((s.sched.pol.getD [h.n, n] Pol.off).cur.en = false ∨ f.color = 3 → s.opStep pipe false adata f (.meter a) = (f, s))
    ∧ (∀ p pre, p = s.sched.pol.getD [h.n, n] Pol.off → p.cur.en = true → f.color ≠ 3 → pre = (if p.cur.aware = true then f.color else 0) →
      ∃ g t q, s.opStep pipe false adata f (.meter a) = (g, t) ∧ t.sched.pol.get? [h.n, n] = some q ∧ q.cur = p.cur ∧ g.ctr = f.ctr
        ∧ (if pre = 2 ∨ p.tp < ((b * 4096 : Nat) : Int) then g.color = (if p.cur.redDrop = true then 3 else 2) ∧ q.tp = p.tp ∧ q.tc = p.tc
            ∧ t.rd .SHP_POL_CNT_v [h.n, n, 4] = (s.rd .SHP_POL_CNT_v [h.n, n, 4] + 1) % 2 ^ 64 ∧ t.rd .SHP_POL_CNT_v [h.n, n, 5] = (s.rd .SHP_POL_CNT_v [h.n, n, 5] + b) % 2 ^ 64
          else if pre = 1 ∨ p.tc < ((b * 4096 : Nat) : Int) then g.color = 1 ∧ q.tp = p.tp - ((b * 4096 : Nat) : Int) ∧ q.tc = p.tc
            ∧ t.rd .SHP_POL_CNT_v [h.n, n, 2] = (s.rd .SHP_POL_CNT_v [h.n, n, 2] + 1) % 2 ^ 64 ∧ t.rd .SHP_POL_CNT_v [h.n, n, 3] = (s.rd .SHP_POL_CNT_v [h.n, n, 3] + b) % 2 ^ 64
          else g.color = 0 ∧ q.tp = p.tp - ((b * 4096 : Nat) : Int) ∧ q.tc = p.tc - ((b * 4096 : Nat) : Int)
            ∧ t.rd .SHP_POL_CNT_v [h.n, n, 0] = (s.rd .SHP_POL_CNT_v [h.n, n, 0] + 1) % 2 ^ 64 ∧ t.rd .SHP_POL_CNT_v [h.n, n, 1] = (s.rd .SHP_POL_CNT_v [h.n, n, 1] + b) % 2 ^ 64)
        ∧ (∀ k, k ≠ [h.n, n] → t.sched.pol.get? k = s.sched.pol.get? k) ∧ partsBut [.sched] s t ∧ fieldsBut [.SHP_POL_CNT_v] s t) := by
  have step : s.opStep pipe false adata f (.meter a) = s.meter h n f := by
    subst hn hh
    rfl
  rw [step]
  refine ⟨meter_of_idle, fun p pre hp on color hpre => ?_⟩
  obtain ⟨g, t, run, pol, ctr, colour, frames, bytes, others, kept⟩ := meter_spec ⟨hp, on, color, hb, hpre⟩ rfl
  refine ⟨g, t, _, run, pol, rfl, ctr, ?_, others, kept.parts, kept.fields⟩
  by_cases red : pre = 2 ∨ p.tp < ((b * 4096 : Nat) : Int)
  · have two : p.colour b pre = 2 := if_pos red
    rw [two] at colour frames bytes ⊢
    rw [if_pos red]
    refine ⟨colour.trans ?_, rfl, rfl, frames, bytes⟩
    cases p.cur.redDrop <;> rfl
  · by_cases yellow : pre = 1 ∨ p.tc < ((b * 4096 : Nat) : Int)
    · have one : p.colour b pre = 1 := (if_neg red).trans (if_pos yellow)
      rw [one] at colour frames bytes ⊢
      rw [if_neg red, if_pos yellow]
      exact ⟨colour, rfl, rfl, frames, bytes⟩
    · have zero : p.colour b pre = 0 := (if_neg red).trans (if_neg yellow)
      rw [zero] at colour frames bytes ⊢
      rw [if_neg red, if_neg yellow]
      exact ⟨colour, rfl, rfl, frames, bytes⟩

end Sys2Proof.Machine

namespace Sys2Proof.Machine

/-! ## Errors that a read finds, and the lookups of a stage -/

/-- The fields that a read with an error changes: its counts, the RAS routine's interrupts, and an automatic retirement (R404, R408, R414). -/
def eccFlds : List Fld :=
  [.RAS_CNT_v, .CLV_ENG_STAT_irq_ovr, .CLV_ENG_STAT_irq_pend, .CLV_CNT_v, .SYS_MODE_mode, .SYS_MODE_base_mode, .SYS_MODE_maint_op,
   .SYS_MODE_maint_queued] ++ Reg.RAS_RETIRE_STAT.fields

namespace Within

theorem foldl_snd {α β : Type} {ps : List Part} {fs : List Fld} {op : β × State → α → β × State} (hop : ∀ a x, Within ps fs a.2 (op a x).2)
    (l : List α) (a : β × State) : Within ps fs a.2 (l.foldl op a).2 := by
  induction l generalizing a with
  | nil => exact .refl ..
  | cons x l ih => exact (hop a x).trans (ih _)

theorem raise {ps : List Part} {fs : List Fld} {s t : State} (h : Within ps fs s t) (code half : Nat) (l : List (Nat × Nat × Nat)) :
    Within ps fs s (t.raise code half l) := h.report ((Reports.refl _).raise ..)

theorem pmc {ps : List Part} {fs : List Fld} {s t : State} (h : Within ps fs s t) (x : Half) (ev : Nat) (e : PmcEv) (n : Nat) :
    Within ps fs s (t.pmc x ev e n) := h.report ((Reports.refl _).pmc ..)

theorem irq (s : State) (h : Half) (e line : Nat) : Within [.ras] eccFlds s (s.irq h e line) := by
  unfold State.irq
  exact .ite _ ((((refl _ _ s).st _ _).bump _ _).report ((Reports.refl _).xingLost ..)) ((refl _ _ s).st _ _)

theorem irqRoutine (s : State) (h : Half) (r line : Nat) : Within [.ras] eccFlds s (s.irqRoutine h r line) :=
  .foldl (fun t e => .ite _ (.irq t h e line) (refl _ _ t)) _ s

theorem setMode (s : State) (mode base op : Nat) : Within [.ras] eccFlds s (s.setMode mode base op) := by
  unfold State.setMode
  extract_lets old oldB t
  have moved : Within [.ras] eccFlds s t := (refl _ _ s).sts _ (by simp [eccFlds, Reg.fields])
  exact .ite _ moved (moved.raise ..)

theorem maintStart (s : State) (op : Nat) : Within [.ras] eccFlds s (s.maintStart op) :=
  .ite _ (.setMode ..) ((refl _ _ s).st _ _)

theorem retireStart (s : State) (m : Maint) : Within [.ras] eccFlds s (s.retireStart m) := by
  unfold State.retireStart
  extract_lets ras t h u
  have told : Within [.ras] eccFlds s u := ((refl _ _ s).set_ras _).sts _ (by simp [eccFlds, Reg.fields])
  exact (told.trans (.maintStart u 3)).report ((Reports.refl _).postWork ..)

theorem retireAuto (s : State) (cls : Nat) (h : Half) (inst bank : Nat) : Within [.ras] eccFlds s (s.retireAuto cls h inst bank) := by
  unfold State.retireAuto
  extract_lets ras t u
  have queued : Within [.ras] eccFlds s u := ((refl _ _ s).set_ras t.ras).st _ _
  refine .ite _ (refl ..) (.ite _ ((refl _ _ s).raise ..) (.ite _ (.retireStart ..) (.ite _ (queued.sts _ ?_) queued)))
  simp [eccFlds, Reg.fields]

theorem setEccLog (s : State) (h : Half) (q : List (Nat × Nat)) : Within [.ras] eccFlds s (s.setEccLog h q) := by
  cases h
  all_goals exact (refl _ _ s).set_ras _

theorem eccLogPut (s : State) (h : Half) (ue : Bool) (cls inst bank row : Nat) : Within [.ras] eccFlds s (s.eccLogPut h ue cls inst bank row) := by
  unfold State.eccLogPut
  extract_lets k us ras t now w0
  have stamped : Within [.ras] eccFlds s t := .ite _ (refl ..) ((refl _ _ s).set_ras _)
  exact .ite _ (refl ..) (.ite _ (stamped.bump _ _) (stamped.trans (.setEccLog ..)))

theorem eccError (s : State) (h : Half) (cls inst bank row kind : Nat) (e : PmcEv) : Within [.ras] eccFlds s (s.eccError h cls inst bank row kind e) := by
  unfold State.eccError
  split
  · extract_lets s1 s2 k win log ras s3 th
    have logged : Within [.ras] eccFlds s s1 := ((refl _ _ s).bump _ _).trans (.eccLogPut ..)
    have noted : Within [.ras] eccFlds s s3 := (logged.pmc ..).set_ras s3.ras
    exact .ite _ (noted.trans (.retireAuto ..)) noted
  · extract_lets s1 s2 s3
    have logged : Within [.ras] eccFlds s s1 := ((refl _ _ s).bump _ _).trans (.eccLogPut ..)
    have told : Within [.ras] eccFlds s s3 := (logged.raise ..).trans (.irqRoutine ..)
    exact .ite _ (told.trans (.retireAuto ..)) told

theorem eccRead (s : State) (h : Half) (cls inst bank row : Nat) (e : PmcEv) : Within [.ras] eccFlds s (s.eccRead h cls inst bank row e).2 := by
  unfold State.eccRead
  have found := eccError s h cls inst bank row
  split
  · exact refl ..
  · dsimp only
    exact found 1 e
  · exact found 2 e

theorem eccReadAt (s : State) (h : Half) (cls inst : Nat) (addr : List Nat) (e : PmcEv) : Within [.ras] eccFlds s (s.eccReadAt h cls inst addr e).2 :=
  .eccRead ..

theorem stageRead (s : State) (pipe : Nat) (addr : List Nat) : Within [.ras] eccFlds s (s.stageRead pipe addr).2 := .eccReadAt ..

theorem emLookup (s : State) (pipe stage : Nat) (f : Frame) (t : Config.TableMap) (key : Nat) :
    Within [.ras] eccFlds s (s.emLookup pipe stage f t key).2 := by
  refine foldl_snd (β := Option Ent) (fun a w => ?_) _ (none, s)
  exact stageRead a.2 pipe _

theorem firstGood (s : State) (pipe : Nat) (l : List (List Nat × Ent)) : Within [.ras] eccFlds s (s.firstGood pipe l).2 := by
  induction l generalizing s with
  | nil => exact refl ..
  | cons x l ih =>
    have read := stageRead s pipe x.1
    unfold State.firstGood
    generalize s.stageRead pipe x.1 = r at read ⊢
    dsimp only
    split
    · exact read.trans (ih _)
    · exact read

theorem tcamLookup (s : State) (pipe stage : Nat) (f : Frame) (t : Config.TableMap) (key : Nat) :
    Within [.ras] eccFlds s (s.tcamLookup pipe stage f t key).2 := .firstGood ..

/-- The lookups of a stage change nothing but what their reads report (R74, R75, R404). -/
theorem choose (s : State) (p : Prog) (pipe stage : Nat) (f : Frame) : Within [.ras] eccFlds s (s.choose p pipe stage f).2 := by
  unfold State.choose
  cases p.lookup stage f [0] with
  | none =>
    cases p.lookup stage f [1, 2] with
    | none => exact refl ..
    | some x =>
      have tcam := tcamLookup s pipe stage f x.1 x.2
      dsimp only
      generalize s.tcamLookup pipe stage f x.1 x.2 = r at tcam ⊢
      split <;> exact tcam
  | some x =>
    have em := emLookup s pipe stage f x.1 x.2
    dsimp only
    generalize s.emLookup pipe stage f x.1 x.2 = r at em ⊢
    split
    · exact em
    · cases p.lookup stage f [1, 2] with
      | none => exact em
      | some y =>
        have tcam := tcamLookup r.2 pipe stage f y.1 y.2
        dsimp only
        generalize r.2.tcamLookup pipe stage f y.1 y.2 = q at tcam ⊢
        split <;> exact em.trans tcam

end Within

end Sys2Proof.Machine

namespace Sys2Proof.Machine

/-! ## What a stage changes -/

/-- What the stages leave of a frame: its number, place, bytes, egress port and pipe, and whether it is a mirror copy (R35, R76). -/
structure Carried (f g : Frame) : Prop where
  id : g.id = f.id
  loc : g.loc = f.loc
  bytes : g.bytes = f.bytes
  out : g.out = f.out
  pipe : g.pipe = f.pipe
  mirror : g.mirror = f.mirror

namespace Carried

theorem refl (f : Frame) : Carried f f := ⟨rfl, rfl, rfl, rfl, rfl, rfl⟩

theorem trans {f g k : Frame} (a : Carried f g) (b : Carried g k) : Carried f k :=
  ⟨b.id.trans a.id, b.loc.trans a.loc, b.bytes.trans a.bytes, b.out.trans a.out, b.pipe.trans a.pipe, b.mirror.trans a.mirror⟩

theorem ite {f g k : Frame} (c : Prop) [Decidable c] (a : Carried f g) (b : Carried f k) : Carried f (if c then g else k) := by
  split
  · exact a
  · exact b

theorem mset {f g : Frame} (a : Carried f g) (lo w v : Nat) : Carried f (g.mset lo w v) := a.trans ⟨rfl, rfl, rfl, rfl, rfl, rfl⟩

theorem cset {f g : Frame} (a : Carried f g) (cls idx v : Nat) : Carried f (g.cset cls idx v) :=
  ite _ (a.trans ⟨rfl, rfl, rfl, rfl, rfl, rfl⟩) a

theorem setHdr {f g : Frame} (a : Carried f g) (n : Nat) (e : HdrEnt) : Carried f (setHdr g n e) := a.trans ⟨rfl, rfl, rfl, rfl, rfl, rfl⟩

theorem dstSet {f g : Frame} (a : Carried f g) (d : Config.Dst) (v : Nat) : Carried f (dstSet g d v) := by
  cases d with
  | ctr cls idx => exact a.cset ..
  | mdata lo w => exact ite _ a (ite _ ((a.mset ..).mset ..) (a.mset ..))

theorem fdbArrive (s : State) (pipe stage : Nat) (f : Frame) : Carried f (s.fdbArrive pipe stage f) := by
  unfold State.fdbArrive
  split
  · refine ite _ ?_ (refl f)
    exact (((refl f).cset ..).cset ..).trans ⟨rfl, rfl, rfl, rfl, rfl, rfl⟩
  · exact refl f

theorem meter (s : State) (h : Half) (n : Nat) (f : Frame) : Carried f (s.meter h n f).1 := by
  unfold State.meter
  dsimp only
  split
  · exact refl f
  · exact (refl f).mset ..

end Carried

/-- The fields that a stage changes: those of its reads, its REG operation, its policer and the FDB lookup (R76, R101, R173, R404). -/
def stageFlds : List Fld := .HAM_CNT_v :: .SHP_POL_CNT_v :: .FDB_CNT_v :: eccFlds

/-- The parts that a stage changes. -/
def stageParts : List Part := [.fresh, .fdb, .sched, .tel, .clove, .ras]

namespace Within

theorem setHam (s : State) (h : Half) (m : Memory) : Within [.ras, .clove] stageFlds s (s.setHam h m) := by
  cases h
  all_goals exact (refl _ _ s).set_clove _

theorem regOp (s : State) (pipe : Nat) (missed : Bool) (op : Config.RmwOp) (addr arg cmp : Nat) :
    Within [.ras, .clove] stageFlds s (s.regOp pipe missed op addr arg cmp).2 := by
  unfold State.regOp
  extract_lets h ev miss t
  have counted : Within [.ras, .clove] stageFlds s t := (refl _ _ s).pmc ..
  have read := counted.andThen (eccRead t h 0 0 (hamBank addr) (hamRow addr) ev)
  have missed (u : State) : Within [.ras, .clove] stageFlds u (miss u).2 := (refl _ _ u).bump _ _
  split
  · exact missed s
  · generalize t.eccRead h 0 0 (hamBank addr) (hamRow addr) ev = r at read ⊢
    dsimp only
    split
    · exact read.trans (missed r.2)
    · exact (read.trans (setHam ..)).set_ras _

theorem meter (s : State) (h : Half) (n : Nat) (f : Frame) : Within [.sched] [.SHP_POL_CNT_v] s (s.meter h n f).2 := by
  unfold State.meter
  dsimp only
  split
  · exact refl _ _ s
  · exact (((refl _ _ s).set_sched _).bump _ _).bump _ _

theorem dma (s : State) (h : Half) (ev : PmcEv) (mem : Nat) (addr : List Nat) (cls : Nat) : Within [] [] s (s.dma h ev mem addr cls) :=
  .ite _ ((refl _ _ s).pmc ..) (refl ..)

theorem fdbScan (s : State) (h : Half) (places : List (List Nat)) (ev : PmcEv) : Within [.ras] eccFlds s (s.fdbScan h places ev).2 := by
  refine foldl_snd (β := List (List Nat)) (fun a p => ?_) _ ([], s)
  exact ((dma a.2 h ev 2 p 0).mono).trans (eccReadAt ..)

theorem hitStamp (s : State) (h : Half) (p : List Nat) (e : FdbEnt) : Within [.fdb] [] s (s.hitStamp h p e) := by
  unfold State.hitStamp
  refine .ite _ (refl ..) (.ite _ ((refl _ _ s).set_fdb _) ?_)
  exact (((refl _ _ s).set_fdb _).set_fdb _).report ((Reports.refl _).bridgeMsg h)

theorem fdbLookup (s : State) (pipe : Nat) (h : Half) (k : FKey) : Within [.fdb, .ras] stageFlds s (s.fdbLookup pipe h k).2 := by
  unfold State.fdbLookup
  extract_lets ev t r u
  have read : Within [.fdb, .ras] stageFlds s u := ((refl _ _ s).pmc ..).andThen (fdbScan ..)
  split
  · exact read.bump _ _
  · exact (read.bump _ _).andThen (hitStamp ..)

end Within

/-- A frame and the state go through a part of a stage: what a stage leaves is as before (R35, R76). -/
structure Stages (f : Frame) (s : State) (x : Frame × State) : Prop where
  frame : Carried f x.1
  state : Within stageParts stageFlds s x.2

namespace Stages

variable {f g : Frame} {s : State} {x y : Frame × State}

theorem refl (f : Frame) (s : State) : Stages f s (f, s) := ⟨.refl f, .refl ..⟩

theorem trans (h : Stages f s x) (k : Stages x.1 x.2 y) : Stages f s y := ⟨h.frame.trans k.frame, h.state.trans k.state⟩

theorem ite (c : Prop) [Decidable c] (h : Stages f s x) (k : Stages f s y) : Stages f s (if c then x else y) := by
  split
  · exact h
  · exact k

/-- Only the frame changes. -/
theorem of_frame (h : Carried f g) (s : State) : Stages f s (g, s) := ⟨h, .refl ..⟩

/-- The FDB lookup and the learn candidate of the issuing stage (R100, R101, R105). -/
theorem fdbStage (s : State) (p : Prog) (pipe stage : Nat) (f : Frame) : Stages f s (s.fdbStage p pipe stage f) := by
  unfold State.fdbStage
  extract_lets h ix iss kb
  have answered (k : FKey) (r : Nat × Nat × Nat) : Stages f s ({ f with fdbRes := some r }, (s.fdbLookup pipe h k).2) :=
    ⟨⟨rfl, rfl, rfl, rfl, rfl, rfl⟩, (Within.fdbLookup ..).mono⟩
  have candidate {g : Frame} {u : State} (a : Stages f s (g, u)) (ev : Option LearnEv) : Stages f s ({ g with learn := ev }, u) :=
    ⟨a.frame.trans ⟨rfl, rfl, rfl, rfl, rfl, rfl⟩, a.state⟩
  split
  · exact refl f s
  · by_cases en : s.on .FDB_REQ_en ix = true
    · rw [if_neg (not_not.mpr en)]
      exact ite _ (ite _ (candidate (answered ..) _) (answered ..)) (answered ..)
    · rw [if_pos en]
      exact ite _ (ite _ (candidate (refl f s) _) (refl f s)) (refl f s)

/-- The telemetry decision at E00 (R72, R268, R269). -/
theorem atE00 (s : State) (p : Prog) (f : Frame) : Stages f s (s.atE00 p f) := by
  unfold State.atE00
  extract_lets h g0 g ix c
  have zeroed : Carried f g0 := ((Carried.refl f).mset 273 3 0).mset 257 11 f.out
  clear_value g0
  have cleared : Carried f g := zeroed.trans ⟨rfl, rfl, rfl, rfl, rfl, rfl⟩
  clear_value g
  split
  · exact of_frame cleared s
  · split
    · exact of_frame cleared s
    next v _ =>
      have sampled := (Within.sample s h g.pipe (bits v 1 6) g.hash).mono (ps := stageParts) (fs := stageFlds)
      generalize s.sample h g.pipe (bits v 1 6) g.hash = r at sampled ⊢
      exact ⟨(cleared.cset ..).trans ⟨rfl, rfl, rfl, rfl, rfl, rfl⟩, sampled⟩

/-- An operation of an action program (R76). -/
theorem opStep (s : State) (pipe : Nat) (eg : Bool) (adata : Nat) (f : Frame) (o : Config.Op) : Stages f s (s.opStep pipe eg adata f o) := by
  have same := Carried.refl f
  cases o with
  | set d a => exact of_frame (same.dstSet ..) s
  | alu op w d a b => exact of_frame (same.dstSet ..) s
  | hash cs cls idx => exact of_frame (same.cset ..) s
  | fwd a => exact ite _ (refl f s) (of_frame ((same.mset ..).mset ..) s)
  | drop => exact of_frame (same.mset ..) s
  | trap a => exact of_frame ((same.mset ..).mset ..) s
  | mirror a => exact of_frame ((same.mset ..).mset ..) s
  | recirc a => exact ite _ (of_frame (same.mset ..) s) (refl f s)
  | meter a => exact ite _ (refl f s) ⟨.meter .., (Within.meter ..).mono⟩
  | hdrIns n t o l => exact ite _ (of_frame (same.setHdr ..) s) (refl f s)
  | hdrRem n => exact of_frame (same.setHdr ..) s
  | reg op a x c cls idx =>
    have done := (Within.regOp s pipe f.regMiss op (srcVal f adata a % 2 ^ 24) (srcVal f adata x) (srcVal f adata c)).mono (ps := stageParts) (fs := stageFlds)
    unfold State.opStep
    dsimp only
    generalize s.regOp pipe f.regMiss op (srcVal f adata a % 2 ^ 24) (srcVal f adata x) (srcVal f adata c) = r at done ⊢
    split
    · exact ⟨(same.cset ..).trans ⟨rfl, rfl, rfl, rfl, rfl, rfl⟩, done⟩
    · exact ⟨⟨rfl, rfl, rfl, rfl, rfl, rfl⟩, done⟩

/-- An action program, operation by operation (R76). -/
theorem runOps (s : State) (pipe : Nat) (eg : Bool) (adata : Nat) (f : Frame) (os : List Config.Op) : Stages f s (s.runOps pipe eg adata f os) := by
  induction os generalizing s f with
  | nil => exact refl f s
  | cons o os ih => exact (opStep s pipe eg adata f o).trans (ih ..)

end Stages

end Sys2Proof.Machine

namespace Sys2Proof.Machine

/-! ## STAGE_PASS -/

/-- The action program that a stage's lookups choose, performed on a frame (R71, R76). -/
def State.program (s : State) (p : Prog) (k : Nat) (f : Frame) : Frame × State :=
  let x := s.choose p f.pipe k f
  match x.1 with
  | some (act, adata) => x.2.runOps f.pipe (decide (20 ≤ k)) adata f (oneReg false ((Config.decodeActionProgram (p.act.getD [k, act] 0)).take 16))
  | none => (f, x.2)

/-- A frame through its stage, before it counts on to the next: the FDB result, the telemetry decision, the FDB lookup, and for all but a mirror copy the action program (R71, R101, R276). -/
def State.through (s : State) (f : Frame) : Frame × State :=
  let p := s.prog f.tag
  let x := if f.stage = 20 then s.atE00 p (s.fdbArrive f.pipe f.stage f) else (s.fdbArrive f.pipe f.stage f, s)
  let y := if 20 ≤ f.stage then x else x.2.fdbStage p x.1.pipe f.stage x.1
  if y.1.mirror then y else y.2.program p f.stage y.1

/-- What follows a stage: the decision after I19, the decision after E11, or the next stage (R60, R76). -/
def State.after (s : State) (k : Nat) (f : Frame) : State :=
  if k = 19 then s.afterI19 f else if 31 ≤ k then s.afterE11 f else s.setFr f

theorem doStagePass_eq {s : State} {id : Nat} {f : Frame} (hf : s.fr? id = some f) (hl : f.loc = .stages) (hh : s.stageHeld f = false) :
    doStagePass id s = (s.through f).2.after f.stage { (s.through f).1 with stage := f.stage + 1 } := by
  unfold doStagePass
  rw [hf]
  dsimp only
  rw [if_neg (by simp [hl, hh])]
  unfold State.through State.after State.program
  by_cases eg : 20 ≤ f.stage
  · simp only [eg]
    rfl
  · simp only [eg]
    rfl

theorem program_stages (s : State) (p : Prog) (k : Nat) (f : Frame) : Stages f s (s.program p k f) := by
  unfold State.program
  extract_lets x
  have chosen : Within stageParts stageFlds s x.2 := (Within.choose ..).mono
  clear_value x
  split
  · exact .trans (x := (f, x.2)) ⟨.refl f, chosen⟩ (.runOps ..)
  · exact ⟨.refl f, chosen⟩

theorem through_stages (s : State) (f : Frame) : Stages f s (s.through f) := by
  unfold State.through
  extract_lets p x y
  have came : Stages f s (s.fdbArrive f.pipe f.stage f, s) := .of_frame (.fdbArrive ..) s
  have decided : Stages f s x := .ite _ (came.trans (.atE00 ..)) came
  have asked : Stages f s y := .ite _ decided (decided.trans (.fdbStage ..))
  exact .ite _ asked (asked.trans (program_stages ..))

theorem fdbArrive_of_none (s : State) (pipe k : Nat) {f : Frame} (h : f.fdbRes = none) : s.fdbArrive pipe k f = f := by
  unfold State.fdbArrive
  rw [h]

/-- A frame whose FDB result has not to come, at a stage that neither looks up the FDB nor is E00, only runs its action program. -/
theorem through_of_plain {s : State} {f : Frame} (hm : f.mirror = false) (hr : f.fdbRes = none) (h20 : f.stage ≠ 20)
    (hi : 20 ≤ f.stage ∨ f.stage ≠ s.rd .FDB_REQ_issue_stage [(pipeHalf f.pipe).n, f.tag]) :
    s.through f = s.program (s.prog f.tag) f.stage f := by
  have quiet : (if 20 ≤ f.stage then (f, s) else s.fdbStage (s.prog f.tag) f.pipe f.stage f) = (f, s) := by
    split
    · rfl
    next eg => exact if_pos (.inl (hi.resolve_left eg))
  unfold State.through
  simp only [fdbArrive_of_none s _ _ hr, if_neg h20, quiet, hm]
  rfl

/-- A mirror copy passes an egress stage as it is (R276). -/
theorem through_of_mirror {s : State} {f : Frame} (hm : f.mirror = true) (hk : 20 < f.stage) (hr : f.fdbRes = none) : s.through f = (f, s) := by
  unfold State.through
  simp only [fdbArrive_of_none s _ _ hr, if_neg (Nat.ne_of_gt hk), if_pos (Nat.le_of_lt hk), hm, if_true]

namespace Within

theorem deficitClear (s : State) (k : List Nat) : Within [.buf, .sched] [] s (s.deficitClear k) := .ite _ ((refl _ _ s).set_sched _) (refl ..)

theorem unqueue (s : State) (h : Half) (q id : Nat) : Within [.buf, .sched] [] s (s.unqueue h q id) := by
  unfold State.unqueue
  extract_lets l buf t g u
  have taken : Within [.buf, .sched] [] s t := (refl _ _ s).set_buf _
  have empty : Within [.buf, .sched] [] s u := taken.trans (.deficitClear ..)
  exact .ite _ taken (.ite _ (empty.trans (.deficitClear ..)) empty)

theorem poolWatch (s : State) (h : Half) (i before : Nat) : Within [.buf, .lanes] [] s (s.poolWatch h i before) := by
  unfold State.poolWatch
  extract_lets f buf t
  have armed : Within [.buf, .lanes] [] s t := .ite _ ((refl _ _ s).set_buf _) (refl ..)
  exact .ite _ armed ((armed.set_buf _).raise ..)

/-- The fields that the freeing of a copy changes (R128, R139, R140). -/
def freeFlds : List Fld :=
  [.BUF_Q_STAT_q_rsv, .BUF_Q_STAT_q_shr, .BUF_PART_use, .BUF_FREE_desc_free, .BUF_FREE_phys_free, .BUF_PORT_STAT_xoff, .BUF_CNT_v] ++ pgFlds

theorem poolReturn (s : State) (h : Half) (i n : Nat) : Within [.buf, .lanes] freeFlds s (s.poolReturn h i n) :=
  ((refl _ _ s).lower _ _).andThen (poolWatch ..)

theorem physFree (s : State) (h : Half) (f : Frame) : Within [.buf, .lanes] freeFlds s (s.physFree h f) :=
  .ite _ ((refl _ _ s).bump _ _) (.ite _ (((refl _ _ s).set_buf _).bump _ _) (((refl _ _ s).set_buf _).bump _ _))

theorem pfcSend (s : State) (h : Half) (j g quanta : Nat) : Within [.buf, .lanes] freeFlds s (s.pfcSend h j g quanta) := (refl _ _ s).set_lanes _

theorem pgEval (s : State) (h : Half) (j g : Nat) : Within [.buf, .lanes] freeFlds s (s.pgEval h j g) := by
  unfold State.pgEval
  refine .ite _ (refl ..) (.ite _ (.ite _ ?xoff (refl ..)) (.ite _ ?xon (refl ..)))
  case xoff => exact ((((refl _ _ s).st _ _).bump _ _).trans (.pfcSend ..)).set_buf _
  case xon => exact (((refl _ _ s).st _ _).trans (.pfcSend ..)).set_buf _

theorem pgReturn (s : State) (h : Half) (j g n : Nat) (hdrm remote : Bool) : Within [.buf, .lanes] freeFlds s (s.pgReturn h j g n hdrm remote) := by
  unfold State.pgReturn
  extract_lets s1 s2 s3
  have use : Within [.buf, .lanes] freeFlds s s1 := (refl _ _ s).lower _ _
  have hdr : Within [.buf, .lanes] freeFlds s s2 := .ite _ (use.lower _ _) use
  have rem : Within [.buf, .lanes] freeFlds s s3 := .ite _ (hdr.lower _ _) hdr
  exact (rem.andThen (ipRefresh ..)).trans (pgEval ..)

/-- A copy that leaves the buffer returns what it held (R128). -/
theorem bufFree (s : State) (f : Frame) (notice : Bool) : Within [.buf, .lanes] freeFlds s (s.bufFree f notice) := by
  unfold State.bufFree
  extract_lets h ix shr s1 s2 s3 s4
  have queue : Within [.buf, .lanes] freeFlds s s1 := ((refl _ _ s).lower _ _).lower _ _
  have reserved : Within [.buf, .lanes] freeFlds s s2 := .ite _ (queue.trans (.poolReturn ..)) queue
  have pools : Within [.buf, .lanes] freeFlds s s3 := .ite _ (queue.trans (.poolReturn ..)) (.ite _ (reserved.trans (.poolReturn ..)) reserved)
  have cells : Within [.buf, .lanes] freeFlds s s4 := (pools.bump _ _).trans (.physFree ..)
  split
  · exact cells
  · exact .ite _ (cells.trans (.pgReturn ..)) (.ite _ ((cells.set_buf _).report ((Reports.refl _).bridgeMsg h)) cells)

end Within

/-- A copy that an egress stage drops: freed, counted, and gone (R40, R76, R128). -/
theorem dropped_freeDrop (s : State) (f : Frame) (cause : Nat) : dropped s (s.freeDrop f cause) f.id f.egress cause := by
  have left : Within [.buf, .sched, .lanes] Within.freeFlds s ((s.unqueue f.egress f.queue f.id).bufFree f true) :=
    (Within.unqueue s f.egress f.queue f.id).mono.andThen (.bufFree ..)
  exact dropped_congr (dropped_dropFr _ f.egress cause f) (fun j _ => fr?_congr left.frames j) left.nextId (left.rd _ _)

/-- A frame that goes on after its stage, in a state whose frames the stage left (R76). -/
theorem became_of_stages {s : State} {id : Nat} {f g : Frame} {x : Frame × State} (hf : s.fr? id = some f) (hx : Stages f s x) (hg : g.id = x.1.id) :
    became s (x.2.setFr g) id g := by
  have stands : x.2.fr? id = some f := (fr?_congr hx.state.frames id).trans hf
  exact became_congr (became_setFr stands ((hg.trans hx.frame.id).trans (id_of_fr? hf))) hx.state.frames rfl

section
variable {s : State} {id : Nat} {f : Frame} (hf : s.fr? id = some f) (hl : f.loc = .stages) (hh : s.stageHeld f = false)
include hf hl hh

/-- STAGE_PASS between I19 and E11 (R35, R76). -/
theorem stagePass_goes_on (h19 : f.stage ≠ 19) (h31 : f.stage < 31) :
    ∃ t g, exec (.stagePass id) s = .next t ∧ became s t id g ∧ g.loc = .stages ∧ g.stage = f.stage + 1 ∧ g.bytes = f.bytes ∧ g.out = f.out
      ∧ (f.mirror = false → f.fdbRes = none → f.stage ≠ 20 → f.stage ≠ s.rd .FDB_REQ_issue_stage [(pipeHalf f.pipe).n, f.tag] →
          g = { (s.program (s.prog f.tag) f.stage f).1 with stage := f.stage + 1 })
      ∧ partsBut [.frames, .fresh, .fdb, .sched, .tel, .clove, .ras] s t := by
  have run : exec (.stagePass id) s = .next (settle (doStagePass id s)) := rfl
  have went := through_stages s f
  rw [doStagePass_eq hf hl hh, State.after, if_neg h19, if_neg (Nat.not_le.mpr h31)] at run
  refine ⟨_, _, run, became_settle (became_of_stages hf went rfl), went.frame.loc.trans hl, rfl, went.frame.bytes, went.frame.out, ?_, ?_⟩
  · intro hm hr h20 hi
    rw [through_of_plain hm hr h20 (.inr hi)]
  · exact (((Within.refl [.frames, .fresh, .fdb, .sched, .tel, .clove, .ras] stageFlds s).andThen went.state).setFr _).settle.parts

/-- STAGE_PASS through I19: the frame's fate follows its action program (R60, R61). -/
theorem stagePass_decides (hk : f.stage = 19) (hm : f.mirror = false) (hr : f.fdbRes = none)
    (hi : s.rd .FDB_REQ_issue_stage [(pipeHalf f.pipe).n, f.tag] ≠ 19) :
    exec (.stagePass id) s = .next (settle ((s.program (s.prog f.tag) f.stage f).2.afterI19 { (s.program (s.prog f.tag) f.stage f).1 with stage := 20 })) := by
  have plain := through_of_plain hm hr (by rw [hk]; decide) (.inr (hk ▸ hi.symm))
  have run : exec (.stagePass id) s = .next (settle (doStagePass id s)) := rfl
  rw [run, doStagePass_eq hf hl hh, plain, State.after, if_pos hk, hk]

/-- STAGE_PASS through E11 without an explicit drop (R76). -/
theorem stagePass_to_deparser (hk : f.stage = 31) (hm : f.mirror = false) (hr : f.fdbRes = none) (hd : (s.program (s.prog f.tag) f.stage f).1.m 273 1 = 0) :
    ∃ t, exec (.stagePass id) s = .next t ∧ became s t id { (s.program (s.prog f.tag) f.stage f).1 with stage := 32, loc := .deparse } := by
  have plain := through_of_plain (s := s) hm hr (by rw [hk]; decide) (.inl (by rw [hk]; decide))
  have run : exec (.stagePass id) s = .next (settle (doStagePass id s)) := rfl
  have went := program_stages s (s.prog f.tag) f.stage f
  rw [doStagePass_eq hf hl hh, plain] at run
  generalize s.program (s.prog f.tag) f.stage f = r at run went hd ⊢
  have undropped : ¬ (({ r.1 with stage := f.stage + 1 } : Frame).m 273 1 = 1 ∧ ¬ ({ r.1 with stage := f.stage + 1 } : Frame).mirror = true) := by
    rintro ⟨dropped, -⟩
    exact absurd (hd.symm.trans dropped) (by decide)
  rw [State.after, if_neg (by rw [hk]; decide), if_pos (by rw [hk]), State.afterE11, if_neg undropped, hk] at run
  exact ⟨_, run, became_settle (became_of_stages hf went rfl)⟩

/-- STAGE_PASS through E11 with an explicit drop (R76). -/
theorem stagePass_drops (hk : f.stage = 31) (hm : f.mirror = false) (hr : f.fdbRes = none) (hd : (s.program (s.prog f.tag) f.stage f).1.m 273 1 = 1) :
    ∃ t, exec (.stagePass id) s = .next t ∧ dropped s t id f.egress 2 := by
  have plain := through_of_plain (s := s) hm hr (by rw [hk]; decide) (.inl (by rw [hk]; decide))
  have run : exec (.stagePass id) s = .next (settle (doStagePass id s)) := rfl
  have went := program_stages s (s.prog f.tag) f.stage f
  rw [doStagePass_eq hf hl hh, plain] at run
  generalize s.program (s.prog f.tag) f.stage f = r at run went hd ⊢
  have marked : ({ r.1 with stage := f.stage + 1 } : Frame).m 273 1 = 1 ∧ ¬ ({ r.1 with stage := f.stage + 1 } : Frame).mirror = true :=
    ⟨hd, by simp [went.frame.mirror, hm]⟩
  rw [State.after, if_neg (by rw [hk]; decide), if_pos (by rw [hk]), State.afterE11, if_pos marked] at run
  generalize hg : ({ r.1 with stage := f.stage + 1 } : Frame) = g at run
  have number : g.id = id := by rw [← hg]; exact went.frame.id.trans (id_of_fr? hf)
  have side : g.egress = f.egress := by rw [← hg]; exact congrArg portHalf went.frame.out
  have counted : Within stageParts (.SLC_CNT_v :: stageFlds) s (r.2.bump .SLC_CNT_v [(pipeHalf g.pipe).n, g.slice, 0] 1) :=
    ((Within.refl _ _ s).andThen went.state).bump _ _
  have drop := dropped_freeDrop (r.2.bump .SLC_CNT_v [(pipeHalf g.pipe).n, g.slice, 0] 1) g 2
  rw [number, side] at drop
  exact ⟨_, run, dropped_congr (t := settle _) drop (fun j _ => fr?_congr counted.frames j) counted.nextId (counted.rd _ _)⟩

/-- STAGE_PASS of a mirror copy at an egress stage (R276). -/
theorem stagePass_of_mirror (hm : f.mirror = true) (hk : 20 < f.stage) (hr : f.fdbRes = none) :
    ∃ t, exec (.stagePass id) s = .next t ∧ became s t id { f with stage := f.stage + 1, loc := if 31 ≤ f.stage then .deparse else .stages }
      ∧ partsBut [.frames] s t ∧ fieldsBut [] s t := by
  have run : exec (.stagePass id) s = .next (settle (doStagePass id s)) := rfl
  have here := id_of_fr? hf
  have kept (g : Frame) : Within [.frames] [] s (settle (s.setFr g)) := ((Within.refl _ _ s).setFr g).settle
  rw [doStagePass_eq hf hl hh, through_of_mirror hm hk hr, State.after, if_neg (by omega)] at run
  by_cases last : 31 ≤ f.stage
  · rw [if_pos last, State.afterE11, if_neg (by simp [hm])] at run
    rw [if_pos last]
    exact ⟨_, run, became_settle (became_setFr hf here), (kept _).parts, (kept _).fields⟩
  · rw [if_neg last] at run
    rw [if_neg last, ← hl]
    exact ⟨_, run, became_settle (became_setFr hf here), (kept _).parts, (kept _).fields⟩

end

/-- A frame that an earlier one of its pipe is not ahead of waits (R35, log entry 69). -/
theorem stagePass_of_held {s : State} {id : Nat} {f : Frame} (hf : s.fr? id = some f) (hh : s.stageHeld f = true) :
    ∃ t, exec (.stagePass id) s = .next t ∧ t.host = s.host ∧ partsBut [] s t ∧ fieldsBut [] s t := by
  have run : exec (.stagePass id) s = .next (settle (doStagePass id s)) := rfl
  have waits : doStagePass id s = s := by
    unfold doStagePass
    rw [hf]
    exact if_pos (.inr hh)
  rw [waits] at run
  have kept := (Within.refl [] [] s).settle
  exact ⟨_, run, rfl, kept.parts, kept.fields⟩

theorem regMissed_marks {s : State} {id : Nat} {f : Frame} (hf : s.fr? id = some f) (hl : f.loc = .stages) :
    ∃ t, exec (.regMissed id) s = .next t ∧ became s t id { f with regMiss := true } ∧ partsBut [.frames] s t ∧ fieldsBut [] s t := by
  have run : exec (.regMissed id) s = .next (settle (doRegMissed id s)) := rfl
  have marks : doRegMissed id s = s.setFr { f with regMiss := true } := by
    unfold doRegMissed
    rw [hf]
    exact if_pos hl
  rw [marks] at run
  have here := id_of_fr? hf
  have kept : Within [.frames] [] s (settle (s.setFr { f with regMiss := true })) := ((Within.refl _ _ s).setFr _).settle
  exact ⟨_, run, became_settle (became_setFr hf here), kept.parts, kept.fields⟩

/-- Settles O18: each stage by what it leaves of the frame and of the state, each operation by its own lemma, and the decision after I19. -/
theorem stagePassAndRegMissed : Obligations.StagePassAndRegMissed := by
  unfold Obligations.StagePassAndRegMissed
  refine ⟨fun s u id f c r hf hl hc hr => ?stages, fun s pipe adata eg f => ?operations, afterI19_decides⟩
  case stages =>
    have ran : r = s.program (s.prog f.tag) f.stage f := by
      unfold State.program
      rw [hc]
      exact hr
    subst ran
    exact ⟨fun h19 h31 hh => stagePass_goes_on hf hl hh h19 h31, fun hk hm hr hi hh => stagePass_decides hf hl hh hk hm hr hi,
      fun hk hm hr hd hh => stagePass_to_deparser hf hl hh hk hm hr hd, fun hk hm hr hd hh => stagePass_drops hf hl hh hk hm hr hd,
      fun hm hk hr hh => stagePass_of_mirror hf hl hh hm hk hr, stagePass_of_held hf, regMissed_marks hf hl⟩
  case operations =>
    exact ⟨opStep_set s pipe adata eg f, opStep_add s pipe adata eg f, opStep_fwd s pipe adata f, opStep_drop s pipe adata eg f,
      opStep_trap s pipe adata eg f, opStep_mirror s pipe adata eg f, opStep_meter s pipe adata f⟩

end Sys2Proof.Machine

/-!
SUPPORT. The slice quotas and the VNI map, and then ownership, leases and the bridge. Each part below ends with the statement that it settles.
-/

namespace Sys2Proof.Machine

/-! ## Descriptors that pass their checks -/

theorem Within.completeX {ps : List Part} {fs : List Fld} {s t : State} (h : Within ps fs s t) (d : Hdr) (st a r : Nat) (ext : Option (List Byte)) :
    Within ps fs s (t.completeX d st a r ext) := ⟨partsBut_completeX h.parts d st a r ext, fieldsBut_completeX h.fields d st a r ext⟩

theorem Within.descRun (ps : List Part) (fs : List Fld) (s : State) (d : Hdr) : Within ps fs s (s.descRun d) := by
  unfold State.descRun
  split
  · exact ⟨partsBut_set_host (partsBut_refl ps s) _, fieldsBut_refl fs s⟩
  · exact .refl ..

/-- A descriptor that is due and passes its checks runs its operation (R338, R339). -/
theorem doneDesc_of_served {s : State} {c : Instr} {d : Hdr} {r : Rule} {own clean : Bool} (op : State → State) (hd : s.descDue c d = true)
    (hs : served s d r own clean) : doneDesc c d (fun s => s.serve d r own clean op) s = .next (settle (op (s.descRun d))) := by
  rw [doneDesc_of_due _ hd, serve_of_pass op ((descRun_refusal ..).trans hs)]

/-- An operation that completes its descriptor, and nothing else: the completion, and what the operation left unchanged (R337). -/
theorem completed_of_within {s u : State} {d : Hdr} {ps : List Part} {fs : List Fld} (h : Within ps fs (s.descRun d) u)
    (hc : u.host.cpls = (s.descRun d).host.cpls) (st a r : Nat) :
    completed s (settle (u.complete d st a r)) d st a r ∧ partsBut ps s (settle (u.complete d st a r)) ∧ fieldsBut fs s (settle (u.complete d st a r)) := by
  have all := (((Within.descRun ps fs s d).trans h).completeX d st a r none).settle
  exact ⟨by simp [completed, hc], all.parts, all.fields⟩

/-! ## SLICE_QUOTA -/

/-- Both quotas of a slice set in both halves (R79). -/
def State.setQuotas (s : State) (sl em tcam : Nat) : State :=
  halves.foldl (fun s h => s.sts [(.SLC_QUOTA_em_quota, [h.n, sl], em), (.SLC_QUOTA_tcam_quota, [h.n, sl], tcam)]) s

theorem Within.setQuotas (s : State) (sl em tcam : Nat) : Within [] [.SLC_QUOTA_em_quota, .SLC_QUOTA_tcam_quota] s (s.setQuotas sl em tcam) :=
  .foldl (fun t _ => (Within.refl _ _ t).sts _ (by simp)) _ s

theorem rd_setQuotas_self (s : State) (h : Half) (sl : Nat) {em tcam : Nat} (he : em ≤ 131072) (ht : tcam ≤ 65536) :
    (s.setQuotas sl em tcam).rd .SLC_QUOTA_em_quota [h.n, sl] = em ∧ (s.setQuotas sl em tcam).rd .SLC_QUOTA_tcam_quota [h.n, sl] = tcam := by
  have fitE : em % 2 ^ Fld.SLC_QUOTA_em_quota.info.w = em := Nat.mod_eq_of_lt (show em < 2 ^ 18 by omega)
  have fitT : tcam % 2 ^ Fld.SLC_QUOTA_tcam_quota.info.w = tcam := Nat.mod_eq_of_lt (show tcam < 2 ^ 17 by omega)
  cases h <;> simp [State.setQuotas, halves, State.sts, rd_st, Half.n, fitE, fitT]

theorem rd_setQuotas_of_ne (s : State) (h : Half) {sl x : Nat} (hx : x ≠ sl) (em tcam : Nat) (f : Fld) : (s.setQuotas sl em tcam).rd f [h.n, x] = s.rd f [h.n, x] := by
  simp [State.setQuotas, halves, State.sts, rd_st, hx]

/-- SLICE_QUOTA sets both quotas of its slice, in both halves, and completes (R79). -/
theorem sliceQuota_sets_both (s : State) (d : Hdr) (em tcam : Nat)
    (hs : served s d ⟨0x14, .config, true, false, 0⟩ true (cleanHdr d true false false && decide (em ≤ 131072) && decide (tcam ≤ 65536)))
    (hd : due s (.sliceQuota d em tcam)) :
    ∃ t, exec (.sliceQuota d em tcam) s = .next t ∧ completed s t d 0 0 0
      ∧ (∀ h : Half, t.rd .SLC_QUOTA_em_quota [h.n, d.slice] = em ∧ t.rd .SLC_QUOTA_tcam_quota [h.n, d.slice] = tcam)
      ∧ (∀ h : Half, ∀ sl, sl ≠ d.slice → t.rd .SLC_QUOTA_em_quota [h.n, sl] = s.rd .SLC_QUOTA_em_quota [h.n, sl]
          ∧ t.rd .SLC_QUOTA_tcam_quota [h.n, sl] = s.rd .SLC_QUOTA_tcam_quota [h.n, sl])
      ∧ partsBut [] s t ∧ fieldsBut [.SLC_QUOTA_em_quota, .SLC_QUOTA_tcam_quota] s t := by
  obtain ⟨⟨-, hem⟩, htcam⟩ : (_ ∧ em ≤ 131072) ∧ tcam ≤ 65536 := by simpa using (served_clean hs).1
  obtain ⟨done, parts, fields⟩ := completed_of_within (.setQuotas (s.descRun d) d.slice em tcam) rfl 0 0 0
  have reads : ∀ f ix, reported f ix = false → (settle (((s.descRun d).setQuotas d.slice em tcam).complete d 0 0 0)).rd f ix
      = ((s.descRun d).setQuotas d.slice em tcam).rd f ix := fun f ix hr => rd_completeX _ _ _ _ _ _ hr
  refine ⟨_, doneDesc_of_served _ (hd d rfl) hs, done, fun h => ?_, fun h sl hsl => ?_, parts, fields⟩
  · exact (reads .SLC_QUOTA_em_quota _ rfl) ▸ (reads .SLC_QUOTA_tcam_quota _ rfl) ▸ rd_setQuotas_self _ h d.slice hem htcam
  · have same : ∀ f, ((s.descRun d).setQuotas d.slice em tcam).rd f [h.n, sl] = s.rd f [h.n, sl] := fun f =>
      (rd_setQuotas_of_ne _ h hsl em tcam f).trans (descRun_rd ..)
    exact ⟨(reads _ _ rfl).trans (same _), (reads _ _ rfl).trans (same _)⟩

/-! ## The VNI map -/

/-- The VNI map replaced. -/
def State.setVni (s : State) (m : SMap (Nat × Nat)) : State := { s with tables := { s.tables with vni := m } }

theorem Within.setVni (s : State) (m : SMap (Nat × Nat)) : Within [.tables] [] s (s.setVni m) := (Within.refl _ _ s).set_tables _

@[simp] theorem vni_setVni (s : State) (m : SMap (Nat × Nat)) : (s.setVni m).tables.vni = m := rfl

@[simp] theorem descRun_vniWay (s : State) (d : Hdr) (vni : Nat) : (s.descRun d).vniWay vni = s.vniWay vni := by
  unfold State.vniWay
  rw [descRun_tables]

/-- The lowest free way of a VNI's bucket (log entry 84). -/
def State.vniFree (s : State) (vni : Nat) : Option Nat := (List.range 4).find? (fun w => (s.tables.vni.get? [vniBucket vni, w]).isNone)

theorem vniFree_eq_none {s : State} {vni : Nat} (h : ∀ w, w < 4 → (s.tables.vni.get? [vniBucket vni, w]).isSome = true) : s.vniFree vni = none := by
  rw [State.vniFree, List.find?_eq_none]
  intro w hw
  simpa [Option.isSome_iff_ne_none] using h w (List.mem_range.1 hw)

@[simp] theorem descRun_vniFree (s : State) (d : Hdr) (vni : Nat) : (s.descRun d).vniFree vni = s.vniFree vni := by
  unfold State.vniFree
  rw [descRun_tables]

/-- VNI_MAP_WRITE writes the way that holds the VNI, or else a free one, and else fails (R57). -/
theorem exec_vniMapWrite {s : State} {d : Hdr} {vni : Nat}
    (hs : served s d ⟨0x15, .config, true, false, 0⟩ true (cleanHdr d true false false && decide (vni < 16777216))) (hd : due s (.vniMapWrite d vni)) :
    exec (.vniMapWrite d vni) s = .next (settle (match (s.vniWay vni).or (s.vniFree vni) with
      | some w => ((s.descRun d).setVni (s.tables.vni.set [vniBucket vni, w] (vni, d.slice))).complete d 0 0 0
      | none => (s.descRun d).complete d 0x10 0 0)) := by
  refine (doneDesc_of_served _ (hd d rfl) hs).trans ?_
  rw [← descRun_vniWay s d, ← descRun_vniFree s d, ← descRun_tables s d]
  cases hw : (s.descRun d).vniWay vni <;> rfl

/-- VNI_MAP_DELETE frees the way that holds the VNI, and fails where none does (R57). -/
theorem exec_vniMapDelete {s : State} {d : Hdr} {vni : Nat}
    (hs : served s d ⟨0x16, .config, true, false, 0⟩ true (cleanHdr d false false false && decide (vni < 16777216))) (hd : due s (.vniMapDelete d vni)) :
    exec (.vniMapDelete d vni) s = .next (settle (match s.vniWay vni with
      | some w => ((s.descRun d).setVni (s.tables.vni.erase [vniBucket vni, w])).complete d 0 0 0
      | none => (s.descRun d).complete d 0x14 0 0)) := by
  refine (doneDesc_of_served _ (hd d rfl) hs).trans ?_
  rw [← descRun_vniWay s d, ← descRun_tables s d]
  cases hw : (s.descRun d).vniWay vni <;> rfl

/-- Settles O2: SLICE_QUOTA, and the two commands of the VNI map where a way holds the VNI, where one is free, and where none is. -/
theorem sliceQuotaAndVniMap : Obligations.SliceQuotaAndVniMap := by
  unfold Obligations.SliceQuotaAndVniMap
  refine ⟨sliceQuota_sets_both, fun s d vni => ⟨?write, ?full, ?delete, ?absent⟩⟩
  case write =>
    intro hs w hw hd
    have way : (s.vniWay vni).or (s.vniFree vni) = some w := by
      rcases hw with hw | ⟨hn, hf⟩
      · rw [hw]; rfl
      · rw [hn]; exact hf
    have run := exec_vniMapWrite hs hd
    rw [way] at run
    obtain ⟨done, parts, fields⟩ := completed_of_within (.setVni (s.descRun d) (s.tables.vni.set [vniBucket vni, w] (vni, d.slice))) rfl 0 0 0
    exact ⟨_, run, done, by simp, fun k hk => by simp [SMap.get?_set_ne _ _ hk.symm], parts, fields⟩
  case full =>
    intro hs hn hfull hd
    have run := exec_vniMapWrite hs hd
    rw [hn, vniFree_eq_none hfull] at run
    exact ⟨_, run, completed_of_within (.refl ..) rfl 0x10 0 0⟩
  case delete =>
    intro hs w hw hd
    have run := exec_vniMapDelete hs hd
    rw [hw] at run
    obtain ⟨done, parts, fields⟩ := completed_of_within (.setVni (s.descRun d) (s.tables.vni.erase [vniBucket vni, w])) rfl 0 0 0
    exact ⟨_, run, done, by simp [SMap.get?_erase], fun k hk => by simp [SMap.get?_erase, hk.symm], parts, fields⟩
  case absent =>
    intro hs hn hd
    have run := exec_vniMapDelete hs hd
    rw [hn] at run
    exact ⟨_, run, completed_of_within (.refl ..) rfl 0x14 0 0⟩

end Sys2Proof.Machine

namespace Sys2Proof.Machine

/-! ## Counters and events, and the passing of time -/

/-- What counting in a performance counter and raising an event leave unchanged: every field but those of `reportFlds`, and all that the engines hold. -/
structure Signals (s t : State) : Prop where
  rd : ∀ f ix, f ∉ reportFlds → t.rd f ix = s.rd f ix
  clove : t.clove = s.clove

namespace Signals

variable {s t u : State}

theorem refl (s : State) : Signals s s := ⟨fun _ _ _ => rfl, rfl⟩

theorem trans (h : Signals s t) (k : Signals t u) : Signals s u := ⟨fun f ix hf => (k.rd f ix hf).trans (h.rd f ix hf), k.clove.trans h.clove⟩

theorem set_host (h : Signals s t) (x : HostIf) : Signals s { t with host := x } := ⟨h.rd, h.clove⟩
theorem set_tel (h : Signals s t) (x : Tel) : Signals s { t with tel := x } := ⟨h.rd, h.clove⟩
theorem set_time (h : Signals s t) (x : Time) : Signals s { t with time := x } := ⟨h.rd, h.clove⟩

theorem st (h : Signals s t) {f : Fld} (ix : List Nat) (v : Nat) (hf : f ∈ reportFlds) : Signals s (t.st f ix v) :=
  ⟨fun g jx hg => (rd_st_of_ne t ix jx v (fun e : g = f => hg (e ▸ hf))).trans (h.rd g jx hg), h.clove⟩

theorem ite (c : Prop) [Decidable c] (h : Signals s t) (k : Signals s u) : Signals s (if c then t else u) := by
  split
  · exact h
  · exact k

theorem foldl {α : Type} {op : State → α → State} (hop : ∀ t a, Signals t (op t a)) (l : List α) (s : State) : Signals s (l.foldl op s) := by
  induction l generalizing s with
  | nil => exact refl s
  | cons a l ih => exact (hop s a).trans (ih _)

theorem signal (h : Signals s t) (fn r : Nat) : Signals s (t.signal fn r) := by
  have sent : ∀ vec, Signals s (t.msixSend fn vec) := fun vec => ite _ h (ite _ (h.set_host _) (h.set_host _))
  unfold State.signal
  dsimp only
  split
  · exact h.set_host _
  · exact ite _ (sent _) ((sent _).set_host _)

theorem ringPut (h : Signals s t) (fn r : Nat) (ent : List Byte) (a b : Nat) (sig : Bool) : Signals s (t.ringPut fn r ent a b sig) := by
  unfold State.ringPut
  extract_lets n byte ent' t1 t2
  have written : Signals s t1 := h.set_host _
  have counted : Signals s t2 := written.st _ _ (by decide)
  exact ite _ (counted.signal _ _) counted

theorem eventTo (h : Signals s t) (fn : Nat) (e : Evt) : Signals s (t.eventTo fn e) := by
  unfold State.eventTo
  extract_lets now one lost drop
  have hone : ∀ {v} code pl, Signals s v → Signals s (one v code pl) := fun code pl hv => (hv.set_host _).ringPut ..
  have hdrop : ∀ {v}, Signals s v → Signals s (drop v) := fun hv => (hv.set_host _).st _ _ (by decide)
  have told := hone 0x0001 (leBytes 4 lost) (h.set_host { t.host with evtLost := t.host.evtLost.erase [fn] })
  exact ite _ h (ite _ (hdrop h) (ite _ (hone _ _ h) (ite _ (hdrop told) (hone _ _ told))))

theorem raise (h : Signals s t) (code half : Nat) (fs : List (Nat × Nat × Nat)) (vf : Option Nat) : Signals s (t.raise code half fs vf) := by
  have told : ∀ e, Signals s (State.eventTo { t with host := { t.host with events := t.host.events ++ [e] } } 0 e) := fun e => (h.set_host _).eventTo 0 e
  unfold State.raise
  dsimp only
  split
  · exact ite _ ((told _).eventTo ..) (told _)
  · exact told _

theorem pmc (h : Signals s t) (x : Half) (ev : Nat) (e : PmcEv) (n : Nat) : Signals s (t.pmc x ev e n) := by
  refine h.trans (foldl (fun v i => ite _ ?_ (refl v)) _ t)
  have counted : Signals v (v.bump .PMC_CNT_v [x.n, i] n) := (refl v).st _ _ (by decide)
  exact ite _ counted ((counted.set_tel _).raise ..)

theorem bridgeMsg (h : Signals s t) (x : Half) : Signals s (t.bridgeMsg x) := h.pmc ..

end Signals

@[simp] theorem own_settle (s : State) (h : Half) : (settle s).own h = s.own h := rfl

/-- Time has passed up to an elapsed time, if that was not past already (R177, R179). -/
structure Passes (s u : State) (t : Nat) : Prop where
  within : Within [.time] [] s u
  signals : Signals s u
  elapsed : u.time.elapsed = max s.time.elapsed t
  events : s.host.events <+: u.host.events

theorem runTo_passes (s : State) (t : Nat) : Passes s (s.runTo t) t := by
  unfold State.runTo
  split
  · exact ⟨.refl .., .refl s, (max_eq_left ‹_›).symm, (Reports.refl s).events⟩
  · extract_lets a d src v
    have counted : Reports v (halves.foldl (fun (s : State) (h : Half) => s.pmcClocks a t h) v) :=
      Reports.foldl (fun w h => ((Reports.refl w).pmc ..).pmc ..) _ v
    have quiet : Signals v (halves.foldl (fun (s : State) (h : Half) => s.pmcClocks a t h) v) :=
      Signals.foldl (fun w h => ((Signals.refl w).pmc ..).pmc ..) _ v
    have before : Within [.time] [] s v := ⟨partsBut_set_time (ps := [.time]) (partsBut_refl _ s) (by decide) v.time, fieldsBut_refl _ s⟩
    have passed : Within [.time] [] s (halves.foldl (fun (s : State) (h : Half) => s.pmcClocks a t h) v) := before.report counted
    refine ⟨passed, ((Signals.refl s).set_time v.time).trans quiet, ?_, counted.events⟩
    rw [counted.time]
    have later : s.time.elapsed ≤ t := by omega
    exact (max_eq_right later).symm

namespace Passes

variable {s u : State} {t : Nat}

theorem ras (h : Passes s u t) : u.ras = s.ras := h.within.parts .ras (by decide)

theorem own (h : Passes s u t) (x : Half) : u.own x = s.own x := h.signals.rd _ _ (by decide)

theorem xingBusy (h : Passes s u t) (x : Half) (pair tile : Nat) : u.xingBusy x pair tile = s.xingBusy x pair tile := by
  unfold State.xingBusy State.xingAt
  rw [h.ras]

theorem serves (h : Passes s u t) (x : Half) (r : Nat) (body : List Word) : u.serves x r body = s.serves x r body := by
  have up : u.routineUp x r = s.routineUp x r := by
    unfold State.routineUp
    simp only [h.signals.rd .CLV_ROUTE_mask _ (by decide), h.signals.rd .CLV_ENG_STAT_state _ (by decide)]
  unfold State.serves State.posted State.rqRoom State.rq
  rw [up, h.signals.clove]

end Passes

/-- An event lost at a crossing is counted there (R411, R412). -/
theorem rd_xingLost_count (s : State) (h : Half) (pair : Nat) :
    (s.xingLost h pair).rd .RAS_CNT_v [h.n, 10] = (s.rd .RAS_CNT_v [h.n, 10] + 1) % 2 ^ 64 := by
  unfold State.xingLost
  dsimp only
  rw [rd_bump, if_pos ⟨rfl, rfl⟩]
  split
  · rfl
  · rw [rd_st_of_ne _ _ _ _ (by decide)]
    rfl

/-- A timer's event that meets a crossing not acknowledged: time has passed, and the event is lost and counted (R411, R412). -/
theorem xingSend_of_busy {s : State} {h : Half} {t : Nat} (op : State → State) (hx : s.xingBusy h 4 0 = true) :
    ∃ u, (s.runTo t).xingSend h 4 0 op = u ∧ Within [.time] [] s u ∧ u.time.elapsed = max s.time.elapsed t ∧ u.own h = s.own h
      ∧ u.rd .RAS_CNT_v [h.n, 10] = (s.rd .RAS_CNT_v [h.n, 10] + 1) % 2 ^ 64 := by
  have p := runTo_passes s t
  have lost : Reports (s.runTo t) ((s.runTo t).xingLost h 4) := (Reports.refl _).xingLost h 4
  refine ⟨_, if_pos (by rw [p.xingBusy, hx]), p.within.report lost, ?_, (lost.rd _ _ rfl).trans (p.own h), ?_⟩
  · rw [lost.time, p.elapsed]
  · rw [rd_xingLost_count, p.signals.rd _ _ (by decide)]

theorem xingSend_of_free {s : State} {h : Half} {t : Nat} (op : State → State) (hx : s.xingBusy h 4 0 = false) :
    (s.runTo t).xingSend h 4 0 op = op (s.runTo t) := if_neg (by rw [(runTo_passes s t).xingBusy, hx]; decide)

theorem lt_nextMultiple {m : Nat} (hm : 0 < m) (t : Nat) : t < nextMultiple m t := by
  unfold nextMultiple
  rw [mul_comm]
  exact Nat.lt_mul_div_succ t hm

end Sys2Proof.Machine

namespace Sys2Proof.Machine

/-! ## The lease (R393, R394) -/

/-- Work of a routine that is served is done, after reports alone (R301, R302). -/
theorem viaRoutine_of_serves {s : State} {h : Half} {r : Nat} {body : List Word} (op : State → State) (hs : s.serves h r body = true) :
    s.viaRoutine h r body op = op (s.takeWork h r body) := by
  obtain ⟨up, room⟩ : s.routineUp h r = true ∧ (s.posted h r body || s.rqRoom h r) = true := by simpa [State.serves] using hs
  unfold State.viaRoutine
  rw [if_neg (by simp [up]), if_pos room]

/-- A renewal put on the bridge (R393). -/
def State.renew (s : State) (o : Half) : State :=
  { s with ras := { s.ras with renewSent := s.ras.renewSent ++ [(o.other, s.rd .RAS_OWN_STAT_term [o.n], o.n)] } }

@[simp] theorem renew_time (s : State) (o : Half) : (s.renew o).time = s.time := rfl
@[simp] theorem renew_renewSent (s : State) (o : Half) :
    (s.renew o).ras.renewSent = s.ras.renewSent ++ [(o.other, s.rd .RAS_OWN_STAT_term [o.n], o.n)] := rfl

theorem doLeaseRenewal_of_owner {s : State} (ho : s.own s.owner = 0) :
    doLeaseRenewal s = (s.runTo (nextMultiple 1000000 s.elapsed)).xingSend s.owner 4 0 fun u => u.viaRoutine s.owner 0 [0, 1] fun u =>
      if u.bridgeUp then (u.renew s.owner).bridgeMsg s.owner else u := by
  unfold doLeaseRenewal
  exact if_neg (by simp [ho])

theorem elapsed_of_next {s u : State} (h : u.time.elapsed = max s.time.elapsed (nextMultiple 1000000 s.time.elapsed)) :
    u.time.elapsed = nextMultiple 1000000 s.time.elapsed := h.trans (max_eq_right (lt_nextMultiple (by decide) _).le)

/-- The owner's renewal meets a crossing that has not acknowledged (R411, R412). -/
theorem leaseRenewal_lost (s : State) (ho : s.own s.owner = 0) (hx : s.xingBusy s.owner 4 0 = true) :
    ∃ t, exec .leaseRenewal s = .next t ∧ t.time.elapsed = nextMultiple 1000000 s.time.elapsed ∧ t.ras = s.ras
      ∧ t.rd .RAS_CNT_v [s.owner.n, 10] = (s.rd .RAS_CNT_v [s.owner.n, 10] + 1) % 2 ^ 64 ∧ partsBut [.time] s t ∧ fieldsBut [] s t := by
  obtain ⟨u, run, within, elapsed, -, count⟩ := xingSend_of_busy (t := nextMultiple 1000000 s.elapsed) _ hx
  exact ⟨settle u, congrArg done ((doLeaseRenewal_of_owner ho).trans run), elapsed_of_next elapsed, within.parts .ras (by decide), count,
    within.settle.parts, within.settle.fields⟩

/-- The owner's renewal goes out at the next multiple of 1 ms (R393, log entry 85). -/
theorem leaseRenewal_sent (s : State) (ho : s.own s.owner = 0) (hb : s.bridgeUp = true) (hx : s.xingBusy s.owner 4 0 = false)
    (hs : s.serves s.owner 0 [0, 1] = true) :
    ∃ t, exec .leaseRenewal s = .next t ∧ t.time.elapsed = nextMultiple 1000000 s.time.elapsed
      ∧ t.ras.renewSent = s.ras.renewSent ++ [(s.owner.other, s.rd .RAS_OWN_STAT_term [s.owner.n], s.owner.n)]
      ∧ partsBut [.ras, .time] s t ∧ fieldsBut [] s t := by
  have p := runTo_passes s (nextMultiple 1000000 s.elapsed)
  have taken : Reports (s.runTo (nextMultiple 1000000 s.elapsed)) _ := (Reports.refl _).takeWork s.owner 0 [0, 1]
  have run := doLeaseRenewal_of_owner ho
  rw [xingSend_of_free _ hx, viaRoutine_of_serves _ ((p.serves ..).trans hs)] at run
  generalize (s.runTo (nextMultiple 1000000 s.elapsed)).takeWork s.owner 0 [0, 1] = u at taken run
  have before : Within [.ras, .time] [] s u := p.within.mono.report taken
  have up : u.bridgeUp = true := by
    unfold State.bridgeUp State.on at hb ⊢
    rw [before.rd _ _, hb]
  rw [if_pos up] at run
  have sent : Reports (u.renew s.owner) _ := (Reports.refl _).bridgeMsg s.owner
  have after := ((before.set_ras (u.renew s.owner).ras).report sent).settle
  refine ⟨_, congrArg done run, elapsed_of_next ?_, ?_, after.parts, after.fields⟩
  · rw [settle_time, sent.time, renew_time, taken.time, p.elapsed]
    rfl
  · rw [settle_ras, sent.ras, renew_renewSent, before.rd _ _, taken.ras, p.ras]

theorem rd_adoptTerm {s : State} {h : Half} {term own : Nat} (ht : s.rd .RAS_OWN_STAT_term [h.n] < term) (hterm : term < 2 ^ 32) (ho : s.own h ≠ 2) :
    (s.adoptTerm h term own).rd .RAS_OWN_STAT_term [h.n] = term ∧ (s.adoptTerm h term own).own h = b2n (decide (own ≠ h.n)) := by
  have fit : term % 2 ^ Fld.RAS_OWN_STAT_term.info.w = term := Nat.mod_eq_of_lt hterm
  have flag : b2n (decide (own ≠ h.n)) % 2 ^ Fld.RAS_OWN_STAT_state.info.w = b2n (decide (own ≠ h.n)) := by cases decide (own ≠ h.n) <;> rfl
  unfold State.own at ho
  unfold State.adoptTerm
  simp only [rd_st, State.own, State.sts, List.foldl_cons, List.foldl_nil, reduceCtorEq, false_and, if_false, not_le.2 ht, ho, fit, flag, if_true, and_self]

theorem Within.adoptTerm (s : State) (h : Half) (term own : Nat) :
    Within [] [.RAS_OWN_STAT_claim_pend, .RAS_OWN_STAT_term, .RAS_OWN_STAT_owner, .RAS_OWN_STAT_state] s (s.adoptTerm h term own) := by
  unfold State.adoptTerm
  extract_lets s1 s2
  have pend : Within [] [.RAS_OWN_STAT_claim_pend, .RAS_OWN_STAT_term, .RAS_OWN_STAT_owner, .RAS_OWN_STAT_state] s s1 := (refl _ _ s).st _ _
  have adopted : Within [] [.RAS_OWN_STAT_claim_pend, .RAS_OWN_STAT_term, .RAS_OWN_STAT_owner, .RAS_OWN_STAT_state] s s2 := pend.sts _ (by simp)
  exact .ite _ pend (.ite _ adopted (adopted.st _ _))

/-- A renewal is received and acknowledged (R393). -/
def State.renewed (s : State) (q : List (Half × Nat × Nat)) : State :=
  { s with ras := { s.ras with renewSent := q, rxAt := s.elapsed, acksSent := s.ras.acksSent + 1 } }

/-- The half yields to a renewal's higher term (R394). -/
def State.yields (s : State) (h : Half) (term own : Nat) : State :=
  if s.own h ≠ 2 ∧ s.rd .RAS_OWN_STAT_term [h.n] < term then s.adoptTerm h term own else s

theorem doLeaseRenewalRx_of_sent {s : State} {h : Half} {term own : Nat} {q : List (Half × Nat × Nat)} (hq : s.ras.renewSent = (h, term, own) :: q) :
    doLeaseRenewalRx s = ((s.renewed q).bridgeMsg h).yields h term own := by
  unfold doLeaseRenewalRx
  rw [hq]
  rfl

/-- The other half acknowledges the renewal, and yields to a higher term (R393, R394). -/
theorem leaseRenewalRx_yields (s : State) (h : Half) (term own : Nat) (q : List (Half × Nat × Nat)) (hq : s.ras.renewSent = (h, term, own) :: q)
    (hterm : term < 2 ^ 32) :
    ∃ t, exec .leaseRenewalRx s = .next t ∧ t.ras.renewSent = q ∧ t.ras.acksSent = s.ras.acksSent + 1 ∧ t.ras.rxAt = s.time.elapsed
      ∧ (s.own h ≠ 2 → s.rd .RAS_OWN_STAT_term [h.n] < term → t.rd .RAS_OWN_STAT_term [h.n] = term ∧ t.own h = b2n (decide (own ≠ h.n)))
      ∧ ((s.own h = 2 ∨ term ≤ s.rd .RAS_OWN_STAT_term [h.n]) → fieldsBut [] s t) ∧ partsBut [.ras] s t := by
  have sent : Reports (s.renewed q) ((s.renewed q).bridgeMsg h) := (Reports.refl _).bridgeMsg h
  have run := doLeaseRenewalRx_of_sent hq
  generalize (s.renewed q).bridgeMsg h = u at sent run
  have got : Within [.ras] [] s u := ((Within.refl _ _ s).set_ras (s.renewed q).ras).report sent
  have own_eq : u.own h = s.own h := got.rd _ _
  have term_eq : u.rd .RAS_OWN_STAT_term [h.n] = s.rd .RAS_OWN_STAT_term [h.n] := got.rd _ _
  have within : Within [] [.RAS_OWN_STAT_claim_pend, .RAS_OWN_STAT_term, .RAS_OWN_STAT_owner, .RAS_OWN_STAT_state] u (u.yields h term own) :=
    .ite _ (.adoptTerm ..) (.refl ..)
  have ras : (u.yields h term own).ras = (s.renewed q).ras := (within.parts .ras (by decide)).trans sent.ras
  have renew : (settle (u.yields h term own)).ras = (s.renewed q).ras := ras
  refine ⟨_, congrArg done run, by rw [renew]; rfl, by rw [renew]; rfl, by rw [renew]; rfl, fun ho ht => ?_, fun hkeep => ?_,
    partsBut_settle (partsBut_trans got.parts (partsBut_mono within.parts (by simp)))⟩
  · rw [← own_eq] at ho
    rw [← term_eq] at ht
    have yields : u.yields h term own = u.adoptTerm h term own := if_pos ⟨ho, ht⟩
    rw [rd_settle, own_settle, yields]
    exact rd_adoptTerm ht hterm ho
  · have keeps : u.yields h term own = u := if_neg (by rw [own_eq, term_eq]; omega)
    rw [keeps]
    exact fieldsBut_settle got.fields

theorem leaseAck_received (s : State) (ha : s.ras.acksSent ≠ 0) :
    ∃ t, exec .leaseAck s = .next t ∧ t.ras.acksSent = s.ras.acksSent - 1 ∧ t.ras.ackAt = s.time.elapsed ∧ partsBut [.ras] s t ∧ fieldsBut [] s t := by
  have run : doLeaseAck s = { s with ras := { s.ras with acksSent := s.ras.acksSent - 1, ackAt := s.elapsed } } := if_neg ha
  have within := ((Within.refl [.ras] [] s).set_ras { s.ras with acksSent := s.ras.acksSent - 1, ackAt := s.elapsed }).settle
  exact ⟨_, congrArg done run, rfl, rfl, within.parts, within.fields⟩

/-- When a half's lease lapses: `lease_ms` after what it last heard of the other (R393). -/
def State.lapseAt (s : State) (h : Half) : Nat := (if s.own h = 0 then s.ras.ackAt else s.ras.rxAt) + s.leaseNs h

theorem doLeaseLapse_of_resolved {s : State} {h : Half} (ho : s.own h ≠ 2) :
    doLeaseLapse h s = (s.runTo (s.lapseAt h)).xingSend h 4 0 (fun s => s.ownLost h 2) := if_neg ho

/-- The lapse of a lease meets a crossing that has not acknowledged (R411, R412). -/
theorem leaseLapse_lost (s : State) (h : Half) (ho : s.own h ≠ 2) (hx : s.xingBusy h 4 0 = true) :
    ∃ t, exec (.leaseLapse h) s = .next t ∧ t.own h = s.own h ∧ t.rd .RAS_CNT_v [h.n, 10] = (s.rd .RAS_CNT_v [h.n, 10] + 1) % 2 ^ 64
      ∧ partsBut [.time] s t ∧ fieldsBut [] s t := by
  obtain ⟨u, run, within, -, own, count⟩ := xingSend_of_busy (t := s.lapseAt h) _ hx
  exact ⟨settle u, congrArg done ((doLeaseLapse_of_resolved ho).trans run), own, count, within.settle.parts, within.settle.fields⟩

theorem other_ne (h : Half) : h.other ≠ h := by cases h <;> decide

theorem ownLost_of_resolved {s : State} {h : Half} (cause : Nat) (ho : s.own h ≠ 2) :
    s.ownLost h cause = (s.st .RAS_OWN_STAT_state [h.n] 2).raise 0x0111 h.n [(0, 1, h.n), (1, 1, cause), (4, 4, s.rd .RAS_OWN_STAT_term [h.n])] :=
  if_neg ho

theorem Within.ownLost (s : State) (h : Half) (cause : Nat) : Within [] [.RAS_OWN_STAT_state] s (s.ownLost h cause) := by
  unfold State.ownLost
  exact .ite _ (refl ..) (((refl _ _ s).st _ _).raise ..)

/-- The half is UNRESOLVED afterwards, and the other half as it was (R394). -/
theorem own_ownLost (s : State) (h x : Half) (cause : Nat) : (s.ownLost h cause).own x = if x = h then 2 else s.own x := by
  by_cases ho : s.own h = 2
  · have same : s.ownLost h cause = s := if_pos ho
    rw [same]
    split
    · exact ‹x = h› ▸ ho
    · rfl
  · rw [ownLost_of_resolved cause ho]
    unfold State.own
    rw [rd_raise _ _ _ _ _ rfl, rd_st]
    by_cases hx : x = h
    · simp [hx]
      rfl
    · have hn : x.n ≠ h.n := fun e => hx (Half.n_inj e)
      simp [hx, hn]

/-- A lease that lapses leaves its half UNRESOLVED (R393, R394). -/
theorem leaseLapse_unresolves (s : State) (h : Half) (ho : s.own h ≠ 2) (hx : s.xingBusy h 4 0 = false) :
    ∃ t pre ev, exec (.leaseLapse h) s = .next t ∧ t.own h = 2 ∧ t.own h.other = s.own h.other
      ∧ t.time.elapsed = max s.time.elapsed ((if s.own h = 0 then s.ras.ackAt else s.ras.rxAt) + s.leaseNs h)
      ∧ t.host.events = s.host.events ++ pre ++ [ev] ∧ ev.code = 0x0111 ∧ partsBut [.time] s t ∧ fieldsBut [.RAS_OWN_STAT_state] s t := by
  have p := runTo_passes s (s.lapseAt h)
  have run := (doLeaseLapse_of_resolved ho).trans (xingSend_of_free _ hx)
  generalize s.runTo (s.lapseAt h) = u at p run
  have within : Within [.time] [.RAS_OWN_STAT_state] s (u.ownLost h 2) := p.within.mono.andThen (.ownLost ..)
  have told : (u.ownLost h 2).host.events
      = u.host.events ++ [⟨0x0111, h.n, record 32 [(0, 1, h.n), (1, 1, 2), (4, 4, u.rd .RAS_OWN_STAT_term [h.n])]⟩] := by rw [ownLost_of_resolved 2 (by rwa [p.own]), raise_events, st_host]
  obtain ⟨pre, hpre⟩ := p.events
  refine ⟨_, pre, _, congrArg done run, ?_, ?_, ?_, by rw [settle_host, told, hpre], rfl, within.settle.parts, within.settle.fields⟩
  · rw [own_settle, own_ownLost, if_pos rfl]
  · rw [own_settle, own_ownLost, if_neg (other_ne h), p.own]
  · have same : (u.ownLost h 2).time = u.time := (Within.ownLost u h 2).parts .time (by decide)
    rw [settle_time, same]
    exact p.elapsed

end Sys2Proof.Machine

namespace Sys2Proof.Machine

/-! ## The exchange of terms (R398) -/

/-- A half leaves UNRESOLVED with an owner and a term (R398). -/
def State.resolveIn (s : State) (o : Half) (term : Nat) (h : Half) : State :=
  s.sts [(.RAS_OWN_STAT_state, [h.n], b2n (decide (h ≠ o))), (.RAS_OWN_STAT_owner, [h.n], o.n),
    (.RAS_OWN_STAT_term, [h.n], term), (.RAS_OWN_STAT_claim_pend, [h.n], 0), (.RAS_OWN_STAT_conflict, [h.n], 0)]

/-- The lease counts anew from a resolution (R393, log entry 66). -/
def State.leaseAnew (s : State) : State :=
  { s with ras := { s.ras with rxAt := s.elapsed, ackAt := s.elapsed, renewSent := [], acksSent := 0 } }

/-- Owner, term and state of both halves at a resolution (R398). -/
def State.resolveBoth (s : State) (o : Half) (term : Nat) : State := halves.foldl (fun (s : State) h => s.resolveIn o term h) s

/-- Whatever the steps rolled forward do, a resolution sets owner, term and state of both halves after them (R398). -/
theorem resolve_eq (s : State) (o : Half) (term : Nat) :
    s.resolve o term = (((s.rollForward.2.mirrorFrom o).deferredApply.resolveBoth o term).leaseAnew).raise 0x0112 o.n
      [(0, 1, o.n), (4, 4, term), (8, 4, s.rollForward.1)] := by
  unfold State.resolve State.resolveBoth State.resolveIn State.leaseAnew
  dsimp only

theorem ras_resolveBoth (s : State) (o : Half) (term : Nat) : (s.resolveBoth o term).ras = s.ras := by
  unfold State.resolveBoth
  exact (partsBut_foldl (fun t _ => partsBut_sts t _) _ (partsBut_refl [] s)) .ras (by decide)

theorem deferred_leaseAnew (s : State) : s.leaseAnew.ras.deferred = s.ras.deferred := rfl

theorem deferred_deferredApply (s : State) : s.deferredApply.ras.deferred = [] := rfl

theorem rd_leaseAnew (s : State) (f : Fld) (ix : List Nat) : s.leaseAnew.rd f ix = s.rd f ix := rfl

/-- Both halves have the owner, the term and the state that a resolution gives them. -/
theorem rd_resolveBoth (s : State) (o h : Half) {term : Nat} (ht : term < 2 ^ 32) :
    (s.resolveBoth o term).own h = b2n (decide (h ≠ o)) ∧ (s.resolveBoth o term).rd .RAS_OWN_STAT_term [h.n] = term
      ∧ (s.resolveBoth o term).rd .RAS_OWN_STAT_owner [h.n] = o.n := by
  have fit : term % 2 ^ Fld.RAS_OWN_STAT_term.info.w = term := Nat.mod_eq_of_lt ht
  cases h <;> cases o <;> simp [State.resolveBoth, halves, State.resolveIn, State.own, State.sts, rd_st, Half.n, fit] <;> decide

/-- After a resolution (R398). -/
theorem resolve_spec (s : State) (o : Half) {term : Nat} (ht : term < 2 ^ 32) :
    ∃ ev, (s.resolve o term).own o = 0 ∧ (s.resolve o term).own o.other = 1
      ∧ (∀ h : Half, (s.resolve o term).rd .RAS_OWN_STAT_term [h.n] = term ∧ (s.resolve o term).rd .RAS_OWN_STAT_owner [h.n] = o.n)
      ∧ (s.resolve o term).ras.deferred = [] ∧ ev ∈ (s.resolve o term).host.events ∧ ev.code = 0x0112 := by
  have e := resolve_eq s o term
  generalize s.rollForward.2.mirrorFrom o = u at e
  have reads : ∀ f ix, reported f ix = false → (s.resolve o term).rd f ix = (u.deferredApply.resolveBoth o term).rd f ix := fun f ix hr => by
    rw [e, rd_raise _ _ _ _ _ hr, rd_leaseAnew]
  have own : ∀ h, (s.resolve o term).own h = b2n (decide (h ≠ o)) := fun h => (reads _ _ rfl).trans (rd_resolveBoth _ o h ht).1
  refine ⟨⟨0x0112, o.n, record 32 [(0, 1, o.n), (4, 4, term), (8, 4, s.rollForward.1)]⟩, ?_, ?_, fun h => ?_, ?_, by simp [e], rfl⟩
  · simp [own, b2n]
  · simp [own, other_ne, b2n]
  · rw [reads _ _ rfl, reads _ _ rfl]
    exact (rd_resolveBoth _ o h ht).2
  · rw [e, raise_ras, deferred_leaseAnew, ras_resolveBoth, deferred_deferredApply]

/-- What the halves send each other before they compare their terms. -/
def State.exchanged (s : State) : State := (s.bridgeMsg .E).bridgeMsg .W

theorem exchanged_reports (s : State) : Reports s s.exchanged := ((Reports.refl s).bridgeMsg .E).bridgeMsg .W

theorem rd_exchanged (s : State) (f : Fld) (ix : List Nat) (hr : reported f ix = false) : s.exchanged.rd f ix = s.rd f ix :=
  (exchanged_reports s).rd f ix hr

section
variable {s : State} {a b : Half} (hb : s.bridgeUp = true) (hu : s.unresolved = true) (hab : b = a.other)
include hb hu hab

/-- The owner that the half with the higher term names becomes the owner of both (R398). -/
theorem doTermExchange_of_lt (ht : s.rd .RAS_OWN_STAT_term [b.n] < s.rd .RAS_OWN_STAT_term [a.n]) :
    doTermExchange s = s.exchanged.resolve (Half.of (s.rd .RAS_OWN_STAT_owner [a.n])) (s.rd .RAS_OWN_STAT_term [a.n]) := by
  subst hab
  unfold doTermExchange
  rw [if_neg (by simp [hb, hu]), ← rd_exchanged s .RAS_OWN_STAT_owner [a.n] rfl, ← rd_exchanged s .RAS_OWN_STAT_term [a.n] rfl]
  rw [← rd_exchanged s .RAS_OWN_STAT_term [a.n] rfl, ← rd_exchanged s .RAS_OWN_STAT_term [a.other.n] rfl] at ht
  cases a with
  | E => exact if_pos ht
  | W => exact (if_neg (Nat.lt_asymm ht)).trans (if_pos ht)

/-- Equal terms of different owners are a conflict (R398). -/
theorem doTermExchange_of_conflict (ht : s.rd .RAS_OWN_STAT_term [b.n] = s.rd .RAS_OWN_STAT_term [a.n])
    (ho : s.rd .RAS_OWN_STAT_owner [a.n] ≠ s.rd .RAS_OWN_STAT_owner [b.n]) :
    doTermExchange s = (s.exchanged.sts [(.RAS_OWN_STAT_conflict, [0], 1), (.RAS_OWN_STAT_conflict, [1], 1)]).raise 0x0113 2
      [(4, 4, s.rd .RAS_OWN_STAT_term [0])] := by
  have terms : s.exchanged.rd .RAS_OWN_STAT_term [0] = s.exchanged.rd .RAS_OWN_STAT_term [1] := by
    rw [rd_exchanged _ _ _ rfl, rd_exchanged _ _ _ rfl]
    subst hab
    cases a with
    | E => exact ht.symm
    | W => exact ht
  have owners : s.exchanged.rd .RAS_OWN_STAT_owner [0] ≠ s.exchanged.rd .RAS_OWN_STAT_owner [1] := by
    rw [rd_exchanged _ _ _ rfl, rd_exchanged _ _ _ rfl]
    subst hab
    cases a with
    | E => exact ho
    | W => exact ho.symm
  unfold doTermExchange
  rw [if_neg (by simp [hb, hu]), ← rd_exchanged s .RAS_OWN_STAT_term [0] rfl]
  exact (if_neg terms.not_gt).trans ((if_neg terms.not_lt).trans (if_pos owners))

theorem termExchange_resolves (ht : s.rd .RAS_OWN_STAT_term [b.n] < s.rd .RAS_OWN_STAT_term [a.n]) (hterm : s.rd .RAS_OWN_STAT_term [a.n] < 2 ^ 32)
    (ho : s.rd .RAS_OWN_STAT_owner [a.n] < 2) :
    ∃ t ev, exec .termExchange s = .next t ∧ t.own (Half.of (s.rd .RAS_OWN_STAT_owner [a.n])) = 0
      ∧ t.own (Half.of (s.rd .RAS_OWN_STAT_owner [a.n])).other = 1
      ∧ (∀ h : Half, t.rd .RAS_OWN_STAT_term [h.n] = s.rd .RAS_OWN_STAT_term [a.n] ∧ t.rd .RAS_OWN_STAT_owner [h.n] = s.rd .RAS_OWN_STAT_owner [a.n])
      ∧ t.ras.deferred = [] ∧ ev ∈ t.host.events ∧ ev.code = 0x0112 := by
  obtain ⟨ev, spec⟩ := resolve_spec s.exchanged (Half.of (s.rd .RAS_OWN_STAT_owner [a.n])) hterm
  have named : (Half.of (s.rd .RAS_OWN_STAT_owner [a.n])).n = s.rd .RAS_OWN_STAT_owner [a.n] := by
    generalize s.rd .RAS_OWN_STAT_owner [a.n] = o at ho
    interval_cases o <;> rfl
  rw [named] at spec
  refine ⟨_, ev, congrArg done (doTermExchange_of_lt hb hu hab ht), ?_⟩
  simpa only [own_settle, rd_settle, settle_ras, settle_host] using spec

theorem termExchange_conflicts (ht : s.rd .RAS_OWN_STAT_term [b.n] = s.rd .RAS_OWN_STAT_term [a.n])
    (ho : s.rd .RAS_OWN_STAT_owner [a.n] ≠ s.rd .RAS_OWN_STAT_owner [b.n]) :
    ∃ t pre ev, exec .termExchange s = .next t ∧ (∀ h : Half, t.rd .RAS_OWN_STAT_conflict [h.n] = 1 ∧ t.own h = s.own h)
      ∧ t.host.events = s.host.events ++ pre ++ [ev] ∧ ev.code = 0x0113 ∧ partsBut [] s t ∧ fieldsBut [.RAS_OWN_STAT_conflict] s t := by
  have run := doTermExchange_of_conflict hb hu hab ht ho
  have sent := exchanged_reports s
  generalize s.exchanged = u at run sent
  have set : Within [] [.RAS_OWN_STAT_conflict] s (u.sts [(.RAS_OWN_STAT_conflict, [0], 1), (.RAS_OWN_STAT_conflict, [1], 1)]) :=
    ((Within.refl _ _ s).report sent).sts _ (by simp)
  have flags : ∀ h : Half, (u.sts [(.RAS_OWN_STAT_conflict, [0], 1), (.RAS_OWN_STAT_conflict, [1], 1)]).rd .RAS_OWN_STAT_conflict [h.n] = 1 := fun h => by
    cases h <;> simp [State.sts, rd_st, Half.n] <;> decide
  have after := (set.raise 0x0113 2 [(4, 4, s.rd .RAS_OWN_STAT_term [0])]).settle
  obtain ⟨pre, hpre⟩ := sent.events
  refine ⟨_, pre, ⟨0x0113, 2, record 32 [(4, 4, s.rd .RAS_OWN_STAT_term [0])]⟩, congrArg done run, fun h => ⟨?_, after.rd _ _⟩, ?_, rfl, after.parts, after.fields⟩
  · rw [rd_settle, rd_raise _ _ _ _ _ rfl, flags]
  · rw [settle_host, raise_events, hpre]
    rfl

end

/-! ## Mirrored writes (R43, R398, R473) -/

/-- A write that one target alone is owed leaves the queue once it has reached it. -/
theorem mirrorPop_of_last {target : Nat} {ws : List (Fld × List Nat × Nat)} {q : List (List (Fld × List Nat × Nat) × List Nat)}
    (hq : q.find? (fun q => q.2.contains target) = some (ws, [target])) : mirrorPop target q = q.erase (ws, [target]) := by
  induction q with
  | nil => simp at hq
  | cons e q ih =>
    unfold mirrorPop
    by_cases he : e.2.contains target = true
    · rw [List.find?_cons_of_pos (p := fun q : List (Fld × List Nat × Nat) × List Nat => q.2.contains target) he] at hq
      have found := Option.some.inj hq
      simp [found]
    · have other : e ≠ (ws, [target]) := fun h => he (by simp [h])
      rw [List.find?_cons_of_neg (p := fun q : List (Fld × List Nat × Nat) × List Nat => q.2.contains target) he] at hq
      rw [if_neg he, ih hq, List.erase_cons_tail (by simpa using other)]

/-- What a target of a mirrored write stands for: a pipe or unit, or a half (R43, R473). -/
def mirrorInst (target : Nat) : Nat := if target < 33 then target else target - 33

/-- A write reaches a target, to which it is no longer owed. -/
def State.mirrorTo (s : State) (target : Nat) (w : Fld × List Nat × Nat) : State :=
  let s := s.st w.1 (mirrorInst target :: w.2.1.drop 1) w.2.2
  { s with ras := { s.ras with mirrorQ := mirrorPop target s.ras.mirrorQ } }

theorem rd_mirrorTo (s : State) (target : Nat) (w : Fld × List Nat × Nat) (ix : List Nat) :
    (s.mirrorTo target w).rd w.1 ix = if ix = mirrorInst target :: w.2.1.drop 1 then w.2.2 % 2 ^ w.1.info.w else s.rd w.1 ix := by
  refine (rd_st s w.1 w.1 (mirrorInst target :: w.2.1.drop 1) ix w.2.2).trans ?_
  simp

theorem Within.mirrorTo (s : State) (target : Nat) (w : Fld × List Nat × Nat) : Within [.ras] [w.1] s (s.mirrorTo target w) :=
  ((Within.refl _ _ s).st _ _ (by simp)).set_ras _

/-- The oldest write owed to a target reaches it and no other place (R43, R473, log entry 14). -/
theorem mirroredWrite_reaches (s : State) (target : Nat) (w : Fld × List Nat × Nat) (ts : List Nat)
    (hq : s.ras.mirrorQ.find? (fun q => q.2.contains target) = some ([w], ts)) (ht : target < 33 ∨ s.bridgeUp = true) (hw : w.1 ∉ reportFlds) :
    ∃ t, exec (.mirroredWrite target) s = .next t
      ∧ t.rd w.1 (mirrorInst target :: w.2.1.drop 1) = w.2.2 % 2 ^ w.1.info.w
      ∧ (∀ ix, ix ≠ mirrorInst target :: w.2.1.drop 1 → t.rd w.1 ix = s.rd w.1 ix)
      ∧ (ts = [target] → t.ras.mirrorQ = s.ras.mirrorQ.erase ([w], ts)) ∧ partsBut [.ras] s t ∧ fieldsBut [w.1] s t := by
  have run : doMirroredWrite target s = if 33 ≤ target then (s.mirrorTo target w).bridgeMsg (Half.of (34 - target)) else s.mirrorTo target w := by
    unfold doMirroredWrite
    rw [hq]
    exact if_neg (by rcases ht with ht | ht <;> simp [ht])
  have told : Reports (s.mirrorTo target w) (doMirroredWrite target s) := run ▸ .ite _ ((Reports.refl _).bridgeMsg _) (.refl _)
  have quiet : Signals (s.mirrorTo target w) (doMirroredWrite target s) := run ▸ .ite _ ((Signals.refl _).bridgeMsg _) (.refl _)
  have after := ((Within.mirrorTo s target w).report told).settle
  refine ⟨_, rfl, ?_, fun ix hix => ?_, fun hts => ?_, after.parts, after.fields⟩
  · rw [rd_settle, quiet.rd _ _ hw, rd_mirrorTo, if_pos rfl]
  · rw [rd_settle, quiet.rd _ _ hw, rd_mirrorTo, if_neg hix]
  · subst hts
    rw [settle_ras, told.ras]
    exact mirrorPop_of_last hq

/-! ## The bridge returns (R401) -/

/-- The fields that a request at an interrupt line changes beside those of reports (R306). -/
def irqFlds : List Fld := [.CLV_ENG_STAT_irq_pend, .CLV_ENG_STAT_irq_ovr, .CLV_CNT_v]

theorem Within.irqAll (s : State) (h : Half) (line : Nat) : Within [] irqFlds s (s.irqAll h line) := by
  refine .foldl (fun t e => ?_) _ s
  unfold State.irq
  exact .ite _ ((((refl _ _ t).st _ _).bump _ _).report ((Reports.refl _).xingLost ..)) ((refl _ _ t).st _ _)

/-- Fields set in both halves. -/
def State.inBoth (s : State) (ws : Half → List (Fld × List Nat × Nat)) : State := halves.foldl (fun (s : State) h => s.sts (ws h)) s

theorem Within.inBoth {fs : List Fld} (s : State) (ws : Half → List (Fld × List Nat × Nat)) (hf : ∀ h, ∀ w ∈ ws h, w.1 ∈ fs) : Within [] fs s (s.inBoth ws) :=
  .foldl (fun t h => (Within.refl _ _ t).sts _ (hf h)) _ s

/-- An event of the bridge, raised in both halves with the number of working links (R401). -/
def State.bridgeSay (s : State) (code : Nat) (n : State → Nat) : State := halves.foldl (fun (s : State) h => s.raise code h.n [(0, 1, n s)]) s

theorem bridgeSay_reports (s : State) (code : Nat) (n : State → Nat) : Reports s (s.bridgeSay code n) :=
  .foldl (fun t _ => (Reports.refl t).raise ..) _ s

/-- Both FDB copies and West's time are to be resynchronised (R122, R185). -/
def State.resyncBoth (s : State) : State := ({ s with fdb := { s.fdb with resync := [.E, .W] } }).timeBridgeRestored

/-- The fields of both halves once the bridge is back (R401). -/
def State.showBack (s : State) : State :=
  s.inBoth fun h => [(.RAS_OWN_STAT_bridge_up, [h.n], 1), (.RAS_LINK_STAT_lost, [h.n], 0), (.FDB_STAT_resync, [h.n], 1)]

theorem Within.resyncBoth {fs : List Fld} (s : State) : Within [.fdb, .time] fs s s.resyncBoth :=
  ⟨partsBut_set_time (partsBut_set_fdb (partsBut_refl _ s) (by decide) _) (by decide) _, fieldsBut_refl fs s⟩

theorem resyncDue_resyncBoth (s : State) : s.resyncBoth.time.resyncDue = some (nextMultiple 1024 s.elapsed) := rfl

theorem bridgeBack_eq (s : State) :
    s.bridgeBack = (((s.showBack.bridgeSay 0x0115 State.bridgeLinks).resyncBoth).irqAll .E 0).irqAll .W 0 := by
  unfold State.bridgeBack State.showBack State.inBoth State.bridgeSay State.resyncBoth
  dsimp only

theorem Within.showBack (s : State) : Within [] [.RAS_OWN_STAT_bridge_up, .RAS_LINK_STAT_lost, .FDB_STAT_resync] s s.showBack :=
  .inBoth s _ (by simp)

theorem rd_showBack (s : State) (h : Half) :
    s.showBack.rd .RAS_OWN_STAT_bridge_up [h.n] = 1 ∧ s.showBack.rd .RAS_LINK_STAT_lost [h.n] = 0 ∧ s.showBack.rd .FDB_STAT_resync [h.n] = 1 := by
  cases h <;> simp [State.showBack, State.inBoth, halves, State.sts, rd_st, Half.n] <;> decide

/-- The bridge returns with enough links (R401). -/
theorem bridgeRestored_resyncs (s : State) (hb : s.bridgeUp = false) (hl : s.minLinks ≤ s.bridgeLinks) (hr : s.pkg.resetEnded = true) :
    ∃ t, exec .bridgeRestored s = .next t ∧ t.bridgeUp = true
      ∧ (∀ h : Half, t.rd .RAS_LINK_STAT_lost [h.n] = 0 ∧ t.rd .FDB_STAT_resync [h.n] = 1 ∧ t.own h = s.own h)
      ∧ t.fdb.resync = [.E, .W] ∧ t.time.resyncDue = some (nextMultiple 1024 s.time.elapsed) ∧ partsBut [.fdb, .time] s t
      ∧ fieldsBut [.RAS_OWN_STAT_bridge_up, .RAS_LINK_STAT_lost, .FDB_STAT_resync, .CLV_ENG_STAT_irq_pend, .CLV_ENG_STAT_irq_ovr, .CLV_CNT_v,
          .RAS_XSTAT_ovr, .RAS_CNT_v] s t := by
  have run : doBridgeRestored s = s.bridgeBack := if_neg (by simp [hb, hr]; omega)
  have said := bridgeSay_reports s.showBack 0x0115 State.bridgeLinks
  rw [bridgeBack_eq] at run
  generalize s.showBack.bridgeSay 0x0115 State.bridgeLinks = u at said run
  have hear : Within [] irqFlds u.resyncBoth ((u.resyncBoth.irqAll .E 0).irqAll .W 0) := (Within.irqAll _ .E 0).trans (.irqAll _ .W 0)
  have reads : ∀ f ix, f ∉ irqFlds → reported f ix = false → (settle ((u.resyncBoth.irqAll .E 0).irqAll .W 0)).rd f ix = s.showBack.rd f ix :=
    fun f ix hf hr => (hear.fields f ix hf hr).trans (said.rd f ix hr)
  have shown : Within [.fdb, .time] [.RAS_OWN_STAT_bridge_up, .RAS_LINK_STAT_lost, .FDB_STAT_resync, .CLV_ENG_STAT_irq_pend, .CLV_ENG_STAT_irq_ovr,
      .CLV_CNT_v, .RAS_XSTAT_ovr, .RAS_CNT_v] s u := (Within.showBack s).mono.report said
  have after := ((shown.trans (.resyncBoth u)).andThen hear).settle
  refine ⟨_, congrArg done run, ?_, fun h => ⟨?_, ?_, ?_⟩, congrArg Fdb.resync (hear.parts .fdb (by decide)), ?_, after.parts, after.fields⟩
  · unfold State.bridgeUp State.on
    rw [reads _ _ (by decide) rfl, show [0] = [Half.E.n] from rfl, (rd_showBack s .E).1]
    rfl
  · rw [reads _ _ (by decide) rfl, (rd_showBack s h).2.1]
  · rw [reads _ _ (by decide) rfl, (rd_showBack s h).2.2]
  · exact (reads _ _ (by decide) rfl).trans ((Within.showBack s).rd _ _)
  · have time : (settle ((u.resyncBoth.irqAll .E 0).irqAll .W 0)).time = u.resyncBoth.time := hear.parts .time (by decide)
    have same : u.time = s.time := said.time.trans ((Within.showBack s).parts .time (by decide))
    rw [time, resyncDue_resyncBoth, State.elapsed, same]

end Sys2Proof.Machine

namespace Sys2Proof.Machine

/-! ## What a loss of the bridge changes -/

/-- The fields that change as what the bridge carried is given up: none of them says who owns the device or that the bridge is lost (R401). -/
def cutFlds : List Fld :=
  [.FDB_CNT_v, .FDB_OCC_ovf_used, .FDB_OCC_bucket_used, .FDB_SLICE_USE_used, .FDB_STAT_resync, .HAM_CNT_v, .TIM_STAT_lockstep_lost,
   .CLV_PATCH_CTL_state, .RAS_OWN_STAT_mirror_split, .GLB_LINK_STAT_state] ++ eccFlds ++ dropFlds ++ Within.freeFlds

/-- The parts that change behind the buffer as what the bridge carried is given up. -/
def cutParts : List Part := [.fresh, .tables, .time, .clove, .ras]

namespace Within

theorem fdbCount (s : State) (h : Half) (place : List Nat) (e : Option FdbEnt) (up : Bool) : Within [.fdb, .ras] cutFlds s (s.fdbCount h place e up) := by
  cases e with
  | none => exact refl ..
  | some x =>
    have counted : (if place.head? = some ovfBucket then Fld.FDB_OCC_ovf_used else .FDB_OCC_bucket_used) ∈ cutFlds := by split <;> decide
    unfold State.fdbCount
    exact .ite _ (((refl _ _ s).bump _ _ counted).bump _ _) (((refl _ _ s).lower _ _ counted).lower _ _)

theorem fdbPut (s : State) (h : Half) (place : List Nat) (e : Option FdbEnt) : Within [.fdb, .ras] cutFlds s (s.fdbPut h place e) := by
  have counted := ((fdbCount s h place (s.fdbAt h place) false).trans (fdbCount _ h place e true))
  have clear := counted.set_ras ((((s.fdbCount h place (s.fdbAt h place) false).fdbCount h place e true).eccClearAt h 2 0 place).ras)
  cases e with
  | none => exact clear.set_fdb _
  | some x => exact clear.set_fdb _

theorem fdbBoth (s : State) (o : Half) (place : List Nat) (e : Option FdbEnt) (ev : PmcEv) : Within [.fdb, .ras] cutFlds s (s.fdbBoth o place e ev) := by
  have own : Within [.fdb, .ras] cutFlds s ((s.fdbPut o place e).dma o ev 2 place 1) := (fdbPut s o place e).andThen (dma ..)
  exact .ite _ ((own.trans (fdbPut ..)).report ((Reports.refl _).bridgeMsg o)) own

theorem fdbMoveIn (s : State) (o : Half) (b : Nat) (ev : PmcEv) : Within [.fdb, .ras] cutFlds s (s.fdbMoveIn o b ev) := by
  refine .foldl (fun t w => .ite _ (refl ..) ?_) _ s
  have read := (fdbScan t o ((t.fdbOvfOf o b).map (fun e => [ovfBucket, e.1])) ev).mono (ps := [.fdb, .ras]) (fs := cutFlds)
  generalize t.fdbScan o ((t.fdbOvfOf o b).map (fun e => [ovfBucket, e.1])) ev = r at read ⊢
  dsimp only
  split
  · exact (read.trans (fdbBoth ..)).trans (fdbBoth ..)
  · exact read

theorem lockAlias (s : State) (b r n : Nat) (fn : Option Nat) : Within [.fdb, .ras] cutFlds s (s.lockAlias b r n fn) := ((refl _ _ s).bump _ _).pmc ..

theorem setLock (s : State) (b : Nat) (l : Option Lock) (r : Nat) (fn : Option Nat) : Within [.fdb, .ras] cutFlds s (s.setLock b l r fn) :=
  ((refl _ _ s).set_fdb _).trans (lockAlias ..)

theorem portDelBucket (s : State) (o : Half) (b port : Nat) : Within [.fdb, .ras] cutFlds s (s.portDelBucket o b port) := by
  unfold State.portDelBucket
  extract_lets ev r t ps
  have read : Within [.fdb, .ras] cutFlds s t := (fdbScan ..).mono
  have freed : Within [.fdb, .ras] cutFlds s (ps.foldl (fun s p => s.fdbBoth o p none ev) t) := read.trans (.foldl (fun u p => fdbBoth u o p none ev) ps t)
  exact .ite _ read (((freed.trans (fdbMoveIn ..)).trans (lockAlias ..)).bump _ _)

theorem portDelRun (s : State) : Within [.fdb, .ras] cutFlds s s.portDelRun := by
  unfold State.portDelRun
  extract_lets due src t
  have left : Within [.fdb, .ras] cutFlds s t := (refl _ _ s).set_fdb t.fdb
  have each : ∀ (u : State) (d : Half × Nat × Nat), Within [.fdb, .ras] cutFlds u (u.portDelBucket d.1 d.2.1 d.2.2) := fun u d => portDelBucket u d.1 d.2.1 d.2.2
  exact left.trans (.foldl each due t)

theorem fdbBridgeLost (s : State) : Within [.fdb, .ras] cutFlds s s.fdbBridgeLost := by
  unfold State.fdbBridgeLost
  extract_lets s1 ce src s2 s3
  have counted : Within [.fdb, .ras] cutFlds s s1 := .foldl (fun t e => (refl _ _ t).bump _ _) _ s
  have dropped : Within [.fdb, .ras] cutFlds s s2 := counted.set_fdb _
  have freed : Within [.fdb, .ras] cutFlds s s3 := dropped.trans (.foldl (fun t b => setLock t b none 4 none) _ _)
  exact ((freed.st _ _).st _ _).trans (portDelRun _)

end Within

/-- The parts that change as the buffer gives up what is on the bridge (R132, R139). -/
def bufCutParts : List Part := .buf :: .lanes :: dropParts

/-- The evaluation of a group's state table sends nothing over the bridge. -/
theorem bridge_pgEval (s : State) (h : Half) (j g : Nat) : (s.pgEval h j g).buf.grants = s.buf.grants ∧ (s.pgEval h j g).buf.notices = s.buf.notices := by
  have kept : ∀ t : State, t = s.pgEval h j g → t.buf.grants = s.buf.grants ∧ t.buf.notices = s.buf.notices := by
    unfold State.pgEval
    extract_lets l x s1 s2 src s3 s4
    intro t ht
    split at ht
    · exact ht ▸ ⟨rfl, rfl⟩
    · split at ht <;> split at ht <;> exact ht ▸ ⟨rfl, rfl⟩
  exact kept _ rfl

/-- A frame on the bridge is lost with it: its cells are freed, and it is counted and dropped (R132). -/
theorem Within.lostFrame (s : State) (f : Frame) :
    Within bufCutParts cutFlds s
      ((((if f.loc = .request then s else s.bufFree (if f.remote then { f with pg := none } else f) false)).bump .BUF_CNT_v [f.ingress.n, 0] 1).dropFr
        f.ingress 0x0A { f with queue := if f.loc = .request then 0x3FFF else f.queue }) := by
  have freed : Within bufCutParts cutFlds s (if f.loc = .request then s else s.bufFree (if f.remote then { f with pg := none } else f) false) :=
    .ite _ (.refl ..) (Within.bufFree ..).mono
  exact (freed.bump _ _).andThen (.dropFr ..)

/-- The buffer gives up what is on the bridge: no grant and no notice is left (R132, R139). -/
theorem bufBridgeLost_spec (s : State) :
    Within bufCutParts cutFlds s s.bufBridgeLost ∧ s.bufBridgeLost.buf.grants = [] ∧ s.bufBridgeLost.buf.notices = [] := by
  unfold State.bufBridgeLost
  extract_lets cut s1 gone owed src s2 remote held s3 s4 s5 s6
  have lost : Within bufCutParts cutFlds s s1 := .foldl Within.lostFrame cut s
  have emptied : Within bufCutParts cutFlds s s2 := lost.set_buf s2.buf
  have headroom : Within [] cutFlds s2 s3 := .foldl (fun t m => (Within.refl _ _ t).lower _ _) held s2
  have uncharged : Within [] cutFlds s3 s4 := .foldl (fun t r => ((Within.refl _ _ t).lower _ _).st _ _) remote s3
  have refreshed : Within [] cutFlds s4 s5 := ((Within.ipRefresh s4 .E).trans (.ipRefresh _ .W)).mono
  have counted : Within [] cutFlds s2 s5 := (headroom.trans uncharged).trans refreshed
  have judged : Within bufCutParts cutFlds s5 s6 := .foldl (fun t r => (Within.pgEval t (Half.of r.1) r.2.1 r.2.2.1).mono) remote s5
  have quiet : s6.buf.grants = s5.buf.grants ∧ s6.buf.notices = s5.buf.notices :=
    List.foldlRecOn (motive := fun t : State => t.buf.grants = s5.buf.grants ∧ t.buf.notices = s5.buf.notices) remote _ ⟨rfl, rfl⟩
      fun t ⟨hg, hn⟩ r _ => ⟨(bridge_pgEval t _ _ _).1.trans hg, (bridge_pgEval t _ _ _).2.trans hn⟩
  have same : s5.buf = s2.buf := counted.parts .buf (by decide)
  refine ⟨((emptied.andThen counted).trans judged).set_frames _, ?_, ?_⟩
  · exact quiet.1.trans (congrArg Buf.grants same)
  · exact quiet.2.trans (congrArg Buf.notices same)

theorem Within.refBridgeLost (s : State) : Within cutParts cutFlds s s.refBridgeLost := by
  unfold State.refBridgeLost
  refine Within.set_tables (.foldl (fun t m => ?_) _ s) _
  exact ((Within.refl _ _ t).set_ras _).bump _ _

theorem Within.draw (s : State) : Within cutParts cutFlds s s.draw.2 := (Within.refl _ _ s).set_fresh _

theorem Within.set_time {ps : List Part} {fs : List Fld} {s t : State} (h : Within ps fs s t) (x : Time) (hp : Part.time ∈ ps := by decide) :
    Within ps fs s { t with time := x } := ⟨partsBut_set_time h.parts hp x, h.fields⟩

theorem Within.refDrift (s : State) : Within cutParts cutFlds s s.refDrift := by
  unfold State.refDrift
  exact .ite _ ((Within.draw s).set_time _) ((Within.refl _ _ s).set_time _)

theorem Within.timeBridgeLost (s : State) : Within cutParts cutFlds s s.timeBridgeLost := by
  unfold State.timeBridgeLost
  extract_lets src s1
  have off : Within cutParts cutFlds s s1 := (Within.refl _ _ s).set_time _
  refine .ite _ (off.trans (.refDrift s1)) ?_
  exact (((off.trans (.draw s1)).set_time _).st _ _).trans (.refDrift _)

theorem Within.patchBridgeLost (s : State) : Within cutParts cutFlds s s.patchBridgeLost := by
  unfold State.patchBridgeLost
  split
  · exact .refl ..
  · rename_i a _
    extract_lets s1 s2
    have drained : Within cutParts cutFlds s s1 := .foldl (fun t h => .ite _ ((Within.refl _ _ t).st _ _) (.refl ..)) _ s
    have told : Within cutParts cutFlds s s2 := by
      dsimp only [s2]
      split
      · exact drained.completeX ..
      · exact drained
    exact told.set_clove _

theorem Within.mirrorCut (s : State) : Within cutParts cutFlds s s.mirrorCut := by
  unfold State.mirrorCut
  exact Within.set_ras (.foldl (fun t q => (Within.refl _ _ t).st _ _) _ s) _

/-! ## The steps whose PREPARE is lost (R395) -/

theorem Within.stepUnheard (s : State) (t : Step2) : Within cutParts cutFlds s (s.stepUnheard t) := by
  unfold State.stepUnheard
  split
  · exact ((Within.refl _ _ s).completeX ..).set_ras _
  · exact .refl ..

/-- A step whose PREPARE has not arrived has lost it. -/
def Step2.cut (t : Step2) : Prop := t.reached = false → t.lost = true

theorem cut_stepUnheard {s : State} {t : Step2} (hs : ∀ x ∈ s.ras.steps, x.cut) (ht : t.cut) : ∀ x ∈ (s.stepUnheard t).ras.steps, x.cut := by
  unfold State.stepUnheard
  split
  · intro x hx
    have listed : x ∈ s.ras.steps.map (fun x => if x.seq = t.seq then { t with desc := none } else x) := by
      simpa [State.setStep] using (List.mem_filter.1 hx).1
    obtain ⟨y, hy, rfl⟩ := List.mem_map.1 listed
    split
    · exact ht
    · exact hs y hy
  · exact hs

/-- The PREPAREs and claims on the bridge taken off it (R395). -/
def State.prepareCut (s : State) : State :=
  { s with ras := { s.ras with steps := (s.ras.steps.filter (fun (t : Step2) => t.reached || !t.claim)).map (fun (t : Step2) => if t.reached then t else { t with lost := true }) } }

theorem cut_prepareCut (s : State) : ∀ x ∈ s.prepareCut.ras.steps, x.cut := by
  intro x hx
  obtain ⟨y, -, rfl⟩ := List.mem_map.1 hx
  by_cases hy : y.reached = true
  · rw [if_pos hy]
    exact fun hr => absurd hy (by simp [hr])
  · rw [if_neg hy]
    exact fun _ => rfl

theorem stepsCut_eq (s : State) : s.stepsCut =
    (s.prepareCut.ras.steps.filter (fun (t : Step2) => t.doneIn t.own)).foldl (fun (s : State) t => s.stepUnheard t) s.prepareCut := rfl

theorem Within.stepsCut (s : State) : Within cutParts cutFlds s s.stepsCut := by
  rw [stepsCut_eq]
  exact ((Within.refl _ _ s).set_ras _).trans (.foldl (fun t x => .stepUnheard t x) _ _)

theorem cut_stepsCut (s : State) : ∀ x ∈ s.stepsCut.ras.steps, x.cut := by
  rw [stepsCut_eq]
  refine List.foldlRecOn (motive := fun t : State => ∀ x ∈ t.ras.steps, x.cut) _ _ (cut_prepareCut s) fun t ht x hx => ?_
  exact cut_stepUnheard ht (cut_prepareCut s x (List.mem_filter.1 hx).1)

/-! ## The retrains of the bridge that waited (R403) -/

/-- A start of retrains changes, of what is kept for repair and ownership, only the retrains that run or wait. -/
structure Trains (s t : State) : Prop where
  within : Within [.ras] cutFlds s t
  ras : t.ras = { s.ras with train := t.ras.train, queueM := t.ras.queueM }

namespace Trains

variable {s t u : State}

theorem of_within (h : Within [] cutFlds s t) : Trains s t := by
  have same : t.ras = s.ras := h.parts .ras (by decide)
  exact ⟨h.mono, by rw [same]⟩

theorem trans (h : Trains s t) (k : Trains t u) : Trains s u := ⟨h.within.trans k.within, by rw [k.ras, h.ras]⟩

theorem set_train (s : State) (x : List Train) : Trains s { s with ras := { s.ras with train := x } } := ⟨(Within.refl _ _ s).set_ras _, rfl⟩

theorem set_queue (s : State) (x : List Maint) : Trains s { s with ras := { s.ras with queueM := x } } := ⟨(Within.refl _ _ s).set_ras _, rfl⟩

theorem ite (c : Prop) [Decidable c] (h : Trains s t) (k : Trains s u) : Trains s (if c then t else u) := by
  split
  · exact h
  · exact k

theorem foldl {α : Type} {op : State → α → State} (hop : ∀ t a, Trains t (op t a)) (l : List α) (s : State) : Trains s (l.foldl op s) := by
  induction l generalizing s with
  | nil => exact of_within (.refl ..)
  | cons a l ih => exact (hop s a).trans (ih _)

end Trains

theorem Within.setMode_fieldsOnly (s : State) (mode base op : Nat) : Within [] cutFlds s (s.setMode mode base op) := by
  unfold State.setMode
  extract_lets old oldB t
  have moved : Within [] cutFlds s t := (refl _ _ s).sts _ (by simp [cutFlds, eccFlds])
  exact .ite _ moved (moved.raise ..)

theorem Within.maintStart_fieldsOnly (s : State) (op : Nat) : Within [] cutFlds s (s.maintStart op) := .ite _ (.setMode_fieldsOnly ..) ((refl _ _ s).st _ _)

theorem Within.maintEnd (s : State) : Within [] cutFlds s s.maintEnd := .ite _ ((refl _ _ s).st _ _) (.ite _ (.setMode_fieldsOnly ..) ((refl _ _ s).st _ _))

theorem Within.trainEnd (s : State) (r : Train) : Within [] cutFlds s (s.trainEnd r) := by
  unfold State.trainEnd
  extract_lets failed s1 s2
  have told : Within [] cutFlds s s1 := .foldl (fun t h => (refl _ _ t).raise ..) _ s
  have ended : Within [] cutFlds s s2 := .ite _ (told.trans (.maintEnd s1)) told
  split
  · exact ended.completeX ..
  · exact ended

theorem Within.setLink (s : State) (inst link v : Nat) : Within [] cutFlds s (s.setLink inst link v) := .foldl (fun t ix => (refl _ _ t).st ix v) _ s

theorem trainStart_trains (s : State) (inst link : Nat) (desc : Option Hdr) : Trains s (s.trainStart inst link desc) := by
  have begun : Trains s (if s.rd .SYS_MODE_maint_op [0] ≠ 0 then s else s.maintStart 4) := .of_within (.ite _ (.refl ..) (.maintStart_fieldsOnly ..))
  unfold State.trainStart
  dsimp only
  generalize (if s.rd .SYS_MODE_maint_op [0] ≠ 0 then s else s.maintStart 4) = u at begun ⊢
  cases s.trainList inst link with
  | nil => exact begun.trans (.of_within (.trainEnd ..))
  | cons l ls =>
    have listed := begun.trans (.set_train u (u.ras.train ++ [Train.mk inst (l :: ls) desc 0]))
    exact .ite _ listed (listed.trans (.of_within (.setLink ..)))

theorem trainNow_trains (s : State) : Trains s s.trainNow := by
  unfold State.trainNow
  extract_lets ms src s1
  have shown : Trains s s1 := (Trains.set_queue s _).trans (.of_within ((Within.refl _ _ _).st _ _))
  exact .ite _ (.of_within (.refl ..)) (shown.trans (.foldl (fun t m => trainStart_trains t m.inst m.bank m.desc) ms s1))

end Sys2Proof.Machine

namespace Sys2Proof.Machine

/-! ## The bridge is lost (R401) -/

/-- The fields of both halves once the bridge is lost (R401). -/
def State.showLost (s : State) : State := s.inBoth fun h => [(.RAS_OWN_STAT_bridge_up, [h.n], 0), (.RAS_LINK_STAT_lost, [h.n], 1)]

/-- Both halves say that the bridge is lost, and become UNRESOLVED (R394, R401). -/
def State.sayLost (s : State) : State := ((s.showLost.bridgeSay 0x0114 (fun _ => s.bridgeLinks)).ownLost .E 1).ownLost .W 1

/-- What the bridge carried for the FDB and the buffer is given up (R121, R132). -/
def State.trafficCut (s : State) : State := s.fdbBridgeLost.bufBridgeLost

/-- What it carried of releases, time, patch sets, mirrored writes and steps is given up (R185, R310, R395, R396, R398). -/
def State.controlCut (s : State) : State := s.refBridgeLost.timeBridgeLost.patchBridgeLost.mirrorCut.stepsCut

/-- No renewal and no acknowledgement is on the bridge. -/
def State.leaseCut (s : State) : State := { s with ras := { s.ras with renewSent := [], acksSent := 0 } }

/-- The engines hear of it, and waiting retrains of the bridge start (R306, R403). -/
def State.hearLost (s : State) : State := ((s.irqAll .E 0).irqAll .W 0).trainNow

theorem doBridgeLost_of_few {s : State} (hb : s.bridgeUp = true) (hl : s.bridgeLinks < s.minLinks) :
    doBridgeLost s = s.sayLost.trafficCut.controlCut.leaseCut.hearLost := by
  unfold doBridgeLost State.sayLost State.showLost State.inBoth State.bridgeSay State.trafficCut State.controlCut State.leaseCut State.hearLost
  rw [if_neg (by simp [hb]; omega)]

theorem rd_showLost (s : State) (h : Half) : s.showLost.rd .RAS_OWN_STAT_bridge_up [h.n] = 0 ∧ s.showLost.rd .RAS_LINK_STAT_lost [h.n] = 1 := by
  cases h <;> simp [State.showLost, State.inBoth, halves, State.sts, rd_st, Half.n] <;> decide

theorem Within.showLost (s : State) : Within [] [.RAS_OWN_STAT_bridge_up, .RAS_LINK_STAT_lost] s s.showLost := .inBoth s _ (by simp)

/-- The bridge is down in both halves' registers, both halves are UNRESOLVED, and their terms stand (R394, R401). -/
structure Lost (s t : State) : Prop where
  down : ∀ h : Half, t.rd .RAS_OWN_STAT_bridge_up [h.n] = 0
  lost : ∀ h : Half, t.rd .RAS_LINK_STAT_lost [h.n] = 1
  own : ∀ h, t.own h = 2
  term : ∀ h : Half, t.rd .RAS_OWN_STAT_term [h.n] = s.rd .RAS_OWN_STAT_term [h.n]

theorem sayLost_lost (s : State) : Lost s s.sayLost := by
  have said := bridgeSay_reports s.showLost 0x0114 (fun _ => s.bridgeLinks)
  unfold State.sayLost
  generalize s.showLost.bridgeSay 0x0114 (fun _ => s.bridgeLinks) = u at said
  have owners : Within [] [.RAS_OWN_STAT_state] u ((u.ownLost .E 1).ownLost .W 1) := (Within.ownLost u .E 1).trans (.ownLost ..)
  refine ⟨fun h => ?_, fun h => ?_, fun h => ?_, fun h => ?_⟩
  · rw [owners.rd _ _, said.rd _ _ rfl, (rd_showLost s h).1]
  · rw [owners.rd _ _, said.rd _ _ rfl, (rd_showLost s h).2]
  · cases h <;> simp [own_ownLost]
  · rw [owners.rd _ _, said.rd _ _ rfl, (Within.showLost s).rd _ _]

/-- What is given up with the bridge leaves what says that it is lost. -/
theorem Lost.within {s t u : State} {ps : List Part} (h : Lost s t) (k : Within ps cutFlds t u) : Lost s u where
  down x := (k.rd _ _).trans (h.down x)
  lost x := (k.rd _ _).trans (h.lost x)
  own x := (k.rd _ _).trans (h.own x)
  term x := (k.rd _ _).trans (h.term x)

theorem trafficCut_spec (s : State) :
    Within (.fdb :: bufCutParts) cutFlds s s.trafficCut ∧ s.trafficCut.buf.grants = [] ∧ s.trafficCut.buf.notices = [] := by
  obtain ⟨within, sent⟩ := bufBridgeLost_spec s.fdbBridgeLost
  exact ⟨(Within.fdbBridgeLost s).mono.andThen within, sent⟩

theorem Within.controlCut (s : State) : Within cutParts cutFlds s s.controlCut :=
  ((((Within.refBridgeLost s).trans (.timeBridgeLost _)).trans (.patchBridgeLost _)).trans (.mirrorCut _)).trans (.stepsCut _)

theorem cut_controlCut (s : State) : ∀ x ∈ s.controlCut.ras.steps, x.cut := by
  unfold State.controlCut
  exact cut_stepsCut _

/-- The engines and the retrains change nothing else that the loss has set. -/
theorem hearLost_trains (s : State) : Trains s s.hearLost := by
  have heard : Within [] irqFlds s ((s.irqAll .E 0).irqAll .W 0) := (Within.irqAll s .E 0).trans (.irqAll _ .W 0)
  have trains : Trains s ((s.irqAll .E 0).irqAll .W 0) := .of_within heard.mono
  exact trains.trans (trainNow_trains _)

/-- The bridge is lost with too few links: nothing that it carried is left, and no half owns the device (R394, R401). -/
theorem bridgeLost_unresolves (s : State) (hb : s.bridgeUp = true) (hl : s.bridgeLinks < s.minLinks) :
    ∃ t, exec .bridgeLost s = .next t ∧ t.bridgeUp = false
      ∧ (∀ h : Half, t.own h = 2 ∧ t.rd .RAS_LINK_STAT_lost [h.n] = 1 ∧ t.rd .RAS_OWN_STAT_term [h.n] = s.rd .RAS_OWN_STAT_term [h.n])
      ∧ t.ras.renewSent = [] ∧ t.ras.acksSent = 0 ∧ t.buf.grants = [] ∧ t.buf.notices = []
      ∧ (∀ x ∈ t.ras.steps, x.reached = false → x.lost = true) := by
  obtain ⟨traffic, grants, notices⟩ := trafficCut_spec s.sayLost
  have control := Within.controlCut s.sayLost.trafficCut
  have steps : ∀ x ∈ s.sayLost.trafficCut.controlCut.ras.steps, x.cut := cut_controlCut _
  have run := doBridgeLost_of_few hb hl
  have said := ((sayLost_lost s).within traffic).within control
  have kept : s.sayLost.trafficCut.controlCut.buf = s.sayLost.trafficCut.buf := control.parts .buf (by decide)
  generalize s.sayLost.trafficCut.controlCut = u at said kept steps run
  have hear := hearLost_trains u.leaseCut
  have cutLease : Within [.ras] cutFlds u u.leaseCut := (Within.refl _ _ u).set_ras _
  have shown := ((said.within cutLease).within hear.within.settle)
  have buf : (settle u.leaseCut.hearLost).buf = s.sayLost.trafficCut.buf := ((hear.within.parts .buf (by decide)).trans (cutLease.parts .buf (by decide))).trans kept
  have ras : (settle u.leaseCut.hearLost).ras = { u.leaseCut.ras with train := u.leaseCut.hearLost.ras.train, queueM := u.leaseCut.hearLost.ras.queueM } := hear.ras
  refine ⟨_, congrArg done run, ?_, fun h => ⟨shown.own h, shown.lost h, shown.term h⟩, by rw [ras]; rfl, by rw [ras]; rfl, by rw [buf, grants],
    by rw [buf, notices], by rw [ras]; exact steps⟩
  have down := shown.down .E
  unfold State.bridgeUp State.on
  exact decide_eq_false (not_not.2 down)

/-- Settles O50: renewals sent, received, acknowledged and lost; lapses; the exchange of terms; mirrored writes; and the bridge lost and restored. -/
theorem ownershipAndBridge : Obligations.OwnershipAndBridge := by
  unfold Obligations.OwnershipAndBridge
  refine ⟨leaseRenewal_lost, leaseRenewal_sent, ?received, leaseAck_received, leaseLapse_lost, leaseLapse_unresolves, ?exchanged,
    mirroredWrite_reaches, bridgeLost_unresolves, bridgeRestored_resyncs⟩
  case received =>
    intro s h term own q hq hterm _
    exact leaseRenewalRx_yields s h term own q hq hterm
  case exchanged =>
    rintro s a b term hb hu hab rfl hterm
    exact ⟨fun ht ho => termExchange_resolves hb hu hab ht hterm ho, fun ht ho => termExchange_conflicts hb hu hab ht ho⟩

end Sys2Proof.Machine

/-!
SUPPORT. The match-action tables, the slices' generations and the pipeline programs. Each part below ends with the statement that it settles.
-/

namespace Sys2Proof.Machine

/-! ## The generation window -/

/-- The low byte of a generation, counted from the low byte of the oldest live one (R82). -/
def lowByte (o x : Nat) : Nat := (x % 256 + 256 - o % 256) % 256

theorem lowByte_of_le {x o : Nat} (h : o ≤ x) (hx : x < o + 256) : lowByte o x = x - o := by
  unfold lowByte
  omega

/-- An end below the oldest live generation is garbage (R82). -/
theorem lowByte_of_pred (x : Nat) : lowByte (x + 1) x = 255 := by
  unfold lowByte
  omega

theorem lowByte_mod (o x : Nat) : lowByte (o % 65536) x = lowByte o x := by
  unfold lowByte
  rw [Nat.mod_mod_of_dvd o (by decide)]

theorem lowByte_of_mod {n : Nat} (hn : 256 ∣ n) (o x : Nat) : lowByte o (x % n) = lowByte o x := by
  unfold lowByte
  rw [Nat.mod_mod_of_dvd x hn]

/-- R82's test, as its branches on `open` and on the garbage test give it. -/
theorem windowHolds_iff (e : Ent) (o g : Nat) :
    windowHolds e o g = true ↔ (if e.settled = true then 0 else lowByte o e.genLo) ≤ lowByte o g
      ∧ (e.opn = true ∨ (lowByte o e.genHi < 128 ∧ lowByte o g ≤ lowByte o e.genHi)) := by
  unfold windowHolds lowByte
  cases e.opn
  · simp only [Bool.false_eq_true, if_false, Bool.and_eq_true, decide_eq_true_eq, false_or]
    exact ⟨fun ⟨⟨h128, hlo⟩, hhi⟩ => ⟨hlo, h128, hhi⟩, fun ⟨hlo, h128, hhi⟩ => ⟨⟨h128, hlo⟩, hhi⟩⟩
  · simp

theorem admits_iff (s : State) (h : Half) (f : Frame) (m : Config.TableMap) (e : Ent) :
    s.admits h f m e = true ↔ e.table = m.id ∧ e.slice = f.slice ∧ windowHolds e (s.rd .SLC_GEN_oldest_live [h.n, f.slice]) f.gen = true := by
  simp [State.admits, and_assoc]

/-- The test is exact across wrap: within the at most four live generations the low bytes, counted from O, keep the order of the generations (R82). -/
theorem windowHolds_exact (e : Ent) (o g lo hi : Nat) (hog : o ≤ g) (hg : g ≤ o + 3) (hs : e.settled = true → lo ≤ o) (hn : e.settled = false → o ≤ lo)
    (hlo : lo ≤ o + 4) (ho : o ≤ hi + 1) (hhi : hi ≤ o + 4) (elo : e.genLo = lo % 256) (ehi : e.genHi = hi % 256) :
    windowHolds e (o % 65536) (g % 65536) = true ↔ lo ≤ g ∧ (e.opn = true ∨ g ≤ hi) := by
  have gen : lowByte (o % 65536) (g % 65536) = g - o := by rw [lowByte_mod, lowByte_of_mod (by decide), lowByte_of_le hog (by omega)]
  have start : (if e.settled = true then 0 else lowByte (o % 65536) e.genLo) = lo - o := by
    rw [elo, lowByte_mod, lowByte_of_mod (by decide)]
    cases k : e.settled
    · exact lowByte_of_le (hn k) (by omega)
    · exact (Nat.sub_eq_zero_of_le (hs k)).symm
  have stop : (lowByte (o % 65536) e.genHi < 128 ∧ g - o ≤ lowByte (o % 65536) e.genHi) ↔ g ≤ hi := by
    rw [ehi, lowByte_mod, lowByte_of_mod (by decide)]
    rcases Nat.lt_or_ge hi o with below | live
    · obtain rfl : o = hi + 1 := by omega
      rw [lowByte_of_pred]
      omega
    · rw [lowByte_of_le live (by omega)]
      omega
  rw [windowHolds_iff, gen, start, stop]
  exact and_congr_left' (by omega)

/-- Settles O19: the lookup's test is R82's, and on at most four live generations that test is the order of the generations. -/
theorem windowTestIsExact : Obligations.WindowTestIsExact := by
  unfold Obligations.WindowTestIsExact
  refine ⟨fun s h f m e r lo hr hlo => ?_, windowHolds_exact⟩
  rw [admits_iff, windowHolds_iff, hlo, hr, hr, hr]
  rfl

end Sys2Proof.Machine

namespace Sys2Proof.Machine

/-! ## Table descriptors: what they leave unchanged -/

/-- An operation that completes a descriptor, and nothing else: the completion, and what the command left unchanged (R337). -/
theorem completed_of_after {s u : State} {d : Hdr} {ps : List Part} {fs : List Fld} (h : Within ps fs s u) (hc : u.host.cpls = s.host.cpls) (st a r : Nat) :
    completed s (settle (u.complete d st a r)) d st a r ∧ partsBut ps s (settle (u.complete d st a r)) ∧ fieldsBut fs s (settle (u.complete d st a r)) := by
  have all := (h.completeX d st a r none).settle
  exact ⟨by simp [completed, hc], all.parts, all.fields⟩

namespace Within

variable {ps : List Part} {fs : List Fld} {s t : State}

theorem tables (h : Within ps fs s t) (hp : Part.tables ∉ ps := by decide) : t.tables = s.tables := h.parts .tables hp
theorem ras (h : Within ps fs s t) (hp : Part.ras ∉ ps := by decide) : t.ras = s.ras := h.parts .ras hp

theorem tblPut (h : Within ps fs s t) (tcam : Bool) (place : List Nat) (e : Option Ent) (hr : Part.ras ∈ ps := by decide)
    (ht : Part.tables ∈ ps := by decide) : Within ps fs s (t.tblPut tcam place e) :=
  ⟨tblPut_parts h.parts hr ht tcam place e, tblPut_fields h.fields tcam place e⟩

theorem usage (h : Within ps fs s t) {f : Fld} (sl n : Nat) (up : Bool) (hf : f ∈ fs := by decide) : Within ps fs s (t.usage f sl n up) :=
  ⟨usage_parts h.parts f sl n up, usage_fields h.fields hf sl n up⟩

theorem setPlog (h : Within ps fs s t) (sl : Nat) (l : List LogW) (ht : Part.tables ∈ ps := by decide) (hf : .SLC_USAGE_log_used ∈ fs := by decide) :
    Within ps fs s (t.setPlog sl l) := ⟨setPlog_parts h.parts ht sl l, setPlog_fields h.fields hf sl l⟩

theorem setDlog (h : Within ps fs s t) (sl : Nat) (l : List LogW) (ht : Part.tables ∈ ps := by decide) : Within ps fs s (t.setDlog sl l) :=
  ⟨setDlog_parts h.parts ht sl l, setDlog_fields h.fields sl l⟩

theorem logWrite (h : Within ps fs s t) (sl : Nat) (w : LogW) (ht : Part.tables ∈ ps := by decide) (hf : .SLC_USAGE_log_used ∈ fs := by decide) :
    Within ps fs s (t.logWrite sl w) := ⟨logWrite_parts h.parts ht sl w, logWrite_fields h.fields hf sl w⟩

/-- A freed entry returns its quota (R79). -/
theorem tblFree (h : Within ps fs s t) (tcam : Bool) (place : List Nat) (hr : Part.ras ∈ ps := by decide) (ht : Part.tables ∈ ps := by decide)
    (he : Fld.SLC_USAGE_em_used ∈ fs := by decide) (hc : Fld.SLC_USAGE_tcam_used ∈ fs := by decide) : Within ps fs s (t.tblFree tcam place) := by
  cases hx : t.tblAt tcam place with
  | none =>
    unfold State.tblFree
    rw [hx]
    exact h
  | some e =>
    rw [tblFree_eq hx]
    refine (h.usage _ _ _ ?_).tblPut tcam place none hr ht
    cases tcam
    · exact he
    · exact hc

end Within

theorem xingBusy_congr {s t : State} (h : t.ras = s.ras) (x : Half) (pair tile : Nat) : t.xingBusy x pair tile = s.xingBusy x pair tile := by
  unfold State.xingBusy State.xingAt
  rw [h]

theorem Within.ringHalf {ps : List Part} {fs : List Fld} {s t : State} (h : Within ps fs s t) (d : Hdr) (hf : Fld.HST_RING_CFG_half ∉ fs := by decide) :
    t.ringHalf d = s.ringHalf d := by
  unfold State.ringHalf
  rw [h.rd _ _ hf]

theorem Within.genG {ps : List Part} {fs : List Fld} {s t : State} (h : Within ps fs s t) (sl : Nat) (hf : Fld.SLC_GEN_cur_gen ∉ fs := by decide) :
    t.genG sl = s.genG sl := by
  unfold State.genG
  rw [h.rd _ _ hf, h.rd _ _ hf]

theorem Within.genP {ps : List Part} {fs : List Fld} {s t : State} (h : Within ps fs s t) (sl : Nat) (hf : Fld.SLC_GEN_cur_gen ∉ fs := by decide) :
    t.genP sl = s.genP sl := by
  unfold State.genP
  rw [h.genG sl hf]

theorem Within.owner {ps : List Part} {fs : List Fld} {s t : State} (h : Within ps fs s t) (hf : Fld.RAS_OWN_STAT_state ∉ fs := by decide) :
    t.owner = s.owner := by
  unfold State.owner State.own
  rw [h.rd _ _ hf]

/-! ## TBL_WRITE up to its kind -/

/-- What a table descriptor has read: the entries that it may address, and the state after the read (R83, R92). -/
def State.tblHits (s : State) (d : Hdr) (m : Config.TableMap) (i key : Nat) : List (List Nat × Ent) × State :=
  if m.kind = 0 then s.emRead d m key else ((s.tcamTarget m d.slice i).toList, s)

/-- The entry that a table descriptor addresses, where its bucket's words have no error (R83). -/
def State.tblHit (s : State) (d : Hdr) (m : Config.TableMap) (i key : Nat) : Option (List Nat × Ent) :=
  if m.kind = 0 then emFirst (s.emHits m d.slice key) else s.tcamTarget m d.slice i

theorem emFirst_toList (x : Option (List Nat × Ent)) : emFirst x.toList = x := by
  cases x with
  | none => rfl
  | some e => cases h : e.2.opn <;> simp [emFirst, h]

theorem emHits_congr {s t : State} (h : t.tables = s.tables) (m : Config.TableMap) (sl key : Nat) : t.emHits m sl key = s.emHits m sl key := by
  unfold State.emHits
  rw [h]

theorem tcamTarget_congr {s t : State} (h : t.tables = s.tables) (m : Config.TableMap) (sl i : Nat) : t.tcamTarget m sl i = s.tcamTarget m sl i := by
  unfold State.tcamTarget
  rw [h]

theorem tblHit_congr {s t : State} (h : t.tables = s.tables) (d : Hdr) (m : Config.TableMap) (i key : Nat) : t.tblHit d m i key = s.tblHit d m i key := by
  unfold State.tblHit
  rw [emHits_congr h, tcamTarget_congr h]

/-- The read of a table descriptor is reported and does nothing else, and finds the entry that it addresses. -/
theorem tblHits_clean {s : State} {m : Config.TableMap} (hp : m.kind = 0 → s.ras.poison = []) (d : Hdr) (i key : Nat) :
    emFirst (s.tblHits d m i key).1 = s.tblHit d m i key ∧ Reports s (s.tblHits d m i key).2 := by
  unfold State.tblHits State.tblHit
  by_cases h : m.kind = 0
  · rw [if_pos h, if_pos h, (emRead_clean (hp h) d m key).1]
    exact ⟨rfl, (emRead_clean (hp h) d m key).2⟩
  · rw [if_neg h, if_neg h]
    exact ⟨emFirst_toList _, .refl s⟩

theorem leNat_lt (bs : List Byte) : leNat bs < 2 ^ (8 * bs.length) := by
  induction bs with
  | nil => decide
  | cons b bs ih =>
    have hb : b.toNat < 256 := b.isLt
    rw [leNat, List.length_cons, Nat.mul_succ, pow_add]
    omega

@[simp] theorem length_slice (bs : List Byte) (off n : Nat) : (slice bs off n).length = n := by
  simp [slice]

theorem le_lt (bs : List Byte) (off n : Nat) : le bs off n < 2 ^ (8 * n) := by
  have h := leNat_lt (slice bs off n)
  rwa [length_slice] at h

theorem getElem_slice (bs : List Byte) {off n i : Nat} (h : i < (slice bs off n).length) : (slice bs off n)[i] = bs.getD (off + i) 0 := by
  simp only [slice, List.getElem_append]
  split
  · rename_i hi
    have inside : off + i < bs.length := by simp at hi; omega
    simp [List.getD_eq_getElem?_getD, inside]
  · rename_i hi
    have outside : bs.length ≤ off + i := by simp at h hi; omega
    simp [List.getD_eq_getElem?_getD, outside]

theorem getD_slice (bs : List Byte) {off n i : Nat} (h : i < n) : (slice bs off n).getD i 0 = bs.getD (off + i) 0 := by
  have hi : i < (slice bs off n).length := by simpa using h
  rw [List.getD_eq_getElem _ _ hi, getElem_slice]

/-- The fields of a host record are those of the buffer that it is read from. -/
theorem slice_slice (bs : List Byte) {off n k : Nat} (h : off + n ≤ k) : slice (slice bs 0 k) off n = slice bs off n := by
  refine List.ext_getElem (by simp) fun i h1 h2 => ?_
  have hi : off + i < k := by simp at h1; omega
  rw [getElem_slice, getElem_slice, getD_slice bs hi, Nat.zero_add]

theorem le_slice (bs : List Byte) {off n k : Nat} (h : off + n ≤ k) : le (slice bs 0 k) off n = le bs off n := by
  unfold le
  rw [slice_slice bs h]

theorem byteAt_slice (bs : List Byte) {i k : Nat} (h : i < k) : byteAt (slice bs 0 k) i = byteAt bs i := by
  unfold byteAt
  rw [getD_slice bs h, Nat.zero_add]

/-- A TBL_WRITE of a kind, with the host record and the entries read (R83). -/
def State.tblWriteKind (s : State) (d : Hdr) (m : Config.TableMap) (kind i : Nat) (hits : List (List Nat × Ent)) (buf : List Byte) : State :=
  match kind with
  | 0 => s.tblAdd d m hits i (le buf 0 20) (le buf 20 20) (le buf 40 8) (byteAt buf 48) (slice buf 0 64)
  | 1 => s.tblClose d (decide (m.kind ≠ 0)) (emFirst hits) (slice buf 0 64)
  | _ => s.tblReplace d (decide (m.kind ≠ 0)) (emFirst hits) (le buf 40 8) (byteAt buf 48) (slice buf 0 64)

theorem tableMap?_congr {s t : State} {fs : List Fld} {ps : List Part} (h : Within ps fs s t) (id : Nat) (hf : Fld.MAT_PROG_CTL_active ∉ fs := by decide)
    (ha : Part.progA ∉ ps := by decide) (hb : Part.progB ∉ ps := by decide) : t.tableMap? id = s.tableMap? id := by
  unfold State.tableMap? State.prog State.active
  rw [h.rd _ _ hf, h.parts .progA ha, h.parts .progB hb]

/-- The checks of R338 and R477 that let a TBL_WRITE reach its kind. -/
structure WriteFits (s : State) (d : Hdr) (id i : Nat) (m : Config.TableMap) (buf : List Byte) : Prop where
  checks : served s d ⟨0x10, .config, true, true, 0⟩ (ownSlice d d.slice) (cleanHdr d true false true)
  table : s.tableMap? id = some m
  index : badIndex m i = false
  long : 64 ≤ d.hlen
  read : d.buf = some buf
  key : m.kind = 0 → le buf 0 20 < 2 ^ m.keyW
  act : byteAt buf 48 ≤ 63

/-- A TBL_WRITE that passes R477 reads, and does what its kind says. -/
theorem exec_tblWrite {s : State} {d : Hdr} {kind id i : Nat} {m : Config.TableMap} {buf : List Byte} (h : WriteFits s d id i m buf)
    (hd : due s (.tblWrite d kind id i)) (hk : kind ≤ 2) :
    exec (.tblWrite d kind id i) s = .next (settle (((s.descRun d).tblHits d m i (le buf 0 20)).2.tblWriteKind d m kind i
      ((s.descRun d).tblHits d m i (le buf 0 20)).1 buf)) := by
  obtain ⟨hs, hm, hi, hl, hb, hkey, hact⟩ := h
  refine (doneDesc_of_served _ (hd d rfl) hs).trans ?_
  have params : ¬ (2 < kind ∨ badIndex m i = true ∨ d.hlen < 64) := by
    simp only [hi, Bool.false_eq_true, false_or]
    omega
  have fits : ¬ ((m.kind = 0 ∧ 2 ^ m.keyW ≤ le buf 0 20) ∨ 63 < byteAt buf 48) := by
    rintro (⟨h0, h⟩ | h)
    · exact absurd (hkey h0) (by omega)
    · omega
  rw [tableMap?_congr (Within.descRun [] [] s d), hm]
  simp only [if_neg params, State.withBuf, hb]
  rw [le_slice buf (off := 0) (by decide), le_slice buf (by decide), le_slice buf (by decide), byteAt_slice buf (by decide), if_neg fits]
  have reads : (if decide (m.kind ≠ 0) = true then (((s.descRun d).tcamTarget m d.slice i).toList, s.descRun d) else (s.descRun d).emRead d m (le buf 0 20))
      = (s.descRun d).tblHits d m i (le buf 0 20) := by
    unfold State.tblHits
    by_cases h0 : m.kind = 0 <;> simp [h0]
  rw [reads]
  rfl

end Sys2Proof.Machine

namespace Sys2Proof.Machine

/-! ## Table words written for a descriptor -/

@[simp] theorem tblPut_em_tcam (s : State) (place : List Nat) (e : Option Ent) : (s.tblPut false place e).tables.tcam = s.tables.tcam := by
  obtain ⟨x, u, hx⟩ := tblPut_eq s false place e
  rw [hx]
  rfl

@[simp] theorem tblPut_tcam_em (s : State) (place : List Nat) (e : Option Ent) : (s.tblPut true place e).tables.em = s.tables.em := by
  obtain ⟨x, u, hx⟩ := tblPut_eq s true place e
  rw [hx]
  rfl

/-- A write of a table word that meets a crossing not acknowledged: it is lost there, and nothing but reports follows (R411, R412). -/
theorem tblStore_busy {s : State} {d : Hdr} (hx : s.xingBusy (s.ringHalf d) 3 0 = true) (tcam : Bool) (place : List Nat) (e : Ent) :
    Reports (s.xingLost (s.ringHalf d) 3) (s.tblStore d tcam place e) := by
  unfold State.tblStore State.tblDma
  rw [tblSend_busy hx]
  exact (Reports.refl _).dma _ _ _ _ _

/-- A write of a table word completes nothing, whether it is done or lost at its crossing (R411). -/
theorem tblStore_cpls (s : State) (d : Hdr) (tcam : Bool) (place : List Nat) (e : Ent) : (s.tblStore d tcam place e).host.cpls = s.host.cpls := by
  cases hx : s.xingBusy (s.ringHalf d) 3 0 with
  | false => rw [(tblStore_free hx tcam place e).cpls, tblPut_host]
  | true => exact (tblStore_busy hx tcam place e).cpls.trans ((Reports.refl s).xingLost ..).cpls

@[simp] theorem tblAt_settle_complete (s : State) (d : Hdr) (st a r : Nat) (c : Bool) (k : List Nat) :
    (settle (s.complete d st a r)).tblAt c k = s.tblAt c k := by simp

@[simp] theorem plog_settle_complete (s : State) (d : Hdr) (st a r sl : Nat) : (settle (s.complete d st a r)).plog sl = s.plog sl := by simp

theorem tblAt_em (s : State) (k : List Nat) : s.tblAt false k = s.tables.em.get? k := rfl
theorem tblAt_tcam (s : State) (k : List Nat) : s.tblAt true k = s.tables.tcam.get? k := rfl

/-- The count of a slice's entries in a kind of table (R79). -/
def usedFld (tcam : Bool) : Fld := if tcam then .SLC_USAGE_tcam_used else .SLC_USAGE_em_used

/-- The entry of an ADD, its tests passed: counted, written and logged (R83, R84). -/
def State.addEnt (s : State) (d : Hdr) (tcam : Bool) (cost : Nat) (place : List Nat) (e : Ent) (bs : List Byte) : State :=
  ((s.usage (usedFld tcam) d.slice cost true).tblStore d tcam place e).logWrite d.slice (LogW.mk 0 tcam place bs)

/-- What an ADD changes, where the crossing of table updates is free: the place, the log and the slice's usage. -/
structure Added (ps : List Part) (s t : State) (sl : Nat) (tcam : Bool) (cost : Nat) (place : List Nat) (e : Ent) (bs : List Byte) : Prop where
  within : Within ps [usedFld tcam, .SLC_USAGE_log_used] s t
  tblAt : ∀ c k, t.tblAt c k = if c = tcam ∧ k = place then some e else s.tblAt c k
  emSame : tcam = true → t.tables.em = s.tables.em
  tcamSame : tcam = false → t.tables.tcam = s.tables.tcam
  plog : t.plog sl = s.plog sl ++ [⟨0, tcam, place, bs⟩]
  used : ∀ h : Half, t.rd (usedFld tcam) [h.n, sl] = (s.rd (usedFld tcam) [h.n, sl] + cost) % 2 ^ (usedFld tcam).info.w

theorem reported_usedFld (tcam : Bool) (ix : List Nat) : reported (usedFld tcam) ix = false := by cases tcam <;> rfl

namespace Added

variable {ps qs : List Part} {s t u : State} {sl cost : Nat} {tcam : Bool} {place : List Nat} {e : Ent} {bs : List Byte}

theorem here (h : Added ps s t sl tcam cost place e bs) : t.tblAt tcam place = some e := by rw [h.tblAt, if_pos ⟨rfl, rfl⟩]

theorem elsewhere (h : Added ps s t sl tcam cost place e bs) {k : List Nat} (hk : k ≠ place) : t.tblAt tcam k = s.tblAt tcam k := by
  rw [h.tblAt, if_neg fun x => hk x.2]

/-- An operation before it that leaves the tables alone does not matter. -/
theorem after (h : Added qs u t sl tcam cost place e bs) (k : Within ps [] s u) (hp : ∀ p ∈ qs, p ∈ ps) (ht : u.tables = s.tables) :
    Added ps s t sl tcam cost place e bs where
  within := (k.mono (by simp) (by simp)).trans (h.within.mono hp (by simp))
  tblAt c x := by rw [h.tblAt, tblAt_congr ht]
  emSame x := ht ▸ h.emSame x
  tcamSame x := ht ▸ h.tcamSame x
  plog := by rw [h.plog, plog_congr (congrArg Tables.plog ht)]
  used x := by rw [h.used, k.rd _ _ (by simp) (reported_usedFld ..)]

/-- Nor does the completion that follows. -/
theorem complete (h : Added ps s t sl tcam cost place e bs) (d : Hdr) (st a r : Nat) : Added ps s (settle (t.complete d st a r)) sl tcam cost place e bs where
  within := (h.within.completeX d st a r none).settle
  tblAt c x := (tblAt_settle_complete ..).trans (h.tblAt c x)
  emSame x := by simpa using h.emSame x
  tcamSame x := by simpa using h.tcamSame x
  plog := (plog_settle_complete ..).trans h.plog
  used x := (rd_completeX t d st a r none (reported_usedFld ..)).trans (h.used x)

end Added

theorem rd_usage_half (s : State) (f : Fld) (sl n : Nat) (h : Half) (up : Bool) :
    (s.usage f sl n up).rd f [h.n, sl] = (if up then s.rd f [h.n, sl] + n else s.rd f [h.n, sl] - n) % 2 ^ f.info.w := by
  rw [rd_usage, if_pos]
  cases h
  · exact ⟨rfl, .inl rfl⟩
  · exact ⟨rfl, .inr rfl⟩

theorem addEnt_added {s : State} {d : Hdr} (hx : s.xingBusy (s.ringHalf d) 3 0 = false) (tcam : Bool) (cost : Nat) (place : List Nat) (e : Ent)
    (bs : List Byte) : Added [.tables, .ras] s (s.addEnt d tcam cost place e bs) d.slice tcam cost place e bs := by
  have counted : Within [] [usedFld tcam] s (s.usage (usedFld tcam) d.slice cost true) := (Within.refl _ _ s).usage _ _ _ (by simp)
  have used := fun h => rd_usage_half s (usedFld tcam) d.slice cost h true
  unfold State.addEnt
  generalize s.usage (usedFld tcam) d.slice cost true = u at counted used ⊢
  have free : u.xingBusy (u.ringHalf d) 3 0 = false := by rw [xingBusy_congr counted.ras, counted.ringHalf d (by cases tcam <;> decide), hx]
  have stored := tblStore_free free tcam place e
  generalize u.tblStore d tcam place e = v at stored ⊢
  have written : Within [.tables, .ras] [usedFld tcam, .SLC_USAGE_log_used] s v :=
    ((counted.mono (by simp) (by simp)).tblPut tcam place (some e)).report stored
  refine ⟨written.logWrite _ _ (hf := by simp), fun c k => ?_, fun h => ?_, fun h => ?_, ?_, fun h => ?_⟩
  · rw [logWrite_tblAt, tblAt_congr stored.tables, tblAt_tblPut, tblAt_congr counted.tables]
  · show v.tables.em = _
    rw [stored.tables, h, tblPut_tcam_em, counted.tables]
  · show v.tables.tcam = _
    rw [stored.tables, h, tblPut_em_tcam, counted.tables]
  · rw [logWrite_plog, plog_congr (congrArg Tables.plog stored.tables), tblPut_plogOf, plog_congr (congrArg Tables.plog counted.tables)]
  · rw [rd_logWrite _ _ _ _ (by cases tcam <;> decide), stored.rd _ _ (reported_usedFld ..), tblPut_rd, used h]
    rfl

theorem addEnt_cpls (s : State) (d : Hdr) (tcam : Bool) (cost : Nat) (place : List Nat) (e : Ent) (bs : List Byte) :
    (s.addEnt d tcam cost place e bs).host.cpls = s.host.cpls := by
  unfold State.addEnt
  rw [logWrite_host, tblStore_cpls, usage_host]

/-- An exact-match ADD that passes its tests puts its entry into the lowest free way (R83, log entry 84). -/
theorem tblAdd_em {s : State} {d : Hdr} {m : Config.TableMap} {hits : List (List Nat × Ent)} {key w : Nat} (hk : m.kind = 0)
    (hlog : (s.plog d.slice).length < 65536) (hq : s.rd .SLC_USAGE_em_used [s.owner.n, d.slice] + 1 ≤ s.rd .SLC_QUOTA_em_quota [s.owner.n, d.slice])
    (hh : ∀ e ∈ hits, e.2.opn = false) (hw : (List.range 4).find? (fun w => (s.tables.em.get? [stageOf m.stage, emBucket m key, w]).isNone) = some w)
    (i mask adata act : Nat) (bs : List Byte) :
    s.tblAdd d m hits i key mask adata act bs = (s.addEnt d false 1 [stageOf m.stage, emBucket m key, w]
      ⟨key, mask, adata, act, d.slice, s.genP d.slice % 256, 0, true, false, m.id, false, 0⟩ bs).complete d 0 0 0 := by
  have hlog' : ¬ 65536 ≤ (s.plog d.slice).length := by omega
  have hq' : ¬ s.rd .SLC_QUOTA_em_quota [s.owner.n, d.slice] < s.rd .SLC_USAGE_em_used [s.owner.n, d.slice] + 1 := by omega
  have hopen : hits.any (fun e => e.2.opn) = false := by simpa using hh
  unfold State.tblAdd
  simp [hk, hlog', hq', hopen, hw]
  rfl

/-- The entry of a TCAM ADD: the record's low halves of key and mask, an open window from P, and what the record does not give is free (R75, R83, log entry 42). -/
structure TcamNew (d : Hdr) (m : Config.TableMap) (p key mask adata act : Nat) (e : Ent) : Prop where
  low : e.key % 2 ^ 160 = key ∧ e.mask % 2 ^ 160 = mask
  narrow : m.kind ≠ 2 → e.key = key ∧ e.mask = mask
  data : e.adata = adata ∧ e.act = act
  slice : e.slice = d.slice
  genLo : e.genLo = p % 256
  opn : e.opn = true
  settled : e.settled = false
  table : e.table = m.id
  wide : e.wide = decide (m.kind = 2)

/-- Free values have been drawn up to a count (log entry 4). -/
def State.drawn (s : State) (n : Nat) : State := { s with fresh := n }

/-- A TCAM ADD that passes its tests puts its entry at the index that it names (R83). -/
theorem tblAdd_tcam {s : State} {d : Hdr} {m : Config.TableMap} {i key mask : Nat} (hk : m.kind ≠ 0) (hlog : (s.plog d.slice).length < 65536)
    (hq : s.rd .SLC_USAGE_tcam_used [s.owner.n, d.slice] + (if m.kind = 2 then 2 else 1) ≤ s.rd .SLC_QUOTA_tcam_quota [s.owner.n, d.slice])
    (hi : s.tcamBusy (stageOf m.stage) i = false) (hn : m.kind = 2 → s.tcamBusy (stageOf m.stage) (i + 1) = false) (hkey : key < 2 ^ 160)
    (hmask : mask < 2 ^ 160) (hits : List (List Nat × Ent)) (adata act : Nat) (bs : List Byte) :
    ∃ n e, TcamNew d m (s.genP d.slice) key mask adata act e ∧ s.tblAdd d m hits i key mask adata act bs
      = ((s.drawn n).addEnt d true (if m.kind = 2 then 2 else 1) [stageOf m.stage, i] e bs).complete d 0 0 0 := by
  have hlog' : ¬ 65536 ≤ (s.plog d.slice).length := by omega
  by_cases h2 : m.kind = 2
  · have hq' : ¬ s.rd .SLC_QUOTA_tcam_quota [s.owner.n, d.slice] < s.rd .SLC_USAGE_tcam_used [s.owner.n, d.slice] + 2 := by
      rw [if_pos h2] at hq
      omega
    have high : ∀ a x : Nat, a < 2 ^ 160 → (a + x % 2 ^ 160 * 2 ^ 160) % 2 ^ 160 = a := fun a x ha => by
      rw [Nat.add_mul_mod_self_right, Nat.mod_eq_of_lt ha]
    refine ⟨s.fresh + 3, ⟨key + Config.freeValue s.fresh % 2 ^ 160 * 2 ^ 160, mask + Config.freeValue (s.fresh + 1) % 2 ^ 160 * 2 ^ 160, adata, act, d.slice,
      s.genP d.slice % 256, 0, true, false, m.id, true, Config.freeValue (s.fresh + 2)⟩,
      ⟨⟨high key _ hkey, high mask _ hmask⟩, (absurd h2 ·), ⟨rfl, rfl⟩, rfl, rfl, rfl, rfl, rfl, by simp [h2]⟩, ?_⟩
    unfold State.tblAdd
    simp [h2, hlog', hq', hi, hn h2, State.draw, b2n]
    rfl
  · have hq' : ¬ s.rd .SLC_QUOTA_tcam_quota [s.owner.n, d.slice] < s.rd .SLC_USAGE_tcam_used [s.owner.n, d.slice] + 1 := by
      rw [if_neg h2] at hq
      omega
    refine ⟨s.fresh, ⟨key, mask, adata, act, d.slice, s.genP d.slice % 256, 0, true, false, m.id, false, 0⟩,
      ⟨⟨Nat.mod_eq_of_lt hkey, Nat.mod_eq_of_lt hmask⟩, fun _ => ⟨rfl, rfl⟩, ⟨rfl, rfl⟩, rfl, rfl, rfl, rfl, rfl, by simp [h2]⟩, ?_⟩
    unfold State.tblAdd
    simp [hk, h2, hlog', hq', hi, b2n]
    rfl

/-- The state in which a TBL_WRITE does its work differs from the first by reports alone. -/
theorem tblHits_ready {s : State} {m : Config.TableMap} (hp : m.kind = 0 → s.ras.poison = []) (d : Hdr) (i key : Nat) :
    emFirst ((s.descRun d).tblHits d m i key).1 = s.tblHit d m i key ∧ Within [] [] s ((s.descRun d).tblHits d m i key).2
      ∧ ((s.descRun d).tblHits d m i key).2.host.cpls = s.host.cpls := by
  have clean : m.kind = 0 → (s.descRun d).ras.poison = [] := fun h => by rw [descRun_ras, hp h]
  obtain ⟨hit, read⟩ := tblHits_clean clean d i key
  exact ⟨hit.trans (tblHit_congr (descRun_tables s d) d m i key), (Within.descRun [] [] s d).report read, read.cpls.trans (descRun_cpls s d)⟩

theorem tblHits_em {s : State} {m : Config.TableMap} (hk : m.kind = 0) (hp : s.ras.poison = []) (d : Hdr) (i key : Nat) :
    ((s.descRun d).tblHits d m i key).1 = s.emHits m d.slice key := by
  unfold State.tblHits
  rw [if_pos hk, (emRead_clean (by rw [descRun_ras, hp]) d m key).1, emHits_congr (descRun_tables s d)]

/-- An ADD that passes its tests, in a state that differs by no table, completes and adds its entry. -/
theorem addEnt_completes {ps : List Part} {s u : State} {d : Hdr} (k : Within ps [] s u) (hp : ∀ p ∈ [Part.tables, .ras], p ∈ ps) (ht : u.tables = s.tables)
    (hr : u.ras = s.ras) (hc : u.host.cpls = s.host.cpls) (hx : s.xingBusy (s.ringHalf d) 3 0 = false) (tcam : Bool) (cost : Nat) (place : List Nat) (e : Ent)
    (bs : List Byte) : completed s (settle ((u.addEnt d tcam cost place e bs).complete d 0 0 0)) d 0 0 0
      ∧ Added ps s (settle ((u.addEnt d tcam cost place e bs).complete d 0 0 0)) d.slice tcam cost place e bs := by
  have free : u.xingBusy (u.ringHalf d) 3 0 = false := by rw [xingBusy_congr hr, k.ringHalf d, hx]
  have added := (addEnt_added free tcam cost place e bs).after k hp ht
  exact ⟨(completed_of_after added.within ((addEnt_cpls ..).trans hc) 0 0 0).1, added.complete d 0 0 0⟩

/-- Settles O3: an ADD into the lowest free way of a bucket that can be read, and into the TCAM index that it names. -/
theorem tableWriteAdd : Obligations.TableWriteAdd := by
  unfold Obligations.TableWriteAdd
  intro s d id i m buf hs hm hi hl hb hact hlog hx
  refine ⟨fun w hk hp hkey hq hopen hw hd => ?em, fun hk hq hbusy hnext hd => ?tcam⟩
  case em =>
    have run := exec_tblWrite ⟨hs, hm, hi, hl, hb, fun _ => hkey, hact⟩ hd (by decide)
    obtain ⟨-, ready, cpls⟩ := tblHits_ready (s := s) (fun _ => hp) d i (le buf 0 20)
    have hits : ((s.descRun d).tblHits d m i (le buf 0 20)).1 = s.emHits m d.slice (le buf 0 20) := tblHits_em hk hp d i _
    generalize (s.descRun d).tblHits d m i (le buf 0 20) = x at run ready cpls hits
    have add := tblAdd_em (s := x.2) (hits := x.1) hk (by rwa [plog_congr (congrArg Tables.plog ready.tables)])
      (by rwa [ready.owner, ready.rd _ _, ready.rd _ _]) (hits ▸ hopen) (by rwa [ready.tables]) i (le buf 20 20) (le buf 40 8) (byteAt buf 48) (slice buf 0 64)
    have wide : Within [.tables, .ras] [] s x.2 := ready.mono (by simp) (by simp)
    obtain ⟨done, added⟩ := addEnt_completes wide (by simp) ready.tables ready.ras cpls hx false 1 _ _ (slice buf 0 64)
    refine ⟨_, run.trans (congrArg (fun v => Host.Outcome.next (settle v)) add), done, ?_, fun k hk => ?_, added.tcamSame rfl, added.plog, added.used, added.within.parts,
      added.within.fields⟩
    · rw [← tblAt_em, added.here, ready.genP]
    · rw [← tblAt_em, added.elsewhere hk, tblAt_em]
  case tcam =>
    have run := exec_tblWrite ⟨hs, hm, hi, hl, hb, fun h => absurd h hk, hact⟩ hd (by decide)
    obtain ⟨-, ready, cpls⟩ := tblHits_ready (s := s) (fun h => absurd h hk) d i (le buf 0 20)
    generalize (s.descRun d).tblHits d m i (le buf 0 20) = x at run ready cpls
    have busy : ∀ j, x.2.tcamBusy (stageOf m.stage) j = s.tcamBusy (stageOf m.stage) j := fun j => by
      unfold State.tcamBusy
      rw [ready.tables]
    obtain ⟨n, e, new, add⟩ := tblAdd_tcam (s := x.2) (i := i) hk (by rwa [plog_congr (congrArg Tables.plog ready.tables)])
      (by rwa [ready.owner, ready.rd _ _, ready.rd _ _]) ((busy i).trans hbusy) (fun h => (busy _).trans (hnext h)) (le_lt buf 0 20) (le_lt buf 20 20)
      x.1 (le buf 40 8) (byteAt buf 48) (slice buf 0 64)
    have drawn : Within [.tables, .ras, .fresh] [] s (x.2.drawn n) := (ready.mono (by simp) (by simp)).set_fresh n
    obtain ⟨done, added⟩ := addEnt_completes drawn (by simp) ready.tables ready.ras cpls hx true (if m.kind = 2 then 2 else 1) [stageOf m.stage, i] e (slice buf 0 64)
    refine ⟨_, e, run.trans (congrArg (fun v => Host.Outcome.next (settle v)) add), done, ?_, new.low.1, new.low.2, new.narrow,
      new.data.1, new.data.2, new.slice, ?_, new.opn, new.settled, new.table, new.wide, fun k hk => ?_, added.emSame rfl, added.plog, added.used,
      added.within.parts, added.within.fields⟩
    · rw [← tblAt_tcam, added.here]
    · rw [new.genLo, ready.genP]
    · rw [← tblAt_tcam, added.elsewhere hk, tblAt_tcam]

end Sys2Proof.Machine

namespace Sys2Proof.Machine

/-! ## CLOSE and REPLACE_NOW -/

theorem Within.tblStore (s : State) (d : Hdr) (tcam : Bool) (place : List Nat) (e : Ent) : Within [.tables, .ras] [] s (s.tblStore d tcam place e) := by
  cases hx : s.xingBusy (s.ringHalf d) 3 0 with
  | false => exact ((refl _ _ s).tblPut tcam place (some e)).report (tblStore_free hx tcam place e)
  | true => exact ((refl _ _ s).report ((Reports.refl s).xingLost ..)).report (tblStore_busy hx tcam place e)

theorem tblAt_tblStore_free {s : State} {d : Hdr} (hx : s.xingBusy (s.ringHalf d) 3 0 = false) (tcam : Bool) (place : List Nat) (e : Ent) (c : Bool)
    (k : List Nat) : (s.tblStore d tcam place e).tblAt c k = if c = tcam ∧ k = place then some e else s.tblAt c k := by
  rw [tblAt_congr (tblStore_free hx tcam place e).tables, tblAt_tblPut]

theorem plog_tblStore_free {s : State} {d : Hdr} (hx : s.xingBusy (s.ringHalf d) 3 0 = false) (tcam : Bool) (place : List Nat) (e : Ent) (sl : Nat) :
    (s.tblStore d tcam place e).plog sl = s.plog sl := by
  rw [plog_congr (congrArg Tables.plog (tblStore_free hx tcam place e).tables), tblPut_plogOf]

/-- An update lost at its crossing leaves the tables as they are (R411, R412). -/
theorem tblAt_tblStore_busy {s : State} {d : Hdr} (hx : s.xingBusy (s.ringHalf d) 3 0 = true) (tcam : Bool) (place : List Nat) (e : Ent) (c : Bool)
    (k : List Nat) : (s.tblStore d tcam place e).tblAt c k = s.tblAt c k :=
  tblAt_congr (((Reports.refl s).xingLost _ _).trans (tblStore_busy hx tcam place e)).tables c k

theorem tblAt_tblFree (s : State) (tcam : Bool) (place : List Nat) (c : Bool) (k : List Nat) :
    (s.tblFree tcam place).tblAt c k = if c = tcam ∧ k = place then none else s.tblAt c k := by
  cases hx : s.tblAt tcam place with
  | none =>
    have same : s.tblFree tcam place = s := by
      unfold State.tblFree
      rw [hx]
    rw [same]
    split
    · rename_i here
      rw [here.1, here.2, hx]
    · rfl
  | some e => rw [tblFree_eq hx, tblAt_tblPut, usage_tblAt]

theorem tblFree_host (s : State) (tcam : Bool) (place : List Nat) : (s.tblFree tcam place).host = s.host := by
  cases hx : s.tblAt tcam place with
  | none =>
    unfold State.tblFree
    rw [hx]
  | some e => rw [tblFree_eq hx, tblPut_host, usage_host]

/-- A log without the last ADD of a place, which a CLOSE of its entry takes back (R83, log entry 16). -/
def logTakeBack (tcam : Bool) (place : List Nat) (l : List LogW) : List LogW :=
  match l.reverse.find? (fun w => w.kind = 0 && w.tcam = tcam && w.place = place) with
  | some w => (l.reverse.erase w).reverse
  | none => l

/-- A CLOSE of an entry that is live at G (R83). -/
def State.closeLive (s : State) (d : Hdr) (tcam : Bool) (place : List Nat) (e : Ent) (bs : List Byte) : State :=
  (s.tblStore d tcam place { e with genHi := s.genG d.slice % 256, opn := false }).logWrite d.slice (LogW.mk 1 tcam place bs)

/-- A CLOSE of an entry added under P (R83). -/
def State.closeAdded (s : State) (d : Hdr) (tcam : Bool) (place : List Nat) : State :=
  (((s.tblSend (s.ringHalf d) (fun s => s.tblFree tcam place)).tblDma d tcam place).setPlog d.slice (logTakeBack tcam place (s.plog d.slice))).setDlog d.slice
    (logTakeBack tcam place (s.dlog d.slice))

theorem tblClose_of_closed (s : State) (d : Hdr) (tcam : Bool) {place : List Nat} {e : Ent} (ho : e.opn = false) (bs : List Byte) :
    s.tblClose d tcam (some (place, e)) bs = s.complete d 1 0x49 0 := if_pos (by simp [ho])

theorem tblClose_of_added {s : State} {d : Hdr} {e : Ent} (ho : e.opn = true) (hg : e.genLo = s.genP d.slice % 256) (hs : e.settled = false) (tcam : Bool)
    (place : List Nat) (bs : List Byte) : s.tblClose d tcam (some (place, e)) bs = (s.closeAdded d tcam place).complete d 0 0 0 :=
  (if_neg (by simp [ho])).trans (if_pos ⟨hg, by simp [hs]⟩)

theorem tblClose_of_live {s : State} {d : Hdr} {e : Ent} (ho : e.opn = true) (hn : ¬ (e.genLo = s.genP d.slice % 256 ∧ e.settled = false))
    (hl : (s.plog d.slice).length < 65536) (tcam : Bool) (place : List Nat) (bs : List Byte) :
    s.tblClose d tcam (some (place, e)) bs = (s.closeLive d tcam place e bs).complete d 0 0 0 :=
  (if_neg (by simp [ho])).trans ((if_neg (by simpa using hn)).trans (if_neg (by omega)))

theorem Within.closeLive (s : State) (d : Hdr) (tcam : Bool) (place : List Nat) (e : Ent) (bs : List Byte) :
    Within [.tables, .ras] [.SLC_USAGE_log_used] s (s.closeLive d tcam place e bs) := ((tblStore s d tcam place _).mono).logWrite ..

theorem closeLive_cpls (s : State) (d : Hdr) (tcam : Bool) (place : List Nat) (e : Ent) (bs : List Byte) :
    (s.closeLive d tcam place e bs).host.cpls = s.host.cpls := by
  unfold State.closeLive
  rw [logWrite_host, tblStore_cpls]

/-- The closed entry stands at its place, and every other as before. -/
theorem tblAt_closeLive {s : State} {d : Hdr} (hx : s.xingBusy (s.ringHalf d) 3 0 = false) (tcam : Bool) (place : List Nat) (e : Ent) (bs : List Byte)
    (c : Bool) (k : List Nat) : (s.closeLive d tcam place e bs).tblAt c k
      = if c = tcam ∧ k = place then some { e with genHi := s.genG d.slice % 256, opn := false } else s.tblAt c k := by
  unfold State.closeLive
  rw [logWrite_tblAt, tblAt_tblStore_free hx]

theorem plog_closeLive {s : State} {d : Hdr} (hx : s.xingBusy (s.ringHalf d) 3 0 = false) (tcam : Bool) (place : List Nat) (e : Ent) (bs : List Byte) :
    (s.closeLive d tcam place e bs).plog d.slice = s.plog d.slice ++ [⟨1, tcam, place, bs⟩] := by
  unfold State.closeLive
  rw [logWrite_plog, plog_tblStore_free hx]

theorem tblSendFree (s : State) (d : Hdr) {tcam : Bool} {place : List Nat} (hx : s.xingBusy (s.ringHalf d) 3 0 = false) :
    Reports (s.tblFree tcam place) ((s.tblSend (s.ringHalf d) (fun s => s.tblFree tcam place)).tblDma d tcam place) := by
  rw [tblSend_free hx]
  exact (Reports.refl _).dma ..

theorem Within.closeAdded {s : State} {d : Hdr} (hx : s.xingBusy (s.ringHalf d) 3 0 = false) (tcam : Bool) (place : List Nat) :
    Within [.tables, .ras] [.SLC_USAGE_em_used, .SLC_USAGE_tcam_used, .SLC_USAGE_log_used] s (s.closeAdded d tcam place) :=
  ((((refl _ _ s).tblFree tcam place).report (tblSendFree s d hx)).setPlog _ _).setDlog _ _

theorem closeAdded_cpls {s : State} {d : Hdr} (hx : s.xingBusy (s.ringHalf d) 3 0 = false) (tcam : Bool) (place : List Nat) :
    (s.closeAdded d tcam place).host.cpls = s.host.cpls := by
  unfold State.closeAdded
  rw [setDlog_host, setPlog_host, (tblSendFree s d hx).cpls, tblFree_host]

/-- The freed place is empty, and every other as before. -/
theorem tblAt_closeAdded {s : State} {d : Hdr} (hx : s.xingBusy (s.ringHalf d) 3 0 = false) (tcam : Bool) (place : List Nat) (c : Bool) (k : List Nat) :
    (s.closeAdded d tcam place).tblAt c k = if c = tcam ∧ k = place then none else s.tblAt c k := by
  unfold State.closeAdded
  rw [setDlog_tblAt, setPlog_tblAt, tblAt_congr (tblSendFree s d hx).tables, tblAt_tblFree]

/-! ## Overrun bits of the crossings -/

/-- A crossing of a half has lost a value since its overrun bit was last cleared (R412). -/
def State.overrun (s : State) (h : Half) (pair : Nat) : Bool := bit (s.rd .RAS_XSTAT_ovr [h.n]) pair

@[simp] theorem overrun_setDlog (s : State) (sl : Nat) (l : List LogW) (h : Half) (pair : Nat) : (s.setDlog sl l).overrun h pair = s.overrun h pair := rfl

theorem Signals.dma {s t : State} (h : Signals s t) (x : Half) (ev : PmcEv) (mem : Nat) (addr : List Nat) (cls : Nat) : Signals s (t.dma x ev mem addr cls) := by
  unfold State.dma
  exact ite _ (h.pmc _ _ _ _) h

theorem Signals.overrun {s t : State} (h : Signals s t) (x : Half) (pair : Nat) : t.overrun x pair = s.overrun x pair := by
  unfold State.overrun
  rw [h.rd _ _ (by decide)]

theorem bit_eq_testBit (v i : Nat) : bit v i = v.testBit i := (Nat.testBit_eq_decide_div_mod_eq ..).symm

/-- A loss at a crossing sets its bit, and leaves the lower ones. -/
theorem overrun_xingLost (s : State) (h : Half) {pair p : Nat} (hq : pair < 7) (hp : p ≤ pair) :
    (s.xingLost h pair).overrun h p = (s.overrun h p || decide (p = pair)) := by
  have width : Fld.RAS_XSTAT_ovr.info.w = 7 := rfl
  unfold State.xingLost State.overrun
  dsimp only
  rw [rd_bump, if_neg (by simp)]
  split
  · rename_i set
    rcases Nat.eq_or_lt_of_le hp with rfl | lt
    · simp [set]
    · simp [lt.ne]
  · rename_i clear
    rw [rd_st_self, width, bit_eq_testBit, bit_eq_testBit, Nat.testBit_mod_two_pow, Nat.add_comm]
    rw [bit_eq_testBit] at clear
    rcases Nat.eq_or_lt_of_le hp with rfl | lt
    · simp [Nat.testBit_two_pow_add_eq, hq, clear]
    · simp [Nat.testBit_two_pow_add_gt lt, lt.ne, lt.trans hq]

theorem overrun_xingLost_other (s : State) {h x : Half} (hx : x ≠ h) (pair p : Nat) : (s.xingLost x pair).overrun h p = s.overrun h p := by
  have apart : [h.n] ≠ [x.n] := fun e => hx (Half.n_inj (List.head_eq_of_cons_eq e)).symm
  unfold State.xingLost State.overrun
  dsimp only
  rw [rd_bump, if_neg (by simp)]
  split
  · rfl
  · rw [rd_st, if_neg fun e => apart e.2]

theorem Signals.cplWrite {s t : State} (h : Signals s t) (w : CplWait) : Signals s (t.cplWrite w) := by
  unfold State.cplWrite
  cases w.ext with
  | none => exact h.ringPut ..
  | some x => exact Signals.ringPut (h.set_host _) ..

/-- A completion that is lost at its own crossing sets a higher bit (R411). -/
theorem overrun_lateRun {s : State} {h : Half} {p : Nat} (hp : p < 5) (hb : s.overrun h p = true) (x : Half) : (s.lateRun x).overrun h p = true := by
  have one : ∀ (u : State) (w : CplWait), u.overrun h p = true → ((u.unpost w.hdr).xingSend x 5 0 (fun s => s.cplWrite w)).overrun h p = true := by
    intro u w hu
    unfold State.xingSend
    split
    · by_cases hx : x = h
      · subst hx
        rw [overrun_xingLost _ _ (by decide) (by omega)]
        exact Bool.or_eq_true_iff.2 (.inl hu)
      · exact (overrun_xingLost_other _ hx ..).trans hu
    · exact (((Signals.refl _).cplWrite w).overrun h p).trans hu
  have all : ∀ (ws : List CplWait) (u : State), u.overrun h p = true →
      (ws.foldl (fun (s : State) w => (s.unpost w.hdr).xingSend x 5 0 (fun s => s.cplWrite w)) u).overrun h p = true := by
    intro ws
    induction ws with
    | nil => exact fun _ hu => hu
    | cons w ws ih => exact fun u hu => ih _ (one u w hu)
  unfold State.lateRun
  split
  · exact hb
  · exact all _ _ hb

theorem overrun_completeX {s : State} {h : Half} {p : Nat} (hp : p < 5) (hb : s.overrun h p = true) (d : Hdr) (st a r : Nat) (ext : Option (List Byte)) :
    (s.completeX d st a r ext).overrun h p = true := by
  unfold State.completeX
  extract_lets host0 lost s0 s1 s2 x host1 s3
  have busy : s1.overrun h p = true := by
    refine (congrArg (bit · p) ?_).trans hb
    exact rd_st_of_ne _ _ _ _ (by decide)
  have counted : s2.overrun h p = true := by
    refine Eq.trans ?_ busy
    exact (Signals.ite _ ((Signals.refl s1).pmc ..) (.refl s1)).overrun h p
  split
  · exact counted
  · split
    · exact overrun_lateRun (s := s3) hp counted x
    · unfold State.rqPost
      split <;> exact counted

theorem bit_settle_complete {s : State} {h : Half} {p : Nat} (hp : p < 5) (hb : s.overrun h p = true) (d : Hdr) (st a r : Nat) :
    bit ((settle (s.complete d st a r)).rd .RAS_XSTAT_ovr [h.n]) p = true := by
  rw [rd_settle, complete_def]
  exact overrun_completeX hp hb d st a r none

/-! ## CLOSE and REPLACE_NOW settled -/

/-- The entry of a REPLACE_NOW (R83). -/
def State.replaceEnt (s : State) (d : Hdr) (tcam : Bool) (place : List Nat) (e : Ent) (adata act : Nat) (bs : List Byte) : State :=
  (s.tblStore d tcam place { e with adata := adata, act := act }).setDlog d.slice (s.dlog d.slice ++ [LogW.mk 2 tcam place bs])

theorem tblReplace_of_hit (s : State) (d : Hdr) (tcam : Bool) (place : List Nat) (e : Ent) (adata act : Nat) (bs : List Byte) :
    s.tblReplace d tcam (some (place, e)) adata act bs = (s.replaceEnt d tcam place e adata act bs).complete d 0 0 0 := rfl

theorem Within.replaceEnt (s : State) (d : Hdr) (tcam : Bool) (place : List Nat) (e : Ent) (adata act : Nat) (bs : List Byte) :
    Within [.tables, .ras] [] s (s.replaceEnt d tcam place e adata act bs) := (tblStore s d tcam place _).setDlog ..

theorem replaceEnt_cpls (s : State) (d : Hdr) (tcam : Bool) (place : List Nat) (e : Ent) (adata act : Nat) (bs : List Byte) :
    (s.replaceEnt d tcam place e adata act bs).host.cpls = s.host.cpls := by
  unfold State.replaceEnt
  rw [setDlog_host, tblStore_cpls]

theorem tblAt_replaceEnt (s : State) (d : Hdr) (tcam : Bool) (place : List Nat) (e : Ent) (adata act : Nat) (bs : List Byte) (c : Bool) (k : List Nat) :
    (s.replaceEnt d tcam place e adata act bs).tblAt c k = (s.tblStore d tcam place { e with adata := adata, act := act }).tblAt c k := by
  unfold State.replaceEnt
  rw [setDlog_tblAt]

/-- A REPLACE_NOW that is lost at the crossing of table updates is counted there (R411, R412). -/
theorem overrun_replaceEnt {s : State} {d : Hdr} (hx : s.xingBusy (s.ringHalf d) 3 0 = true) (tcam : Bool) (place : List Nat) (e : Ent) (adata act : Nat)
    (bs : List Byte) : (s.replaceEnt d tcam place e adata act bs).overrun (s.ringHalf d) 3 = true := by
  have told : Signals (s.xingLost (s.ringHalf d) 3) (s.tblStore d tcam place { e with adata := adata, act := act }) := by
    unfold State.tblStore State.tblDma
    rw [tblSend_busy hx]
    exact (Signals.refl _).dma ..
  unfold State.replaceEnt
  rw [overrun_setDlog, told.overrun, overrun_xingLost _ _ (by decide) (by decide)]
  simp

theorem tblWriteKind_close (s : State) (d : Hdr) (m : Config.TableMap) (i : Nat) (hits : List (List Nat × Ent)) (buf : List Byte) :
    s.tblWriteKind d m 1 i hits buf = s.tblClose d (decide (m.kind ≠ 0)) (emFirst hits) (slice buf 0 64) := rfl

theorem tblWriteKind_replace (s : State) (d : Hdr) (m : Config.TableMap) (i : Nat) (hits : List (List Nat × Ent)) (buf : List Byte) :
    s.tblWriteKind d m 2 i hits buf = s.tblReplace d (decide (m.kind ≠ 0)) (emFirst hits) (le buf 40 8) (byteAt buf 48) (slice buf 0 64) := rfl

/-- A CLOSE or a REPLACE_NOW does its work on the entry that it addresses, after reports alone. -/
theorem exec_tblWrite_hit {s : State} {d : Hdr} {kind id i : Nat} {m : Config.TableMap} {buf : List Byte} (h : WriteFits s d id i m buf)
    (hd : due s (.tblWrite d kind id i)) (hk : kind ≤ 2) (hp : m.kind = 0 → s.ras.poison = []) :
    ∃ u hits, Within [] [] s u ∧ u.host.cpls = s.host.cpls ∧ emFirst hits = s.tblHit d m i (le buf 0 20)
      ∧ exec (.tblWrite d kind id i) s = .next (settle (u.tblWriteKind d m kind i hits buf)) := by
  obtain ⟨hit, ready, cpls⟩ := tblHits_ready hp d i (le buf 0 20)
  exact ⟨_, _, ready, cpls, hit, exec_tblWrite h hd hk⟩

/-- Settles O4: what CLOSE does to a live entry, to one added under P, to a closed one and to none, and REPLACE_NOW, done or lost at its crossing. -/
theorem tableWriteCloseAndReplace : Obligations.TableWriteCloseAndReplace := by
  unfold Obligations.TableWriteCloseAndReplace
  rintro s d id i m buf tcam lost hit hs hm hi hl hb hkey hact rfl rfl hp rfl
  have fits : WriteFits s d id i m buf := ⟨hs, hm, hi, hl, hb, hkey, hact⟩
  change (∀ place e, s.tblHit d m i (le buf 0 20) = some (place, e) → _) ∧ (∀ place e, s.tblHit d m i (le buf 0 20) = some (place, e) → _)
    ∧ (∀ place e, s.tblHit d m i (le buf 0 20) = some (place, e) → _) ∧ (∀ place e, s.tblHit d m i (le buf 0 20) = some (place, e) → _)
    ∧ (s.tblHit d m i (le buf 0 20) = none → _)
  refine ⟨fun place e hit hx ho hn hlog hd => ?live, fun place e hit hx ho hg hset hd => ?added, fun place e hit hd => ?replace,
    fun place e hit ho hd => ?closed, fun hit hd => ?absent⟩
  case live =>
    obtain ⟨u, hits, ready, cpls, first, run⟩ := exec_tblWrite_hit fits hd (by decide) hp
    have close : u.tblWriteKind d m 1 i hits buf = (u.closeLive d (decide (m.kind ≠ 0)) place e (slice buf 0 64)).complete d 0 0 0 := by
      rw [tblWriteKind_close, first, hit,
        tblClose_of_live ho (by rwa [ready.genP]) (by rwa [plog_congr (congrArg Tables.plog ready.tables)])]
    rw [close] at run
    have free : u.xingBusy (u.ringHalf d) 3 0 = false := by rw [xingBusy_congr ready.ras, ready.ringHalf d, hx]
    obtain ⟨done, parts, fields⟩ := completed_of_after (ready.mono.trans (.closeLive u d _ place e (slice buf 0 64))) ((closeLive_cpls ..).trans cpls) 0 0 0
    refine ⟨_, run, done, ?_, fun c k hck => ?_, ?_, parts, fields⟩
    · rw [tblAt_settle_complete, tblAt_closeLive free, if_pos ⟨rfl, rfl⟩, ready.genG]
    · rw [tblAt_settle_complete, tblAt_closeLive free, if_neg (fun h => hck (Prod.ext h.1 h.2)), tblAt_congr ready.tables]
    · rw [plog_settle_complete, plog_closeLive free, plog_congr (congrArg Tables.plog ready.tables)]
  case added =>
    obtain ⟨u, hits, ready, cpls, first, run⟩ := exec_tblWrite_hit fits hd (by decide) hp
    have close : u.tblWriteKind d m 1 i hits buf = (u.closeAdded d (decide (m.kind ≠ 0)) place).complete d 0 0 0 := by
      rw [tblWriteKind_close, first, hit, tblClose_of_added ho (by rw [hg, ready.genP]) hset]
    rw [close] at run
    have free : u.xingBusy (u.ringHalf d) 3 0 = false := by rw [xingBusy_congr ready.ras, ready.ringHalf d, hx]
    obtain ⟨done, parts, fields⟩ := completed_of_after (ready.mono.trans (.closeAdded free (decide (m.kind ≠ 0)) place)) ((closeAdded_cpls free ..).trans cpls) 0 0 0
    refine ⟨_, run, done, ?_, fun c k hck => ?_, parts, fields⟩
    · rw [tblAt_settle_complete, tblAt_closeAdded free, if_pos ⟨rfl, rfl⟩]
    · rw [tblAt_settle_complete, tblAt_closeAdded free, if_neg (fun h => hck (Prod.ext h.1 h.2)), tblAt_congr ready.tables]
  case replace =>
    obtain ⟨u, hits, ready, cpls, first, run⟩ := exec_tblWrite_hit fits hd (by decide) hp
    have put : u.tblWriteKind d m 2 i hits buf
        = (u.replaceEnt d (decide (m.kind ≠ 0)) place e (le buf 40 8) (byteAt buf 48) (slice buf 0 64)).complete d 0 0 0 := by
      rw [tblWriteKind_replace, first, hit, tblReplace_of_hit]
    rw [put] at run
    have half : u.ringHalf d = s.ringHalf d := ready.ringHalf d
    have crossing : u.xingBusy (u.ringHalf d) 3 0 = s.xingBusy (s.ringHalf d) 3 0 := by rw [xingBusy_congr ready.ras, half]
    obtain ⟨done, parts, fields⟩ := completed_of_after (ready.mono.trans (.replaceEnt u d _ place e _ _ _)) ((replaceEnt_cpls ..).trans cpls) 0 0 0
    refine ⟨_, run, done, fun hx => ⟨?_, fun c k hck => ?_⟩, fun hx => ⟨fun c k => ?_, ?_⟩, parts, fields⟩
    · rw [tblAt_settle_complete, tblAt_replaceEnt, tblAt_tblStore_free (crossing.trans hx), if_pos ⟨rfl, rfl⟩]
    · rw [tblAt_settle_complete, tblAt_replaceEnt, tblAt_tblStore_free (crossing.trans hx), if_neg (fun h => hck (Prod.ext h.1 h.2)),
        tblAt_congr ready.tables]
    · rw [tblAt_settle_complete, tblAt_replaceEnt, tblAt_tblStore_busy (crossing.trans hx), tblAt_congr ready.tables]
    · rw [← half]
      exact bit_settle_complete (by decide) (overrun_replaceEnt (crossing.trans hx) ..) d 0 0 0
  case closed =>
    obtain ⟨u, hits, ready, cpls, first, run⟩ := exec_tblWrite_hit fits hd (by decide) hp
    have close : u.tblWriteKind d m 1 i hits buf = u.complete d 1 0x49 0 := by
      rw [tblWriteKind_close, first, hit, tblClose_of_closed _ _ _ ho]
    rw [close] at run
    exact ⟨_, run, completed_of_after ready cpls 1 0x49 0⟩
  case absent =>
    obtain ⟨u, hits, ready, cpls, first, run⟩ := exec_tblWrite_hit fits hd (by decide) hp
    have close : u.tblWriteKind d m 1 i hits buf = u.complete d 0x14 0 0 := by
      rw [tblWriteKind_close, first, hit]
      rfl
    rw [close] at run
    exact ⟨_, run, completed_of_after ready cpls 0x14 0 0⟩

end Sys2Proof.Machine

namespace Sys2Proof.Machine

/-! ## Host memory under reports -/

/-- Reports that enable no ring, and that leave host memory alone while PF0's event ring is disabled. -/
structure Mute (s t : State) : Prop where
  rd : ∀ ix, t.rd .HST_RING_CFG_en ix = s.rd .HST_RING_CFG_en ix
  mem : s.on .HST_RING_CFG_en [0, 8] = false → t.host.mem = s.host.mem

theorem raise_of_off {s : State} (h : s.on .HST_RING_CFG_en [0, 8] = false) (code half : Nat) (fs : List (Nat × Nat × Nat)) :
    (s.raise code half fs).host.mem = s.host.mem := by
  have down : ∀ host : HostIf, State.ringUp { s with host := host } 0 8 = false := fun host => by
    unfold State.ringUp
    rw [show State.on { s with host := host } .HST_RING_CFG_en [0, 8] = false from h]
    rfl
  unfold State.raise State.eventTo
  simp [down]

namespace Mute

variable {s t u : State}

theorem refl (s : State) : Mute s s := ⟨fun _ => rfl, fun _ => rfl⟩

theorem on (h : Mute s t) (ix : List Nat) : t.on .HST_RING_CFG_en ix = s.on .HST_RING_CFG_en ix := by
  unfold State.on
  rw [h.rd]

theorem trans (h : Mute s t) (k : Mute t u) : Mute s u :=
  ⟨fun ix => (k.rd ix).trans (h.rd ix), fun off => (k.mem ((h.on _).trans off)).trans (h.mem off)⟩

theorem foldl {α : Type} {op : State → α → State} (hop : ∀ t a, Mute t (op t a)) (l : List α) (s : State) : Mute s (l.foldl op s) := by
  induction l generalizing s with
  | nil => exact refl s
  | cons a l ih => exact (hop s a).trans (ih _)

theorem ite (c : Prop) [Decidable c] (h : Mute s t) (k : Mute s u) : Mute s (if c then t else u) := by
  split
  · exact h
  · exact k

theorem raise (s : State) (code half : Nat) (fs : List (Nat × Nat × Nat)) : Mute s (s.raise code half fs) :=
  ⟨fun _ => rd_raise _ _ _ _ _ rfl, fun off => raise_of_off off code half fs⟩

theorem st (s : State) {f : Fld} (ix : List Nat) (v : Nat) (hf : Fld.HST_RING_CFG_en ≠ f) : Mute s (s.st f ix v) :=
  ⟨fun _ => rd_st_of_ne _ _ _ _ hf, fun _ => rfl⟩

theorem set_tel (s : State) (x : Tel) : Mute s { s with tel := x } := ⟨fun _ => rfl, fun _ => rfl⟩

theorem unpost (s : State) (d : Hdr) : Mute s (s.unpost d) := ⟨fun _ => rfl, fun _ => rfl⟩

theorem pmc (s : State) (x : Half) (ev : Nat) (e : PmcEv) (n : Nat) : Mute s (s.pmc x ev e n) := by
  refine foldl (fun u i => ite _ ?_ (refl u)) _ s
  have counted : Mute u (u.bump .PMC_CNT_v [x.n, i] n) := st u _ _ (by decide)
  exact counted.trans (ite _ (refl _) ((set_tel _ _).trans (raise ..)))

theorem dma (s : State) (x : Half) (ev : PmcEv) (mem : Nat) (addr : List Nat) (cls : Nat) : Mute s (s.dma x ev mem addr cls) :=
  ite _ (pmc ..) (refl s)

end Mute

/-- A completion whose ring is disabled, as PF0's event ring is, writes nothing (R337). -/
theorem mem_completeX_of_off {s : State} {d : Hdr} (hc : s.on .HST_RING_CFG_en [d.fn, d.ring + 4] = false) (he : s.on .HST_RING_CFG_en [0, 8] = false)
    (st a r : Nat) (ext : Option (List Byte)) : (s.completeX d st a r ext).host.mem = s.host.mem := by
  unfold State.completeX
  extract_lets host0 lost s0 s1 s2 x host1 s3
  have taken : Mute s s0 := ⟨fun _ => rfl, fun _ => rfl⟩
  have busy : Mute s s1 := (taken.trans (.unpost s0 d)).trans (.st _ _ _ (by decide))
  have counted : Mute s s2 := busy.trans (.ite _ (.pmc ..) (.refl s1))
  have off : s2.on .HST_RING_CFG_en [d.fn, d.ring + 4] = false := (counted.on _).trans hc
  rw [if_pos (.inr (by simp [off]))]
  exact counted.mem he

/-- The four ways of a bucket without errors are read with reports alone, which write no host memory. -/
theorem emRead_mute {s : State} (hp : s.ras.poison = []) (d : Hdr) (m : Config.TableMap) (key : Nat) : Mute s (s.emRead d m key).2 := by
  have way : ∀ (a : List (List Nat) × State) (w : Nat), Reports s a.2 → Mute s a.2 → Mute s (State.emWay d m key a w).2 := by
    intro a w ha hm
    have clean : (a.2.dma (a.2.ringHalf d) (a.2.engEv (a.2.ringHalf d) 6 (some d.fn)) 1 (tblAddr false [stageOf m.stage, emBucket m key, w]) 0).ras.poison = [] := by
      rw [(ha.dma ..).ras, hp]
    unfold State.emWay
    dsimp only
    rw [eccReadAt_clean clean]
    dsimp only
    exact hm.trans (.dma ..)
  have fold : ∀ (l : List Nat) (a : List (List Nat) × State), Reports s a.2 → Mute s a.2 → Mute s (l.foldl (State.emWay d m key) a).2 := by
    intro l
    induction l with
    | nil => exact fun _ _ h => h
    | cons w l ih =>
      intro a ha hm
      rw [List.foldl_cons]
      exact ih _ (emWay_clean hp d ha).2 (way a w ha hm)
  unfold State.emRead
  dsimp only
  exact fold (List.range 4) ([], s) (Reports.refl s) (Mute.refl s)

/-- A word without errors is read with reports alone. -/
theorem tblWordBad_clean {s : State} (hp : s.ras.poison = []) (d : Hdr) (tcam : Bool) (place : List Nat) :
    (s.tblWordBad d tcam place).1 = false ∧ Reports s (s.tblWordBad d tcam place).2 ∧ Mute s (s.tblWordBad d tcam place).2 := by
  have read := (Reports.refl s).dma (s.ringHalf d) (s.engEv (s.ringHalf d) 6 (some d.fn)) 1 (tblAddr tcam place) 0
  unfold State.tblWordBad
  dsimp only
  rw [eccReadAt_clean (by rw [read.ras, hp])]
  dsimp only
  exact ⟨rfl, read, .dma ..⟩

theorem Mute.descRun (s : State) (d : Hdr) : Mute s (s.descRun d) := by
  refine ⟨descRun_rd s d _, fun _ => ?_⟩
  unfold State.descRun
  split <;> rfl

/-! ## TBL_READ -/

/-- The checks of R338 and R477 that let a TBL_READ reach its table. -/
structure ReadFits (s : State) (d : Hdr) (id i key : Nat) (m : Config.TableMap) : Prop where
  checks : served s d ⟨0x11, .reads, false, true, 0⟩ (ownSlice d d.slice) (cleanHdr d true false true)
  table : s.tableMap? id = some m
  index : badIndex m i = false
  key : m.kind = 0 → key < 2 ^ m.keyW
  long : (if m.kind = 0 then 32 else 64) ≤ d.hlen
  read : d.buf.isSome = true

/-- A TBL_READ that passes R477 reads its table. -/
theorem exec_tblRead {s : State} {d : Hdr} {id i key : Nat} {m : Config.TableMap} (h : ReadFits s d id i key m) (hd : due s (.tblRead d id i key)) :
    exec (.tblRead d id i key) s
      = .next (settle (if m.kind = 0 then (s.descRun d).tblReadEm d m key else (s.descRun d).tblReadTcam d m i)) := by
  obtain ⟨hs, hm, hi, hkey, hl, hb⟩ := h
  obtain ⟨buf, hbuf⟩ := Option.isSome_iff_exists.1 hb
  refine (doneDesc_of_served _ (hd d rfl) hs).trans ?_
  have params : ¬ (badIndex m i = true ∨ (m.kind = 0 ∧ 2 ^ m.keyW ≤ key) ∨ d.hlen < (if m.kind = 0 then 32 else 64)) := by
    rintro (h | ⟨h0, h⟩ | h)
    · simp [hi] at h
    · exact absurd (hkey h0) (by omega)
    · omega
  rw [tableMap?_congr (Within.descRun [] [] s d), hm]
  simp only [if_neg params, State.withBuf, hbuf]

/-- What is known of the state in which a table descriptor has read its words: reports alone, that write no host memory. -/
structure HasRead (s u : State) : Prop where
  within : Within [] [] s u
  cpls : u.host.cpls = s.host.cpls
  mute : Mute s u

theorem HasRead.descRun (s : State) (d : Hdr) : HasRead s (s.descRun d) := ⟨.descRun [] [] s d, descRun_cpls s d, .descRun s d⟩

theorem HasRead.report {s t u : State} (h : HasRead s t) (k : Reports t u) (m : Mute t u) : HasRead s u :=
  ⟨h.within.report k, k.cpls.trans h.cpls, h.mute.trans m⟩

/-- The image of what was read goes to the host buffer, and the descriptor completes (R92). -/
theorem image_completes {s u : State} (h : HasRead s u) (d : Hdr) (bs : List Byte) :
    completed s (settle ((u.hostWrite d.haddr bs).complete d 0 0 0)) d 0 0 0 ∧ partsBut [] s (settle ((u.hostWrite d.haddr bs).complete d 0 0 0))
      ∧ fieldsBut [] s (settle ((u.hostWrite d.haddr bs).complete d 0 0 0))
      ∧ (s.on .HST_RING_CFG_en [d.fn, d.ring + 4] = false → s.on .HST_RING_CFG_en [0, 8] = false →
          (settle ((u.hostWrite d.haddr bs).complete d 0 0 0)).host.mem = s.host.mem.setBytes d.haddr bs) := by
  have written : Within [] [] s (u.hostWrite d.haddr bs) := ⟨partsBut_hostWrite h.within.parts d.haddr bs, fieldsBut_hostWrite h.within.fields d.haddr bs⟩
  obtain ⟨done, parts, fields⟩ := completed_of_after written h.cpls 0 0 0
  refine ⟨done, parts, fields, fun hc he => ?_⟩
  have hc' : (u.hostWrite d.haddr bs).on .HST_RING_CFG_en [d.fn, d.ring + 4] = false := (h.mute.on _).trans hc
  have he' : (u.hostWrite d.haddr bs).on .HST_RING_CFG_en [0, 8] = false := (h.mute.on _).trans he
  rw [settle_host, complete_def, mem_completeX_of_off hc' he', hostWrite_mem, h.mute.mem he]

/-- TBL_READ of an exact-match entry whose bucket has no error (R92). -/
theorem tblReadEm_clean {s : State} {d : Hdr} (hp : s.ras.poison = []) (m : Config.TableMap) (key : Nat) :
    ∃ u, HasRead s u ∧ (s.descRun d).tblReadEm d m key = match emFirst (s.emHits m d.slice key) with
      | some x => (u.hostWrite d.haddr (emBytes x.2)).complete d 0 0 0
      | none => u.complete d 0x14 0 0 := by
  have clean : (s.descRun d).ras.poison = [] := by rw [descRun_ras, hp]
  obtain ⟨hits, read⟩ := emRead_clean clean d m key
  refine ⟨_, (HasRead.descRun s d).report read (emRead_mute clean d m key), ?_⟩
  unfold State.tblReadEm
  dsimp only
  rw [hits, emHits_congr (descRun_tables s d)]
  cases emFirst (s.emHits m d.slice key) <;> rfl

/-- TBL_READ of a TCAM entry whose words have no error (R92). -/
theorem tblReadTcam_of_target {s : State} {d : Hdr} {m : Config.TableMap} {i : Nat} {place : List Nat} {e : Ent} (hp : s.ras.poison = [])
    (hu : s.tables.upset = []) (ht : s.tcamTarget m d.slice i = some (place, e)) :
    ∃ u, HasRead s u ∧ (s.descRun d).tblReadTcam d m i = (u.hostWrite d.haddr (tcamBytes e)).complete d 0 0 0 := by
  obtain ⟨good, read, mute⟩ := tblWordBad_clean (s := s.descRun d) (by rw [descRun_ras, hp]) d true place
  refine ⟨_, (HasRead.descRun s d).report read mute, ?_⟩
  unfold State.tblReadTcam
  rw [tcamTarget_congr (descRun_tables s d), ht]
  simp [hu, good]

/-- TBL_READ of a TCAM index that holds no entry of its own: the odd index of a wide one is returned, and else none is found (R92, log entry 74). -/
theorem tblReadTcam_of_none {s : State} {d : Hdr} {m : Config.TableMap} {i : Nat} (ht : s.tcamTarget m d.slice i = none) :
    (s.descRun d).tblReadTcam d m i = match (if i % 2 = 1 then s.tables.tcam.get? [stageOf m.stage, i - 1] else none) with
      | some e => if e.wide = true ∧ e.slice = d.slice ∧ e.table = m.id then ((s.descRun d).hostWrite d.haddr (oddBytes e)).complete d 0 0 0
        else (s.descRun d).complete d 0x14 0 0
      | none => (s.descRun d).complete d 0x14 0 0 := by
  unfold State.tblReadTcam
  rw [tcamTarget_congr (descRun_tables s d), ht, descRun_tables]
  rfl

/-- Settles O5: the image of the entry that is found in either kind of table, of the odd index of a wide entry, and none found. -/
theorem tableRead : Obligations.TableRead := by
  unfold Obligations.TableRead
  intro s d id i key m hs hm hi hkey hl hb hp hu
  have fits : ReadFits s d id i key m := ⟨hs, hm, hi, hkey, hl, hb⟩
  refine ⟨fun place e hit hd => ?found, fun e hk hodd hnone he hw hsl ht hd => ?odd, fun hnone hno hd => ?absent⟩
  case found =>
    have run := exec_tblRead fits hd
    by_cases hk : m.kind = 0
    · obtain ⟨u, read, eq⟩ := tblReadEm_clean (d := d) hp m key
      rw [if_pos hk] at hit run ⊢
      rw [eq, hit] at run
      exact ⟨_, run, image_completes read d (emBytes e)⟩
    · rw [if_neg hk] at hit run ⊢
      obtain ⟨u, read, eq⟩ := tblReadTcam_of_target hp hu hit
      rw [eq] at run
      exact ⟨_, run, image_completes read d (tcamBytes e)⟩
  case odd =>
    have run := exec_tblRead fits hd
    rw [if_neg hk, tblReadTcam_of_none hnone, if_pos hodd, he] at run
    dsimp only at run
    rw [if_pos ⟨hw, hsl, ht⟩] at run
    exact ⟨_, run, image_completes (.descRun s d) d (oddBytes e)⟩
  case absent =>
    have run := exec_tblRead fits hd
    by_cases hk : m.kind = 0
    · obtain ⟨u, read, eq⟩ := tblReadEm_clean (d := d) hp m key
      rw [if_pos hk] at hnone run
      rw [eq, hnone] at run
      exact ⟨_, run, completed_of_after read.within read.cpls 0x14 0 0⟩
    · rw [if_neg hk] at hnone run
      have lone : (s.descRun d).tblReadTcam d m i = (s.descRun d).complete d 0x14 0 0 := by
        rw [tblReadTcam_of_none hnone]
        split
        · rename_i e he
          split at he
          · exact if_neg (hno e hk ‹_› he)
          · simp at he
        · rfl
      rw [lone] at run
      exact ⟨_, run, completed_of_after (.descRun [] [] s d) (descRun_cpls s d) 0x14 0 0⟩

end Sys2Proof.Machine

namespace Sys2Proof.Machine

/-! ## SLICE_COMMIT -/

theorem commitsPending_congr {s t : State} (hr : t.ras = s.ras) (ht : t.tables = s.tables) (sl : Nat) : t.commitsPending sl = s.commitsPending sl := by
  unfold State.commitsPending
  rw [hr, ht]

/-- That a descriptor has run does not show in the writes before it. -/
theorem descRun_writesBefore (s : State) (d x : Hdr) : (s.descRun d).writesBefore x = s.writesBefore x := by
  unfold State.descRun
  split
  · unfold State.writesBefore
    dsimp only
    rw [List.takeWhile_map, List.any_map]
    have hdr : ∀ t : Taken, (if sameHdr t.hdr d then { t with ran := true } else t).hdr = t.hdr := fun t => by split <;> rfl
    have code : ∀ t : Taken, (if sameHdr t.hdr d then { t with ran := true } else t).opcode = t.opcode := fun t => by split <;> rfl
    simp only [Function.comp_def, hdr, code]
  · rfl

theorem passed_filter {s : State} (h : s.tables.passed = []) (p : Hdr → Bool) :
    ({ s with tables := { s.tables with passed := s.tables.passed.filter p } } : State) = s := by
  have none : s.tables.passed.filter p = s.tables.passed := by rw [h]; rfl
  rw [none]

theorem Within.genO {ps : List Part} {fs : List Fld} {s t : State} (h : Within ps fs s t) (sl : Nat) (hf : Fld.SLC_GEN_oldest_live ∉ fs := by decide)
    (ho : Fld.RAS_OWN_STAT_state ∉ fs := by decide) : t.genO sl = s.genO sl := by
  unfold State.genO
  rw [h.owner ho, h.rd _ _ hf]

/-- A commit waits for the earlier writes of its slice (R85). -/
def State.passCommit (s : State) (d : Hdr) : State :=
  ({ s with tables := { s.tables with passed := s.tables.passed ++ [d] } } : State).descWait d

/-- SLICE_COMMIT where no commit has passed its checks before: refused with four live generations, else waiting, else a step (R85). -/
theorem exec_sliceCommit {s : State} {d : Hdr} (hs : served s d ⟨0x12, .config, true, true, 0⟩ (ownSlice d d.slice) (cleanHdr d true false false))
    (hp : s.tables.passed = []) (hd : due s (.sliceCommit d)) :
    exec (.sliceCommit d) s = .next (settle (
      if 4 ≤ (s.genG d.slice + s.commitsPending d.slice + 65536 - s.genO d.slice) % 65536 + 1 then
        ((s.descRun d).complete d 0x16 0 0).bump .SLC_CNT_v [((s.descRun d).ringHalf d).n, d.slice, 3] 1
      else if s.writesBefore d then (s.descRun d).passCommit d
      else (s.descRun d).request (.commit d.slice) (some d) ((s.genG d.slice + s.commitsPending d.slice + 1) % 65536))) := by
  have run : Within [] [] s (s.descRun d) := .descRun [] [] s d
  have unpassed : (s.descRun d).tables.passed = [] := by rw [descRun_tables, hp]
  refine (doneDesc_of_due _ (hd d rfl)).trans ?_
  have first : (s.descRun d).tables.passed.any (fun x => sameHdr x d) = false := by rw [unpassed]; rfl
  have steps : ((s.descRun d).ras.steps.filter (fun t => t.kind = .commit d.slice && !t.doneE && !t.doneW)).length = s.commitsPending d.slice := by
    unfold State.commitsPending
    rw [descRun_ras, hp]
    rfl
  unfold doSliceCommit
  dsimp only
  rw [passed_filter unpassed, serve_of_pass _ ((descRun_refusal ..).trans hs), first, descRun_writesBefore, run.genG, run.genO,
    commitsPending_congr run.ras run.tables, steps]
  simp only [Bool.false_eq_true, not_false_eq_true, true_and]
  rfl

theorem Within.passCommit (s : State) (d : Hdr) : Within [.tables] [] s (s.passCommit d) := by
  have waits := partsBut_set_host ((refl [.tables] [] s).set_tables { s.tables with passed := s.tables.passed ++ [d] }).parts
  exact ⟨waits _, fieldsBut_refl _ s⟩

theorem Within.request (s : State) (k : StepKind) (d : Option Hdr) (result : Nat) : Within [.ras] [] s (s.request k d result) := (refl _ _ s).set_ras _

@[simp] theorem request_cpls (s : State) (k : StepKind) (d : Option Hdr) (result : Nat) : (s.request k d result).host.cpls = s.host.cpls := rfl

theorem request_steps (s : State) (k : StepKind) (d : Option Hdr) (result : Nat) : (s.request k d result).ras.steps
    = s.ras.steps ++ [⟨k, d, s.owner, (s.ras.nextSeq + 1) % 2 ^ 32, ceilDiv (s.elapsed + 1024) 256 * 256, false, false, false, false, result⟩] := rfl

/-- SLICE_COMMIT with fewer than four live generations prepares its step, or waits, and with four is refused (R85). -/
theorem sliceCommit_cases (s : State) (d : Hdr) (hs : served s d ⟨0x12, .config, true, true, 0⟩ (ownSlice d d.slice) (cleanHdr d true false false))
    (hp : s.tables.passed = []) :
    ((s.genG d.slice + s.commitsPending d.slice + 65536 - s.genO d.slice) % 65536 + 1 < 4 → s.writesBefore d = false →
      due s (.sliceCommit d) → ∃ t, exec (.sliceCommit d) s = .next t ∧ t.host.cpls = s.host.cpls
        ∧ t.ras.steps = s.ras.steps ++ [⟨.commit d.slice, some d, s.owner, (s.ras.nextSeq + 1) % 2 ^ 32, ceilDiv (s.elapsed + 1024) 256 * 256,
            false, false, false, false, (s.genG d.slice + s.commitsPending d.slice + 1) % 65536⟩]
        ∧ partsBut [.ras] s t ∧ fieldsBut [] s t)
    ∧ ((s.genG d.slice + s.commitsPending d.slice + 65536 - s.genO d.slice) % 65536 + 1 < 4 → s.writesBefore d = true →
      due s (.sliceCommit d) → ∃ t, exec (.sliceCommit d) s = .next t ∧ t.host.cpls = s.host.cpls ∧ t.tables.passed = [d]
        ∧ t.commitsPending d.slice = s.commitsPending d.slice + 1 ∧ partsBut [.tables] s t ∧ fieldsBut [] s t)
    ∧ (4 ≤ (s.genG d.slice + s.commitsPending d.slice + 65536 - s.genO d.slice) % 65536 + 1 →
      due s (.sliceCommit d) → ∃ t, exec (.sliceCommit d) s = .next t ∧ completed s t d 0x16 0 0 ∧ partsBut [] s t ∧ fieldsBut [.SLC_CNT_v] s t) := by
  have ran : ∀ ps, Within ps [] s (s.descRun d) := fun ps => .descRun ps [] s d
  refine ⟨fun hfew hfirst hd => ?step, fun hfew hwait hd => ?waits, fun hfour hd => ?full⟩
  case step =>
    have run := exec_sliceCommit hs hp hd
    rw [if_neg (by omega), if_neg (by simp [hfirst])] at run
    have all := ((ran _).trans (.request (s.descRun d) (.commit d.slice) (some d) ((s.genG d.slice + s.commitsPending d.slice + 1) % 65536))).settle
    refine ⟨_, run, descRun_cpls s d, ?_, all.parts, all.fields⟩
    rw [settle_ras, request_steps, (ran []).ras, (ran []).owner]
    unfold State.elapsed
    rw [descRun_time]
  case waits =>
    have run := exec_sliceCommit hs hp hd
    rw [if_neg (by omega), if_pos hwait] at run
    have all := ((ran _).trans (.passCommit (s.descRun d) d)).settle
    have passed : (settle ((s.descRun d).passCommit d)).tables.passed = [d] := by
      show (s.descRun d).tables.passed ++ [d] = [d]
      rw [descRun_tables, hp]
      rfl
    refine ⟨_, run, descRun_cpls s d, passed, ?_, all.parts, all.fields⟩
    unfold State.commitsPending
    rw [passed, hp, all.ras]
    simp
  case full =>
    have run := exec_sliceCommit hs hp hd
    rw [if_pos hfour] at run
    have all := (((Within.descRun [] [.SLC_CNT_v] s d).completeX d 0x16 0 0 none).bump (f := .SLC_CNT_v)
      [((s.descRun d).ringHalf d).n, d.slice, 3] 1).settle
    exact ⟨_, run, by simp [completed], all.parts, all.fields⟩

/-! ## SLICE_ABORT -/

/-- One write of the pending log undone (R84). -/
def State.undo (s : State) (w : LogW) : State :=
  if w.kind = 0 then s.tblFree w.tcam w.place
  else match s.tblAt w.tcam w.place with
    | some e => s.tblPut w.tcam w.place (some { e with opn := true })
    | none => s

/-- The pending log undone and emptied; of the digest log only what no abort undoes stays (R84, R378). -/
def State.undone (s : State) (sl : Nat) : State :=
  let u := (s.plog sl).foldl State.undo s
  (u.setPlog sl []).setDlog sl ((u.dlog sl).filter (fun w => w.kind = 2))

theorem abortSlice_eq (s : State) (sl : Nat) : s.abortSlice sl = ((s.plog sl).length, s.undone sl) := rfl

theorem Within.undo (s : State) (w : LogW) : Within [.tables, .ras] [.SLC_USAGE_em_used, .SLC_USAGE_tcam_used, .SLC_USAGE_log_used] s (s.undo w) := by
  unfold State.undo
  refine .ite _ ((refl _ _ s).tblFree _ _) ?_
  split
  · exact (refl _ _ s).tblPut ..
  · exact refl ..

theorem undo_host (s : State) (w : LogW) : (s.undo w).host = s.host := by
  unfold State.undo
  split
  · exact tblFree_host ..
  · split
    · exact tblPut_host ..
    · rfl

theorem foldl_undo_host (l : List LogW) (s : State) : (l.foldl State.undo s).host = s.host := by
  induction l generalizing s with
  | nil => rfl
  | cons w l ih => exact (ih _).trans (undo_host s w)

theorem Within.undone (s : State) (sl : Nat) :
    Within [.tables, .ras] [.SLC_USAGE_em_used, .SLC_USAGE_tcam_used, .SLC_USAGE_log_used] s (s.undone sl) :=
  ((foldl undo _ s).setPlog ..).setDlog ..

theorem undone_host (s : State) (sl : Nat) : (s.undone sl).host = s.host := foldl_undo_host _ s

theorem undone_plog (s : State) (sl : Nat) : (s.undone sl).plog sl = [] := (setDlog_plog ..).trans (setPlog_plog ..)

theorem undone_logUsed (s : State) (sl : Nat) (h : Half) : (s.undone sl).rd .SLC_USAGE_log_used [h.n, sl] = 0 := by
  unfold State.undone
  rw [setDlog_rd, rd_setPlog_log]
  rfl

/-- An abort of a log of one write undoes that write. -/
theorem tblAt_undone_single {s : State} {sl : Nat} {w : LogW} (h : s.plog sl = [w]) (c : Bool) (k : List Nat) :
    (s.undone sl).tblAt c k = (s.undo w).tblAt c k := by
  unfold State.undone
  rw [h]
  rfl

theorem tblAt_undo_add {s : State} {w : LogW} (h : w.kind = 0) : (s.undo w).tblAt w.tcam w.place = none := by
  unfold State.undo
  rw [if_pos h, tblAt_tblFree, if_pos ⟨rfl, rfl⟩]

theorem tblAt_undo_close {s : State} {w : LogW} {e : Ent} (h : w.kind ≠ 0) (he : s.tblAt w.tcam w.place = some e) :
    (s.undo w).tblAt w.tcam w.place = some { e with opn := true } := by
  unfold State.undo
  rw [if_neg h, he]
  dsimp only
  rw [tblAt_tblPut, if_pos ⟨rfl, rfl⟩]

theorem exec_sliceAbort {s : State} {d : Hdr} (hs : served s d ⟨0x13, .config, true, true, 0⟩ (ownSlice d d.slice) (cleanHdr d true false false))
    (hd : due s (.sliceAbort d)) :
    exec (.sliceAbort d) s = .next (settle (((s.descRun d).undone d.slice).complete d 0 0 (s.plog d.slice).length)) := by
  refine (doneDesc_of_served _ (hd d rfl) hs).trans ?_
  rw [abortSlice_eq, plog_congr (congrArg Tables.plog (descRun_tables s d))]
  rfl

/-- Settles O6: the three outcomes of SLICE_COMMIT, and SLICE_ABORT with a log of one exact-match write. -/
theorem sliceCommitAndAbort : Obligations.SliceCommitAndAbort := by
  unfold Obligations.SliceCommitAndAbort
  refine ⟨sliceCommit_cases, fun s d hs hd => ?_⟩
  have ran : (s.descRun d).tables = s.tables := descRun_tables s d
  have log : (s.descRun d).plog d.slice = s.plog d.slice := plog_congr (congrArg Tables.plog ran) _
  have undone := (Within.descRun _ _ s d).trans (.undone (s.descRun d) d.slice)
  obtain ⟨done, parts, fields⟩ := completed_of_after undone (congrArg HostIf.cpls (undone_host ..) |>.trans (descRun_cpls s d)) 0 0 (s.plog d.slice).length
  have after : ∀ w, s.plog d.slice = [w] → ∀ c k,
      (settle (((s.descRun d).undone d.slice).complete d 0 0 (s.plog d.slice).length)).tblAt c k = ((s.descRun d).undo w).tblAt c k := fun w hw c k => by
    rw [tblAt_settle_complete, tblAt_undone_single (log.trans hw)]
  refine ⟨_, exec_sliceAbort hs hd, done, ?_, fun h => ?_, parts, fields, fun place e b hl he => ?_, fun place e b hl he => ?_⟩
  · rw [plog_settle_complete, undone_plog]
  · exact (rd_completeX _ _ _ _ _ _ rfl).trans (undone_logUsed ..)
  · exact (after _ hl false place).trans (tblAt_undo_add (w := ⟨0, false, place, b⟩) rfl)
  · refine (after _ hl false place).trans (tblAt_undo_close (w := ⟨1, false, place, b⟩) Nat.one_ne_zero ?_)
    rw [tblAt_congr ran]
    exact he

end Sys2Proof.Machine

namespace Sys2Proof.Machine

/-! ## Table words written where no word has an error -/

theorem foldl_eccClearAt_clean {s : State} (hp : s.ras.poison = []) (l : List Nat) (f : Nat → Half) (g : Nat → Nat) (c : Nat) (a : List Nat) :
    l.foldl (fun (s : State) p => s.eccClearAt (f p) c (g p) a) s = s := by
  have one : ∀ h i, s.eccClearAt h c i a = s := fun h i => by
    have same : s.ras.poison.erase [c, h.n, i, (Config.eccPlace c a).1, (Config.eccPlace c a).2] = s.ras.poison := by rw [hp]; rfl
    unfold State.eccClearAt State.eccClear
    dsimp only
    rw [same]
  induction l with
  | nil => rfl
  | cons p l ih => rw [List.foldl_cons, one, ih]

/-- Where no word has an error a write of a table word changes the tables alone. -/
theorem Within.tblPut_clean {s : State} (hp : s.ras.poison = []) (tcam : Bool) (place : List Nat) (e : Option Ent) :
    Within [.tables] [] s (s.tblPut tcam place e) := by
  have cleared : Within [.tables] [] s (if tcam then s.upsetClear place else s) := .ite _ ((refl _ _ s).set_tables _) (refl _ _ s)
  have clean : (if tcam then s.upsetClear place else s).ras.poison = [] := by cases tcam <;> exact hp
  unfold State.tblPut
  dsimp only
  rw [foldl_eccClearAt_clean clean]
  cases e <;> exact .ite _ (cleared.set_tables _) (cleared.set_tables _)

/-- The fields that the freeing of entries changes (R79). -/
def usageFlds : List Fld := [.SLC_USAGE_em_used, .SLC_USAGE_tcam_used]

theorem usedFld_mem (tcam : Bool) : usedFld tcam ∈ usageFlds := by cases tcam <;> decide

theorem Within.tblFree_clean {s : State} (hp : s.ras.poison = []) (tcam : Bool) (place : List Nat) : Within [.tables] usageFlds s (s.tblFree tcam place) := by
  cases hx : s.tblAt tcam place with
  | none =>
    unfold State.tblFree
    rw [hx]
    exact refl ..
  | some e =>
    have counted : Within [.tables] usageFlds s (s.usage (usedFld tcam) e.slice (if tcam ∧ e.wide then 2 else 1) false) :=
      (refl _ _ s).usage _ _ _ (usedFld_mem tcam)
    have clean : (s.usage (usedFld tcam) e.slice (if tcam ∧ e.wide then 2 else 1) false).ras.poison = [] := by rw [counted.ras, hp]
    rw [tblFree_eq hx]
    exact counted.trans ((tblPut_clean clean tcam place none).mono (by simp) (by simp))

/-! ## GEN_RETIRE -/

/-- The window of a place's entry ends at a generation, so that its retirement reclaims the entry (R87). -/
def State.endsAt (s : State) (o : Nat) (w : LogW) : Bool :=
  match s.tblAt w.tcam w.place with
  | some e => !e.opn && decide (e.genHi = o % 256)
  | none => false

/-- What the retirement of a generation makes of an entry that its log names (R87). -/
def Ent.retired (o : Nat) (e : Ent) : Option Ent :=
  if (!e.opn && decide (e.genHi = o % 256)) = true then none
  else if e.genLo = (o + 1) % 256 then some { e with settled := true }
  else some e

/-- The places of its kind that an entry counts for in the usage of its slice (R79). -/
def Ent.cost (e : Ent) (tcam : Bool) : Nat := if tcam = true ∧ e.wide = true then 2 else 1

theorem tblFree_used {s : State} {tcam : Bool} {place : List Nat} {e : Ent} (he : s.tblAt tcam place = some e) (h : Half) :
    (s.tblFree tcam place).rd (usedFld tcam) [h.n, e.slice] = (s.rd (usedFld tcam) [h.n, e.slice] - e.cost tcam) % 2 ^ (usedFld tcam).info.w := by
  rw [tblFree_eq he, tblPut_rd]
  exact rd_usage_half ..

/-- What the retirement does to one place, and what it leaves (R87). -/
structure Retires (o : Nat) (w : LogW) (s : State) (x : Bool × State) : Prop where
  within : Within [.tables] usageFlds s x.2
  reclaimed : x.1 = s.endsAt o w
  tblAt : ∀ c k, x.2.tblAt c k = if c = w.tcam ∧ k = w.place then (s.tblAt c k).bind (Ent.retired o) else s.tblAt c k
  used : x.1 = true → ∀ e, s.tblAt w.tcam w.place = some e → ∀ h : Half,
    x.2.rd (usedFld w.tcam) [h.n, e.slice] = (s.rd (usedFld w.tcam) [h.n, e.slice] - e.cost w.tcam) % 2 ^ (usedFld w.tcam).info.w

theorem endsAt_eq {s : State} {o : Nat} {w : LogW} {e : Ent} (h : s.tblAt w.tcam w.place = some e) :
    s.endsAt o w = (!e.opn && decide (e.genHi = o % 256)) := by
  unfold State.endsAt
  rw [h]

/-- A retirement that leaves an entry, or none, at the place that its write names. -/
theorem Retires.intro {o : Nat} {w : LogW} {s t : State} {b : Bool} {y : Option Ent} (within : Within [.tables] usageFlds s t) (hb : b = s.endsAt o w)
    (hy : y = (s.tblAt w.tcam w.place).bind (Ent.retired o)) (ht : ∀ c k, t.tblAt c k = if c = w.tcam ∧ k = w.place then y else s.tblAt c k)
    (hu : b = true → ∀ e, s.tblAt w.tcam w.place = some e → ∀ h : Half,
      t.rd (usedFld w.tcam) [h.n, e.slice] = (s.rd (usedFld w.tcam) [h.n, e.slice] - e.cost w.tcam) % 2 ^ (usedFld w.tcam).info.w) :
    Retires o w s (b, t) := by
  refine ⟨within, hb, fun c k => ?_, hu⟩
  rw [ht c k]
  split
  · rename_i here
    rw [hy, here.1, here.2]
  · rfl

theorem retireWrite_retires {s : State} (hp : s.ras.poison = []) (hx : s.xingBusy s.owner 3 0 = false) (o : Nat) (w : LogW) :
    Retires o w s (s.retireWrite o w) := by
  have read := (Reports.refl s).dma s.owner (s.engEv s.owner 3 none) 1 (tblAddr w.tcam w.place) 0
  unfold State.retireWrite
  dsimp only
  rw [eccReadAt_clean (by rw [read.ras, hp])]
  dsimp only
  generalize s.dma s.owner (s.engEv s.owner 3 none) 1 (tblAddr w.tcam w.place) 0 = u at read ⊢
  have same : ∀ c k, u.tblAt c k = s.tblAt c k := tblAt_congr read.tables
  have clean : u.ras.poison = [] := by rw [read.ras, hp]
  have free : u.xingBusy s.owner 3 0 = false := by rw [xingBusy_congr read.ras, hx]
  have told : Within [.tables] usageFlds s u := (Within.refl _ _ s).report read
  have stays : ∀ c k, u.tblAt c k = if c = w.tcam ∧ k = w.place then s.tblAt w.tcam w.place else s.tblAt c k := fun c k => by
    rw [same]
    split
    · rename_i here
      rw [here.1, here.2]
    · rfl
  have counted : ∀ v : State, Reports v (v.dma s.owner (s.engEv s.owner 3 none) 1 (tblAddr w.tcam w.place) 1) := fun v => (Reports.refl v).dma ..
  rw [same]
  cases he : s.tblAt w.tcam w.place with
  | none =>
    refine .intro told (by unfold State.endsAt; rw [he]) (by rw [he]; rfl) stays (by simp)
  | some e =>
    dsimp only
    rw [tblSend_free free, tblSend_free free]
    by_cases ends : ¬ e.opn = true ∧ e.genHi = o % 256
    · rw [if_pos ends]
      have gone : (!e.opn && decide (e.genHi = o % 256)) = true := by simpa using ends
      refine .intro (y := none) ((told.trans (.tblFree_clean clean ..)).report (counted _)) ((endsAt_eq he).trans gone).symm ?_ (fun c k => ?_) fun _ x hx h => ?_
      · rw [he, Option.bind_some, Ent.retired, if_pos gone]
      · rw [tblAt_congr (counted _).tables, tblAt_tblFree, same]
      · rw [(counted _).rd _ _ (reported_usedFld ..), tblFree_used ((same ..).trans hx), read.rd _ _ (reported_usedFld ..)]
    · have stands : (!e.opn && decide (e.genHi = o % 256)) = false := by simpa using ends
      rw [if_neg ends]
      by_cases begins : e.genLo = (o + 1) % 256
      · rw [if_pos begins]
        refine .intro (y := some { e with settled := true }) ((told.trans ((Within.tblPut_clean clean ..).mono (by simp) (by simp))).report (counted _)) ((endsAt_eq he).trans stands).symm ?_ (fun c k => ?_) (by simp)
        · rw [he, Option.bind_some, Ent.retired, if_neg (by simp [stands]), if_pos begins]
        · rw [tblAt_congr (counted _).tables, tblAt_tblPut, same]
      · rw [if_neg begins]
        refine .intro told ((endsAt_eq he).trans stands).symm ?_ stays (by simp)
        rw [he, Option.bind_some, Ent.retired, if_neg (by simp [stands]), if_neg begins]

/-- The writes of a log retired in order: the entries reclaimed, and the state (R87). -/
def State.retireLog (s : State) (o : Nat) (log : List LogW) : Nat × State :=
  log.foldl (fun (a : Nat × State) w => let x := a.2.retireWrite o w; (a.1 + b2n x.1, x.2)) (0, s)

theorem retireLog_nil (s : State) (o : Nat) : s.retireLog o [] = (0, s) := rfl

theorem retireLog_cons (s : State) (o : Nat) (w : LogW) (log : List LogW) : s.retireLog o (w :: log)
    = (b2n (s.retireWrite o w).1 + ((s.retireWrite o w).2.retireLog o log).1, ((s.retireWrite o w).2.retireLog o log).2) := by
  have start : ∀ (log : List LogW) (n : Nat) (s : State), log.foldl (fun (a : Nat × State) w => let x := a.2.retireWrite o w; (a.1 + b2n x.1, x.2)) (n, s)
      = (n + (s.retireLog o log).1, (s.retireLog o log).2) := by
    intro log
    induction log with
    | nil => exact fun _ _ => rfl
    | cons w log ih =>
      intro n s
      unfold State.retireLog
      rw [List.foldl_cons, List.foldl_cons]
      dsimp only
      rw [ih, ih, Nat.zero_add, Nat.add_assoc]
  unfold State.retireLog
  rw [List.foldl_cons]
  dsimp only
  rw [start, Nat.zero_add]
  rfl

theorem Within.retireLog {s : State} (hp : s.ras.poison = []) (hx : s.xingBusy s.owner 3 0 = false) (o : Nat) (log : List LogW) :
    Within [.tables] usageFlds s (s.retireLog o log).2 := by
  induction log generalizing s with
  | nil => exact refl ..
  | cons w log ih =>
    have one := (retireWrite_retires hp hx o w).within
    rw [retireLog_cons]
    exact one.trans (ih (by rw [one.ras, hp]) (by rw [xingBusy_congr one.ras, one.owner, hx]))

/-- The places that a log names. -/
def places (log : List LogW) : List (Bool × List Nat) := log.map (fun w => (w.tcam, w.place))

theorem mem_places {w : LogW} {log : List LogW} (h : w ∈ log) : (w.tcam, w.place) ∈ places log := List.mem_map_of_mem h

theorem mem_places_cons (w : LogW) (log : List LogW) (c : Bool) (k : List Nat) :
    (c, k) ∈ places (w :: log) ↔ (c = w.tcam ∧ k = w.place) ∨ (c, k) ∈ places log := by simp [places]

/-- Where a log names each place once, its retirement reclaims and settles the entries as they stood (R87). -/
theorem retireLog_of_nodup {s : State} (hp : s.ras.poison = []) (hx : s.xingBusy s.owner 3 0 = false) (o : Nat) {log : List LogW} (hd : (places log).Nodup) :
    (s.retireLog o log).1 = (log.filter (s.endsAt o)).length
      ∧ ∀ c k, (s.retireLog o log).2.tblAt c k = if (c, k) ∈ places log then (s.tblAt c k).bind (Ent.retired o) else s.tblAt c k := by
  induction log generalizing s with
  | nil => exact ⟨rfl, fun c k => by simp [places, retireLog_nil]⟩
  | cons w log ih =>
    obtain ⟨fresh, hd⟩ : (w.tcam, w.place) ∉ places log ∧ (places log).Nodup := by simpa [places] using hd
    have one := retireWrite_retires hp hx o w
    obtain ⟨count, after⟩ := ih (s := (s.retireWrite o w).2) (by rw [one.within.ras, hp]) (by rw [xingBusy_congr one.within.ras, one.within.owner, hx]) hd
    have apart : ∀ c k, (c, k) ∈ places log → (s.retireWrite o w).2.tblAt c k = s.tblAt c k := fun c k hk => by
      rw [one.tblAt, if_neg]
      rintro ⟨rfl, rfl⟩
      exact fresh hk
    have ends : log.filter ((s.retireWrite o w).2.endsAt o) = log.filter (s.endsAt o) := by
      refine List.filter_congr fun x hx => ?_
      unfold State.endsAt
      rw [apart _ _ (mem_places hx)]
    rw [retireLog_cons]
    refine ⟨?_, fun c k => ?_⟩
    · rw [count, ends, one.reclaimed, List.filter_cons]
      cases s.endsAt o w <;> simp [b2n, Nat.add_comm]
    · rw [after]
      simp only [mem_places_cons]
      by_cases hk : (c, k) ∈ places log
      · rw [if_pos hk, if_pos (.inr hk), apart c k hk]
      · rw [if_neg hk, one.tblAt]
        exact if_congr (by simp [hk]) rfl rfl

/-- The retirement's end: the log is discarded, O rises in both halves, and the reclaimed entries are counted and reported (R87). -/
def State.genRetired (s : State) (sl o n count : Nat) (h : Half) : State :=
  let s := { s with tables := { s.tables with clog := s.tables.clog.erase [sl, n] } }
  let s := halves.foldl (fun s x => s.sts [(.SLC_GEN_oldest_live, [x.n, sl], n), (.SLC_GEN_retiring, [x.n, sl], 0)]) s
  let s := s.bump .SLC_CNT_v [h.n, sl, 2] count
  if s.on .SLC_GEN_evt_retired [h.n, sl] then s.raise 0x0010 h.n [(0, 1, sl), (2, 2, o), (4, 2, n), (8, 4, count)] (some (sl + 1)) else s

/-- A retirement in progress shows in both halves (R87). -/
def State.retireShown (s : State) (sl : Nat) : State := halves.foldl (fun s x => s.st .SLC_GEN_retiring [x.n, sl] 1) s

theorem retireGen_eq (s : State) (sl : Nat) :
    s.retireGen sl = (((s.retireShown sl).retireLog (s.genO sl) (s.tables.clog.getD [sl, (s.genO sl + 1) % 65536] [])).2.genRetired sl (s.genO sl)
      ((s.genO sl + 1) % 65536) ((s.retireShown sl).retireLog (s.genO sl) (s.tables.clog.getD [sl, (s.genO sl + 1) % 65536] [])).1 s.owner) := rfl

theorem Within.retireShown (s : State) (sl : Nat) : Within [] [.SLC_GEN_retiring] s (s.retireShown sl) := .foldl (fun t _ => (refl _ _ t).st _ _) _ s

/-- The fields that the end of a retirement changes. -/
def genEndFlds : List Fld := [.SLC_GEN_oldest_live, .SLC_GEN_retiring, .SLC_CNT_v]

/-- The state of a retirement's end before its event is raised. -/
def State.genCounted (s : State) (sl n count : Nat) (h : Half) : State :=
  (halves.foldl (fun (s : State) x => s.sts [(.SLC_GEN_oldest_live, [x.n, sl], n), (.SLC_GEN_retiring, [x.n, sl], 0)])
    { s with tables := { s.tables with clog := s.tables.clog.erase [sl, n] } }).bump .SLC_CNT_v [h.n, sl, 2] count

theorem genRetired_reports (s : State) (sl o n count : Nat) (h : Half) : Reports (s.genCounted sl n count h) (s.genRetired sl o n count h) :=
  Reports.ite _ ((Reports.refl _).raise ..) (.refl _)

theorem Within.genCounted (s : State) (sl n count : Nat) (h : Half) : Within [.tables] genEndFlds s (s.genCounted sl n count h) := by
  have discarded := (refl [.tables] genEndFlds s).set_tables { s.tables with clog := s.tables.clog.erase [sl, n] }
  exact (discarded.trans (.foldl (fun t _ => (refl _ _ t).sts _ (by simp [genEndFlds])) _ _)).bump _ _

theorem genCounted_tables (s : State) (sl n count : Nat) (h : Half) : (s.genCounted sl n count h).tables = { s.tables with clog := s.tables.clog.erase [sl, n] } := rfl

theorem genCounted_oldest (s : State) (sl count : Nat) {n : Nat} (hn : n < 65536) (h x : Half) :
    (s.genCounted sl n count h).rd .SLC_GEN_oldest_live [x.n, sl] = n := by
  have fit : n % 2 ^ Fld.SLC_GEN_oldest_live.info.w = n := Nat.mod_eq_of_lt hn
  cases x <;> simp [State.genCounted, halves, State.sts, rd_bump, rd_st, Half.n, fit]

theorem genCounted_count (s : State) (sl n count : Nat) (h : Half) :
    (s.genCounted sl n count h).rd .SLC_CNT_v [h.n, sl, 2] = (s.rd .SLC_CNT_v [h.n, sl, 2] + count) % 2 ^ 64 := by
  unfold State.genCounted
  rw [rd_bump, if_pos ⟨rfl, rfl⟩]
  simp [halves, State.sts, rd_st]
  rfl

/-- GEN_RETIRE of a generation that is drained retires it (R87). -/
theorem doGenRetire_of_drained {s : State} {sl : Nat} (hg : ∀ h : Half, s.rd .SLC_GEN_cur_gen [h.n, sl] ≠ s.genO sl)
    (hc : ∀ h : Half, s.rd .SLC_REFCNT_count [h.n, sl, s.genO sl % 4] = 0) (hu : s.unresolved = false) (hs : s.serves s.owner 3 (retireBody sl) = true) :
    doGenRetire sl s = (s.takeWork s.owner 3 (retireBody sl)).retireGen sl := by
  have drained : ¬ (halves.any (fun x => s.rd .SLC_GEN_cur_gen [x.n, sl] = s.genO sl) = true
      ∨ halves.any (fun x => s.on .SLC_REFCNT_count [x.n, sl, s.genO sl % 4]) = true ∨ s.unresolved = true) := by
    simp [halves, State.on, hg, hc, hu]
  unfold doGenRetire
  dsimp only
  rw [if_neg drained, viaRoutine_of_serves _ hs]

/-- Where a frame still holds the generation, or a half is UNRESOLVED, nothing is retired (R87). -/
theorem doGenRetire_of_held {s : State} {sl : Nat} (h : ∃ h : Half, s.rd .SLC_REFCNT_count [h.n, sl, s.genO sl % 4] ≠ 0) : doGenRetire sl s = s := by
  obtain ⟨x, hx⟩ := h
  have used : halves.any (fun x => s.on .SLC_REFCNT_count [x.n, sl, s.genO sl % 4]) = true := by
    rw [List.any_eq_true]
    exact ⟨x, by cases x <;> simp [halves], by simp [State.on, hx]⟩
  exact if_pos (.inr (.inl used))

/-- The state in which a retirement goes through its log: reports, and the mark that it runs. -/
theorem retireShown_ready {s u : State} (h : Reports s u) (sl : Nat) : Within [] [.SLC_GEN_retiring] s (u.retireShown sl) :=
  ((Within.refl _ _ s).report h).trans (.retireShown u sl)

theorem endsAt_congr {s t : State} (h : t.tables = s.tables) (o : Nat) (w : LogW) : t.endsAt o w = s.endsAt o w := by
  unfold State.endsAt
  rw [tblAt_congr h]

/-- GEN_RETIRE of a drained generation, as the retirement of its log and the end that follows (R87). -/
theorem exec_genRetire {s : State} {sl : Nat} (hg : ∀ h : Half, s.rd .SLC_GEN_cur_gen [h.n, sl] ≠ s.genO sl)
    (hc : ∀ h : Half, s.rd .SLC_REFCNT_count [h.n, sl, s.genO sl % 4] = 0) (hu : s.unresolved = false) (hs : s.serves s.owner 3 (retireBody sl) = true) :
    ∃ v, Within [] [.SLC_GEN_retiring] s v ∧ exec (.genRetire sl) s = .next (settle
      ((v.retireLog (s.genO sl) (s.tables.clog.getD [sl, (s.genO sl + 1) % 65536] [])).2.genRetired sl (s.genO sl) ((s.genO sl + 1) % 65536)
        (v.retireLog (s.genO sl) (s.tables.clog.getD [sl, (s.genO sl + 1) % 65536] [])).1 s.owner)) := by
  have taken := (Reports.refl s).takeWork s.owner 3 (retireBody sl)
  refine ⟨_, retireShown_ready taken sl, congrArg done ((doGenRetire_of_drained hg hc hu hs).trans ?_)⟩
  rw [retireGen_eq, taken.within.genO, taken.within.owner, taken.tables]

/-- What a retirement does to the state: its log goes, O rises, and the reclaimed entries are counted (R87). -/
structure GenRetired (s t : State) (sl : Nat) (log : List LogW) : Prop where
  within : Within [.tables] (usageFlds ++ genEndFlds) s t
  oldest : ∀ h : Half, t.rd .SLC_GEN_oldest_live [h.n, sl] = (s.genO sl + 1) % 65536
  discarded : t.tables.clog.get? [sl, (s.genO sl + 1) % 65536] = none
  tblAt : (places log).Nodup → ∀ c k, t.tblAt c k = if (c, k) ∈ places log then (s.tblAt c k).bind (Ent.retired (s.genO sl)) else s.tblAt c k
  count : (places log).Nodup →
    t.rd .SLC_CNT_v [s.owner.n, sl, 2] = (s.rd .SLC_CNT_v [s.owner.n, sl, 2] + (log.filter (s.endsAt (s.genO sl))).length) % 2 ^ 64
  used : ∀ w e, log = [w] → s.endsAt (s.genO sl) w = true → s.tblAt w.tcam w.place = some e → ∀ h : Half,
    t.rd (usedFld w.tcam) [h.n, e.slice] = (s.rd (usedFld w.tcam) [h.n, e.slice] - e.cost w.tcam) % 2 ^ (usedFld w.tcam).info.w

theorem usedFld_width (tcam : Bool) : (usedFld tcam).info.w = if tcam then 17 else 18 := by cases tcam <;> rfl

theorem usedFld_apart (tcam : Bool) : usedFld tcam ∉ genEndFlds ∧ usedFld tcam ∉ [Fld.SLC_GEN_retiring] := by cases tcam <;> decide

theorem genRetire_drained {s : State} {sl : Nat} (hg : ∀ h : Half, s.rd .SLC_GEN_cur_gen [h.n, sl] ≠ s.genO sl)
    (hc : ∀ h : Half, s.rd .SLC_REFCNT_count [h.n, sl, s.genO sl % 4] = 0) (hu : s.unresolved = false) (hs : s.serves s.owner 3 (retireBody sl) = true)
    (hx : s.xingBusy s.owner 3 0 = false) (hp : s.ras.poison = []) :
    ∃ t, exec (.genRetire sl) s = .next t ∧ GenRetired s t sl (s.tables.clog.getD [sl, (s.genO sl + 1) % 65536] []) := by
  obtain ⟨v, shown, run⟩ := exec_genRetire hg hc hu hs
  refine ⟨_, run, ?_⟩
  generalize s.tables.clog.getD [sl, (s.genO sl + 1) % 65536] [] = log
  have clean : v.ras.poison = [] := by rw [shown.ras, hp]
  have free : v.xingBusy v.owner 3 0 = false := by rw [xingBusy_congr shown.ras, shown.owner, hx]
  have logged := Within.retireLog clean free (s.genO sl) log
  have single : ∀ w e, log = [w] → s.endsAt (s.genO sl) w = true → s.tblAt w.tcam w.place = some e → ∀ h : Half,
      (v.retireLog (s.genO sl) log).2.rd (usedFld w.tcam) [h.n, e.slice]
        = (s.rd (usedFld w.tcam) [h.n, e.slice] - e.cost w.tcam) % 2 ^ (usedFld w.tcam).info.w := by
    rintro w e rfl hends he h
    have one := retireWrite_retires clean free (s.genO sl) w
    rw [retireLog_cons, retireLog_nil, one.used (by rw [one.reclaimed, endsAt_congr shown.tables, hends]) e (by rw [tblAt_congr shown.tables, he]) h,
      shown.rd _ _ (usedFld_apart _).2 (reported_usedFld ..)]
  have retired := fun hd => retireLog_of_nodup (log := log) clean free (s.genO sl) hd
  generalize v.retireLog (s.genO sl) log = x at logged single retired ⊢
  have counted := Within.genCounted x.2 sl ((s.genO sl + 1) % 65536) x.1 s.owner
  have told := genRetired_reports x.2 sl (s.genO sl) ((s.genO sl + 1) % 65536) x.1 s.owner
  have tables := told.tables.trans (genCounted_tables x.2 sl ((s.genO sl + 1) % 65536) x.1 s.owner)
  refine ⟨?_, fun h => ?_, ?_, fun hd c k => ?_, fun hd => ?_, fun w e hw hends he h => ?_⟩
  · have wide : Within [.tables] (usageFlds ++ genEndFlds) s v := shown.mono
    exact (((wide.andThen logged).andThen counted).report told).settle
  · exact (told.rd _ _ rfl).trans (genCounted_oldest x.2 sl x.1 (Nat.mod_lt _ (by decide)) s.owner h)
  · rw [settle_tables, tables]
    simp [SMap.get?_erase]
  · have same : (settle (x.2.genRetired sl (s.genO sl) ((s.genO sl + 1) % 65536) x.1 s.owner)).tblAt c k = x.2.tblAt c k := by
      rw [settle_tblAt]
      unfold State.tblAt
      rw [tables]
    rw [same, (retired hd).2, tblAt_congr shown.tables]
  · have ends : v.endsAt (s.genO sl) = s.endsAt (s.genO sl) := funext fun w => endsAt_congr shown.tables _ w
    refine (told.rd _ _ rfl).trans ?_
    rw [genCounted_count, (retired hd).1, ends, logged.rd _ _, shown.rd _ _]
  · refine (told.rd _ _ (reported_usedFld ..)).trans ?_
    rw [counted.rd _ _ (usedFld_apart _).1 (reported_usedFld ..), single w e hw hends he h]

/-- The first release message toward a half applied (R86). -/
def State.refReleased (s : State) (h : Half) (m : Half × Nat × Nat) : State :=
  { s with tables := { s.tables with refRel := s.tables.refRel.erase m } }.lower .SLC_REFCNT_count [h.n, m.2.1, m.2.2] 1

theorem exec_refcntRelease {s : State} {h : Half} {m : Half × Nat × Nat} (hu : s.unresolved = false)
    (hm : s.tables.refRel.find? (fun m => m.1 = h) = some m) : exec (.refcntRelease h) s = .next (settle (s.refReleased h m)) := by
  refine congrArg done ?_
  unfold doRefcntRelease
  rw [if_neg (by simp [hu]), hm]
  rfl

/-- Settles O7: the retirement of a drained generation, the generation that a frame still holds, and the release messages. -/
theorem generationsAndReferences : Obligations.GenerationsAndReferences := by
  unfold Obligations.GenerationsAndReferences
  refine ⟨?_, fun s h => ⟨fun m hu hm => ?release, fun hu => ?unresolved⟩⟩
  · rintro s sl log ends rfl hends
    refine ⟨fun hg hc hu hs hx hp => ?drained, fun held => ?held⟩
    case drained =>
      obtain rfl : ends = s.endsAt (s.genO sl) := hends
      obtain ⟨t, run, ret⟩ := genRetire_drained hg hc hu hs hx hp
      refine ⟨t, run, ret.oldest, ret.discarded, fun hd => ⟨fun w hw e he => ?_, fun c k hk => ?_, ret.count hd⟩, fun w e hl hw he h => ?_,
        partsBut_mono ret.within.parts (by simp), fieldsBut_mono ret.within.fields (by decide)⟩
      · rw [ret.tblAt hd, if_pos (mem_places hw), he, endsAt_eq he]
        rfl
      · exact (ret.tblAt hd c k).trans (if_neg hk)
      · have used := ret.used w e hl hw he h
        rw [usedFld_width] at used
        cases hw : w.tcam <;> simpa [hw, usedFld, Ent.cost] using used
    case held => exact ⟨_, congrArg done (doGenRetire_of_held held), (Within.refl [] [] s).settle.parts, (Within.refl [] [] s).settle.fields⟩
  case release =>
    have all : Within [.tables] [.SLC_REFCNT_count] s (settle (s.refReleased h m)) := (((Within.refl _ _ s).set_tables _).lower _ _).settle
    refine ⟨_, exec_refcntRelease hu hm, ?_, rfl, all.parts, all.fields⟩
    exact (rd_lower ..).trans (if_pos ⟨rfl, rfl⟩)
  case unresolved => exact ⟨_, congrArg done (if_pos hu), (Within.refl [] [] s).settle.parts, (Within.refl [] [] s).settle.fields⟩

end Sys2Proof.Machine

namespace Sys2Proof.Machine

/-! ## PROG_LOAD -/

/-- The parts and fields of the two program copies (R88, R89). -/
def progParts : List Part := [.progA, .progB]
def progFlds : List Fld := [.MAT_PROG_CTL_a_loaded, .MAT_PROG_CTL_b_loaded, .MAT_PROG_DIGEST_v]

theorem Within.setProg (s : State) (c : Nat) (p : Prog) : Within progParts progFlds s (s.setProg c p) := by
  have copies : Within progParts progFlds s (if c = 0 then { s with progA := p } else { s with progB := p }) :=
    .ite _ ⟨partsBut_set_progA (partsBut_refl _ s) (by decide) p, fieldsBut_refl _ s⟩ ⟨partsBut_set_progB (partsBut_refl _ s) (by decide) p, fieldsBut_refl _ s⟩
  unfold State.setProg
  dsimp only
  refine (copies.st _ _ ?_).st _ _
  split <;> decide

theorem setProg_host (s : State) (c : Nat) (p : Prog) : (s.setProg c p).host = s.host := by
  unfold State.setProg
  split <;> rfl

theorem prog_setProg (s : State) {c x : Nat} (hc : c < 2) (hx : x < 2) (p : Prog) : (s.setProg c p).prog x = if x = c then p else s.prog x := by
  interval_cases c <;> interval_cases x <;> rfl

/-- A copy replaced, whatever stood in it. -/
theorem prog_setProg_self (s : State) {c : Nat} (hc : c < 2) (p : Prog) : (s.setProg c p).prog c = p := by
  rw [prog_setProg s hc hc, if_pos rfl]

theorem prog_setProg_other (s : State) {c : Nat} (hc : c < 2) (p : Prog) : (s.setProg c p).prog (1 - c) = s.prog (1 - c) := by
  rw [prog_setProg s hc (by omega), if_neg (by omega)]

/-- What a load leaves: the copy replaced, and the other as it was (R89). -/
structure Installed (s t : State) (c : Nat) (p : Prog) : Prop where
  within : Within progParts progFlds s t
  cpls : t.host.cpls = s.host.cpls
  copy : t.prog c = p
  other : t.prog (1 - c) = s.prog (1 - c)

theorem setProg_installed (s : State) {c : Nat} (hc : c < 2) (p : Prog) : Installed s (s.setProg c p) c p :=
  ⟨.setProg s c p, by rw [setProg_host], prog_setProg_self s hc p, prog_setProg_other s hc p⟩

theorem Installed.trans {s t u : State} {c : Nat} {p q : Prog} (h : Installed s t c p) (k : Installed t u c q) : Installed s u c q :=
  ⟨h.within.trans k.within, k.cpls.trans h.cpls, k.copy, k.other.trans h.other⟩

/-- The statuses of an object that fails its checks, or whose table maps disagree with the other copy's, and of one that loads (R89). -/
theorem progInstall_of_invalid (s : State) (c : Nat) {bs : List Byte} (h : progParse bs = none) : s.progInstall c bs = (0x1A, s.setProg c Prog.empty) := by
  unfold State.progInstall
  rw [h]

theorem progInstall_of_conflict {s : State} {c : Nat} (hc : c < 2) {bs : List Byte} {p : Prog} (h : progParse bs = some p)
    (ho : (s.prog (1 - c)).loaded = true) (ha : layoutsAgree p (s.prog (1 - c)) = false) : s.progInstall c bs = (0x1B, s.setProg c Prog.empty) := by
  unfold State.progInstall
  rw [h]
  dsimp only
  rw [prog_setProg_other s hc, if_pos (by simp [ho, ha])]

theorem progInstall_of_fits {s : State} {c : Nat} (hc : c < 2) {bs : List Byte} {p : Prog} (h : progParse bs = some p)
    (ha : (s.prog (1 - c)).loaded = true → layoutsAgree p (s.prog (1 - c)) = true) :
    s.progInstall c bs = (0, (s.setProg c Prog.empty).setProg c p) := by
  unfold State.progInstall
  rw [h]
  dsimp only
  rw [prog_setProg_other s hc, if_neg (by simpa using ha)]
  rfl

theorem descRun_prog (s : State) (d : Hdr) (x : Nat) : (s.descRun d).prog x = s.prog x := by
  unfold State.prog
  rw [descRun_progA, descRun_progB]

/-- The work of a PROG_LOAD whose checks pass (R89, R90). -/
def State.loadCopy (s : State) (d : Hdr) (copy : Nat) : State :=
  (s.setProg copy Prog.empty).withBuf d fun bs =>
    let r := (s.setProg copy Prog.empty).progInstall copy bs
    if r.1 = stOk then r.2.ok d 0 else r.2.fail d r.1

theorem exec_progLoad {s : State} {d : Hdr} {copy : Nat} (hs : served s d ⟨0x18, .config, true, false, 0⟩ true (cleanHdr d false false true && decide (copy < 2)))
    (hsw : s.swap = none) (hd : due s (.progLoad d copy)) :
    exec (.progLoad d copy) s = .next (settle (if copy = s.active ∧ (s.prog copy).loaded = true then (s.descRun d).complete d 1 0x22 0
      else (s.descRun d).loadCopy d copy)) := by
  have run : Within [] [] s (s.descRun d) := .descRun [] [] s d
  have active : (s.descRun d).active = s.active := run.rd _ _
  refine (doneDesc_of_served _ (hd d rfl) hs).trans ?_
  rw [descRun_swap, hsw, active, descRun_prog, Option.isSome_none, if_neg Bool.false_ne_true]
  rfl

/-- A load whose object has been read, by the status that its installation gives. -/
theorem loadCopy_of_read {s u : State} {d : Hdr} {copy st : Nat} {bs : List Byte} (hb : d.buf = some bs)
    (hr : (s.setProg copy Prog.empty).progInstall copy bs = (st, u)) : s.loadCopy d copy = u.complete d st 0 0 := by
  unfold State.loadCopy State.withBuf
  rw [hb]
  dsimp only
  rw [hr]
  dsimp only
  split
  · rename_i ok
    rw [ok]
    rfl
  · rfl

/-- A load whose object cannot be read (R338). -/
theorem loadCopy_of_unread (s : State) {d : Hdr} (copy : Nat) (hb : d.buf = none) :
    s.loadCopy d copy = ((s.setProg copy Prog.empty).complete d 5 0 0).bump .HST_CNT_v [0, 3] 1 := by
  unfold State.loadCopy State.withBuf
  rw [hb]
  rfl

/-- The completion of a load, with what its copies hold; reports may follow. -/
theorem installed_completes {s u v : State} {d : Hdr} {c st : Nat} {p : Prog} (h : Installed (s.descRun d) u c p) (hv : Reports (u.complete d st 0 0) v) :
    completed s (settle v) d st 0 0 ∧ (settle v).prog c = p ∧ (settle v).prog (1 - c) = s.prog (1 - c) ∧ partsBut progParts s (settle v)
      ∧ fieldsBut progFlds s (settle v) := by
  have all : Within progParts progFlds s (settle v) := ((((Within.descRun _ _ s d).trans h.within).completeX d st 0 0 none).report hv).settle
  have kept : ∀ x, (settle v).prog x = u.prog x := fun x => by
    unfold State.prog
    rw [settle_progA, settle_progB, hv.progA, hv.progB, complete_def, completeX_progA, completeX_progB]
  refine ⟨?_, (kept c).trans h.copy, (kept _).trans (h.other.trans (descRun_prog ..)), all.parts, all.fields⟩
  rw [completed, settle_host, hv.cpls, complete_def, completeX_cpls, h.cpls, descRun_cpls]

theorem progLoad_unread {s : State} {d : Hdr} {copy : Nat}
    (hs : served s d ⟨0x18, .config, true, false, 0⟩ true (cleanHdr d false false true && decide (copy < 2))) (hsw : s.swap = none) (hb : d.buf = none)
    (hc : copy < 2) (hmay : copy = s.active → (s.prog copy).loaded = false) (hd : due s (.progLoad d copy)) :
    ∃ t, exec (.progLoad d copy) s = .next t ∧ completed s t d 5 0 0 ∧ t.prog copy = Prog.empty ∧ t.prog (1 - copy) = s.prog (1 - copy)
      ∧ partsBut progParts s t ∧ fieldsBut progFlds s t := by
  have run := exec_progLoad hs hsw hd
  rw [if_neg (fun h => by simp [hmay h.1] at h), loadCopy_of_unread _ copy hb] at run
  have counted := (Reports.refl (((s.descRun d).setProg copy Prog.empty).complete d 5 0 0)).then_bump (f := .HST_CNT_v) (ix := [0, 3]) (v := 1) rfl
  exact ⟨_, run, installed_completes (setProg_installed (s.descRun d) hc Prog.empty) counted⟩

/-- Settles O8: the object that loads, that fails its checks, that conflicts and that cannot be read, and the active copy. -/
theorem progLoad : Obligations.ProgLoad := by
  unfold Obligations.ProgLoad
  intro s d copy bs hs hsw hb
  obtain ⟨-, hc⟩ : cleanHdr d false false true = true ∧ copy < 2 := by simpa using (served_clean hs).1
  have emptied := setProg_installed (s.descRun d) hc Prog.empty
  have twice : Installed (s.descRun d) _ copy Prog.empty := emptied.trans (setProg_installed _ hc Prog.empty)
  have other : (((s.descRun d).setProg copy Prog.empty).prog (1 - copy)) = s.prog (1 - copy) := emptied.other.trans (descRun_prog ..)
  refine ⟨fun p hmay hp hagree hd => ?loads, fun hmay hp hd => ?invalid, fun p hmay hp hload hdis hd => ?conflict, fun hact hload hd => ?active,
    fun e he hmay hd => ?unread⟩
  case loads =>
    have run := exec_progLoad hs hsw hd
    rw [if_neg (fun h => by simp [hmay h.1] at h), loadCopy_of_read hb (progInstall_of_fits hc hp (by rwa [other]))] at run
    obtain ⟨done, copied, same, parts, fields⟩ := installed_completes (twice.trans (setProg_installed _ hc p)) (.refl _)
    exact ⟨_, run, done, copied, same, parts, fields⟩
  case invalid =>
    have run := exec_progLoad hs hsw hd
    rw [if_neg (fun h => by simp [hmay h.1] at h), loadCopy_of_read hb (progInstall_of_invalid _ _ hp)] at run
    obtain ⟨done, copied, same, -⟩ := installed_completes twice (.refl _)
    exact ⟨_, run, done, copied, same⟩
  case conflict =>
    have run := exec_progLoad hs hsw hd
    rw [if_neg (fun h => by simp [hmay h.1] at h), loadCopy_of_read hb (progInstall_of_conflict hc hp (by rwa [other]) (by rwa [other]))] at run
    obtain ⟨done, copied, same, -⟩ := installed_completes twice (.refl _)
    exact ⟨_, run, done, copied, same⟩
  case active =>
    have run := exec_progLoad hs hsw hd
    rw [if_pos ⟨hact, hload⟩] at run
    exact ⟨_, run, completed_of_after (.descRun [] [] s d) (descRun_cpls s d) 1 0x22 0⟩
  case unread =>
    subst he
    exact progLoad_unread (d := { d with buf := none }) hs hsw rfl hc hmay hd

/-! ## PROG_SWAP -/

/-- The fields of the mode and of the Maintenance operation in progress (R388). -/
def modeFlds : List Fld := [.SYS_MODE_mode, .SYS_MODE_base_mode, .SYS_MODE_maint_op]

theorem Within.setMode_mode (s : State) (mode base op : Nat) : Within [] modeFlds s (s.setMode mode base op) := by
  unfold State.setMode
  extract_lets old oldB t
  have moved : Within [] modeFlds s t := (refl _ _ s).sts _ (by simp [modeFlds])
  exact .ite _ moved (moved.raise ..)

theorem Within.maintStart_mode (s : State) (op : Nat) : Within [] modeFlds s (s.maintStart op) := .ite _ (.setMode_mode ..) ((refl _ _ s).st _ _)

theorem Within.maintEnd_mode (s : State) : Within [] modeFlds s s.maintEnd := .ite _ ((refl _ _ s).st _ _) (.ite _ (.setMode_mode ..) ((refl _ _ s).st _ _))

theorem setMode_cpls (s : State) (mode base op : Nat) : (s.setMode mode base op).host.cpls = s.host.cpls := by
  unfold State.setMode
  dsimp only
  split
  · rfl
  · rw [raise_cpls]
    rfl

theorem maintStart_cpls (s : State) (op : Nat) : (s.maintStart op).host.cpls = s.host.cpls := by
  unfold State.maintStart
  split
  · exact setMode_cpls ..
  · rfl

theorem maintEnd_cpls (s : State) : s.maintEnd.host.cpls = s.host.cpls := by
  unfold State.maintEnd
  split
  · rfl
  · split
    · exact setMode_cpls ..
    · rfl

/-- The fields of a swap: its state and the mode (R91). -/
def swapFlds : List Fld := .MAT_PROG_CTL_state :: modeFlds

/-- The swap in progress, and its state as the register shows it (R91). -/
def State.showSwap (s : State) (x : Option Swap) (v : Nat) : State := ({ s with swap := x } : State).st .MAT_PROG_CTL_state [32] v

/-- A swap from an old copy begun, before its flip is requested (R91). -/
def State.swapBegun (s : State) (d : Hdr) (old : Nat) : State := (s.showSwap (some ⟨d, old, false, 0, 0⟩) 1).maintStart 1

/-- A swap ended, before its descriptor completes (R91). -/
def State.swapEnded (s : State) : State := (s.showSwap none 0).maintEnd

theorem Within.set_swap {ps : List Part} {fs : List Fld} {s t : State} (h : Within ps fs s t) (x : Option Swap) (hp : Part.swap ∈ ps := by decide) :
    Within ps fs s { t with swap := x } := ⟨partsBut_set_swap h.parts hp x, h.fields⟩

theorem Within.showSwap (s : State) (x : Option Swap) (v : Nat) : Within [.swap] swapFlds s (s.showSwap x v) := ((refl _ _ s).set_swap _).st _ _

/-- What the beginning or the end of a swap does, with the start or the end of Maintenance. -/
structure Swapped (s t : State) (x : Option Swap) (v : Nat) : Prop where
  within : Within [.swap] swapFlds s t
  swap : t.swap = x
  state : t.rd .MAT_PROG_CTL_state [32] = v
  cpls : t.host.cpls = s.host.cpls

theorem Swapped.of_mode {s t : State} {x : Option Swap} {v : Nat} (hv : v < 4) (h : Within [] modeFlds (s.showSwap x v) t)
    (hc : t.host.cpls = s.host.cpls) : Swapped s t x v where
  within := (Within.showSwap s x v).andThen h
  swap := h.parts .swap (by decide)
  state := by
    rw [h.rd _ _]
    exact (rd_st_self ..).trans (Nat.mod_eq_of_lt hv)
  cpls := hc

theorem swapBegun_swapped (s : State) (d : Hdr) (old : Nat) : Swapped s (s.swapBegun d old) (some ⟨d, old, false, 0, 0⟩) 1 :=
  .of_mode (by decide) (.maintStart_mode ..) (maintStart_cpls ..)

theorem swapEnded_swapped (s : State) : Swapped s s.swapEnded none 0 := .of_mode (by decide) (.maintEnd_mode ..) (maintEnd_cpls ..)

theorem exec_progSwap {s : State} {d : Hdr} (hs : served s d ⟨0x19, .maint, true, false, 0⟩ true (cleanHdr d false false false)) (hd : due s (.progSwap d)) :
    exec (.progSwap d) s = .next (settle (if (s.prog (1 - s.active)).loaded = true then ((s.descRun d).swapBegun d s.active).request .flip none 0
      else (s.descRun d).complete d 1 0x23 0)) := by
  have active : (s.descRun d).active = s.active := (Within.descRun [] [] s d).rd _ _
  refine (doneDesc_of_served _ (hd d rfl) hs).trans ?_
  rw [active, descRun_prog]
  cases (s.prog (1 - s.active)).loaded <;> rfl

/-- PROG_SWAP with the other copy loaded begins to drain, and its flip is prepared (R91, R395). -/
theorem progSwap_begins (s : State) (d : Hdr) (hs : served s d ⟨0x19, .maint, true, false, 0⟩ true (cleanHdr d false false false))
    (hl : (s.prog (1 - s.active)).loaded = true) (hd : due s (.progSwap d)) :
    ∃ t, exec (.progSwap d) s = .next t ∧ t.swap = some ⟨d, s.active, false, 0, 0⟩ ∧ t.rd .MAT_PROG_CTL_state [32] = 1
      ∧ t.ras.steps = s.ras.steps ++ [⟨.flip, none, s.owner, (s.ras.nextSeq + 1) % 2 ^ 32, ceilDiv (s.elapsed + 1024) 256 * 256, false, false, false, false, 0⟩]
      ∧ t.host.cpls = s.host.cpls ∧ partsBut [.swap, .ras] s t
      ∧ fieldsBut [.MAT_PROG_CTL_state, .SYS_MODE_mode, .SYS_MODE_base_mode, .SYS_MODE_maint_op] s t := by
  have run := exec_progSwap hs hd
  rw [if_pos hl] at run
  have begun := swapBegun_swapped (s.descRun d) d s.active
  have swapped : Within [.swap] swapFlds s ((s.descRun d).swapBegun d s.active) := (Within.descRun _ _ s d).trans begun.within
  have wide : Within [.swap, .ras] swapFlds s ((s.descRun d).swapBegun d s.active) := swapped.mono
  have asked := (Within.request ((s.descRun d).swapBegun d s.active) .flip none 0).settle
  have all := wide.andThen asked
  have cpls : (settle (((s.descRun d).swapBegun d s.active).request .flip none 0)).host.cpls = s.host.cpls := by
    rw [settle_host, request_cpls, begun.cpls, descRun_cpls]
  refine ⟨_, run, (asked.parts .swap (by decide)).trans begun.swap, (asked.rd _ _).trans begun.state, ?_, cpls, all.parts, all.fields⟩
  rw [settle_ras, request_steps, swapped.ras, swapped.owner]
  unfold State.elapsed
  rw [swapped.parts .time (by decide)]

/-! ## The drain limit and the end of a swap -/

/-- The parts and fields that a dropped old-tag copy touches (R91, R403). -/
def drainParts : List Part := [.swap, .buf, .sched, .lanes] ++ dropParts

def drainFlds : List Fld := .MAT_DRAIN_CNT_v :: Within.freeFlds ++ dropFlds

theorem Within.drainDrop (s : State) (f : Frame) : Within drainParts drainFlds s (s.drainDrop f) := by
  have counted : Within drainParts drainFlds s (s.bump .MAT_DRAIN_CNT_v [33 + f.egress.n] 1) := (refl _ _ s).bump _ _
  have forced : Within drainParts drainFlds s ((s.bump .MAT_DRAIN_CNT_v [33 + f.egress.n] 1).forcedAdd 1) := counted.set_swap _
  exact ((forced.andThen (.unqueue ..)).andThen (.bufFree ..)).andThen (.dropFr ..)

theorem Within.freeOld (s : State) (old : Nat) : Within drainParts drainFlds s (s.freeOld old) := foldl .drainDrop _ s

/-- Copies of either tag freed, the state of the swap stays. -/
theorem freeOld_swapState (s : State) (old : Nat) : (s.freeOld old).rd .MAT_PROG_CTL_state [32] = s.rd .MAT_PROG_CTL_state [32] :=
  (Within.freeOld s old).rd _ _

/-- At the drain limit the swap is FORCED (R91). -/
theorem doProgDrainLimit_forced {s : State} {w : Swap} (hw : s.swap = some w) (hf : s.flippedIn .E w.old = true ∨ s.flippedIn .W w.old = true)
    (hd : s.rd .MAT_PROG_CTL_state [32] = 1) (hl : s.drainLimit ≠ 0) (ho : s.oldFrames ≠ []) :
    (doProgDrainLimit s).rd .MAT_PROG_CTL_state [32] = 2 := by
  unfold doProgDrainLimit
  rw [hw]
  dsimp only
  rw [if_neg (by simp [hf, hd, hl, ho]), freeOld_swapState, rd_st_self]
  rfl

/-- A swap that is flipped in both halves and drained ends (R91, R302). -/
theorem doProgSwapDrained_of_drained {s : State} {w : Swap} (hw : s.swap = some w) (hf : w.flipped = true) (ho : s.oldFrames = []) (hd : s.ras.deferred = [])
    (hs : s.serves s.owner 3 [0, 2] = true) :
    doProgSwapDrained s = (s.takeWork s.owner 3 [0, 2]).swapEnded.complete w.desc 0 0 w.forced := by
  unfold doProgSwapDrained
  rw [hw]
  dsimp only
  rw [if_neg (by simp [hf, ho, hd]), viaRoutine_of_serves _ hs]
  rfl

theorem progSwap_ends {s : State} {w : Swap} (hw : s.swap = some w) (hf : w.flipped = true) (ho : s.oldFrames = []) (hd : s.ras.deferred = [])
    (hs : s.serves s.owner 3 [0, 2] = true) :
    ∃ t, exec .progSwapDrained s = .next t ∧ completed s t w.desc 0 0 w.forced ∧ t.swap = none ∧ t.rd .MAT_PROG_CTL_state [32] = 0
      ∧ partsBut [.swap] s t ∧ fieldsBut swapFlds s t := by
  have taken : Reports s (s.takeWork s.owner 3 [0, 2]) := (Reports.refl s).takeWork ..
  have run : exec .progSwapDrained s = .next (settle ((s.takeWork s.owner 3 [0, 2]).swapEnded.complete w.desc 0 0 w.forced)) :=
    congrArg done (doProgSwapDrained_of_drained hw hf ho hd hs)
  generalize s.takeWork s.owner 3 [0, 2] = u at taken run
  have ended := swapEnded_swapped u
  have all : Within [.swap] swapFlds s u.swapEnded := ((Within.refl _ _ s).report taken).trans ended.within
  obtain ⟨done, parts, fields⟩ := completed_of_after (d := w.desc) all (ended.cpls.trans taken.cpls) 0 0 w.forced
  exact ⟨_, run, done, (completeX_swap u.swapEnded w.desc 0 0 w.forced none).trans ended.swap, (rd_completeX _ w.desc 0 0 w.forced none rfl).trans ended.state, parts, fields⟩

/-- Settles O9: the swap that begins, that is refused, that its limit forces and that ends. -/
theorem programSwap : Obligations.ProgramSwap := by
  unfold Obligations.ProgramSwap
  refine ⟨progSwap_begins, fun s d hs hl hd => ?refused, fun s w hw hf hd hl ho => ⟨_, rfl, doProgDrainLimit_forced hw hf hd hl ho⟩,
    fun s w hw hf ho hd hs => progSwap_ends hw hf ho hd hs⟩
  case refused =>
    have run := exec_progSwap hs hd
    rw [if_neg (by simp [hl])] at run
    exact ⟨_, run, completed_of_after (.descRun [] [] s d) (descRun_cpls s d) 1 0x23 0⟩

end Sys2Proof.Machine

/-!
SUPPORT. The forwarding database: what its operations change, what a search of it finds, and the descriptors, the learning, the stamps and the ageing that rest on them.
-/

namespace Sys2Proof.Machine

/-! ## Work of an engine -/

/-- What an engine does for the FDB: no part but `ps` and no register field but `fs` and those of reports change, no descriptor completes, no event is forgotten and no word receives an error. -/
structure Works (ps : List Part) (fs : List Fld) (s t : State) : Prop where
  within : Within ps fs s t
  cpls : t.host.cpls = s.host.cpls
  events : s.host.events <+: t.host.events
  clean : s.ras.poison = [] → t.ras.poison = []

theorem Reports.works {s t : State} (h : Reports s t) : Works [] [] s t := ⟨h.within, h.cpls, h.events, fun hp => by rw [h.ras, hp]⟩

namespace Works

theorem refl (ps : List Part) (fs : List Fld) (s : State) : Works ps fs s s := ⟨.refl ps fs s, rfl, List.prefix_rfl, id⟩

variable {ps qs : List Part} {fs gs : List Fld} {s t u : State}

theorem mono (h : Works qs gs s t) (hp : ∀ p ∈ qs, p ∈ ps := by decide) (hf : ∀ f ∈ gs, f ∈ fs := by decide) : Works ps fs s t :=
  ⟨h.within.mono hp hf, h.cpls, h.events, h.clean⟩

theorem trans (h : Works ps fs s t) (k : Works ps fs t u) : Works ps fs s u :=
  ⟨h.within.trans k.within, k.cpls.trans h.cpls, h.events.trans k.events, k.clean ∘ h.clean⟩

/-- Work that changes less follows. -/
theorem andThen (h : Works ps fs s t) (k : Works qs gs t u) (hp : ∀ p ∈ qs, p ∈ ps := by decide) (hf : ∀ f ∈ gs, f ∈ fs := by decide) :
    Works ps fs s u := h.trans (k.mono hp hf)

theorem report (h : Works ps fs s t) (k : Reports t u) : Works ps fs s u := h.andThen k.works (by simp) (by simp)

theorem ite (c : Prop) [Decidable c] (h : Works ps fs s t) (k : Works ps fs s u) : Works ps fs s (if c then t else u) := by
  split
  · exact h
  · exact k

theorem foldl {α : Type} {op : State → α → State} (hop : ∀ t a, Works ps fs t (op t a)) (l : List α) (s : State) : Works ps fs s (l.foldl op s) := by
  induction l generalizing s with
  | nil => exact refl ..
  | cons a l ih => exact (hop s a).trans (ih _)

theorem st (h : Works ps fs s t) {f : Fld} (ix : List Nat) (v : Nat) (hf : f ∈ fs := by decide) : Works ps fs s (t.st f ix v) :=
  ⟨h.within.st ix v hf, h.cpls, h.events, h.clean⟩

theorem bump (h : Works ps fs s t) {f : Fld} (ix : List Nat) (v : Nat) (hf : f ∈ fs := by decide) : Works ps fs s (t.bump f ix v) := h.st ix _ hf

theorem set_fdb (h : Works ps fs s t) (x : Fdb) (hp : Part.fdb ∈ ps := by decide) : Works ps fs s { t with fdb := x } :=
  ⟨h.within.set_fdb x hp, h.cpls, h.events, h.clean⟩

theorem fdb (h : Works ps fs s t) (hp : Part.fdb ∉ ps := by decide) : t.fdb = s.fdb := h.within.parts .fdb hp

end Works

/-- The state with another FDB. -/
def State.withFdb (s : State) (f : Fdb) : State := { s with fdb := f }

@[simp] theorem withFdb_fdb (s : State) (f : Fdb) : (s.withFdb f).fdb = f := rfl

theorem Works.withFdb {ps : List Part} {fs : List Fld} {s t : State} (h : Works ps fs s t) (f : Fdb) (hp : Part.fdb ∈ ps := by decide) :
    Works ps fs s (t.withFdb f) := h.set_fdb f hp

/-! ## A word of a copy is written (R97) -/

/-- The counts of the entries of a copy (FDB_OCC, FDB_SLICE_USE). -/
def useFlds : List Fld := [.FDB_OCC_bucket_used, .FDB_OCC_ovf_used, .FDB_SLICE_USE_used]

theorem Works.fdbCount (s : State) (h : Half) (place : List Nat) (e : Option FdbEnt) (up : Bool) : Works [] useFlds s (s.fdbCount h place e up) := by
  cases e with
  | none => exact refl ..
  | some x =>
    have counted : (if place.head? = some ovfBucket then Fld.FDB_OCC_ovf_used else .FDB_OCC_bucket_used) ∈ useFlds := by split <;> decide
    unfold State.fdbCount
    exact .ite _ (((refl _ _ s).bump _ _ counted).bump _ _) (((refl _ _ s).st _ _ counted).st _ _)

/-- The counts of a write: the entry before it is counted out, the new one in. -/
def State.fdbRecount (s : State) (h : Half) (place : List Nat) (e : Option FdbEnt) : State :=
  (s.fdbCount h place (s.fdbAt h place) false).fdbCount h place e true

theorem Works.fdbRecount (s : State) (h : Half) (place : List Nat) (e : Option FdbEnt) : Works [] useFlds s (s.fdbRecount h place e) :=
  (fdbCount ..).trans (fdbCount ..)

/-- The FDB with a word of a copy written: the entry, and what a tag of the place falls back to (R97, R102). -/
def Fdb.put (f : Fdb) (h : Half) (place : List Nat) (e : Option FdbEnt) : Fdb :=
  match e with
  | some x => { f with
      ents := f.ents.set (h.n :: place) x
      tags := f.tags.map (fun t => if t.1 = h ∧ t.2.1 = place then (t.1, t.2.1, t.2.2.1, x.stamp, t.2.2.2.2) else t) }
  | none => { f with ents := f.ents.erase (h.n :: place) }

/-- A write of a word: the counts, the word's error cleared, and the word (R97, R404). -/
theorem fdbPut_eq (s : State) (h : Half) (place : List Nat) (e : Option FdbEnt) :
    s.fdbPut h place e = { (s.fdbRecount h place e).eccClearAt h 2 0 place with fdb := s.fdb.put h place e } := by
  have same : ((s.fdbRecount h place e).eccClearAt h 2 0 place).fdb = s.fdb := (Works.fdbRecount s h place e).fdb
  rw [← same]
  cases e <;> rfl

theorem fdbPut_fdb (s : State) (h : Half) (place : List Nat) (e : Option FdbEnt) : (s.fdbPut h place e).fdb = s.fdb.put h place e := by
  rw [fdbPut_eq]

theorem Works.fdbPut (s : State) (h : Half) (place : List Nat) (e : Option FdbEnt) : Works [.fdb, .ras] useFlds s (s.fdbPut h place e) := by
  have counted : Works [.fdb, .ras] useFlds s (s.fdbRecount h place e) := (fdbRecount ..).mono
  rw [fdbPut_eq]
  refine ⟨(counted.within.set_ras ((s.fdbRecount h place e).eccClearAt h 2 0 place).ras).set_fdb _, counted.cpls, counted.events, fun hp => ?_⟩
  have none : (s.fdbRecount h place e).ras.poison = [] := counted.clean hp
  unfold State.eccClearAt State.eccClear
  dsimp only
  rw [none]
  rfl

theorem wordKey_inj {h x : Half} {p q : List Nat} : h.n :: p = x.n :: q ↔ x = h ∧ q = p := by
  constructor
  · intro e
    injection e with e1 e2
    exact ⟨Half.n_inj e1.symm, e2.symm⟩
  · rintro ⟨rfl, rfl⟩
    rfl

theorem fdbAt_congr {s t : State} (h : t.fdb.ents = s.fdb.ents) (x : Half) (p : List Nat) : t.fdbAt x p = s.fdbAt x p := by
  unfold State.fdbAt
  rw [h]

/-- The entry at a place after a write: the one written, or the one before. -/
theorem fdbAt_fdbPut (s : State) (h x : Half) (place p : List Nat) (e : Option FdbEnt) :
    (s.fdbPut h place e).fdbAt x p = if x = h ∧ p = place then e else s.fdbAt x p := by
  unfold State.fdbAt
  rw [fdbPut_fdb]
  cases e <;> simp only [Fdb.put, SMap.get?_set, SMap.get?_erase, wordKey_inj]

/-- An FDB but for its words and the stamps that tags hold. -/
def Fdb.rest (f : Fdb) : Fdb := { f with ents := [], tags := [] }

@[simp] theorem Fdb.rest_put (f : Fdb) (h : Half) (place : List Nat) (e : Option FdbEnt) : (f.put h place e).rest = f.rest := by cases e <;> rfl

theorem fdbPut_rest (s : State) (h : Half) (place : List Nat) (e : Option FdbEnt) : (s.fdbPut h place e).fdb.rest = s.fdb.rest := by
  rw [fdbPut_fdb, Fdb.rest_put]

/-! ## Both copies written (R119, R121) -/

theorem Works.fdbBoth (s : State) (o : Half) (place : List Nat) (e : Option FdbEnt) (ev : PmcEv) : Works [.fdb, .ras] useFlds s (s.fdbBoth o place e ev) := by
  have own : Works [.fdb, .ras] useFlds s ((s.fdbPut o place e).dma o ev 2 place 1) := (fdbPut ..).report ((Reports.refl _).dma ..)
  exact .ite _ ((own.trans (fdbPut ..)).report ((Reports.refl _).bridgeMsg o)) own

theorem Works.bridgeUp {ps : List Part} {fs : List Fld} {s t : State} (h : Works ps fs s t) (hf : Fld.RAS_OWN_STAT_bridge_up ∉ fs := by decide) :
    t.bridgeUp = s.bridgeUp := by
  unfold State.bridgeUp State.on
  rw [h.within.rd _ _ hf]

/-- The owner's copy is written, and while the bridge is up the other (R119, R121). -/
theorem fdbAt_fdbBoth (s : State) (o x : Half) (place p : List Nat) (e : Option FdbEnt) (ev : PmcEv) :
    (s.fdbBoth o place e ev).fdbAt x p = if p = place ∧ (x = o ∨ s.bridgeUp = true) then e else s.fdbAt x p := by
  have read : Reports (s.fdbPut o place e) ((s.fdbPut o place e).dma o ev 2 place 1) := (Reports.refl _).dma ..
  have up : ((s.fdbPut o place e).dma o ev 2 place 1).bridgeUp = s.bridgeUp := ((Works.fdbPut s o place e).report read).bridgeUp
  have own : ∀ y q, ((s.fdbPut o place e).dma o ev 2 place 1).fdbAt y q = if y = o ∧ q = place then e else s.fdbAt y q := fun y q => by
    rw [fdbAt_congr (congrArg Fdb.ents read.fdb), fdbAt_fdbPut]
  unfold State.fdbBoth
  dsimp only
  rw [up]
  cases s.bridgeUp with
  | false =>
    rw [if_neg (by simp), own]
    exact if_congr (by simp [and_comm]) rfl rfl
  | true =>
    have sent := (Reports.refl (((s.fdbPut o place e).dma o ev 2 place 1).fdbPut o.other place e)).bridgeMsg o
    rw [if_pos rfl, fdbAt_congr (congrArg Fdb.ents sent.fdb), fdbAt_fdbPut, own]
    cases x <;> cases o <;> by_cases hq : p = place <;> simp [Half.other, hq]

theorem fdbBoth_rest (s : State) (o : Half) (place : List Nat) (e : Option FdbEnt) (ev : PmcEv) : (s.fdbBoth o place e ev).fdb.rest = s.fdb.rest := by
  have own : ((s.fdbPut o place e).dma o ev 2 place 1).fdb.rest = s.fdb.rest := by
    rw [((Reports.refl (s.fdbPut o place e)).dma ..).fdb, fdbPut_rest]
  unfold State.fdbBoth
  dsimp only
  split
  · rw [((Reports.refl _).bridgeMsg o).fdb, fdbPut_rest, own]
  · exact own

/-! ## The lock bits of the buckets (R115, R318) -/

/-- Accesses to a lock bit are counted, and do nothing else. -/
theorem Works.lockAlias (s : State) (b r n : Nat) (fn : Option Nat) : Works [] [.HAM_CNT_v] s (s.lockAlias b r n fn) :=
  ((refl _ _ s).bump _ _).report ((Reports.refl _).pmc ..)

theorem Works.lockPulse (s : State) (b r : Nat) (fn : Option Nat) : Works [] [.HAM_CNT_v] s (s.lockPulse b r fn) := lockAlias ..

theorem Works.setLock (s : State) (b : Nat) (l : Option Lock) (r : Nat) (fn : Option Nat) : Works [.fdb] [.HAM_CNT_v] s (s.setLock b l r fn) :=
  ((refl _ _ s).set_fdb _).andThen (lockAlias ..)

theorem setLock_fdb (s : State) (b : Nat) (l : Option Lock) (r : Nat) (fn : Option Nat) : (s.setLock b l r fn).fdb = { s.fdb with locks := match l with
    | some x => s.fdb.locks.set [(bucketOwner b).n, b] x
    | none => s.fdb.locks.erase [(bucketOwner b).n, b] } := (Works.lockAlias _ b r 1 fn).fdb

theorem lockOf_congr {s t : State} (h : t.fdb.locks = s.fdb.locks) (b : Nat) : t.lockOf b = s.lockOf b := by
  unfold State.lockOf
  rw [h]

/-- The lock of a bucket after one is set or cleared. -/
theorem lockOf_setLock (s : State) (b c : Nat) (l : Option Lock) (r : Nat) (fn : Option Nat) :
    (s.setLock b l r fn).lockOf c = if c = b then l else s.lockOf c := by
  have key : [(bucketOwner b).n, b] = [(bucketOwner c).n, c] ↔ c = b := by
    constructor
    · intro e
      simpa using (congrArg (·.getD 1 0) e).symm
    · rintro rfl
      rfl
  unfold State.lockOf
  rw [setLock_fdb]
  cases l <;> simp only [SMap.get?_set, SMap.get?_erase, key]

/-- Where no port deletion and no resynchronisation waits for a bucket, its release is all that happens (R115). -/
theorem lockFreed_idle {s : State} (hd : s.fdb.portDel = []) (hr : s.fdb.resyncLeft = []) : s.lockFreed = s := by
  have dels : s.portDelRun = s := by
    unfold State.portDelRun
    simp only [hd, List.filter_nil, List.foldl_nil]
    rw [← hd]
  have syncs : s.resyncRun = s := by
    unfold State.resyncRun
    simp only [hr, List.filter_nil, List.foldl_nil, List.any_nil, Bool.false_eq_true, false_and, if_false, halves, List.foldl_cons]
    rw [← hr]
  unfold State.lockFreed
  rw [dels, syncs]

theorem unlockBucket_idle {s : State} (hd : s.fdb.portDel = []) (hr : s.fdb.resyncLeft = []) (b r : Nat) (fn : Option Nat) :
    s.unlockBucket b r fn = s.setLock b none r fn :=
  lockFreed_idle (by rw [setLock_fdb]; exact hd) (by rw [setLock_fdb]; exact hr)

end Sys2Proof.Machine

namespace Sys2Proof.Machine

/-! ## Words read where none has an error (R404) -/

/-- One word of a search: read, and listed where it is not poisoned (R404). -/
def State.scanWord (h : Half) (ev : PmcEv) (a : List (List Nat) × State) (p : List Nat) : List (List Nat) × State :=
  let r := (a.2.dma h ev 2 p 0).eccReadAt h 2 0 p ev
  (if r.1 then a.1 else a.1 ++ [p], r.2)

theorem fdbScan_eq (s : State) (h : Half) (places : List (List Nat)) (ev : PmcEv) : s.fdbScan h places ev = places.foldl (State.scanWord h ev) ([], s) := rfl

theorem scanWord_clean {h : Half} {ev : PmcEv} {a : List (List Nat) × State} (hp : a.2.ras.poison = []) (p : List Nat) :
    State.scanWord h ev a p = (a.1 ++ [p], a.2.dma h ev 2 p 0) := by
  unfold State.scanWord
  rw [eccReadAt_clean (by rw [((Reports.refl a.2).dma ..).ras, hp])]
  rfl

/-- Words without errors are all read, with reports alone, which write no host memory. -/
theorem fdbScan_clean {s : State} (hp : s.ras.poison = []) (h : Half) (places : List (List Nat)) (ev : PmcEv) :
    (s.fdbScan h places ev).1 = places ∧ Reports s (s.fdbScan h places ev).2 ∧ Mute s (s.fdbScan h places ev).2 := by
  rw [fdbScan_eq]
  suffices all : ∀ a : List (List Nat) × State, Reports s a.2 → Mute s a.2 → (places.foldl (State.scanWord h ev) a).1 = a.1 ++ places
      ∧ Reports s (places.foldl (State.scanWord h ev) a).2 ∧ Mute s (places.foldl (State.scanWord h ev) a).2 from all ([], s) (.refl s) (.refl s)
  induction places with
  | nil => exact fun a ha hm => ⟨by simp, ha, hm⟩
  | cons p places ih =>
    intro a ha hm
    rw [List.foldl_cons, scanWord_clean (by rw [ha.ras, hp])]
    obtain ⟨found, reports, mute⟩ := ih (a.1 ++ [p], a.2.dma h ev 2 p 0) (ha.dma ..) (hm.trans (.dma ..))
    exact ⟨found.trans (by simp), reports, mute⟩

/-! ## What a search finds (R101, R108) -/

/-- The entry at a place holds a key. -/
def State.holds (s : State) (h : Half) (k : FKey) (p : List Nat) : Bool := match s.fdbAt h p with | some e => e.key = k | none => false

/-- The overflow entry at an index is the first that the copy lists there. -/
theorem fdbAt_ovf (s : State) (h : Half) (i : Nat) : s.fdbAt h [ovfBucket, i] = ((s.fdbOvf h).find? (fun x => x.1 = i)).map (·.2) := by
  unfold State.fdbAt State.fdbOvf
  induction s.fdb.ents with
  | nil => rfl
  | cons x m ih =>
    obtain ⟨key, e⟩ := x
    rw [SMap.get?, List.filterMap_cons]
    by_cases hk : key = h.n :: [ovfBucket, i]
    · subst hk
      simp
    · rw [if_neg hk, ih]
      split
      · rfl
      · rename_i y hy
        split at hy
        · rename_i x b j hkey
          by_cases here : x = h.n ∧ b = ovfBucket
          · rw [if_pos here] at hy
            obtain rfl := Option.some.inj hy
            have apart : j ≠ i := fun same => hk (by rw [← here.1, ← here.2, ← same]; exact hkey)
            simp [apart]
          · simp [here] at hy
        · simp at hy

/-- Of the overflow entries, the first that holds a key is one of the key's bucket. -/
theorem find?_fdbOvfOf (s : State) (h : Half) (k : FKey) :
    (s.fdbOvfOf h (s.fdbBucket h k)).find? (fun x => s.holds h k [ovfBucket, x.1]) = (s.fdbOvf h).find? (fun x => s.holds h k [ovfBucket, x.1]) := by
  unfold State.fdbOvfOf
  rw [List.find?_filter]
  cases first : (s.fdbOvf h).find? (fun x => s.holds h k [ovfBucket, x.1]) with
  | none =>
    rw [List.find?_eq_none] at first ⊢
    intro x hx
    simp [first x hx]
  | some x =>
    obtain ⟨hx, as, bs, split, before⟩ := List.find?_eq_some_iff_append.1 first
    rw [List.find?_eq_some_iff_append]
    refine ⟨?_, as, bs, split, fun y hy => by simp [before y hy]⟩
    have alone : as.find? (fun y => y.1 = x.1) = none := by
      rw [List.find?_eq_none]
      intro y hy same
      have no := before y hy
      rw [of_decide_eq_true same, hx] at no
      exact absurd no (by decide)
    have at_x : s.fdbAt h [ovfBucket, x.1] = some x.2 := by
      rw [fdbAt_ovf, split, List.find?_append, alone]
      simp
    have key : x.2.key = k := by simpa [State.holds, at_x] using hx
    simp [hx, key]

/-- An engine that searches its bucket's words finds what stands in the copy. -/
theorem fdbPick_ownWords (s : State) (h : Half) (k : FKey) : s.fdbPick h k (s.fdbOwnWords h (s.fdbBucket h k)) = s.fdbFind h k := by
  show (s.fdbOwnWords h (s.fdbBucket h k)).find? (s.holds h k) = (((List.range 4).map (fun w => [s.fdbBucket h k, w])
    ++ (s.fdbOvf h).map (fun e => [ovfBucket, e.1])).filter (s.holds h k)).head?
  unfold State.fdbOwnWords
  rw [List.head?_filter, List.find?_append, List.find?_append, List.find?_map, List.find?_map]
  congr 2
  rw [List.find?_map]
  exact congrArg _ (find?_fdbOvfOf s h k)

/-- Two states whose FDBs hold the same entries under the same seeds. -/
structure SameFdb (s t : State) : Prop where
  ents : t.fdb.ents = s.fdb.ents
  seed : ∀ ix, t.rd .FDB_SEED_seed ix = s.rd .FDB_SEED_seed ix

theorem Reports.sameFdb {s t : State} (h : Reports s t) : SameFdb s t := ⟨by rw [h.fdb], fun _ => h.rd _ _ rfl⟩

theorem Works.sameFdb {fs : List Fld} {s t : State} (h : Works [] fs s t) (hf : Fld.FDB_SEED_seed ∉ fs := by decide) : SameFdb s t :=
  ⟨by rw [h.fdb], fun _ => h.within.rd _ _ hf⟩

namespace SameFdb

variable {s t u : State}

theorem trans (h : SameFdb s t) (k : SameFdb t u) : SameFdb s u := ⟨k.ents.trans h.ents, fun ix => (k.seed ix).trans (h.seed ix)⟩

variable (h : SameFdb s t)
include h

theorem bucket (x : Half) (k : FKey) : t.fdbBucket x k = s.fdbBucket x k := by
  unfold State.fdbBucket State.fdbHash
  rw [h.seed]

theorem word (x : Half) (p : List Nat) : t.fdbAt x p = s.fdbAt x p := fdbAt_congr h.ents x p

theorem ovf (x : Half) : t.fdbOvf x = s.fdbOvf x := by
  unfold State.fdbOvf
  rw [h.ents]

theorem ovfOf (x : Half) (b : Nat) : t.fdbOvfOf x b = s.fdbOvfOf x b := by
  unfold State.fdbOvfOf
  simp only [h.ovf, h.bucket]

theorem ownWords (x : Half) (b : Nat) : t.fdbOwnWords x b = s.fdbOwnWords x b := by
  unfold State.fdbOwnWords
  rw [h.ovfOf]

theorem find (x : Half) (k : FKey) : t.fdbFind x k = s.fdbFind x k := by
  unfold State.fdbFind State.fdbPlaces
  simp only [h.ovf, h.bucket, h.word]

theorem pick (x : Half) (k : FKey) (ps : List (List Nat)) : t.fdbPick x k ps = s.fdbPick x k ps := by
  unfold State.fdbPick
  simp only [h.word]

theorem free (x : Half) (b : Nat) : t.fdbFree x b = s.fdbFree x b := by
  unfold State.fdbFree
  simp only [h.ovf, h.word]

end SameFdb

/-- A search where no word has an error finds what stands in the copy, with reports alone, which write no host memory (R108). -/
theorem fdbSeek_clean {s : State} (hp : s.ras.poison = []) (h : Half) (k : FKey) (ev : PmcEv) :
    (s.fdbSeek h k ev).1 = s.fdbFind h k ∧ Reports s (s.fdbSeek h k ev).2 ∧ Mute s (s.fdbSeek h k ev).2 := by
  obtain ⟨words, read, mute⟩ := fdbScan_clean hp h (s.fdbOwnWords h (s.fdbBucket h k)) ev
  refine ⟨?_, read, mute⟩
  unfold State.fdbSeek
  dsimp only
  rw [words, read.sameFdb.pick, fdbPick_ownWords]

end Sys2Proof.Machine

namespace Sys2Proof.Machine

/-! ## A descriptor of the FDB begins -/

/-- The state in which a descriptor does its work on the FDB: it has started, and waits for no lock (R117, R339). -/
def State.fdbBegun (s : State) (d : Hdr) : State := (s.descRun d).lockDone d

theorem Works.descRun (s : State) (d : Hdr) : Works [] [] s (s.descRun d) :=
  ⟨.descRun [] [] s d, descRun_cpls s d, (descRun_spec s d).events, fun hp => by rw [descRun_ras, hp]⟩

theorem Works.fdbBegun (s : State) (d : Hdr) : Works [.fdb] [] s (s.fdbBegun d) := (descRun s d).mono.set_fdb _

/-- Only the list of waiting descriptors has changed in the FDB. -/
theorem fdbBegun_fdb (s : State) (d : Hdr) : (s.fdbBegun d).fdb = { s.fdb with retries := (s.fdbBegun d).fdb.retries } := by
  show ({ (s.descRun d).fdb with retries := (s.fdbBegun d).fdb.retries } : Fdb) = _
  rw [descRun_fdb]

theorem fdbBegun_sameFdb (s : State) (d : Hdr) : SameFdb s (s.fdbBegun d) :=
  ⟨by rw [fdbBegun_fdb], fun _ => (Works.fdbBegun s d).within.rd _ _⟩

theorem lockOf_descRun (s : State) (d : Hdr) (b : Nat) : (s.descRun d).lockOf b = s.lockOf b := lockOf_congr (by rw [descRun_fdb]) b

/-- A completion leaves the FDB as it is. -/
theorem fdb_settle_complete (s : State) (d : Hdr) (st a r : Nat) : (settle (s.complete d st a r)).fdb = s.fdb := by
  rw [settle_fdb, complete_def, completeX_fdb]

theorem fdb_settle_ok (s : State) (d : Hdr) (r : Nat) : (settle (s.ok d r)).fdb = s.fdb := fdb_settle_complete s d 0 0 r

theorem fdbAt_settle_complete (s : State) (d : Hdr) (st a r : Nat) (x : Half) (p : List Nat) : (settle (s.complete d st a r)).fdbAt x p = s.fdbAt x p :=
  fdbAt_congr (congrArg Fdb.ents (fdb_settle_complete s d st a r)) x p

/-- A write of an FDB word completes its descriptor: what the command leaves unchanged, and the entries. -/
theorem fdbBoth_completes {s u : State} {ps : List Part} {fs : List Fld} (h : Works ps fs s u) (hps : ∀ p ∈ ([.fdb, .ras] : List Part), p ∈ ps)
    (hfs : ∀ f ∈ useFlds, f ∈ fs) (d : Hdr) (o : Half) (p : List Nat) (e : Option FdbEnt) (ev : PmcEv) :
    completed s (settle ((u.fdbBoth o p e ev).ok d 0)) d 0 0 0
      ∧ (∀ x q, (settle ((u.fdbBoth o p e ev).ok d 0)).fdbAt x q = if q = p ∧ (x = o ∨ u.bridgeUp = true) then e else u.fdbAt x q)
      ∧ partsBut ps s (settle ((u.fdbBoth o p e ev).ok d 0)) ∧ fieldsBut fs s (settle ((u.fdbBoth o p e ev).ok d 0)) := by
  have written := h.andThen (.fdbBoth u o p e ev) hps hfs
  obtain ⟨done, parts, fields⟩ := completed_of_after (d := d) written.within written.cpls 0 0 0
  exact ⟨done, fun x q => (fdbAt_settle_complete (u.fdbBoth o p e ev) d 0 0 0 x q).trans (fdbAt_fdbBoth ..), parts, fields⟩

/-! ## FDB_INSERT -/

/-- FDB_INSERT once its search has answered (R98, R119). -/
def State.insertFound (s : State) (d : Hdr) (k : FKey) (b port : Nat) (static replace : Bool) (adata : Nat) (ev : PmcEv) (found : Option (List Nat)) : State :=
  match found with
  | some p => match s.fdbAt (bucketOwner b) p with
    | some e =>
      if ¬ replace then s.fail d 0x12
      else (s.fdbBoth (bucketOwner b) p (some { e with port := port, adata := adata, static := static, stamp := s.fdb.nowTick }) ev).ok d 0
    | none => s.fail d 0x12
  | none =>
    if s.rd .FDB_SLICE_CFG_quota [(bucketOwner b).n, k.slice] ≤ s.rd .FDB_SLICE_USE_used [(bucketOwner b).n, k.slice] then s.fail d 0x11
    else match s.fdbFree (bucketOwner b) b with
      | none => s.fail d 0x10
      | some p => (s.fdbBoth (bucketOwner b) p (some (FdbEnt.mk k s.fdb.nowTick port adata 0 0 false static false)) ev).ok d 0

section
variable {s : State} {d : Hdr} {k : FKey} {b port : Nat} {static replace : Bool} {adata : Nat} {ev : PmcEv} {p : List Nat} {e : FdbEnt}

/-- A new entry goes to the lowest free place (R98). -/
theorem insertFound_new (hq : s.rd .FDB_SLICE_USE_used [(bucketOwner b).n, k.slice] < s.rd .FDB_SLICE_CFG_quota [(bucketOwner b).n, k.slice])
    (hf : s.fdbFree (bucketOwner b) b = some p) : s.insertFound d k b port static replace adata ev none
      = (s.fdbBoth (bucketOwner b) p (some ⟨k, s.fdb.nowTick, port, adata, 0, 0, false, static, false⟩) ev).ok d 0 := by
  simp only [State.insertFound, if_neg (Nat.not_le.2 hq), hf]

theorem insertFound_full (hq : s.rd .FDB_SLICE_CFG_quota [(bucketOwner b).n, k.slice] ≤ s.rd .FDB_SLICE_USE_used [(bucketOwner b).n, k.slice]) :
    s.insertFound d k b port static replace adata ev none = s.fail d 0x11 := by
  simp only [State.insertFound, if_pos hq]

theorem insertFound_replaces (he : s.fdbAt (bucketOwner b) p = some e) : s.insertFound d k b port static true adata ev (some p)
    = (s.fdbBoth (bucketOwner b) p (some { e with port := port, adata := adata, static := static, stamp := s.fdb.nowTick }) ev).ok d 0 := by
  simp [State.insertFound, he]

theorem insertFound_present (he : s.fdbAt (bucketOwner b) p = some e) : s.insertFound d k b port static false adata ev (some p) = s.fail d 0x12 := by
  simp [State.insertFound, he]

end

/-- Where no word has an error, FDB_INSERT finds what stands in the owner's copy (R98, R108). -/
theorem fdbInsertNow_clean {s : State} (hp : s.ras.poison = []) (d : Hdr) (k : FKey) (port : Nat) (static replace : Bool) (adata : Nat) :
    ∃ u ev, Works [] [.HAM_CNT_v] s u ∧ s.fdbInsertNow d k port static replace adata
      = u.insertFound d k (s.fdbBucket (s.ringHalf d) k) port static replace adata ev (s.fdbFind (bucketOwner (s.fdbBucket (s.ringHalf d) k)) k) := by
  have pulse := Works.lockPulse s (s.fdbBucket (s.ringHalf d) k) 6 (some d.fn)
  obtain ⟨found, read, -⟩ := fdbSeek_clean (pulse.clean hp) (bucketOwner (s.fdbBucket (s.ringHalf d) k)) k
    (s.engEv (bucketOwner (s.fdbBucket (s.ringHalf d) k)) 6 (some d.fn))
  rw [pulse.sameFdb.find] at found
  refine ⟨_, s.engEv (bucketOwner (s.fdbBucket (s.ringHalf d) k)) 6 (some d.fn), pulse.report read, ?_⟩
  unfold State.fdbInsertNow
  dsimp only
  generalize (s.lockPulse (s.fdbBucket (s.ringHalf d) k) 6 (some d.fn)).fdbSeek (bucketOwner (s.fdbBucket (s.ringHalf d) k)) k
    (s.engEv (bucketOwner (s.fdbBucket (s.ringHalf d) k)) 6 (some d.fn)) = r at found ⊢
  obtain ⟨place, u⟩ := r
  subst found
  rfl

/-- An FDB_INSERT of a well-formed key whose bucket is free. -/
theorem exec_fdbInsert {s : State} {d : Hdr} {ka : KeyArg} {port adata : Nat} {static replace : Bool} {o : Half}
    (hs : served s d (fdbRule 0x20 true) (ownSlice d d.slice) (cleanHdr d true false false && decide (port < 1088)))
    (hk : (fkeyOf ka d).bad = false) (hl : s.lockOf (s.fdbBucket (s.ringHalf d) (fkeyOf ka d)) = none)
    (ho : o = bucketOwner (s.fdbBucket (s.ringHalf d) (fkeyOf ka d))) (hp : s.ras.poison = []) (hd : due s (.fdbInsert d ka port static replace adata)) :
    ∃ u ev, Works [.fdb] [.HAM_CNT_v] s u ∧ SameFdb s u ∧ u.fdb.nowTick = s.fdb.nowTick ∧ exec (.fdbInsert d ka port static replace adata) s
      = .next (settle (u.insertFound d (fkeyOf ka d) (s.fdbBucket (s.ringHalf d) (fkeyOf ka d)) port static replace adata ev (s.fdbFind o (fkeyOf ka d)))) := by
  have begun := Works.fdbBegun s d
  have same := fdbBegun_sameFdb s d
  have half : (s.fdbBegun d).ringHalf d = s.ringHalf d := begun.within.ringHalf d
  obtain ⟨u, ev, seek, now⟩ := fdbInsertNow_clean (begun.clean hp) d (fkeyOf ka d) port static replace adata
  rw [half, same.bucket, same.find, ← ho] at now
  refine ⟨u, ev, begun.mono.andThen seek, same.trans seek.sameFdb, by rw [seek.fdb, fdbBegun_fdb], ?_⟩
  refine (doneDesc_of_served _ (hd d rfl) hs).trans ?_
  have free : ((s.descRun d).lockOf ((s.descRun d).fdbBucket ((s.descRun d).ringHalf d) (fkeyOf ka d))).isSome = false := by
    rw [lockOf_descRun, (Works.descRun s d).sameFdb.bucket, (Works.descRun s d).within.ringHalf, hl]
    rfl
  rw [if_neg (by simp [hk]), if_neg (by simp [free]), ← now]
  rfl

/-- Settles O10: the entry written in the lowest free place, the entry rewritten, and the two refusals. -/
theorem fdbInsert : Obligations.FdbInsert := by
  unfold Obligations.FdbInsert
  intro s d ka port adata static replace o hs hk hl ho hp
  refine ⟨fun p hfind hquota hfree hd => ?written, fun p e hfind he hr hd => ?rewritten, fun p e hfind he hr hd => ?present, fun hfind hquota hd => ?full⟩
  all_goals
    obtain ⟨u, ev, work, same, tick, run⟩ := exec_fdbInsert hs hk hl ho hp hd
    have quota : u.rd .FDB_SLICE_CFG_quota [o.n, d.slice] = s.rd .FDB_SLICE_CFG_quota [o.n, d.slice] := work.within.rd _ _
    have used : u.rd .FDB_SLICE_USE_used [o.n, d.slice] = s.rd .FDB_SLICE_USE_used [o.n, d.slice] := work.within.rd _ _
    have wide : Works [.fdb, .ras] [.FDB_OCC_bucket_used, .FDB_OCC_ovf_used, .FDB_SLICE_USE_used, .HAM_CNT_v] s u := work.mono
    rw [hfind] at run
    subst ho
  case written =>
    rw [insertFound_new (by rwa [← quota, ← used] at hquota) ((same.free ..).trans hfree), tick] at run
    obtain ⟨done, entries, parts, fields⟩ := fdbBoth_completes wide (by decide) (by decide) d _ p _ ev
    refine ⟨_, run, done, ?_, ?_, fun h q hq => ?_, parts, fields⟩
    · rw [entries, if_pos ⟨rfl, .inl rfl⟩]
    · rw [entries, work.bridgeUp, same.word]
      exact if_congr (by simp [other_ne]) rfl rfl
    · rw [entries, if_neg (fun x => hq x.1), same.word]
  case rewritten =>
    subst hr
    rw [insertFound_replaces ((same.word ..).trans he), tick] at run
    obtain ⟨done, entries, parts, fields⟩ := fdbBoth_completes wide (by decide) (by decide) d _ p _ ev
    refine ⟨_, run, done, ?_, fun h q hq => ?_, parts, fields⟩
    · rw [entries, if_pos ⟨rfl, .inl rfl⟩]
    · rw [entries, if_neg (fun x => hq x.1), same.word]
  case present =>
    subst hr
    rw [insertFound_present ((same.word ..).trans he)] at run
    exact ⟨_, run, (completed_of_after work.within work.cpls 0x12 0 0).1, fun h q => (fdbAt_settle_complete u d 0x12 0 0 h q).trans (same.word h q)⟩
  case full =>
    rw [insertFound_full (by rwa [← quota, ← used] at hquota)] at run
    exact ⟨_, run, (completed_of_after work.within work.cpls 0x11 0 0).1, fun h q => (fdbAt_settle_complete u d 0x11 0 0 h q).trans (same.word h q)⟩

end Sys2Proof.Machine

namespace Sys2Proof.Machine

/-! ## LOCK (R115, R117) -/

/-- LOCK once its checks have passed: it waits while its bucket is locked, is refused where the lock table is full, and else takes the bucket. -/
def State.lockTry (s : State) (d : Hdr) (b : Nat) : State :=
  if (s.lockOf b).isSome then s.lockWait d (.lock d b) (s.rd .FDB_LOCK_CFG_read_retry [(bucketOwner b).n])
  else if 256 ≤ s.hostLocks (bucketOwner b) then (s.lockDone d).fail d 0x10
  else
    let r := (s.lockDone d).takeToken (bucketOwner b) b
    (r.2.setLock b (some (Lock.mk true r.1 d.fn (r.2.leaseEnd (bucketOwner b)))) 6 (some d.fn)).ok d r.1

/-- The lock that a descriptor takes now. -/
def State.nextLock (s : State) (d : Hdr) (b : Nat) : Lock := ⟨true, nextToken (s.lastToken (bucketOwner b)), d.fn, s.leaseEnd (bucketOwner b)⟩

/-- A bucket taken by a descriptor under the next token. -/
def State.lockTaken (s : State) (d : Hdr) (b : Nat) : State :=
  ((s.lockDone d).takeToken (bucketOwner b) b).2.setLock b (some (s.nextLock d b)) 6 (some d.fn)

theorem doLock_eq (d : Hdr) (b : Nat) (s : State) :
    doLock d b s = s.serve d (fdbRule 0x23 false) true (cleanHdr d false false false && decide (b < 1048576)) (fun s => s.lockTry d b) := rfl

theorem takeToken_eq (s : State) (o : Half) (b : Nat) :
    ∃ broken e w, s.takeToken o b = (nextToken (s.lastToken o), { s with fdb := { s.fdb with broken := broken, tokE := e, tokW := w } }) := by
  cases o <;> exact ⟨_, _, _, rfl⟩

/-- A free bucket is taken where the lock table has room (R115). -/
theorem lockTry_of_free {s : State} {b : Nat} (d : Hdr) (hl : s.lockOf b = none) (hn : s.hostLocks (bucketOwner b) < 256) :
    s.lockTry d b = (s.lockTaken d b).ok d (nextToken (s.lastToken (bucketOwner b))) := by
  unfold State.lockTry State.lockTaken State.nextLock
  rw [hl, if_neg (by simp), if_neg (by omega)]
  obtain ⟨broken, e, w, token⟩ := takeToken_eq (s.lockDone d) (bucketOwner b) b
  rw [token]
  rfl

theorem Works.lockTaken (s : State) (d : Hdr) (b : Nat) : Works [.fdb] [.HAM_CNT_v] s (s.lockTaken d b) := by
  obtain ⟨broken, e, w, token⟩ := takeToken_eq (s.lockDone d) (bucketOwner b) b
  unfold State.lockTaken
  rw [token]
  exact (((refl _ _ s).set_fdb _).set_fdb _).trans (setLock ..)

/-- Of the words, nothing changes; the descriptor waits no more. -/
theorem lockTaken_fdb (s : State) (d : Hdr) (b : Nat) : (s.lockTaken d b).fdb.ents = s.fdb.ents ∧ (s.lockTaken d b).fdb.retries = (s.lockDone d).fdb.retries := by
  obtain ⟨broken, e, w, token⟩ := takeToken_eq (s.lockDone d) (bucketOwner b) b
  unfold State.lockTaken
  rw [token, setLock_fdb]
  exact ⟨rfl, rfl⟩

theorem lockOf_lockTaken (s : State) (d : Hdr) (b c : Nat) : (s.lockTaken d b).lockOf c = if c = b then some (s.nextLock d b) else s.lockOf c := by
  obtain ⟨broken, e, w, token⟩ := takeToken_eq (s.lockDone d) (bucketOwner b) b
  unfold State.lockTaken
  rw [lockOf_setLock, token]
  rfl

/-- A LOCK of a free bucket completes with its token, and holds the bucket (R115). -/
theorem lock_completes {s u : State} {ps : List Part} {fs : List Fld} (h : Works ps fs s u) (hp : Part.fdb ∈ ps) (hf : Fld.HAM_CNT_v ∈ fs) (d : Hdr) (b n : Nat) :
    completed s (settle ((u.lockTaken d b).ok d n)) d 0 0 n ∧ partsBut ps s (settle ((u.lockTaken d b).ok d n))
      ∧ fieldsBut fs s (settle ((u.lockTaken d b).ok d n)) ∧ (settle ((u.lockTaken d b).ok d n)).fdb = (u.lockTaken d b).fdb := by
  have taken := h.andThen (.lockTaken u d b) (by simpa using hp) (by simpa using hf)
  obtain ⟨done, parts, fields⟩ := completed_of_after (d := d) taken.within taken.cpls 0 0 n
  exact ⟨done, parts, fields, fdb_settle_ok ..⟩

theorem exec_lock {s : State} {d : Hdr} {b : Nat} (hs : served s d (fdbRule 0x23 false) true (cleanHdr d false false false && decide (b < 1048576)))
    (hd : due s (.lock d b)) : exec (.lock d b) s = .next (settle ((s.descRun d).lockTry d b)) := doneDesc_of_served _ (hd d rfl) hs

theorem hostLocks_congr {s t : State} (h : t.fdb.locks = s.fdb.locks) (o : Half) : t.hostLocks o = s.hostLocks o := by
  unfold State.hostLocks
  rw [h]

theorem lastToken_congr {s t : State} (h : t.fdb = s.fdb) (o : Half) : t.lastToken o = s.lastToken o := by
  unfold State.lastToken
  rw [h]

theorem nextLock_descRun (s : State) (d : Hdr) (b : Nat) : (s.descRun d).nextLock d b = s.nextLock d b := by
  unfold State.nextLock State.leaseEnd State.elapsed
  rw [lastToken_congr (descRun_fdb s d), descRun_rd, descRun_time]

theorem lock_takes {s : State} {d : Hdr} {b : Nat} (hs : served s d (fdbRule 0x23 false) true (cleanHdr d false false false && decide (b < 1048576)))
    (hl : s.lockOf b = none) (hn : s.hostLocks (bucketOwner b) < 256) (hd : due s (.lock d b)) :
    ∃ t, exec (.lock d b) s = .next t ∧ completed s t d 0 0 (nextToken (s.lastToken (bucketOwner b)))
      ∧ t.lockOf b = some ⟨true, nextToken (s.lastToken (bucketOwner b)), d.fn, s.leaseEnd (bucketOwner b)⟩
      ∧ (∀ c, bucketOwner c = bucketOwner b → c ≠ b → t.lockOf c = s.lockOf c) ∧ t.fdb.ents = s.fdb.ents ∧ partsBut [.fdb] s t ∧ fieldsBut [.HAM_CNT_v] s t := by
  have fdb := descRun_fdb s d
  have run := exec_lock hs hd
  rw [lockTry_of_free d ((lockOf_descRun ..).trans hl) ((hostLocks_congr (congrArg Fdb.locks fdb) _).trans_lt hn), lastToken_congr fdb] at run
  obtain ⟨done, parts, fields, after⟩ := lock_completes (ps := [.fdb]) (fs := [.HAM_CNT_v]) (Works.descRun s d).mono (by simp) (by simp) d b
    (nextToken (s.lastToken (bucketOwner b)))
  have locks : ∀ c, _ = _ := fun c => (lockOf_congr (congrArg Fdb.locks after) c).trans (lockOf_lockTaken (s.descRun d) d b c)
  refine ⟨_, run, done, ?_, fun c _ hc => ?_, ?_, parts, fields⟩
  · rw [locks, if_pos rfl, nextLock_descRun]
    rfl
  · rw [locks, if_neg hc, lockOf_descRun]
  · rw [after, (lockTaken_fdb ..).1, fdb]

/-! ## UNLOCK and FDB_WAY_WRITE under a token (R115, R116, R118) -/

theorem heldBy_congr {s t : State} (h : t.fdb.locks = s.fdb.locks) (b n : Nat) : t.heldBy b n = s.heldBy b n := by
  unfold State.heldBy
  rw [lockOf_congr h]

theorem heldBy_descRun (s : State) (d : Hdr) (b n : Nat) : (s.descRun d).heldBy b n = s.heldBy b n := heldBy_congr (by rw [descRun_fdb]) b n

/-- A token that holds nothing: lost where its lock was broken, and else not held; the FDB stays (R116, R119). -/
theorem lockMissing_completes (s : State) (d : Hdr) (b : Nat) : (settle ((s.descRun d).lockMissing d b)).fdb = s.fdb
    ∧ (if (s.fdb.broken.get? [(bucketOwner b).n, b, d.token]).isSome then completed s (settle ((s.descRun d).lockMissing d b)) d 0x19 0 0
      else completed s (settle ((s.descRun d).lockMissing d b)) d 1 0x48 0) := by
  have ended : ∀ st a, (settle ((s.descRun d).complete d st a 0)).fdb = s.fdb ∧ completed s (settle ((s.descRun d).complete d st a 0)) d st a 0 := fun st a =>
    ⟨(fdb_settle_complete ..).trans (descRun_fdb s d), (completed_of_after (.descRun [] [] s d) (descRun_cpls s d) st a 0).1⟩
  unfold State.lockMissing
  rw [descRun_fdb]
  by_cases lost : (s.fdb.broken.get? [(bucketOwner b).n, b, d.token]).isSome = true
  · rw [if_pos lost, if_pos lost]
    exact ended 0x19 0
  · rw [if_neg lost, if_neg lost]
    exact ended 1 0x48

theorem exec_unlock {s : State} {d : Hdr} {b : Nat} (hs : served s d (fdbRule 0x24 false) true (cleanHdr d false true false && decide (b < 1048576)))
    (hd : due s (.unlock d b)) : exec (.unlock d b) s = .next (settle (if s.heldBy b d.token then ((s.descRun d).unlockBucket b 6 (some d.fn)).ok d 0
      else (s.descRun d).lockMissing d b)) := by
  rw [← heldBy_descRun]
  exact doneDesc_of_served _ (hd d rfl) hs

/-- UNLOCK under the holding token, where nothing waits for the bucket, releases the lock (R115). -/
theorem unlock_releases {s : State} {d : Hdr} {b : Nat} (hs : served s d (fdbRule 0x24 false) true (cleanHdr d false true false && decide (b < 1048576)))
    (hh : s.heldBy b d.token = true) (hp : s.fdb.portDel = []) (hr : s.fdb.resyncLeft = []) (hd : due s (.unlock d b)) :
    ∃ t, exec (.unlock d b) s = .next t ∧ completed s t d 0 0 0 ∧ t.lockOf b = none ∧ t.fdb.ents = s.fdb.ents ∧ partsBut [.fdb] s t ∧ fieldsBut [.HAM_CNT_v] s t := by
  have fdb := descRun_fdb s d
  have run := exec_unlock hs hd
  rw [if_pos hh, unlockBucket_idle (by rw [fdb, hp]) (by rw [fdb, hr])] at run
  have freed : Works [.fdb] [.HAM_CNT_v] s ((s.descRun d).setLock b none 6 (some d.fn)) := (Works.descRun s d).mono.trans (.setLock ..)
  obtain ⟨done, parts, fields⟩ := completed_of_after (d := d) freed.within freed.cpls 0 0 0
  have after := fdb_settle_ok ((s.descRun d).setLock b none 6 (some d.fn)) d 0
  refine ⟨_, run, done, ?_, ?_, parts, fields⟩
  · exact (lockOf_congr (congrArg Fdb.locks after) b).trans ((lockOf_setLock ..).trans (if_pos rfl))
  · refine (congrArg Fdb.ents after).trans ?_
    rw [setLock_fdb, fdb]

theorem SMap.mem_of_get? {α : Type} {m : SMap α} {k : List Nat} {v : α} (h : SMap.get? m k = some v) : (k, v) ∈ m := by
  induction m with
  | nil => simp at h
  | cons e m ih =>
    obtain ⟨x, a⟩ := e
    rw [SMap.get?] at h
    split at h
    · obtain rfl := Option.some.inj h
      obtain rfl := ‹x = k›
      exact List.mem_cons_self
    · exact List.mem_cons_of_mem _ (ih h)

/-- A key of no entry stands at no place. -/
theorem holds_of_absent {s : State} {k : FKey} (hk : ∀ x ∈ s.fdb.ents, x.2.key ≠ k) (o : Half) (p : List Nat) : s.holds o k p = false := by
  unfold State.holds
  split
  · exact decide_eq_false (hk _ (SMap.mem_of_get? ‹_›))
  · rfl

theorem ovf_of_absent {s : State} {k : FKey} (hk : ∀ x ∈ s.fdb.ents, x.2.key ≠ k) (o : Half) : (s.fdbOvf o).any (fun x => x.2.key = k) = false := by
  rw [List.any_eq_false]
  intro x hx
  obtain ⟨e, he, hx⟩ := List.mem_filterMap.1 hx
  have same : x.2 = e.2 := by
    split at hx
    · split at hx
      · rw [← Option.some.inj hx]
      · simp at hx
    · simp at hx
  rw [same]
  simpa using hk e he

/-- FDB_WAY_WRITE of an entry whose key stands nowhere, and of one under a token that holds nothing (R118). -/
theorem exec_fdbWayWrite {s : State} {d : Hdr} {b way : Nat} {bs : List Byte}
    (hs : served s d (fdbRule 0x25 false) true (cleanHdr d false true true && decide (b < 1048576) && decide (way < 4) && decide (32 ≤ d.hlen)))
    (hb : d.buf = some bs) (hd : due s (.fdbWayWrite d b way)) :
    (∀ e, s.heldBy b d.token = true → entOf bs = some e → (∀ x ∈ s.fdb.ents, x.2.key ≠ e.key) →
      ∃ ev, exec (.fdbWayWrite d b way) s = .next (settle (((s.descRun d).fdbBoth (bucketOwner b) [b, way] (some e) ev).ok d 0)))
    ∧ (s.heldBy b d.token = false → exec (.fdbWayWrite d b way) s = .next (settle ((s.descRun d).lockMissing d b))) := by
  have run : exec (.fdbWayWrite d b way) s = _ := doneDesc_of_served _ (hd d rfl) hs
  simp only [State.withBuf, hb, heldBy_descRun] at run
  refine ⟨fun e hh he hk => ⟨(s.descRun d).engEv (bucketOwner b) 6 (some d.fn), ?_⟩, fun hh => ?_⟩
  · have absent : ∀ x ∈ (s.descRun d).fdb.ents, x.2.key ≠ e.key := by rwa [descRun_fdb]
    have ways : (List.range 4).any (fun w => w ≠ way && (s.descRun d).holds (bucketOwner b) e.key [b, w]) = false := by
      simp [holds_of_absent absent]
    have twin := Bool.or_eq_false_iff.2 ⟨ways, ovf_of_absent absent (bucketOwner b)⟩
    rw [if_neg (by simp [hh]), he] at run
    exact run.trans (congrArg (fun u => Host.Outcome.next (settle u)) (if_neg (by rw [← Bool.not_eq_true] at twin; exact twin)))
  · rwa [if_pos (by simp [hh])] at run

theorem fdbWayWrite_writes {s : State} {d : Hdr} {b way : Nat} {bs : List Byte} {e : FdbEnt}
    (hs : served s d (fdbRule 0x25 false) true (cleanHdr d false true true && decide (b < 1048576) && decide (way < 4) && decide (32 ≤ d.hlen)))
    (hb : d.buf = some bs) (hh : s.heldBy b d.token = true) (he : entOf bs = some e) (hk : ∀ x ∈ s.fdb.ents, x.2.key ≠ e.key) (hd : due s (.fdbWayWrite d b way)) :
    ∃ t, exec (.fdbWayWrite d b way) s = .next t ∧ completed s t d 0 0 0 ∧ t.fdbAt (bucketOwner b) [b, way] = some e
      ∧ (∀ h q, q ≠ [b, way] → t.fdbAt h q = s.fdbAt h q) ∧ t.fdb.locks = s.fdb.locks ∧ partsBut [.fdb, .ras] s t := by
  obtain ⟨ev, run⟩ := (exec_fdbWayWrite hs hb hd).1 e hh he hk
  obtain ⟨done, entries, parts, -⟩ := fdbBoth_completes (ps := [.fdb, .ras]) (fs := useFlds) (Works.descRun s d).mono (by decide) (by decide) d (bucketOwner b)
    [b, way] (some e) ev
  refine ⟨_, run, done, ?_, fun h q hq => ?_, ?_, parts⟩
  · rw [entries, if_pos ⟨rfl, .inl rfl⟩]
  · rw [entries, if_neg (fun x => hq x.1), fdbAt_congr (congrArg Fdb.ents (descRun_fdb s d))]
  · have rest := fdbBoth_rest (s.descRun d) (bucketOwner b) [b, way] (some e) ev
    rw [descRun_fdb] at rest
    exact (congrArg Fdb.locks (fdb_settle_ok ..)).trans (congrArg Fdb.locks rest : _ = s.fdb.rest.locks)

end Sys2Proof.Machine

namespace Sys2Proof.Machine

/-! ## LOCK_RETRY (R117) -/

/-- The checks of R338 do not see reports that leave the fetched descriptors alone. -/
theorem Reports.refusal {s t : State} (h : Reports s t) (x : Hdr) (r : Rule) (own clean train : Bool) :
    t.refusal x r own clean train = s.refusal x r own clean train := by
  have enabled : t.on .HST_FN_desc_en [0, x.fn] = s.on .HST_FN_desc_en [0, x.fn] := by unfold State.on; rw [h.rd _ _ rfl]
  have taken : t.isTaken x = s.isTaken x := by unfold State.isTaken; rw [h.taken]
  have mode : t.mode = s.mode := h.rd _ _ rfl
  have op : t.rd .SYS_MODE_maint_op [0] = s.rd .SYS_MODE_maint_op [0] := h.rd _ _ rfl
  have unresolved : t.unresolved = s.unresolved := by unfold State.unresolved State.own; rw [h.rd _ _ rfl, h.rd _ _ rfl]
  have up : t.bridgeUp = s.bridgeUp := by unfold State.bridgeUp State.on; rw [h.rd _ _ rfl]
  have legal : ∀ l, t.illegal l = s.illegal l := fun l => by unfold State.illegal; simp only [mode, op]
  unfold State.refusal
  rw [enabled, taken, unresolved, mode, legal, up]

/-- A retry is counted, and its descriptor is taken off the list (R117, R288). -/
def State.retryBegun (s : State) (d : Hdr) : State := (s.pmc (s.ringHalf d) 10 ⟨2, 0, 0, 0, some d.fn⟩ 1).lockDone d

theorem retryBegun_counted (s : State) (d : Hdr) : Reports s (s.pmc (s.ringHalf d) 10 ⟨2, 0, 0, 0, some d.fn⟩ 1) := (Reports.refl s).pmc ..

theorem Works.retryBegun (s : State) (d : Hdr) : Works [.fdb] [] s (s.retryBegun d) := (retryBegun_counted s d).works.mono.set_fdb _

theorem lockDone_refusal (s : State) (d x : Hdr) (r : Rule) (own clean train : Bool) : (s.lockDone d).refusal x r own clean train = s.refusal x r own clean train := rfl

theorem retryBegun_refusal (s : State) (d x : Hdr) (r : Rule) (own clean train : Bool) :
    (s.retryBegun d).refusal x r own clean train = s.refusal x r own clean train :=
  (lockDone_refusal _ d x r own clean train).trans ((retryBegun_counted s d).refusal x r own clean train)

theorem retryBegun_fdb (s : State) (d : Hdr) : (s.retryBegun d).fdb = (s.lockDone d).fdb := by
  unfold State.retryBegun State.lockDone
  rw [pmc_fdb]

theorem retries_lockDone_of_none {s : State} {d : Hdr} (h : s.fdb.retries = []) : (s.lockDone d).fdb.retries = [] := by
  unfold State.lockDone
  rw [h]
  rfl

/-- The one descriptor that waits waits no more. -/
theorem retries_lockDone_of_single {s : State} {d : Hdr} {cmd : Instr} {left : Nat} (h : s.fdb.retries = [⟨d, cmd, left⟩]) : (s.lockDone d).fdb.retries = [] := by
  unfold State.lockDone
  rw [h]
  simp

theorem retries_retryBegun {s : State} {d : Hdr} {cmd : Instr} {left : Nat} (h : s.fdb.retries = [⟨d, cmd, left⟩]) : (s.retryBegun d).fdb.retries = [] := by
  rw [retryBegun_fdb, retries_lockDone_of_single h]

/-- Other descriptors wait for locks. -/
def State.withRetries (s : State) (l : List Retry) : State := s.withFdb { s.fdb with retries := l }

theorem withRetries_retries (s : State) (l : List Retry) : (s.withRetries l).fdb.retries = l := rfl

theorem Works.withRetries {s t : State} (h : Works [.fdb] [] s t) (l : List Retry) : Works [.fdb] [] s (t.withRetries l) := h.withFdb _

theorem Works.lockDone {s t : State} (h : Works [.fdb] [] s t) (d : Hdr) : Works [.fdb] [] s (t.lockDone d) := h.set_fdb _

/-- A locked bucket lets a LOCK wait where none of its kind does (R117). -/
theorem lockTry_of_locked {s : State} {b : Nat} (d : Hdr) (hr : s.fdb.retries = []) (hl : (s.lockOf b).isSome = true)
    (hn : 0 < s.rd .FDB_LOCK_CFG_read_retry [(bucketOwner b).n]) : s.lockTry d b
      = s.withRetries [⟨d, .lock d b, s.rd .FDB_LOCK_CFG_read_retry [(bucketOwner b).n]⟩] := by
  unfold State.lockTry State.lockWait
  rw [if_pos hl, hr, if_neg (by simp), if_neg (by omega)]
  rfl

theorem exec_lockRetry (fn ring cnt : Nat) (s : State) : exec (.lockRetry fn ring cnt) s = .next (settle (doLockRetry fn ring cnt s)) := rfl

/-- The retry of a LOCK, the only descriptor that waits, tries its bucket again (R117). -/
theorem retry_tries {s : State} {d : Hdr} {b : Nat} (hs : served s d (fdbRule 0x23 false) true (cleanHdr d false false false && decide (b < 1048576))) :
    doLock d b (s.retryBegun d) = (s.retryBegun d).lockTry d b := by
  rw [doLock_eq]
  exact serve_of_pass _ ((retryBegun_refusal ..).trans hs)

/-- A retry after which the descriptor waits no more is over. -/
theorem doLockRetry_of_ended {s u : State} {d : Hdr} {b left : Nat} (hr : s.fdb.retries = [⟨d, .lock d b, left⟩]) (hu : doLock d b (s.retryBegun d) = u)
    (he : u.fdb.retries = []) : doLockRetry d.fn d.ring d.cnt s = u := by
  unfold State.retryBegun at hu
  unfold doLockRetry
  rw [hr]
  simp only [List.find?_cons, decide_true, Bool.and_self]
  rw [hu, he]
  rfl

/-- A retry after which the descriptor waits again has used up one of its retries, and after the last one it fails (R117). -/
theorem doLockRetry_of_waiting {s u : State} {d : Hdr} {b left n : Nat} (hr : s.fdb.retries = [⟨d, .lock d b, left⟩]) (hu : doLock d b (s.retryBegun d) = u)
    (hw : u.fdb.retries = [⟨d, .lock d b, n⟩]) (hn : left ≠ noLimit) :
    doLockRetry d.fn d.ring d.cnt s = if left ≤ 1 then (u.lockDone d).fail d 0x18 else u.withRetries [⟨d, .lock d b, left - 1⟩] := by
  unfold State.retryBegun at hu
  unfold doLockRetry
  rw [hr]
  simp only [List.find?_cons, decide_true, Bool.and_self]
  rw [hu, hw]
  simp [hn, State.withRetries, State.withFdb]

/-- A LOCK that finds its bucket locked waits (R117). -/
theorem lock_waits {s : State} {d : Hdr} {b : Nat} (hs : served s d (fdbRule 0x23 false) true (cleanHdr d false false false && decide (b < 1048576)))
    (hr : s.fdb.retries = []) (hl : (s.lockOf b).isSome = true) (hn : 0 < s.rd .FDB_LOCK_CFG_read_retry [(bucketOwner b).n]) (hd : due s (.lock d b)) :
    ∃ t, exec (.lock d b) s = .next t ∧ t.host.cpls = s.host.cpls
      ∧ t.fdb.retries = [⟨d, .lock d b, s.rd .FDB_LOCK_CFG_read_retry [(bucketOwner b).n]⟩] := by
  have run := exec_lock hs hd
  rw [lockTry_of_locked d (by rw [descRun_fdb, hr]) (by rw [lockOf_descRun, hl]) (by rwa [descRun_rd]), descRun_rd] at run
  exact ⟨_, run, descRun_cpls s d, rfl⟩

/-- The locks that a retry begins with are those of the state. -/
theorem lockOf_retryBegun (s : State) (d : Hdr) (b : Nat) : (s.retryBegun d).lockOf b = s.lockOf b := lockOf_congr (congrArg Fdb.locks (retryBegun_fdb s d)) b

/-- A retry that finds its bucket locked uses up one of the retries, and the last one completes the LOCK with LOCK_TIMEOUT (R117). -/
theorem retry_of_locked {s : State} {d : Hdr} {b left : Nat} {l : Lock}
    (hs : served s d (fdbRule 0x23 false) true (cleanHdr d false false false && decide (b < 1048576))) (hr : s.fdb.retries = [⟨d, .lock d b, left⟩])
    (hl : s.lockOf b = some l) (hn : left ≠ noLimit) (hc : 0 < s.rd .FDB_LOCK_CFG_read_retry [(bucketOwner b).n]) :
    ∃ t, exec (.lockRetry d.fn d.ring d.cnt) s = .next t ∧ t.lockOf b = some l
      ∧ (if left ≤ 1 then completed s t d 0x18 0 0 ∧ t.fdb.retries = [] else t.host.cpls = s.host.cpls ∧ t.fdb.retries = [⟨d, .lock d b, left - 1⟩]) := by
  have begun := Works.retryBegun s d
  have none := retries_retryBegun hr
  have locked := (lockOf_retryBegun s d b).trans hl
  have count : (s.retryBegun d).rd .FDB_LOCK_CFG_read_retry [(bucketOwner b).n] = s.rd .FDB_LOCK_CFG_read_retry [(bucketOwner b).n] :=
    begun.within.rd _ _ (by simp)
  have waits := lockTry_of_locked d none (by rw [locked]; rfl) (by rwa [count])
  have retried := doLockRetry_of_waiting hr ((retry_tries hs).trans waits) (withRetries_retries ..) hn
  generalize s.retryBegun d = u at begun none locked retried
  have run := exec_lockRetry d.fn d.ring d.cnt s
  rw [retried] at run
  by_cases last : left ≤ 1
  · rw [if_pos last] at run
    simp only [if_pos last]
    have ended := (begun.withRetries [⟨d, .lock d b, u.rd .FDB_LOCK_CFG_read_retry [(bucketOwner b).n]⟩]).lockDone d
    have after := fdb_settle_complete ((u.withRetries [⟨d, .lock d b, u.rd .FDB_LOCK_CFG_read_retry [(bucketOwner b).n]⟩]).lockDone d) d 0x18 0 0
    refine ⟨_, run, ?_, (completed_of_after (d := d) ended.within ended.cpls 0x18 0 0).1, ?_⟩
    · exact (lockOf_congr (congrArg Fdb.locks after) b).trans locked
    · exact (congrArg Fdb.retries after).trans (retries_lockDone_of_single (withRetries_retries ..))
  · rw [if_neg last] at run
    simp only [if_neg last]
    exact ⟨_, run, locked, begun.cpls, rfl⟩

theorem lastToken_retryBegun (s : State) (d : Hdr) (o : Half) : (s.retryBegun d).lastToken o = s.lastToken o := by
  unfold State.lastToken
  rw [retryBegun_fdb]
  rfl

theorem ok_fdb (s : State) (d : Hdr) (r : Nat) : (s.ok d r).fdb = s.fdb := by
  unfold State.ok
  rw [complete_def, completeX_fdb]

/-- A retry that finds its bucket free takes it (R115, R117). -/
theorem retry_of_free {s : State} {d : Hdr} {b left : Nat} (hs : served s d (fdbRule 0x23 false) true (cleanHdr d false false false && decide (b < 1048576)))
    (hr : s.fdb.retries = [⟨d, .lock d b, left⟩]) (hl : s.lockOf b = none) (hn : s.hostLocks (bucketOwner b) < 256) :
    ∃ t, exec (.lockRetry d.fn d.ring d.cnt) s = .next t ∧ completed s t d 0 0 (nextToken (s.lastToken (bucketOwner b))) ∧ t.fdb.retries = [] := by
  have begun : Works [.fdb] [.HAM_CNT_v] s (s.retryBegun d) := (Works.retryBegun s d).mono
  have fdb := retryBegun_fdb s d
  have none := retries_retryBegun hr
  have tries := lockTry_of_free d ((lockOf_retryBegun s d b).trans hl) ((hostLocks_congr (congrArg Fdb.locks fdb) _).trans_lt hn)
  have last : (s.retryBegun d).lastToken (bucketOwner b) = s.lastToken (bucketOwner b) := lastToken_retryBegun ..
  rw [last] at tries
  obtain ⟨done, -, -, after⟩ := lock_completes begun (by simp) (by simp) d b (nextToken (s.lastToken (bucketOwner b)))
  have ended : ((s.retryBegun d).lockTaken d b).fdb.retries = [] := (lockTaken_fdb ..).2.trans (retries_lockDone_of_none none)
  have ends := doLockRetry_of_ended hr ((retry_tries hs).trans tries) ((congrArg Fdb.retries (ok_fdb ..)).trans ended)
  have run := exec_lockRetry d.fn d.ring d.cnt s
  rw [ends] at run
  exact ⟨_, run, done, (congrArg Fdb.retries after).trans ended⟩

/-- Settles O12: a LOCK takes its bucket, waits for it or fails by its retries; a token that holds a bucket releases it and writes its ways, and one that holds nothing is refused. -/
theorem fdbHostLockAndRetry : Obligations.FdbHostLockAndRetry := by
  refine ⟨fun s d b => ⟨lock_takes, fun hs => ⟨unlock_releases hs, fun hh hd => ?_⟩, fun way bs hs hb => ⟨fun e hh he hk hd => fdbWayWrite_writes hs hb hh he hk hd,
    fun hh hd => ?_⟩⟩, fun s d b left hs => ⟨lock_waits hs, fun l hr hl hn hc => retry_of_locked hs hr hl hn hc, retry_of_free hs⟩⟩
  · refine ⟨_, exec_unlock hs hd, ?_⟩
    rw [if_neg (by simp [hh])]
    exact lockMissing_completes s d b
  · exact ⟨_, (exec_fdbWayWrite hs hb hd).2 hh, lockMissing_completes s d b⟩

end Sys2Proof.Machine

namespace Sys2Proof.Machine

/-! ## FDB_READ (R117, R119, R121) -/

/-- What is known of the state in which FDB_READ has read its words: reports alone, that write no host memory, and of the FDB at most that the descriptor waits no more. -/
structure ReadsFdb (s u : State) : Prop where
  within : Within [.fdb] [] s u
  cpls : u.host.cpls = s.host.cpls
  mute : Mute s u
  words : SameFdb s u
  locks : u.fdb.locks = s.fdb.locks

theorem ReadsFdb.report {s t u : State} (h : ReadsFdb s t) (k : Reports t u) (m : Mute t u) : ReadsFdb s u :=
  ⟨h.within.report k, k.cpls.trans h.cpls, h.mute.trans m, h.words.trans k.sameFdb, by rw [k.fdb, h.locks]⟩

theorem Mute.fdbBegun (s : State) (d : Hdr) : Mute s (s.fdbBegun d) := (Mute.descRun s d).trans ⟨fun _ => rfl, fun _ => rfl⟩

theorem ReadsFdb.begun (s : State) (d : Hdr) : ReadsFdb s (s.fdbBegun d) :=
  ⟨(Works.fdbBegun s d).within, (Works.fdbBegun s d).cpls, .fdbBegun s d, fdbBegun_sameFdb s d, by rw [fdbBegun_fdb]⟩

/-- The answer of FDB_READ: the image that was found, with a result, or NOT_FOUND. -/
def State.fdbAnswer (s : State) (d : Hdr) (out : Option (List Byte × Nat)) : State :=
  match out with
  | some x => (s.hostWrite d.haddr x.1).ok d x.2
  | none => s.fail d 0x14

/-- What the answer of FDB_READ does. -/
theorem fdbAnswer_completes {s u : State} (h : ReadsFdb s u) (d : Hdr) (out : Option (List Byte × Nat)) :
    (settle (u.fdbAnswer d out)).fdb.ents = s.fdb.ents ∧ (settle (u.fdbAnswer d out)).fdb.locks = s.fdb.locks
      ∧ partsBut [.fdb] s (settle (u.fdbAnswer d out)) ∧ fieldsBut [] s (settle (u.fdbAnswer d out))
      ∧ (match out with
        | some x => completed s (settle (u.fdbAnswer d out)) d 0 0 x.2
          ∧ (s.on .HST_RING_CFG_en [d.fn, d.ring + 4] = false → s.on .HST_RING_CFG_en [0, 8] = false →
            (settle (u.fdbAnswer d out)).host.mem = s.host.mem.setBytes d.haddr x.1)
        | none => completed s (settle (u.fdbAnswer d out)) d 0x14 0 0) := by
  cases out with
  | none =>
    have fdb := fdb_settle_complete u d 0x14 0 0
    obtain ⟨done, parts, fields⟩ := completed_of_after (d := d) h.within h.cpls 0x14 0 0
    exact ⟨(congrArg Fdb.ents fdb).trans h.words.ents, (congrArg Fdb.locks fdb).trans h.locks, parts, fields, done⟩
  | some x =>
    have fdb := (fdb_settle_ok (u.hostWrite d.haddr x.1) d x.2).trans (hostWrite_fdb ..)
    have written : Within [.fdb] [] s (u.hostWrite d.haddr x.1) := ⟨partsBut_hostWrite h.within.parts d.haddr x.1, fieldsBut_hostWrite h.within.fields d.haddr x.1⟩
    obtain ⟨done, parts, fields⟩ := completed_of_after (d := d) written h.cpls 0 0 x.2
    refine ⟨(congrArg Fdb.ents fdb).trans h.words.ents, (congrArg Fdb.locks fdb).trans h.locks, parts, fields, done, fun hc he => ?_⟩
    have hc' : (u.hostWrite d.haddr x.1).on .HST_RING_CFG_en [d.fn, d.ring + 4] = false := (h.mute.on _).trans hc
    have he' : (u.hostWrite d.haddr x.1).on .HST_RING_CFG_en [0, 8] = false := (h.mute.on _).trans he
    show ((u.hostWrite d.haddr x.1).completeX d 0 0 x.2 none).host.mem = _
    rw [mem_completeX_of_off hc' he', hostWrite_mem, h.mute.mem he]

/-- A word without errors is read as it stands, with reports alone, which write no host memory. -/
theorem fdbWordRead_clean {s : State} (hp : s.ras.poison = []) (o : Half) (p : List Nat) (fn : Nat) :
    (s.fdbWordRead o p fn).1 = entBytes (s.fdbAt o p) ∧ Reports s (s.fdbWordRead o p fn).2 ∧ Mute s (s.fdbWordRead o p fn).2 := by
  have read := (Reports.refl s).dma o (s.engEv o 6 (some fn)) 2 p 0
  unfold State.fdbWordRead
  dsimp only
  rw [eccReadAt_clean (by rw [read.ras, hp])]
  simp only [Bool.false_eq_true, if_false]
  exact ⟨congrArg entBytes (read.sameFdb.word o p), read, .dma ..⟩

/-- One way of a bucket is read (R121). -/
def State.readWay (o : Half) (b fn : Nat) (a : List Byte × State) (w : Nat) : List Byte × State :=
  ((a.1 ++ (a.2.fdbWordRead o [b, w] fn).1), (a.2.fdbWordRead o [b, w] fn).2)

/-- Ways without errors are read as they stand, with reports alone, which write no host memory. -/
theorem readWays_clean {s : State} (hp : s.ras.poison = []) (o : Half) (b fn : Nat) (ws : List Nat) :
    (ws.foldl (State.readWay o b fn) ([], s)).1 = ws.flatMap (fun w => entBytes (s.fdbAt o [b, w]))
      ∧ Reports s (ws.foldl (State.readWay o b fn) ([], s)).2 ∧ Mute s (ws.foldl (State.readWay o b fn) ([], s)).2 := by
  suffices all : ∀ a : List Byte × State, Reports s a.2 → Mute s a.2 →
      (ws.foldl (State.readWay o b fn) a).1 = a.1 ++ ws.flatMap (fun w => entBytes (s.fdbAt o [b, w]))
      ∧ Reports s (ws.foldl (State.readWay o b fn) a).2 ∧ Mute s (ws.foldl (State.readWay o b fn) a).2 from all ([], s) (.refl s) (.refl s)
  induction ws with
  | nil => exact fun a ha hm => ⟨by simp, ha, hm⟩
  | cons w ws ih =>
    intro a ha hm
    obtain ⟨word, read, mute⟩ := fdbWordRead_clean (s := a.2) (by rw [ha.ras, hp]) o [b, w] fn
    rw [ha.sameFdb.word] at word
    rw [List.foldl_cons, State.readWay, word, List.flatMap_cons, ← List.append_assoc]
    generalize a.2.fdbWordRead o [b, w] fn = x at read mute ⊢
    exact ih (a.1 ++ entBytes (s.fdbAt o [b, w]), x.2) (ha.trans read) (hm.trans mute)

/-- The words that FDB_READ finds in a copy. -/
def State.fdbImage (s : State) (o : Half) (mode : Nat) (k : FKey) (idx : Nat) : Option (List Byte × Nat) :=
  match mode with
  | 0 => (s.fdbFind o k).map (fun p => (entBytes (s.fdbAt o p), 0))
  | 1 => some ((List.range 4).flatMap (fun w => entBytes (s.fdbAt o [idx, w])), (s.fdbOvfOf o idx).length)
  | _ => (s.fdbAt o [ovfBucket, idx]).map (fun e => (entBytes (some e), 0))

theorem SameFdb.image {s t : State} (h : SameFdb s t) (o : Half) (mode : Nat) (k : FKey) (idx : Nat) : t.fdbImage o mode k idx = s.fdbImage o mode k idx := by
  unfold State.fdbImage
  simp only [h.find, h.word, h.ovfOf]

/-- Where no word has an error, FDB_READ answers with what stands in the copy. -/
theorem fdbReadNow_clean {s : State} {d : Hdr} (hp : s.ras.poison = []) (hb : d.buf.isSome = true) (o : Half) (mode : Nat) (k : FKey) (idx : Nat) :
    ∃ u, Reports s u ∧ Mute s u ∧ s.fdbReadNow d o mode k idx = u.fdbAnswer d (s.fdbImage o mode k idx) := by
  obtain ⟨buf, hbuf⟩ := Option.isSome_iff_exists.1 hb
  unfold State.fdbReadNow State.withBuf State.fdbImage
  rw [hbuf]
  match mode with
  | 0 =>
    obtain ⟨found, read, mute⟩ := fdbSeek_clean hp o k (s.engEv o 6 (some d.fn))
    refine ⟨_, read, mute, ?_⟩
    dsimp only
    rw [found]
    cases s.fdbFind o k with
    | none => rfl
    | some p =>
      dsimp only [Option.map_some]
      rw [read.sameFdb.word]
      rfl
  | 1 =>
    obtain ⟨bytes, read, mute⟩ := readWays_clean hp o idx d.fn (List.range 4)
    unfold State.readWay at bytes read mute
    refine ⟨_, read, mute, ?_⟩
    simp only [← bytes, ← read.sameFdb.ovfOf, State.fdbAnswer]
  | mode + 2 =>
    dsimp only
    cases he : s.fdbAt o [ovfBucket, idx] with
    | none => exact ⟨s, .refl s, .refl s, rfl⟩
    | some e =>
      obtain ⟨word, read, mute⟩ := fdbWordRead_clean hp o [ovfBucket, idx] d.fn
      refine ⟨_, read, mute, ?_⟩
      dsimp only [Option.map_some]
      rw [word, he]
      rfl

/-- The bucket that FDB_READ reads in (R119). -/
def State.readBucket (s : State) (d : Hdr) (ka : KeyArg) (mode idx : Nat) : Nat :=
  match mode with
  | 0 => s.fdbBucket (s.ringHalf d) (fkeyOf ka d)
  | 1 => idx
  | _ => s.fdbBucketAt (Half.of (idx / 8192)) [ovfBucket, idx]

theorem SameFdb.bucketAt {s t : State} (h : SameFdb s t) (x : Half) (p : List Nat) : t.fdbBucketAt x p = s.fdbBucketAt x p := by
  unfold State.fdbBucketAt
  simp only [h.word, h.bucket]

theorem readBucket_descRun (s : State) (d : Hdr) (ka : KeyArg) (mode idx : Nat) : (s.descRun d).readBucket d ka mode idx = s.readBucket d ka mode idx := by
  have same := (Works.descRun s d).sameFdb
  unfold State.readBucket
  simp only [same.bucketAt, same.bucket, (Works.descRun s d).within.ringHalf]

/-- FDB_READ once its checks have passed, in a bucket of an owner (R117, R119). -/
def State.fdbReadTry (s : State) (d : Hdr) (ka : KeyArg) (mode idx b : Nat) (o : Half) : State :=
  if mode = 0 ∧ (fkeyOf ka d).bad then s.fail d 0x15
  else if ¬ s.bridgeUp ∧ o ≠ s.ringHalf d then s.fail d stOwner
  else if d.token ≠ 0 ∧ (s.fdb.broken.get? [o.n, b, d.token]).isSome then s.fail d 0x19
  else match s.lockOf b with
    | some l =>
      if l.host ∧ l.token = d.token then (s.lockDone d).fdbReadNow d o mode (fkeyOf ka d) idx
      else s.lockWait d (.fdbRead d mode ka idx) (s.rd .FDB_LOCK_CFG_read_retry [o.n])
    | none => (s.lockDone d).fdbReadNow d o mode (fkeyOf ka d) idx

/-- A bucket that is free, or held under the descriptor's token, and that the ring's half may read, is read now. -/
theorem fdbReadTry_now {s : State} {d : Hdr} {ka : KeyArg} {mode idx b : Nat} {o : Half} (hk : mode = 0 → (fkeyOf ka d).bad = false)
    (hu : s.bridgeUp = true ∨ o = s.ringHalf d) (ht : d.token = 0 ∨ s.fdb.broken.get? [o.n, b, d.token] = none)
    (hl : s.lockOf b = none ∨ s.heldBy b d.token = true) : s.fdbReadTry d ka mode idx b o = (s.lockDone d).fdbReadNow d o mode (fkeyOf ka d) idx := by
  have good : ¬ (mode = 0 ∧ (fkeyOf ka d).bad = true) := fun h => by simp [hk h.1] at h
  have may : ¬ (¬ s.bridgeUp = true ∧ o ≠ s.ringHalf d) := fun h => hu.elim h.1 h.2
  have kept : ¬ (d.token ≠ 0 ∧ (s.fdb.broken.get? [o.n, b, d.token]).isSome = true) := fun h => ht.elim h.1 (fun x => by simp [x] at h)
  unfold State.fdbReadTry
  rw [if_neg good, if_neg may, if_neg kept]
  unfold State.heldBy at hl
  cases held : s.lockOf b with
  | none => rfl
  | some l =>
    have mine : l.host = true ∧ l.token = d.token := by simpa [held] using hl
    exact if_pos mine

theorem exec_fdbRead {s : State} {d : Hdr} {ka : KeyArg} {mode idx : Nat}
    (hs : served s d ⟨0x22, .reads, false, true, 0⟩ (ownSlice d d.slice && (d.fn = 0 || mode = 0))
      (cleanHdr d true true true && (match mode with | 0 => true | 1 => decide (idx < 1048576) | 2 => decide (idx < 16384) | _ => false)
        && decide ((if mode = 1 then 128 else 32) ≤ d.hlen))) (hd : due s (.fdbRead d mode ka idx)) :
    exec (.fdbRead d mode ka idx) s = .next (settle ((s.descRun d).fdbReadTry d ka mode idx (s.readBucket d ka mode idx)
      (if mode = 2 then Half.of (idx / 8192) else bucketOwner (s.readBucket d ka mode idx)))) := by
  rw [← readBucket_descRun]
  exact doneDesc_of_served _ (hd d rfl) hs

/-- Settles O13: the words of the three modes are read as they stand and answered. -/
theorem fdbRead : Obligations.FdbRead := by
  unfold Obligations.FdbRead
  intro s d ka mode idx b o out hs hb ho hout hk hu ht hl hbuf hp hd
  have begun := ReadsFdb.begun s d
  obtain rfl : b = s.readBucket d ka mode idx := hb
  have image : out = s.fdbImage o mode (fkeyOf ka d) idx := hout
  have now : (s.descRun d).fdbReadTry d ka mode idx (s.readBucket d ka mode idx) o = (s.fdbBegun d).fdbReadNow d o mode (fkeyOf ka d) idx := by
    refine fdbReadTry_now hk ?_ ?_ ?_
    · rwa [(Works.descRun s d).bridgeUp, (Works.descRun s d).within.ringHalf]
    · rwa [descRun_fdb]
    · rwa [lockOf_descRun, heldBy_descRun]
  obtain ⟨u, read, mute, answer⟩ := fdbReadNow_clean ((Works.fdbBegun s d).clean hp) hbuf o mode (fkeyOf ka d) idx
  have run := exec_fdbRead hs hd
  rw [← ho, now, answer, begun.words.image, ← image] at run
  exact ⟨_, run, fdbAnswer_completes (begun.report read mute) d out⟩

end Sys2Proof.Machine

namespace Sys2Proof.Machine

/-! ## A learn event joins its owner's queue (R107) -/

/-- A learn event that has arrived is off the bridge. -/
def State.eventTaken (s : State) (e : Half × LearnEv) : State := s.withFdb { s.fdb with learns := s.fdb.learns.erase e }

/-- A learn event at the end of an owner's queue. -/
def State.eventQueued (s : State) (o : Half) (ev : LearnEv) : State := s.withFdb { s.fdb with learnQ := s.fdb.learnQ ++ [(o, ev)] }

theorem exec_learnEventEnqueue {s : State} {h : Half} {e : Half × LearnEv} (he : s.fdb.learns.find? (fun e => e.1 = h) = some e) :
    exec (.learnEventEnqueue h) s = .next (settle ((s.eventTaken e).learnEnqueue h e.2)) := by
  show Host.Outcome.next (settle (doLearnEventEnqueue h s)) = _
  unfold doLearnEventEnqueue
  rw [he]
  rfl

/-- An event for which the queue has room, and whose crossing is free, is queued and counted (R107). -/
theorem learnEnqueue_of_room {s : State} {o : Half} (ev : LearnEv) (hn : (s.fdb.learnQ.filter (fun e => e.1 = o)).length < 4096) (hx : s.xingBusy o 3 0 = false) :
    Works [.fdb] [.FDB_CNT_v] s (s.learnEnqueue o ev) ∧ (s.learnEnqueue o ev).fdb = { s.fdb with learnQ := s.fdb.learnQ ++ [(o, ev)] }
      ∧ (s.learnEnqueue o ev).rd .FDB_CNT_v [o.n, 2] = (s.rd .FDB_CNT_v [o.n, 2] + 1) % 2 ^ 64 := by
  have run : s.learnEnqueue o ev = ((s.eventQueued o ev).postWork o 4 [BitVec.ofNat 64 ev.key.addr]).bump .FDB_CNT_v [o.n, 2] 1 := by
    unfold State.learnEnqueue
    rw [if_neg (by simp [hx]), if_neg (by omega)]
    rfl
  have queued : Works [.fdb] [.FDB_CNT_v] s (s.eventQueued o ev) := (Works.refl ..).withFdb _
  have posted := (Reports.refl (s.eventQueued o ev)).postWork o 4 [BitVec.ofNat 64 ev.key.addr]
  rw [run]
  refine ⟨(queued.report posted).bump _ _, posted.fdb, ?_⟩
  rw [rd_bump, if_pos ⟨rfl, rfl⟩, posted.rd _ _ rfl]
  rfl

theorem learnEvent_joins {s : State} {h : Half} {e : Half × LearnEv} (he : s.fdb.learns.find? (fun e => e.1 = h) = some e)
    (hn : (s.fdb.learnQ.filter (fun e => e.1 = h)).length < 4096) (hx : s.xingBusy h 3 0 = false) :
    ∃ t, exec (.learnEventEnqueue h) s = .next t ∧ t.fdb.learnQ = s.fdb.learnQ ++ [(h, e.2)] ∧ t.fdb.learns = s.fdb.learns.erase e
      ∧ t.rd .FDB_CNT_v [h.n, 2] = (s.rd .FDB_CNT_v [h.n, 2] + 1) % 2 ^ 64 ∧ partsBut [.fdb] s t ∧ fieldsBut [.FDB_CNT_v] s t := by
  have left : Works [.fdb] [.FDB_CNT_v] s (s.eventTaken e) := (Works.refl ..).withFdb _
  obtain ⟨work, fdb, count⟩ := learnEnqueue_of_room (s := s.eventTaken e) e.2 hn hx
  have all := (left.trans work).within.settle
  exact ⟨_, exec_learnEventEnqueue he, congrArg Fdb.learnQ fdb, congrArg Fdb.learns fdb, count, all.parts, all.fields⟩

/-! ## The owner writes a new entry (R108, R109) -/

/-- The entry that a learn event makes at a tick. -/
def LearnEv.entry (ev : LearnEv) (now : Nat) : FdbEnt := ⟨ev.key, now, ev.port, 0, 0, 0, false, false, true⟩

/-- A key that is absent and within its quota is written to the lowest free place (R109). -/
theorem learnDecide_new {s : State} {o : Half} {ev : LearnEv} {p : List Nat} (hp : s.ras.poison = []) (hfind : s.fdbFind o ev.key = none)
    (hq : s.rd .FDB_SLICE_USE_used [o.n, ev.key.slice] < s.rd .FDB_SLICE_CFG_quota [o.n, ev.key.slice]) (hf : s.fdbFree o (s.fdbBucket o ev.key) = some p) :
    ∃ u, Works [] [.FDB_CNT_v] s u ∧ s.learnDecide o ev = (some (p, ev.entry s.fdb.nowTick), u) := by
  obtain ⟨found, read, -⟩ := fdbSeek_clean hp o ev.key (s.engEv o 4 none)
  rw [hfind] at found
  unfold State.learnDecide
  dsimp only
  generalize s.fdbSeek o ev.key (s.engEv o 4 none) = r at found read ⊢
  obtain ⟨place, u⟩ := r
  subst found
  have room : ¬ u.rd .FDB_SLICE_CFG_quota [o.n, ev.key.slice] ≤ u.rd .FDB_SLICE_USE_used [o.n, ev.key.slice] := by
    rw [read.rd _ _ rfl, read.rd _ _ rfl]
    exact Nat.not_le.2 hq
  refine ⟨u.bump .FDB_CNT_v [o.n, 3] 1, (read.works.mono).bump _ _, ?_⟩
  simp only [if_neg room, read.sameFdb.free, read.sameFdb.bucket, hf]
  rfl

/-- A learned entry written in the owner's copy. -/
def State.learnWritten (s : State) (o : Half) (p : List Nat) (e : FdbEnt) : State := (s.fdbPut o p (some e)).dma o (s.engEv o 4 none) 2 p 1

/-- A write for the other half's copy put on the bridge. -/
def State.fdbSend (s : State) (m : FdbMsg) : State := s.withFdb { s.fdb with msgs := s.fdb.msgs ++ [m] }

/-- A learned entry on its way to the other half, under its bucket's lock. -/
def State.learnSent (s : State) (o : Half) (b : Nat) (p : List Nat) (e : FdbEnt) : State :=
  (((s.setLock b (some (Lock.mk false 0 (16 * o.n + s.routineEngine o 4) (s.leaseEnd o))) 4 none).fdbSend ⟨o.other, b, p, some e⟩).setLearnBusy o true).bridgeMsg o

theorem Works.learnWritten (s : State) (o : Half) (p : List Nat) (e : FdbEnt) : Works [.fdb, .ras] useFlds s (s.learnWritten o p e) :=
  (fdbPut ..).report ((Reports.refl _).dma ..)

theorem learnWritten_fdb (s : State) (o : Half) (p : List Nat) (e : FdbEnt) : (s.learnWritten o p e).fdb = s.fdb.put o p (some e) := by
  unfold State.learnWritten
  rw [((Reports.refl (s.fdbPut o p (some e))).dma ..).fdb, fdbPut_fdb]

theorem fdbAt_learnWritten (s : State) (o x : Half) (p q : List Nat) (e : FdbEnt) :
    (s.learnWritten o p e).fdbAt x q = if x = o ∧ q = p then some e else s.fdbAt x q :=
  (fdbAt_congr (by rw [learnWritten_fdb, fdbPut_fdb]) x q).trans (fdbAt_fdbPut s o x p q (some e))

theorem learnWritten_rest (s : State) (o : Half) (p : List Nat) (e : FdbEnt) : (s.learnWritten o p e).fdb.rest = s.fdb.rest := by
  rw [learnWritten_fdb, Fdb.rest_put]

theorem setLearnBusy_eq (s : State) (o : Half) (b : Bool) : ∃ e w, s.setLearnBusy o b = s.withFdb { s.fdb with busyE := e, busyW := w } := by
  cases o <;> exact ⟨_, _, rfl⟩

theorem learnBusy_setLearnBusy (s : State) (o : Half) (b : Bool) : (s.setLearnBusy o b).learnBusy o = b := by cases o <;> rfl

theorem learnBusy_congr {s t : State} (h : t.fdb = s.fdb) (o : Half) : t.learnBusy o = s.learnBusy o := by
  unfold State.learnBusy
  rw [h]

theorem learnBusy_setLock (s : State) (o : Half) (b : Nat) (l : Option Lock) (r : Nat) (fn : Option Nat) : (s.setLock b l r fn).learnBusy o = s.learnBusy o := by
  unfold State.learnBusy
  rw [setLock_fdb]

theorem Works.setLearnBusy (s : State) (o : Half) (b : Bool) : Works [.fdb] [] s (s.setLearnBusy o b) := by
  obtain ⟨e, w, busy⟩ := setLearnBusy_eq s o b
  rw [busy]
  exact (refl ..).withFdb _

theorem Works.learnSent (s : State) (o : Half) (b : Nat) (p : List Nat) (e : FdbEnt) : Works [.fdb] [.HAM_CNT_v] s (s.learnSent o b p e) :=
  (((setLock s b _ 4 none).withFdb _).andThen (setLearnBusy _ o true)).report ((Reports.refl _).bridgeMsg o)

/-- Sending a learned entry changes no entry and no queue, adds its message and makes the owner's learning busy. -/
theorem learnSent_fdb (s : State) (o : Half) (b : Nat) (p : List Nat) (e : FdbEnt) :
    (s.learnSent o b p e).fdb.ents = s.fdb.ents ∧ (s.learnSent o b p e).fdb.learnQ = s.fdb.learnQ
      ∧ (s.learnSent o b p e).fdb.msgs = s.fdb.msgs ++ [⟨o.other, b, p, some e⟩] ∧ (s.learnSent o b p e).learnBusy o = true := by
  unfold State.learnSent
  have locked := setLock_fdb s b (some (Lock.mk false 0 (16 * o.n + s.routineEngine o 4) (s.leaseEnd o))) 4 none
  generalize s.setLock b (some (Lock.mk false 0 (16 * o.n + s.routineEngine o 4) (s.leaseEnd o))) 4 none = u at locked ⊢
  obtain ⟨x, y, busy⟩ := setLearnBusy_eq (u.fdbSend ⟨o.other, b, p, some e⟩) o true
  have sent := ((Reports.refl ((u.fdbSend ⟨o.other, b, p, some e⟩).setLearnBusy o true)).bridgeMsg o).fdb
  have is := (learnBusy_congr sent o).trans (learnBusy_setLearnBusy ..)
  have fdb : _ = ({ u.fdb with msgs := u.fdb.msgs ++ [⟨o.other, b, p, some e⟩], busyE := x, busyW := y } : Fdb) := sent.trans (congrArg State.fdb busy)
  refine ⟨?_, ?_, ?_, is⟩
  · exact (congrArg Fdb.ents fdb).trans (show u.fdb.ents = s.fdb.ents by rw [locked])
  · exact (congrArg Fdb.learnQ fdb).trans (show u.fdb.learnQ = s.fdb.learnQ by rw [locked])
  · exact (congrArg Fdb.msgs fdb).trans (congrArg (fun f => f.msgs ++ [FdbMsg.mk o.other b p (some e)]) locked)

/-- What the owner does with a new entry: it writes its own copy, and while the bridge is up sends the write to the other (R108). -/
theorem learnOne_new {s : State} {o : Half} {ev : LearnEv} {p : List Nat} (hp : s.ras.poison = []) (hfind : s.fdbFind o ev.key = none)
    (hq : s.rd .FDB_SLICE_USE_used [o.n, ev.key.slice] < s.rd .FDB_SLICE_CFG_quota [o.n, ev.key.slice]) (hf : s.fdbFree o (s.fdbBucket o ev.key) = some p) :
    ∃ u, Works [] [.FDB_CNT_v] s u ∧ s.learnOne o ev = if s.bridgeUp then (u.learnWritten o p (ev.entry s.fdb.nowTick)).learnSent o (s.fdbBucket o ev.key) p (ev.entry s.fdb.nowTick)
      else (u.learnWritten o p (ev.entry s.fdb.nowTick)).lockPulse (s.fdbBucket o ev.key) 4 none := by
  obtain ⟨u, work, decided⟩ := learnDecide_new hp hfind hq hf
  have up : (u.learnWritten o p (ev.entry s.fdb.nowTick)).bridgeUp = s.bridgeUp := ((Works.learnWritten ..).bridgeUp).trans work.bridgeUp
  refine ⟨u, work, ?_⟩
  unfold State.learnOne
  dsimp only
  rw [decided]
  unfold State.learnWritten at up ⊢
  dsimp only
  rw [up, ite_not]
  rfl

/-- The head of the owner's queue taken by an engine of the LEARN routine (R302). -/
def State.learnTaken (s : State) (h : Half) (ev : LearnEv) (rest : List (Half × LearnEv)) : State :=
  (s.withFdb { s.fdb with learnQ := rest }).takeWork h 4 [BitVec.ofNat 64 ev.key.addr]

/-- An owner that may learn, that no deferred event holds up and whose bucket is free applies the head of its queue (R108). -/
theorem exec_learnApply {s : State} {h : Half} {ev : LearnEv} {rest : List (Half × LearnEv)} (hb : s.learnBusy h = false)
    (hs : s.serves h 4 [BitVec.ofNat 64 ev.key.addr] = true) (hd : s.fdb.defer = []) (hr : s.on .FDB_LEARN_CFG_learn_run [h.n] = true)
    (hq : s.fdb.learnQ = (h, ev) :: rest) (hl : s.lockOf (s.fdbBucket h ev.key) = none) :
    exec (.learnApply h) s = .next (settle ((s.learnTaken h ev rest).learnOne h ev)) := by
  have up : s.routineUp h 4 = true := (Bool.and_eq_true_iff.1 hs).1
  have free : s.hostHeld (s.fdbBucket h ev.key) = false := by
    unfold State.hostHeld
    rw [hl]
  show Host.Outcome.next (settle (doLearnApply h s)) = _
  unfold doLearnApply
  rw [if_neg (by simp [hb, up]), hd, hq]
  simp [hr, hs, free, hl, State.learnTaken, State.withFdb, hd]

theorem learnTaken_works (s : State) (h : Half) (ev : LearnEv) (rest : List (Half × LearnEv)) :
    Works [.fdb] [] s (s.learnTaken h ev rest) ∧ (s.learnTaken h ev rest).fdb = { s.fdb with learnQ := rest } := by
  have taken := (Reports.refl (s.withFdb { s.fdb with learnQ := rest })).takeWork h 4 [BitVec.ofNat 64 ev.key.addr]
  exact ⟨((Works.refl _ _ s).withFdb _).report taken, taken.fdb⟩

/-- An applied event: the entry in the owner's copy, and while the bridge is up on its way to the other (R108, R109). -/
theorem learnApply_writes {s : State} {h : Half} {ev : LearnEv} {rest : List (Half × LearnEv)} {p : List Nat} {b : Nat} (hbk : b = s.fdbBucket h ev.key)
    (hb : s.learnBusy h = false) (hs : s.serves h 4 [BitVec.ofNat 64 ev.key.addr] = true) (hp : s.ras.poison = []) (hd : s.fdb.defer = [])
    (hr : s.on .FDB_LEARN_CFG_learn_run [h.n] = true) (hq : s.fdb.learnQ = (h, ev) :: rest) (hl : s.lockOf b = none) (hfind : s.fdbFind h ev.key = none)
    (hquota : s.rd .FDB_SLICE_USE_used [h.n, ev.key.slice] < s.rd .FDB_SLICE_CFG_quota [h.n, ev.key.slice]) (hf : s.fdbFree h b = some p) :
    ∃ t, exec (.learnApply h) s = .next t ∧ t.fdb.learnQ = rest
      ∧ t.fdbAt h p = some ⟨ev.key, s.fdb.nowTick, ev.port, 0, 0, 0, false, false, true⟩ ∧ (∀ x q, (x, q) ≠ (h, p) → t.fdbAt x q = s.fdbAt x q)
      ∧ (if s.bridgeUp then t.fdb.msgs = s.fdb.msgs ++ [⟨h.other, b, p, some ⟨ev.key, s.fdb.nowTick, ev.port, 0, 0, 0, false, false, true⟩⟩] ∧ t.learnBusy h = true
        else t.fdb.msgs = s.fdb.msgs)
      ∧ partsBut [.fdb, .ras] s t ∧ fieldsBut [.FDB_CNT_v, .FDB_OCC_bucket_used, .FDB_OCC_ovf_used, .FDB_SLICE_USE_used, .HAM_CNT_v] s t := by
  obtain ⟨began, fdb⟩ := learnTaken_works s h ev rest
  have run := exec_learnApply hb hs hd hr hq (hbk ▸ hl)
  generalize s.learnTaken h ev rest = v at began fdb run
  have same : SameFdb s v := ⟨by rw [fdb], fun _ => began.within.rd _ _⟩
  have bucket : v.fdbBucket h ev.key = b := (same.bucket ..).trans hbk.symm
  obtain ⟨u, counted, one⟩ := learnOne_new (s := v) (o := h) (ev := ev) (p := p) (began.clean hp) ((same.find ..).trans hfind)
    (by rwa [began.within.rd _ _, began.within.rd _ _]) (by rwa [bucket, same.free])
  have tick : v.fdb.nowTick = s.fdb.nowTick := by rw [fdb]
  have written := Works.learnWritten u h p (ev.entry s.fdb.nowTick)
  have copy : ∀ x q, (u.learnWritten h p (ev.entry s.fdb.nowTick)).fdbAt x q = if x = h ∧ q = p then some (ev.entry s.fdb.nowTick) else s.fdbAt x q := fun x q => by
    rw [fdbAt_learnWritten, counted.sameFdb.word, same.word]
  have rest : (u.learnWritten h p (ev.entry s.fdb.nowTick)).fdb.rest = ({ s.fdb with learnQ := rest } : Fdb).rest := by
    rw [learnWritten_rest, counted.fdb, fdb]
  rw [bucket, tick, began.bridgeUp] at one
  rw [one] at run
  generalize u.learnWritten h p (ev.entry s.fdb.nowTick) = w at written copy rest run
  have all : Works [.fdb, .ras] [.FDB_CNT_v, .FDB_OCC_bucket_used, .FDB_OCC_ovf_used, .FDB_SLICE_USE_used, .HAM_CNT_v] s w :=
    ((began.mono.trans counted.mono).trans written.mono)
  have queue := congrArg Fdb.learnQ rest
  have msgs := congrArg Fdb.msgs rest
  have own : w.fdbAt h p = some (ev.entry s.fdb.nowTick) := (copy h p).trans (if_pos ⟨rfl, rfl⟩)
  have others : ∀ x q, (x, q) ≠ (h, p) → w.fdbAt x q = s.fdbAt x q := fun x q hq => (copy x q).trans (if_neg (fun e => hq (by rw [e.1, e.2])))
  by_cases up : s.bridgeUp = true
  · rw [if_pos up] at run
    simp only [if_pos up]
    obtain ⟨ents, learnQ, sent, busy⟩ := learnSent_fdb w h b p (ev.entry s.fdb.nowTick)
    have work := (all.andThen (.learnSent w h b p (ev.entry s.fdb.nowTick))).within.settle
    generalize w.learnSent h b p (ev.entry s.fdb.nowTick) = x at run ents learnQ sent busy work
    exact ⟨_, run, learnQ.trans queue, (fdbAt_congr ents h p).trans own, fun x q hq => (fdbAt_congr ents x q).trans (others x q hq),
      ⟨sent.trans (congrArg (· ++ [_]) msgs), busy⟩, work.parts, work.fields⟩
  · rw [if_neg up] at run
    simp only [if_neg up]
    have pulse := Works.lockPulse w b 4 none
    have work := (all.andThen pulse).within.settle
    have fdb := pulse.fdb
    generalize w.lockPulse b 4 none = x at run fdb work
    have ents := congrArg Fdb.ents fdb
    exact ⟨_, run, (congrArg Fdb.learnQ fdb).trans queue, (fdbAt_congr ents h p).trans own, fun x q hq => (fdbAt_congr ents x q).trans (others x q hq),
      (congrArg Fdb.msgs fdb).trans msgs, work.parts, work.fields⟩

/-! ## The write lands in the other copy, and is acknowledged (R97, R108, R115) -/

/-- A write that has arrived is off the bridge. -/
def State.msgTaken (s : State) (m : FdbMsg) : State := s.withFdb { s.fdb with msgs := s.fdb.msgs.erase m }

/-- An acknowledgement for a bucket put on the bridge toward the owner. -/
def State.ackSend (s : State) (h : Half) (b : Nat) : State := s.withFdb { s.fdb with acks := s.fdb.acks ++ [(h, b)] }

/-- The first write toward a half's copy lands, and is acknowledged (R97, R108). -/
theorem exec_fdbRemoteWrite {s : State} {h : Half} {m : FdbMsg} (hm : s.fdb.msgs.find? (fun m => m.dst = h) = some m) :
    exec (.fdbRemoteWrite h) s = .next (settle ((((s.msgTaken m).fdbPut h m.place m.ent).ackSend h.other m.bucket).bridgeMsg h)) := by
  show Host.Outcome.next (settle (doFdbRemoteWrite h s)) = _
  unfold doFdbRemoteWrite
  rw [hm]
  rfl

theorem remoteWrite_lands {s : State} {h : Half} {m : FdbMsg} (hm : s.fdb.msgs.find? (fun m => m.dst = h) = some m) :
    ∃ t, exec (.fdbRemoteWrite h) s = .next t ∧ t.fdbAt h m.place = m.ent ∧ (∀ x q, (x, q) ≠ (h, m.place) → t.fdbAt x q = s.fdbAt x q)
      ∧ t.fdb.msgs = s.fdb.msgs.erase m ∧ t.fdb.acks = s.fdb.acks ++ [(h.other, m.bucket)] ∧ partsBut [.fdb, .ras] s t
      ∧ fieldsBut [.FDB_OCC_bucket_used, .FDB_OCC_ovf_used, .FDB_SLICE_USE_used] s t := by
  have run := exec_fdbRemoteWrite hm
  have rest := fdbPut_rest (s.msgTaken m) h m.place m.ent
  have copy := fun x q => fdbAt_fdbPut (s.msgTaken m) h x m.place q m.ent
  have put : Works [.fdb, .ras] useFlds s ((s.msgTaken m).fdbPut h m.place m.ent) := ((Works.refl _ _ s).withFdb _).trans (.fdbPut ..)
  generalize (s.msgTaken m).fdbPut h m.place m.ent = u at run rest copy put
  have told := (Reports.refl (u.ackSend h.other m.bucket)).bridgeMsg h
  have work := ((put.withFdb { u.fdb with acks := u.fdb.acks ++ [(h.other, m.bucket)] }).report told).within.settle
  have fdb := told.fdb
  generalize (u.ackSend h.other m.bucket).bridgeMsg h = t at run work fdb
  have word : ∀ x q, t.fdbAt x q = if x = h ∧ q = m.place then m.ent else s.fdbAt x q := fun x q => (fdbAt_congr (congrArg Fdb.ents fdb) x q).trans (copy x q)
  have acks : u.fdb.acks = s.fdb.acks := (congrArg Fdb.acks rest).trans rfl
  refine ⟨_, run, (word ..).trans (if_pos ⟨rfl, rfl⟩), fun x q hq => (word x q).trans (if_neg (fun e => hq (by rw [e.1, e.2]))), ?_, ?_, work.parts, work.fields⟩
  · exact (congrArg Fdb.msgs fdb).trans (congrArg Fdb.msgs rest)
  · exact (congrArg Fdb.acks fdb).trans (by rw [← acks]; rfl)

/-- An acknowledgement that has arrived is off the bridge. -/
def State.ackTaken (s : State) (m : Half × Nat) : State := s.withFdb { s.fdb with acks := s.fdb.acks.erase m }

/-- The acknowledgement makes the owner's learning free, and releases a lock that no descriptor holds (R108, R115). -/
theorem exec_fdbWriteAck {s : State} {h : Half} {m : Half × Nat} (hm : s.fdb.acks.find? (fun m => m.1 = h) = some m) (hh : s.hostHeld m.2 = false)
    (hp : s.fdb.portDel = []) (hr : s.fdb.resyncLeft = []) :
    exec (.fdbWriteAck h) s = .next (settle (if s.lockOf m.2 = none then (s.ackTaken m).setLearnBusy h false
      else ((s.ackTaken m).setLearnBusy h false).setLock m.2 none 4 none)) := by
  obtain ⟨e, w, busy⟩ := setLearnBusy_eq (s.ackTaken m) h false
  have locks : ((s.ackTaken m).setLearnBusy h false).lockOf m.2 = s.lockOf m.2 := lockOf_congr (by rw [busy]; rfl) _
  have unheld : ((s.ackTaken m).setLearnBusy h false).hostHeld m.2 = false := by
    unfold State.hostHeld at hh ⊢
    rw [locks, hh]
  have idle := unlockBucket_idle (s := (s.ackTaken m).setLearnBusy h false) (by rw [busy]; exact hp) (by rw [busy]; exact hr) m.2 4 none
  show Host.Outcome.next (settle (doFdbWriteAck h s)) = _
  unfold doFdbWriteAck
  rw [hm]
  unfold State.ackTaken State.withFdb at *
  dsimp only
  rw [unheld, locks, idle]
  simp [Option.isNone_iff_eq_none]

theorem writeAck_releases {s : State} {h : Half} {m : Half × Nat} (hm : s.fdb.acks.find? (fun m => m.1 = h) = some m) (hh : s.hostHeld m.2 = false)
    (hp : s.fdb.portDel = []) (hr : s.fdb.resyncLeft = []) :
    ∃ t, exec (.fdbWriteAck h) s = .next t ∧ t.lockOf m.2 = none ∧ t.learnBusy h = false ∧ t.fdb.acks = s.fdb.acks.erase m ∧ t.fdb.ents = s.fdb.ents
      ∧ partsBut [.fdb] s t ∧ fieldsBut [.HAM_CNT_v] s t := by
  have run := exec_fdbWriteAck hm hh hp hr
  have idle := learnBusy_setLearnBusy (s.ackTaken m) h false
  obtain ⟨e, w, busy⟩ := setLearnBusy_eq (s.ackTaken m) h false
  have work : Works [.fdb] [.HAM_CNT_v] s ((s.ackTaken m).setLearnBusy h false) :=
    ((Works.refl _ _ s).withFdb _).andThen (.setLearnBusy ..)
  have fdb := congrArg State.fdb busy
  generalize (s.ackTaken m).setLearnBusy h false = u at run idle work fdb
  have ents : u.fdb.ents = s.fdb.ents := (congrArg Fdb.ents fdb).trans rfl
  have acks : u.fdb.acks = s.fdb.acks.erase m := congrArg Fdb.acks fdb
  have locks : u.lockOf m.2 = s.lockOf m.2 := lockOf_congr (congrArg Fdb.locks fdb) _
  by_cases free : s.lockOf m.2 = none
  · rw [if_pos free] at run
    exact ⟨_, run, locks.trans free, idle, acks, ents, work.within.settle.parts, work.within.settle.fields⟩
  · rw [if_neg free] at run
    have freed := (work.trans (.setLock u m.2 none 4 none)).within.settle
    have lock := (lockOf_setLock u m.2 m.2 none 4 none).trans (if_pos rfl)
    have flag := (learnBusy_setLock u h m.2 none 4 none).trans idle
    have after := setLock_fdb u m.2 none 4 none
    generalize u.setLock m.2 none 4 none = x at run freed lock flag after
    exact ⟨_, run, lock, flag, (congrArg Fdb.acks after).trans acks, (congrArg Fdb.ents after).trans ents, freed.parts, freed.fields⟩

/-- Settles O14: the event is queued, applied, landed in the other copy and acknowledged. -/
theorem fdbLearning : Obligations.FdbLearning := by
  unfold Obligations.FdbLearning
  refine ⟨fun s h e he hn hx => learnEvent_joins he hn hx, ?_, fun s h m hm => remoteWrite_lands hm, fun s h m hm hh hp hr => writeAck_releases hm hh hp hr⟩
  intro s h ev rest p b hbk hb hs hp hd hr hq hl hfind hquota hf
  exact learnApply_writes hbk hb hs hp hd hr hq hl hfind hquota hf

end Sys2Proof.Machine

namespace Sys2Proof.Machine

/-! ## The ageing tick (R112, R113) -/

theorem SMap.get?_filter {α : Type} (keep : List Nat → Bool) (m : SMap α) (k : List Nat) :
    SMap.get? (m.filter (fun e => keep e.1)) k = if keep k then SMap.get? m k else none := by
  induction m with
  | nil => simp
  | cons e m ih =>
    obtain ⟨x, a⟩ := e
    rw [List.filter_cons]
    by_cases here : x = k
    · subst here
      cases kept : keep x <;> simp [SMap.get?, ih, kept]
    · split <;> simp [SMap.get?, here, ih]

theorem SMap.getD_filter {α : Type} (keep : List Nat → Bool) (m : SMap α) (k : List Nat) (d : α) :
    SMap.getD (m.filter (fun e => keep e.1)) k d = if keep k then SMap.getD m k d else d := by
  unfold SMap.getD
  rw [SMap.get?_filter]
  cases keep k <;> rfl

/-- The ageing tick crosses to a half's ager (R31, R112). -/
def State.ageTick (s : State) (h : Half) : State := s.xingSend h 4 0 (fun s => s.sweepTick h)

/-- A tick of one half's ager: only that half's sweep changes. -/
structure AgeTick (h : Half) (s t : State) : Prop where
  works : Works [.fdb] [] s t
  fdb : ∃ l w, t.fdb = { s.fdb with sweepLeft := l, swept := w }
  left : ∀ x, x ≠ h → t.fdb.sweepLeft.getD [x.n] 0 = s.fdb.sweepLeft.getD [x.n] 0
  swept : ∀ x b, x ≠ h → t.fdb.swept.getD [x.n, b] false = s.fdb.swept.getD [x.n, b] false

theorem Reports.ageTick {s t : State} (r : Reports s t) (h : Half) : AgeTick h s t :=
  ⟨r.works.mono, ⟨_, _, r.fdb⟩, fun _ _ => by rw [r.fdb], fun _ _ _ => by rw [r.fdb]⟩

/-- The FDB as a sweep of a half begins: none of its buckets is visited, and its ticks are counted anew (R113). -/
def State.sweepFdb (s : State) (h : Half) : Fdb := { s.fdb with
  sweepLeft := s.fdb.sweepLeft.set [h.n] (max 1 (min 16384 (s.rd .FDB_AGE_CFG_sweep [h.n])))
  swept := s.fdb.swept.filter (fun e => e.1.head? ≠ some h.n) }

/-- The sweep that begins at a tick, posted to the AGE routine (R113, R302). -/
def State.sweepBegin (s : State) (h : Half) : State := (s.withFdb (s.sweepFdb h)).postWork h 5 []

theorem sweepBegin_fdb (s : State) (h : Half) : Works [.fdb] [] s (s.sweepBegin h) ∧ (s.sweepBegin h).fdb = s.sweepFdb h := by
  have posted := (Reports.refl (s.withFdb (s.sweepFdb h))).postWork h 5 []
  exact ⟨((Works.refl _ _ s).withFdb _).report posted, posted.fdb⟩

theorem sweepTick_eq (s : State) (h : Half) : s.sweepTick h = if ¬ s.on .FDB_AGE_CFG_age_run [h.n] then s
    else if 1 < s.fdb.sweepLeft.getD [h.n] 0 then s.withFdb { s.fdb with sweepLeft := s.fdb.sweepLeft.set [h.n] (s.fdb.sweepLeft.getD [h.n] 0 - 1) }
    else s.sweepBegin h := rfl

theorem ageTick_eq (s : State) (h : Half) : s.ageTick h = if s.xingBusy h 4 0 then s.xingLost h 4 else s.sweepTick h := rfl

theorem half_ne_of_key {x h : Half} (hx : x ≠ h) : [h.n] ≠ [x.n] := fun e => hx (Half.n_inj (List.cons.inj e).1.symm)

/-- What a tick of a half's ager leaves as it is. -/
theorem ageTick_keeps (s : State) (h : Half) : AgeTick h s (s.ageTick h) := by
  rw [ageTick_eq, sweepTick_eq]
  split
  · exact ((Reports.refl s).xingLost h 4).ageTick h
  · split
    · exact (Reports.refl s).ageTick h
    · split
      · refine ⟨(Works.refl _ _ s).withFdb _, ⟨_, _, rfl⟩, fun x hx => ?_, fun _ _ _ => rfl⟩
        simp only [withFdb_fdb, SMap.getD_set, if_neg (half_ne_of_key hx)]
      · obtain ⟨works, fdb⟩ := sweepBegin_fdb s h
        refine ⟨works, ⟨_, _, fdb⟩, fun x hx => ?_, fun x b hx => ?_⟩
        · simp only [fdb, State.sweepFdb, SMap.getD_set, if_neg (half_ne_of_key hx)]
        · have other : x.n ≠ h.n := fun e => hx (Half.n_inj e)
          rw [fdb]
          exact (SMap.getD_filter (fun k => k.head? ≠ some h.n) _ _ _).trans (if_pos (by simp [other]))

/-- Where a half's count of ticks is over, a sweep begins there (R113). -/
theorem ageTick_begins {s : State} {h : Half} (hx : s.xingBusy h 4 0 = false) (hr : s.on .FDB_AGE_CFG_age_run [h.n] = true)
    (hl : s.fdb.sweepLeft.getD [h.n] 0 ≤ 1) : (∀ b, (s.ageTick h).fdb.swept.getD [h.n, b] false = false)
      ∧ (s.ageTick h).fdb.sweepLeft.getD [h.n] 0 = max 1 (min 16384 (s.rd .FDB_AGE_CFG_sweep [h.n])) := by
  have begins : s.ageTick h = s.sweepBegin h := by
    rw [ageTick_eq, sweepTick_eq, if_neg (by simp [hx]), if_neg (by simp [hr]), if_neg (by omega)]
  have fdb := (sweepBegin_fdb s h).2
  rw [begins]
  rw [fdb]
  exact ⟨fun b => (SMap.getD_filter (fun k => k.head? ≠ some h.n) _ _ _).trans (if_neg (by simp)), SMap.getD_set_self ..⟩

/-- The tick has reached both halves' agers, at its time (R31, R112). -/
def State.agersTicked (s : State) : State := ((s.runTo s.fdb.tickDue).ageTick .E).ageTick .W

/-- The tick's number rises, and the next tick's time is set (R112). -/
def State.tickNext (s : State) : State :=
  s.withFdb { s.fdb with nowTick := (s.fdb.nowTick + 1) % 65536, tickDue := s.fdb.tickDue + max 1 (s.rd .FDB_AGE_CFG_tick [0]) * 1000000 }

theorem exec_nowTickAdvance (s : State) : exec .nowTickAdvance s = .next (settle s.agersTicked.tickNext) := rfl

theorem tick_advances (s : State) : ∃ t, exec .nowTickAdvance s = .next t ∧ t.fdb.nowTick = (s.fdb.nowTick + 1) % 65536 ∧ t.fdb.ents = s.fdb.ents
    ∧ t.time.elapsed = max s.time.elapsed s.fdb.tickDue ∧ partsBut [.fdb, .time] s t ∧ fieldsBut [] s t
    ∧ (∀ h : Half, s.xingBusy h 4 0 = false → s.on .FDB_AGE_CFG_age_run [h.n] = true → s.fdb.sweepLeft.getD [h.n] 0 ≤ 1 →
      (∀ b, t.fdb.swept.getD [h.n, b] false = false) ∧ t.fdb.sweepLeft.getD [h.n] 0 = max 1 (min 16384 (s.rd .FDB_AGE_CFG_sweep [h.n]))) := by
  have run := exec_nowTickAdvance s
  unfold State.agersTicked at run
  have passes := runTo_passes s s.fdb.tickDue
  generalize s.runTo s.fdb.tickDue = u at run passes
  have east := ageTick_keeps u .E
  have begins_east := ageTick_begins (s := u) (h := .E)
  generalize u.ageTick .E = v at run east begins_east
  have west := ageTick_keeps v .W
  have begins_west := ageTick_begins (s := v) (h := .W)
  generalize v.ageTick .W = w at run west begins_west
  have fdb : u.fdb = s.fdb := passes.within.parts .fdb (by decide)
  obtain ⟨l, sw, easts⟩ := east.fdb
  obtain ⟨l', sw', wests⟩ := west.fdb
  have time : w.time = u.time := (west.works.within.parts .time (by decide)).trans (east.works.within.parts .time (by decide))
  have within : Within [.fdb, .time] [] s w := (passes.within.mono.trans east.works.within.mono).trans west.works.within.mono
  have all : Within [.fdb, .time] [] s (settle w.tickNext) := (within.set_fdb _).settle
  refine ⟨_, run, ?_, ?_, ?_, all.parts, all.fields, fun h hx hr hl => ?_⟩
  · show (w.fdb.nowTick + 1) % 65536 = _
    rw [wests, easts, fdb]
  · show w.fdb.ents = _
    rw [wests, easts, fdb]
  · exact (congrArg Time.elapsed time).trans passes.elapsed
  · have run_u : ∀ x : Half, u.on .FDB_AGE_CFG_age_run [x.n] = s.on .FDB_AGE_CFG_age_run [x.n] := fun x => by
      unfold State.on
      rw [passes.within.rd _ _ (by decide)]
    cases h with
    | E =>
      obtain ⟨visited, count⟩ := begins_east (by rw [passes.xingBusy, hx]) (by rw [run_u, hr]) (by rwa [fdb])
      rw [passes.within.rd _ _ (by decide)] at count
      exact ⟨fun b => (west.swept .E b (by decide)).trans (visited b), (west.left .E (by decide)).trans count⟩
    | W =>
      have busy : v.xingBusy .W 4 0 = u.xingBusy .W 4 0 := by
        unfold State.xingBusy State.xingAt
        rw [east.works.within.parts .ras (by decide)]
      have on : v.on .FDB_AGE_CFG_age_run [Half.W.n] = u.on .FDB_AGE_CFG_age_run [Half.W.n] := by
        unfold State.on
        rw [east.works.within.rd _ _ (by decide)]
      obtain ⟨visited, count⟩ := begins_west (by rw [busy, passes.xingBusy, hx]) (by rw [on, run_u, hr]) (by rwa [east.left .W (by decide), fdb])
      rw [east.works.within.rd _ _ (by decide), passes.within.rd _ _ (by decide)] at count
      exact ⟨visited, count⟩

end Sys2Proof.Machine

namespace Sys2Proof.Machine

/-! ## A visit of the ager (R113) -/

/-- A bucket visited in its half's sweep. -/
def State.agerBegun (s : State) (b : Nat) : State :=
  let u := s.takeWork (bucketOwner b) 5 []
  u.withFdb { u.fdb with swept := u.fdb.swept.set [(bucketOwner b).n, b] true }

theorem agerBegun_works (s : State) (b : Nat) : Works [.fdb] [] s (s.agerBegun b)
    ∧ (s.agerBegun b).fdb = { s.fdb with swept := s.fdb.swept.set [(bucketOwner b).n, b] true } := by
  have taken := (Reports.refl s).takeWork (bucketOwner b) 5 []
  unfold State.agerBegun
  dsimp only
  generalize s.takeWork (bucketOwner b) 5 [] = u at taken
  exact ⟨taken.works.mono.withFdb _, by rw [withFdb_fdb, taken.fdb]⟩

/-- The ager at one place of its bucket. -/
def State.ageAt (o : Half) (s : State) (p : List Nat) : State := match s.fdbAt o p with | some e => s.ageOut o p e | none => s

/-- The ager reads the words of its bucket, ages each and lets overflow entries move in (R99, R113). -/
def State.agerRun (s : State) (o : Half) (b : Nat) (ev : PmcEv) : State :=
  let r := s.fdbScan o (s.fdbOwnWords o b) ev
  ((r.1.foldl (State.ageAt o) r.2).fdbMoveIn o b ev).lockPulse b 5 none

/-- A bucket that is free and not yet visited is visited (R113). -/
theorem exec_agerVisit {s : State} {b : Nat} (hb : b < 1048576) (hr : s.on .FDB_AGE_CFG_age_run [(bucketOwner b).n] = true) (hl : s.lockOf b = none)
    (hs : s.serves (bucketOwner b) 5 [] = true) (hw : s.fdb.swept.getD [(bucketOwner b).n, b] false = false) :
    ∃ ev, exec (.agerVisit b) s = .next (settle ((s.agerBegun b).agerRun (bucketOwner b) b ev)) := by
  have free : (s.agerBegun b).hostHeld b = false := by
    unfold State.hostHeld
    rw [show (s.agerBegun b).lockOf b = none from (lockOf_congr (by rw [(agerBegun_works s b).2]) b).trans hl]
  refine ⟨(s.agerBegun b).engEv (bucketOwner b) 5 none, ?_⟩
  show Host.Outcome.next (settle (doAgerVisit b s)) = _
  unfold doAgerVisit
  rw [if_neg (by simp [hr, hs, hw, hl, Nat.not_le.2 hb])]
  unfold State.agerBegun State.withFdb at free ⊢
  dsimp only at free ⊢
  rw [free, if_neg (by decide)]
  rfl

/-- An entry that the ager has deleted, and counted (R113). -/
def State.agedOut (s : State) (o : Half) (p : List Nat) : State := (s.fdbBoth o p none (s.engEv o 5 none)).bump .FDB_CNT_v [o.n, 13] 1

/-- The entry has reached the age at which the ager deletes it (R113). -/
def State.dueOut (s : State) (o : Half) (e : FdbEnt) : Prop :=
  e.static = false ∧ s.on .FDB_SLICE_CFG_age_en [o.n, e.key.slice] = true
    ∧ max 1 (s.rd .FDB_SLICE_CFG_age_limit [o.n, e.key.slice]) ≤ (s.fdb.nowTick + 65536 - e.stamp) % 65536

/-- While no hit is on its way, the ager deletes what has reached its age, and keeps the rest (R113). -/
theorem ageOut_cases {s : State} (hh : s.fdb.hits = []) (ht : s.fdb.tags = []) (o : Half) (p : List Nat) (e : FdbEnt) :
    (s.dueOut o e → s.ageOut o p e = s.agedOut o p) ∧ (¬ s.dueOut o e → s.ageOut o p e = s) := by
  have quiet : (s.tagsOf o p e.key).any (fun t => s.aged o e.key.slice t.2.2.2.1) = false := by simp [State.tagsOf, ht]
  unfold State.ageOut State.dueOut
  rw [hh, quiet]
  refine ⟨fun ⟨dynamic, on, old⟩ => ?_, fun young => ?_⟩
  · rw [if_neg (by simp [dynamic, on]), if_pos (by simpa [State.aged] using old)]
    rfl
  · by_cases kept : e.static = true ∨ ¬ s.on .FDB_SLICE_CFG_age_en [o.n, e.key.slice] = true
    · exact if_pos kept
    · rw [if_neg kept, if_neg, if_neg (by decide)]
      intro old
      push Not at kept
      exact young ⟨by simpa using kept.1, kept.2, by simpa [State.aged] using old⟩

/-- No overflow entry is left in a copy where no overflow place holds one. -/
theorem fdbOvf_eq_nil {s : State} {o : Half} : s.fdbOvf o = [] ↔ ∀ i, s.fdbAt o [ovfBucket, i] = none := by
  constructor
  · intro none i
    rw [fdbAt_ovf, none]
    rfl
  · intro none
    cases list : s.fdbOvf o with
    | nil => rfl
    | cons x l =>
      have first := none x.1
      rw [fdbAt_ovf, list] at first
      simp at first

/-- Where a bucket has no overflow entries, none moves in (R99). -/
theorem fdbMoveIn_of_none {s : State} {o : Half} (h : s.fdbOvf o = []) (b : Nat) (ev : PmcEv) : s.fdbMoveIn o b ev = s := by
  have ovf : s.fdbOvfOf o b = [] := by
    unfold State.fdbOvfOf
    rw [h]
    rfl
  refine List.foldl_fixed' (fun w => ?_) _
  dsimp only
  rw [ovf]
  exact ite_self s

/-- The fields that a visit of the ager may change. -/
def agerFlds : List Fld := [.FDB_CNT_v, .FDB_OCC_bucket_used, .FDB_OCC_ovf_used, .FDB_SLICE_USE_used, .HAM_CNT_v]

theorem Works.agedOut (s : State) (o : Half) (p : List Nat) : Works [.fdb, .ras] agerFlds s (s.agedOut o p) := (Works.fdbBoth ..).mono.bump _ _

theorem fdbAt_agedOut (s : State) (o : Half) (p q : List Nat) : (s.agedOut o p).fdbAt o q = if q = p then none else s.fdbAt o q := by
  unfold State.agedOut
  have counted := congrArg Fdb.ents (bump_fdb (s.fdbBoth o p none (s.engEv o 5 none)) .FDB_CNT_v [o.n, 13] 1)
  exact (fdbAt_congr counted o q).trans ((fdbAt_fdbBoth ..).trans (if_congr (by simp) rfl rfl))

/-- A bucket whose only entry is the one in its first way, without overflow entries: the ager is done with it after that entry (R113). -/
theorem foldl_ageAt_single {s : State} {o : Half} {b : Nat} {e : FdbEnt} (he : s.fdbAt o [b, 0] = some e) (hn : ∀ w, 0 < w → w < 4 → s.fdbAt o [b, w] = none)
    (hh : s.fdb.hits = []) (ht : s.fdb.tags = []) (ho : s.fdbOvf o = []) : ∃ t, Works [.fdb, .ras] agerFlds s t ∧ t.fdbOvf o = []
      ∧ (s.fdbOwnWords o b).foldl (State.ageAt o) s = t ∧ (s.dueOut o e → t.fdbAt o [b, 0] = none) ∧ (¬ s.dueOut o e → t.fdbAt o [b, 0] = some e) := by
  have ways : s.fdbOwnWords o b = [[b, 0], [b, 1], [b, 2], [b, 3]] := by
    unfold State.fdbOwnWords State.fdbOvfOf
    rw [ho]
    rfl
  have rest : ∀ t : State, (∀ w, 0 < w → w < 4 → t.fdbAt o [b, w] = none) → [[b, 1], [b, 2], [b, 3]].foldl (State.ageAt o) t = t := by
    intro t ht
    simp [State.ageAt, ht]
  have first : State.ageAt o s [b, 0] = s.ageOut o [b, 0] e := by
    unfold State.ageAt
    rw [he]
  obtain ⟨old, young⟩ := ageOut_cases hh ht o [b, 0] e
  rw [ways, List.foldl_cons, first]
  by_cases out : s.dueOut o e
  · have at_ := fdbAt_agedOut s o [b, 0]
    rw [old out, rest _ (fun w h0 h4 => (at_ _).trans (by rw [hn w h0 h4, ite_self]))]
    refine ⟨_, .agedOut s o [b, 0], fdbOvf_eq_nil.2 fun i => ?_, rfl, fun _ => (at_ _).trans (if_pos rfl), fun h => absurd out h⟩
    rw [at_, fdbOvf_eq_nil.1 ho, ite_self]
  · rw [young out, rest s hn]
    exact ⟨s, .refl .., ho, rfl, fun h => absurd h out, fun _ => he⟩

/-- The visit deletes the entry that has reached its age, and keeps a younger or static one (R113). -/
theorem visit_ages {s : State} {b : Nat} {e : FdbEnt} {o : Half} (hob : o = bucketOwner b) (hb : b < 1048576) (hr : s.on .FDB_AGE_CFG_age_run [o.n] = true)
    (hl : s.lockOf b = none) (he : s.fdbAt o [b, 0] = some e) (hn : ∀ w, 0 < w → w < 4 → s.fdbAt o [b, w] = none) (ho : s.fdbOvf o = [])
    (hs : s.serves o 5 [] = true) (hw : s.fdb.swept.getD [o.n, b] false = false) (hp : s.ras.poison = []) (hh : s.fdb.hits = []) (ht : s.fdb.tags = []) :
    ∃ t, exec (.agerVisit b) s = .next t
      ∧ t.fdbAt o [b, 0] = (if e.static = false ∧ s.on .FDB_SLICE_CFG_age_en [o.n, e.key.slice] = true
          ∧ max 1 (s.rd .FDB_SLICE_CFG_age_limit [o.n, e.key.slice]) ≤ (s.fdb.nowTick + 65536 - e.stamp) % 65536 then none else some e)
      ∧ partsBut [.fdb, .ras] s t ∧ fieldsBut [.FDB_CNT_v, .FDB_OCC_bucket_used, .FDB_OCC_ovf_used, .FDB_SLICE_USE_used, .HAM_CNT_v] s t := by
  subst hob
  obtain ⟨ev, run⟩ := exec_agerVisit hb hr hl hs hw
  obtain ⟨begun, fdb⟩ := agerBegun_works s b
  generalize s.agerBegun b = u at run begun fdb
  obtain ⟨words, read, -⟩ := fdbScan_clean (begun.clean hp) (bucketOwner b) (u.fdbOwnWords (bucketOwner b) b) ev
  unfold State.agerRun at run
  dsimp only at run
  rw [words] at run
  generalize (u.fdbScan (bucketOwner b) (u.fdbOwnWords (bucketOwner b) b) ev).2 = v at run read
  have works : Works [.fdb] [] s v := begun.report read
  have after : v.fdb = { s.fdb with swept := s.fdb.swept.set [(bucketOwner b).n, b] true } := read.fdb.trans fdb
  have same : SameFdb s v := ⟨by rw [after], fun _ => works.within.rd _ _ (by decide)⟩
  obtain ⟨w, aged, ovf, fold, old, young⟩ := foldl_ageAt_single (s := v) ((same.word ..).trans he) (fun w h0 h4 => (same.word ..).trans (hn w h0 h4))
    (by rw [after, hh]) (by rw [after, ht]) ((same.ovf ..).trans ho)
  rw [← read.sameFdb.ownWords, fold, fdbMoveIn_of_none ovf] at run
  have pulse := Works.lockPulse w b 5 none
  have all := ((works.mono.trans aged).andThen pulse).within.settle
  have now : v.dueOut (bucketOwner b) e ↔ e.static = false ∧ s.on .FDB_SLICE_CFG_age_en [(bucketOwner b).n, e.key.slice] = true
      ∧ max 1 (s.rd .FDB_SLICE_CFG_age_limit [(bucketOwner b).n, e.key.slice]) ≤ (s.fdb.nowTick + 65536 - e.stamp) % 65536 := by
    unfold State.dueOut State.on
    rw [works.within.rd _ _ (by decide), works.within.rd _ _ (by decide), after]
  have entry := fdbAt_congr (congrArg Fdb.ents pulse.fdb) (bucketOwner b) [b, 0]
  generalize w.lockPulse b 5 none = x at run all entry
  refine ⟨_, run, entry.trans ?_, all.parts, all.fields⟩
  by_cases out : v.dueOut (bucketOwner b) e
  · rw [old out, if_pos (now.1 out)]
  · rw [young out, if_neg (fun h => out (now.2 h))]

/-! ## A lock whose lease ends (R115, R116) -/

/-- The bucket of a broken lock is free, and a host lock's token is known as lost (R116). -/
def State.lockBroken (s : State) (b : Nat) (l : Lock) : State :=
  let u := s.setLock b none 0 none
  if l.host then u.withFdb { u.fdb with broken := u.fdb.broken.set [(bucketOwner b).n, b, l.token] 1 } else u

theorem lockBroken_facts (s : State) (b : Nat) (l : Lock) : Works [.fdb] [.HAM_CNT_v] s (s.lockBroken b l) ∧ (s.lockBroken b l).lockOf b = none
    ∧ (s.lockBroken b l).fdb.ents = s.fdb.ents ∧ (l.host = true → (s.lockBroken b l).fdb.broken.get? [(bucketOwner b).n, b, l.token] = some 1) := by
  have works := Works.setLock s b none 0 none
  have lock := (lockOf_setLock s b b none 0 none).trans (if_pos rfl)
  have ents := congrArg Fdb.ents (setLock_fdb s b none 0 none)
  unfold State.lockBroken
  dsimp only
  generalize s.setLock b none 0 none = u at works lock ents
  cases l.host with
  | false => exact ⟨works, lock, ents, fun h => absurd h (by decide)⟩
  | true => exact ⟨works.withFdb _, lock, ents, fun _ => SMap.get?_set_self ..⟩

/-- A broken lock is counted, interrupts its half's engines and is told of by an event (R116). -/
def State.breakTold (s : State) (b : Nat) (l : Lock) : State :=
  ((s.bump .FDB_CNT_v [(bucketOwner b).n, 16] 1).irqAll (bucketOwner b) 1).raise 0x0012 (bucketOwner b).n
    [(0, 4, b), (4, 1, b2n l.host), (5, 1, l.fn), (6, 2, l.token)]

theorem breakLock_idle {s : State} (hp : s.fdb.portDel = []) (hr : s.fdb.resyncLeft = []) (b : Nat) (l : Lock) :
    s.breakLock b l = (s.lockBroken b l).breakTold b l := by
  unfold State.breakLock
  dsimp only
  rw [unlockBucket_idle hp hr]
  rfl

theorem breakTold_facts (s : State) (b : Nat) (l : Lock) : (s.breakTold b l).fdb = s.fdb ∧ (s.breakTold b l).time = s.time
    ∧ (s.breakTold b l).rd .FDB_CNT_v [(bucketOwner b).n, 16] = (s.rd .FDB_CNT_v [(bucketOwner b).n, 16] + 1) % 2 ^ 64 := by
  have counted : Within [] (.FDB_CNT_v :: irqFlds) s (s.bump .FDB_CNT_v [(bucketOwner b).n, 16] 1) := (Within.refl ..).bump _ _
  have heard := Within.irqAll (s.bump .FDB_CNT_v [(bucketOwner b).n, 16] 1) (bucketOwner b) 1
  have count := rd_bump s .FDB_CNT_v .FDB_CNT_v [(bucketOwner b).n, 16] [(bucketOwner b).n, 16] 1
  rw [if_pos ⟨rfl, rfl⟩] at count
  unfold State.breakTold
  generalize s.bump .FDB_CNT_v [(bucketOwner b).n, 16] 1 = u at counted heard count
  have all : Within [] (.FDB_CNT_v :: irqFlds) s (u.irqAll (bucketOwner b) 1) := counted.trans (heard.mono)
  have count' := (heard.rd .FDB_CNT_v [(bucketOwner b).n, 16] (by decide)).trans count
  generalize u.irqAll (bucketOwner b) 1 = v at all count'
  have told := (Reports.refl v).raise 0x0012 (bucketOwner b).n [(0, 4, b), (4, 1, b2n l.host), (5, 1, l.fn), (6, 2, l.token)] none
  exact ⟨told.fdb.trans (all.parts .fdb (by decide)), told.time.trans (all.parts .time (by decide)), (told.rd _ _ rfl).trans count'⟩

theorem exec_lockLeaseExpiry {s : State} {b : Nat} {l : Lock} (hl : s.lockOf b = some l) (hs : s.serves (bucketOwner b) 0 [BitVec.ofNat 64 b] = true)
    (hx : s.xingBusy (bucketOwner b) 4 0 = false) :
    exec (.lockLeaseExpiry b) s = .next (settle (((s.runTo l.expiry).takeWork (bucketOwner b) 0 [BitVec.ofNat 64 b]).breakLock b l)) := by
  have passes := runTo_passes s l.expiry
  show Host.Outcome.next (settle (doLockLeaseExpiry b s)) = _
  unfold doLockLeaseExpiry
  rw [hl]
  dsimp only
  rw [xingSend_of_free _ hx, viaRoutine_of_serves _ ((passes.serves ..).trans hs)]

theorem lease_breaks {s : State} {b : Nat} {l : Lock} (hl : s.lockOf b = some l) (hs : s.serves (bucketOwner b) 0 [BitVec.ofNat 64 b] = true)
    (hx : s.xingBusy (bucketOwner b) 4 0 = false) (hp : s.fdb.portDel = []) (hr : s.fdb.resyncLeft = []) :
    ∃ t, exec (.lockLeaseExpiry b) s = .next t ∧ t.lockOf b = none ∧ t.fdb.ents = s.fdb.ents ∧ t.time.elapsed = max s.time.elapsed l.expiry
      ∧ (l.host = true → t.fdb.broken.get? [(bucketOwner b).n, b, l.token] = some 1)
      ∧ t.rd .FDB_CNT_v [(bucketOwner b).n, 16] = (s.rd .FDB_CNT_v [(bucketOwner b).n, 16] + 1) % 2 ^ 64 := by
  have run := exec_lockLeaseExpiry hl hs hx
  have passes := runTo_passes s l.expiry
  generalize s.runTo l.expiry = u at run passes
  have taken := (Reports.refl u).takeWork (bucketOwner b) 0 [BitVec.ofNat 64 b]
  generalize u.takeWork (bucketOwner b) 0 [BitVec.ofNat 64 b] = v at run taken
  have fdb : v.fdb = s.fdb := taken.fdb.trans (passes.within.parts .fdb (by decide))
  have count : v.rd .FDB_CNT_v [(bucketOwner b).n, 16] = s.rd .FDB_CNT_v [(bucketOwner b).n, 16] := (taken.rd _ _ rfl).trans (passes.within.rd _ _ (by decide))
  rw [breakLock_idle (by rw [fdb, hp]) (by rw [fdb, hr])] at run
  obtain ⟨works, free, ents, lost⟩ := lockBroken_facts v b l
  generalize v.lockBroken b l = w at run works free ents lost
  obtain ⟨after, time, counted⟩ := breakTold_facts w b l
  generalize w.breakTold b l = t at run after time counted
  have clock : t.time = u.time := time.trans ((works.within.parts .time (by decide)).trans taken.time)
  refine ⟨_, run, ?_, ?_, ?_, fun hh => ?_, ?_⟩
  · exact (lockOf_congr (congrArg Fdb.locks after) b).trans free
  · exact (congrArg Fdb.ents after).trans (ents.trans (congrArg Fdb.ents fdb))
  · exact (congrArg Time.elapsed clock).trans passes.elapsed
  · exact (congrArg (fun f : Fdb => f.broken.get? [(bucketOwner b).n, b, l.token]) after).trans (lost hh)
  · exact counted.trans (by rw [works.within.rd _ _ (by decide), count])

/-- Settles O16: the tick, the sweep that it begins, the ager's visit and the end of a lease. -/
theorem ageingAndLeases : Obligations.AgeingAndLeases := by
  unfold Obligations.AgeingAndLeases
  refine ⟨tick_advances, ?_, fun s b l hl hs hx hp hr => lease_breaks hl hs hx hp hr⟩
  intro s b e o hob hb hr hl he hn ho hs hw hp hh ht
  exact visit_ages hob hb hr hl he hn ho hs hw hp hh ht

end Sys2Proof.Machine

namespace Sys2Proof.Machine

/-! ## Stamps of hits (R102) -/

/-- An entry of a copy written anew, beside its counts and its word's error. -/
def State.putEnt (s : State) (h : Half) (p : List Nat) (e : FdbEnt) : State := s.withFdb { s.fdb with ents := s.fdb.ents.set (h.n :: p) e }

theorem fdbAt_set {s t : State} {h : Half} {p : List Nat} {e : FdbEnt} (ht : t.fdb.ents = s.fdb.ents.set (h.n :: p) e) (x : Half) (q : List Nat) :
    t.fdbAt x q = if x = h ∧ q = p then some e else s.fdbAt x q := by
  unfold State.fdbAt
  rw [ht]
  simp only [SMap.get?_set, wordKey_inj]

theorem Works.stampPut (s : State) (h : Half) (p : List Nat) (e : FdbEnt) (n : Nat) : Works [.fdb] [] s (s.stampPut h p e n) := (refl ..).set_fdb _

/-- A hit notice that has arrived is off the bridge. -/
def State.noticeTaken (s : State) (m : Half × List Nat × FKey) : State := s.withFdb { s.fdb with hits := s.fdb.hits.erase m }

/-- A notice that reaches the owner: the stamp is written where the key still stands (R102). -/
theorem exec_hitNotice {s : State} {h : Half} {m : Half × List Nat × FKey} {e : FdbEnt} (hm : s.fdb.hits.find? (fun m => m.1 = h) = some m)
    (he : s.fdbAt h m.2.1 = some e) (hp : s.ras.poison = []) :
    exec (.hitNotice h) s = .next (settle (if e.key = m.2.2 then (s.noticeTaken m).stampPut h m.2.1 e s.fdb.nowTick
      else s.noticeTaken m)) := by
  have clean := eccReadAt_clean (s := s.noticeTaken m) hp h 2 0 m.2.1 (pmcDev 0 0 0 0)
  have word : (s.noticeTaken m).fdbAt h m.2.1 = some e := he
  show Host.Outcome.next (settle (doHitNotice h s)) = _
  unfold doHitNotice
  rw [hm]
  unfold State.noticeTaken State.withFdb at clean word ⊢
  dsimp only
  rw [clean]
  simp only [Bool.false_eq_true, if_false, word]

theorem hitNotice_stamps {s : State} {h : Half} {m : Half × List Nat × FKey} {e : FdbEnt} (hm : s.fdb.hits.find? (fun m => m.1 = h) = some m)
    (he : s.fdbAt h m.2.1 = some e) (hp : s.ras.poison = []) :
    ∃ t, exec (.hitNotice h) s = .next t ∧ t.fdb.hits = s.fdb.hits.erase m
      ∧ t.fdbAt h m.2.1 = some (if e.key = m.2.2 then { e with stamp := s.fdb.nowTick } else e)
      ∧ (∀ x q, (x, q) ≠ (h, m.2.1) → t.fdbAt x q = s.fdbAt x q) ∧ partsBut [.fdb] s t ∧ fieldsBut [] s t := by
  have run := exec_hitNotice hm he hp
  have taken : Works [.fdb] [] s (s.noticeTaken m) := (Works.refl ..).withFdb _
  by_cases key : e.key = m.2.2
  · rw [if_pos key] at run
    have stamped := (taken.trans (.stampPut _ h m.2.1 e s.fdb.nowTick)).within.settle
    have entry := fun x q => fdbAt_set (s := s) (t := (s.noticeTaken m).stampPut h m.2.1 e s.fdb.nowTick) rfl x q
    rw [if_pos key]
    exact ⟨_, run, rfl, (entry ..).trans (if_pos ⟨rfl, rfl⟩), fun x q hq => (entry x q).trans (if_neg (fun c => hq (by rw [c.1, c.2]))), stamped.parts, stamped.fields⟩
  · rw [if_neg key] at run
    rw [if_neg key]
    exact ⟨_, run, rfl, he, fun _ _ _ => rfl, taken.within.settle.parts, taken.within.settle.fields⟩

/-- A hit's stamp write that is skipped, counted; its tag is gone (R102). -/
def State.stampSkipped (s : State) (h : Half) (g : Half × List Nat × FKey × Nat × Nat) : State :=
  (s.withFdb { s.fdb with tags := s.fdb.tags.erase g }).bump .FDB_CNT_v [h.n, 15] 1

theorem stampSkipped_facts (s : State) (h : Half) (g : Half × List Nat × FKey × Nat × Nat) : Works [.fdb] [.FDB_CNT_v] s (s.stampSkipped h g)
    ∧ (s.stampSkipped h g).fdb = { s.fdb with tags := s.fdb.tags.erase g }
    ∧ (s.stampSkipped h g).rd .FDB_CNT_v [h.n, 15] = (s.rd .FDB_CNT_v [h.n, 15] + 1) % 2 ^ 64 :=
  ⟨((Works.refl ..).withFdb _).bump _ _, rfl, (rd_bump ..).trans (if_pos ⟨rfl, rfl⟩)⟩

/-- The latest hit's stamp write is skipped: the entry has the stamp from before it, if the key still stands there. -/
theorem exec_hitStampSkip_last {s : State} {h : Half} {g : Half × List Nat × FKey × Nat × Nat} {e : FdbEnt} (hg : s.fdb.tags.find? (fun t => t.1 = h) = some g)
    (he : s.fdbAt h g.2.1 = some e) (hn : (s.fdb.tags.erase g).find? (sameTag g) = none) :
    exec (.hitStampSkip h) s = .next (settle (if e.key = g.2.2.1 then (s.stampSkipped h g).putEnt h g.2.1 { e with stamp := g.2.2.2.1 } else s.stampSkipped h g)) := by
  have word : (s.stampSkipped h g).fdbAt h g.2.1 = some e := he
  show Host.Outcome.next (settle (doHitStampSkip h s)) = _
  unfold doHitStampSkip
  rw [hg]
  unfold State.stampSkipped State.withFdb at word ⊢
  dsimp only
  rw [hn]
  dsimp only
  rw [word]
  rfl

theorem stampSkip_restores {s : State} {h : Half} {g : Half × List Nat × FKey × Nat × Nat} {e : FdbEnt} (hg : s.fdb.tags.find? (fun t => t.1 = h) = some g)
    (he : s.fdbAt h g.2.1 = some e) (hn : (s.fdb.tags.erase g).find? (sameTag g) = none) :
    ∃ t, exec (.hitStampSkip h) s = .next t ∧ t.fdb.tags = s.fdb.tags.erase g
      ∧ t.fdbAt h g.2.1 = some (if e.key = g.2.2.1 then { e with stamp := g.2.2.2.1 } else e)
      ∧ t.rd .FDB_CNT_v [h.n, 15] = (s.rd .FDB_CNT_v [h.n, 15] + 1) % 2 ^ 64
      ∧ (∀ x q, (x, q) ≠ (h, g.2.1) → t.fdbAt x q = s.fdbAt x q) ∧ partsBut [.fdb] s t ∧ fieldsBut [.FDB_CNT_v] s t := by
  have run := exec_hitStampSkip_last hg he hn
  obtain ⟨works, fdb, count⟩ := stampSkipped_facts s h g
  generalize s.stampSkipped h g = u at run works fdb count
  have ents : u.fdb.ents = s.fdb.ents := by rw [fdb]
  by_cases key : e.key = g.2.2.1
  · rw [if_pos key] at run
    have written := (works.withFdb { u.fdb with ents := u.fdb.ents.set (h.n :: g.2.1) { e with stamp := g.2.2.2.1 } }).within.settle
    have entry := fun x q => fdbAt_set (s := s) (t := u.putEnt h g.2.1 { e with stamp := g.2.2.2.1 }) (by rw [← ents]; rfl) x q
    rw [if_pos key]
    exact ⟨_, run, congrArg Fdb.tags fdb, (entry ..).trans (if_pos ⟨rfl, rfl⟩), count, fun x q hq => (entry x q).trans (if_neg (fun c => hq (by rw [c.1, c.2]))),
      written.parts, written.fields⟩
  · rw [if_neg key] at run
    rw [if_neg key]
    exact ⟨_, run, congrArg Fdb.tags fdb, (fdbAt_congr ents ..).trans he, count, fun x q _ => fdbAt_congr ents x q, works.within.settle.parts, works.within.settle.fields⟩

/-- The tag `u` of a later hit takes over the stamp that the skipped write of `g` would have replaced (R102). -/
def handOver (g u v : Half × List Nat × FKey × Nat × Nat) : Half × List Nat × FKey × Nat × Nat :=
  if v = u then (u.1, u.2.1, u.2.2.1, g.2.2.2.1, u.2.2.2.2) else v

/-- A later hit of the key there has written its own stamp: only that hit's tag changes. -/
theorem exec_hitStampSkip_later {s : State} {h : Half} {g : Half × List Nat × FKey × Nat × Nat} (hg : s.fdb.tags.find? (fun t => t.1 = h) = some g)
    (hs : ((s.fdb.tags.erase g).find? (sameTag g)).isSome = true) :
    ∃ u, exec (.hitStampSkip h) s
      = .next (settle ((s.stampSkipped h g).withFdb { (s.stampSkipped h g).fdb with tags := (s.fdb.tags.erase g).map (handOver g u) })) := by
  obtain ⟨u, hu⟩ := Option.isSome_iff_exists.1 hs
  refine ⟨u, ?_⟩
  show Host.Outcome.next (settle (doHitStampSkip h s)) = _
  unfold doHitStampSkip
  rw [hg]
  unfold State.stampSkipped State.withFdb
  dsimp only
  rw [hu]
  rfl

theorem stampSkip_stays {s : State} {h : Half} {g : Half × List Nat × FKey × Nat × Nat} (hg : s.fdb.tags.find? (fun t => t.1 = h) = some g)
    (hs : ((s.fdb.tags.erase g).find? (sameTag g)).isSome = true) :
    ∃ t, exec (.hitStampSkip h) s = .next t ∧ t.fdb.ents = s.fdb.ents ∧ t.fdb.tags.length = (s.fdb.tags.erase g).length
      ∧ t.rd .FDB_CNT_v [h.n, 15] = (s.rd .FDB_CNT_v [h.n, 15] + 1) % 2 ^ 64 ∧ partsBut [.fdb] s t ∧ fieldsBut [.FDB_CNT_v] s t := by
  obtain ⟨v, run⟩ := exec_hitStampSkip_later hg hs
  obtain ⟨works, fdb, count⟩ := stampSkipped_facts s h g
  generalize s.stampSkipped h g = u at run works fdb count
  have written := (works.withFdb { u.fdb with tags := (s.fdb.tags.erase g).map (handOver g v) }).within.settle
  exact ⟨_, run, (congrArg Fdb.ents fdb).trans rfl, List.length_map .., count, written.parts, written.fields⟩

/-! ## The seed (R96) -/

/-- A copy holds an entry. -/
def State.fdbUsed (s : State) : Bool := halves.any (fun x => s.on .FDB_OCC_bucket_used [x.n] || s.on .FDB_OCC_ovf_used [x.n])

theorem fdbUsed_iff (s : State) : s.fdbUsed = true ↔ ∃ x : Half, s.rd .FDB_OCC_bucket_used [x.n] ≠ 0 ∨ s.rd .FDB_OCC_ovf_used [x.n] ≠ 0 := by
  simp only [State.fdbUsed, State.on, List.any_eq_true, Bool.or_eq_true, decide_eq_true_eq]
  exact ⟨fun ⟨x, _, h⟩ => ⟨x, h⟩, fun ⟨x, h⟩ => ⟨x, by cases x <;> decide, h⟩⟩

/-- The seed of a half written while both copies are empty; the other half's follows over the bridge, or the halves are split (R96, R43). -/
def State.seedPut (s : State) (h : Half) (v : Nat) : State :=
  if s.bridgeUp then
    { s.st .FDB_SEED_seed [h.n] v with ras := { s.ras with mirrorQ := s.ras.mirrorQ ++ [([(.FDB_SEED_seed, [h.other.n], v)], [33 + h.other.n])] } }
  else (s.st .FDB_SEED_seed [h.n] v).st .RAS_OWN_STAT_mirror_split [h.n] 1

/-- A write of the seed is refused in both halves while a copy holds an entry, and else written (R96). -/
theorem exec_fdbSeedWrite {s : State} {h : Half} {v : Nat} (hv : v < 2 ^ 32) (hr : s.regOff (decide (h = .W)) = false) :
    exec (.fdbSeedWrite h v) s = .next (settle (if s.fdbUsed then s.sts [(.FDB_SEED_rejected, [0], 1), (.FDB_SEED_rejected, [1], 1)] else s.seedPut h v)) := by
  have plain : bit v 32 = false := by
    unfold bit
    rw [Nat.div_eq_of_lt hv]
    rfl
  have up : (s.st .FDB_SEED_seed [h.n] v).bridgeUp = s.bridgeUp := by
    unfold State.bridgeUp State.on
    rw [rd_st_of_ne _ _ _ _ (by decide)]
  refine (doneReg_of_reached _ hr).trans ?_
  unfold doFdbSeedWrite State.seedPut
  rw [plain]
  simp only [Bool.false_eq_true, if_false]
  rw [up]
  rfl

theorem seedWrite_of_used {s : State} {h : Half} {v : Nat} (hv : v < 2 ^ 32)
    (hu : ∃ x : Half, s.rd .FDB_OCC_bucket_used [x.n] ≠ 0 ∨ s.rd .FDB_OCC_ovf_used [x.n] ≠ 0) (hr : s.regOff (decide (h = .W)) = false) :
    ∃ t, exec (.fdbSeedWrite h v) s = .next t ∧ (∀ x : Half, t.rd .FDB_SEED_rejected [x.n] = 1 ∧ t.rd .FDB_SEED_seed [x.n] = s.rd .FDB_SEED_seed [x.n])
      ∧ partsBut [] s t ∧ fieldsBut [.FDB_SEED_rejected] s t := by
  have run := exec_fdbSeedWrite hv hr
  rw [if_pos ((fdbUsed_iff s).2 hu)] at run
  have refused : Within [] [.FDB_SEED_rejected] s (s.sts [(.FDB_SEED_rejected, [0], 1), (.FDB_SEED_rejected, [1], 1)]) := (Within.refl ..).sts _ (by simp)
  refine ⟨_, run, fun x => ⟨?_, refused.rd _ _ (by decide)⟩, refused.settle.parts, refused.settle.fields⟩
  show ((s.st .FDB_SEED_rejected [0] 1).st .FDB_SEED_rejected [1] 1).rd .FDB_SEED_rejected [x.n] = 1
  cases x <;> simp [rd_st, Half.n] <;> decide

theorem seedWrite_of_empty {s : State} {h : Half} {v : Nat} (hv : v < 2 ^ 32)
    (hu : ∀ x : Half, s.rd .FDB_OCC_bucket_used [x.n] = 0 ∧ s.rd .FDB_OCC_ovf_used [x.n] = 0) (hr : s.regOff (decide (h = .W)) = false) :
    ∃ t, exec (.fdbSeedWrite h v) s = .next t ∧ t.rd .FDB_SEED_seed [h.n] = v ∧ partsBut [.ras] s t
      ∧ fieldsBut [.FDB_SEED_seed, .RAS_OWN_STAT_mirror_split] s t := by
  have run := exec_fdbSeedWrite hv hr
  have empty : ¬ s.fdbUsed = true := fun used => by
    obtain ⟨x, hx⟩ := (fdbUsed_iff s).1 used
    exact hx.elim (fun h => h (hu x).1) (fun h => h (hu x).2)
  have put : Within [.ras] [.FDB_SEED_seed, .RAS_OWN_STAT_mirror_split] s (s.st .FDB_SEED_seed [h.n] v) := (Within.refl ..).st _ _
  have seed : (s.st .FDB_SEED_seed [h.n] v).rd .FDB_SEED_seed [h.n] = v := (rd_st ..).trans ((if_pos ⟨rfl, rfl⟩).trans (Nat.mod_eq_of_lt hv))
  rw [if_neg empty] at run
  unfold State.seedPut at run
  split at run
  · exact ⟨_, run, seed, (put.set_ras _).settle.parts, (put.set_ras _).settle.fields⟩
  · have all := (put.st (f := .RAS_OWN_STAT_mirror_split) [h.n] 1).settle
    have kept := rd_st_of_ne (f := .RAS_OWN_STAT_mirror_split) (g := .FDB_SEED_seed) (s.st .FDB_SEED_seed [h.n] v) [h.n] [h.n] 1 (by decide)
    exact ⟨_, run, kept.trans seed, all.parts, all.fields⟩

end Sys2Proof.Machine

namespace Sys2Proof.Machine

/-! ## A resynchronisation (R122) -/

/-- One word copied into the other half's copy (R122). -/
def State.resyncWord (o : Half) (s : State) (w : List Nat) : State :=
  let r := (s.dma o (s.engEv o 1 none) 2 w 0).eccReadAt o 2 0 w (s.engEv o 1 none)
  if r.1 then r.2 else r.2.fdbPut o.other w (r.2.fdbAt o w)

/-- What copying words does: the words of the other copy are the owner's. -/
structure Copies (o : Half) (ws : List (List Nat)) (s t : State) : Prop where
  works : Works [.fdb, .ras] useFlds s t
  rest : t.fdb.rest = s.fdb.rest
  own : ∀ q, t.fdbAt o q = s.fdbAt o q
  other : ∀ q, t.fdbAt o.other q = if q ∈ ws then s.fdbAt o q else s.fdbAt o.other q

theorem resyncWord_copies {s : State} (hp : s.ras.poison = []) (o : Half) (w : List Nat) : Copies o [w] s (State.resyncWord o s w) := by
  have read := (Reports.refl s).dma o (s.engEv o 1 none) 2 w 0
  have copy : State.resyncWord o s w = (s.dma o (s.engEv o 1 none) 2 w 0).fdbPut o.other w (s.fdbAt o w) := by
    unfold State.resyncWord
    rw [eccReadAt_clean (by rw [read.ras, hp]), ← read.sameFdb.word]
    simp only [Bool.false_eq_true, if_false]
  rw [copy]
  generalize s.dma o (s.engEv o 1 none) 2 w 0 = u at read ⊢
  refine ⟨read.works.mono.trans (.fdbPut ..), by rw [fdbPut_rest, read.fdb], fun q => ?_, fun q => ?_⟩
  · rw [fdbAt_fdbPut, if_neg (fun c => other_ne o c.1.symm), read.sameFdb.word]
  · rw [fdbAt_fdbPut, read.sameFdb.word]
    by_cases hq : q = w
    · subst hq
      simp
    · simp [hq]

theorem foldl_resyncWord {s : State} (hp : s.ras.poison = []) (o : Half) (ws : List (List Nat)) : Copies o ws s (ws.foldl (State.resyncWord o) s) := by
  induction ws generalizing s with
  | nil => exact ⟨.refl .., rfl, fun _ => rfl, fun q => by simp⟩
  | cons w ws ih =>
    have first := resyncWord_copies hp o w
    rw [List.foldl_cons]
    generalize State.resyncWord o s w = u at first ⊢
    have last := ih (first.works.clean hp)
    refine ⟨first.works.trans last.works, last.rest.trans first.rest, fun q => (last.own q).trans (first.own q), fun q => ?_⟩
    rw [last.other, first.own, first.other]
    by_cases hq : q ∈ ws <;> simp [hq]

/-- The words that a resynchronisation copies where no word has an error: those that either copy holds. -/
def State.resyncWords (s : State) (o : Half) : List (List Nat) := ((s.fdbOwned o).map (fun e => e.1) ++ (s.fdbOwnedIn o o.other).map (fun e => e.1)).eraseDups

theorem resyncCopy_clean {s : State} (hp : s.ras.poison = []) (o : Half) : s.resyncCopy o (fun b => !([] : List Nat).contains b) = (s.resyncWords o).foldl (State.resyncWord o) s := by
  have sound : ∀ x, s.fdbFlawed x = false := fun x => by
    unfold State.fdbFlawed
    rw [hp]
    rfl
  unfold State.resyncCopy
  rw [sound, sound]
  simp only [List.contains_nil, Bool.not_false, List.filter_true]
  rfl

/-- A place of a word that a half owns. -/
theorem mem_ownWords {o : Half} {p : List Nat} (h : p ∈ ownWords o) :
    ∃ b w, p = [b, w] ∧ (if b = ovfBucket then w / 8192 = o.n else b % 2 = o.n) := by
  have two : o.n < 2 := by cases o <;> decide
  have store : ovfBucket = 1048576 := rfl
  unfold ownWords at h
  rcases List.mem_append.1 h with h | h
  · obtain ⟨i, hi, h⟩ := List.mem_flatMap.1 h
    obtain ⟨w, -, rfl⟩ := List.mem_map.1 h
    have small := List.mem_range.1 hi
    refine ⟨2 * i + o.n, w, rfl, ?_⟩
    rw [if_neg (by omega)]
    omega
  · obtain ⟨i, hi, rfl⟩ := List.mem_map.1 h
    have small := List.mem_range.1 hi
    refine ⟨ovfBucket, 8192 * o.n + i, rfl, ?_⟩
    rw [if_pos rfl]
    omega

/-- An entry of a word that a half owns is among those that its copies list. -/
theorem mem_fdbOwnedIn {s : State} {o x : Half} {p : List Nat} {e : FdbEnt} (hp : p ∈ ownWords o) (he : s.fdbAt x p = some e) : p ∈ (s.fdbOwnedIn o x).map (fun e => e.1) := by
  obtain ⟨b, w, rfl, mine⟩ := mem_ownWords hp
  refine List.mem_map.2 ⟨([b, w], e), List.mem_filterMap.2 ⟨(x.n :: [b, w], e), SMap.mem_of_get? he, ?_⟩, rfl⟩
  split at mine <;> simp [*]

/-- A word that a half owns and that no copy lists is empty in both. -/
theorem resyncWords_copied {s t : State} {o : Half} (h : Copies o (s.resyncWords o) s t) {p : List Nat} (hp : p ∈ ownWords o) : t.fdbAt o.other p = s.fdbAt o p := by
  rw [h.other]
  by_cases listed : p ∈ s.resyncWords o
  · rw [if_pos listed]
  · rw [if_neg listed]
    have empty : ∀ x, (x = o ∨ x = o.other) → s.fdbAt x p = none := fun x hx => by
      rw [Option.eq_none_iff_forall_ne_some]
      intro e he
      refine listed (List.mem_eraseDups.2 (List.mem_append.2 ?_))
      rcases hx with rfl | rfl
      · exact .inl (mem_fdbOwnedIn hp he)
      · exact .inr (mem_fdbOwnedIn hp he)
    rw [empty _ (.inl rfl), empty _ (.inr rfl)]

/-- The lock bits of all buckets are set and cleared in turn, and no lock changes (R122, R318). -/
theorem Works.lockSweep (s : State) (o : Half) (held : List Nat) : Works [] [.HAM_CNT_v] s (s.lockSweep o held) := by
  unfold State.lockSweep
  exact ite _ (foldl (fun t i => ite _ (refl ..) (lockPulse ..)) _ s) ((refl ..).bump _ _)

/-- A resynchronisation without locked buckets copies every word and ends (R122). -/
theorem exec_fdbResyncDone {s : State} {h : Half} (hr : s.fdb.resync.contains h = true) (hl : s.fdb.locks.any (fun l => l.1.head? = some h.n) = false)
    (hd : s.fdb.resyncLeft.any (fun d => d.1 = h) = false) (hp : s.ras.poison = []) :
    exec (.fdbResyncDone h) s = .next (settle ((((s.resyncWords h).foldl (State.resyncWord h) s).lockSweep h []).resyncEnd h)) := by
  have held : s.fdb.locks.filter (fun l => l.1.head? = some h.n) = [] := by
    rw [List.filter_eq_nil_iff]
    intro l hm
    simpa using (List.any_eq_false.1 hl) l hm
  rw [← resyncCopy_clean hp]
  show Host.Outcome.next (settle (doFdbResyncDone h s)) = _
  unfold doFdbResyncDone
  rw [if_neg (by rw [hr, hd]; decide), held]
  simp only [List.map_nil, List.isEmpty_nil, if_true]

/-- A resynchronisation is no longer in progress. -/
def State.resyncOver (s : State) (h : Half) : State := (s.withFdb { s.fdb with resync := s.fdb.resync.filter (fun x => x ≠ h) }).st .FDB_STAT_resync [h.n] 0

theorem resyncEnd_eq (s : State) (h : Half) : s.resyncEnd h = (s.resyncOver h).raise 0x0013 h.n [(0, 1, h.n), (4, 4, 524288)] := rfl

/-- The end of a resynchronisation: it is no longer in progress, and an event tells of it (R122). -/
theorem resyncEnd_facts (s : State) (h : Half) : Within [.fdb] [.FDB_STAT_resync] s (s.resyncEnd h) ∧ h ∉ (s.resyncEnd h).fdb.resync ∧ (s.resyncEnd h).fdb.ents = s.fdb.ents
    ∧ (s.resyncEnd h).rd .FDB_STAT_resync [h.n] = 0 ∧ (s.resyncEnd h).host.events = s.host.events ++ [⟨0x0013, h.n, record 32 [(0, 1, h.n), (4, 4, 524288)]⟩] := by
  have ended : Within [.fdb] [.FDB_STAT_resync] s (s.resyncOver h) := ((Works.refl _ _ s).withFdb _).within.st _ _
  have clear : (s.resyncOver h).rd .FDB_STAT_resync [h.n] = 0 := (rd_st ..).trans ((if_pos ⟨rfl, rfl⟩).trans (Nat.zero_mod _))
  have fdb : (s.resyncOver h).fdb = { s.fdb with resync := s.fdb.resync.filter (fun x => x ≠ h) } := rfl
  have host : (s.resyncOver h).host = s.host := rfl
  rw [resyncEnd_eq]
  generalize s.resyncOver h = u at ended clear fdb host
  have told := (Reports.refl u).raise 0x0013 h.n [(0, 1, h.n), (4, 4, 524288)] none
  refine ⟨ended.report told, ?_, ?_, (told.rd _ _ rfl).trans clear, by rw [raise_events, host]⟩
  · rw [told.fdb, fdb]
    simp
  · rw [told.fdb, fdb]

theorem resync_ends {s : State} {h : Half} (hr : s.fdb.resync.contains h = true) (hl : s.fdb.locks.any (fun l => l.1.head? = some h.n) = false)
    (hd : s.fdb.resyncLeft.any (fun d => d.1 = h) = false) (hp : s.ras.poison = []) :
    ∃ t, exec (.fdbResyncDone h) s = .next t ∧ h ∉ t.fdb.resync ∧ t.rd .FDB_STAT_resync [h.n] = 0
      ∧ (∀ p ∈ ownWords h, t.fdbAt h.other p = s.fdbAt h p ∧ t.fdbAt h p = s.fdbAt h p)
      ∧ (∃ es, t.host.events = s.host.events ++ es ++ [⟨0x0013, h.n, record 32 [(0, 1, h.n), (4, 4, 524288)]⟩]) ∧ partsBut [.fdb, .ras] s t
      ∧ fieldsBut [.FDB_STAT_resync, .HAM_CNT_v, .FDB_OCC_bucket_used, .FDB_OCC_ovf_used, .FDB_SLICE_USE_used] s t := by
  have run := exec_fdbResyncDone hr hl hd hp
  have copies := foldl_resyncWord hp h (s.resyncWords h)
  generalize (s.resyncWords h).foldl (State.resyncWord h) s = u at run copies
  have sweep := Works.lockSweep u h []
  generalize u.lockSweep h [] = v at run sweep
  obtain ⟨within, gone, ents, clear, event⟩ := resyncEnd_facts v h
  generalize v.resyncEnd h = t at run within gone ents clear event
  have works : Works [.fdb, .ras] [.FDB_STAT_resync, .HAM_CNT_v, .FDB_OCC_bucket_used, .FDB_OCC_ovf_used, .FDB_SLICE_USE_used] s v :=
    copies.works.mono.trans sweep.mono
  have all := (works.within.trans within.mono).settle
  have word : ∀ x p, t.fdbAt x p = u.fdbAt x p := fun x p => (fdbAt_congr ents x p).trans (sweep.sameFdb.word x p)
  obtain ⟨es, told⟩ := works.events
  refine ⟨_, run, gone, clear, fun p hp => ⟨?_, ?_⟩, ⟨es, ?_⟩, all.parts, all.fields⟩
  · exact (word ..).trans (resyncWords_copied copies hp)
  · exact (word ..).trans (copies.own p)
  · rw [told]
    exact event

/-- Settles O15: the notice and the skipped stamp write, the end of a resynchronisation, and the seed refused or written. -/
theorem hitStampsResyncAndSeed : Obligations.HitStampsResyncAndSeed := by
  unfold Obligations.HitStampsResyncAndSeed
  exact ⟨⟨fun s h m e hm he hp => hitNotice_stamps hm he hp, fun s h g e hg he hn => stampSkip_restores hg he hn, fun s h g hg hs => stampSkip_stays hg hs⟩,
    fun s h hr hl hd hp => resync_ends hr hl hd hp, fun s h v hv => ⟨seedWrite_of_used hv, seedWrite_of_empty hv⟩⟩

end Sys2Proof.Machine

/-! SUPPORT. The shared buffer: the priority groups and their PFC frames, the front end, the tests of admission (O20, O22, O24, O25, O47). -/

namespace Sys2Proof.Machine

/-! ## The state table of a priority group -/

theorem bit_add_pow {x g w : Nat} (hx : bit x g = false) (hg : g < w) : bit ((x + 2 ^ g) % 2 ^ w) g = true := by
  rw [bit_eq_testBit] at hx ⊢
  rw [Nat.testBit_mod_two_pow, add_comm, Nat.testBit_two_pow_add_eq, hx]
  simpa using hg

theorem bit_sub_pow {x g w : Nat} (hx : bit x g = true) : bit ((x - 2 ^ g) % 2 ^ w) g = false := by
  have back := Nat.testBit_two_pow_add_eq (x - 2 ^ g) g
  rw [bit_eq_testBit] at hx ⊢
  rw [Nat.add_sub_cancel' (Nat.ge_two_pow_of_testBit hx), hx] at back
  rw [Nat.testBit_mod_two_pow]
  simp_all

/-- The fields that the state table of a group changes (R140). -/
def tableFlds : List Fld := [.BUF_PORT_STAT_xoff, .BUF_CNT_v]

/-- The state that the table of R140 gives a lossless group. -/
def State.xoffNext (s : State) (h : Half) (j g : Nat) : Bool :=
  if s.inXoff h j g = true then
    !(decide (s.pgShr h j g + s.rd .BUF_PG_CFG_xon_offset [h.n, j, g] ≤ s.pgLimit h j g) && decide (s.rd .BUF_PG_CFG_pg_hdrm [h.n, j, g] = 0))
  else decide (s.pgLimit h j g ≤ s.pgShr h j g)

/-- The PFC frame that a group sends as it goes to a state (R140). -/
def State.pfcOf (s : State) (h : Half) (j g : Nat) (x : Bool) : Nat × Nat × Nat :=
  (portOf h j, s.pgPrios h j g, if x = true then s.rd .BUF_PORT_CFG_pfc_quanta [h.n, j] else 0)

/-- A group's state table has been evaluated, and its next state is `x` (R140). -/
structure Evaluated (s t : State) (h : Half) (j g : Nat) (x : Bool) : Prop where
  within : Within [.buf, .lanes] tableFlds s t
  xoff : t.inXoff h j g = x
  sent : t.lanes.pfcSent = s.lanes.pfcSent ++ (if x = s.inXoff h j g then [] else [s.pfcOf h j g x])
  reqs : t.buf.reqs = s.buf.reqs
  cnt : ∀ y i, i ≠ 2 → t.rd .BUF_CNT_v [y, i] = s.rd .BUF_CNT_v [y, i]

/-- What a group does on its way to XOFF (R140). -/
def State.pgStop (s : State) (h : Half) (j g : Nat) : State :=
  let s := (s.st .BUF_PORT_STAT_xoff [h.n, j] (s.rd .BUF_PORT_STAT_xoff [h.n, j] + 2 ^ g)).bump .BUF_CNT_v [h.n, 2] 1
  let s := s.pfcSend h j g (s.rd .BUF_PORT_CFG_pfc_quanta [h.n, j])
  { s with buf := { s.buf with pgTimes := s.buf.pgTimes.set [h.n, j, g] (s.elapsed, s.pfcNext h j) } }

/-- What a group does on its way back to XON (R140). -/
def State.pgStart (s : State) (h : Half) (j g : Nat) : State :=
  let s := (s.st .BUF_PORT_STAT_xoff [h.n, j] (s.rd .BUF_PORT_STAT_xoff [h.n, j] - 2 ^ g)).pfcSend h j g 0
  { s with buf := { s.buf with pgTimes := (s.buf.pgTimes.erase [h.n, j, g]).erase [h.n, j, g, 1] } }

/-- The state table of R140, row by row. -/
theorem pgEval_eq (s : State) (h : Half) (j g : Nat) :
    s.pgEval h j g = if ¬ s.on .BUF_PG_CFG_lossless [h.n, j, g] = true then s
      else if ¬ s.inXoff h j g = true then (if s.pgLimit h j g ≤ s.pgShr h j g then s.pgStop h j g else s)
      else if s.pgShr h j g + s.rd .BUF_PG_CFG_xon_offset [h.n, j, g] ≤ s.pgLimit h j g ∧ s.rd .BUF_PG_CFG_pg_hdrm [h.n, j, g] = 0 then s.pgStart h j g
      else s := rfl

theorem pgEval_of_lossy {s : State} {h : Half} {j g : Nat} (hl : s.on .BUF_PG_CFG_lossless [h.n, j, g] = false) : s.pgEval h j g = s := by
  rw [pgEval_eq, if_pos (by simp [hl])]

theorem pgEval_of_lossless {s : State} {h : Half} {j g : Nat} (hl : s.on .BUF_PG_CFG_lossless [h.n, j, g] = true) :
    s.pgEval h j g = if s.xoffNext h j g = s.inXoff h j g then s else if s.xoffNext h j g = true then s.pgStop h j g else s.pgStart h j g := by
  rw [pgEval_eq, if_neg (not_not.2 hl)]
  unfold State.xoffNext
  cases s.inXoff h j g with
  | false => by_cases full : s.pgLimit h j g ≤ s.pgShr h j g <;> simp [full]
  | true =>
    by_cases empty : s.pgShr h j g + s.rd .BUF_PG_CFG_xon_offset [h.n, j, g] ≤ s.pgLimit h j g ∧ s.rd .BUF_PG_CFG_pg_hdrm [h.n, j, g] = 0 <;> simp [empty]

theorem pgStop_within (s : State) (h : Half) (j g : Nat) : Within [.buf, .lanes] tableFlds s (s.pgStop h j g) :=
  ((((Within.refl _ _ s).st _ _).bump _ _).set_lanes _).set_buf _

theorem pgStart_within (s : State) (h : Half) (j g : Nat) : Within [.buf, .lanes] tableFlds s (s.pgStart h j g) :=
  (((Within.refl _ _ s).st _ _).set_lanes _).set_buf _

theorem pgEval_within (s : State) (h : Half) (j g : Nat) : Within [.buf, .lanes] tableFlds s (s.pgEval h j g) := by
  rw [pgEval_eq]
  exact .ite _ (.refl ..) (.ite _ (.ite _ (pgStop_within ..) (.refl ..)) (.ite _ (pgStart_within ..) (.refl ..)))

theorem pgEval_notices (s : State) (h : Half) (j g : Nat) : (s.pgEval h j g).buf.notices = s.buf.notices := by
  rw [pgEval_eq]
  split_ifs <;> rfl

theorem pgPrios_congr {s t : State} {h : Half} {j : Nat} (hm : t.rd .BUF_PORT_CFG_pg_map [h.n, j] = s.rd .BUF_PORT_CFG_pg_map [h.n, j]) (g : Nat) :
    t.pgPrios h j g = s.pgPrios h j g := by
  unfold State.pgPrios
  rw [hm]

theorem pgStop_evaluated {s : State} {h : Half} {j g : Nat} (hg : g < 8) (hx : s.inXoff h j g = false) : Evaluated s (s.pgStop h j g) h j g true := by
  have marked : Within [.buf, .lanes] tableFlds s
      ((s.st .BUF_PORT_STAT_xoff [h.n, j] (s.rd .BUF_PORT_STAT_xoff [h.n, j] + 2 ^ g)).bump .BUF_CNT_v [h.n, 2] 1) :=
    ((Within.refl _ _ s).st _ _).bump _ _
  refine ⟨pgStop_within .., ?xoff, ?sent, rfl, fun y i hi => ?cnt⟩
  case xoff =>
    have set : (s.pgStop h j g).rd .BUF_PORT_STAT_xoff [h.n, j] = (s.rd .BUF_PORT_STAT_xoff [h.n, j] + 2 ^ g) % 2 ^ 8 :=
      (rd_bump ..).trans ((if_neg (by simp)).trans (rd_st_self ..))
    rw [State.inXoff, set]
    exact bit_add_pow hx hg
  case sent =>
    rw [hx, if_neg (by decide)]
    have prios := pgPrios_congr (h := h) (j := j) (marked.rd _ _) g
    have quanta := marked.rd .BUF_PORT_CFG_pfc_quanta [h.n, j]
    exact congrArg (s.lanes.pfcSent ++ [·]) (congrArg (Prod.mk _) (congrArg₂ Prod.mk prios quanta))
  case cnt =>
    refine (rd_bump ..).trans ((if_neg (by simp [hi])).trans ?_)
    exact rd_st_of_ne _ _ _ _ (by decide)

theorem pgStart_evaluated {s : State} {h : Half} {j g : Nat} (hx : s.inXoff h j g = true) : Evaluated s (s.pgStart h j g) h j g false := by
  have marked : Within [.buf, .lanes] tableFlds s (s.st .BUF_PORT_STAT_xoff [h.n, j] (s.rd .BUF_PORT_STAT_xoff [h.n, j] - 2 ^ g)) :=
    (Within.refl _ _ s).st _ _
  refine ⟨pgStart_within .., ?xoff, ?sent, rfl, fun y i hi => rd_st_of_ne _ _ _ _ (by decide)⟩
  case xoff =>
    have set : (s.pgStart h j g).rd .BUF_PORT_STAT_xoff [h.n, j] = (s.rd .BUF_PORT_STAT_xoff [h.n, j] - 2 ^ g) % 2 ^ 8 := rd_st_self ..
    rw [State.inXoff, set]
    exact bit_sub_pow hx
  case sent =>
    rw [hx, if_neg (by decide)]
    have prios := pgPrios_congr (h := h) (j := j) (marked.rd _ _) g
    exact congrArg (s.lanes.pfcSent ++ [·]) (congrArg (Prod.mk _) (congrArg (Prod.mk · 0) prios))

/-- The state table of a lossless group: the next state, with a PFC frame where it changes (R140). -/
theorem pgEval_evaluated {s : State} {h : Half} {j g : Nat} (hl : s.on .BUF_PG_CFG_lossless [h.n, j, g] = true) (hg : g < 8) :
    Evaluated s (s.pgEval h j g) h j g (s.xoffNext h j g) := by
  rw [pgEval_of_lossless hl]
  by_cases stays : s.xoffNext h j g = s.inXoff h j g
  · rw [if_pos stays]
    exact ⟨.refl .., stays.symm, by simp [stays], rfl, fun _ _ _ => rfl⟩
  · rw [if_neg stays]
    cases hn : s.xoffNext h j g with
    | true =>
      rw [if_pos rfl]
      exact pgStop_evaluated hg (by simpa [hn] using stays)
    | false =>
      rw [if_neg (by decide)]
      exact pgStart_evaluated (by simpa [hn] using stays)

/-! ## Release notices -/

/-- The counts of a group without the cells of a copy (R128, R139). -/
def State.pgLower (s : State) (h : Half) (j g n : Nat) (hdrm remote : Bool) : State :=
  let s := s.lower .BUF_PG_CFG_pg_use [h.n, j, g] n
  let s := if hdrm then s.lower .BUF_PG_CFG_pg_hdrm [h.n, j, g] n else s
  if remote then s.lower .BUF_PG_REMOTE_pg_remote [h.n, j, g] n else s

theorem pgReturn_eq (s : State) (h : Half) (j g n : Nat) (hdrm remote : Bool) :
    s.pgReturn h j g n hdrm remote = ((s.pgLower h j g n hdrm remote).ipRefresh h).pgEval h j g := rfl

theorem pgLower_within (s : State) (h : Half) (j g n : Nat) (hdrm remote : Bool) : Within [] pgFlds s (s.pgLower h j g n hdrm remote) := by
  unfold State.pgLower
  extract_lets s1 s2
  have use : Within [] pgFlds s s1 := (Within.refl _ _ s).lower _ _
  have hdr : Within [] pgFlds s s2 := .ite _ (use.lower _ _) use
  exact .ite _ (hdr.lower _ _) hdr

theorem rd_pgLower_use (s : State) (h : Half) (j g n : Nat) (hdrm remote : Bool) :
    (s.pgLower h j g n hdrm remote).rd .BUF_PG_CFG_pg_use [h.n, j, g] = (s.rd .BUF_PG_CFG_pg_use [h.n, j, g] - n) % 2 ^ 20 := by
  have width : Fld.BUF_PG_CFG_pg_use.info.w = 20 := rfl
  unfold State.pgLower
  cases hdrm <;> cases remote <;> simp [rd_lower, width]

theorem rd_pgLower_remote (s : State) (h : Half) (j g n : Nat) (hdrm : Bool) :
    (s.pgLower h j g n hdrm true).rd .BUF_PG_REMOTE_pg_remote [h.n, j, g] = (s.rd .BUF_PG_REMOTE_pg_remote [h.n, j, g] - n) % 2 ^ 20 := by
  have width : Fld.BUF_PG_REMOTE_pg_remote.info.w = 20 := rfl
  unfold State.pgLower
  cases hdrm <;> simp [rd_lower, width]

/-- After the counts, a return refreshes the ingress pools and evaluates the state table (R139, R140). -/
theorem pgReturn_after_pgLower (s : State) (h : Half) (j g n : Nat) (hdrm remote : Bool) :
    Within [.buf, .lanes] (.BUF_IPOOL_use :: tableFlds) (s.pgLower h j g n hdrm remote) (s.pgReturn h j g n hdrm remote) := by
  rw [pgReturn_eq]
  exact (Within.ipRefresh ..).mono.andThen (pgEval_within ..)

/-- A release notice leaves the bridge. -/
def State.takeNotice (s : State) (m : Half × Nat × Nat × Nat × Bool) : State := { s with buf := { s.buf with notices := s.buf.notices.erase m } }

theorem doPgReleaseNotice_eq {s : State} {h : Half} {m : Half × Nat × Nat × Nat × Bool} (hm : s.buf.notices.find? (fun m => m.1 = h) = some m) :
    doPgReleaseNotice h s = (s.takeNotice m).pgReturn h m.2.1 m.2.2.1 m.2.2.2.1 m.2.2.2.2 true := by
  unfold doPgReleaseNotice
  rw [hm]
  rfl

/-- A release notice returns its cells to the group that it names (R128, R139). -/
theorem pgReleaseNotice_returns (s : State) (h : Half) (j g n : Nat) (hd : Bool) (hm : s.buf.notices.find? (fun m => m.1 = h) = some (h, j, g, n, hd)) :
    ∃ t, exec (.pgReleaseNotice h) s = .next t ∧ t.buf.notices = s.buf.notices.erase (h, j, g, n, hd)
      ∧ t.rd .BUF_PG_CFG_pg_use [h.n, j, g] = (s.rd .BUF_PG_CFG_pg_use [h.n, j, g] - n) % 2 ^ 20
      ∧ t.rd .BUF_PG_REMOTE_pg_remote [h.n, j, g] = (s.rd .BUF_PG_REMOTE_pg_remote [h.n, j, g] - n) % 2 ^ 20
      ∧ partsBut [.buf, .lanes] s t
      ∧ fieldsBut [.BUF_PG_CFG_pg_use, .BUF_PG_CFG_pg_hdrm, .BUF_PG_REMOTE_pg_remote, .BUF_IPOOL_use, .BUF_PORT_STAT_xoff, .BUF_CNT_v] s t := by
  have run : exec (.pgReleaseNotice h) s = .next (settle (doPgReleaseNotice h s)) := rfl
  rw [doPgReleaseNotice_eq hm] at run
  have taken : Within [.buf, .lanes] (tableFlds ++ pgFlds) s (s.takeNotice (h, j, g, n, hd)) := (Within.refl _ _ s).set_buf _
  have notices : (s.takeNotice (h, j, g, n, hd)).buf.notices = s.buf.notices.erase (h, j, g, n, hd) := rfl
  have reads : ∀ f ix, (s.takeNotice (h, j, g, n, hd)).rd f ix = s.rd f ix := fun _ _ => rfl
  generalize s.takeNotice (h, j, g, n, hd) = u at run taken notices reads
  have lowered := pgLower_within u h j g n hd true
  have after := pgReturn_after_pgLower u h j g n hd true
  have all := ((taken.andThen lowered).andThen after).settle
  refine ⟨_, run, ?_, ?_, ?_, all.parts, fieldsBut_mono all.fields (by decide)⟩
  · rw [settle_buf, pgReturn_eq, pgEval_notices, (Within.ipRefresh ..).parts .buf (by decide), lowered.parts .buf (by decide), notices]
  · rw [rd_settle, after.rd _ _, rd_pgLower_use, reads]
  · rw [rd_settle, after.rd _ _, rd_pgLower_remote, reads]

/-! ## PFC refresh and storm -/

/-- The times of a group replaced. -/
def State.setPgTimes (s : State) (m : SMap (Nat × Nat)) : State := { s with buf := { s.buf with pgTimes := m } }

/-- A group's stay in XOFF is marked as reported (R150). -/
def State.stormMark (s : State) (h : Half) (j g : Nat) : State := s.setPgTimes (s.buf.pgTimes.set [h.n, j, g, 1] (1, 0))

theorem stormMark_facts (s : State) (h : Half) (j g : Nat) : Within [.buf] [] s (s.stormMark h j g)
    ∧ (s.stormMark h j g).buf.pgTimes.get? [h.n, j, g, 1] = some (1, 0) ∧ (s.stormMark h j g).time = s.time ∧ (s.stormMark h j g).host = s.host :=
  ⟨(Within.refl _ _ s).set_buf _, SMap.get?_set_self .., rfl, rfl⟩

section
variable {s : State} {port pg : Nat} {x : Nat × Nat}

theorem pgTime_of_lossless (hx : s.buf.pgTimes.get? [(portHalf port).n, localIdx port, pg] = some x)
    (hl : s.on .BUF_PG_CFG_lossless [(portHalf port).n, localIdx port, pg] = true) :
    (if s.on .BUF_PG_CFG_lossless [(portHalf port).n, localIdx port, pg] then s.buf.pgTimes.get? [(portHalf port).n, localIdx port, pg] else none) = some x := by
  rw [if_pos hl, hx]

theorem doPfcRefresh_of_lossless (hx : s.buf.pgTimes.get? [(portHalf port).n, localIdx port, pg] = some x)
    (hl : s.on .BUF_PG_CFG_lossless [(portHalf port).n, localIdx port, pg] = true) :
    doPfcRefresh port pg s = (let u := (s.runTo x.2).pfcSend (portHalf port) (localIdx port) pg ((s.runTo x.2).rd .BUF_PORT_CFG_pfc_quanta [(portHalf port).n, localIdx port])
      u.setPgTimes (u.buf.pgTimes.set [(portHalf port).n, localIdx port, pg] (x.1, u.pfcNext (portHalf port) (localIdx port)))) := by
  unfold doPfcRefresh
  dsimp only
  rw [pgTime_of_lossless hx hl]
  rfl

/-- A lossless group in XOFF sends its PFC frame again, and the next refresh follows (R140). -/
theorem pfcRefresh_sends (hx : s.buf.pgTimes.get? [(portHalf port).n, localIdx port, pg] = some x)
    (hl : s.on .BUF_PG_CFG_lossless [(portHalf port).n, localIdx port, pg] = true) :
    ∃ t, exec (.pfcRefresh port pg) s = .next t ∧ t.time.elapsed = max s.time.elapsed x.2
      ∧ t.lanes.pfcSent = s.lanes.pfcSent ++ [(portOf (portHalf port) (localIdx port), s.pgPrios (portHalf port) (localIdx port) pg,
          s.rd .BUF_PORT_CFG_pfc_quanta [(portHalf port).n, localIdx port])]
      ∧ t.buf.pgTimes.get? [(portHalf port).n, localIdx port, pg]
          = some (x.1, t.time.elapsed + s.rd .BUF_PORT_CFG_pfc_refresh [(portHalf port).n, localIdx port] * 512)
      ∧ partsBut [.buf, .time, .lanes] s t ∧ fieldsBut [] s t := by
  have run : exec (.pfcRefresh port pg) s = .next (settle (doPfcRefresh port pg s)) := rfl
  rw [doPfcRefresh_of_lossless hx hl] at run
  have passed := runTo_passes s x.2
  generalize s.runTo x.2 = v at passed run
  have waited : Within [.buf, .time, .lanes] [] s v := passed.within.mono
  have all := ((waited.set_lanes (v.pfcSend (portHalf port) (localIdx port) pg (v.rd .BUF_PORT_CFG_pfc_quanta [(portHalf port).n, localIdx port])).lanes).set_buf
    (v.setPgTimes (v.buf.pgTimes.set [(portHalf port).n, localIdx port, pg] (x.1, v.pfcNext (portHalf port) (localIdx port)))).buf).settle
  have lanes : v.lanes = s.lanes := passed.within.parts .lanes (by decide)
  refine ⟨_, run, passed.elapsed, ?sent, ?next, all.parts, all.fields⟩
  case sent =>
    rw [← lanes, ← pgPrios_congr (passed.within.rd _ _) pg, ← passed.within.rd .BUF_PORT_CFG_pfc_quanta _]
    rfl
  case next =>
    rw [← passed.within.rd .BUF_PORT_CFG_pfc_refresh _]
    exact SMap.get?_set_self ..

theorem doPfcStorm_of_lossless (hx : s.buf.pgTimes.get? [(portHalf port).n, localIdx port, pg] = some x)
    (hl : s.on .BUF_PG_CFG_lossless [(portHalf port).n, localIdx port, pg] = true) (hs : s.rd .BUF_MISC_storm_ms [(portHalf port).n] ≠ 0)
    (hn : s.buf.pgTimes.get? [(portHalf port).n, localIdx port, pg, 1] = none) :
    doPfcStorm port pg s = ((s.runTo (x.1 + s.rd .BUF_MISC_storm_ms [(portHalf port).n] * 1000000)).stormMark (portHalf port) (localIdx port) pg).raise
      0x0021 (portHalf port).n [(0, 2, port), (2, 1, pg)] := by
  unfold doPfcStorm
  dsimp only
  rw [pgTime_of_lossless hx hl]
  dsimp only
  rw [if_neg (by simp [hs, hn])]
  generalize s.runTo _ = u
  rfl

/-- A lossless group that has been in XOFF for `storm_ms` raises PFC_STORM, and its stay is marked (R150). -/
theorem pfcStorm_raises (hx : s.buf.pgTimes.get? [(portHalf port).n, localIdx port, pg] = some x)
    (hl : s.on .BUF_PG_CFG_lossless [(portHalf port).n, localIdx port, pg] = true) (hs : s.rd .BUF_MISC_storm_ms [(portHalf port).n] ≠ 0)
    (hn : s.buf.pgTimes.get? [(portHalf port).n, localIdx port, pg, 1] = none) :
    ∃ t, exec (.pfcStorm port pg) s = .next t
      ∧ t.time.elapsed = max s.time.elapsed (x.1 + s.rd .BUF_MISC_storm_ms [(portHalf port).n] * 1000000)
      ∧ (t.buf.pgTimes.get? [(portHalf port).n, localIdx port, pg, 1]).isSome = true ∧ partsBut [.buf, .time] s t ∧ fieldsBut [] s t
      ∧ ∃ evs, t.host.events = s.host.events ++ evs ++ [⟨0x0021, (portHalf port).n, record 32 [(0, 2, port), (2, 1, pg)]⟩] := by
  have run : exec (.pfcStorm port pg) s = .next (settle (doPfcStorm port pg s)) := rfl
  rw [doPfcStorm_of_lossless hx hl hs hn] at run
  have passed := runTo_passes s (x.1 + s.rd .BUF_MISC_storm_ms [(portHalf port).n] * 1000000)
  generalize s.runTo (x.1 + s.rd .BUF_MISC_storm_ms [(portHalf port).n] * 1000000) = u at passed run
  obtain ⟨marked, mark, time, host⟩ := stormMark_facts u (portHalf port) (localIdx port) pg
  generalize u.stormMark (portHalf port) (localIdx port) pg = v at marked mark time host run
  have told := (Reports.refl v).raise 0x0021 (portHalf port).n [(0, 2, port), (2, 1, pg)] none
  have event := raise_events v 0x0021 (portHalf port).n [(0, 2, port), (2, 1, pg)] none
  generalize v.raise 0x0021 (portHalf port).n [(0, 2, port), (2, 1, pg)] none = t at told event run
  have waited : Within [.buf, .time] [] s u := passed.within.mono
  have all := ((waited.andThen marked).report told).settle
  obtain ⟨evs, came⟩ := passed.events
  refine ⟨_, run, ?elapsed, ?marked, all.parts, all.fields, evs, ?events⟩
  case elapsed => rw [settle_time, told.time, time, passed.elapsed]
  case marked => rw [settle_buf, told.buf, mark, Option.isSome_some]
  case events => rw [settle_host, event, host, came]

end

/-- A group whose `lossless` is 0 sends no refresh and raises no storm (R138). -/
theorem pfcTimers_of_lossy (s : State) (port pg : Nat) (hl : s.on .BUF_PG_CFG_lossless [(portHalf port).n, localIdx port, pg] = false) :
    (∃ t, exec (.pfcRefresh port pg) s = .next t ∧ t.lanes = s.lanes ∧ partsBut [] s t ∧ fieldsBut [] s t)
      ∧ (∃ t, exec (.pfcStorm port pg) s = .next t ∧ t.host = s.host ∧ partsBut [] s t ∧ fieldsBut [] s t) := by
  have refresh : doPfcRefresh port pg s = s := by simp [doPfcRefresh, hl]
  have storm : doPfcStorm port pg s = s := by simp [doPfcStorm, hl]
  have runR : exec (.pfcRefresh port pg) s = .next (settle (doPfcRefresh port pg s)) := rfl
  have runS : exec (.pfcStorm port pg) s = .next (settle (doPfcStorm port pg s)) := rfl
  have kept := (Within.refl [] [] s).settle
  rw [refresh] at runR
  rw [storm] at runS
  exact ⟨⟨_, runR, rfl, kept.parts, kept.fields⟩, _, runS, rfl, kept.parts, kept.fields⟩

/-- Settles O24: the notice, the refresh, the storm, and neither of the last two for a lossy group. -/
theorem priorityGroups : Obligations.PriorityGroups := by
  unfold Obligations.PriorityGroups
  exact ⟨pgReleaseNotice_returns, fun _ _ _ _ => pfcRefresh_sends, fun _ _ _ _ => pfcStorm_raises, pfcTimers_of_lossy⟩

end Sys2Proof.Machine

namespace Sys2Proof.Machine

/-! ## The front end -/

/-- A frame that is counted once in a field of its own and then dropped (R40). -/
theorem dropFr_after_bump (s : State) (h : Half) (cause : Nat) (f : Frame) {c : Fld} (ix : List Nat) (hc : c ∉ dropFlds) (hr : reported c ix = false) :
    dropped s ((s.bump c ix 1).dropFr h cause f) f.id h cause ∧ ((s.bump c ix 1).dropFr h cause f).rd c ix = (s.rd c ix + 1) % 2 ^ c.info.w
      ∧ Within dropParts (c :: dropFlds) s ((s.bump c ix 1).dropFr h cause f) := by
  have other : Fld.TEL_DROP_CNT_v ≠ c := fun e => hc (e ▸ by decide)
  have drop := Within.dropFr (s.bump c ix 1) h cause f
  have counted : Within dropParts (c :: dropFlds) s (s.bump c ix 1) := (Within.refl _ _ s).bump ix 1 List.mem_cons_self
  exact ⟨dropped_congr (dropped_dropFr (s.bump c ix 1) h cause f) (fun _ _ => rfl) rfl (rd_st_of_ne _ _ _ _ other),
    (drop.rd _ _ hc hr).trans (rd_st_self ..), counted.andThen drop (fun _ hp => hp) (fun _ hf => List.mem_cons_of_mem c hf)⟩

/-- A frame that asks admission (R33). -/
def Frame.asking (f : Frame) (pg : Option Nat) (x : Bool) : Frame := { f with loc := .request, cells := ceilDiv f.len 256, pg := pg, hdrmReq := x }

/-- A frame asks admission in its egress half, over the bridge where that is the other one (R33). -/
def State.ask (s : State) (f : Frame) (pg : Option Nat) (x : Bool) : State :=
  let s := s.setFr (f.asking pg x)
  let s := { s with buf := { s.buf with reqs := s.buf.reqs ++ [(f.egress, f.id)] } }
  if f.egress = f.ingress then s else s.bridgeMsg f.ingress

theorem ask_facts {s : State} {f : Frame} (hf : s.fr? f.id = some f) (pg : Option Nat) (x : Bool) :
    became s (s.ask f pg x) f.id (f.asking pg x) ∧ (s.ask f pg x).buf.reqs = s.buf.reqs ++ [(f.egress, f.id)]
      ∧ Within [.frames, .buf] [] s (s.ask f pg x) := by
  unfold State.ask
  extract_lets t b u
  have told : Reports u (if f.egress = f.ingress then u else u.bridgeMsg f.ingress) := .ite _ (.refl u) ((Reports.refl u).bridgeMsg _)
  exact ⟨became_congr (became_setFr hf rfl) rfl told.frames, congrArg Buf.reqs told.buf, (((Within.refl _ _ s).setFr _).set_buf _).report told⟩

/-- What becomes of a frame of a group in the state after the group's evaluation: `x` says that the group is in XOFF, `full` that its headroom has no room (R138, R139). -/
def State.frontAfter (s : State) (f : Frame) (g : Nat) (x full : Bool) : State :=
  if x ∧ full then (s.bump .BUF_CNT_v [f.ingress.n, 1] 1).dropFr f.ingress 9 f else s.ask f (some g) x

section
variable {s : State} {f : Frame} (hf : s.fr? f.id = some f) (hl : f.loc = .front) (hh : s.frontHeld f = false)
include hf hl hh

theorem doTmFrontEnd_of_red (hc : f.color = 3) :
    doTmFrontEnd f.id s = (s.bump .SHP_SLICE_CNT_v [f.ingress.n, f.slice] 1).dropFr f.ingress 3 f := by
  unfold doTmFrontEnd
  rw [hf]
  dsimp only
  rw [if_neg (by simp [hl, hh]), if_pos hc]

theorem doTmFrontEnd_of_unreachable (hc : f.color ≠ 3) (he : f.egress ≠ f.ingress) (hb : s.bridgeUp = false) :
    doTmFrontEnd f.id s = (s.bump .BUF_CNT_v [f.ingress.n, 0] 1).dropFr f.ingress 0x0A f := by
  unfold doTmFrontEnd
  rw [hf]
  dsimp only
  rw [if_neg (by simp [hl, hh]), if_neg hc, if_pos ⟨he, by simp [hb]⟩]

/-- A frame that can reach its egress half is treated by its group, if it has one (R33, R138). -/
theorem doTmFrontEnd_of_reached (hc : f.color ≠ 3) (hr : f.egress = f.ingress ∨ s.bridgeUp = true) :
    doTmFrontEnd f.id s = match s.pgOf f with
      | none => s.ask f none false
      | some g => (s.pgEval (portHalf f.inPort) (localIdx f.inPort) g).frontAfter f g
          ((s.pgEval (portHalf f.inPort) (localIdx f.inPort) g).on .BUF_PG_CFG_lossless [(portHalf f.inPort).n, localIdx f.inPort, g]
            && (s.pgEval (portHalf f.inPort) (localIdx f.inPort) g).inXoff (portHalf f.inPort) (localIdx f.inPort) g)
          (decide ((s.pgEval (portHalf f.inPort) (localIdx f.inPort) g).rd .BUF_PG_CFG_hdrm_max [(portHalf f.inPort).n, localIdx f.inPort, g]
            < (s.pgEval (portHalf f.inPort) (localIdx f.inPort) g).rd .BUF_PG_CFG_pg_hdrm [(portHalf f.inPort).n, localIdx f.inPort, g] + ceilDiv f.len 256)) := by
  unfold doTmFrontEnd
  rw [hf]
  dsimp only
  rw [if_neg (by simp [hl, hh]), if_neg hc, if_neg (by rcases hr with hr | hr <;> simp [hr])]
  cases s.pgOf f <;> rfl

/-- A frame without a lossless group asks admission at once (R33, R138). -/
theorem doTmFrontEnd_of_lossy (hc : f.color ≠ 3) (hr : f.egress = f.ingress ∨ s.bridgeUp = true)
    (hp : ∀ g, s.pgOf f = some g → s.on .BUF_PG_CFG_lossless [(portHalf f.inPort).n, localIdx f.inPort, g] = false) :
    doTmFrontEnd f.id s = s.ask f (s.pgOf f) false := by
  rw [doTmFrontEnd_of_reached hf hl hh hc hr]
  cases hg : s.pgOf f with
  | none => rfl
  | some g =>
    dsimp only
    rw [pgEval_of_lossy (hp g hg), hp g hg]
    exact if_neg (by simp)

/-- A frame of a lossless group goes on by the state that the group's evaluation gives (R138, R139, R140). -/
theorem doTmFrontEnd_of_lossless (hc : f.color ≠ 3) (hr : f.egress = f.ingress ∨ s.bridgeUp = true) {g j : Nat} {o : Half} (hg : s.pgOf f = some g)
    (ho : o = portHalf f.inPort) (hj : j = localIdx f.inPort) (hp : s.on .BUF_PG_CFG_lossless [o.n, j, g] = true)
    (he : Evaluated s (s.pgEval o j g) o j g (s.xoffNext o j g)) :
    doTmFrontEnd f.id s = (s.pgEval o j g).frontAfter f g (s.xoffNext o j g)
      (decide (s.rd .BUF_PG_CFG_hdrm_max [o.n, j, g] < s.rd .BUF_PG_CFG_pg_hdrm [o.n, j, g] + ceilDiv f.len 256)) := by
  rw [doTmFrontEnd_of_reached hf hl hh hc hr, hg]
  dsimp only
  rw [← ho, ← hj, he.xoff, he.within.rd .BUF_PG_CFG_hdrm_max _, he.within.rd .BUF_PG_CFG_pg_hdrm _]
  have on : (s.pgEval o j g).on .BUF_PG_CFG_lossless [o.n, j, g] = true := by
    rwa [State.on, he.within.rd .BUF_PG_CFG_lossless _]
  rw [on, Bool.true_and]

end

theorem pgOf_lt {s : State} {f : Frame} {g : Nat} (h : s.pgOf f = some g) : g < 8 := by
  unfold State.pgOf at h
  split at h
  · cases h
  · cases h
    exact Nat.mod_lt _ (by decide)

section
variable {s u : State} {f : Frame} {o : Half} {j g : Nat} {x : Bool} (he : Evaluated s u o j g x)
include he

/-- A frame that finds the headroom of a group in XOFF full is dropped and counted (R139). -/
theorem drop_of_full : dropped s ((u.bump .BUF_CNT_v [f.ingress.n, 1] 1).dropFr f.ingress 9 f) f.id f.ingress 9
    ∧ ((u.bump .BUF_CNT_v [f.ingress.n, 1] 1).dropFr f.ingress 9 f).rd .BUF_CNT_v [f.ingress.n, 1] = (s.rd .BUF_CNT_v [f.ingress.n, 1] + 1) % 2 ^ 64
    ∧ Within dropParts (.BUF_CNT_v :: dropFlds) u ((u.bump .BUF_CNT_v [f.ingress.n, 1] 1).dropFr f.ingress 9 f)
    ∧ Within (.buf :: .lanes :: dropParts) (.BUF_CNT_v :: .BUF_PORT_STAT_xoff :: dropFlds) s ((u.bump .BUF_CNT_v [f.ingress.n, 1] 1).dropFr f.ingress 9 f) := by
  obtain ⟨drop, count, kept⟩ := dropFr_after_bump u f.ingress 9 f (c := .BUF_CNT_v) [f.ingress.n, 1] (by decide) rfl
  rw [he.cnt _ _ (by decide)] at count
  exact ⟨dropped_congr drop (fun k _ => fr?_congr he.within.frames k) he.within.nextId (he.within.rd _ _), count, kept, he.within.mono.andThen kept⟩

/-- The frame asks admission after its group's evaluation (R33, R138). -/
theorem ask_of_evaluated (hf : s.fr? f.id = some f) : became s (u.ask f (some g) x) f.id (f.asking (some g) x)
    ∧ (u.ask f (some g) x).buf.reqs = s.buf.reqs ++ [(f.egress, f.id)] ∧ Within [.frames, .buf] [] u (u.ask f (some g) x)
    ∧ Within [.frames, .buf, .lanes] [.BUF_CNT_v, .BUF_PORT_STAT_xoff] s (u.ask f (some g) x) := by
  obtain ⟨asks, asked, kept⟩ := ask_facts ((fr?_congr he.within.frames f.id).trans hf) (some g) x
  rw [he.reqs] at asked
  exact ⟨became_congr asks he.within.frames rfl, asked, kept, he.within.mono.andThen kept⟩

/-- What follows the evaluation leaves the group's state and the PFC frames as they are. -/
theorem Evaluated.after {ps : List Part} {fs : List Fld} {t : State} (ht : Within ps fs u t) (hp : Part.lanes ∉ ps) (hx : Fld.BUF_PORT_STAT_xoff ∉ fs) :
    t.inXoff o j g = x ∧ t.lanes.pfcSent = s.lanes.pfcSent ++ (if x = s.inXoff o j g then [] else [s.pfcOf o j g x]) := by
  refine ⟨?_, (congrArg Lanes.pfcSent (ht.parts .lanes hp)).trans he.sent⟩
  rw [← he.xoff]
  exact congrArg (bit · g) (ht.rd .BUF_PORT_STAT_xoff _ hx)

end

/-- Settles O20: a red frame, an unreachable one, one without a lossless group, and one of a lossless group after the group's evaluation. -/
theorem frontEnd : Obligations.FrontEnd := by
  unfold Obligations.FrontEnd
  intro s id f hf hl hh
  obtain rfl := id_of_fr? hf
  have run : exec (.tmFrontEnd f.id) s = .next (settle (doTmFrontEnd f.id s)) := rfl
  refine ⟨fun hc => ?red, fun hc he hb => ?unreachable, fun hc hr hp => ?lossy, fun g j n l o x hc hr hg ho hj hp hn hlim hx => ?lossless⟩
  case red =>
    rw [doTmFrontEnd_of_red hf hl hh hc] at run
    obtain ⟨drop, count, kept⟩ := dropFr_after_bump s f.ingress 3 f (c := .SHP_SLICE_CNT_v) [f.ingress.n, f.slice] (by decide) rfl
    exact ⟨_, run, drop, count, kept.settle.parts, kept.settle.fields⟩
  case unreachable =>
    rw [doTmFrontEnd_of_unreachable hf hl hh hc he hb] at run
    obtain ⟨drop, count, kept⟩ := dropFr_after_bump s f.ingress 0x0A f (c := .BUF_CNT_v) [f.ingress.n, 0] (by decide) rfl
    exact ⟨_, run, drop, count, kept.settle.parts, kept.settle.fields⟩
  case lossy =>
    rw [doTmFrontEnd_of_lossy hf hl hh hc hr hp] at run
    obtain ⟨asks, reqs, kept⟩ := ask_facts hf (s.pgOf f) false
    exact ⟨_, run, asks, reqs, kept.settle.parts, kept.settle.fields⟩
  case lossless =>
    subst hn hlim
    have evaluated := pgEval_evaluated hp (pgOf_lt hg)
    rw [doTmFrontEnd_of_lossless hf hl hh hc hr hg ho hj hp evaluated, State.frontAfter] at run
    have next : s.xoffNext o j g = x := hx.symm
    rw [next] at evaluated run
    generalize s.pgEval o j g = u at evaluated run
    by_cases full : x = true ∧ s.rd .BUF_PG_CFG_hdrm_max [o.n, j, g] < s.rd .BUF_PG_CFG_pg_hdrm [o.n, j, g] + ceilDiv f.len 256
    · rw [if_pos (by simpa using full)] at run
      obtain ⟨drop, count, kept, all⟩ := drop_of_full (f := f) evaluated
      obtain ⟨xoff, sent⟩ := evaluated.after kept (by decide) (by decide)
      exact ⟨_, run, xoff, sent, (if_pos full).mpr ⟨drop, count, all.settle.parts, all.settle.fields⟩⟩
    · rw [if_neg (by simpa using full)] at run
      obtain ⟨asks, asked, kept, all⟩ := ask_of_evaluated evaluated hf
      obtain ⟨xoff, sent⟩ := evaluated.after kept (by decide) (by decide)
      exact ⟨_, run, xoff, sent, (if_neg full).mpr ⟨became_settle asks, asked, all.settle.parts, all.settle.fields⟩⟩

end Sys2Proof.Machine

namespace Sys2Proof.Machine

/-! ## The tests of admission -/

/-- A guard that would refuse has not. -/
theorem passed_of_ite_inl {α β : Type} {c : Prop} [Decidable c] {a : α} {x : α ⊕ β} {b : β} (h : (if c then .inl a else x) = .inr b) : ¬ c ∧ x = .inr b := by
  split at h
  · cases h
  · exact ⟨‹_›, h⟩

/-- The cells of a copy are covered: by free headroom, or by reserved and shared cells that are free (R135). -/
structure Covered (s : State) (h : Half) (q n : Nat) (hdrmReq wred : Bool) (c : Charge) : Prop where
  all : c.r + c.shr = n
  headroom : c.hdrm = true → c.r = 0 ∧ n ≤ s.poolFree h 5 ∧ (hdrmReq = true ∨ s.on .BUF_Q_CFG_lossless [h.n, q] = true)
  pools : c.hdrm = false → hdrmReq = false ∧ c.r ≤ s.rd .BUF_Q_CFG_q_min [h.n, q] - s.rd .BUF_Q_STAT_q_rsv [h.n, q] ∧ c.r ≤ s.poolFree h 0
    ∧ c.shr ≤ s.poolFree h (poolIx (s.rd .BUF_Q_CFG_pool [h.n, q])) ∧ (s.on .BUF_Q_CFG_lossless [h.n, q] = false → wred = false)

section
variable {s : State} {h : Half} {q n : Nat} {hdrmReq wred : Bool} {c : Charge}

/-- Headroom is tried where the copy asks for it, and for a lossless queue whose pool is short (R135). -/
theorem covered_of_headroom (hg : (if s.poolFree h 5 < n then .inl (6, 9) else .inr ⟨0, n, true⟩ : (Nat × Nat) ⊕ Charge) = .inr c)
    (hw : hdrmReq = true ∨ s.on .BUF_Q_CFG_lossless [h.n, q] = true) : Covered s h q n hdrmReq wred c := by
  obtain ⟨room, given⟩ := passed_of_ite_inl hg
  cases given
  exact ⟨Nat.zero_add n, fun _ => ⟨rfl, Nat.not_lt.1 room, hw⟩, (fun no => nomatch no)⟩

/-- The reserved cells that a copy takes (R135). -/
def State.reservable (s : State) (h : Half) (q n : Nat) : Nat := min n (min (s.rd .BUF_Q_CFG_q_min [h.n, q] - s.rd .BUF_Q_STAT_q_rsv [h.n, q]) (s.poolFree h 0))

/-- The rest of a copy's cells are shared ones of its queue's pool (R135). -/
theorem covered_of_pools (hr : hdrmReq = false) (room : ¬ s.poolFree h (poolIx (s.rd .BUF_Q_CFG_pool [h.n, q])) < n - s.reservable h q n)
    (hw : s.on .BUF_Q_CFG_lossless [h.n, q] = false → wred = false) :
    Covered s h q n hdrmReq wred ⟨s.reservable h q n, n - s.reservable h q n, false⟩ := by
  have most : s.reservable h q n ≤ n := min_le_left ..
  have free : s.reservable h q n ≤ min (s.rd .BUF_Q_CFG_q_min [h.n, q] - s.rd .BUF_Q_STAT_q_rsv [h.n, q]) (s.poolFree h 0) := min_le_right ..
  obtain ⟨reserved, pool⟩ := le_min_iff.1 free
  exact ⟨Nat.add_sub_cancel' most, (fun no => nomatch no), fun _ => ⟨hr, reserved, pool, Nat.not_lt.1 room, hw⟩⟩

/-- What a grant of R135 says of the copy: each test was passed, in their order. -/
theorem admitTest_grants (hg : s.admitTest h q n hdrmReq wred = .inr c) :
    s.rd .BUF_PORT_STAT_state [h.n, q / 16] < 2 ∧ s.rd .BUF_FREE_desc_free [h.n] ≠ 0
      ∧ s.rd .BUF_Q_STAT_q_rsv [h.n, q] + s.rd .BUF_Q_STAT_q_shr [h.n, q] + n ≤ s.rd .BUF_Q_CFG_q_max [h.n, q] ∧ Covered s h q n hdrmReq wred c := by
  unfold State.admitTest at hg
  obtain ⟨serving, hg⟩ := passed_of_ite_inl hg
  obtain ⟨desc, hg⟩ := passed_of_ite_inl hg
  obtain ⟨limit, hg⟩ := passed_of_ite_inl hg
  refine ⟨Nat.not_le.1 serving, desc, Nat.not_lt.1 limit, ?_⟩
  cases hdrmReq with
  | true => exact covered_of_headroom hg (.inl rfl)
  | false =>
    rw [if_neg Bool.false_ne_true] at hg
    by_cases lossless : s.on .BUF_Q_CFG_lossless [h.n, q] = true
    · rw [if_pos lossless] at hg
      split at hg
      · exact covered_of_headroom hg (.inr lossless)
      · cases hg
        exact covered_of_pools rfl ‹_› (fun no => absurd (lossless.symm.trans no) (by decide))
    · rw [if_neg lossless] at hg
      obtain ⟨-, hg⟩ := passed_of_ite_inl hg
      obtain ⟨room, hg⟩ := passed_of_ite_inl hg
      obtain ⟨kept, hg⟩ := passed_of_ite_inl hg
      cases hg
      exact covered_of_pools rfl room (fun _ => by simpa using kept)

end

/-- Settles O22: a grant has passed every test of R135, and its cells are covered by headroom or by its pools. -/
theorem admissionNeverOverdraws : Obligations.AdmissionNeverOverdraws := by
  unfold Obligations.AdmissionNeverOverdraws
  intro s h q n hdrmReq wred c granted
  obtain ⟨serving, desc, limit, covered⟩ := admitTest_grants granted
  exact ⟨serving, desc, limit, covered.all, covered.headroom, covered.pools⟩

end Sys2Proof.Machine

namespace Sys2Proof.Machine

/-! ## Two flushes that reach further than they should -/

/-- A copy of one cell in a queue, of group 0 of port 0. -/
def cellCopy (i out q : Nat) : Frame := { Frame.blank with id := i, loc := .queued, out := out, queue := q, cells := 1, pool := 1, pg := some 0 }

/-- A descriptor's header with no fence, no queue choice and no schedule. -/
def plainHdr : Hdr := ⟨0, 0, 0, 0, false, false, false, false, 0, 0, 0, 0, none⟩

/-- Port 0 waits with a copy of its own lossless group 0 in its queue 0 and with a second one at port 1; the group's static limit is one cell. -/
def hairpinState : State :=
  { State.reset.sts [(.SYS_MODE_mode, [0], 3), (.RAS_OWN_STAT_state, [0], 0), (.RAS_OWN_STAT_state, [1], 1), (.BUF_PG_CFG_lossless, [0, 0, 0], 1), (.BUF_PG_CFG_alpha_in, [0, 0, 0], 15),
      (.BUF_PG_CFG_xoff_static, [0, 0, 0], 1), (.BUF_PG_CFG_pg_use, [0, 0, 0], 2), (.BUF_PORT_STAT_xoff, [0, 0], 1)] with
    frames := [cellCopy 0 0 0, cellCopy 1 1 16], nextId := 2
    buf := { State.reset.buf with queues := [([0, 0], [0]), ([0, 16], [1])], pgTimes := [([0, 0, 0], (0, 0))] }
    lanes := { State.reset.lanes with ports := [([0], oneLane), ([1], oneLane)] } }

/-- PORT_FLUSH of port 0 is served, in service and due in that state. -/
theorem hairpinState_ready : served hairpinState plainHdr ⟨0x31, .config, true, false, 0⟩ true (cleanHdr plainHdr false false false)
    ∧ hairpinState.configured 0 = true ∧ hairpinState.rd .BUF_PORT_STAT_state [(portHalf 0).n, localIdx 0] = 0
    ∧ hairpinState.descDue (bareCmd (.portFlush plainHdr 0)) plainHdr = true := by
  decide +kernel

/-- The flush clears XOFF (R149); the copy that it frees then evaluates the group's state table, which still finds the limit reached and sets XOFF again (R128, R140). -/
theorem xoff_portFlush_hairpinState : (doPortFlush plainHdr 0 (hairpinState.descRun plainHdr)).rd .BUF_PORT_STAT_xoff [(portHalf 0).n, localIdx 0] = 1 := by
  decide +kernel

/-- Refutes O25: the flush ends with XOFF set, because a freed copy of the flushed port's own lossless group sets it again. -/
theorem not_partitionsAndFlush : ¬ Obligations.PartitionsAndFlush := by
  unfold Obligations.PartitionsAndFlush
  intro h
  obtain ⟨legal, here, serving, started⟩ := hairpinState_ready
  obtain ⟨t, run, -, -, -, xon, -⟩ := (h.2 hairpinState plainHdr 0 legal).1 here serving (fun d hd => by cases hd; exact started)
  have ran := (doneDesc_of_due (doPortFlush plainHdr 0) started).symm.trans run
  have same : settle (doPortFlush plainHdr 0 (hairpinState.descRun plainHdr)) = t := Host.Outcome.next.inj ran
  rw [← same, rd_settle, xoff_portFlush_hairpinState] at xon
  cases xon

/-- Port 0 is flushing, and its flush still lists queue 16, which is the first queue of port 1 and holds a copy. -/
def strayFlush : State :=
  { State.reset.st .BUF_PORT_STAT_state [0, 0] 2 with
    frames := [cellCopy 0 1 16], nextId := 1
    buf := { State.reset.buf with queues := [([0, 16], [0])], flush := [([0], ⟨none, 0, [16]⟩)] } }

/-- The fence of that flush retires. -/
theorem strayFlush_ready : strayFlush.rd .BUF_PORT_STAT_state [(portHalf 0).n, localIdx 0] = 2 ∧ strayFlush.fenceClear 0 = true := by
  decide +kernel

/-- The FLUSH routine empties the listed queue, whichever port it belongs to. -/
theorem frames_flushFenceRetire_strayFlush : (doFlushFenceRetire 0 strayFlush).frames = [] := by
  decide +kernel

/-- Refutes O47: a retired fence does not leave the frames alone when the flush lists a queue of another port; no premise of the clause speaks of that list. -/
theorem not_laneEvents : ¬ Obligations.LaneEvents := by
  unfold Obligations.LaneEvents
  intro h
  obtain ⟨flushing, clear⟩ := strayFlush_ready
  obtain ⟨-, -, -, -, -, ports⟩ := h
  obtain ⟨t, run, -, -, -, -, kept, -⟩ := (ports strayFlush 0 (by decide)).2 flushing clear (by simp [strayFlush, State.reset]) rfl
  have same : settle (doFlushFenceRetire 0 strayFlush) = t := Host.Outcome.next.inj run
  have frames : t.frames = strayFlush.frames := kept .frames (by decide)
  rw [← same, settle_frames, frames_flushFenceRetire_strayFlush] at frames
  cases frames

end Sys2Proof.Machine

/-! SUPPORT. The admission decision: what its charges and draws leave alone, a refused copy, a granted one (O21). -/

namespace Sys2Proof.Machine

/-! ## Bookings: what charges and draws leave alone -/

/-- An operation of admission that books cells or draws a free value: it leaves both halves' requests and grants, every frame, and every field but those listed. -/
structure Booked (fs : List Fld) (s t : State) : Prop where
  within : Within [.buf, .fresh] fs s t
  reqs : t.buf.reqs = s.buf.reqs
  grants : t.buf.grants = s.buf.grants

namespace Booked

variable {fs gs : List Fld} {s t u : State}

theorem refl (fs : List Fld) (s : State) : Booked fs s s := ⟨.refl .., rfl, rfl⟩

theorem andThen (h : Booked fs s t) (k : Booked gs t u) (hf : ∀ f ∈ gs, f ∈ fs := by decide) : Booked fs s u :=
  ⟨h.within.andThen k.within (fun _ hp => hp) hf, k.reqs.trans h.reqs, k.grants.trans h.grants⟩

theorem ite (c : Prop) [Decidable c] (h : Booked fs s t) (k : Booked fs s u) : Booked fs s (if c then t else u) := by
  split
  · exact h
  · exact k

theorem of_within (h : Within [] fs s t) : Booked fs s t :=
  ⟨h.mono (by simp) (fun _ hf => hf), congrArg Buf.reqs (h.parts .buf (by decide)), congrArg Buf.grants (h.parts .buf (by decide))⟩

theorem st (h : Booked fs s t) {f : Fld} (ix : List Nat) (v : Nat) (hf : f ∈ fs := by decide) : Booked fs s (t.st f ix v) :=
  ⟨h.within.st ix v hf, h.reqs, h.grants⟩

theorem bump (h : Booked fs s t) {f : Fld} (ix : List Nat) (v : Nat) (hf : f ∈ fs := by decide) : Booked fs s (t.bump f ix v) := h.st ix _ hf

theorem lower (h : Booked fs s t) {f : Fld} (ix : List Nat) (v : Nat) (hf : f ∈ fs := by decide) : Booked fs s (t.lower f ix v) := h.st ix _ hf

/-- The parts of the buffer that no request or grant stands in. -/
theorem set_buf (h : Booked fs s t) (x : Buf) (hr : x.reqs = t.buf.reqs := by rfl) (hg : x.grants = t.buf.grants := by rfl) : Booked fs s { t with buf := x } :=
  ⟨h.within.set_buf x, hr.trans h.reqs, hg.trans h.grants⟩

theorem set_fresh (h : Booked fs s t) (x : Nat) : Booked fs s { t with fresh := x } := ⟨h.within.set_fresh x, h.reqs, h.grants⟩

theorem draw (s : State) : Booked [] s s.draw.2 := (refl _ s).set_fresh _

theorem rd (h : Booked fs s t) (f : Fld) (ix : List Nat) (hf : f ∉ fs := by decide) (hr : reported f ix = false := by rfl) : t.rd f ix = s.rd f ix :=
  h.within.rd f ix hf hr

theorem fr? (h : Booked fs s t) (i : Nat) : t.fr? i = s.fr? i := fr?_congr h.within.frames i

theorem poolWatch (s : State) (h : Half) (i before : Nat) : Booked [] s (s.poolWatch h i before) := by
  unfold State.poolWatch
  extract_lets f buf t
  have armed : Booked [] s t := .ite _ ((refl _ s).set_buf _) (refl ..)
  exact .ite _ armed ((armed.set_buf _).andThen (.of_within (Reports.raise (.refl _) ..).within))

theorem poolCharge (s : State) (h : Half) (i n : Nat) : Booked [.BUF_PART_use] s (s.poolCharge h i n) := ((refl _ s).bump _ _).andThen (poolWatch ..)

theorem physTake (s : State) (h : Half) (f : Frame) : Booked [.BUF_FREE_phys_free] s (s.physTake h f) :=
  .ite _ (refl ..) (.ite _ ((refl _ s).lower _ _) (((refl _ s).lower _ _).set_buf _))

theorem physFree (s : State) (h : Half) (f : Frame) : Booked [.BUF_FREE_phys_free] s (s.physFree h f) :=
  .ite _ ((refl _ s).bump _ _) (.ite _ (((refl _ s).set_buf _).bump _ _) (((refl _ s).set_buf _).bump _ _))

theorem takeCells (n : Nat) (used : List Nat) (s : State) : Booked [] s (State.takeCells n used s).2 := by
  induction n generalizing used s with
  | zero => exact refl ..
  | succ n ih => exact (draw s).andThen (ih _ _)

/-- Cells and a descriptor cost free values only (R124, R125). -/
theorem place (s : State) (h : Half) (f : Frame) : Booked [] s (s.place h f).2 := (takeCells ..).andThen (draw _)

end Booked

/-! ## The decision -/

theorem admitTest_congr {s t : State} (hr : t.regs = s.regs) (h : Half) (q n : Nat) (hdrmReq wred : Bool) :
    t.admitTest h q n hdrmReq wred = s.admitTest h q n hdrmReq wred := by
  have same : t.rd = s.rd := funext₂ (rd_congr hr)
  unfold State.admitTest State.poolFree State.on
  rw [same]

theorem markTest_not_drop (s : State) (h : Half) (q : Nat) (f : Frame) (d : Rat) (u : Nat) (off : s.on .BUF_Q_CFG_wred_en [h.n, q] = false) :
    (s.markTest h q f d u).drop = false := by
  unfold State.markTest
  extract_lets ix prof c hit th step ecn en
  have plain : s.on .BUF_Q_CFG_wred_en ix = false := off
  split
  · rfl
  · split
    · rfl
    · simp [plain]

theorem markTest_not_mark (s : State) (h : Half) (q : Nat) (f : Frame) (d : Rat) (u : Nat) (off : s.on .BUF_Q_CFG_ecn_en [h.n, q] = false) :
    (s.markTest h q f d u).mark = false := by
  unfold State.markTest
  extract_lets ix prof c hit th step ecn en
  have plain : en = false := off
  simp [plain]

/-- The half's first request is taken. -/
def State.requestTaken (s : State) (r : Half × Nat) : State := { s with buf := { s.buf with reqs := s.buf.reqs.erase r } }

/-- The queue's average of R141, brought up to date. -/
def State.averaged (s : State) (h : Half) (q : Nat) : Rat × State := s.avgStep h q (s.rd .BUF_Q_CFG_wred_prof [h.n, q])

/-- The free value of R142, drawn for a copy that every test before WRED lets through. -/
def State.chance (s : State) (h : Half) (q : Nat) (f : Frame) : Nat × State := if s.drawsU h q f.cells f.hdrmReq then s.draw else (0, s)

/-- What a half does with a request whose mark-or-drop decision has been made. -/
def State.ruled (s : State) (h : Half) (q : Nat) (f : Frame) (m : MarkTest) : State :=
  match s.admitTest h q f.cells f.hdrmReq m.drop with
  | .inl (cnt, cause) => s.refuse h q f cnt cause
  | .inr c => s.grant h q f c m.mark

theorem ruled_of_inl {s : State} {h : Half} {q : Nat} {f : Frame} {m : MarkTest} {cnt cause : Nat} (ht : s.admitTest h q f.cells f.hdrmReq m.drop = .inl (cnt, cause)) :
    s.ruled h q f m = s.refuse h q f cnt cause := by
  unfold State.ruled
  rw [ht]

theorem ruled_of_inr {s : State} {h : Half} {q : Nat} {f : Frame} {m : MarkTest} {c : Charge} (ht : s.admitTest h q f.cells f.hdrmReq m.drop = .inr c) :
    s.ruled h q f m = s.grant h q f c m.mark := by
  unfold State.ruled
  rw [ht]

/-- The state in which a half decides its first request: the request taken, the average updated, the free value drawn. -/
def State.weighed (s : State) (h : Half) (r : Half × Nat) (q : Nat) (f : Frame) : State := (((s.requestTaken r).averaged h q).2.chance h q f).2

/-- The mark-or-drop decision of a half's first request. -/
def State.verdict (s : State) (h : Half) (r : Half × Nat) (q : Nat) (f : Frame) : MarkTest :=
  (s.weighed h r q f).markTest h q f ((s.requestTaken r).averaged h q).1 (((s.requestTaken r).averaged h q).2.chance h q f).1

theorem doAdmissionDecision_eq {s : State} {h : Half} {r : Half × Nat} {f : Frame} (hr : s.buf.reqs.find? (fun r => r.1 = h) = some r) (hf : s.fr? r.2 = some f)
    (hl : f.loc = .request) : doAdmissionDecision h s = (s.weighed h r (s.queueOf h f) f).ruled h (s.queueOf h f) f (s.verdict h r (s.queueOf h f) f) := by
  have stays : (s.requestTaken r).fr? r.2 = some f := hf
  have same : (s.requestTaken r).queueOf h f = s.queueOf h f := rfl
  unfold doAdmissionDecision
  simp only [hr]
  change (match (s.requestTaken r).fr? r.2 with | none => _ | some f => _) = _
  simp only [stays, hl]
  rfl

theorem weighed_regs (s : State) (h : Half) (r : Half × Nat) (q : Nat) (f : Frame) : (s.weighed h r q f).regs = s.regs := by
  unfold State.weighed State.chance
  split <;> rfl

theorem Booked.weighed (s : State) (h : Half) (r : Half × Nat) (q : Nat) (f : Frame) : Booked [] (s.requestTaken r) (s.weighed h r q f) := by
  have avg : Booked [] (s.requestTaken r) ((s.requestTaken r).averaged h q).2 := (Booked.refl _ _).set_buf _
  unfold State.weighed State.chance
  split
  · exact avg.andThen (.draw _)
  · exact avg
theorem verdict_off (s : State) (h : Half) (r : Half × Nat) (q : Nat) (f : Frame) :
    (s.on .BUF_Q_CFG_wred_en [h.n, q] = false → (s.verdict h r q f).drop = false)
      ∧ (s.on .BUF_Q_CFG_ecn_en [h.n, q] = false → (s.verdict h r q f).mark = false) := by
  have same (g : Fld) : (s.weighed h r q f).on g [h.n, q] = s.on g [h.n, q] := by
    unfold State.on
    rw [rd_congr (weighed_regs ..)]
  exact ⟨fun off => markTest_not_drop _ h q f _ _ ((same _).trans off), fun off => markTest_not_mark _ h q f _ _ ((same _).trans off)⟩

/-! ## A refused copy -/

/-- The counter of a refusal: the queue's own, or DESC_DROP of the half (R135). -/
def State.refusalCounted (s : State) (h : Half) (q cnt : Nat) : State := if cnt = 8 then s.bump .BUF_CNT_v [h.n, 5] 1 else s.bump .BUF_Q_CNT_v [h.n, q, cnt] 1

/-- A refused copy that held cells gives them back. -/
def State.cellsBack (s : State) (h : Half) (f : Frame) : State := if f.chain.isEmpty then s else s.physFree h f

theorem refuse_eq (s : State) (h : Half) (q : Nat) (f : Frame) (cnt cause : Nat) :
    s.refuse h q f cnt cause = ((s.refusalCounted h q cnt).cellsBack h f).dropFr h cause { f with queue := q } := rfl

theorem Booked.cellsBack (s : State) (h : Half) (f : Frame) : Booked [.BUF_FREE_phys_free] s (s.cellsBack h f) := .ite _ (refl ..) (.physFree ..)

theorem Booked.refused (s : State) (h : Half) (q : Nat) (f : Frame) (cnt : Nat) :
    Booked [.BUF_Q_CNT_v, .BUF_CNT_v, .BUF_FREE_phys_free] s ((s.refusalCounted h q cnt).cellsBack h f) := by
  have counted : Booked [.BUF_Q_CNT_v, .BUF_CNT_v, .BUF_FREE_phys_free] s (s.refusalCounted h q cnt) := .ite _ ((refl _ s).bump _ _) ((refl _ s).bump _ _)
  exact counted.andThen (.cellsBack ..)

/-- A refusal drops the copy and counts it, and leaves the requests alone (R135). -/
theorem refuse_drops (s : State) (h : Half) (q : Nat) (f : Frame) (cnt cause : Nat) :
    dropped s (s.refuse h q f cnt cause) f.id h cause
      ∧ (cnt ≠ 8 → (s.refuse h q f cnt cause).rd .BUF_Q_CNT_v [h.n, q, cnt] = (s.rd .BUF_Q_CNT_v [h.n, q, cnt] + 1) % 2 ^ 64)
      ∧ (s.refuse h q f cnt cause).buf.reqs = s.buf.reqs
      ∧ Within (.buf :: dropParts) (.BUF_Q_CNT_v :: .BUF_CNT_v :: .BUF_FREE_phys_free :: dropFlds) s (s.refuse h q f cnt cause) := by
  have booked := Booked.refused s h q f cnt
  have back := Booked.cellsBack (s.refusalCounted h q cnt) h f
  rw [refuse_eq]
  have drop := Within.dropFr ((s.refusalCounted h q cnt).cellsBack h f) h cause { f with queue := q }
  refine ⟨dropped_congr (dropped_dropFr _ h cause { f with queue := q }) (fun j _ => booked.fr? j) booked.within.nextId (booked.rd _ _), fun hc => ?_, ?_,
    booked.within.mono.andThen drop⟩
  · have counted : s.refusalCounted h q cnt = s.bump .BUF_Q_CNT_v [h.n, q, cnt] 1 := if_neg hc
    rw [drop.rd _ _, back.rd _ _, counted, rd_bump, if_pos ⟨rfl, rfl⟩]
    rfl
  · exact (congrArg Buf.reqs (drop.parts .buf (by decide))).trans booked.reqs

/-! ## A granted copy -/

/-- The copy as a grant records it, before it is placed (R129). -/
def State.stamped (s : State) (h : Half) (q : Nat) (f : Frame) (c : Charge) (mark : Bool) : Frame :=
  { f with
    queue := q, rsv := c.r, pool := poolIx (s.rd .BUF_Q_CFG_pool [h.n, q]), hdrm := c.hdrm, ce := mark, epoch := s.epochCnt h, ip := s.ipOf f.ingress f
    depth := s.rd .BUF_Q_STAT_q_rsv [h.n, q] + s.rd .BUF_Q_STAT_q_shr [h.n, q], poolFree := s.poolFree h (poolIx (s.rd .BUF_Q_CFG_pool [h.n, q])) }

/-- The cells and the descriptor of a granted copy. -/
def State.stored (s : State) (h : Half) (f : Frame) : Frame × State := (s.physTake h f).place h f

/-- The pools are charged: headroom, or the reserved and the shared cells (R135). -/
def State.poolsCharged (s : State) (h : Half) (p : Nat) (c : Charge) : State :=
  let s := if c.hdrm then s.poolCharge h 5 c.shr else (if 0 < c.r then s.poolCharge h 0 c.r else s)
  if c.hdrm ∨ c.shr = 0 then s else s.poolCharge h p c.shr

/-- The queue's cells, its peak and the half's descriptors are charged (R135). -/
def State.queueCharged (s : State) (h : Half) (q : Nat) (c : Charge) : State :=
  let s := (s.bump .BUF_Q_STAT_q_rsv [h.n, q] c.r).bump .BUF_Q_STAT_q_shr [h.n, q] c.shr
  let s := s.st .BUF_Q_STAT_peak [h.n, q] (max (s.rd .BUF_Q_STAT_peak [h.n, q]) (s.rd .BUF_Q_STAT_q_rsv [h.n, q] + s.rd .BUF_Q_STAT_q_shr [h.n, q]))
  s.lower .BUF_FREE_desc_free [h.n] 1

/-- The queue counts the admitted copy, and its mark (R142). -/
def State.grantCounted (s : State) (h : Half) (q : Nat) (mark : Bool) : State :=
  let s := s.bump .BUF_Q_CNT_v [h.n, q, 0] 1
  if mark then s.bump .BUF_Q_CNT_v [h.n, q, 7] 1 else s

/-- The copy's priority group is charged, where this half does it (R139). -/
def State.groupCharged (s : State) (h : Half) (f : Frame) : State := if f.ingress = h ∨ portHalf f.inPort ≠ f.ingress then s.pgTake f else s

/-- A copy's grant sets out for its ingress half (R129). -/
def State.grantSent (s : State) (f : Frame) : State := { s.setFr { f with loc := .granted } with buf := { s.buf with grants := s.buf.grants ++ [(f.ingress, f.id)] } }

/-- The granted copy is written at once, or its grant sets out for its ingress half (R129, R130). -/
def State.granted (s : State) (h : Half) (f : Frame) : State :=
  if f.ingress = h then (s.setFr { f with loc := .written }).cellsWritten f
  else (s.grantSent f).bridgeMsg h

/-- The placed copy, and the state in which all charges of its grant are made. -/
def State.charged (s : State) (h : Half) (q : Nat) (f : Frame) (c : Charge) (mark : Bool) : State :=
  let x := s.stored h (s.stamped h q f c mark)
  (((x.2.poolsCharged h (poolIx (s.rd .BUF_Q_CFG_pool [h.n, q])) c).queueCharged h q c).grantCounted h q mark).groupCharged h x.1

theorem grant_eq (s : State) (h : Half) (q : Nat) (f : Frame) (c : Charge) (mark : Bool) :
    s.grant h q f c mark = (s.charged h q f c mark).granted h (s.stored h (s.stamped h q f c mark)).1 := rfl

namespace Booked

/-- The fields that the charges of a grant change (R135, R139). -/
def chargeFlds : List Fld :=
  [.BUF_PART_use, .BUF_FREE_phys_free, .BUF_Q_STAT_q_rsv, .BUF_Q_STAT_q_shr, .BUF_Q_STAT_peak, .BUF_FREE_desc_free, .BUF_Q_CNT_v] ++ pgFlds

theorem stored (s : State) (h : Half) (f : Frame) : Booked [.BUF_FREE_phys_free] s (s.stored h f).2 := (physTake ..).andThen (place ..)

theorem poolsCharged (s : State) (h : Half) (p : Nat) (c : Charge) : Booked [.BUF_PART_use] s (s.poolsCharged h p c) := by
  unfold State.poolsCharged
  extract_lets t
  have first : Booked [.BUF_PART_use] s t := .ite _ (.poolCharge ..) (.ite _ (.poolCharge ..) (refl ..))
  exact .ite _ first (first.andThen (.poolCharge ..))

theorem queueCharged (s : State) (h : Half) (q : Nat) (c : Charge) :
    Booked [.BUF_Q_STAT_q_rsv, .BUF_Q_STAT_q_shr, .BUF_Q_STAT_peak, .BUF_FREE_desc_free] s (s.queueCharged h q c) :=
  ((((refl _ s).bump _ _).bump _ _).st _ _).lower _ _

theorem grantCounted (s : State) (h : Half) (q : Nat) (mark : Bool) : Booked [.BUF_Q_CNT_v] s (s.grantCounted h q mark) :=
  .ite _ (((refl _ s).bump _ _).bump _ _) ((refl _ s).bump _ _)

theorem groupCharged (s : State) (h : Half) (f : Frame) : Booked pgFlds s (s.groupCharged h f) := .ite _ (of_within (.pgTake ..)) (refl ..)

theorem charged (s : State) (h : Half) (q : Nat) (f : Frame) (c : Charge) (mark : Bool) : Booked chargeFlds s (s.charged h q f c mark) :=
  (((((refl _ s).andThen (stored ..)).andThen (poolsCharged ..)).andThen (queueCharged ..)).andThen (grantCounted ..)).andThen (groupCharged ..)

end Booked

theorem rd_queueCharged (s : State) (h : Half) (q : Nat) (c : Charge) :
    (s.queueCharged h q c).rd .BUF_Q_STAT_q_rsv [h.n, q] = (s.rd .BUF_Q_STAT_q_rsv [h.n, q] + c.r) % 2 ^ 16
      ∧ (s.queueCharged h q c).rd .BUF_Q_STAT_q_shr [h.n, q] = (s.rd .BUF_Q_STAT_q_shr [h.n, q] + c.shr) % 2 ^ 20
      ∧ (s.queueCharged h q c).rd .BUF_FREE_desc_free [h.n] = (s.rd .BUF_FREE_desc_free [h.n] - 1) % 2 ^ 20 := by
  unfold State.queueCharged
  extract_lets s1 s2
  refine ⟨?_, ?_, ?_⟩ <;> simp [s2, s1, rd_lower, rd_bump, rd_st] <;> rfl

/-- The charges of a grant on the queue and the half's descriptors (R135). -/
theorem rd_charged (s : State) (h : Half) (q : Nat) (f : Frame) (c : Charge) (mark : Bool) :
    (s.charged h q f c mark).rd .BUF_Q_STAT_q_rsv [h.n, q] = (s.rd .BUF_Q_STAT_q_rsv [h.n, q] + c.r) % 2 ^ 16
      ∧ (s.charged h q f c mark).rd .BUF_Q_STAT_q_shr [h.n, q] = (s.rd .BUF_Q_STAT_q_shr [h.n, q] + c.shr) % 2 ^ 20
      ∧ (s.charged h q f c mark).rd .BUF_FREE_desc_free [h.n] = (s.rd .BUF_FREE_desc_free [h.n] - 1) % 2 ^ 20 := by
  unfold State.charged
  extract_lets x
  have before : Booked [.BUF_FREE_phys_free, .BUF_PART_use] s (x.2.poolsCharged h (poolIx (s.rd .BUF_Q_CFG_pool [h.n, q])) c) :=
    ((Booked.refl _ s).andThen (.stored ..)).andThen (.poolsCharged ..)
  generalize x.2.poolsCharged h (poolIx (s.rd .BUF_Q_CFG_pool [h.n, q])) c = u at before ⊢
  have after : Booked (.BUF_Q_CNT_v :: pgFlds) (u.queueCharged h q c) (((u.queueCharged h q c).grantCounted h q mark).groupCharged h x.1) :=
    ((Booked.refl _ _).andThen (.grantCounted ..)).andThen (.groupCharged ..)
  obtain ⟨rsv, shr, desc⟩ := rd_queueCharged u h q c
  rw [before.rd _ _] at rsv shr desc
  exact ⟨(after.rd _ _).trans rsv, (after.rd _ _).trans shr, (after.rd _ _).trans desc⟩

/-- What the placed copy carries of the frame and of its grant (R129). -/
theorem stored_stamped (s : State) (h : Half) (q : Nat) (f : Frame) (c : Charge) (mark : Bool) :
    ((s.stored h (s.stamped h q f c mark)).1.id = f.id ∧ (s.stored h (s.stamped h q f c mark)).1.ingress = f.ingress)
      ∧ (s.stored h (s.stamped h q f c mark)).1.queue = q ∧ (s.stored h (s.stamped h q f c mark)).1.rsv = c.r
      ∧ (s.stored h (s.stamped h q f c mark)).1.hdrm = c.hdrm ∧ (s.stored h (s.stamped h q f c mark)).1.ce = mark
      ∧ (s.stored h (s.stamped h q f c mark)).1.bytes = f.bytes := ⟨⟨rfl, rfl⟩, rfl, rfl, rfl, rfl, rfl⟩

/-- A granted copy is written or set on its way; every other frame, and the requests, stay (R129, R130). -/
theorem granted_became {s : State} {h : Half} {f g : Frame} (hg : s.fr? g.id = some f) :
    became s (s.granted h g) g.id { g with loc := if g.ingress = h then .written else .granted } ∧ (s.granted h g).buf.reqs = s.buf.reqs
      ∧ (g.ingress ≠ h → (s.granted h g).buf.grants = s.buf.grants ++ [(g.ingress, g.id)]) ∧ Within [.frames, .buf, .ras] [] s (s.granted h g) := by
  unfold State.granted
  split
  next here =>
    have wrote := Within.cellsWritten (s.setFr { g with loc := .written }) g
    exact ⟨became_congr (became_setFr hg rfl) rfl wrote.frames, congrArg Buf.reqs (wrote.parts .buf (by decide)), fun away => absurd here away,
      ((Within.refl _ _ s).setFr _).andThen wrote⟩
  next away =>
    have told := (Reports.refl (s.grantSent g)).bridgeMsg h
    have sent : Within [.frames, .buf, .ras] [] s (s.grantSent g) := ((Within.refl _ _ s).setFr _).set_buf _
    exact ⟨became_congr (became_setFr hg rfl) rfl told.frames, (congrArg Buf.reqs told.buf).trans rfl, fun _ => (congrArg Buf.grants told.buf).trans rfl, sent.report told⟩

theorem grant_charges {s : State} {h : Half} {f : Frame} (q : Nat) (c : Charge) (mark : Bool) (hf : s.fr? f.id = some f) :
    (∃ g, became s (s.grant h q f c mark) f.id g ∧ g.loc = (if f.ingress = h then .written else .granted) ∧ g.queue = q ∧ g.rsv = c.r ∧ g.hdrm = c.hdrm ∧ g.ce = mark
        ∧ g.bytes = f.bytes)
      ∧ (s.grant h q f c mark).buf.reqs = s.buf.reqs
      ∧ (f.ingress ≠ h → (s.grant h q f c mark).buf.grants = s.buf.grants ++ [(f.ingress, f.id)])
      ∧ (s.grant h q f c mark).rd .BUF_Q_STAT_q_rsv [h.n, q] = (s.rd .BUF_Q_STAT_q_rsv [h.n, q] + c.r) % 2 ^ 16
      ∧ (s.grant h q f c mark).rd .BUF_Q_STAT_q_shr [h.n, q] = (s.rd .BUF_Q_STAT_q_shr [h.n, q] + c.shr) % 2 ^ 20
      ∧ (s.grant h q f c mark).rd .BUF_FREE_desc_free [h.n] = (s.rd .BUF_FREE_desc_free [h.n] - 1) % 2 ^ 20
      ∧ Within [.frames, .buf, .fresh, .ras] Booked.chargeFlds s (s.grant h q f c mark) := by
  have booked := Booked.charged s h q f c mark
  obtain ⟨rsv, shr, desc⟩ := rd_charged s h q f c mark
  have carried := stored_stamped s h q f c mark
  rw [grant_eq]
  generalize s.charged h q f c mark = u at booked rsv shr desc ⊢
  generalize (s.stored h (s.stamped h q f c mark)).1 = g at carried ⊢
  obtain ⟨⟨hid, hin⟩, carried⟩ := carried
  obtain ⟨⟨there, others⟩, reqs, grants, kept⟩ := granted_became (h := h) (g := g) ((booked.fr? g.id).trans (hid ▸ hf))
  rw [hid] at there others grants
  rw [hin] at there grants
  exact ⟨⟨_, ⟨there, fun i hi => (others i hi).trans (booked.fr? i)⟩, rfl, carried⟩, reqs.trans booked.reqs, fun away => booked.grants ▸ grants away,
    (kept.rd _ _).trans rsv, (kept.rd _ _).trans shr, (kept.rd _ _).trans desc, booked.within.mono.andThen kept⟩

/-- Settles O21: the tests of the decision read registers only, which neither the average nor the free value changes; then each outcome's bookings are followed. -/
theorem admissionDecided : Obligations.AdmissionDecided := by
  unfold Obligations.AdmissionDecided
  intro s h r f q hr hf hl hq
  obtain rfl := hq.symm
  obtain ⟨half, i⟩ := r
  obtain rfl : f.id = i := id_of_fr? hf
  have ran : exec (.admissionDecision h) s = .next (settle (doAdmissionDecision h s)) := rfl
  rw [doAdmissionDecision_eq hr hf hl] at ran
  obtain ⟨wred, ecn⟩ := verdict_off s h (half, f.id) (s.queueOf h f) f
  have weighed := Booked.weighed s h (half, f.id) (s.queueOf h f) f
  have same (g : Fld) (ix : List Nat) := rd_congr (weighed_regs s h (half, f.id) (s.queueOf h f) f) g ix
  have test := admitTest_congr (weighed_regs s h (half, f.id) (s.queueOf h f) f) h (s.queueOf h f) f.cells f.hdrmReq
    (s.verdict h (half, f.id) (s.queueOf h f) f).drop
  have start : Within [.buf, .fresh] [] s (s.weighed h (half, f.id) (s.queueOf h f) f) := ((Within.refl _ _ s).set_buf _).trans weighed.within
  generalize s.weighed h (half, f.id) (s.queueOf h f) f = u at *
  generalize s.verdict h (half, f.id) (s.queueOf h f) f = m at *
  rcases ht : s.admitTest h (s.queueOf h f) f.cells f.hdrmReq m.drop with ⟨cnt, cause⟩ | c
  case inl =>
    rw [ruled_of_inl (test.trans ht)] at ran
    obtain ⟨gone, counted, reqs, kept⟩ := refuse_drops u h (s.queueOf h f) f cnt cause
    refine ⟨_, m.mark, m.drop, ran, reqs.trans weighed.reqs, wred, ecn, ?_⟩
    rw [ht]
    have whole := (start.mono.trans kept).settle
    exact ⟨dropped_congr gone (fun j _ => fr?_congr start.frames j) start.nextId (same _ _), whole.rd _ _, fun hc => same .BUF_Q_CNT_v _ ▸ counted hc, whole.parts, whole.fields⟩
  case inr =>
    rw [ruled_of_inr (test.trans ht)] at ran
    obtain ⟨⟨g, ⟨there, others⟩, carried⟩, reqs, grants, rsv, shr, desc, kept⟩ :=
      grant_charges (h := h) (s.queueOf h f) c m.mark ((fr?_congr start.frames f.id).trans hf)
    refine ⟨_, m.mark, m.drop, ran, reqs.trans weighed.reqs, wred, ecn, ?_⟩
    rw [ht]
    rw [same] at rsv shr desc
    have whole : Within [.frames, .buf, .fresh, .lanes, .ras] Booked.chargeFlds s _ := (start.mono.andThen kept).settle
    exact ⟨⟨g, ⟨there, fun j hj => (others j hj).trans (fr?_congr start.frames j)⟩, carried⟩, rsv, shr, desc, fun away => (grants away).trans (by rw [weighed.grants]; rfl),
      whole.parts, fieldsBut_mono whole.fields (by decide)⟩

end Sys2Proof.Machine

/-!
SUPPORT. Scheduling, shaping and policing: operations carried out for each of several keys, refills and policers, pause timers, deficit round robin and the selection. Each part below ends with the statement that it settles.
-/

namespace Sys2Proof.Machine

/-! ## One operation for each of several keys -/

/-- An element that no operation of a list touches is as before. -/
theorem foldl_apart {σ α β κ : Type} {get : σ → κ → α} {op : σ → β → σ} {key : β → κ} (apart : ∀ m a k, k ≠ key a → get (op m a) k = get m k)
    {l : List β} {k : κ} (hk : k ∉ l.map key) (m : σ) : get (l.foldl op m) k = get m k := by
  induction l generalizing m with
  | nil => rfl
  | cons a l ih =>
    obtain ⟨first, rest⟩ := List.ne_and_not_mem_of_not_mem_cons hk
    rw [List.foldl_cons, ih rest, apart m a k first]

/-- Where each operation of a list has a key of its own, an element is what its own operation makes of it, in a state that still holds the element and
has the property `inv` that every operation keeps. -/
theorem foldl_keyed {σ α β κ : Type} {get : σ → κ → α} {op : σ → β → σ} {key : β → κ} {inv : σ → Prop}
    (apart : ∀ m a k, k ≠ key a → get (op m a) k = get m k) (kept : ∀ m a, inv m → inv (op m a)) {l : List β} (hd : (l.map key).Nodup) {x : β} (hx : x ∈ l)
    {m : σ} (hm : inv m) {v : α} (here : ∀ n, inv n → get n (key x) = get m (key x) → get (op n x) (key x) = v) : get (l.foldl op m) (key x) = v := by
  induction l generalizing m with
  | nil => simp at hx
  | cons a l ih =>
    obtain ⟨fresh, distinct⟩ := List.nodup_cons.1 hd
    rw [List.foldl_cons]
    rcases List.mem_cons.1 hx with rfl | hx
    · rw [foldl_apart apart fresh, here m hm rfl]
    · have other : key x ≠ key a := fun e => fresh (e ▸ List.mem_map_of_mem hx)
      exact ih distinct hx (kept m a hm) fun n hn same => here n hn (same.trans (apart m a _ other))

end Sys2Proof.Machine

namespace Sys2Proof.Machine

/-! ## What reports and the passing of time do to the listed registers -/

/-- A property of states that no report and no passing of time touches: the host interface, telemetry, time, and the fields that reports change do not
matter to it. What a refill goes through is such a property, and rests on which registers are listed, not only on what they read. -/
structure Unreported (P : State → Prop) : Prop where
  host : ∀ {t : State} (x : HostIf), P t → P { t with host := x }
  tel : ∀ {t : State} (x : Tel), P t → P { t with tel := x }
  time : ∀ {t : State} (x : Time), P t → P { t with time := x }
  st : ∀ {t : State} (f : Fld) (ix : List Nat) (v : Nat), f ∈ reportFlds → P t → P (t.st f ix v)

namespace Unreported

variable {P : State → Prop} {t : State}

theorem ite (c : Prop) [Decidable c] {u : State} (h : P t) (k : P u) : P (if c then t else u) := by
  split
  · exact h
  · exact k

variable (p : Unreported P)
include p

theorem signal (fn r : Nat) (h : P t) : P (t.signal fn r) := by
  have sent : ∀ vec, P (t.msixSend fn vec) := fun vec => ite _ h (ite _ (p.host _ h) (p.host _ h))
  unfold State.signal
  dsimp only
  split
  · exact p.host _ h
  · exact ite _ (sent _) (p.host _ (sent _))

theorem ringPut (fn r : Nat) (ent : List Byte) (a b : Nat) (sig : Bool) (h : P t) : P (t.ringPut fn r ent a b sig) := by
  unfold State.ringPut
  extract_lets n byte ent' t1 t2
  have counted : P t2 := p.st _ _ _ (by decide) (p.host _ h)
  exact ite _ (p.signal _ _ counted) counted

theorem eventTo (fn : Nat) (e : Evt) (h : P t) : P (t.eventTo fn e) := by
  unfold State.eventTo
  extract_lets now one lost drop
  have hone : ∀ {v} code pl, P v → P (one v code pl) := fun code pl hv => p.ringPut _ _ _ _ _ _ (p.host _ hv)
  have hdrop : ∀ {v}, P v → P (drop v) := fun hv => p.st _ _ _ (by decide) (p.host _ hv)
  have told := hone 0x0001 (leBytes 4 lost) (p.host { t.host with evtLost := t.host.evtLost.erase [fn] } h)
  exact ite _ h (ite _ (hdrop h) (ite _ (hone _ _ h) (ite _ (hdrop told) (hone _ _ told))))

theorem raise (code half : Nat) (fs : List (Nat × Nat × Nat)) (vf : Option Nat) (h : P t) : P (t.raise code half fs vf) := by
  have told : ∀ e, P (State.eventTo { t with host := { t.host with events := t.host.events ++ [e] } } 0 e) := fun e => p.eventTo 0 e (p.host _ h)
  unfold State.raise
  dsimp only
  split
  · exact ite _ (p.eventTo _ _ (told _)) (told _)
  · exact told _

theorem pmc (x : Half) (ev : Nat) (e : PmcEv) (n : Nat) (h : P t) : P (t.pmc x ev e n) := by
  refine List.foldlRecOn _ _ h fun v hv i _ => ite _ ?_ hv
  have counted : P (v.bump .PMC_CNT_v [x.n, i] n) := p.st _ _ _ (by decide) hv
  exact ite _ counted (p.raise _ _ _ _ (p.tel _ counted))

theorem runTo (n : Nat) (h : P t) : P (t.runTo n) := by
  unfold State.runTo
  exact ite _ h (List.foldlRecOn _ _ (p.time _ h) fun _ hv _ _ => p.pmc _ _ _ _ (p.pmc _ _ _ _ hv))

end Unreported

/-- What a choice of keys finds among the registers that are listed. -/
def State.listed {α : Type} (s : State) (pick : List Nat → Option α) : List α := s.regs.filterMap (fun e => pick e.1)

section
variable {α β : Type} (m : SMap β) {k : List Nat} (v : β) {pick : List Nat → Option α} (hk : pick k = none)
include hk

/-- A choice that leaves a key out does not see a write there. -/
theorem SMap.filterMap_set : (SMap.set m k v).filterMap (fun e => pick e.1) = m.filterMap (fun e => pick e.1) := by
  induction m with
  | nil => simp [SMap.set, hk]
  | cons e m ih =>
    obtain ⟨x, b⟩ := e
    unfold SMap.set
    split
    · rename_i e
      simp [e, hk]
    · split
      · simp [hk]
      · simp [List.filterMap_cons, ih]

theorem SMap.filterMap_erase : (SMap.erase m k).filterMap (fun e => pick e.1) = m.filterMap (fun e => pick e.1) := by
  induction m with
  | nil => rfl
  | cons e m ih =>
    obtain ⟨x, b⟩ := e
    unfold SMap.erase
    split
    · rename_i e
      simp [e, hk, ih]
    · simp [List.filterMap_cons, ih]

theorem SMap.filterMap_put [DecidableEq β] (d : β) : (SMap.put m k v d).filterMap (fun e => pick e.1) = m.filterMap (fun e => pick e.1) := by
  unfold SMap.put
  split
  · exact SMap.filterMap_erase m hk
  · exact SMap.filterMap_set m v hk

end

/-- A choice that leaves out the fields of reports finds the same after a passing of time. -/
theorem listed_runTo {α : Type} {pick : List Nat → Option α} (hp : ∀ f ∈ reportFlds, ∀ ix, pick (f.ctorIdx :: ix) = none) (s : State) (t : Nat) :
    (s.runTo t).listed pick = s.listed pick := by
  have outside : Unreported fun u => u.listed pick = s.listed pick :=
    ⟨fun _ h => h, fun _ h => h, fun _ h => h, fun f ix _ hf h => (SMap.filterMap_put _ _ (hp f hf ix) _).trans h⟩
  exact outside.runTo t rfl

/-! ## Refill -/

/-- The key of the shaper that an enable bit belongs to (R159). -/
def shpPick (key : List Nat) : Option (List Nat) :=
  match key with
  | f :: ix =>
    match (List.range 4).find? (fun k => (shpFld k).2.2.ctorIdx = f) with
    | some k => some (k :: ix)
    | none => none
  | [] => none

/-- The key of the policer that an enable bit belongs to (R172). -/
def polPick (key : List Nat) : Option (List Nat) :=
  match key with
  | f :: ix => if f = Fld.SHP_POL_CFG_en.ctorIdx then some ix else none
  | [] => none

theorem shpPick_reported : ∀ f ∈ reportFlds, ∀ ix, shpPick (f.ctorIdx :: ix) = none := by
  intro f hf ix
  fin_cases hf <;> rfl

theorem polPick_reported : ∀ f ∈ reportFlds, ∀ ix, polPick (f.ctorIdx :: ix) = none := by
  intro f hf ix
  fin_cases hf <;> rfl

/-- The keys of a half among those that a register enables and those in use; a key holds its half at a place. -/
def keysOf (h : Half) (place : Nat) (enabled used : List (List Nat)) : List (List Nat) :=
  (enabled ++ used.filter (fun k => !enabled.contains k)).filter (fun k => k.getD place 2 = h.n)

theorem shpKeys_eq (s : State) (h : Half) : s.shpKeys h = keysOf h 1 (s.listed shpPick) (s.sched.shp.map (fun e => e.1)) := rfl

theorem polKeys_eq (s : State) (h : Half) : s.polKeys h = keysOf h 0 (s.listed polPick) (s.sched.pol.map (fun e => e.1)) := rfl

/-- The next refill of a half (R160, log entry 27). -/
def State.refillDue (s : State) (h : Half) : Nat := max (nextMultiple 32 (s.refilled h)) (ceilDiv s.elapsed 32 * 32)

/-- The half's refill comes at a time. -/
def State.refillAt (s : State) (h : Half) (t : Nat) : State :=
  match h with
  | .E => { s with sched := { s.sched with refE := t } }
  | .W => { s with sched := { s.sched with refW := t } }

/-- Time has come to the half's next refill. -/
def State.refillBegun (s : State) (h : Half) : State := (s.runTo (s.refillDue h)).refillAt h (s.refillDue h)

/-- The shapers of some keys are refilled, and the policers of others. -/
def State.refillAll (s : State) (shps pols : List (List Nat)) : State := pols.foldl State.refillPolAt (shps.foldl State.refillShp s)

theorem refillDue_spec (s : State) (h : Half) : s.refillDue h % 32 = 0 ∧ s.refilled h < s.refillDue h ∧ s.time.elapsed ≤ s.refillDue h := by
  have later := lt_nextMultiple (m := 32) (by decide) (s.refilled h)
  unfold nextMultiple at later
  unfold State.refillDue nextMultiple ceilDiv State.elapsed
  omega

theorem Within.refillAt (s : State) (h : Half) (t : Nat) : Within [.sched] [] s (s.refillAt h t) := by
  cases h
  all_goals exact (refl _ _ s).set_sched _

/-- What the wait for the refill leaves as it was: the registers that it reads, the buckets, and the keys that it goes through. -/
structure RefillReady (h : Half) (s u : State) : Prop where
  within : Within [.sched, .time] [] s u
  shp : u.sched.shp = s.sched.shp
  pol : u.sched.pol = s.sched.pol
  shpKeys : u.shpKeys h = s.shpKeys h
  polKeys : u.polKeys h = s.polKeys h
  due : u.refilled h = s.refillDue h
  elapsed : u.time.elapsed = s.refillDue h

theorem refillBegun_ready (s : State) (h : Half) : RefillReady h s (s.refillBegun h) := by
  have passes := runTo_passes s (s.refillDue h)
  have sched : (s.runTo (s.refillDue h)).sched = s.sched := passes.within.parts .sched (by decide)
  have shps : (s.runTo (s.refillDue h)).listed shpPick = s.listed shpPick := listed_runTo shpPick_reported s _
  have pols : (s.runTo (s.refillDue h)).listed polPick = s.listed polPick := listed_runTo polPick_reported s _
  have elapsed : (s.runTo (s.refillDue h)).time.elapsed = s.refillDue h := passes.elapsed.trans (max_eq_right (refillDue_spec s h).2.2)
  unfold State.refillBegun
  generalize s.runTo (s.refillDue h) = u at passes sched shps pols elapsed
  have marked : (u.refillAt h (s.refillDue h)).sched.shp = u.sched.shp ∧ (u.refillAt h (s.refillDue h)).sched.pol = u.sched.pol
      ∧ (u.refillAt h (s.refillDue h)).regs = u.regs ∧ (u.refillAt h (s.refillDue h)).time = u.time
      ∧ (u.refillAt h (s.refillDue h)).refilled h = s.refillDue h := by
    cases h
    all_goals exact ⟨rfl, rfl, rfl, rfl, rfl⟩
  obtain ⟨shp, pol, regs, time, due⟩ := marked
  refine ⟨passes.within.mono.andThen (.refillAt ..), by rw [shp, sched], by rw [pol, sched], ?_, ?_, due, by rw [time, elapsed]⟩
  · rw [shpKeys_eq, shpKeys_eq, shp, sched, State.listed, regs]
    exact congrArg (keysOf h 1 · _) shps
  · rw [polKeys_eq, polKeys_eq, pol, sched, State.listed, regs]
    exact congrArg (keysOf h 0 · _) pols

/-- A refill whose tick is not lost at its crossing (R160, R411). -/
theorem doRefill_of_free {s : State} {h : Half} (hx : s.xingBusy h 2 0 = false) :
    doRefill h s = (s.refillBegun h).refillAll ((s.refillBegun h).shpKeys h) ((s.refillBegun h).polKeys h) := by
  have free : (s.refillBegun h).xingBusy h 2 0 = false := (xingBusy_congr ((refillBegun_ready s h).within.ras) h 2 0).trans hx
  have sent : doRefill h s = (s.refillBegun h).xingSend h 2 0 (fun u => u.refillAll (u.shpKeys h) (u.polKeys h)) := rfl
  rw [sent, State.xingSend, if_neg (by rw [free]; decide)]

/-! ### One shaper, one policer -/

theorem Within.setBucket (s : State) (k : List Nat) (b : Bucket) : Within [.sched] [.SHP_Q_CREDIT_credit] s (s.setBucket k b) := by
  unfold State.setBucket
  dsimp only
  split
  · exact ((refl _ _ s).set_sched _).st _ _
  · exact (refl _ _ s).set_sched _

theorem sched_setBucket (s : State) (k : List Nat) (b : Bucket) : (s.setBucket k b).sched = { s.sched with shp := s.sched.shp.set k b } := by
  unfold State.setBucket
  dsimp only
  split <;> rfl

theorem bucket_setBucket (s : State) (k j : List Nat) (b : Bucket) : (s.setBucket k b).bucket j = if k = j then b else s.bucket j := by
  unfold State.bucket
  rw [sched_setBucket]
  exact SMap.getD_set ..

/-- A shaper's bucket after its refill (R159, R162). -/
def State.bucketRefilled (s : State) (k : List Nat) : Bucket :=
  refillBucket (s.rd (shpFld (k.headD 0)).1 (k.drop 1)) (s.rd (shpFld (k.headD 0)).2.1 (k.drop 1)) (s.on (shpFld (k.headD 0)).2.2 (k.drop 1)) (s.bucket k).credit

theorem refillShp_eq (s : State) (k : List Nat) : s.refillShp k = s.setBucket k (s.bucketRefilled k) := rfl

theorem Within.refillShp (s : State) (k : List Nat) : Within [.sched] [.SHP_Q_CREDIT_credit] s (s.refillShp k) := .setBucket ..

/-- A refill reads what a shaper's register and its own bucket hold. -/
theorem bucketRefilled_congr {ps : List Part} {s t : State} (h : Within ps [.SHP_Q_CREDIT_credit] s t) {k : List Nat} (hb : t.bucket k = s.bucket k) :
    t.bucketRefilled k = s.bucketRefilled k := by
  unfold State.bucketRefilled State.on
  rw [hb]
  unfold shpFld
  split
  all_goals rw [h.rd _ _, h.rd _ _, h.rd _ _]

theorem refillPolAt_get? (s : State) (k j : List Nat) :
    (s.refillPolAt k).sched.pol.get? j = if k = j then some (refillPol (s.sched.pol.getD k Pol.off) (s.polCfg k)) else s.sched.pol.get? j := SMap.get?_set ..

theorem Within.refillPolAt (s : State) (k : List Nat) : Within [.sched] [] s (s.refillPolAt k) := (refl _ _ s).set_sched _

theorem polCfg_congr {ps : List Part} {s t : State} (h : Within ps [.SHP_Q_CREDIT_credit] s t) (k : List Nat) : t.polCfg k = s.polCfg k := by
  unfold State.polCfg State.on
  rw [h.rd _ _, h.rd _ _, h.rd _ _, h.rd _ _, h.rd _ _, h.rd _ _, h.rd _ _]

/-- What one refill makes of a policer (R172, R173, R175). -/
theorem refillPol_spec (p : Pol) (c : PolCfg) : (refillPol p c).cur = c
    ∧ (c.en = false → (refillPol p c).tp = p.tp ∧ (refillPol p c).tc = p.tc)
    ∧ (c.en = true → p.cur.en = false → (refillPol p c).tp = ((c.pbs * 4096 : Nat) : Int) ∧ (refillPol p c).tc = ((c.cbs * 4096 : Nat) : Int))
    ∧ (c.en = true → p.cur.en = true → (refillPol p c).tp = min (p.tp + (c.pir : Int)) ((c.pbs * 4096 : Nat) : Int)
      ∧ (refillPol p c).tc = min (p.tc + (c.cir : Int)) ((c.cbs * 4096 : Nat) : Int)) := by
  unfold refillPol
  cases c.en with
  | false => simp
  | true => cases p.cur.en <;> simp

/-! ### All of a half -/

section
variable (s : State) (shps pols : List (List Nat))

theorem Within.refillAll : Within [.sched] [.SHP_Q_CREDIT_credit] s (s.refillAll shps pols) :=
  (foldl .refillShp shps s).andThen (foldl .refillPolAt pols _)

/-- Policers and shapers are refilled apart. -/
theorem refillAll_apart : (s.refillAll shps pols).sched.shp = (shps.foldl State.refillShp s).sched.shp
    ∧ (shps.foldl State.refillShp s).sched.pol = s.sched.pol ∧ (s.refillAll shps pols).refilled = s.refilled := by
  have one (t : State) (k : List Nat) : (t.refillShp k).sched.pol = t.sched.pol ∧ (t.refillShp k).refilled = t.refilled := by
    unfold State.refilled
    rw [refillShp_eq, sched_setBucket]
    exact ⟨rfl, rfl⟩
  have first := List.foldlRecOn shps State.refillShp (motive := fun t : State => t.sched.pol = s.sched.pol ∧ t.refilled = s.refilled) ⟨rfl, rfl⟩
    fun t h k _ => ⟨(one t k).1.trans h.1, (one t k).2.trans h.2⟩
  have second := List.foldlRecOn pols State.refillPolAt
    (motive := fun t : State => t.sched.shp = (shps.foldl State.refillShp s).sched.shp ∧ t.refilled = (shps.foldl State.refillShp s).refilled) ⟨rfl, rfl⟩
    fun _ h _ _ => h
  exact ⟨second.1, first.1, second.2.trans first.2⟩

theorem bucket_refillAll_apart {k : List Nat} (hk : k ∉ shps) : (s.refillAll shps pols).bucket k = s.bucket k := by
  have shapers : (shps.foldl State.refillShp s).bucket k = s.bucket k :=
    foldl_apart (get := State.bucket) (key := fun k => k) (fun t a k hk => by rw [refillShp_eq, bucket_setBucket, if_neg (Ne.symm hk)]) (by simpa using hk) s
  unfold State.bucket at shapers ⊢
  rw [(refillAll_apart s shps pols).1, shapers]

theorem bucket_refillAll (hd : shps.Nodup) {k : List Nat} (hk : k ∈ shps) : (s.refillAll shps pols).bucket k = s.bucketRefilled k := by
  have shapers : (shps.foldl State.refillShp s).bucket k = s.bucketRefilled k :=
    foldl_keyed (get := State.bucket) (key := fun k => k) (inv := Within [.sched] [.SHP_Q_CREDIT_credit] s)
      (fun t a k hk => by rw [refillShp_eq, bucket_setBucket, if_neg (Ne.symm hk)]) (fun t a h => h.trans (.refillShp t a)) (by simpa using hd) hk (.refl ..)
      (fun t h same => by rw [refillShp_eq, bucket_setBucket, if_pos rfl, bucketRefilled_congr h same])
  unfold State.bucket at shapers ⊢
  rw [(refillAll_apart s shps pols).1, shapers]

theorem pol_refillAll_apart {k : List Nat} (hk : k ∉ pols) : (s.refillAll shps pols).sched.pol.get? k = s.sched.pol.get? k := by
  rw [← (refillAll_apart s shps pols).2.1]
  exact foldl_apart (get := fun t k => (State.sched t).pol.get? k) (key := fun k => k) (fun t a k hk => by rw [refillPolAt_get?, if_neg (Ne.symm hk)])
    (by simpa using hk) _

theorem pol_refillAll (hd : pols.Nodup) {k : List Nat} (hk : k ∈ pols) :
    (s.refillAll shps pols).sched.pol.getD k Pol.off = refillPol (s.sched.pol.getD k Pol.off) (s.polCfg k) := by
  have policers : (s.refillAll shps pols).sched.pol.get? k = some (refillPol (s.sched.pol.getD k Pol.off) (s.polCfg k)) :=
    foldl_keyed (get := fun t k => (State.sched t).pol.get? k) (key := fun k => k) (inv := Within [.sched] [.SHP_Q_CREDIT_credit] s)
      (fun t a k hk => by rw [refillPolAt_get?, if_neg (Ne.symm hk)]) (fun t a h => h.andThen (.refillPolAt t a)) (by simpa using hd) hk
      (.foldl .refillShp shps s) (fun t h same => by
        rw [(refillAll_apart s shps pols).2.1] at same
        rw [refillPolAt_get?, if_pos rfl, polCfg_congr h]
        unfold SMap.getD
        rw [same])
  unfold SMap.getD at policers ⊢
  rw [policers]

end

/-- REFILL, where its tick is not lost (R159, R160, R162, R172). -/
theorem refill_refills (s : State) (h : Half) (hs : (s.shpKeys h).Nodup) (hp : (s.polKeys h).Nodup) (hx : s.xingBusy h 2 0 = false) :
    ∃ t, exec (.refill h) s = .next t ∧ t.refilled h % 32 = 0 ∧ s.refilled h < t.refilled h ∧ t.time.elapsed = t.refilled h ∧ s.time.elapsed ≤ t.refilled h
      ∧ (∀ k ∈ s.shpKeys h, t.bucket k = s.bucketRefilled k)
      ∧ (∀ k, k ∉ s.shpKeys h → t.bucket k = s.bucket k)
      ∧ (∀ k ∈ s.polKeys h, t.sched.pol.getD k Pol.off = refillPol (s.sched.pol.getD k Pol.off) (s.polCfg k))
      ∧ (∀ k, k ∉ s.polKeys h → t.sched.pol.get? k = s.sched.pol.get? k)
      ∧ partsBut [.sched, .time] s t ∧ fieldsBut [.SHP_Q_CREDIT_credit] s t := by
  have run : exec (.refill h) s = .next (settle (doRefill h s)) := rfl
  obtain ⟨multiple, after, reached⟩ := refillDue_spec s h
  have ready := refillBegun_ready s h
  rw [doRefill_of_free hx, ready.shpKeys, ready.polKeys] at run
  generalize s.refillBegun h = u at run ready
  have all := Within.refillAll u (s.shpKeys h) (s.polKeys h)
  have due : (u.refillAll (s.shpKeys h) (s.polKeys h)).refilled h = s.refillDue h := (congrFun (refillAll_apart u _ _).2.2 h).trans ready.due
  have elapsed : (u.refillAll (s.shpKeys h) (s.polKeys h)).time.elapsed = s.refillDue h := (congrArg Time.elapsed (all.parts .time (by decide))).trans ready.elapsed
  have waited : Within [.sched, .time] [.SHP_Q_CREDIT_credit] s u := ready.within.mono
  have bucket (k : List Nat) : u.bucket k = s.bucket k := congrArg (SMap.getD · k _) ready.shp
  have whole := (waited.andThen all).settle
  refine ⟨_, run, due ▸ multiple, due ▸ after, elapsed.trans due.symm, due ▸ reached, fun k hk => ?_, fun k hk => ?_, fun k hk => ?_, fun k hk => ?_,
    whole.parts, whole.fields⟩
  · exact (bucket_refillAll u _ (s.polKeys h) hs hk).trans (bucketRefilled_congr waited (bucket k))
  · exact (bucket_refillAll_apart u _ (s.polKeys h) hk).trans (bucket k)
  · exact (pol_refillAll u (s.shpKeys h) _ hp hk).trans (by rw [ready.pol, polCfg_congr waited])
  · exact (pol_refillAll_apart u (s.shpKeys h) _ hk).trans (by rw [ready.pol])

/-- No refill raises a credit above the burst (R159). -/
theorem refillBucket_le_burst (inc burst : Nat) (en : Bool) (credit : Int) (hc : credit ≤ ((burst * 4096 : Nat) : Int)) :
    (refillBucket inc burst en credit).credit ≤ ((burst * 4096 : Nat) : Int) := by
  unfold refillBucket
  cases en
  · exact hc
  · exact min_le_right ..

/-! ## POLICER_SET -/

/-- The fields of a policer's register. -/
def polFlds : List Fld := Reg.SHP_POL_CFG.fields

/-- What POLICER_SET gives each field (R175). -/
def polVal (c : PolCfg) (owner : Nat) (f : Fld) : Nat :=
  match f with
  | .SHP_POL_CFG_cir_inc => c.cir
  | .SHP_POL_CFG_pir_inc => c.pir
  | .SHP_POL_CFG_cbs => c.cbs
  | .SHP_POL_CFG_pbs => c.pbs
  | .SHP_POL_CFG_aware => b2n c.aware
  | .SHP_POL_CFG_red_drop => b2n c.redDrop
  | .SHP_POL_CFG_en => b2n c.en
  | _ => owner

/-- A policer's register is set. -/
def State.setPolicer (s : State) (ix : List Nat) (c : PolCfg) (owner : Nat) : State := s.sts (polFlds.map (fun f => (f, ix, polVal c owner f)))

/-- A policer's register as its settings and its owner. -/
def State.policer (s : State) (ix : List Nat) : PolCfg × Nat := (s.polCfg ix, s.rd .SHP_POL_CFG_owner ix)

theorem Within.setPolicer (s : State) (ix : List Nat) (c : PolCfg) (owner : Nat) : Within [] polFlds s (s.setPolicer ix c owner) :=
  (refl _ _ s).sts _ (by simp)

theorem policer_congr {s t : State} {ix : List Nat} (h : ∀ f ∈ polFlds, t.rd f ix = s.rd f ix) : t.policer ix = s.policer ix := by
  unfold State.policer State.polCfg State.on
  rw [h .SHP_POL_CFG_cir_inc (by decide), h .SHP_POL_CFG_pir_inc (by decide), h .SHP_POL_CFG_cbs (by decide), h .SHP_POL_CFG_pbs (by decide),
    h .SHP_POL_CFG_aware (by decide), h .SHP_POL_CFG_red_drop (by decide), h .SHP_POL_CFG_en (by decide), h .SHP_POL_CFG_owner (by decide)]

theorem policer_setPolicer_apart (s : State) {ix jx : List Nat} (hj : jx ≠ ix) (c : PolCfg) (owner : Nat) :
    (s.setPolicer ix c owner).policer jx = s.policer jx :=
  policer_congr fun f _ => (rd_sts_map _ _ s f ix jx).trans (if_neg fun h => hj h.2)

/-- The values that a policer's register has room for. -/
def PolCfg.fits (c : PolCfg) : Prop := c.cir < 2 ^ 28 ∧ c.pir < 2 ^ 28 ∧ c.cbs < 2 ^ 24 ∧ c.pbs < 2 ^ 24

theorem policer_setPolicer_self (s : State) (ix : List Nat) {c : PolCfg} {owner : Nat} (hc : c.fits) (ho : owner < 64) :
    (s.setPolicer ix c owner).policer ix = (c, owner) := by
  obtain ⟨cir, pir, cbs, pbs⟩ := hc
  have value (f : Fld) (hf : f ∈ polFlds) : (s.setPolicer ix c owner).rd f ix = polVal c owner f % 2 ^ f.info.w :=
    (rd_sts_map ..).trans (if_pos ⟨hf, rfl⟩)
  have flag (f : Fld) (b : Bool) (h : (s.setPolicer ix c owner).rd f ix = b2n b % 2 ^ 1) : (s.setPolicer ix c owner).on f ix = b := by
    unfold State.on
    rw [h]
    cases b <;> rfl
  unfold State.policer State.polCfg
  rw [(value .SHP_POL_CFG_cir_inc (by decide)).trans (Nat.mod_eq_of_lt cir), (value .SHP_POL_CFG_pir_inc (by decide)).trans (Nat.mod_eq_of_lt pir),
    (value .SHP_POL_CFG_cbs (by decide)).trans (Nat.mod_eq_of_lt cbs), (value .SHP_POL_CFG_pbs (by decide)).trans (Nat.mod_eq_of_lt pbs),
    flag _ c.aware (value .SHP_POL_CFG_aware (by decide)), flag _ c.redDrop (value .SHP_POL_CFG_red_drop (by decide)),
    flag _ c.en (value .SHP_POL_CFG_en (by decide)), (value .SHP_POL_CFG_owner (by decide)).trans (Nat.mod_eq_of_lt ho)]
  rfl

/-- A policer's register is set in several halves. -/
def State.setPolicers (s : State) (hs : List Half) (n : Nat) (c : PolCfg) (owner : Nat) : State :=
  hs.foldl (fun s h => s.setPolicer [h.n, n] c owner) s

theorem Within.setPolicers (s : State) (hs : List Half) (n : Nat) (c : PolCfg) (owner : Nat) : Within [] polFlds s (s.setPolicers hs n c owner) :=
  .foldl (fun t _ => .setPolicer t _ c owner) hs s

theorem nodup_hs (d : Hdr) : (Hdr.hs d).Nodup := by
  unfold Hdr.hs
  cases d.halfE <;> cases d.halfW <;> decide

section
variable (s : State) (hs : List Half) (n : Nat) (c : PolCfg) (owner : Nat)

theorem policer_ne {x : Half × Nat} {h : Half} (hx : x ≠ (h, n)) : [x.1.n, x.2] ≠ [h.n, n] := by
  rintro e
  simp only [List.cons.injEq, and_true] at e
  exact hx (Prod.ext (Half.n_inj e.1) e.2)

theorem policer_setPolicers_apart {h : Half} {m : Nat} (hm : h ∉ hs ∨ m ≠ n) : (s.setPolicers hs n c owner).policer [h.n, m] = s.policer [h.n, m] :=
  foldl_apart (get := fun t (x : Half × Nat) => State.policer t [x.1.n, x.2]) (key := fun h => (h, n))
    (fun t _ _ hx => policer_setPolicer_apart t (policer_ne n hx) c owner) (k := (h, m)) (by simp; tauto) s

theorem policer_setPolicers (hd : hs.Nodup) {h : Half} (hh : h ∈ hs) (hc : c.fits) (ho : owner < 64) :
    (s.setPolicers hs n c owner).policer [h.n, n] = (c, owner) :=
  foldl_keyed (get := fun t (x : Half × Nat) => State.policer t [x.1.n, x.2]) (key := fun h => (h, n)) (inv := fun _ => True)
    (fun t _ _ hx => policer_setPolicer_apart t (policer_ne n hx) c owner) (fun _ _ _ => trivial) (hd.map fun _ _ e => (Prod.ext_iff.1 e).1) hh trivial
    (fun t _ _ => policer_setPolicer_self t _ hc ho)

end

/-- POLICER_SET that passes its checks sets the register in the halves that it names, or refuses its values (R175). -/
theorem exec_policerSet {s : State} {d : Hdr} {n cir pir cbs pbs owner : Nat} {aware redDrop en : Bool} {clean : Bool}
    (hclean : clean = (cleanHdr d false false false && decide (n < 16384) && decide (cir < 2 ^ 28) && decide (pir < 2 ^ 28)
      && decide (cbs < 2 ^ 24) && decide (pbs < 2 ^ 24) && decide (owner < 64)))
    (hs : served s d ⟨0x34, .config, true, true, 2⟩
      (d.fn = 0 || (owner = fnSlice d.fn && (Hdr.hs d).all (fun h => s.rd .SHP_POL_CFG_owner [h.n, n] = fnSlice d.fn))) clean)
    (hd : due s (.policerSet d n cir pir cbs pbs aware redDrop en owner)) :
    exec (.policerSet d n cir pir cbs pbs aware redDrop en owner) s = .next (settle (if en = true ∧ (pir < cir ∨ cbs = 0 ∨ pbs = 0)
      then (s.descRun d).complete d 3 0 0
      else ((s.descRun d).setPolicers (Hdr.hs d) n ⟨cir, pir, cbs, pbs, aware, redDrop, en⟩ owner).complete d 0 0 0)) := by
  have runs : exec (.policerSet d n cir pir cbs pbs aware redDrop en owner) s
      = .next (settle (doPolicerSet d n cir pir cbs pbs aware redDrop en owner (s.descRun d))) := doneDesc_of_due _ (hd d rfl)
  rw [runs]
  unfold doPolicerSet
  simp only [descRun_rd]
  rw [← hclean, serve_of_pass _ ((descRun_refusal ..).trans hs)]
  rfl

theorem setPolicers_host (s : State) (hs : List Half) (n : Nat) (c : PolCfg) (owner : Nat) : (s.setPolicers hs n c owner).host = s.host :=
  List.foldlRecOn hs _ (motive := fun t : State => t.host = s.host) rfl fun _ h _ _ => h

/-- A completion shows nothing in a policer's register. -/
theorem policer_settle_complete (s : State) (d : Hdr) (st a r : Nat) (ix : List Nat) : (settle (s.complete d st a r)).policer ix = s.policer ix :=
  policer_congr fun f hf => rd_completeX s d st a r none (by revert f; simp [polFlds, Reg.fields, reported, reportFlds, lossAt])

/-- Settles O26: a refill goes through the keys that the half had before it, each once; POLICER_SET goes through the halves that its descriptor names. -/
theorem refillAndPolicers : Obligations.RefillAndPolicers := by
  unfold Obligations.RefillAndPolicers
  refine ⟨?refill, refillBucket_le_burst, ?set⟩
  case refill =>
    intro s h hs hp hx
    obtain ⟨t, run, multiple, after, elapsed, reached, shps, otherShps, pols, others⟩ := refill_refills s h hs hp hx
    refine ⟨t, run, multiple, after, elapsed, reached, shps, otherShps, ?_, others⟩
    rintro k hk p q c rfl rfl rfl
    rw [pols k hk]
    exact refillPol_spec ..
  case set =>
    intro s d n cir pir cbs pbs owner aware redDrop en hs
    obtain ⟨⟨⟨⟨⟨-, hcir⟩, hpir⟩, hcbs⟩, hpbs⟩, howner⟩ : ((((_ ∧ cir < 2 ^ 28) ∧ pir < 2 ^ 28) ∧ cbs < 2 ^ 24) ∧ pbs < 2 ^ 24) ∧ owner < 64 := by
      simpa using (served_clean hs).1
    refine ⟨fun hen hd => ?sets, fun hen hbad hd => ?refuses⟩
    case sets =>
      have run := exec_policerSet rfl hs hd
      rw [if_neg (by rintro ⟨e, bad⟩; have := hen e; omega)] at run
      obtain ⟨done, parts, fields⟩ := completed_of_within (.setPolicers (s.descRun d) (Hdr.hs d) n ⟨cir, pir, cbs, pbs, aware, redDrop, en⟩ owner)
        (congrArg HostIf.cpls (setPolicers_host ..)) 0 0 0
      refine ⟨_, run, done, fun h hh => ?_, fun h m hm => ?_, parts, fields⟩
      · exact Prod.ext_iff.1 ((policer_settle_complete ..).trans (policer_setPolicers _ _ n _ owner (nodup_hs d) hh ⟨hcir, hpir, hcbs, hpbs⟩ howner))
      · exact Prod.ext_iff.1 (((policer_settle_complete ..).trans (policer_setPolicers_apart _ _ n _ owner hm)).trans
          (policer_congr fun f _ => descRun_rd s d f _))
    case refuses =>
      have run := exec_policerSet rfl hs hd
      rw [if_pos ⟨hen, hbad⟩] at run
      exact ⟨_, run, completed_of_within (.refl ..) rfl 3 0 0⟩

end Sys2Proof.Machine

namespace Sys2Proof.Machine

/-! ## Pause timers -/

/-- The priorities that a PFC frame names (R170). -/
def pfcNamed (vec : Nat) : List Nat := (List.range 8).filter (fun p => bit vec p)

theorem mem_pfcNamed {vec p : Nat} : p ∈ pfcNamed vec ↔ p < 8 ∧ bit vec p = true := by
  simp [pfcNamed]

theorem nodup_pfcNamed (vec : Nat) : (pfcNamed vec).Nodup := List.nodup_range.filter _

/-- A nonzero time of a priority is counted (R170). -/
def State.pauseCount (port : Nat) (times : List Nat) (s : State) (p : Nat) : State :=
  if times.getD p 0 ≠ 0 then s.bump .TMG_PORT_CNT_v [(portHalf port).n, localIdx port, p] 1 else s

/-- The nonzero times of a PFC frame are counted. -/
def State.pausesCounted (s : State) (port vec : Nat) (times : List Nat) : State := (pfcNamed vec).foldl (State.pauseCount port times) s

/-- The timers that a PFC frame names are loaded (R170). -/
def State.pausesLoaded (s : State) (port vec : Nat) (times : List Nat) : State :=
  (pfcNamed vec).foldl (fun s p => s.pauseLoad port p (times.getD p 0 % 65536)) s

/-- A PFC frame received at a front-panel port that is UP (R170, R171). -/
theorem doPfcRx_of_up {s : State} {port : Nat} (hp : port < 1024) (hu : s.rd .LAN_PORT_STAT_state [port / 128, port % 128] = 4) (vec : Nat) (times : List Nat) :
    doPfcRx port vec times s = if (s.pausesCounted port vec times).on .TMG_PORT_CFG_pfc_rx_en [(portHalf port).n, localIdx port] = true
      then ((s.pausesCounted port vec times).pausesLoaded port vec times).pauseShow port else s.pausesCounted port vec times := by
  have up : ¬ (1024 ≤ port ∨ s.rd .LAN_PORT_STAT_state [port / 128, port % 128] ≠ 4) := by omega
  unfold doPfcRx
  rw [if_neg up, ite_not]
  rfl

theorem rd_pauseCount_apart (port : Nat) (times : List Nat) (s : State) {p x : Nat} (hx : x ≠ p) :
    (s.pauseCount port times p).rd .TMG_PORT_CNT_v [(portHalf port).n, localIdx port, x] = s.rd .TMG_PORT_CNT_v [(portHalf port).n, localIdx port, x] := by
  unfold State.pauseCount
  split
  · rw [rd_bump, if_neg (by simp [hx])]
  · rfl

theorem rd_pauseCount_self (port : Nat) (times : List Nat) (s : State) (p : Nat) :
    (s.pauseCount port times p).rd .TMG_PORT_CNT_v [(portHalf port).n, localIdx port, p]
      = if times.getD p 0 ≠ 0 then (s.rd .TMG_PORT_CNT_v [(portHalf port).n, localIdx port, p] + 1) % 2 ^ 64
        else s.rd .TMG_PORT_CNT_v [(portHalf port).n, localIdx port, p] := by
  unfold State.pauseCount
  split
  · rw [rd_bump, if_pos ⟨rfl, rfl⟩]
    rfl
  · rfl

theorem Within.pausesCounted (s : State) (port vec : Nat) (times : List Nat) : Within [] [.TMG_PORT_CNT_v] s (s.pausesCounted port vec times) :=
  .foldl (fun t _ => .ite _ ((refl _ _ t).bump _ _) (refl ..)) _ s

/-- Each nonzero time of a priority that the frame names is counted once. -/
theorem rd_pausesCounted (s : State) (port vec : Nat) (times : List Nat) {p : Nat} (hp : p < 8) :
    (s.pausesCounted port vec times).rd .TMG_PORT_CNT_v [(portHalf port).n, localIdx port, p]
      = if bit vec p = true ∧ times.getD p 0 ≠ 0 then (s.rd .TMG_PORT_CNT_v [(portHalf port).n, localIdx port, p] + 1) % 2 ^ 64
        else s.rd .TMG_PORT_CNT_v [(portHalf port).n, localIdx port, p] := by
  by_cases hb : bit vec p = true
  · refine foldl_keyed (get := fun t x => State.rd t .TMG_PORT_CNT_v [(portHalf port).n, localIdx port, x]) (key := fun x => x) (inv := fun _ => True)
      (fun t _ _ hk => rd_pauseCount_apart port times t hk) (fun _ _ _ => trivial) (by simpa using nodup_pfcNamed vec) (mem_pfcNamed.2 ⟨hp, hb⟩) trivial
      (fun t _ same => ?_)
    simp only [rd_pauseCount_self, same, hb, true_and]
  · rw [if_neg (fun h => hb h.1)]
    exact foldl_apart (get := fun t x => State.rd t .TMG_PORT_CNT_v [(portHalf port).n, localIdx port, x]) (key := fun x => x)
      (fun t _ _ hk => rd_pauseCount_apart port times t hk) (by simp [mem_pfcNamed, hb]) s

theorem Within.pauseLoad (s : State) (port p quanta : Nat) : Within [.sched] [] s (s.pauseLoad port p quanta) :=
  .ite _ ((refl _ _ s).set_sched _) ((refl _ _ s).set_sched _)

theorem pause_pauseLoad_apart (s : State) {port p : Nat} (quanta : Nat) {k : List Nat} (hk : k ≠ [port, p]) :
    (s.pauseLoad port p quanta).sched.pause.get? k = s.sched.pause.get? k := by
  unfold State.pauseLoad
  split
  · exact (SMap.get?_erase ..).trans (if_neg hk.symm)
  · exact SMap.get?_set_ne _ _ hk.symm

/-- A timer is cleared by time 0, and else loaded with its quanta of 512 bit times (R170). -/
theorem pause_pauseLoad_self (s : State) (port p quanta : Nat) :
    ((s.pauseLoad port p quanta).sched.pause.get? [port, p]).map (fun x => x.2)
      = if quanta = 0 then none else some (s.el200 + quanta * 512 * 200 / s.rate port) := by
  unfold State.pauseLoad
  split
  · simp [SMap.get?_erase]
  · simp

/-- Time and a port's rate where neither has changed. -/
theorem Within.pauseRate {ps : List Part} {fs : List Fld} {s t : State} (h : Within ps fs s t) (port : Nat) (ht : Part.time ∉ ps := by decide)
    (hl : Part.lanes ∉ ps := by decide) : t.el200 = s.el200 ∧ t.rate port = s.rate port := by
  unfold State.el200 State.elapsed State.rate
  rw [h.parts .time ht, h.parts .lanes hl]
  exact ⟨rfl, rfl⟩

theorem Within.pausesLoaded (s : State) (port vec : Nat) (times : List Nat) : Within [.sched] [] s (s.pausesLoaded port vec times) :=
  .foldl (fun t p => .pauseLoad t port p _) _ s

/-- Each timer that the frame names is loaded from its own time. -/
theorem pause_pausesLoaded (s : State) (port : Nat) {vec p : Nat} (times : List Nat) (hp : p < 8) (hb : bit vec p = true) :
    ((s.pausesLoaded port vec times).sched.pause.get? [port, p]).map (fun x => x.2)
      = if times.getD p 0 % 65536 = 0 then none else some (s.el200 + times.getD p 0 % 65536 * 512 * 200 / s.rate port) := by
  refine foldl_keyed (get := fun t k => ((State.sched t).pause.get? k).map (fun x => x.2)) (key := fun p => [port, p]) (inv := Within [.sched] [] s)
    (fun t _ _ hk => by rw [pause_pauseLoad_apart t _ hk]) (fun t p h => h.trans (.pauseLoad t port p _))
    ((nodup_pfcNamed vec).map fun _ _ e => by simpa using e) (mem_pfcNamed.2 ⟨hp, hb⟩) (.refl ..) (fun t h _ => ?_)
  obtain ⟨elapsed, rate⟩ := h.pauseRate port
  rw [pause_pauseLoad_self, elapsed, rate]

theorem pause_pausesLoaded_apart (s : State) {port vec : Nat} (times : List Nat) {k : List Nat} (hk : ∀ p, p < 8 → bit vec p = true → k ≠ [port, p]) :
    (s.pausesLoaded port vec times).sched.pause.get? k = s.sched.pause.get? k := by
  refine foldl_apart (get := fun t k => (State.sched t).pause.get? k) (key := fun p => [port, p]) (fun t _ _ hk => pause_pauseLoad_apart t _ hk) (fun h => ?_) s
  obtain ⟨p, named, e⟩ := List.mem_map.1 h
  obtain ⟨hp, hb⟩ := mem_pfcNamed.1 named
  exact hk p hp hb e.symm

theorem Within.pauseShow (s : State) (port : Nat) : Within [] [.TMG_PFC_STAT_paused] s (s.pauseShow port) := (refl _ _ s).st _ _

/-- PFC_RX at a front-panel port that is UP (R170, R171). -/
theorem pfcRx_loads (s : State) (port vec : Nat) (times : List Nat) (hp : port < 1024) (hu : s.rd .LAN_PORT_STAT_state [port / 128, port % 128] = 4) :
    ∃ t, exec (.pfcRx port vec times) s = .next t ∧ partsBut [.sched] s t ∧ fieldsBut [.TMG_PORT_CNT_v, .TMG_PFC_STAT_paused] s t
      ∧ (∀ p, p < 8 → t.rd .TMG_PORT_CNT_v [(portHalf port).n, localIdx port, p]
          = (if bit vec p = true ∧ times.getD p 0 ≠ 0 then (s.rd .TMG_PORT_CNT_v [(portHalf port).n, localIdx port, p] + 1) % 2 ^ 64
            else s.rd .TMG_PORT_CNT_v [(portHalf port).n, localIdx port, p]))
      ∧ (if s.on .TMG_PORT_CFG_pfc_rx_en [(portHalf port).n, localIdx port] = true then
          (∀ p, p < 8 → bit vec p = true →
            (t.sched.pause.get? [port, p]).map (fun x => x.2)
              = if times.getD p 0 % 65536 = 0 then none else some (s.el200 + times.getD p 0 % 65536 * 512 * 200 / s.rate port))
          ∧ (∀ k, (∀ p, p < 8 → bit vec p = true → k ≠ [port, p]) → t.sched.pause.get? k = s.sched.pause.get? k)
        else t.sched = s.sched) := by
  have run : exec (.pfcRx port vec times) s = .next (settle (doPfcRx port vec times s)) := rfl
  have counted := Within.pausesCounted s port vec times
  have enable : (s.pausesCounted port vec times).on .TMG_PORT_CFG_pfc_rx_en [(portHalf port).n, localIdx port]
      = s.on .TMG_PORT_CFG_pfc_rx_en [(portHalf port).n, localIdx port] := by
    unfold State.on
    rw [counted.rd _ _]
  have sched : (s.pausesCounted port vec times).sched = s.sched := counted.parts .sched (by decide)
  obtain ⟨elapsed, rate⟩ := counted.pauseRate port
  rw [doPfcRx_of_up hp hu, enable] at run
  by_cases hen : s.on .TMG_PORT_CFG_pfc_rx_en [(portHalf port).n, localIdx port] = true
  · rw [if_pos hen] at run
    have loaded := Within.pausesLoaded (s.pausesCounted port vec times) port vec times
    have whole : Within [.sched] [.TMG_PORT_CNT_v, .TMG_PFC_STAT_paused] s (settle (((s.pausesCounted port vec times).pausesLoaded port vec times).pauseShow port)) :=
      ((counted.mono.andThen loaded).andThen (.pauseShow _ port)).settle
    refine ⟨_, run, whole.parts, whole.fields, fun p hlt => ?_, ?_⟩
    · rw [rd_settle, (Within.pauseShow _ port).rd _ _, loaded.rd _ _, rd_pausesCounted s port vec times hlt]
    · rw [if_pos hen]
      exact ⟨fun p hlt hb => elapsed ▸ rate ▸ pause_pausesLoaded _ port times hlt hb,
        fun k hk => (pause_pausesLoaded_apart _ times hk).trans (by rw [sched])⟩
  · rw [if_neg hen] at run
    have whole : Within [.sched] [.TMG_PORT_CNT_v, .TMG_PFC_STAT_paused] s (settle (s.pausesCounted port vec times)) := counted.mono.settle
    refine ⟨_, run, whole.parts, whole.fields, fun p hlt => rd_pausesCounted s port vec times hlt, ?_⟩
    rw [if_neg hen]
    exact sched

/-- A timer that reaches zero is taken away (R170). -/
def State.pauseEnded (s : State) (port prio : Nat) : State := { s with sched := { s.sched with pause := s.sched.pause.erase [port, prio] } }

theorem Within.pauseEnded (s : State) (port prio : Nat) : Within [.sched] [] s (s.pauseEnded port prio) := (refl _ _ s).set_sched _

theorem pause_pauseEnded (s : State) (port prio : Nat) (k : List Nat) :
    (s.pauseEnded port prio).sched.pause.get? k = if [port, prio] = k then none else s.sched.pause.get? k := SMap.get?_erase ..

/-- PAUSE_TIMER_EXPIRY of a timer that runs: its end is reached, and it is cleared (R170). -/
theorem pauseTimer_clears (s : State) (port prio : Nat) (x : Nat × Nat) (hx : s.sched.pause.get? [port, prio] = some x) :
    ∃ t, exec (.pauseTimerExpiry port prio) s = .next t ∧ t.time.elapsed = max s.time.elapsed (ceilDiv x.2 200) ∧ t.pauseRuns port prio = false
      ∧ (∀ k, k ≠ [port, prio] → t.sched.pause.get? k = s.sched.pause.get? k) ∧ partsBut [.sched, .time] s t ∧ fieldsBut [.TMG_PFC_STAT_paused] s t := by
  have run : exec (.pauseTimerExpiry port prio) s = .next (settle (doPauseTimerExpiry port prio s)) := rfl
  have ends : doPauseTimerExpiry port prio s = ((s.runTo (ceilDiv x.2 200)).pauseEnded port prio).pauseShow port := by
    unfold doPauseTimerExpiry
    rw [hx]
    rfl
  rw [ends] at run
  have passes := runTo_passes s (ceilDiv x.2 200)
  generalize s.runTo (ceilDiv x.2 200) = u at run passes
  have timers : u.sched = s.sched := passes.within.parts .sched (by decide)
  have whole : Within [.sched, .time] [.TMG_PFC_STAT_paused] s (settle ((u.pauseEnded port prio).pauseShow port)) :=
    ((passes.within.mono.andThen (.pauseEnded u port prio)).andThen (.pauseShow _ port)).settle
  refine ⟨_, run, passes.elapsed, ?stopped, fun k hk => ?others, whole.parts, whole.fields⟩
  case stopped =>
    have gone : (settle ((u.pauseEnded port prio).pauseShow port)).sched.pause.get? [port, prio] = none := (pause_pauseEnded u port prio _).trans (if_pos rfl)
    unfold State.pauseRuns
    rw [gone]
  case others => exact ((pause_pauseEnded u port prio k).trans (if_neg hk.symm)).trans (by rw [timers])

/-- Settles O27: a PFC frame's counts and loads, each priority by itself, and the end of a timer. -/
theorem pauseTimers : Obligations.PauseTimers := by
  unfold Obligations.PauseTimers
  exact ⟨pfcRx_loads, pauseTimer_clears⟩

end Sys2Proof.Machine

namespace Sys2Proof.Machine

/-! ## Deficit round robin -/

/-- The visiting order has the members of its level (R165). -/
theorem visit_perm (last : Option Nat) (ms : List Member1) : (visit last ms).Perm ms := by
  unfold visit
  split
  · exact .refl ms
  · rename_i l
    have upTo : (fun m : Member1 => decide (m.ix ≤ l)) = fun m => !decide (l < m.ix) := by
      funext m
      rw [← decide_not, decide_eq_decide, Nat.not_lt]
    rw [upTo]
    exact List.filter_append_perm ..

/-- One member's share of a quantum addition, in the deficits (R165). -/
def State.quantumGain (s : State) (unit r : Nat) (dm : SMap Int) (m : Member1) : SMap Int :=
  if m.holds then dm.put m.key (min (s.deficit m + ((r * (m.weight * unit) : Nat) : Int)) ((m.weight * unit : Nat) : Int)) 0 else dm

theorem deficits_quantumAdd (s : State) (unit r : Nat) (ms : List Member1) :
    (s.quantumAdd unit r ms).sched.deficit = ms.foldl (s.quantumGain unit r) s.sched.deficit := rfl

section
variable (s : State) (unit r : Nat) {ms : List Member1} (hd : (ms.map (fun m => m.key)).Nodup) {m : Member1} (hm : m ∈ ms)
include hd hm

/-- A quantum addition brings the weights as written into force (R165). -/
theorem wgtOf_quantumAdd : (s.quantumAdd unit r ms).wgtOf m = m.weight := by
  unfold State.wgtOf State.quantumAdd
  exact foldl_keyed (get := fun (w : SMap Nat) k => w.getD k m.weight) (key := fun m : Member1 => m.key) (inv := fun _ => True)
    (fun w a k hk => by simp [SMap.getD_set, hk.symm]) (fun _ _ _ => trivial) hd hm trivial (fun w _ _ => SMap.getD_set_self ..)

/-- What a quantum addition makes of the deficit of a member that holds a copy (R165). -/
theorem deficit_quantumAdd (hh : m.holds = true) :
    (s.quantumAdd unit r ms).deficit m = min (s.deficit m + ((r * (m.weight * unit) : Nat) : Int)) ((m.weight * unit : Nat) : Int) := by
  unfold State.deficit
  rw [deficits_quantumAdd]
  refine foldl_keyed (get := fun (dm : SMap Int) k => dm.getD k 0) (key := fun m : Member1 => m.key) (inv := fun _ => True) (fun dm a k hk => ?apart)
    (fun _ _ _ => trivial) hd hm trivial (fun dm _ _ => ?here)
  case apart =>
    unfold State.quantumGain
    split
    · rw [SMap.getD_put, if_neg hk.symm]
    · rfl
  case here =>
    rw [State.quantumGain, if_pos hh, SMap.getD_put, if_pos rfl]
    rfl

end

/-- After its rounds a member has a deficit above 0 (R165). -/
theorem rounds_suffice (d : Int) {q : Nat} (hq : 0 < q) : 0 < min (d + ((rounds d q * q : Nat) : Int)) (q : Int) := by
  have quantum : (0 : Int) < q := by exact_mod_cast hq
  refine lt_min ?_ quantum
  unfold rounds
  split
  · push_cast
    omega
  · have whole : 0 ≤ -d / (q : Int) := Int.ediv_nonneg (by omega) quantum.le
    have above : -d < (-d / (q : Int) + 1) * q := Int.lt_ediv_add_one_mul_self (-d) quantum
    push_cast [Int.toNat_of_nonneg whole]
    linarith

/-- The least of several numbers is one of them. -/
theorem exists_eq_foldl_min {β : Type} (n : β → Nat) (a : β) (l : List β) : ∃ x ∈ a :: l, l.foldl (fun r m => min r (n m)) (n a) = n x := by
  induction l generalizing a with
  | nil => exact ⟨a, by simp, rfl⟩
  | cons b l ih =>
    have either : min (n a) (n b) = n a ∨ min (n a) (n b) = n b := min_choice ..
    rw [List.foldl_cons]
    rcases either with e | e
    · obtain ⟨x, hx, least⟩ := ih a
      rw [e]
      exact ⟨x, by simp at hx ⊢; tauto, least⟩
    · obtain ⟨x, hx, least⟩ := ih b
      rw [e]
      exact ⟨x, by simp at hx ⊢; tauto, least⟩

/-- The quantum additions until an eligible member with a weight has a deficit above 0 (R165). -/
def State.roundsTo (s : State) (unit : Nat) (m0 : Member1) (el : List Member1) : Nat :=
  el.foldl (fun r m => min r (rounds (s.deficit m) (m.weight * unit))) (rounds (s.deficit m0) (m0.weight * unit))

/-- A level is served: a member that is eligible, and one without a weight only where no eligible member has one (R165). -/
def DwrrServed (lvl : List Nat) (ms : List Member1) (x : Option Member1 × State) : Prop :=
  ∃ m t, x = (some m, t) ∧ m ∈ ms ∧ m.elig = true ∧ (t.wgtOf m = 0 → ∀ y ∈ ms, y.elig = true → t.wgtOf y = 0) ∧ t.sched.last.get? lvl = some m.ix

section
variable {s : State} {lvl : List Nat} {unit : Nat} {ms order : List Member1}

/-- A member with a deficit above 0 is served as it is. -/
theorem served_of_deficit {m : Member1} (hm : m ∈ ms) (he : m.elig = true) (hw : s.wgtOf m ≠ 0) : DwrrServed lvl ms (s.serveMember lvl m) :=
  ⟨m, _, rfl, hm, he, fun zero => absurd zero hw, SMap.get?_set_self ..⟩

/-- Where no eligible member has a weight, the first of them is served after one quantum addition (log entry 83). -/
theorem served_of_weightless (hp : order.Perm ms) (hd : (order.map (fun m => m.key)).Nodup) {m : Member1} (hm : m ∈ order) (he : m.elig = true)
    (weightless : ∀ x ∈ order, x.elig = true → x.weight = 0) : DwrrServed lvl ms ((s.quantumAdd unit 1 order).serveMember lvl m) :=
  ⟨m, _, rfl, hp.mem_iff.1 hm, he,
    fun _ x hx ex => (wgtOf_quantumAdd s unit 1 hd (hp.mem_iff.2 hx)).trans (weightless x (hp.mem_iff.2 hx) ex), SMap.get?_set_self ..⟩

/-- After the quantum additions some eligible member with a weight has a deficit above 0. -/
theorem exists_deficit_of_rounds (hu : 0 < unit) (hd : (order.map (fun m => m.key)).Nodup) {m0 : Member1} {el : List Member1}
    (mem : ∀ m ∈ m0 :: el, m ∈ order ∧ m.holds = true ∧ m.weight ≠ 0) :
    ∃ m ∈ m0 :: el, 0 < (s.quantumAdd unit (s.roundsTo unit m0 el) order).deficit m := by
  obtain ⟨m, hm, least⟩ := exists_eq_foldl_min (fun m : Member1 => rounds (s.deficit m) (m.weight * unit)) m0 el
  obtain ⟨ho, hh, hw⟩ := mem m hm
  refine ⟨m, hm, ?_⟩
  rw [deficit_quantumAdd s unit _ hd ho hh, State.roundsTo, least]
  exact rounds_suffice _ (Nat.mul_pos (Nat.pos_of_ne_zero hw) hu)

end

/-- Settles O28: the member whose deficit is above 0 at once, or the first without a weight where no eligible one has a weight, or one whose rounds are the fewest. -/
theorem dwrrServes : Obligations.DwrrServes := by
  unfold Obligations.DwrrServes
  intro s lvl unit ms hu hkeys hholds ⟨e, hems, he⟩
  have perm := visit_perm (s.sched.last.get? lvl) ms
  change DwrrServed lvl ms (s.dwrr lvl unit ms)
  unfold State.dwrr
  dsimp only
  generalize visit (s.sched.last.get? lvl) ms = order at perm ⊢
  have distinct : (order.map (fun m => m.key)).Nodup := (perm.map _).nodup_iff.2 hkeys
  split
  case h_1 m found =>
    have test := List.find?_some found
    simp only [Bool.and_eq_true, decide_eq_true_eq] at test
    obtain ⟨⟨elig, weight⟩, -⟩ := test
    exact served_of_deficit (perm.mem_iff.1 (List.mem_of_find?_eq_some found)) elig weight
  case h_2 =>
    split
    case h_1 absent => exact absurd he (List.find?_eq_none.1 absent e (perm.mem_iff.2 hems))
    case h_2 m1 first =>
      have weighted (x : Member1) : x ∈ order.filter (fun m => m.elig && m.weight ≠ 0) ↔ x ∈ order ∧ x.elig = true ∧ x.weight ≠ 0 := by simp
      split
      case h_1 empty =>
        refine served_of_weightless perm distinct (List.mem_of_find?_eq_some first) (List.find?_some first) fun x hx ex => ?_
        have out : x ∉ order.filter (fun m => m.elig && m.weight ≠ 0) := empty ▸ List.not_mem_nil
        simpa [weighted, hx, ex] using out
      case h_2 m0 el list =>
        have inOrder (m : Member1) (hm : m ∈ m0 :: el) : m ∈ order ∧ m.elig = true ∧ m.weight ≠ 0 := (weighted m).1 (list ▸ hm)
        obtain ⟨x, hx, positive⟩ := exists_deficit_of_rounds (s := s) hu distinct fun m hm => by
          obtain ⟨ho, elig, weight⟩ := inOrder m hm
          exact ⟨ho, hholds m (perm.mem_iff.1 ho) elig, weight⟩
        split
        case h_1 m found =>
          obtain ⟨ho, elig, weight⟩ := inOrder m (List.mem_of_find?_eq_some found)
          refine served_of_deficit (perm.mem_iff.1 ho) elig ?_
          rwa [wgtOf_quantumAdd s unit _ distinct ho]
        case h_2 absent => exact absurd positive (by simpa [State.roundsTo] using List.find?_eq_none.1 absent x hx)

end Sys2Proof.Machine

namespace Sys2Proof.Machine

/-! ## A selection and its charges -/

theorem Within.shpCharge (s : State) (k : List Nat) (c : Nat) : Within [.sched] [.SHP_Q_CREDIT_credit] s (s.shpCharge k c) :=
  .ite _ (.setBucket ..) (refl ..)

theorem Within.deficitCharge (s : State) (m : Member1) (c : Nat) : Within [.sched] [] s (s.deficitCharge m c) :=
  .ite _ (refl ..) ((refl _ _ s).set_sched _)

/-- A level's choice changes the schedule only (R165). -/
theorem Within.dwrr (s : State) (lvl : List Nat) (unit : Nat) (ms : List Member1) : Within [.sched] [] s (s.dwrr lvl unit ms).2 := by
  have served (t : State) (m : Member1) : Within [.sched] [] t (t.serveMember lvl m).2 := (refl _ _ t).set_sched _
  have added (r : Nat) (l : List Member1) : Within [.sched] [] s (s.quantumAdd unit r l) := (refl _ _ s).set_sched _
  unfold State.dwrr
  dsimp only
  split
  · exact served ..
  · split
    · exact refl ..
    · split
      · exact (added ..).trans (served ..)
      · split
        · exact (added ..).trans (served ..)
        · exact added ..

theorem Within.of_dwrr {s t : State} {lvl : List Nat} {unit : Nat} {ms : List Member1} {m : Option Member1} (h : s.dwrr lvl unit ms = (m, t)) :
    Within [.sched] [] s t := by
  have chosen := Within.dwrr s lvl unit ms
  rwa [h] at chosen

/-- The congestion mark leaves a frame its number, and one that is not marked as it is (R143). -/
theorem ceMark_spec (s : State) (f : Frame) : (s.ceMark f).id = f.id ∧ (f.ce = false → (s.ceMark f).bytes = f.bytes) := by
  have moves (old new mask : List Byte) (ms : List (Nat × Nat × Nat)) : ∀ seen (g : Frame), Carried g (patchMoves old new mask ms seen g) := by
    induction ms with
    | nil => exact fun _ g => .refl g
    | cons m ms ih =>
      intro seen g
      obtain ⟨cls, idx, off⟩ := m
      unfold patchMoves
      refine .ite _ (ih _ g) (.trans ?_ (ih _ _))
      split
      · exact (Carried.refl g).cset ..
      · exact .refl g
  unfold State.ceMark
  split
  · exact ⟨rfl, fun _ => rfl⟩
  · rename_i marked
    exact ⟨(moves ..).id, fun plain => absurd (.inl (by simp [plain])) marked⟩

/-- The fields of a latency sample (R282, R283). -/
def histFlds : List Fld := [.TEL_HIST_BIN_v, .TEL_HIST_SUM_v, .TEL_HIST_MAX_v]

theorem Within.histSample (s : State) (h : Half) (f : Frame) : Within [] histFlds s (s.histSample h f) :=
  .ite _ (refl ..) ((((refl _ _ s).bump _ _).st _ _).st _ _)

/-- A copy is read where no word has an error. -/
theorem bufRead_clean {s : State} (hp : s.ras.poison = []) (h : Half) (f : Frame) : s.bufRead h f = (false, false, s) := by
  have words (ws : List (List Nat)) : s.bufWords h f ws = (false, s) := by
    unfold State.bufWords
    induction ws with
    | nil => rfl
    | cons w ws ih =>
      rw [List.foldl_cons, eccReadAt_clean hp]
      exact ih
  unfold State.bufRead
  simp only [words]

/-! ### The queue -/

theorem deficitClear_buf (s : State) (k : List Nat) : (s.deficitClear k).buf = s.buf := by
  unfold State.deficitClear
  split <;> rfl

theorem unqueue_buf (s : State) (h : Half) (q id : Nat) :
    (s.unqueue h q id).buf = { s.buf with queues := s.buf.queues.put [h.n, q] ((s.queueIds h q).filter (fun x => x ≠ id)) [] } := by
  unfold State.unqueue
  dsimp only
  split
  · rfl
  · split
    · rw [deficitClear_buf, deficitClear_buf]
      rfl
    · rw [deficitClear_buf]
      rfl

/-- A copy that leaves its queue leaves the others of that half as they are. -/
theorem queueIds_unqueue (s : State) (h : Half) (q x id : Nat) :
    (s.unqueue h q id).queueIds h x = if x = q then (s.queueIds h q).filter (fun i => i ≠ id) else s.queueIds h x := by
  unfold State.queueIds
  rw [unqueue_buf, SMap.getD_put]
  by_cases hx : x = q
  · rw [if_pos hx, if_pos (by rw [hx])]
    rfl
  · rw [if_neg hx, if_neg (by simp [Ne.symm hx])]

theorem queueIds_congr {s t : State} (h : t.buf = s.buf) (x : Half) (q : Nat) : t.queueIds x q = s.queueIds x q := by
  unfold State.queueIds
  rw [h]

theorem copyLen_congr {ps : List Part} {fs : List Fld} {s t : State} (h : Within ps fs s t) (f : Frame) (hp : Fld.SHP_LEN_PROF_overhead ∉ fs := by decide)
    (hq : Fld.TMG_Q_CFG_len_prof ∉ fs := by decide) : t.copyLen f = s.copyLen f := by
  unfold State.copyLen State.counted
  rw [h.rd _ _ hq, h.rd _ _ hp]

/-! ### The release -/

/-- The slice shaper that a group names is charged (R164). -/
def State.sliceCharged (s : State) (h : Half) (k g c : Nat) : State :=
  match s.groupSlice h k g with
  | some key => s.shpCharge key c
  | none => s

theorem Within.sliceCharged (s : State) (h : Half) (k g c : Nat) : Within [.sched] [.SHP_Q_CREDIT_credit] s (s.sliceCharged h k g c) := by
  unfold State.sliceCharged
  split
  · exact shpCharge ..
  · exact refl ..

/-- The shapers and the deficits on a copy's way are charged (R164, R165). -/
def State.selectionCharged (s : State) (port : Nat) (mg mq : Member1) (c : Nat) : State :=
  let h := portHalf port
  let k := localIdx port
  let nodes := ((s.shpCharge [0, h.n, mq.ix] c).shpCharge [1, h.n, k, mg.ix] c).shpCharge [3, h.n, k] c
  ((nodes.sliceCharged h k mg.ix c).deficitCharge mq c).deficitCharge mg c

theorem Within.selectionCharged (s : State) (port : Nat) (mg mq : Member1) (c : Nat) :
    Within [.sched] [.SHP_Q_CREDIT_credit] s (s.selectionCharged port mg mq c) := by
  unfold State.selectionCharged
  extract_lets h k nodes
  have charged : Within [.sched] [.SHP_Q_CREDIT_credit] s nodes := ((shpCharge ..).trans (shpCharge ..)).trans (shpCharge ..)
  exact ((charged.trans (sliceCharged ..)).andThen (deficitCharge ..)).andThen (deficitCharge ..)

/-- A copy leaves its queue and is counted there with its length (R164). -/
def State.dequeued (s : State) (h : Half) (q id c : Nat) : State := ((s.unqueue h q id).bump .TMG_Q_CNT_v [h.n, q, 0] 1).bump .TMG_Q_CNT_v [h.n, q, 1] c

theorem Within.dequeued (s : State) (h : Half) (q id c : Nat) : Within [.buf, .sched] [.TMG_Q_CNT_v] s (s.dequeued h q id c) :=
  (((unqueue s h q id).mono).bump _ _).bump _ _

theorem rd_dequeued (s : State) (h : Half) (q id c : Nat) :
    (s.dequeued h q id c).rd .TMG_Q_CNT_v [h.n, q, 0] = (s.rd .TMG_Q_CNT_v [h.n, q, 0] + 1) % 2 ^ 64
      ∧ (s.dequeued h q id c).rd .TMG_Q_CNT_v [h.n, q, 1] = (s.rd .TMG_Q_CNT_v [h.n, q, 1] + c) % 2 ^ 64 := by
  have before (i : Nat) : (s.unqueue h q id).rd .TMG_Q_CNT_v [h.n, q, i] = s.rd .TMG_Q_CNT_v [h.n, q, i] := (Within.unqueue s h q id).rd _ _
  unfold State.dequeued
  constructor
  · rw [rd_bump, if_neg (by simp), rd_bump, if_pos ⟨rfl, rfl⟩, before]
    rfl
  · rw [rd_bump, if_pos ⟨rfl, rfl⟩, rd_bump, if_neg (by simp), before]
    rfl

/-- The copy as it starts at E00, from a port without timed traffic (R163, R164). -/
def State.leaving (s : State) (port : Nat) (f : Frame) (ts c : Nat) : Frame :=
  { (s.ceMark f).mset 257 11 port with
    loc := .stages, stage := 20, pipe := portPipe port, timed := false, tStart := ts, counted := c, stomp := false, tRef := s.now (portHalf port) }

theorem leaving_spec (s : State) (port : Nat) (f : Frame) (ts c : Nat) : (s.leaving port f ts c).id = f.id ∧ (s.leaving port f ts c).loc = .stages
    ∧ (s.leaving port f ts c).stage = 20 ∧ (s.leaving port f ts c).pipe = portPipe port ∧ (f.ce = false → (s.leaving port f ts c).bytes = f.bytes) := by
  obtain ⟨id, bytes⟩ := ceMark_spec s f
  have carried := (Carried.refl (s.ceMark f)).mset 257 11 port
  unfold State.leaving
  exact ⟨carried.id.trans id, rfl, rfl, rfl, fun plain => carried.bytes.trans (bytes plain)⟩

/-- The copy goes to E00 and its latency is sampled (R164, R282). -/
def State.sentOn (s : State) (port : Nat) (f : Frame) (ts c : Nat) : State :=
  (s.toEnd (s.leaving port f ts c)).histSample (portHalf port) (s.leaving port f ts c)

/-- A release whose words are all good: the charges, the queue, and the copy at E00 with its sample (R164). -/
theorem releaseCopy_clean {s : State} (hp : s.ras.poison = []) (port : Nat) (mg mq : Member1) (f : Frame) (ts : Nat) :
    s.releaseCopy port false mg mq f ts =
      ((s.selectionCharged port mg mq (s.copyLen f)).dequeued (portHalf port) mq.ix f.id (s.copyLen f)).sentOn port f ts (s.copyLen f) := by
  have clean : (s.selectionCharged port mg mq (s.copyLen f)).ras.poison = [] := by rw [(Within.selectionCharged ..).ras, hp]
  unfold State.releaseCopy
  extract_lets h k q c s1 s2 s3
  have read : s3.bufRead h f = (false, false, s3) := bufRead_clean clean h f
  rw [read]
  rfl

/-- The fields that a selection changes (R164, R282). -/
def selectFlds : List Fld := [.TMG_Q_CNT_v, .SHP_Q_CREDIT_credit, .TEL_HIST_BIN_v, .TEL_HIST_SUM_v, .TEL_HIST_MAX_v]

/-- The copy stands at E00, has left its queue and is counted there (R164). -/
structure Released (s t : State) (port q : Nat) (f : Frame) : Prop where
  frame : ∃ g, became s t f.id g ∧ g.loc = .stages ∧ g.stage = 20 ∧ g.pipe = portPipe port ∧ (f.ce = false → g.bytes = f.bytes)
  queue : ∀ x, t.queueIds (portHalf port) x = if x = q then (s.queueIds (portHalf port) q).filter (fun i => i ≠ f.id) else s.queueIds (portHalf port) x
  copies : t.rd .TMG_Q_CNT_v [(portHalf port).n, q, 0] = (s.rd .TMG_Q_CNT_v [(portHalf port).n, q, 0] + 1) % 2 ^ 64
  length : t.rd .TMG_Q_CNT_v [(portHalf port).n, q, 1] = (s.rd .TMG_Q_CNT_v [(portHalf port).n, q, 1] + s.copyLen f) % 2 ^ 64
  within : Within [.frames, .buf, .sched] selectFlds s t

theorem releaseCopy_releases {s : State} (hp : s.ras.poison = []) (port : Nat) (mg mq : Member1) (f : Frame) (ts : Nat) :
    Released s (s.releaseCopy port false mg mq f ts) port mq.ix f := by
  have charged := Within.selectionCharged s port mg mq (s.copyLen f)
  rw [releaseCopy_clean hp]
  generalize s.selectionCharged port mg mq (s.copyLen f) = w at charged ⊢
  have taken := Within.dequeued w (portHalf port) mq.ix f.id (s.copyLen f)
  have queue (x : Nat) := queueIds_unqueue w (portHalf port) mq.ix x f.id
  obtain ⟨copies, length⟩ := rd_dequeued w (portHalf port) mq.ix f.id (s.copyLen f)
  have left : (w.dequeued (portHalf port) mq.ix f.id (s.copyLen f)).buf = (w.unqueue (portHalf port) mq.ix f.id).buf := rfl
  generalize w.dequeued (portHalf port) mq.ix f.id (s.copyLen f) = u at taken copies length left ⊢
  unfold State.sentOn
  obtain ⟨id, there⟩ := leaving_spec u port f ts (s.copyLen f)
  generalize u.leaving port f ts (s.copyLen f) = g at id there ⊢
  have sampled := Within.histSample (u.toEnd g) (portHalf port) g
  generalize (u.toEnd g).histSample (portHalf port) g = t at sampled ⊢
  have before (x : Nat) : w.queueIds (portHalf port) x = s.queueIds (portHalf port) x := queueIds_congr (charged.parts .buf (by decide)) _ x
  have after : t.buf = (w.unqueue (portHalf port) mq.ix f.id).buf := (sampled.parts .buf (by decide)).trans left
  have start : Within [.frames, .buf, .sched] selectFlds s u := (charged.mono (ps := [.frames, .buf, .sched]) (fs := selectFlds)).andThen taken
  exact {
    frame := ⟨g, became_congr (became_toEnd u id) (taken.frames.trans charged.frames) sampled.frames, there⟩
    queue := fun x => by rw [queueIds_congr after, queue, before, before]
    copies := by rw [sampled.rd _ _, rd_toEnd, copies, charged.rd _ _]
    length := by rw [sampled.rd _ _, rd_toEnd, length, charged.rd _ _]
    within := (start.toEnd g).andThen sampled }

/-- What was done before the release, in the schedule alone, does not matter to it. -/
theorem Released.after {s v t : State} {port q : Nat} {f : Frame} (h : Released v t port q f) (k : Within [.sched] [] s v) : Released s t port q f := by
  obtain ⟨⟨g, became, there⟩, queue, copies, length, within⟩ := h
  have same (x : Nat) : v.queueIds (portHalf port) x = s.queueIds (portHalf port) x := queueIds_congr (k.parts .buf (by decide)) _ x
  refine ⟨⟨g, became_congr became k.frames rfl, there⟩, fun x => ?_, ?_, ?_, k.mono.trans within⟩
  · rw [queue, same, same]
  · rw [copies, k.rd _ _]
  · rw [length, k.rd _ _, copyLen_congr k]

/-- The group that a port's highest level with an eligible group serves (R164, R165). -/
def State.chooseGroup (s : State) (port unit : Nat) : Option Member1 × State :=
  let level := topLevel (fun m => s.rd .TMG_GRP_CFG_prio [(portHalf port).n, localIdx port, m.ix]) (s.groupMembers port false)
  s.dwrr [(portHalf port).n, 1, localIdx port, level.1] unit level.2

/-- The queue that a group's highest level with an eligible queue serves (R164, R165). -/
def State.chooseQueue (s : State) (port g unit : Nat) : Option Member1 × State :=
  let level := topLevel (fun m => s.rd .TMG_Q_CFG_prio [(portHalf port).n, m.ix]) (s.queueMembers port g false)
  s.dwrr [(portHalf port).n, 0, 4 * localIdx port + g, level.1] unit level.2

/-- A selection at an untimed port releases the head of the queue that the two levels choose (R163, R164). -/
theorem doSchedulerSelect_of_choice {s u v : State} {port unit x : Nat} {mg mq : Member1} {f : Frame} (ht : s.timedPort port = false)
    (ha : s.accepts port = true) (hu : unit = 64 * 2 ^ min 10 (s.rd .TMG_PORT_CFG_q_unit [(portHalf port).n, localIdx port]))
    (he : (s.groupMembers port false).any (fun m => m.elig) = true) (hg : s.chooseGroup port unit = (some mg, u))
    (hq : u.chooseQueue port mg.ix unit = (some mq, v)) (hf : v.queueOk port mq.ix false = some (f, x)) :
    doSchedulerSelect port s = v.releaseCopy port false mg mq f x := by
  subst hu
  unfold State.chooseGroup at hg
  unfold State.chooseQueue at hq
  unfold doSchedulerSelect
  simp only [ht, ha, he, hg, hq, hf, Bool.false_eq_true, if_false, not_true_eq_false]

/-- Settles O29: the choice of the two levels changes the schedule only, and the release then does its work. -/
theorem schedulerSelects : Obligations.SchedulerSelects := by
  unfold Obligations.SchedulerSelects
  rintro s u v port k unit h mg mq f x rfl rfl ht ha hu he hg hq hf hp
  have run : exec (.schedulerSelect port) s = .next (settle (doSchedulerSelect port s)) := rfl
  rw [doSchedulerSelect_of_choice ht ha hu he hg hq hf] at run
  have chosen : Within [.sched] [] s v := (Within.of_dwrr hg).trans (Within.of_dwrr hq)
  have released := (releaseCopy_releases (by rw [chosen.ras, hp]) port mg mq f x).after chosen
  generalize v.releaseCopy port false mg mq f x = t at run released
  obtain ⟨⟨g, became, loc, stage, pipe, bytes⟩, queue, copies, length, within⟩ := released
  refine ⟨_, g, run, became_settle became, loc, stage, pipe, bytes, (queue _).trans (if_pos rfl), fun q hq => (queue q).trans (if_neg hq), copies, length,
    within.settle.parts, within.settle.fields⟩

end Sys2Proof.Machine

/-! SUPPORT. Network time: waiting writes, the watchdog and holdover (O36). -/

namespace Sys2Proof.Machine

/-! ## Writes of the register view (R179–R183) -/

/-- A flag that is set reads 1. -/
theorem rd_st_one (s : State) (f : Fld) (ix : List Nat) (hf : f.info.w = 1 := by rfl) : (s.st f ix 1).rd f ix = 1 := by
  rw [rd_st_self, hf]
  rfl

theorem rd_bump_self (s : State) (f : Fld) (ix : List Nat) (n : Nat) : (s.bump f ix n).rd f ix = (s.rd f ix + n) % 2 ^ f.info.w := rd_st_self ..

theorem on_eq_false {s : State} {f : Fld} {ix : List Nat} : s.on f ix = false ↔ s.rd f ix = 0 := by simp [State.on]

theorem on_eq_true {s : State} {f : Fld} {ix : List Nat} : s.on f ix = true ↔ s.rd f ix ≠ 0 := by simp [State.on]

/-- The apply edge of a write is the first multiple of 1,024 ticks at least 2,048 away (R179). -/
theorem applyEdge_spec (s : State) : s.applyEdge % 1024 = 0 ∧ s.time.elapsed + 2048 ≤ s.applyEdge ∧ s.applyEdge < s.time.elapsed + 3072 := by
  unfold State.applyEdge ceilDiv State.elapsed
  omega

@[simp] theorem applyEdge_later (s : State) (f : Fld) (ix : List Nat) (v : Nat) : (s.later f ix v).applyEdge = s.applyEdge := rfl

@[simp] theorem pendCfg_later (s : State) (f : Fld) (ix : List Nat) (v : Nat) :
    (s.later f ix v).time.pendCfg = s.time.pendCfg ++ [(s.applyEdge, f, ix, v)] := rfl

@[simp] theorem pendCfg_wdRestart (s : State) : s.wdRestart.time.pendCfg = s.time.pendCfg := rfl

theorem Within.later {s t : State} (h : Within [.time] [] s t) (f : Fld) (ix : List Nat) (v : Nat) : Within [.time] [] s (t.later f ix v) := h.set_time _

theorem Within.wdRestart {s t : State} (h : Within [.time] [] s t) : Within [.time] [] s t.wdRestart := h.set_time _

/-- A write of the register view that waits for its apply edge, and nothing else. -/
theorem later_waits (s : State) (f : Fld) (ix : List Nat) (v : Nat) :
    ∃ e, (settle (s.later f ix v)).time.pendCfg = s.time.pendCfg ++ [(e, f, ix, v)] ∧ e % 1024 = 0 ∧ s.time.elapsed + 2048 ≤ e ∧ e < s.time.elapsed + 3072
      ∧ partsBut [.time] s (settle (s.later f ix v)) ∧ fieldsBut [] s (settle (s.later f ix v)) := by
  obtain ⟨edge, early, late⟩ := applyEdge_spec s
  have all := ((Within.refl [.time] [] s).later f ix v).settle
  exact ⟨s.applyEdge, rfl, edge, early, late, all.parts, all.fields⟩

section
variable {s : State} {value : Nat}

/-- A value outside the range of R180 only sets INC_RANGE. -/
theorem doTimIncWrite_of_out (h : value % 2 ^ 40 < 0xFFBE76C9 ∨ 0x100418937 < value % 2 ^ 40) :
    doTimIncWrite value s = s.st .TIM_STAT_inc_range [0] 1 := if_pos h

variable (lo : 0xFFBE76C9 ≤ value % 2 ^ 40) (hi : value % 2 ^ 40 ≤ 0x100418937)
include lo hi

/-- In a holdover that holds, or without lockstep, a value within the range is refused and counted (R183, R185). -/
theorem doTimIncWrite_of_refused (h : (s.holdNext ≠ 0 ∧ s.on .TIM_CFG_hold_en [0] = true) ∨ s.on .TIM_STAT_lockstep_lost [0] = true) :
    doTimIncWrite value s = (s.st .TIM_STAT_inc_refused [0] 1).bump .TIM_CNT_v [0, 4] 1 := by
  unfold doTimIncWrite
  rw [if_neg (by omega), if_pos h]

/-- Otherwise it waits for its apply edge, and the watchdog restarts (R179, R180, R183). -/
theorem doTimIncWrite_of_held (hh : s.holdNext = 0 ∨ s.on .TIM_CFG_hold_en [0] = false) (hl : s.on .TIM_STAT_lockstep_lost [0] = false) :
    doTimIncWrite value s = (s.later .TIM_INC_inc [0] (value % 2 ^ 40)).wdRestart := by
  have free : ¬ ((s.holdNext ≠ 0 ∧ s.on .TIM_CFG_hold_en [0] = true) ∨ s.on .TIM_STAT_lockstep_lost [0] = true) := by
    rcases hh with hh | hh <;> simp [hh, hl]
  unfold doTimIncWrite
  rw [if_neg (by omega), if_neg free]

end

/-- The step that is requested now, of the values last written (R181). -/
def State.stagedStep (s : State) : StepReq :=
  ⟨s.applyEdge, decide (s.lastW .TIM_STEP_LO_neg [0] ≠ 0), decide (s.lastW .TIM_STEP_LO_abs [0] ≠ 0),
    s.lastW .TIM_STEP_HI_sec [0] * tsSec + s.lastW .TIM_STEP_LO_ns [0] * tsNs + s.lastW .TIM_STEP_LO_frac [0] * 65536⟩

theorem doStepGo_of_free {s : State} (h : s.rd .TIM_STAT_step_pend [0] = 0) :
    doStepGo s = ({ s with time := { s.time with pendStep := some s.stagedStep } } : State).st .TIM_STAT_step_pend [0] 1 := by
  unfold doStepGo
  rw [if_neg (by simp [on_eq_false.2 h])]
  simp [State.stagedStep, bne, beq_eq_decide]

theorem doStepGo_of_waiting {s : State} (h : s.rd .TIM_STAT_step_pend [0] ≠ 0) : doStepGo s = s.st .TIM_STAT_step_busy [0] 1 := if_pos (on_eq_true.2 h)

theorem holdover_of_calm {s : State} {cause : Nat} (h : s.rd .TIM_STAT_holdover [0] = 0) :
    s.holdover cause = (s.st .TIM_STAT_holdover [0] 1).raise 0x0030 2 [(0, 1, cause)] := if_neg (by simp [on_eq_false.2 h])

theorem doWatchdogExpiry_of_armed {s : State} (hh : s.rd .TIM_STAT_holdover [0] = 0) (hw : s.rd .TIM_CFG_wd_ms [0] ≠ 0) :
    doWatchdogExpiry s = (s.runTo (s.time.wdStart + s.rd .TIM_CFG_wd_ms [0] * 1000000)).holdover 1 := if_neg (by simp [hw, on_eq_false.2 hh])

/-- Settles O36: each write of the register view in turn, and the watchdog's expiry after the time that it waits for. -/
theorem timeCommands : Obligations.TimeCommands := by
  unfold Obligations.TimeCommands
  refine ⟨?inc, fun s => ⟨?step, ?busy⟩, ?cfg, fun s => ⟨?gm, ?exit⟩, ?watchdog⟩
  case inc =>
    rintro s value v rfl
    refine ⟨fun out reached => ?_, fun lo hi => ⟨fun held reached => ?_, fun free lock reached => ?_⟩⟩
    · have run : exec (.timIncWrite value) s = _ := doneReg_of_reached _ reached
      rw [doTimIncWrite_of_out out] at run
      have all := ((Within.refl [] [.TIM_STAT_inc_range] s).st (f := .TIM_STAT_inc_range) [0] 1).settle
      exact ⟨_, run, rd_st_one s .TIM_STAT_inc_range [0], all.parts, all.fields⟩
    · have run : exec (.timIncWrite value) s = _ := doneReg_of_reached _ reached
      rw [doTimIncWrite_of_refused lo hi held] at run
      have all := (((Within.refl [] [.TIM_STAT_inc_refused, .TIM_CNT_v] s).st (f := .TIM_STAT_inc_refused) [0] 1).bump (f := .TIM_CNT_v) [0, 4] 1).settle
      refine ⟨_, run, ?_, ?_, all.parts, all.fields⟩
      · rw [rd_settle, rd_bump, if_neg (by decide)]
        exact rd_st_one s .TIM_STAT_inc_refused [0]
      · rw [rd_settle, rd_bump_self, rd_st_of_ne _ _ _ _ (by decide)]
        rfl
    · have run : exec (.timIncWrite value) s = _ := doneReg_of_reached _ reached
      rw [doTimIncWrite_of_held lo hi free lock] at run
      obtain ⟨edge, early, late⟩ := applyEdge_spec s
      have all := ((Within.refl [.time] [] s).later .TIM_INC_inc [0] (value % 2 ^ 40)).wdRestart.settle
      exact ⟨_, s.applyEdge, run, rfl, rfl, edge, early, late, rfl, all.parts, all.fields⟩
  case step =>
    intro none reached
    have run : exec .stepGo s = _ := doneReg_of_reached _ reached
    rw [doStepGo_of_free none] at run
    obtain ⟨edge, early, late⟩ := applyEdge_spec s
    have all := (((Within.refl [.time] [.TIM_STAT_step_pend] s).set_time { s.time with pendStep := some s.stagedStep }).st (f := .TIM_STAT_step_pend) [0] 1).settle
    refine ⟨_, s.stagedStep, run, by simp, edge, early, late, rfl, rfl, ?_, ?_, by simp, all.parts, all.fields⟩
    · rw [State.stagedStep]
    · exact (rd_settle ..).trans (rd_st_one _ .TIM_STAT_step_pend [0])
  case busy =>
    intro waits reached
    have run : exec .stepGo s = _ := doneReg_of_reached _ reached
    rw [doStepGo_of_waiting waits] at run
    have all := ((Within.refl [] [.TIM_STAT_step_busy] s).st (f := .TIM_STAT_step_busy) [0] 1).settle
    exact ⟨_, run, rd_st_one s .TIM_STAT_step_busy [0], all.parts, all.fields⟩
  case cfg =>
    intro s value reached
    have run : exec (.timCfgWrite value) s = _ := doneReg_of_reached _ reached
    obtain ⟨edge, early, late⟩ := applyEdge_spec s
    have all := (((((Within.refl [.time] [] s).later .TIM_CFG_ref_src [0] (bits value 0 2)).later .TIM_CFG_hold_en [0] (bits value 2 1)).later .TIM_CFG_guard_en [0]
      (bits value 3 1)).later .TIM_CFG_wd_ms [0] (bits value 4 16)).wdRestart.settle
    exact ⟨_, s.applyEdge, run, rfl, by simp [doTimCfgWrite], edge, early, late, all.parts, all.fields⟩
  case gm =>
    intro reached
    obtain ⟨e, waits⟩ := later_waits s .TIM_STAT_holdover [0] 2
    exact ⟨_, e, doneReg_of_reached doGmSet reached, waits⟩
  case exit =>
    intro reached
    obtain ⟨e, waits⟩ := later_waits s .TIM_STAT_holdover [0] 1
    exact ⟨_, e, doneReg_of_reached doHoldoverExit reached, waits⟩
  case watchdog =>
    intro s calm armed
    have run : exec .watchdogExpiry s = .next (settle (doWatchdogExpiry s)) := rfl
    rw [doWatchdogExpiry_of_armed calm armed] at run
    obtain ⟨within, -, elapsed, pre, events⟩ := runTo_passes s (s.time.wdStart + s.rd .TIM_CFG_wd_ms [0] * 1000000)
    generalize s.runTo _ = u at run within elapsed events
    rw [holdover_of_calm ((within.rd _ _).trans calm)] at run
    have all := ((within.mono.st (ps := [.time]) (fs := [.TIM_STAT_holdover]) (f := .TIM_STAT_holdover) [0] 1).raise 0x0030 2 [(0, 1, 1)]).settle
    refine ⟨_, pre, run, ?_, ?_, ?_, all.parts, all.fields⟩
    · rw [rd_settle, rd_raise _ _ _ _ _ rfl]
      exact rd_st_one u .TIM_STAT_holdover [0]
    · rw [settle_time, raise_time, st_time, elapsed]
    · rw [settle_host, raise_events, st_host, ← events]

end Sys2Proof.Machine

/-! SUPPORT. Network time: transmit timestamps and the TIO pins (O38). -/

namespace Sys2Proof.Machine

/-! ## Transmit timestamps (R195, R196) -/

theorem Within.answer {ps : List Part} {fs : List Fld} {s t : State} (h : Within ps fs s t) (v : Nat) : Within ps fs s (t.answer v) :=
  ⟨partsBut_answer h.parts v, h.fields⟩

theorem txts_setTxts_self (s : State) (h : Half) (q : List TxTs) : (s.setTxts h q).txts h = q := by cases h <;> rfl

theorem txts_setTxts_other (s : State) (h : Half) (q : List TxTs) : (s.setTxts h q).txts h.other = s.txts h.other := by cases h <;> rfl

theorem txts_settle (s : State) (h : Half) : (settle s).txts h = s.txts h := rfl

theorem txts_answer (s : State) (v : Nat) (h : Half) : (s.answer v).txts h = s.txts h := rfl

theorem txtsReq_setTxts (s : State) (h : Half) (q : List TxTs) : (s.setTxts h q).time.txtsReq = s.time.txtsReq := by cases h <;> rfl

theorem host_setTxts (s : State) (h : Half) (q : List TxTs) : (s.setTxts h q).host = s.host := by cases h <;> rfl

theorem Within.setTxts {s t : State} (w : Within [.time] [] s t) (h : Half) (q : List TxTs) : Within [.time] [] s (t.setTxts h q) := by
  cases h
  all_goals exact w.set_time _

theorem txts_congr {s t : State} (h : t.time = s.time) (x : Half) : t.txts x = s.txts x := by
  unfold State.txts
  rw [h]

/-- The entry that a half's lanes owe is taken from those that are owed. -/
def State.txtsTaken (s : State) (e : Half × TxTs) : State := { s with time := { s.time with txtsReq := s.time.txtsReq.erase e } }

theorem txts_txtsTaken (s : State) (e : Half × TxTs) (h : Half) : (s.txtsTaken e).txts h = s.txts h := by cases h <;> rfl

theorem Within.txtsTaken (s : State) (e : Half × TxTs) : Within [.time] [] s (s.txtsTaken e) := (refl _ _ s).set_time _

/-- It joins its half's queue (R195). -/
def State.txtsJoined (s : State) (h : Half) (e : Half × TxTs) : State := (s.txtsTaken e).setTxts h (s.txts h ++ [e.2])

/-- The overflow bit of a half's queue (R196). -/
def txtsOvf (h : Half) : Fld := match h with | .E => .TIM_STAT_txts_ovf_e | .W => .TIM_STAT_txts_ovf_w

section
variable {s : State} {h : Half} {e : Half × TxTs} (he : s.time.txtsReq.find? (fun e => e.1 = h) = some e)
include he

/-- An entry that finds room joins its queue, and an event tells of the first one (R195). -/
theorem doTxtsEntry_of_room (hq : (s.txts h).length < 256) :
    doTxtsEntry h s = if (s.txts h).isEmpty then (s.txtsJoined h e).raise 0x0034 h.n [(0, 1, h.n)] else s.txtsJoined h e := by
  unfold doTxtsEntry
  rw [he]
  exact if_neg (by rw [← txts_txtsTaken s e] at hq; exact Nat.not_le.2 hq)

/-- One that finds the queue full is lost and counted (R196). -/
theorem doTxtsEntry_of_full (hq : 256 ≤ (s.txts h).length) : doTxtsEntry h s = ((s.txtsTaken e).st (txtsOvf h) [0] 1).bump .TIM_CNT_v [0, h.n] 1 := by
  unfold doTxtsEntry
  rw [he]
  exact if_pos (by rw [← txts_txtsTaken s e] at hq; exact hq)

theorem txtsEntry_joins (hq : (s.txts h).length < 256) :
    ∃ t, exec (.txtsEntry h) s = .next t ∧ t.txts h = s.txts h ++ [e.2] ∧ t.txts h.other = s.txts h.other
      ∧ t.time.txtsReq = s.time.txtsReq.erase e
      ∧ t.host.events = s.host.events ++ (if (s.txts h).isEmpty then [⟨0x0034, h.n, record 32 [(0, 1, h.n)]⟩] else []) ∧ partsBut [.time] s t ∧ fieldsBut [] s t := by
  have run : exec (.txtsEntry h) s = .next (settle (doTxtsEntry h s)) := rfl
  rw [doTxtsEntry_of_room he hq] at run
  have joined : Within [.time] [] s (s.txtsJoined h e) := (Within.txtsTaken s e).setTxts h _
  have told : Reports (s.txtsJoined h e) (if (s.txts h).isEmpty then (s.txtsJoined h e).raise 0x0034 h.n [(0, 1, h.n)] else s.txtsJoined h e) :=
    .ite _ ((Reports.refl _).raise ..) (.refl _)
  have time := (settle_time _).trans told.time
  have all := (joined.report told).settle
  refine ⟨_, run, ?_, ?_, ?_, ?_, all.parts, all.fields⟩
  · exact (txts_congr time h).trans (txts_setTxts_self ..)
  · exact ((txts_congr time h.other).trans (txts_setTxts_other ..)).trans (txts_txtsTaken ..)
  · exact (congrArg Time.txtsReq time).trans (txtsReq_setTxts ..)
  · have same : (s.txtsJoined h e).host = s.host := host_setTxts ..
    rw [settle_host]
    split
    · rw [raise_events, same]
    · rw [same, List.append_nil]

theorem txtsEntry_lost (hq : 256 ≤ (s.txts h).length) :
    ∃ t, exec (.txtsEntry h) s = .next t ∧ t.txts h = s.txts h ∧ t.rd .TIM_CNT_v [0, h.n] = (s.rd .TIM_CNT_v [0, h.n] + 1) % 2 ^ 64
      ∧ t.time.txtsReq = s.time.txtsReq.erase e ∧ partsBut [.time] s t ∧ fieldsBut [.TIM_CNT_v, .TIM_STAT_txts_ovf_e, .TIM_STAT_txts_ovf_w] s t := by
  have run : exec (.txtsEntry h) s = .next (settle (doTxtsEntry h s)) := rfl
  rw [doTxtsEntry_of_full he hq] at run
  have flag : txtsOvf h ∈ [Fld.TIM_CNT_v, .TIM_STAT_txts_ovf_e, .TIM_STAT_txts_ovf_w] := by cases h <;> decide
  have all := ((((Within.txtsTaken s e).mono (ps := [.time]) (fs := [.TIM_CNT_v, .TIM_STAT_txts_ovf_e, .TIM_STAT_txts_ovf_w])).st [0] 1 flag).bump (f := .TIM_CNT_v) [0, h.n] 1).settle
  refine ⟨_, run, ?_, ?_, ?_, all.parts, all.fields⟩
  · rw [txts_congr (s := s.txtsTaken e) (by simp), txts_txtsTaken]
  · rw [rd_settle, rd_bump_self, rd_st_of_ne _ _ _ _ (by cases h <;> decide)]
    rfl
  · simp [State.txtsTaken]

end

theorem txtsPop_pops {s : State} {h : Half} {e : TxTs} {q : List TxTs} (hq : s.txts h = e :: q) (reached : s.regOff false = false) :
    ∃ t, exec (.txtsPop h) s = .next t ∧ t.txts h = q ∧ t.txts h.other = s.txts h.other ∧ t.host.resp = tFrac e.t + tSec (tRound e.t) % 2 ^ 48 * 2 ^ 16
      ∧ partsBut [.time] s t ∧ fieldsBut [] s t := by
  have run : exec (.txtsPop h) s = doneReg false (doTxtsPop h) s := rfl
  have popped : doTxtsPop h s = (s.setTxts h q).answer (tFrac e.t + tSec (tRound e.t) % 2 ^ 48 * 2 ^ 16) := by
    unfold doTxtsPop
    rw [hq, State.answer, host_setTxts]
  rw [doneReg_of_reached _ reached, popped] at run
  have all := (((Within.refl [.time] [] s).setTxts h q).answer (tFrac e.t + tSec (tRound e.t) % 2 ^ 48 * 2 ^ 16)).settle
  refine ⟨_, run, ?_, ?_, by rw [settle_host, answer_resp], all.parts, all.fields⟩
  · rw [txts_settle, txts_answer, txts_setTxts_self]
  · rw [txts_settle, txts_answer, txts_setTxts_other]

/-! ## Edges at the timing pins (R199) -/

/-- The present instant is that of the pin's last edge taken. -/
def State.tioTaken (s : State) (pin : Nat) : State := { s with time := { s.time with tioLast := s.time.tioLast.set [pin] s.elapsed } }

/-- The pins' queues replaced. -/
def State.setTio (s : State) (m : SMap (List (Bool × Ts))) : State := { s with time := { s.time with tio := m } }

theorem Within.tioTaken (s : State) (pin : Nat) : Within [.time] [] s (s.tioTaken pin) := (refl _ _ s).set_time _

theorem Within.setTio {s t : State} (h : Within [.time] [] s t) (m : SMap (List (Bool × Ts))) : Within [.time] [] s (t.setTio m) := h.set_time _

section
variable {s : State} {pin : Nat} {rising : Bool} (hm : s.rd .TIM_TIO_CFG_mode [0, pin] = 1)
  (he : bit (s.rd .TIM_TIO_CFG_edge [0, pin]) (if rising then 0 else 1) = true) (hl : ∀ l, s.time.tioLast.get? [pin] = some l → l + 16 ≤ s.time.elapsed)
include hm he hl

/-- An edge that is taken becomes the last one; it joins its pin's queue, or is counted where that holds 16 (R199). -/
theorem doTioEdge_of_taken :
    doTioEdge pin rising s =
      if 16 ≤ (s.time.tio.getD [pin] []).length then (s.tioTaken pin).bump .TIM_CNT_v [0, 7 + pin] 1
      else (s.tioTaken pin).setTio (s.time.tio.set [pin] (s.time.tio.getD [pin] [] ++ [(!rising, s.time.tE)])) := by
  refine if_neg ?_
  rintro (idle | near)
  · simp [hm, he] at idle
  · split at near
    · exact absurd (hl _ ‹_›) (Nat.not_le.2 (of_decide_eq_true near))
    · exact Bool.false_ne_true near

theorem tioEdge_joins (hq : (s.time.tio.getD [pin] []).length < 16) :
    ∃ t, exec (.tioEdge pin rising) s = .next t ∧ t.time.tio.getD [pin] [] = s.time.tio.getD [pin] [] ++ [(!rising, s.time.tE)]
      ∧ t.time.tioLast.get? [pin] = some s.time.elapsed ∧ partsBut [.time] s t ∧ fieldsBut [] s t := by
  have run : exec (.tioEdge pin rising) s = .next (settle (doTioEdge pin rising s)) := rfl
  rw [doTioEdge_of_taken hm he hl, if_neg (Nat.not_le.2 hq)] at run
  have all := ((Within.tioTaken s pin).setTio (s.time.tio.set [pin] (s.time.tio.getD [pin] [] ++ [(!rising, s.time.tE)]))).settle
  exact ⟨_, run, SMap.getD_set_self .., SMap.get?_set_self .., all.parts, all.fields⟩

theorem tioEdge_lost (hq : 16 ≤ (s.time.tio.getD [pin] []).length) :
    ∃ t, exec (.tioEdge pin rising) s = .next t ∧ t.time.tio = s.time.tio
      ∧ t.rd .TIM_CNT_v [0, 7 + pin] = (s.rd .TIM_CNT_v [0, 7 + pin] + 1) % 2 ^ 64 ∧ partsBut [.time] s t ∧ fieldsBut [.TIM_CNT_v] s t := by
  have run : exec (.tioEdge pin rising) s = .next (settle (doTioEdge pin rising s)) := rfl
  rw [doTioEdge_of_taken hm he hl, if_pos hq] at run
  have all := (((Within.tioTaken s pin).mono (ps := [.time]) (fs := [.TIM_CNT_v])).bump (f := .TIM_CNT_v) [0, 7 + pin] 1).settle
  exact ⟨_, run, rfl, (rd_settle ..).trans (rd_bump_self ..), all.parts, all.fields⟩

end

theorem tioCapPop_pops {s : State} {pin : Nat} {e : Bool × Ts} {q : List (Bool × Ts)} (hq : s.time.tio.getD [pin] [] = e :: q) (reached : s.regOff false = false) :
    ∃ t, exec (.tioCapPop pin) s = .next t ∧ t.time.tio.getD [pin] [] = q ∧ t.host.resp = tFrac e.2 + tSec (tRound e.2) % 2 ^ 48 * 2 ^ 16
      ∧ partsBut [.time] s t ∧ fieldsBut [] s t := by
  have run : exec (.tioCapPop pin) s = .next (settle (doTioCapPop pin s)) := doneReg_of_reached _ reached
  have popped : doTioCapPop pin s = (s.setTio (s.time.tio.put [pin] q [])).answer (tFrac e.2 + tSec (tRound e.2) % 2 ^ 48 * 2 ^ 16) := by
    unfold doTioCapPop
    rw [hq]
    rfl
  rw [popped] at run
  have all := (((Within.refl [.time] [] s).setTio (s.time.tio.put [pin] q [])).answer (tFrac e.2 + tSec (tRound e.2) % 2 ^ 48 * 2 ^ 16)).settle
  exact ⟨_, run, (SMap.getD_put ..).trans (if_pos rfl), rfl, all.parts, all.fields⟩

/-! ## Pulses at the timing pins (R200) -/

/-- The pulse that runs at a pin has ended. -/
def State.pulseEnded (s : State) (pin : Nat) : State :=
  { s with time := { s.time with tioHigh := s.time.tioHigh.erase [pin], tioPin := s.time.tioPin.erase [pin] } }

/-- The nanosecond at which a pin's next pulse begins. -/
def State.pulseNext (s : State) (pin : Nat) : Nat := s.tioNext pin (max (s.time.tioFirst.getD [pin] 0) s.time.tE)

/-- A pulse begins at a pin, at a nanosecond of its sequence. -/
def State.pulseBegun (s : State) (pin x : Nat) : State :=
  { s with time := { s.time with
    tioPin := s.time.tioPin.set [pin] true
    tioHigh := s.time.tioHigh.set [pin] (s.elapsed + s.rd .TIM_TIO_OUT_width [0, pin])
    tioFirst := s.time.tioFirst.set [pin] (x * tsNs + 1) } }

theorem Within.pulseEnded {s t : State} (h : Within [.time] [] s t) (pin : Nat) : Within [.time] [] s (t.pulseEnded pin) := h.set_time _

theorem Within.pulseBegun {s t : State} (h : Within [.time] [] s t) (pin x : Nat) : Within [.time] [] s (t.pulseBegun pin x) := h.set_time _

/-- A pulse holds its pin high for the width of its settings. -/
theorem pulseBegun_spec (s : State) (pin x : Nat) : (s.pulseBegun pin x).time.tioPin.get? [pin] = some true
    ∧ (s.pulseBegun pin x).time.tioHigh.get? [pin] = some ((s.pulseBegun pin x).time.elapsed + s.rd .TIM_TIO_OUT_width [0, pin]) :=
  ⟨SMap.get?_set_self .., SMap.get?_set_self ..⟩

section
variable {s : State} {pin : Nat} (hm : s.rd .TIM_TIO_CFG_mode [0, pin] = 2) (hb : s.tioBad pin = false)
include hm hb

theorem doTioOutputEdge_of_low (hh : s.time.tioHigh.get? [pin] = none) :
    doTioOutputEdge pin s = (s.runUntil .E (s.pulseNext pin)).pulseBegun pin (s.pulseNext pin) := by
  unfold doTioOutputEdge
  rw [if_neg (by simp [hm, hb]), hh]
  rfl

theorem doTioOutputEdge_of_high {e : Nat} (hh : s.time.tioHigh.get? [pin] = some e) : doTioOutputEdge pin s = (s.runTo e).pulseEnded pin := by
  unfold doTioOutputEdge
  rw [if_neg (by simp [hm, hb]), hh]
  rfl

theorem tioOutputEdge_begins (hh : s.time.tioHigh.get? [pin] = none) :
    ∃ t, exec (.tioOutputEdge pin) s = .next t ∧ t.time.tioPin.get? [pin] = some true
      ∧ t.time.tioHigh.get? [pin] = some (t.time.elapsed + s.rd .TIM_TIO_OUT_width [0, pin]) ∧ partsBut [.time] s t ∧ fieldsBut [] s t := by
  have run : exec (.tioOutputEdge pin) s = .next (settle (doTioOutputEdge pin s)) := rfl
  rw [doTioOutputEdge_of_low hm hb hh] at run
  have passed : Within [.time] [] s (s.runUntil .E (s.pulseNext pin)) := (runTo_passes s _).within
  generalize s.runUntil .E (s.pulseNext pin) = u at run passed
  have width := passed.rd .TIM_TIO_OUT_width [0, pin]
  have all := (passed.pulseBegun pin (s.pulseNext pin)).settle
  obtain ⟨high, till⟩ := pulseBegun_spec u pin (s.pulseNext pin)
  rw [width] at till
  exact ⟨_, run, settle_time _ ▸ high, settle_time _ ▸ till, all.parts, all.fields⟩

theorem tioOutputEdge_ends {e : Nat} (hh : s.time.tioHigh.get? [pin] = some e) :
    ∃ t, exec (.tioOutputEdge pin) s = .next t ∧ t.time.tioPin.get? [pin] = none ∧ t.time.tioHigh.get? [pin] = none
      ∧ t.time.elapsed = max s.time.elapsed e ∧ partsBut [.time] s t ∧ fieldsBut [] s t := by
  have run : exec (.tioOutputEdge pin) s = .next (settle (doTioOutputEdge pin s)) := rfl
  rw [doTioOutputEdge_of_high hm hb hh] at run
  obtain ⟨passed, -, elapsed, -⟩ := runTo_passes s e
  generalize s.runTo e = u at run passed elapsed
  have all := (passed.pulseEnded pin).settle
  exact ⟨_, run, (SMap.get?_erase ..).trans (if_pos rfl), (SMap.get?_erase ..).trans (if_pos rfl), elapsed, all.parts, all.fields⟩

end

/-- Settles O38: the queues of transmit timestamps and of captures, filled and read, and a pin's pulses. -/
theorem timestampsAndPins : Obligations.TimestampsAndPins := by
  unfold Obligations.TimestampsAndPins
  exact ⟨fun _ _ _ he => ⟨txtsEntry_joins he, txtsEntry_lost he⟩, fun _ _ _ _ => txtsPop_pops,
    fun _ _ _ hm he hl => ⟨tioEdge_joins hm he hl, tioEdge_lost hm he hl⟩, fun _ _ _ _ => tioCapPop_pops,
    fun _ _ hm hb => ⟨tioOutputEdge_begins hm hb, fun _ => tioOutputEdge_ends hm hb⟩⟩

end Sys2Proof.Machine

/-! SUPPORT. A step and the front of the queue (O57). -/

namespace Sys2Proof.Machine

/-! ## What waits for an engine or for its descriptors, while time passes (R302, R354) -/

/-- Reports take no descriptor, begin and end no function reset, and leave the completions that wait as they are. -/
structure Waits (s t : State) : Prop where
  late : t.host.late = s.host.late
  flr : t.host.flr = s.host.flr
  taken : t.host.taken = s.host.taken

namespace Waits

variable {s t u : State}

theorem refl (s : State) : Waits s s := ⟨rfl, rfl, rfl⟩

theorem trans (h : Waits s t) (k : Waits t u) : Waits s u := ⟨k.late.trans h.late, k.flr.trans h.flr, k.taken.trans h.taken⟩

theorem ite (c : Prop) [Decidable c] (h : Waits s t) (k : Waits s u) : Waits s (if c then t else u) := by
  split
  · exact h
  · exact k

theorem foldl {α : Type} {op : State → α → State} (hop : ∀ t a, Waits t (op t a)) (l : List α) (s : State) : Waits s (l.foldl op s) := by
  induction l generalizing s with
  | nil => exact refl s
  | cons a l ih => exact (hop s a).trans (ih _)

theorem msixSend (s : State) (fn vec : Nat) : Waits s (s.msixSend fn vec) := ite _ (refl s) (ite _ ⟨rfl, rfl, rfl⟩ ⟨rfl, rfl, rfl⟩)

theorem holdBegin (s : State) (fn vec r : Nat) : Waits s (s.holdBegin fn vec r) := ite _ (refl s) ⟨rfl, rfl, rfl⟩

theorem signal (s : State) (fn r : Nat) : Waits s (s.signal fn r) := by
  unfold State.signal
  dsimp only
  split
  · exact ⟨rfl, rfl, rfl⟩
  · exact (msixSend ..).trans (holdBegin ..)

theorem ringPut (s : State) (fn r : Nat) (ent : List Byte) (a b : Nat) (sig : Bool) : Waits s (s.ringPut fn r ent a b sig) := by
  unfold State.ringPut
  extract_lets n byte ent' t1 t2
  have counted : Waits s t2 := ⟨rfl, rfl, rfl⟩
  exact ite _ (counted.trans (signal ..)) counted

theorem eventTo (s : State) (fn : Nat) (e : Evt) : Waits s (s.eventTo fn e) := by
  unfold State.eventTo
  extract_lets now one lost drop
  have hone : ∀ (v : State) code pl, Waits v (one v code pl) := fun v code pl =>
    trans (t := { v with host := { v.host with evtSeq := v.host.evtSeq.set [fn] ((v.host.evtSeq.getD [fn] 0 + 1) % 2 ^ 32) } }) ⟨rfl, rfl, rfl⟩ (ringPut ..)
  have hdrop : ∀ v : State, Waits v (drop v) := fun v => ⟨rfl, rfl, rfl⟩
  have found : Waits s { s with host := { s.host with evtLost := s.host.evtLost.erase [fn] } } := ⟨rfl, rfl, rfl⟩
  have told := found.trans (hone _ 0x0001 (leBytes 4 lost))
  exact ite _ (refl s) (ite _ (hdrop s) (ite _ (hone ..) (ite _ (told.trans (hdrop _)) (told.trans (hone ..)))))

theorem raise (s : State) (code half : Nat) (fs : List (Nat × Nat × Nat)) : Waits s (s.raise code half fs) :=
  trans (t := { s with host := { s.host with events := s.host.events ++ [⟨code, half, record 32 fs⟩] } }) ⟨rfl, rfl, rfl⟩ (eventTo ..)

theorem pmc (s : State) (x : Half) (ev : Nat) (e : PmcEv) (n : Nat) : Waits s (s.pmc x ev e n) := by
  refine foldl (fun v i => ite _ ?_ (refl v)) _ s
  have counted : Waits v (v.bump .PMC_CNT_v [x.n, i] n) := ⟨rfl, rfl, rfl⟩
  have marked : ∀ (w : State) (y : Tel), Waits w { w with tel := y } := fun w y => ⟨rfl, rfl, rfl⟩
  exact counted.trans (ite _ (refl _) ((marked ..).trans (raise ..)))

theorem runTo (s : State) (t : Nat) : Waits s (s.runTo t) := by
  unfold State.runTo
  refine ite _ (refl s) ?_
  extract_lets a d src v
  have passed : Waits s v := ⟨rfl, rfl, rfl⟩
  exact passed.trans (foldl (fun u h => (pmc u ..).trans (pmc ..)) halves v)

end Waits

/-- Both halves' network time counts on at its increment (R177, R179). -/
theorem time_runTo_of_lt {s : State} {t : Nat} (h : s.time.elapsed < t) :
    (s.runTo t).time = { s.time with
      elapsed := t
      tE := (s.time.tE + (t - s.time.elapsed) * s.time.incE) % tsMod
      tW := (s.time.tW + (t - s.time.elapsed) * s.time.incW) % tsMod } := by
  unfold State.runTo
  rw [if_neg (Nat.not_le.2 h)]
  exact (Reports.foldl (fun u x => ((Reports.refl u).pmc ..).pmc ..) halves _).time

/-! ## An empty queue -/

theorem lateRun_of_none {s : State} (h : s.host.late = []) (x : Half) : s.lateRun x = s := by
  have same : ({ s with host := { s.host with late := [] } } : State) = s := by rw [← h]
  unfold State.lateRun
  split
  · rfl
  · simp [h, same]

/-- No work waits for an engine of a half. -/
theorem workRun_of_none {s : State} (hl : s.host.late = []) (hp : s.fdb.portDue = []) (hh : s.tel.histDue = []) (x : Half) : s.workRun x = s := by
  unfold State.workRun State.portDueRun State.histDueRun
  simp [lateRun_of_none hl, hp, hh]

/-- With no work for an engine, an idle tick lets a nanosecond pass, and function resets go on. -/
theorem idle_of_no_work {s : State} (hl : s.host.late = []) (hp : s.fdb.portDue = []) (hh : s.tel.histDue = []) : idle s = (s.runFor 1).flrSettle := by
  obtain ⟨late, -, -⟩ := Waits.runTo s (s.time.elapsed + 1)
  have passed := (runTo_passes s (s.time.elapsed + 1)).within.parts
  have fdb : (s.runFor 1).fdb = s.fdb := passed .fdb (by decide)
  have tel : (s.runFor 1).tel = { s.tel with raised := (s.runFor 1).tel.raised } := passed .tel (by decide)
  have still := workRun_of_none (s := s.runFor 1) (late.trans hl) (by rw [fdb, hp]) (by rw [tel, hh])
  unfold idle halves
  simp only [List.foldl_cons, List.foldl_nil, still]

theorem step_of_empty {s : State} (h : s.pending = []) : step s = .next (settle (idle s)) := by
  unfold step
  rw [h]
  rfl

/-- A function reset that waits for no descriptor ends: no reset of the function is left, and no time has passed (R354). -/
theorem flrEnd_of_free {s : State} {fn : Nat} (hf : s.host.flr = [fn]) (ht : ∀ x ∈ s.host.taken, x.hdr.fn ≠ fn) :
    (s.flrEnd fn).host.flr = [] ∧ (s.flrEnd fn).time = s.time := by
  have free : ¬ (¬ s.host.flr.contains fn = true ∨ s.host.taken.any (fun t => t.hdr.fn = fn) = true) := by simpa [hf] using ht
  unfold State.flrEnd
  rw [if_neg free]
  dsimp only
  have aborted : (if fn = 0 then s else (s.abortSlice (fnSlice fn)).2).host = s.host ∧ (if fn = 0 then s else (s.abortSlice (fnSlice fn)).2).time = s.time := by
    split
    · exact ⟨rfl, rfl⟩
    · exact ⟨undone_host .., (Within.undone s (fnSlice fn)).parts .time (by decide)⟩
  obtain ⟨host, time⟩ := aborted
  refine ⟨?_, time⟩
  show ((if fn = 0 then s else (s.abortSlice (fnSlice fn)).2).host.flr.filter (fun x => decide (x ≠ fn))) = []
  rw [host, hf]
  simp

/-- Settles O57: a command at the front runs; on an empty queue the tick, and the reset that ends in it. -/
theorem stepRunsTheFrontCommand : Obligations.StepRunsTheFrontCommand := by
  unfold Obligations.StepRunsTheFrontCommand
  refine ⟨fun _ _ _ => rfl, fun s hq hf hl hp hh => ?tick, fun s fn hq hf hl hp hh _ ht => ?reset⟩
  case tick =>
    obtain ⟨-, flr, -⟩ := Waits.runTo s (s.time.elapsed + 1)
    have run := step_of_empty hq
    have still : (s.runFor 1).flrSettle = s.runFor 1 := by
      unfold State.flrSettle State.runFor
      rw [flr, hf]
      rfl
    rw [idle_of_no_work hl hp hh, still] at run
    have time : (s.runFor 1).time = _ := time_runTo_of_lt (Nat.lt_succ_self _)
    have passed : Within [.time] [] s (s.runFor 1) := (runTo_passes s _).within
    refine ⟨_, run, ?_, ?_, ?_, passed.settle.parts, passed.settle.fields⟩
    all_goals simp [time]
  case reset =>
    obtain ⟨-, flr, taken⟩ := Waits.runTo s (s.time.elapsed + 1)
    have run := step_of_empty hq
    have ends : (s.runFor 1).flrSettle = (s.runFor 1).flrEnd fn := by
      unfold State.flrSettle State.runFor
      rw [flr, hf]
      rfl
    obtain ⟨ended, time⟩ := flrEnd_of_free (flr.trans hf) (taken.symm ▸ ht)
    have passed : (s.runFor 1).time = _ := time_runTo_of_lt (Nat.lt_succ_self _)
    rw [idle_of_no_work hl hp hh, ends] at run
    refine ⟨_, run, ended, ?_⟩
    rw [settle_time]
    exact congrArg Time.elapsed (time.trans passed)

end Sys2Proof.Machine

/-! SUPPORT. Network time: what leaves the time base alone (O37). -/

namespace Sys2Proof.Machine

/-! ## What leaves the time base alone -/

/-- The fields that an apply edge sets or goes by, beside those of pins and of refused steps (R179–R185). -/
def edgeFlds : List Fld := [.TIM_INC_inc, .TIM_STAT_holdover, .TIM_STAT_step_pend, .TIM_STAT_lockstep_lost]

/-- The time base and its registers are as before. -/
structure Timeless (s t : State) : Prop where
  time : t.time = s.time
  rd : ∀ f ∈ edgeFlds, ∀ ix, t.rd f ix = s.rd f ix

theorem not_reported_of_edge {f : Fld} (hf : f ∈ edgeFlds) (ix : List Nat) : reported f ix = false := by
  fin_cases hf
  all_goals rfl

/-- The registers that clearing a bank of a half's histograms leaves listed (R284). -/
def histKeeps (h : Half) (b : Nat) (key : List Nat) : Bool :=
  match key with
  | f :: x :: y :: _ => !((f = Fld.TEL_HIST_BIN_v.ctorIdx || f = Fld.TEL_HIST_SUM_v.ctorIdx || f = Fld.TEL_HIST_MAX_v.ctorIdx) && x = h.n && y = b)
  | _ => true

theorem regs_histClear (s : State) (h : Half) (b : Nat) : (s.histClear h b).regs = s.regs.filter (fun e => histKeeps h b e.1) := rfl

namespace Timeless

variable {s t u : State}

theorem refl (s : State) : Timeless s s := ⟨rfl, fun _ _ _ => rfl⟩

theorem trans (h : Timeless s t) (k : Timeless t u) : Timeless s u := ⟨k.time.trans h.time, fun f hf ix => (k.rd f hf ix).trans (h.rd f hf ix)⟩

theorem of_within {ps : List Part} {fs : List Fld} (h : Within ps fs s t) (hp : Part.time ∉ ps := by decide) (hf : ∀ f ∈ edgeFlds, f ∉ fs := by decide) :
    Timeless s t := ⟨h.parts .time hp, fun f he ix => h.rd f ix (hf f he) (not_reported_of_edge he ix)⟩

theorem report (h : Timeless s t) (k : Reports t u) : Timeless s u := h.trans (of_within k.within)

theorem raise (h : Timeless s t) (code half : Nat) (fs : List (Nat × Nat × Nat)) : Timeless s (t.raise code half fs) := h.report ((Reports.refl t).raise ..)

theorem ite (c : Prop) [Decidable c] (h : Timeless s t) (k : Timeless s u) : Timeless s (if c then t else u) := by
  split
  · exact h
  · exact k

theorem foldl {α : Type} {op : State → α → State} (hop : ∀ t a, Timeless t (op t a)) (l : List α) (s : State) : Timeless s (l.foldl op s) := by
  induction l generalizing s with
  | nil => exact refl s
  | cons a l ih => exact (hop s a).trans (ih _)

theorem st (h : Timeless s t) {f : Fld} (ix : List Nat) (v : Nat) (hf : f ∉ edgeFlds := by decide) : Timeless s (t.st f ix v) :=
  ⟨h.time, fun g hg jx => (rd_st_of_ne t ix jx v (fun e : g = f => hf (e ▸ hg))).trans (h.rd g hg jx)⟩

theorem bump (h : Timeless s t) {f : Fld} (ix : List Nat) (v : Nat) (hf : f ∉ edgeFlds := by decide) : Timeless s (t.bump f ix v) := h.st ix _ hf

theorem sts (h : Timeless s t) (ws : List (Fld × List Nat × Nat)) (hf : ∀ w ∈ ws, w.1 ∉ edgeFlds) : Timeless s (t.sts ws) := by
  induction ws generalizing t with
  | nil => exact h
  | cons w ws ih => exact ih (h.st _ _ (hf w (by simp))) (fun x hx => hf x (by simp [hx]))

/-! ### Copies that leave a queue -/

theorem freeDrop (s : State) (f : Frame) (cause : Nat) : Timeless s (s.freeDrop f cause) :=
  ((of_within (Within.unqueue s f.egress f.queue f.id)).trans (of_within (.bufFree ..))).trans (of_within (.dropFr ..))

theorem schedTrap (s : State) (f : Frame) : Timeless s (s.schedTrap f) := by
  unfold State.schedTrap
  extract_lets h p share g g' id t1 buf t2
  have shared : Timeless s (s.shareMore h f share) := ⟨rfl, fun _ _ _ => rfl⟩
  have added : Timeless s t2 := (shared.bump (f := .SLC_REFCNT_count) _ _).trans ⟨rfl, fun _ _ _ => rfl⟩
  have freed := (added.trans (of_within (.unqueue t2 h f.queue f.id))).trans (of_within (.bufFree _ { f with share := share } true))
  exact (freed.trans (of_within (.release _ h f))).trans ⟨rfl, fun _ _ _ => rfl⟩

theorem purgeHalf (s : State) (h : Half) : Timeless s (s.purgeHalf h).2 := by
  refine foldl (fun t f => ?_) _ s
  extract_lets p t1 c src t2
  have counted : Timeless t t1 := (refl t).bump _ _
  have sampled : Timeless t t2 := counted.trans ⟨rfl, fun _ _ _ => rfl⟩
  have trapped : Timeless t (((t2.bump .GTE_CNT_v [h.n, f.queue, 6] 1).dropCount h 0x0E f false).schedTrap f) :=
    (((sampled.bump _ _).bump (f := .TEL_DROP_CNT_v) _ _).trans (of_within (dropCount_exports _ h 0x0E f false).within)).trans (schedTrap ..)
  exact ite _ (ite _ trapped (sampled.trans (freeDrop ..))) (counted.trans (freeDrop ..))

/-! ### Gate lists -/

theorem oversizeOne (s : State) (port : Nat) (a : GList) (f : Frame) : Timeless s (s.oversizeOne port a f).2 := by
  unfold State.oversizeOne
  extract_lets h big t
  have counted : Timeless s t := (refl s).bump _ _
  split
  · exact ⟨rfl, fun _ _ _ => rfl⟩
  · exact ite _ (counted.trans (schedTrap ..)) (counted.trans (freeDrop ..))

theorem oversizeQueue (s : State) (port q : Nat) (a : GList) (n : Nat) : Timeless s (s.oversizeQueue port q a n) := by
  induction n generalizing s with
  | zero => exact refl s
  | succ n ih =>
    unfold State.oversizeQueue
    split
    · exact refl s
    · have tested := oversizeOne s port a
      exact ite _ (refl s) (ite _ ((tested _).trans (ih _)) (tested _))

theorem oversizePort (s : State) (port : Nat) : Timeless s (s.oversizePort port) := by
  unfold State.oversizePort
  split
  · exact refl s
  · exact foldl (fun t i => oversizeQueue ..) _ s

theorem gateStart (s : State) (port : Nat) : Timeless s (s.gateStart port) := by
  unfold State.gateStart
  split
  · exact refl s
  · rename_i p _
    extract_lets h freed gl gl' src t1 t2 t3
    have replaced : Timeless s { s with timed := { s.timed with gl := gl' } } := ⟨rfl, fun _ _ _ => rfl⟩
    have swapped : Timeless s t1 := replaced.bump (f := .GTE_MEM_free) _ _
    have shown : Timeless s t2 := (swapped.sts _ (by simp [edgeFlds])).st (f := .GTE_PORT_STAT_gl_state) _ _
    have tested : Timeless s t3 := shown.trans ⟨rfl, fun _ _ _ => rfl⟩
    exact (tested.raise ..).trans (oversizePort ..)

theorem gateDue (s : State) (port : Nat) : Timeless s (s.gateDue port) := by
  unfold State.gateDue
  split
  · exact ite _ (gateStart ..) (refl s)
  · exact refl s

/-! ### The epoch grid -/

theorem epochSet (s : State) (h : Half) (n : Int) (slots : Nat) : Timeless s (s.epochSet h n slots) := by
  unfold State.epochSet
  extract_lets src t
  have set : Timeless s t := by
    cases h
    all_goals exact ⟨rfl, fun _ _ _ => rfl⟩
  exact ite _ (set.sts _ (by simp [edgeFlds])) set

theorem epochChange (s : State) (h : Half) (n : Int) (slots : Nat) : Timeless s (s.epochChange h n slots) := by
  unfold State.epochChange
  extract_lets src t1 t2
  have noted : Timeless s t1 := by
    cases h
    all_goals exact ⟨rfl, fun _ _ _ => rfl⟩
  have left : Timeless (t1.epochSet h n slots) ((t1.epochSet h n slots).leaveOver h) := ⟨rfl, fun _ _ _ => rfl⟩
  have changed : Timeless s t2 := ((noted.trans (epochSet ..)).trans left).bump _ _
  exact ite _ (refl s) (ite _ (changed.bump _ _) changed)

theorem gridMode (s : State) (sched : Bool) : Timeless s (s.gridMode sched) :=
  ite _ (of_within (.setMode_mode ..)) (ite _ (of_within (.setMode_mode ..)) (refl s))

theorem gridStart (s : State) : Timeless s s.gridStart := by
  unfold State.gridStart
  split
  · exact refl s
  · rename_i g _
    extract_lets armed src t1 t2
    have taken : Timeless s t1 := ⟨rfl, fun _ _ _ => rfl⟩
    have shown : Timeless s ((t1.gridShow 0 g).st .EPC_STAT_state [0] 2) := (taken.sts _ (by simp [edgeFlds])).st _ _
    have begun : Timeless s t2 := shown.trans (foldl (fun t h => epochChange ..) _ _)
    exact ite _ ((begun.trans (gridMode ..)).raise ..) begun

theorem gridStop (s : State) (slots : Nat) : Timeless s (s.gridStop slots) := by
  unfold State.gridStop
  extract_lets n t1
  have changed : Timeless s t1 := foldl (fun t h => epochChange ..) _ s
  have purgedE := changed.trans (purgeHalf t1 .E)
  generalize t1.purgeHalf .E = x at purgedE ⊢
  obtain ⟨a, t2⟩ := x
  dsimp only at purgedE ⊢
  have purged := purgedE.trans (purgeHalf t2 .W)
  generalize t2.purgeHalf .W = y at purged ⊢
  obtain ⟨b, t3⟩ := y
  dsimp only
  have emptied : Timeless t3 { t3 with timed := { t3.timed with gridA := none, stopDesc := none } } := ⟨rfl, fun _ _ _ => rfl⟩
  have ended := emptied.st (f := .EPC_STAT_state) [0] 0
  have told := ((purged.trans ended).trans (gridMode _ false)).raise 0x0042 2 [(0, 8, unsigned 64 n), (8, 4, a + b)]
  split
  · exact told.trans (of_within ((Within.refl [] [] _).completeX ..))
  · exact told

theorem gridDue (s : State) : Timeless s s.gridDue := by
  unfold State.gridDue
  split
  · exact ite _ (gridStart s) (refl s)
  · exact refl s

theorem epochFollow (s : State) (h : Half) : Timeless s (s.epochFollow h) := by
  unfold State.epochFollow
  split
  · exact refl s
  · exact ite _ (refl s) (epochChange ..)

theorem epochStepped (s : State) (old n : Int) : Timeless s (s.epochStepped old n) := ite _ (refl s) (((refl s).bump _ _).raise ..)

theorem epochStep (s : State) : Timeless s s.epochStep := by
  unfold State.epochStep
  split
  · exact gridDue s
  · exact ite _ ((gridStart s).trans (epochStepped ..)) (ite _ ((epochStepped ..).trans (gridStop ..))
      ((foldl (fun t h => epochFollow t h) _ s).trans (epochStepped ..)))

/-- A step of network time reaches gate lists and the epoch grid without another change of the time base (R226). -/
theorem timedStep (s : State) (d : Int) : Timeless s (s.timedStep d) := by
  unfold State.timedStep
  extract_lets mv src t1 t2
  have moved : Timeless s t1 := ⟨rfl, fun _ _ _ => rfl⟩
  exact (moved.trans (epochStep t1)).trans (foldl (fun t p => gateDue t p) _ _)

/-! ### Histogram windows and snapshots -/

theorem histClear (s : State) (h : Half) (b : Nat) : Timeless s (s.histClear h b) := by
  have elsewhere : ∀ f ∈ edgeFlds, f.ctorIdx ≠ Fld.TEL_HIST_BIN_v.ctorIdx ∧ f.ctorIdx ≠ Fld.TEL_HIST_SUM_v.ctorIdx ∧ f.ctorIdx ≠ Fld.TEL_HIST_MAX_v.ctorIdx := by
    decide
  refine ⟨rfl, fun f hf ix => ?_⟩
  obtain ⟨bin, sum, most⟩ := elsewhere f hf
  have kept : histKeeps h b (f.ctorIdx :: ix) = true := by
    unfold histKeeps
    split
    · rename_i e
      injection e with e
      simp [← e, bin, sum, most]
    · rfl
  unfold State.rd
  rw [regs_histClear, SMap.get?_filter, if_pos kept]

theorem histSwap (s : State) (h : Half) (t : Ts) : Timeless s (s.histSwap h t) := by
  unfold State.histSwap
  extract_lets acked b t1 src t2
  have swapped : Timeless s t2 := by
    refine (histClear s h (1 - b)).trans ?_
    cases h
    all_goals exact ⟨rfl, fun _ _ _ => rfl⟩
  have told := (swapped.st (f := .TEL_HIST_CFG_closed) [h.n] b).raise 0x0060 h.n [(0, 1, h.n), (1, 1, b), (8, 8, tSec t), (16, 4, tNs t)]
  have missed := ((refl s).st (f := .TEL_HIST_CFG_merged) [h.n] 1).bump (f := .TEL_CNT_v) [h.n, 5] 1
  exact ite _ told missed

theorem viaRoutine {op : State → State} (hop : ∀ t, Timeless t (op t)) (s : State) (h : Half) (r : Nat) (body : List Word) :
    Timeless s (s.viaRoutine h r body op) := by
  rcases viaRoutine_cases s h r body op with told | ⟨u, told, done⟩
  · exact of_within told.within
  · rw [done]
    exact (of_within told.within).trans (hop u)

/-- A step of network time that passes window edges swaps banks of a histogram at most (R284). -/
theorem histStep (s : State) (h : Half) (before : Ts) : Timeless s (s.histStep h before) := by
  have swap (t : State) (d : Half × Ts) : Timeless t (({ t with tel := { t.tel with histDue := t.tel.histDue.erase d } } : State).histSwap h d.2) :=
    trans (t := { t with tel := { t.tel with histDue := t.tel.histDue.erase d } }) ⟨rfl, fun _ _ _ => rfl⟩ (histSwap ..)
  have due : Timeless s { s with tel := { s.tel with histDue := s.tel.histDue ++ [(h, s.now h)] } } := ⟨rfl, fun _ _ _ => rfl⟩
  exact ite _ (refl s) (due.trans (foldl (fun t d => viaRoutine (fun u => swap u d) ..) _ _))

theorem snapCapture (s : State) : Timeless s s.snapCapture := ⟨rfl, fun _ _ _ => rfl⟩

end Timeless

end Sys2Proof.Machine

/-! SUPPORT. Network time: the apply edge, the loss of the reference, time reads (O37). -/

namespace Sys2Proof.Machine

/-! ## The parts of an apply edge -/

/-- West's drift changes its increment, and a free value is drawn for it; both halves run at the last increment unless the lockstep is lost (R185). -/
theorem refDrift_spec (s : State) : Within [.time, .fresh] [] s s.refDrift ∧ s.refDrift.regs = s.regs ∧ s.refDrift.host = s.host
    ∧ s.refDrift.time = { s.time with incW := s.refDrift.time.incW } := by
  unfold State.refDrift
  split
  · exact ⟨((Within.refl _ _ s).set_fresh _).set_time _, rfl, rfl, rfl⟩
  · exact ⟨(Within.refl _ _ s).set_time _, rfl, rfl, rfl⟩

/-- The resynchronisation sets no other part of what an apply edge goes by, and can only restore the lockstep (R185). -/
theorem resyncTime_spec (s : State) : s.resyncTime.time = { s.time with tW := s.resyncTime.time.tW, incW := s.resyncTime.time.incW, resyncDue := s.resyncTime.time.resyncDue }
    ∧ s.resyncTime.rd .TIM_STAT_holdover [0] = s.rd .TIM_STAT_holdover [0]
    ∧ (s.rd .TIM_STAT_lockstep_lost [0] = 0 → s.resyncTime.rd .TIM_STAT_lockstep_lost [0] = 0) := by
  unfold State.resyncTime
  split
  · exact ⟨rfl, rfl, id⟩
  · split
    · exact ⟨rfl, rfl, id⟩
    · extract_lets off src t
      have follows := (Timeless.epochFollow (t.st .TIM_STAT_lockstep_lost [0] 0) .W).raise 0x0033 2 [(0, 8, unsigned 64 off)]
      refine ⟨?_, ?_, fun _ => ?_⟩
      · rw [follows.time, st_time]
      · rw [follows.rd _ (by decide), rd_st_of_ne _ _ _ _ (by decide)]
        rfl
      · rw [follows.rd _ (by decide), rd_st_self]
        rfl

/-- Only what the pins' outputs keep has changed (R200). -/
structure PinsSet (s t : State) : Prop where
  within : Within [.time] [.TIM_TIO_CFG_cfg_err] s t
  time : t.time = { s.time with tioFirst := t.time.tioFirst, tioPin := t.time.tioPin, tioHigh := t.time.tioHigh }

namespace PinsSet

theorem refl (s : State) : PinsSet s s := ⟨.refl .., rfl⟩

theorem trans {s t u : State} (h : PinsSet s t) (k : PinsSet t u) : PinsSet s u := by
  refine ⟨h.within.trans k.within, ?_⟩
  have e1 := h.time
  have e2 := k.time
  rw [e1] at e2
  exact e2

theorem tioSet (s : State) (wasOut : Bool) (n : Nat) : PinsSet s (s.tioSet wasOut n) := by
  unfold State.tioSet
  extract_lets out bad t1 src t2
  have flagged : PinsSet s t1 := ⟨(Within.refl _ _ s).st _ _, rfl⟩
  have waits : PinsSet s t2 := by
    dsimp only [t2]
    split
    · exact ⟨flagged.within.set_time _, rfl⟩
    · exact flagged
  split
  · exact waits
  · exact waits.trans ⟨(Within.refl _ _ t2).set_time _, rfl⟩

theorem foldl_tioSet (was : List Bool) (l : List Nat) (s : State) : PinsSet s (l.foldl (fun s n => s.tioSet (was.getD n false) n) s) := by
  induction l generalizing s with
  | nil => exact refl s
  | cons n l ih => exact (tioSet ..).trans (ih _)

end PinsSet

/-! ### Writes that take effect -/

theorem time_holdover (s : State) (cause : Nat) : (s.holdover cause).time = s.time := by
  unfold State.holdover
  split
  · rfl
  · rw [raise_time, st_time]

/-- A write that takes effect leaves the present instant and the writes that wait as they are. -/
theorem applyWrite_keeps (s : State) (w : Nat × Fld × List Nat × Nat) :
    (s.applyWrite w).time.elapsed = s.time.elapsed ∧ (s.applyWrite w).time.pendCfg = s.time.pendCfg := by
  unfold State.applyWrite
  split
  · split
    · rw [time_holdover]
      exact ⟨rfl, rfl⟩
    · split
      · exact ⟨rfl, rfl⟩
      · exact ⟨rfl, rfl⟩
  · split
    · exact ⟨rfl, rfl⟩
    · dsimp only
      split
      · exact ⟨rfl, rfl⟩
      · exact ⟨rfl, rfl⟩

/-- GM_SET takes effect: holdover holds, from now or already (R183). -/
theorem applyWrite_enters (s : State) (n : Nat) : (s.applyWrite (n, .TIM_STAT_holdover, [0], 2)).rd .TIM_STAT_holdover [0] ≠ 0 := by
  have enters : s.applyWrite (n, .TIM_STAT_holdover, [0], 2) = s.holdover 0 := (if_pos rfl).trans (if_pos le_rfl)
  rw [enters]
  by_cases held : s.rd .TIM_STAT_holdover [0] = 0
  · rw [holdover_of_calm held, rd_raise _ _ _ _ _ rfl, rd_st_one _ .TIM_STAT_holdover]
    decide
  · unfold State.holdover
    rwa [if_pos (on_eq_true.2 held)]

/-- HOLDOVER_EXIT takes effect: no holdover holds, and the watchdog restarts where one did (R183). -/
theorem applyWrite_leaves (s : State) (n : Nat) : (s.applyWrite (n, .TIM_STAT_holdover, [0], 1)).rd .TIM_STAT_holdover [0] = 0
    ∧ (s.rd .TIM_STAT_holdover [0] ≠ 0 → (s.applyWrite (n, .TIM_STAT_holdover, [0], 1)).time.wdStart = s.time.elapsed) := by
  have leaves : s.applyWrite (n, .TIM_STAT_holdover, [0], 1) = if 1 = 1 ∧ s.on .TIM_STAT_holdover [0] then (s.st .TIM_STAT_holdover [0] 0).wdRestart else s :=
    (if_pos rfl).trans (if_neg (Nat.not_succ_le_self 1))
  rw [leaves]
  by_cases held : s.rd .TIM_STAT_holdover [0] = 0
  · rw [if_neg (by simp [on_eq_false.2 held])]
    exact ⟨held, fun h => absurd held h⟩
  · rw [if_pos ⟨rfl, on_eq_true.2 held⟩]
    exact ⟨rd_st_self s .TIM_STAT_holdover [0] 0, fun _ => rfl⟩

/-- A write of the increment takes effect in both halves (R179, R180). -/
theorem applyWrite_inc (s : State) (n : Nat) {v : Nat} (hv : v < 2 ^ 40) : (s.applyWrite (n, .TIM_INC_inc, [0], v)).time.incE = v
    ∧ (s.applyWrite (n, .TIM_INC_inc, [0], v)).time.incW = v ∧ (s.applyWrite (n, .TIM_INC_inc, [0], v)).rd .TIM_INC_inc [0] = v
    ∧ (s.applyWrite (n, .TIM_INC_inc, [0], v)).rd .TIM_STAT_lockstep_lost [0] = s.rd .TIM_STAT_lockstep_lost [0] :=
  ⟨rfl, rfl, (rd_st_self s .TIM_INC_inc [0] v).trans (Nat.mod_eq_of_lt hv), rd_st_of_ne s (f := .TIM_INC_inc) (g := .TIM_STAT_lockstep_lost) [0] [0] v (by decide)⟩

/-- The writes whose apply edge has come no longer wait. -/
def State.cfgTaken (s : State) : State := { s with time := { s.time with pendCfg := s.time.pendCfg.filter (fun w => decide (s.elapsed < w.1)) } }

/-- They have taken effect, in order (R179). -/
def State.cfgWritten (s : State) : State := (s.time.pendCfg.filter (fun w => decide (w.1 ≤ s.elapsed))).foldl State.applyWrite s.cfgTaken

/-- After the writes only the pins follow (R200). -/
theorem applyCfg_pins (s : State) : PinsSet s.cfgWritten s.applyCfg := .foldl_tioSet _ _ _

theorem cfgWritten_keeps (s : State) : s.cfgWritten.time.elapsed = s.time.elapsed
    ∧ s.cfgWritten.time.pendCfg = s.time.pendCfg.filter (fun w => decide (s.time.elapsed < w.1)) :=
  List.foldlRecOn (motive := fun t : State => t.time.elapsed = s.time.elapsed ∧ t.time.pendCfg = s.time.pendCfg.filter (fun w => decide (s.time.elapsed < w.1))) _ _
    ⟨rfl, rfl⟩ fun t ⟨he, hp⟩ w _ => ⟨(applyWrite_keeps t w).1.trans he, (applyWrite_keeps t w).2.trans hp⟩

/-- One write waits, for this very edge. -/
theorem cfgWritten_of_one {s : State} {f : Fld} {ix : List Nat} {v : Nat} (h : s.time.pendCfg = [(s.time.elapsed, f, ix, v)]) :
    s.cfgWritten = s.cfgTaken.applyWrite (s.time.elapsed, f, ix, v) := by
  unfold State.cfgWritten
  rw [h]
  simp [State.elapsed]

theorem cfgWritten_of_none {s : State} (h : s.time.pendCfg = []) : s.cfgWritten = s := by
  have taken : s.cfgTaken = s := by
    unfold State.cfgTaken
    rw [h, List.filter_nil, ← h]
  unfold State.cfgWritten
  rw [h, taken]
  rfl

/-! ### The step -/

/-- The signed size of a requested step: an absolute one leads East's time to its value (R181, log entry 39). -/
def State.stepSize (s : State) (r : StepReq) : Int :=
  if r.abs then (r.value : Int) - (s.time.tE : Int) else if r.neg then -(r.value : Int) else (r.value : Int)

/-- A requested step is refused: the guard forbids its size, or the lockstep is lost (R182, R185). -/
abbrev State.stepRefused (s : State) (r : StepReq) : Prop :=
  (s.on .TIM_CFG_guard_en [0] = true ∧ s.rd .TIM_GUARD_guard_ns [0] * tsNs < (s.stepSize r).natAbs) ∨ s.on .TIM_STAT_lockstep_lost [0] = true

/-- The requested step is no longer pending. -/
def State.stepTaken (s : State) : State := ({ s with time := { s.time with pendStep := none } } : State).st .TIM_STAT_step_pend [0] 0

theorem Within.stepTaken (s : State) : Within [.time] [.TIM_STAT_step_pend] s s.stepTaken := ((refl _ _ s).set_time _).st _ _

/-- Its size is refused: the bit, the count and the event (R182). -/
def State.stepRefuse (s : State) (d : Int) : State :=
  ((s.st .TIM_STAT_step_refused [0] 1).bump .TIM_CNT_v [0, 3] 1).raise 0x0031 2
    [(0, 8, tSec (tRound d.natAbs)), (8, 4, tNs (tRound d.natAbs)), (12, 2, tFrac d.natAbs), (14, 1, b2n (decide (d < 0)))]

/-- Both halves' times moved by a size, and the step recorded (R176, R181). -/
def State.stepJump (s : State) (d : Int) : State :=
  ({ s with time := { s.time with tE := tsAdd s.time.tE d, tW := tsAdd s.time.tW d } } : State).stepRecord d

/-- What follows the jump: gate lists, the epoch grid and the histogram windows. -/
def State.stepFollowed (s : State) (d : Int) : State := (((s.stepJump d).timedStep d).histStep .E s.time.tE).histStep .W s.time.tW

/-- The pins' sequences go on after the jump (R200). -/
def State.stepPins (s : State) : State :=
  { s with time := { s.time with tioFirst := s.time.tioFirst.map (fun (e : List Nat × Nat) => (e.1, s.time.tE + 1)) } }

theorem stepApply_eq {s : State} {r : StepReq} (hp : s.time.pendStep = some r) :
    s.stepApply = if s.time.elapsed < r.due then s else if s.stepTaken.stepRefused r then s.stepTaken.stepRefuse (s.stepTaken.stepSize r)
      else (s.stepTaken.stepFollowed (s.stepTaken.stepSize r)).stepPins := by
  unfold State.stepApply
  rw [hp]
  rfl

theorem stepRefused_taken (s : State) (r : StepReq) : s.stepTaken.stepRefused r ↔ s.stepRefused r := by
  have same : s.stepTaken.stepSize r = s.stepSize r := rfl
  unfold State.stepRefused State.on
  rw [same, (Within.stepTaken s).rd .TIM_CFG_guard_en [0], (Within.stepTaken s).rd .TIM_GUARD_guard_ns [0], (Within.stepTaken s).rd .TIM_STAT_lockstep_lost [0]]

/-- A step that is refused sets its bit, is counted, and moves no time (R182, R185). -/
structure StepRefused (s t : State) : Prop where
  within : Within [.time] [.TIM_STAT_step_pend, .TIM_STAT_step_refused, .TIM_CNT_v] s t
  time : t.time = { s.time with pendStep := none }
  pend : t.rd .TIM_STAT_step_pend [0] = 0
  refused : t.rd .TIM_STAT_step_refused [0] = 1
  count : t.rd .TIM_CNT_v [0, 3] = (s.rd .TIM_CNT_v [0, 3] + 1) % 2 ^ 64

/-- A step that is applied moves both halves' times by its size (R181). -/
structure StepMoves (s t : State) (d : Int) : Prop where
  time : t.time = { s.time with
    pendStep := none
    tE := tsAdd s.time.tE d
    tW := tsAdd s.time.tW d
    recE := t.time.recE
    recW := t.time.recW
    tioFirst := t.time.tioFirst }
  pend : t.rd .TIM_STAT_step_pend [0] = 0
  rd : ∀ f ∈ edgeFlds, f ≠ .TIM_STAT_step_pend → ∀ ix, t.rd f ix = s.rd f ix

theorem stepPend_stepTaken (s : State) : s.stepTaken.rd .TIM_STAT_step_pend [0] = 0 := (rd_st_self ..).trans (Nat.zero_mod _)

section
variable {s : State} {r : StepReq} (hp : s.time.pendStep = some r)
include hp

theorem stepApply_of_early (hd : s.time.elapsed < r.due) : s.stepApply = s := (stepApply_eq hp).trans (if_pos hd)

theorem stepApply_of_refused (hd : r.due ≤ s.time.elapsed) (hr : s.stepRefused r) : StepRefused s s.stepApply := by
  rw [stepApply_eq hp, if_neg (Nat.not_lt.2 hd), if_pos ((stepRefused_taken s r).2 hr)]
  have taken := Within.stepTaken s
  have counted : Within [.time] [.TIM_STAT_step_pend, .TIM_STAT_step_refused, .TIM_CNT_v] s
      ((s.stepTaken.st .TIM_STAT_step_refused [0] 1).bump .TIM_CNT_v [0, 3] 1) := (taken.mono.st _ _).bump _ _
  unfold State.stepRefuse
  refine ⟨counted.raise .., ?_, ?_, ?_, ?_⟩
  · rw [raise_time, bump_time, st_time]
    rfl
  · rw [rd_raise _ _ _ _ _ rfl, rd_bump, if_neg (by decide), rd_st_of_ne _ _ _ _ (by decide), stepPend_stepTaken]
  · rw [rd_raise _ _ _ _ _ rfl, rd_bump, if_neg (by decide), rd_st_one _ .TIM_STAT_step_refused]
  · rw [rd_raise _ _ _ _ _ rfl, rd_bump_self, rd_st_of_ne _ _ _ _ (by decide), taken.rd .TIM_CNT_v [0, 3]]
    rfl

theorem stepApply_of_allowed (hd : r.due ≤ s.time.elapsed) (hr : ¬ s.stepRefused r) : StepMoves s s.stepApply (s.stepSize r) := by
  have size : s.stepTaken.stepSize r = s.stepSize r := rfl
  rw [stepApply_eq hp, if_neg (Nat.not_lt.2 hd), if_neg (fun h => hr ((stepRefused_taken s r).1 h)), size]
  generalize s.stepSize r = d
  have follows : Timeless (s.stepTaken.stepJump d) (s.stepTaken.stepFollowed d) := ((Timeless.timedStep ..).trans (.histStep ..)).trans (.histStep ..)
  have reads : ∀ f ∈ edgeFlds, ∀ ix, (s.stepTaken.stepFollowed d).stepPins.rd f ix = s.stepTaken.rd f ix := fun f hf ix => follows.rd f hf ix
  refine ⟨?_, (reads _ (by decide) _).trans (stepPend_stepTaken s), fun f hf hn ix => (reads f hf ix).trans (rd_st_of_ne _ _ _ _ hn)⟩
  unfold State.stepPins
  dsimp only
  rw [follows.time]
  rfl

end

/-! ## An apply edge -/

/-- What an apply edge leaves as it is once the writes have taken effect. -/
structure EdgeKeeps (s t : State) : Prop where
  elapsed : t.time.elapsed = s.time.elapsed
  pendCfg : t.time.pendCfg = s.time.pendCfg
  wdStart : t.time.wdStart = s.time.wdStart
  incE : t.time.incE = s.time.incE
  incW : s.rd .TIM_STAT_lockstep_lost [0] = 0 → t.time.incW = s.time.incW
  rd : ∀ f ∈ edgeFlds, f ≠ .TIM_STAT_step_pend → ∀ ix, t.rd f ix = s.rd f ix

/-- West's drift is drawn anew at the end of an apply edge, where it runs (R185, log entry 39). -/
def State.edgeDrift (s : State) : State := if s.on .TIM_STAT_lockstep_lost [0] ∧ s.on .TIM_STAT_ref_lost [0] then s.refDrift else s

theorem edgeDrift_spec (s : State) : s.edgeDrift.regs = s.regs ∧ s.edgeDrift.time = { s.time with incW := s.edgeDrift.time.incW }
    ∧ (s.rd .TIM_STAT_lockstep_lost [0] = 0 → s.edgeDrift = s) := by
  unfold State.edgeDrift
  split
  · rename_i drifts
    obtain ⟨-, regs, -, time⟩ := refDrift_spec s
    exact ⟨regs, time, fun locked => absurd locked (on_eq_true.1 drifts.1)⟩
  · exact ⟨rfl, rfl, fun _ => rfl⟩

namespace EdgeKeeps

variable {s t u : State}

theorem refl (s : State) : EdgeKeeps s s := ⟨rfl, rfl, rfl, rfl, fun _ => rfl, fun _ _ _ _ => rfl⟩

theorem trans (h : EdgeKeeps s t) (k : EdgeKeeps t u) : EdgeKeeps s u where
  elapsed := k.elapsed.trans h.elapsed
  pendCfg := k.pendCfg.trans h.pendCfg
  wdStart := k.wdStart.trans h.wdStart
  incE := k.incE.trans h.incE
  incW locked := (k.incW ((h.rd _ (by decide) (by decide) _).trans locked)).trans (h.incW locked)
  rd f hf hn ix := (k.rd f hf hn ix).trans (h.rd f hf hn ix)

theorem of_timeless (h : Timeless s t) : EdgeKeeps s t := by
  have time := h.time
  exact ⟨by rw [time], by rw [time], by rw [time], by rw [time], fun _ => by rw [time], fun f hf _ ix => h.rd f hf ix⟩

theorem of_pins (h : PinsSet s t) : EdgeKeeps s t := by
  have time := h.time
  have apart : ∀ f ∈ edgeFlds, f ∉ [Fld.TIM_TIO_CFG_cfg_err] := by decide
  exact ⟨by rw [time], by rw [time], by rw [time], by rw [time], fun _ => by rw [time],
    fun f hf _ ix => h.within.rd f ix (apart f hf) (not_reported_of_edge hf ix)⟩

theorem of_refused (h : StepRefused s t) : EdgeKeeps s t := by
  have time := h.time
  have apart : ∀ f ∈ edgeFlds, f ≠ .TIM_STAT_step_pend → f ∉ [Fld.TIM_STAT_step_pend, .TIM_STAT_step_refused, .TIM_CNT_v] := by decide
  exact ⟨by rw [time], by rw [time], by rw [time], by rw [time], fun _ => by rw [time],
    fun f hf hn ix => h.within.rd f ix (apart f hf hn) (not_reported_of_edge hf ix)⟩

theorem of_moves {d : Int} (h : StepMoves s t d) : EdgeKeeps s t := by
  have time := h.time
  exact ⟨by rw [time], by rw [time], by rw [time], by rw [time], fun _ => by rw [time], h.rd⟩

theorem stepApply (s : State) : EdgeKeeps s s.stepApply := by
  cases hp : s.time.pendStep with
  | none =>
    have still : s.stepApply = s := by
      unfold State.stepApply
      rw [hp]
    rw [still]
    exact refl s
  | some r =>
    by_cases hd : s.time.elapsed < r.due
    · rw [stepApply_of_early hp hd]
      exact refl s
    · by_cases hr : s.stepRefused r
      · exact of_refused (stepApply_of_refused hp (Nat.not_lt.1 hd) hr)
      · exact of_moves (stepApply_of_allowed hp (Nat.not_lt.1 hd) hr)

theorem edgeDrift (s : State) : EdgeKeeps s s.edgeDrift := by
  obtain ⟨regs, time, locked⟩ := edgeDrift_spec s
  exact ⟨by rw [time], by rw [time], by rw [time], by rw [time], fun h => by rw [locked h], fun f _ _ ix => rd_congr regs f ix⟩

end EdgeKeeps

/-- The instant of an apply edge, after the resynchronisation that comes first there (R185). -/
def State.edgeBegun (s : State) : State := (s.runTo (nextMultiple 1024 s.time.elapsed)).resyncTime

/-- What comes at an apply edge after that: the writes, the step, the captures, the drift. -/
def State.edgeEnded (s : State) : State := s.applyCfg.stepApply.snapCapture.edgeDrift

theorem exec_timeApplyEdge (s : State) : exec .timeApplyEdge s = .next (settle s.edgeBegun.edgeEnded) := rfl

/-- The edge's time: the next multiple of 1,024 ticks, both halves counted on (R177, R179). -/
theorem time_runTo_edge (s : State) : (s.runTo (nextMultiple 1024 s.time.elapsed)).time = { s.time with
    elapsed := nextMultiple 1024 s.time.elapsed
    tE := (s.time.tE + (nextMultiple 1024 s.time.elapsed - s.time.elapsed) * s.time.incE) % tsMod
    tW := (s.time.tW + (nextMultiple 1024 s.time.elapsed - s.time.elapsed) * s.time.incW) % tsMod } :=
  time_runTo_of_lt (lt_nextMultiple (by decide) _)

theorem edgeBegun_spec (s : State) : s.edgeBegun.time.elapsed = nextMultiple 1024 s.time.elapsed ∧ s.edgeBegun.time.pendCfg = s.time.pendCfg
    ∧ s.edgeBegun.rd .TIM_STAT_holdover [0] = s.rd .TIM_STAT_holdover [0]
    ∧ (s.rd .TIM_STAT_lockstep_lost [0] = 0 → s.edgeBegun.rd .TIM_STAT_lockstep_lost [0] = 0) := by
  unfold State.edgeBegun
  have passed := (runTo_passes s (nextMultiple 1024 s.time.elapsed)).within
  have clock := time_runTo_edge s
  generalize s.runTo (nextMultiple 1024 s.time.elapsed) = u at passed clock ⊢
  obtain ⟨time, holdover, locked⟩ := resyncTime_spec u
  exact ⟨by rw [time, clock], by rw [time, clock], holdover.trans (passed.rd .TIM_STAT_holdover [0]),
    fun h => locked ((passed.rd .TIM_STAT_lockstep_lost [0]).trans h)⟩

theorem edgeBegun_of_none {s : State} (h : s.time.resyncDue = none) : s.edgeBegun = s.runTo (nextMultiple 1024 s.time.elapsed) := by
  have none : (s.runTo (nextMultiple 1024 s.time.elapsed)).time.resyncDue = none := by rw [time_runTo_edge, h]
  unfold State.edgeBegun State.resyncTime
  rw [none]

theorem edgeEnded_keeps (s : State) : EdgeKeeps s.cfgWritten s.edgeEnded :=
  (((EdgeKeeps.of_pins (applyCfg_pins s)).trans (.stepApply _)).trans (.of_timeless (.snapCapture _))).trans (.edgeDrift _)

/-- No write whose edge has come still waits (R179). -/
theorem pendCfg_edgeEnded (s : State) : ∀ w ∈ s.edgeEnded.time.pendCfg, s.edgeEnded.time.elapsed < w.1 ∧ w ∈ s.time.pendCfg := by
  intro w hw
  have kept := edgeEnded_keeps s
  obtain ⟨elapsed, pendCfg⟩ := cfgWritten_keeps s
  rw [kept.pendCfg, pendCfg] at hw
  rw [kept.elapsed, elapsed]
  obtain ⟨waits, later⟩ := List.mem_filter.1 hw
  exact ⟨of_decide_eq_true later, waits⟩

section
variable {s : State}

/-- GM_SET enters holdover at its edge (R183). -/
theorem edgeEnded_enters (h : s.time.pendCfg = [(s.time.elapsed, .TIM_STAT_holdover, [0], 2)]) : s.edgeEnded.rd .TIM_STAT_holdover [0] ≠ 0 := by
  rw [(edgeEnded_keeps s).rd _ (by decide) (by decide), cfgWritten_of_one h]
  exact applyWrite_enters s.cfgTaken s.time.elapsed

/-- HOLDOVER_EXIT leaves it there, and the watchdog restarts (R183). -/
theorem edgeEnded_leaves (h : s.time.pendCfg = [(s.time.elapsed, .TIM_STAT_holdover, [0], 1)]) : s.edgeEnded.rd .TIM_STAT_holdover [0] = 0
    ∧ (s.rd .TIM_STAT_holdover [0] ≠ 0 → s.edgeEnded.time.wdStart = s.edgeEnded.time.elapsed) := by
  have kept := edgeEnded_keeps s
  rw [kept.rd _ (by decide) (by decide), kept.wdStart, kept.elapsed, (cfgWritten_keeps s).1, cfgWritten_of_one h]
  exact applyWrite_leaves s.cfgTaken s.time.elapsed

/-- TIM_INC takes effect there in both halves (R179, R180). -/
theorem edgeEnded_inc {v : Nat} (h : s.time.pendCfg = [(s.time.elapsed, .TIM_INC_inc, [0], v)]) (hv : v < 2 ^ 40)
    (hl : s.rd .TIM_STAT_lockstep_lost [0] = 0) : s.edgeEnded.time.incE = v ∧ s.edgeEnded.time.incW = v ∧ s.edgeEnded.rd .TIM_INC_inc [0] = v := by
  have kept := edgeEnded_keeps s
  obtain ⟨incE, incW, inc, locked⟩ := applyWrite_inc s.cfgTaken s.time.elapsed hv
  rw [← cfgWritten_of_one h] at incE incW inc locked
  exact ⟨kept.incE.trans incE, (kept.incW (locked.trans hl)).trans incW, (kept.rd _ (by decide) (by decide) _).trans inc⟩

variable {r : StepReq}

theorem PinsSet.stepSize {t : State} (h : PinsSet s t) : t.stepSize r = s.stepSize r := by
  have time := h.time
  unfold State.stepSize
  rw [time]

theorem PinsSet.stepRefused {t : State} (h : PinsSet s t) : t.stepRefused r ↔ s.stepRefused r := by
  unfold State.stepRefused State.on
  rw [h.stepSize, h.within.rd .TIM_CFG_guard_en [0], h.within.rd .TIM_GUARD_guard_ns [0], h.within.rd .TIM_STAT_lockstep_lost [0]]

/-- The captures and the drift change West's increment at most in the time base, and no register. -/
theorem edgeDrift_snapCapture (s : State) : s.snapCapture.edgeDrift.time = { s.time with incW := s.snapCapture.edgeDrift.time.incW }
    ∧ ∀ f ix, s.snapCapture.edgeDrift.rd f ix = s.rd f ix := by
  obtain ⟨regs, time, -⟩ := edgeDrift_spec s.snapCapture
  exact ⟨time, fun f ix => rd_congr regs f ix⟩

variable (hp : s.time.pendStep = some r) (hd : r.due ≤ s.time.elapsed) (hc : s.time.pendCfg = [])
include hp hd hc

/-- A step that is due and allowed moves both halves' times (R181). -/
theorem edgeEnded_moves (hr : ¬ s.stepRefused r) : s.edgeEnded.time.pendStep = none ∧ s.edgeEnded.rd .TIM_STAT_step_pend [0] = 0
    ∧ s.edgeEnded.time.tE = tsAdd s.time.tE (s.stepSize r) ∧ s.edgeEnded.time.tW = tsAdd s.time.tW (s.stepSize r) := by
  have pins := applyCfg_pins s
  rw [cfgWritten_of_none hc] at pins
  unfold State.edgeEnded
  generalize s.applyCfg = c at pins ⊢
  have time := pins.time
  have moves := stepApply_of_allowed (s := c) (r := r) (by rw [time, hp]) (by rw [time]; exact hd) (fun h => hr (pins.stepRefused.1 h))
  have stepped := moves.time
  obtain ⟨closed, reads⟩ := edgeDrift_snapCapture c.stepApply
  refine ⟨by rw [closed, stepped], (reads _ _).trans moves.pend, ?_, ?_⟩
  · rw [closed, stepped, time, pins.stepSize]
  · rw [closed, stepped, time, pins.stepSize]

/-- A step that is due and refused moves neither (R182, R185). -/
theorem edgeEnded_refuses (hr : s.stepRefused r) : s.edgeEnded.time.pendStep = none ∧ s.edgeEnded.rd .TIM_STAT_step_pend [0] = 0
    ∧ s.edgeEnded.rd .TIM_STAT_step_refused [0] = 1 ∧ s.edgeEnded.rd .TIM_CNT_v [0, 3] = (s.rd .TIM_CNT_v [0, 3] + 1) % 2 ^ 64
    ∧ s.edgeEnded.time.tE = s.time.tE ∧ s.edgeEnded.time.tW = s.time.tW := by
  have pins := applyCfg_pins s
  rw [cfgWritten_of_none hc] at pins
  unfold State.edgeEnded
  generalize s.applyCfg = c at pins ⊢
  have time := pins.time
  have refused := stepApply_of_refused (s := c) (r := r) (by rw [time, hp]) (by rw [time]; exact hd) (pins.stepRefused.2 hr)
  have stepped := refused.time
  obtain ⟨closed, reads⟩ := edgeDrift_snapCapture c.stepApply
  refine ⟨by rw [closed, stepped], (reads _ _).trans refused.pend, (reads _ _).trans refused.refused, ?_, ?_, ?_⟩
  · rw [reads, refused.count, pins.within.rd .TIM_CNT_v [0, 3]]
  · rw [closed, stepped, time]
  · rw [closed, stepped, time]

end

/-! ## The loss of the reference (R178, R185) -/

/-- The drift stays within the 0.5 ns of R185, and there is none while the lockstep or the reference holds. -/
theorem incW_refDrift (s : State) : s.time.incE ≤ s.refDrift.time.incW + 2147 ∧ s.refDrift.time.incW ≤ s.time.incE + 2147
    ∧ (s.rd .TIM_STAT_lockstep_lost [0] = 0 ∨ s.rd .TIM_STAT_ref_lost [0] = 0 → s.refDrift.time.incW = s.time.incE) := by
  unfold State.refDrift
  split
  · rename_i drifts
    have rate : ({ s.draw.2 with time := { s.draw.2.time with incW := s.draw.2.time.incE + s.draw.1 % 4295 - 2147 } } : State).time.incW
      = s.time.incE + s.draw.1 % 4295 - 2147 := rfl
    have lost := drifts.imp on_eq_true.1 on_eq_true.1
    refine ⟨?_, ?_, fun h => (h.elim lost.1 lost.2).elim⟩
    · rw [rate]
      omega
    · rw [rate]
      omega
  · exact ⟨Nat.le_add_right .., Nat.le_add_right .., fun _ => rfl⟩

/-- TIME_REF_LOST of a reference that runs marks and reports it, and West's drift begins (R178). -/
theorem timeRefLost_reports {s : State} (h : s.rd .TIM_STAT_ref_lost [0] = 0) : ∃ t, exec .timeRefLost s = .next t ∧ t.rd .TIM_STAT_ref_lost [0] = 1
    ∧ t.host.events = s.host.events ++ [⟨0x0032, 2, record 32 [(0, 1, s.rd .TIM_CFG_ref_src [0])]⟩] ∧ t.time = { s.time with incW := t.time.incW }
    ∧ (s.rd .TIM_STAT_lockstep_lost [0] = 0 → t.time.incW = s.time.incE) ∧ s.time.incE ≤ t.time.incW + 2147 ∧ t.time.incW ≤ s.time.incE + 2147
    ∧ partsBut [.time, .fresh] s t ∧ fieldsBut [.TIM_STAT_ref_lost] s t := by
  have run : exec .timeRefLost s = .next (settle (doTimeRefLost s)) := rfl
  have marks : doTimeRefLost s = ((s.st .TIM_STAT_ref_lost [0] 1).raise 0x0032 2 [(0, 1, s.rd .TIM_CFG_ref_src [0])]).refDrift :=
    if_neg (by simp [on_eq_false.2 h])
  rw [marks] at run
  have told : Within [.time, .fresh] [.TIM_STAT_ref_lost] s ((s.st .TIM_STAT_ref_lost [0] 1).raise 0x0032 2 [(0, 1, s.rd .TIM_CFG_ref_src [0])]) :=
    ((Within.refl _ _ s).st _ _).raise ..
  have lost : ((s.st .TIM_STAT_ref_lost [0] 1).raise 0x0032 2 [(0, 1, s.rd .TIM_CFG_ref_src [0])]).rd .TIM_STAT_ref_lost [0] = 1 := by
    rw [rd_raise _ _ _ _ _ rfl, rd_st_one _ .TIM_STAT_ref_lost]
  have events := raise_events (s.st .TIM_STAT_ref_lost [0] 1) 0x0032 2 [(0, 1, s.rd .TIM_CFG_ref_src [0])] none
  have clock := raise_time (s.st .TIM_STAT_ref_lost [0] 1) 0x0032 2 [(0, 1, s.rd .TIM_CFG_ref_src [0])] none
  generalize (s.st .TIM_STAT_ref_lost [0] 1).raise 0x0032 2 [(0, 1, s.rd .TIM_CFG_ref_src [0])] = u at run told lost events clock
  rw [st_time] at clock
  obtain ⟨drifts, regs, host, time⟩ := refDrift_spec u
  obtain ⟨least, most, still⟩ := incW_refDrift u
  have all := (told.andThen drifts).settle
  rw [clock] at time least most still
  refine ⟨_, run, ?_, ?_, time, fun locked => still (.inl ?_), least, most, all.parts, all.fields⟩
  · rw [rd_settle, rd_congr regs, lost]
  · rw [settle_host, host]
    exact events
  · rw [told.rd .TIM_STAT_lockstep_lost [0], locked]

/-- TIME_REF_RESTORED ends the drift (R178, R185). -/
theorem timeRefRestored_ends (s : State) : ∃ t, exec .timeRefRestored s = .next t ∧ t.rd .TIM_STAT_ref_lost [0] = 0
    ∧ t.time = { s.time with incW := s.time.incE } ∧ partsBut [.time] s t ∧ fieldsBut [.TIM_STAT_ref_lost] s t := by
  have run : exec .timeRefRestored s = .next (settle (s.st .TIM_STAT_ref_lost [0] 0).refDrift) := rfl
  have found : (s.st .TIM_STAT_ref_lost [0] 0).rd .TIM_STAT_ref_lost [0] = 0 := (rd_st_self ..).trans (Nat.zero_mod _)
  have marked : Within [.time] [.TIM_STAT_ref_lost] s (s.st .TIM_STAT_ref_lost [0] 0) := (Within.refl _ _ s).st _ _
  have clock := st_time s .TIM_STAT_ref_lost [0] 0
  generalize s.st .TIM_STAT_ref_lost [0] 0 = u at run found marked clock
  have steady : u.refDrift = { u with time := { u.time with incW := u.time.incE } } := by
    unfold State.refDrift
    rw [if_neg (by simp [on_eq_false.2 found])]
  rw [steady, clock] at run
  have all := (marked.set_time { s.time with incW := s.time.incE }).settle
  exact ⟨_, run, found, rfl, all.parts, all.fields⟩

/-! ## Time reads (R184) -/

/-- TIM_ELAPSED answers the ticks. -/
theorem timeRead_elapsed {s : State} (reached : s.regOff false = false) : ∃ t, exec (.timeRead true) s = .next t
    ∧ t.host.resp = s.time.elapsed % 2 ^ 64 ∧ partsBut [] s t ∧ fieldsBut [] s t := by
  have run : exec (.timeRead true) s = .next (settle (s.answer (s.time.elapsed % 2 ^ 64))) := doneReg_of_reached _ reached
  have all := ((Within.refl [] [] s).answer (s.time.elapsed % 2 ^ 64)).settle
  exact ⟨_, run, rfl, all.parts, all.fields⟩

/-- TIM_NOW_LO answers East's time below the seconds and latches these. -/
theorem timeRead_now {s : State} (reached : s.regOff false = false) : ∃ t, exec (.timeRead false) s = .next t
    ∧ t.host.resp = tFrac s.time.tE + tNs (tRound s.time.tE) * 2 ^ 16 ∧ t.rd .TIM_NOW_HI_sec [0] = tSec (tRound s.time.tE) % 2 ^ 64
    ∧ partsBut [] s t ∧ fieldsBut [.TIM_NOW_HI_sec] s t := by
  have run : exec (.timeRead false) s = .next (settle ((s.answer s.nowLo).st .TIM_NOW_HI_sec [0] (tSec (tRound s.time.tE)))) := doneReg_of_reached _ reached
  have all := (((Within.refl [] [.TIM_NOW_HI_sec] s).answer s.nowLo).st (f := .TIM_NOW_HI_sec) [0] (tSec (tRound s.time.tE))).settle
  refine ⟨_, run, ?_, ?_, all.parts, all.fields⟩
  · rw [settle_host, st_host, answer_resp]
    rfl
  · rw [rd_settle, rd_st_self]
    rfl

/-! ## The whole -/

/-- A step that waits meets its edge where nothing else does (R181). -/
theorem edgeBegun_step {s : State} {r : StepReq} {aE aW : Ts} {D : Int} (hp : s.time.pendStep = some r) (hd : r.due ≤ nextMultiple 1024 s.time.elapsed)
    (hc : s.time.pendCfg = []) (hn : s.time.resyncDue = none)
    (hE : aE = (s.time.tE + (nextMultiple 1024 s.time.elapsed - s.time.elapsed) * s.time.incE) % tsMod)
    (hW : aW = (s.time.tW + (nextMultiple 1024 s.time.elapsed - s.time.elapsed) * s.time.incW) % tsMod)
    (hD : D = (if r.abs then (r.value : Int) - (aE : Int) else if r.neg then -(r.value : Int) else (r.value : Int))) :
    s.edgeBegun.time.pendStep = some r ∧ r.due ≤ s.edgeBegun.time.elapsed ∧ s.edgeBegun.time.pendCfg = [] ∧ s.edgeBegun.time.tE = aE ∧ s.edgeBegun.time.tW = aW
      ∧ s.edgeBegun.stepSize r = D ∧ Within [.time] [] s s.edgeBegun := by
  rw [edgeBegun_of_none hn]
  have passed := (runTo_passes s (nextMultiple 1024 s.time.elapsed)).within
  have clock := time_runTo_edge s
  generalize s.runTo (nextMultiple 1024 s.time.elapsed) = u at passed clock ⊢
  rw [← hE, ← hW] at clock
  refine ⟨by rw [clock, hp], by rw [clock]; exact hd, by rw [clock, hc], by rw [clock], by rw [clock], ?_, passed⟩
  unfold State.stepSize
  rw [clock, hD]

/-- Settles O37: the writes that are due act first at an edge, then the step; every later change there leaves what they set. -/
theorem applyEdgeAndReference : Obligations.ApplyEdgeAndReference := by
  unfold Obligations.ApplyEdgeAndReference
  refine ⟨fun s => ?_, fun s r aE aW D hp hd hc hn hE hW hD => ?_, fun _ => timeRefLost_reports, timeRefRestored_ends, fun _ => ⟨timeRead_elapsed, timeRead_now⟩⟩
  · obtain ⟨elapsed, pendCfg, holdover, locked⟩ := edgeBegun_spec s
    have run := exec_timeApplyEdge s
    generalize s.edgeBegun = u at run elapsed pendCfg holdover locked
    rw [← elapsed, ← pendCfg, ← holdover]
    have ended := (edgeEnded_keeps u).elapsed.trans (cfgWritten_keeps u).1
    have waiting := pendCfg_edgeEnded u
    have enters := edgeEnded_enters (s := u)
    have leaves := edgeEnded_leaves (s := u)
    have inc := fun v => edgeEnded_inc (s := u) (v := v)
    generalize u.edgeEnded = e at run ended waiting enters leaves inc
    exact ⟨_, run, ended, waiting, enters, leaves, fun v hv small h => inc v hv small (locked h)⟩
  · obtain ⟨step, due, writes, tE, tW, size, passed⟩ := edgeBegun_step hp hd hc hn hE hW hD
    have run := exec_timeApplyEdge s
    generalize s.edgeBegun = u at run step due writes tE tW size passed
    rw [← tE, ← tW, ← size, ← passed.rd .TIM_STAT_lockstep_lost [0], ← passed.rd .TIM_CFG_guard_en [0], ← passed.rd .TIM_GUARD_guard_ns [0],
      ← passed.rd .TIM_CNT_v [0, 3]]
    have moves := edgeEnded_moves step due writes
    have refuses := edgeEnded_refuses step due writes
    generalize u.edgeEnded = e at run moves refuses
    refine ⟨fun locked small => ⟨_, run, moves ?_⟩, fun refused => ⟨_, run, refuses ?_⟩⟩
    · rintro (⟨guarded, large⟩ | lost)
      · exact small.elim (on_eq_true.1 guarded) (fun within => Nat.not_lt.2 within large)
      · exact on_eq_true.1 lost locked
    · exact refused.symm.imp (fun ⟨guarded, large⟩ => ⟨on_eq_true.2 guarded, large⟩) on_eq_true.2

end Sys2Proof.Machine

/-! SUPPORT. Gate lists and launch times: what operations that report leave of the host's past, the start of a list, GATE_LOAD, the launch test (O34). -/

namespace Sys2Proof.Machine

/-! ## What the past of the host interface has no part in -/

/-- The state with other taken descriptors, and with events before its own. -/
def State.withPast (s : State) (ts : List Taken) (es : List Evt) : State :=
  { s with host := { s.host with taken := ts, events := es ++ s.host.events } }

/-- Two states that differ in their taken descriptors and in earlier events only. The operations below look at neither, so they keep the difference as it is. -/
def Alike (ts : List Taken) (es : List Evt) (s t : State) : Prop := t = s.withPast ts es

theorem rd_withPast (s : State) (ts : List Taken) (es : List Evt) (f : Fld) (ix : List Nat) : (s.withPast ts es).rd f ix = s.rd f ix := rfl

/-- The number under which the copies of a trapped frame share its cells (R127, R214). -/
def Frame.trapShare (f : Frame) : Nat := if f.share = 0 then f.id + 1 else f.share

/-- The copy that a trap by the scheduler makes (R214). -/
def State.trapCopy (s : State) (f : Frame) : Frame :=
  let h := f.egress
  let p := s.gprof h f.queue
  let g : Frame := { f with
    loc := .request, out := 1056 + 8 * h.n + s.rd .GTE_PROF_trap_port p, tc := s.rd .GTE_PROF_trap_tc p, share := f.trapShare
    pg := none, hdrmReq := false, hdrm := false, ce := false, launch := none, lMiss := none, lateDone := false, sizeTested := false
    queue := 0x3FFF, rsv := 0, pool := 0, depth := 0, poolFree := 0, enqNs := 0, fd := 0, pipe := 16 * h.n + f.pipe % 16, purge := false }
  g.mset 107 8 (max 0x10 (s.rd .GTE_PROF_trap_reason p))

/-- That copy shares the cells and asks for admission (R214). -/
def State.trapAsks (s : State) (f : Frame) : State :=
  let t := ((s.shareMore f.egress f f.trapShare).refAdd (s.trapCopy f)).addFr (s.trapCopy f)
  { t with buf := { t.buf with reqs := t.buf.reqs ++ [(f.egress, s.nextId)] } }

/-- A trap by the scheduler: its copy asks, and the trapped one is freed (R214). -/
theorem schedTrap_eq (s : State) (f : Frame) : s.schedTrap f =
    ((((s.trapAsks f).unqueue f.egress f.queue f.id).bufFree { f with share := f.trapShare } true).release f.egress f).delFr f.id := rfl

/-- A head copy needs longer than its queue ever opens (R213). -/
def State.oversized (s : State) (port : Nat) (a : GList) (f : Frame) : Bool :=
  match a.maxOpen (f.queue % 16) with
  | some m => decide (m * tuNs < Machine.txTime (s.copyLen f) (s.rate port))
  | none => false

/-- An oversized copy is counted, and trapped or dropped (R213). -/
def State.oversizeOut (s : State) (f : Frame) : State :=
  let t := s.bump .GTE_CNT_v [f.egress.n, f.queue, 0] 1
  if t.on .GTE_PROF_over_act (t.gprof f.egress f.queue) then t.schedTrap f else t.freeDrop f 0x0B

theorem oversizeOne_eq (s : State) (port : Nat) (a : GList) (f : Frame) : s.oversizeOne port a f =
    if f.sizeTested || !s.oversized port a f then (false, s.setFr { f with sizeTested := true }) else (true, s.oversizeOut f) := rfl

namespace Alike

variable {ts : List Taken} {es : List Evt} {s t : State}

theorem refl (s : State) : Alike ts es s (s.withPast ts es) := rfl

theorem ite (c : Prop) [Decidable c] {u v : State} (h : Alike ts es s t) (k : Alike ts es u v) : Alike ts es (if c then s else u) (if c then t else v) := by
  split
  · exact h
  · exact k

theorem foldl {α : Type} {op : State → α → State} (hop : ∀ {u v} a, Alike ts es u v → Alike ts es (op u a) (op v a)) (l : List α) (h : Alike ts es s t) :
    Alike ts es (l.foldl op s) (l.foldl op t) := by
  induction l generalizing s t with
  | nil => exact h
  | cons a l ih => exact ih (hop a h)

theorem st (h : Alike ts es s t) (f : Fld) (ix : List Nat) (v : Nat) : Alike ts es (s.st f ix v) (t.st f ix v) := by
  obtain rfl := h
  rfl

theorem bump (h : Alike ts es s t) (f : Fld) (ix : List Nat) (n : Nat) : Alike ts es (s.bump f ix n) (t.bump f ix n) := by
  obtain rfl := h
  rfl

theorem lower (h : Alike ts es s t) (f : Fld) (ix : List Nat) (n : Nat) : Alike ts es (s.lower f ix n) (t.lower f ix n) := by
  obtain rfl := h
  rfl

/-! ### Reports -/

theorem hostWrite (h : Alike ts es s t) (a : Nat) (bs : List Byte) : Alike ts es (s.hostWrite a bs) (t.hostWrite a bs) := by
  obtain rfl := h
  rfl

theorem msixSend (h : Alike ts es s t) (fn vec : Nat) : Alike ts es (s.msixSend fn vec) (t.msixSend fn vec) := by
  obtain rfl := h
  exact ite _ rfl (ite _ rfl rfl)

theorem holdBegin (h : Alike ts es s t) (fn vec r : Nat) : Alike ts es (s.holdBegin fn vec r) (t.holdBegin fn vec r) := by
  obtain rfl := h
  exact ite _ rfl rfl

theorem signal (h : Alike ts es s t) (fn r : Nat) : Alike ts es (s.signal fn r) (t.signal fn r) := by
  obtain rfl := h
  have held : (s.withPast ts es).host.hold = s.host.hold := rfl
  unfold State.signal
  simp only [rd_withPast, held]
  split
  · rfl
  · exact ((refl s).msixSend ..).holdBegin ..

theorem ringPut (h : Alike ts es s t) (fn r : Nat) (ent : List Byte) (a b : Nat) (sig : Bool) :
    Alike ts es (s.ringPut fn r ent a b sig) (t.ringPut fn r ent a b sig) := by
  obtain rfl := h
  have put := ((refl s).hostWrite (s.slotAddr fn r (overlay ent a [byteOf (byteAt ent a + s.phase fn r (s.devIdx fn r) * 2 ^ b)]).length (s.devIdx fn r))
    (overlay ent a [byteOf (byteAt ent a + s.phase fn r (s.devIdx fn r) * 2 ^ b)])).st (ts := ts) (es := es) .HST_RING_STAT_dev_idx [fn, r] (s.devIdx fn r + 1)
  exact ite _ (put.signal fn r) put

/-- A write of one record to an event ring. -/
theorem eventTo (h : Alike ts es s t) (fn : Nat) (e : Evt) : Alike ts es (s.eventTo fn e) (t.eventTo fn e) := by
  obtain rfl := h
  unfold State.eventTo
  extract_lets now one lost drop src w now' one' lost' src' w'
  have wrote : ∀ {u v} code pl, Alike ts es u v → Alike ts es (one u code pl) (one' v code pl) := fun code pl huv => by
    obtain rfl := huv
    exact ringPut rfl ..
  have lostOne : ∀ {u v}, Alike ts es u v → Alike ts es (drop u) (drop v) := fun huv => by
    obtain rfl := huv
    rfl
  have told : Alike ts es w w' := wrote _ _ rfl
  refine ite _ (refl s) (ite _ (lostOne (refl s)) (ite _ (wrote _ _ (refl s)) ?_))
  clear_value w w'
  obtain rfl := told
  exact ite _ (lostOne (refl w)) (wrote _ _ (refl w))

/-- An event is raised behind the earlier ones. -/
theorem raise (h : Alike ts es s t) (code half : Nat) (fs : List (Nat × Nat × Nat)) : Alike ts es (s.raise code half fs) (t.raise code half fs) := by
  obtain rfl := h
  have joined : Alike ts es { s with host := { s.host with events := s.host.events ++ [⟨code, half, record 32 fs⟩] } }
      { s.withPast ts es with host := { (s.withPast ts es).host with events := (s.withPast ts es).host.events ++ [⟨code, half, record 32 fs⟩] } } := by
    simp [Alike, State.withPast]
  exact joined.eventTo 0 ⟨code, half, record 32 fs⟩

theorem pmcThresh (h : Alike ts es s t) (x : Half) (i : Nat) : Alike ts es (s.pmcThresh x i) (t.pmcThresh x i) := by
  obtain rfl := h
  exact ite _ rfl (raise rfl ..)

theorem pmc (h : Alike ts es s t) (x : Half) (ev : Nat) (e : PmcEv) (n : Nat) : Alike ts es (s.pmc x ev e n) (t.pmc x ev e n) :=
  foldl (fun i huv => by
    obtain rfl := huv
    exact ite _ (((refl _).bump ..).pmcThresh ..) rfl) _ h

theorem bridgeMsg (h : Alike ts es s t) (x : Half) : Alike ts es (s.bridgeMsg x) (t.bridgeMsg x) := h.pmc ..

theorem postWork (h : Alike ts es s t) (x : Half) (r : Nat) (body : List Word) : Alike ts es (s.postWork x r body) (t.postWork x r body) := by
  obtain rfl := h
  have room : (s.withPast ts es).rqRoom x r = s.rqRoom x r := rfl
  have post : Alike ts es (s.rqPost x r ⟨body, false, none⟩).2 ((s.withPast ts es).rqPost x r ⟨body, false, none⟩).2 := by
    unfold State.rqPost
    rw [room]
    split
    all_goals rfl
  exact ite _ rfl post

theorem takeWork (h : Alike ts es s t) (x : Half) (r : Nat) (body : List Word) : Alike ts es (s.takeWork x r body) (t.takeWork x r body) := by
  obtain rfl := h
  exact ite _ rfl rfl

theorem viaRoutine {op : State → State} (hop : ∀ {u v}, Alike ts es u v → Alike ts es (op u) (op v)) (h : Alike ts es s t) (x : Half) (r : Nat)
    (body : List Word) : Alike ts es (s.viaRoutine x r body op) (t.viaRoutine x r body op) := by
  obtain rfl := h
  exact ite _ ((refl s).postWork ..) (ite _ (hop ((refl s).takeWork ..)) rfl)

/-! ### Copies that leave a queue -/

theorem deficitClear (h : Alike ts es s t) (k : List Nat) : Alike ts es (s.deficitClear k) (t.deficitClear k) := by
  obtain rfl := h
  exact ite _ rfl rfl

theorem unqueue (h : Alike ts es s t) (x : Half) (q id : Nat) : Alike ts es (s.unqueue x q id) (t.unqueue x q id) := by
  obtain rfl := h
  unfold State.unqueue
  extract_lets l buf u g v l' buf' u' g' v'
  have left : Alike ts es u u' := rfl
  have cleared : Alike ts es v v' := left.deficitClear ..
  refine ite _ left ?_
  clear_value v v'
  obtain rfl := cleared
  exact ite _ ((refl v).deficitClear ..) rfl

theorem poolWatch (h : Alike ts es s t) (x : Half) (i before : Nat) : Alike ts es (s.poolWatch x i before) (t.poolWatch x i before) := by
  obtain rfl := h
  unfold State.poolWatch
  extract_lets f src u src2 f' src' u' src2'
  have armed : Alike ts es u u' := ite _ rfl rfl
  clear_value u u'
  obtain rfl := armed
  exact ite _ rfl (raise rfl ..)

theorem poolReturn (h : Alike ts es s t) (x : Half) (i n : Nat) : Alike ts es (s.poolReturn x i n) (t.poolReturn x i n) := by
  obtain rfl := h
  exact poolWatch rfl ..

theorem physFree (h : Alike ts es s t) (x : Half) (f : Frame) : Alike ts es (s.physFree x f) (t.physFree x f) := by
  obtain rfl := h
  exact ite _ rfl (ite _ rfl rfl)

theorem ipRefresh (h : Alike ts es s t) (x : Half) : Alike ts es (s.ipRefresh x) (t.ipRefresh x) :=
  foldl (fun i huv => by
    obtain rfl := huv
    rfl) _ h

theorem pgEval (h : Alike ts es s t) (x : Half) (j g : Nat) : Alike ts es (s.pgEval x j g) (t.pgEval x j g) := by
  obtain rfl := h
  exact ite _ rfl (ite _ (ite _ rfl rfl) (ite _ rfl rfl))

theorem pgReturn (h : Alike ts es s t) (x : Half) (j g n : Nat) (hdrm remote : Bool) :
    Alike ts es (s.pgReturn x j g n hdrm remote) (t.pgReturn x j g n hdrm remote) := by
  have used := h.lower .BUF_PG_CFG_pg_use [x.n, j, g] n
  have roomed := ite (hdrm = true) (used.lower .BUF_PG_CFG_pg_hdrm [x.n, j, g] n) used
  have remoted := ite (remote = true) (roomed.lower .BUF_PG_REMOTE_pg_remote [x.n, j, g] n) roomed
  exact (remoted.ipRefresh x).pgEval x j g

theorem bufFree (h : Alike ts es s t) (f : Frame) (notice : Bool) : Alike ts es (s.bufFree f notice) (t.bufFree f notice) := by
  unfold State.bufFree
  extract_lets x ix shr u1 u2 u3 u4 x' ix' shr' v1 v2 v3 v4
  have queue : Alike ts es u1 v1 := (h.lower ..).lower ..
  have reserved : Alike ts es u2 v2 := ite _ (queue.poolReturn ..) queue
  have pools : Alike ts es u3 v3 := ite _ (queue.poolReturn ..) (ite _ (reserved.poolReturn ..) reserved)
  have cells : Alike ts es u4 v4 := (pools.bump ..).physFree ..
  clear_value u4 v4
  obtain rfl := cells
  cases f.pg with
  | none => rfl
  | some g => exact ite _ ((refl u4).pgReturn ..) (ite _ (bridgeMsg rfl _) rfl)

theorem sample_withPast (s : State) (ts : List Taken) (es : List Evt) (x : Half) (who sess hash : Nat) :
    (s.withPast ts es).sample x who sess hash = ((s.sample x who sess hash).1, (s.sample x who sess hash).2.withPast ts es) := by
  unfold State.sample
  simp only [rd_withPast]
  split
  all_goals rfl

theorem setExpFifo (h : Alike ts es s t) (x : Half) (q : List (List Byte)) : Alike ts es (s.setExpFifo x q) (t.setExpFifo x q) := by
  obtain rfl := h
  cases x
  all_goals rfl

theorem writeBack (h : Alike ts es s t) (fn r : Nat) : Alike ts es (s.writeBack fn r) (t.writeBack fn r) := by
  obtain rfl := h
  exact ite _ rfl (((refl s).hostWrite ..).signal ..)

theorem telRing (h : Alike ts es s t) (x : Half) (rec : List Byte) : Alike ts es (s.telRing x rec) (t.telRing x rec) := by
  obtain rfl := h
  exact ite _ rfl (writeBack rfl ..)

theorem telDrain (h : Alike ts es s t) (x : Half) : Alike ts es (s.telDrain x) (t.telDrain x) := by
  obtain rfl := h
  exact ite _ rfl (foldl (fun r huv => huv.telRing x r) _ ((refl s).setExpFifo x []))

theorem exportEmit (h : Alike ts es s t) (x : Half) : Alike ts es (s.exportEmit x) (t.exportEmit x) := by
  obtain rfl := h
  refine ite _ rfl (viaRoutine (fun huv => ?_) rfl ..)
  obtain rfl := huv
  cases x
  all_goals rfl

theorem telOffer (h : Alike ts es s t) (x : Half) (rec : List Byte) : Alike ts es (s.telOffer x rec) (t.telOffer x rec) := by
  obtain rfl := h
  unfold State.telOffer
  extract_lets q tel u1 u2 q' tel' v1 v2
  have first : Alike ts es u1 v1 := by
    refine ite _ ?_ rfl
    cases x
    all_goals rfl
  have taken : Alike ts es u2 v2 := first.setExpFifo ..
  clear_value u2 v2
  obtain rfl := taken
  exact ite _ rfl (ite _ ((refl u2).telDrain x) (ite _ ((refl u2).exportEmit x) rfl))

theorem dropCount (h : Alike ts es s t) (x : Half) (cause : Nat) (f : Frame) (record : Bool) :
    Alike ts es (s.dropCount x cause f record) (t.dropCount x cause f record) := by
  unfold State.dropCount
  extract_lets u v
  have counted : Alike ts es u v := h.bump ..
  clear_value u v
  obtain rfl := counted
  refine ite _ ?_ rfl
  rw [sample_withPast]
  exact ite _ (telOffer rfl ..) rfl

theorem release (h : Alike ts es s t) (x : Half) (f : Frame) : Alike ts es (s.release x f) (t.release x f) := by
  obtain rfl := h
  exact ite _ rfl (ite _ rfl (bridgeMsg rfl _))

theorem delFr (h : Alike ts es s t) (i : Nat) : Alike ts es (s.delFr i) (t.delFr i) := by
  obtain rfl := h
  rfl

theorem freeDrop (h : Alike ts es s t) (f : Frame) (cause : Nat) : Alike ts es (s.freeDrop f cause) (t.freeDrop f cause) :=
  ((((h.unqueue ..).bufFree ..).dropCount ..).release ..).delFr _

theorem trapAsks (h : Alike ts es s t) (f : Frame) : Alike ts es (s.trapAsks f) (t.trapAsks f) := by
  obtain rfl := h
  have copy : (s.withPast ts es).trapCopy f = s.trapCopy f := rfl
  unfold State.trapAsks
  rw [copy]
  rfl

theorem schedTrap (h : Alike ts es s t) (f : Frame) : Alike ts es (s.schedTrap f) (t.schedTrap f) := by
  rw [schedTrap_eq, schedTrap_eq]
  exact ((((h.trapAsks f).unqueue ..).bufFree ..).release ..).delFr _

/-! ### Gate lists -/

theorem oversizeOut (h : Alike ts es s t) (f : Frame) : Alike ts es (s.oversizeOut f) (t.oversizeOut f) := by
  obtain rfl := h
  have counted : Alike ts es (s.bump .GTE_CNT_v [f.egress.n, f.queue, 0] 1) ((s.withPast ts es).bump .GTE_CNT_v [f.egress.n, f.queue, 0] 1) := rfl
  exact ite _ (counted.schedTrap f) (counted.freeDrop f 0x0B)

theorem oversizeOne_withPast (s : State) (ts : List Taken) (es : List Evt) (port : Nat) (a : GList) (f : Frame) :
    (s.withPast ts es).oversizeOne port a f = ((s.oversizeOne port a f).1, (s.oversizeOne port a f).2.withPast ts es) := by
  have test : (s.withPast ts es).oversized port a f = s.oversized port a f := rfl
  rw [oversizeOne_eq, oversizeOne_eq, test]
  split
  · rfl
  · exact congrArg (Prod.mk true) (oversizeOut (refl s) f)

theorem oversizeQueue (h : Alike ts es s t) (port q : Nat) (a : GList) (n : Nat) : Alike ts es (s.oversizeQueue port q a n) (t.oversizeQueue port q a n) := by
  induction n generalizing s t with
  | zero => exact h
  | succ n ih =>
    obtain rfl := h
    have head : ((State.queueIds (s.withPast ts es) (portHalf port) q).head?).bind (s.withPast ts es).fr? = ((s.queueIds (portHalf port) q).head?).bind s.fr? := rfl
    unfold State.oversizeQueue
    rw [head]
    split
    · rfl
    next f _ =>
      refine ite _ rfl ?_
      rw [oversizeOne_withPast]
      exact ite _ (ih rfl) rfl

theorem oversizePort (h : Alike ts es s t) (port : Nat) : Alike ts es (s.oversizePort port) (t.oversizePort port) := by
  obtain rfl := h
  have list : (s.withPast ts es).glA port = s.glA port := rfl
  unfold State.oversizePort
  rw [list]
  split
  · rfl
  · refine foldl (fun i huv => ?_) _ rfl
    obtain rfl := huv
    exact oversizeQueue rfl ..

theorem gateStart (h : Alike ts es s t) (port : Nat) : Alike ts es (s.gateStart port) (t.gateStart port) := by
  obtain rfl := h
  have list : (s.withPast ts es).glP port = s.glP port := rfl
  unfold State.gateStart
  rw [list]
  split
  · rfl
  · exact (raise rfl ..).oversizePort port

theorem gateDue (h : Alike ts es s t) (port : Nat) : Alike ts es (s.gateDue port) (t.gateDue port) := by
  obtain rfl := h
  have list : (s.withPast ts es).glP port = s.glP port := rfl
  unfold State.gateDue
  rw [list]
  split
  · exact ite _ (gateStart rfl port) rfl
  · rfl

end Alike

/-- Which taken descriptors there are changes nothing but themselves. -/
theorem Alike.within {ts : List Taken} {es : List Evt} {s t : State} (h : Alike ts es s t) : Within [] [] s t := by
  obtain rfl := h
  exact ⟨partsBut_set_host (partsBut_refl [] s) _, fieldsBut_refl [] s⟩

theorem Alike.cpls {ts : List Taken} {es : List Evt} {s t : State} (h : Alike ts es s t) : t.host.cpls = s.host.cpls := by
  obtain rfl := h
  rfl

theorem descRun_alike (s : State) (d : Hdr) : Alike (s.descRun d).host.taken [] s (s.descRun d) := by
  unfold State.descRun
  split
  all_goals rfl

/-- An operation that does not look at earlier events forgets none. -/
theorem events_prefix {op : State → State} (hop : ∀ {ts es s t}, Alike ts es s t → Alike ts es (op s) (op t)) (s : State) :
    s.host.events <+: (op s).host.events := by
  have split : Alike s.host.taken s.host.events { s with host := { s.host with events := [] } } s := by simp [Alike, State.withPast]
  exact ⟨_, (congrArg (fun t => t.host.events) (hop split)).symm⟩

end Sys2Proof.Machine

namespace Sys2Proof.Machine

/-! ## What copies that leave a timed port's queue change -/

/-- The parts that a copy touches that leaves its queue, dropped or trapped (R128, R214). -/
def leaveParts : List Part := .buf :: .sched :: .lanes :: dropParts

def leaveFlds : List Fld := .GTE_CNT_v :: Within.freeFlds ++ dropFlds

namespace Within

theorem freeDrop (s : State) (f : Frame) (cause : Nat) : Within leaveParts leaveFlds s (s.freeDrop f cause) :=
  ((unqueue s f.egress f.queue f.id).mono.andThen (bufFree ..)).andThen (dropFr ..)

theorem trapAsks (s : State) (f : Frame) : Within leaveParts leaveFlds s (s.trapAsks f) :=
  ((((refl _ _ s).set_buf (s.shareMore f.egress f f.trapShare).buf).bump (f := .SLC_REFCNT_count) _ _).addFr (s.trapCopy f)).set_buf _

theorem schedTrap (s : State) (f : Frame) : Within leaveParts leaveFlds s (s.schedTrap f) :=
  ((((trapAsks s f).andThen (unqueue ..)).andThen (bufFree ..)).andThen (release ..)).delFr _

theorem oversizeOut (s : State) (f : Frame) : Within leaveParts leaveFlds s (s.oversizeOut f) := by
  have counted : Within leaveParts leaveFlds s (s.bump .GTE_CNT_v [f.egress.n, f.queue, 0] 1) := (refl _ _ s).bump _ _
  exact ite _ (counted.trans (schedTrap ..)) (counted.trans (freeDrop ..))

theorem oversizeOne (s : State) (port : Nat) (a : GList) (f : Frame) : Within leaveParts leaveFlds s (s.oversizeOne port a f).2 := by
  rw [oversizeOne_eq]
  split
  · exact (refl _ _ s).setFr _
  · exact oversizeOut s f

theorem oversizeQueue (s : State) (port q : Nat) (a : GList) (n : Nat) : Within leaveParts leaveFlds s (s.oversizeQueue port q a n) := by
  induction n generalizing s with
  | zero => exact refl ..
  | succ n ih =>
    unfold State.oversizeQueue
    split
    · exact refl ..
    · have tested := oversizeOne s port a
      exact ite _ (refl ..) (ite _ ((tested _).trans (ih _)) (tested _))

theorem oversizePort (s : State) (port : Nat) : Within leaveParts leaveFlds s (s.oversizePort port) := by
  unfold State.oversizePort
  split
  · exact refl ..
  · exact foldl (fun t i => oversizeQueue ..) _ s

end Within

end Sys2Proof.Machine

namespace Sys2Proof.Machine

/-! ## A gate list starts (R210) -/

theorem glP_congr {s t : State} (h : t.timed = s.timed) (port : Nat) : t.glP port = s.glP port := by
  unfold State.glP
  rw [h]

theorem glA_congr {s t : State} (h : t.timed = s.timed) (port : Nat) : t.glA port = s.glA port := by
  unfold State.glA
  rw [h]

/-- The pending list of a port takes the active one's place, whose memory is freed (R210). -/
def State.listTaken (s : State) (port : Nat) (p : GList) : State :=
  let gl := s.timed.gl.erase [port, 1]
  let gl := if p.ents.isEmpty then gl.erase [port, 0] else gl.set [port, 0] p
  { s with timed := { s.timed with gl := gl } }.bump .GTE_MEM_free [(portHalf port).n] (match s.glA port with | some a => a.ents.length | none => 0)

/-- The registers show it, every head is to be tested anew, and the start is reported (R210, R213). -/
def State.listStarted (s : State) (port : Nat) (p : GList) : State :=
  let t := ((s.listTaken port p).glShow port 0 p).glState port
  { t with frames := t.frames.map (fun (f : Frame) => if f.loc = Loc.queued ∧ f.out = port then { f with sizeTested := false } else f) }.raise 0x0040 (portHalf port).n
    [(0, 2, port), (2, 2, p.ents.length), (8, 8, p.start / 1000000000), (16, 4, p.start % 1000000000)]

theorem gateStart_of_pending {s : State} {port : Nat} {p : GList} (h : s.glP port = some p) : s.gateStart port = (s.listStarted port p).oversizePort port := by
  unfold State.gateStart
  rw [h]
  rfl

theorem glP_listTaken (s : State) (port : Nat) (p : GList) : (s.listTaken port p).glP port = none := by
  unfold State.listTaken State.glP
  dsimp only [bump_timed]
  split
  · simp [SMap.get?_erase]
  · simp [SMap.get?_set, SMap.get?_erase]

theorem glA_listTaken (s : State) (port : Nat) (p : GList) : (s.listTaken port p).glA port = if p.ents = [] then none else some p := by
  unfold State.listTaken State.glA
  dsimp only [bump_timed]
  cases p.ents with
  | nil => simp [SMap.get?_erase]
  | cons e l => simp

theorem listStarted_timed (s : State) (port : Nat) (p : GList) : (s.listStarted port p).timed = (s.listTaken port p).timed := raise_timed ..

/-- `gl_state` shows which lists a port holds. -/
theorem rd_listStarted (s : State) (port : Nat) (p : GList) :
    (s.listStarted port p).rd .GTE_PORT_STAT_gl_state [(portHalf port).n, localIdx port] = if p.ents = [] then 0 else 1 := by
  have lists : ((s.listTaken port p).glShow port 0 p).timed = (s.listTaken port p).timed := rfl
  have shown : (s.listStarted port p).rd .GTE_PORT_STAT_gl_state [(portHalf port).n, localIdx port]
      = (((s.listTaken port p).glShow port 0 p).glState port).rd .GTE_PORT_STAT_gl_state [(portHalf port).n, localIdx port] := rd_raise _ _ _ _ _ rfl
  rw [shown]
  unfold State.glState
  rw [rd_st_self, glP_congr lists, glA_congr lists, glP_listTaken, glA_listTaken]
  by_cases none_left : p.ents = []
  · rw [if_pos none_left, if_pos none_left]
    rfl
  · rw [if_neg none_left, if_neg none_left]
    rfl

/-- The pending list is active, the active one gone, and the start reported (R210). -/
theorem gateStart_starts {s : State} {port : Nat} {p : GList} (h : s.glP port = some p) :
    (s.gateStart port).glP port = none ∧ (s.gateStart port).glA port = (if p.ents = [] then none else some p)
      ∧ (s.gateStart port).rd .GTE_PORT_STAT_gl_state [(portHalf port).n, localIdx port] = (if p.ents = [] then 0 else 1)
      ∧ ⟨0x0040, (portHalf port).n, record 32 [(0, 2, port), (2, 2, p.ents.length), (8, 8, p.start / 1000000000), (16, 4, p.start % 1000000000)]⟩
          ∈ (s.gateStart port).host.events := by
  have told : ⟨0x0040, (portHalf port).n, record 32 [(0, 2, port), (2, 2, p.ents.length), (8, 8, p.start / 1000000000), (16, 4, p.start % 1000000000)]⟩
      ∈ (s.listStarted port p).host.events := by
    unfold State.listStarted
    simp
  have tested := Within.oversizePort (s.listStarted port p) port
  have lists : ((s.listStarted port p).oversizePort port).timed = (s.listTaken port p).timed :=
    (tested.parts .timed (by decide)).trans (listStarted_timed s port p)
  rw [gateStart_of_pending h]
  exact ⟨(glP_congr lists port).trans (glP_listTaken ..), (glA_congr lists port).trans (glA_listTaken ..), (tested.rd _ _).trans (rd_listStarted ..),
    (events_prefix (fun k => k.oversizePort port) _).subset told⟩

theorem runUntil_passes (s : State) (h : Half) (ns : Nat) : ∃ t, Passes s (s.runUntil h ns) t :=
  ⟨s.time.elapsed + ceilDiv (ns * tsNs - s.now h) (s.incOf h), runTo_passes ..⟩

/-- Time that passes leaves the lists. -/
theorem glP_runUntil (s : State) (h : Half) (ns port : Nat) : (s.runUntil h ns).glP port = s.glP port := by
  obtain ⟨_, passed⟩ := runUntil_passes s h ns
  exact glP_congr (passed.within.parts .timed (by decide)) port

theorem doGateListStart_of_seen {s : State} {port : Nat} {p : GList} (hp : s.glP port = some p) (hx : s.xingBusy (portHalf port) 2 0 = false) :
    doGateListStart port s = (s.runUntil (portHalf port) p.start).gateStart port := by
  unfold doGateListStart
  rw [hp]
  exact if_neg (by simp [hx])

theorem doGateListStart_of_unseen {s : State} {port : Nat} (hx : s.xingBusy (portHalf port) 2 0 = true) : doGateListStart port s = s := by
  unfold doGateListStart
  split
  · exact if_pos hx
  · rfl

/-- GATE_LIST_START at a half that sees network time (R210). -/
theorem gateListStart_starts {s : State} {port : Nat} {p : GList} (hp : s.glP port = some p) (hx : s.xingBusy (portHalf port) 2 0 = false) :
    ∃ t, exec (.gateListStart port) s = .next t ∧ t.glP port = none ∧ t.glA port = (if p.ents = [] then none else some p)
      ∧ t.rd .GTE_PORT_STAT_gl_state [(portHalf port).n, localIdx port] = (if p.ents = [] then 0 else 1)
      ∧ ⟨0x0040, (portHalf port).n, record 32 [(0, 2, port), (2, 2, p.ents.length), (8, 8, p.start / 1000000000), (16, 4, p.start % 1000000000)]⟩ ∈ t.host.events := by
  have run : exec (.gateListStart port) s = .next (settle (doGateListStart port s)) := rfl
  have started := gateStart_starts ((glP_runUntil s (portHalf port) p.start port).trans hp)
  rw [← doGateListStart_of_seen hp hx] at started
  exact ⟨_, run, started⟩

/-- A half whose crossing from the time base is not acknowledged does not see the start (R411). -/
theorem gateListStart_unseen {s : State} {port : Nat} (hx : s.xingBusy (portHalf port) 2 0 = true) :
    ∃ t, exec (.gateListStart port) s = .next t ∧ partsBut [] s t ∧ fieldsBut [] s t := by
  have run : exec (.gateListStart port) s = .next (settle (doGateListStart port s)) := rfl
  rw [doGateListStart_of_unseen hx] at run
  exact ⟨_, run, partsBut_settle (partsBut_refl [] s), fieldsBut_refl [] s⟩

end Sys2Proof.Machine

namespace Sys2Proof.Machine

/-! ## GATE_LOAD (R208, R209) -/

/-- The fields that a loaded list changes (R208, R209). -/
def loadFlds : List Fld :=
  [.GTE_MEM_free, .GTE_LIST_start_sec, .GTE_LIST_start_ns, .GTE_LIST_cycle_ns, .GTE_PORT_STAT_gl_state, .GTE_PORT_STAT_adjusted, .GTE_ADJ_N_v]

/-- A list waits behind the active one of its port, in the memory that an earlier waiting one leaves (R208). -/
def State.listStored (s : State) (port : Nat) (g : GList) : State :=
  ({ s with timed := { s.timed with gl := s.timed.gl.set [port, 1] g } }.lower .GTE_MEM_free [(portHalf port).n] g.ents.length).bump .GTE_MEM_free [(portHalf port).n]
    (match s.glP port with | some p => p.ents.length | none => 0)

/-- The registers show it, with N of R209 and START_ADJUSTED. -/
def State.listLoaded (s : State) (port : Nat) (g : GList) (n : Nat) (adj : Bool) : State :=
  ((((s.listStored port g).glShow port 1 g).glState port).sts
    [(.GTE_ADJ_N_v, [(portHalf port).n, localIdx port], n), (.GTE_PORT_STAT_adjusted, [(portHalf port).n, localIdx port], b2n adj)])

theorem Within.listLoaded (s : State) (port : Nat) (g : GList) (n : Nat) (adj : Bool) : Within [.timed] loadFlds s (s.listLoaded port g n adj) := by
  have kept : Within [.timed] loadFlds s { s with timed := { s.timed with gl := s.timed.gl.set [port, 1] g } } :=
    ⟨partsBut_set_timed (partsBut_refl _ s) (by decide) _, fieldsBut_refl _ s⟩
  have stored : Within [.timed] loadFlds s (s.listStored port g) := (kept.lower _ _).bump _ _
  exact ((stored.sts _ (by simp [loadFlds])).st (f := .GTE_PORT_STAT_gl_state) _ _).sts _ (by simp [loadFlds])

theorem listLoaded_host (s : State) (port : Nat) (g : GList) (n : Nat) (adj : Bool) : (s.listLoaded port g n adj).host = s.host := by
  unfold State.listLoaded State.glState State.glShow State.sts State.listStored
  simp only [List.foldl_cons, List.foldl_nil, st_host, bump_host, lower_host]

theorem glP_listLoaded (s : State) (port : Nat) (g : GList) (n : Nat) (adj : Bool) : (s.listLoaded port g n adj).glP port = some g :=
  SMap.get?_set_self ..

theorem glA_listLoaded (s : State) (port : Nat) (g : GList) (n : Nat) (adj : Bool) : (s.listLoaded port g n adj).glA port = s.glA port :=
  SMap.get?_set_ne _ _ (by simp)

theorem rd_listLoaded (s : State) (port : Nat) (g : GList) (n : Nat) (adj : Bool) :
    (s.listLoaded port g n adj).rd .GTE_ADJ_N_v [(portHalf port).n, localIdx port] = n % 2 ^ 64 := by
  unfold State.listLoaded State.sts
  simp only [List.foldl_cons, List.foldl_nil]
  rw [rd_st_of_ne _ _ _ _ (by decide), rd_st_self]
  rfl

theorem now_gateDue (s : State) (port : Nat) (h : Half) : (s.gateDue port).now h = s.now h := by
  unfold State.now
  rw [(Timeless.gateDue s port).time]

/-- A load commits after the lists that are due: GATE_FULL, or the list waits with the start of R209, and the load completes (R208, R209, R210). -/
theorem gateCommit_eq (s : State) (d : Hdr) (port b c : Nat) (es : List (Nat × Nat)) {x : Nat × Nat × Bool}
    (hx : startOf b (if es.isEmpty then 1 else c) (s.now (portHalf port)) = x) :
    s.gateCommit d port b c es =
      if (s.gateDue port).rd .GTE_MEM_free [(portHalf port).n] < es.length then (s.gateDue port).fail d 0x10
      else ((s.gateDue port).listLoaded port ⟨x.1, if es.isEmpty then 1 else c, es⟩ x.2.1 x.2.2).completeX d stOk 0 0 (some (startExt x.1 x.2.1 x.2.2)) := by
  obtain ⟨st, n, adj⟩ := x
  unfold State.gateCommit
  extract_lets +onlyGivenNames h u
  have found : startOf b (if es.isEmpty then 1 else c) (u.now h) = (st, n, adj) := (congrArg _ (now_gateDue s port h)).trans hx
  rw [found]
  rfl

end Sys2Proof.Machine

namespace Sys2Proof.Machine

/-- A GATE_LOAD that passes its checks: its entries as the host buffer gives them, and the cycle that its list has (R206, R208). -/
structure LoadFits (s : State) (d : Hdr) (port entries bns cycle c : Nat) (es : List (Nat × Nat)) : Prop where
  served : served s d ⟨0x40, .config, true, false, 0⟩ true (cleanHdr d false false true && decide (bns < 1000000000))
  few : entries ≤ 1024
  long : entries ≠ 0 → 64 ≤ cycle
  front : port < 1024
  configured : s.configured port = true
  list : (entries = 0 ∧ es = []) ∨ (entries ≠ 0 ∧ ∃ bs, d.buf = some bs ∧ gateEntries bs entries = some es)
  cycle : c = if entries = 0 then 1 else cycle

theorem length_of_gateEntries {bs : List Byte} {n : Nat} {es : List (Nat × Nat)} (h : gateEntries bs n = some es) : es.length = n := by
  unfold gateEntries at h
  dsimp only at h
  split at h
  · cases h
    simp
  · simp at h

/-- The state in which the list of a GATE_LOAD waits, and its completion. -/
def State.loadDone (u : State) (d : Hdr) (port : Nat) (es : List (Nat × Nat)) (c : Nat) (x : Nat × Nat × Bool) : State :=
  if u.rd .GTE_MEM_free [(portHalf port).n] < es.length then u.fail d 0x10
  else (u.listLoaded port ⟨x.1, c, es⟩ x.2.1 x.2.2).completeX d stOk 0 0 (some (startExt x.1 x.2.1 x.2.2))

namespace LoadFits

variable {s : State} {d : Hdr} {port entries bsec bns cycle c : Nat} {es : List (Nat × Nat)}

theorem cycle_eq (h : LoadFits s d port entries bns cycle c es) : (if es.isEmpty then 1 else cycle) = c := by
  rw [h.cycle]
  rcases h.list with ⟨rfl, rfl⟩ | ⟨some_, bs, -, found⟩
  · rfl
  · have count := length_of_gateEntries found
    have filled : es ≠ [] := by
      rintro rfl
      exact some_ count.symm
    simp [filled, some_]

/-- It commits in the state in which it runs. -/
theorem commits (h : LoadFits s d port entries bns cycle c es) (hd : due s (.gateLoad d port entries bsec bns cycle)) :
    exec (.gateLoad d port entries bsec bns cycle) s = .next (settle ((s.descRun d).gateCommit d port (bsec * 1000000000 + bns) cycle es)) := by
  have here : (s.descRun d).configured port = true := by
    unfold State.configured
    rw [descRun_lanes]
    exact h.configured
  have fits : ¬ (1024 < entries ∨ (entries ≠ 0 ∧ cycle < 64)) := by
    have := h.few
    have := h.long
    omega
  have known : ¬ (1024 ≤ port ∨ ¬ (s.descRun d).configured port = true) := by
    have := h.front
    simp [here, this]
  refine (doneDesc_of_served _ (hd d rfl) h.served).trans (congrArg (fun t => Host.Outcome.next (settle t)) ?_)
  dsimp only
  rw [if_neg fits, if_neg known]
  rcases h.list with ⟨rfl, rfl⟩ | ⟨some_, bs, buf, found⟩
  · exact if_pos rfl
  · rw [if_neg some_]
    unfold State.withBuf
    rw [buf]
    dsimp only
    rw [found]

theorem runs (h : LoadFits s d port entries bns cycle c es) (hd : due s (.gateLoad d port entries bsec bns cycle)) {x : Nat × Nat × Bool}
    (hx : startOf (bsec * 1000000000 + bns) c (s.now (portHalf port)) = x) :
    exec (.gateLoad d port entries bsec bns cycle) s = .next (settle (((s.descRun d).gateDue port).loadDone d port es c x)) := by
  have now : (s.descRun d).now = s.now := by
    unfold State.now
    rw [descRun_time]
  rw [h.commits hd, gateCommit_eq (s.descRun d) d port _ cycle es (x := x) (by rw [h.cycle_eq, now, hx]), h.cycle_eq]
  rfl

end LoadFits

/-- The list waits with its start, and the load completes (R208, R209). -/
theorem gateLoad_stores {s : State} {d : Hdr} {port entries bsec bns cycle c : Nat} {es : List (Nat × Nat)} (h : LoadFits s d port entries bns cycle c es)
    (hm : es.length ≤ (s.gateDue port).rd .GTE_MEM_free [(portHalf port).n]) (hd : due s (.gateLoad d port entries bsec bns cycle)) :
    ∃ t, exec (.gateLoad d port entries bsec bns cycle) s = .next t ∧ completed (s.gateDue port) t d 0 0 0
      ∧ t.glP port = some ⟨(startOf (bsec * 1000000000 + bns) c (s.now (portHalf port))).1, c, es⟩
      ∧ t.rd .GTE_ADJ_N_v [(portHalf port).n, localIdx port] = (startOf (bsec * 1000000000 + bns) c (s.now (portHalf port))).2.1 % 2 ^ 64
      ∧ t.glA port = (s.gateDue port).glA port ∧ partsBut [.timed] (s.gateDue port) t ∧ fieldsBut loadFlds (s.gateDue port) t := by
  generalize hx : startOf (bsec * 1000000000 + bns) c (s.now (portHalf port)) = x
  have run := h.runs hd hx
  have alike := (descRun_alike s d).gateDue port
  generalize (s.descRun d).gateDue port = v at run alike
  generalize s.gateDue port = u at hm alike ⊢
  have room : ¬ v.rd .GTE_MEM_free [(portHalf port).n] < es.length := by
    rw [alike.within.rd _ _]
    omega
  unfold State.loadDone at run
  rw [if_neg room] at run
  have loaded := Within.listLoaded v port ⟨x.1, c, es⟩ x.2.1 x.2.2
  have pending := glP_listLoaded v port ⟨x.1, c, es⟩ x.2.1 x.2.2
  have active := glA_listLoaded v port ⟨x.1, c, es⟩ x.2.1 x.2.2
  have shown := rd_listLoaded v port ⟨x.1, c, es⟩ x.2.1 x.2.2
  have host : (v.listLoaded port ⟨x.1, c, es⟩ x.2.1 x.2.2).host = v.host := listLoaded_host ..
  generalize v.listLoaded port ⟨x.1, c, es⟩ x.2.1 x.2.2 = w at run loaded pending active shown host
  have all := (((alike.within.mono (ps := [.timed]) (fs := loadFlds)).trans loaded).completeX d stOk 0 0 (some (startExt x.1 x.2.1 x.2.2))).settle
  have lists := completeX_timed w d stOk 0 0 (some (startExt x.1 x.2.1 x.2.2))
  have cpls := completeX_cpls w d stOk 0 0 (some (startExt x.1 x.2.1 x.2.2))
  have reads := rd_completeX w d stOk 0 0 (some (startExt x.1 x.2.1 x.2.2)) (f := .GTE_ADJ_N_v) (ix := [(portHalf port).n, localIdx port]) rfl
  generalize w.completeX d stOk 0 0 (some (startExt x.1 x.2.1 x.2.2)) = t at run all lists cpls reads
  refine ⟨settle t, run, ?_, (glP_congr lists port).trans pending, reads.trans shown, ?_, all.parts, all.fields⟩
  · rw [host, alike.cpls] at cpls
    exact cpls
  · exact ((glA_congr lists port).trans active).trans (glA_congr (alike.within.parts .timed (by decide)) port)

/-- A list that does not fit (R208). -/
theorem gateLoad_full {s : State} {d : Hdr} {port entries bsec bns cycle c : Nat} {es : List (Nat × Nat)} (h : LoadFits s d port entries bns cycle c es)
    (hm : (s.gateDue port).rd .GTE_MEM_free [(portHalf port).n] < es.length) (hd : due s (.gateLoad d port entries bsec bns cycle)) :
    ∃ t, exec (.gateLoad d port entries bsec bns cycle) s = .next t ∧ completed (s.gateDue port) t d 0x10 0 0
      ∧ partsBut [] (s.gateDue port) t ∧ fieldsBut [] (s.gateDue port) t := by
  have run := h.runs hd rfl
  have alike := (descRun_alike s d).gateDue port
  generalize (s.descRun d).gateDue port = v at run alike
  generalize s.gateDue port = u at hm alike ⊢
  unfold State.loadDone at run
  rw [if_pos (by rw [alike.within.rd _ _]; exact hm)] at run
  have all := (alike.within.completeX d 0x10 0 0 none).settle
  have cpls := completeX_cpls v d 0x10 0 0 none
  rw [alike.cpls] at cpls
  exact ⟨_, run, cpls, all.parts, all.fields⟩

end Sys2Proof.Machine

namespace Sys2Proof.Machine

/-! ## What a freed copy returns leaves the queues -/

theorem poolWatch_queues (s : State) (h : Half) (i before : Nat) : (s.poolWatch h i before).buf.queues = s.buf.queues := by
  unfold State.poolWatch
  extract_lets f b t
  have armed : t.buf.queues = s.buf.queues := by
    unfold t
    split <;> rfl
  split
  · exact armed
  · rw [raise_buf]
    exact armed

theorem poolReturn_queues (s : State) (h : Half) (i n : Nat) : (s.poolReturn h i n).buf.queues = s.buf.queues := poolWatch_queues ..

theorem physFree_queues (s : State) (h : Half) (f : Frame) : (s.physFree h f).buf.queues = s.buf.queues := by
  unfold State.physFree
  split
  · rfl
  · dsimp only
    split <;> rfl

theorem ipRefresh_queues (s : State) (h : Half) : (s.ipRefresh h).buf.queues = s.buf.queues := rfl

theorem pgEval_queues (s : State) (h : Half) (j g : Nat) : (s.pgEval h j g).buf.queues = s.buf.queues := by
  unfold State.pgEval
  split
  · rfl
  · extract_lets l x u v w
    split
    · split <;> rfl
    · split <;> rfl

theorem pgReturn_queues (s : State) (h : Half) (j g n : Nat) (hdrm remote : Bool) : (s.pgReturn h j g n hdrm remote).buf.queues = s.buf.queues := by
  unfold State.pgReturn
  extract_lets u v w
  have held : v.buf.queues = s.buf.queues := by
    unfold v
    split <;> rfl
  have across : w.buf.queues = v.buf.queues := by
    unfold w
    split <;> rfl
  rw [pgEval_queues, ipRefresh_queues, across, held]

theorem bufFree_queues (s : State) (f : Frame) (notice : Bool) : (s.bufFree f notice).buf.queues = s.buf.queues := by
  unfold State.bufFree
  extract_lets h ix shr u v w x ih j
  have reserved : v.buf.queues = s.buf.queues := by
    unfold v
    split
    · exact poolReturn_queues ..
    · rfl
  have pools : w.buf.queues = s.buf.queues := by
    unfold w
    split
    · exact poolReturn_queues ..
    · split
      · rw [poolReturn_queues, reserved]
      · exact reserved
  have cells : x.buf.queues = s.buf.queues := (physFree_queues ..).trans pools
  split
  · exact cells
  · split
    · rw [pgReturn_queues, cells]
    · split
      · exact (congrArg Buf.queues ((Reports.refl _).bridgeMsg h).buf).trans cells
      · exact cells

/-- A dropped copy stands in its queue no more (R128). -/
theorem queueIds_freeDrop (s : State) (f : Frame) (cause : Nat) :
    (s.freeDrop f cause).queueIds f.egress f.queue = (s.queueIds f.egress f.queue).filter (fun i => i ≠ f.id) := by
  have lost : ((s.freeDrop f cause).buf) = ((s.unqueue f.egress f.queue f.id).bufFree f true).buf :=
    (Within.dropFr ((s.unqueue f.egress f.queue f.id).bufFree f true) f.egress cause f).parts .buf (by decide)
  have left := queueIds_unqueue s f.egress f.queue f.queue f.id
  rw [if_pos rfl] at left
  rw [queueIds_congr lost, ← left]
  unfold State.queueIds
  rw [bufFree_queues]

/-! ## The launch test (R217) -/

/-- The copy leaves for a failed launch test: counted in the counter `k` of its queue, and dropped. -/
def State.launchDrop (s : State) (f : Frame) (k cause : Nat) : State := (s.bump .GTE_CNT_v [f.egress.n, f.queue, k] 1).freeDrop f cause

/-- A late copy that is sent nevertheless: marked, so that it counts once. -/
def State.launchLate (s : State) (f : Frame) : State := (s.setFr { f with lateDone := true }).bump .GTE_CNT_v [f.egress.n, f.queue, 2] 1

theorem dropped_launchDrop (s : State) (f : Frame) (k cause : Nat) : dropped s (s.launchDrop f k cause) f.id f.egress cause :=
  dropped_congr (dropped_freeDrop _ f cause) (fun _ _ => rfl) rfl (rd_st_of_ne s _ _ _ (by decide))

theorem queueIds_launchDrop {s : State} {f : Frame} (h : s.queueIds f.egress f.queue = [f.id]) (k cause : Nat) :
    (s.launchDrop f k cause).queueIds f.egress f.queue = [] := by
  refine (queueIds_freeDrop _ f cause).trans ?_
  rw [queueIds_congr (bump_buf ..), h]
  simp

theorem rd_launchDrop (s : State) (f : Frame) (k cause : Nat) :
    (s.launchDrop f k cause).rd .GTE_CNT_v [f.egress.n, f.queue, k] = (s.rd .GTE_CNT_v [f.egress.n, f.queue, k] + 1) % 2 ^ 64 := by
  have left : Within [.buf, .sched, .lanes] Within.freeFlds (s.bump .GTE_CNT_v [f.egress.n, f.queue, k] 1)
      (((s.bump .GTE_CNT_v [f.egress.n, f.queue, k] 1).unqueue f.egress f.queue f.id).bufFree f true) := (Within.unqueue _ f.egress f.queue f.id).mono.andThen (.bufFree ..)
  exact ((Within.dropFr _ f.egress cause f).rd _ _).trans ((left.rd _ _).trans (rd_bump_self ..))

theorem Within.launchDrop (s : State) (f : Frame) (k cause : Nat) : Within leaveParts leaveFlds s (s.launchDrop f k cause) :=
  ((refl _ _ s).bump _ _).trans (freeDrop ..)

theorem Within.launchLate (s : State) (f : Frame) : Within [.frames] [.GTE_CNT_v] s (s.launchLate f) := ((refl _ _ s).setFr _).bump _ _

section
variable {s : State} {port : Nat} {f : Frame} {v : Nat} (hl : f.launch = some v)
include hl

theorem launchOne_far (some_ : s.rd .GTE_PROF_lt_max (s.gprof f.egress f.queue) ≠ 0)
    (far : ((s.rd .GTE_PROF_lt_max (s.gprof f.egress f.queue) * 1000 * tuNs : Nat) : Int) < s.launchTime port f - s.base port) :
    s.launchOne port f = (true, s.launchDrop f 3 0x0D) := by
  unfold State.launchOne
  extract_lets h q p base l
  have stamped : ¬ (f.launch.isNone ∧ f.lMiss.isNone) := by simp [hl]
  rw [if_neg stamped]
  exact if_pos ⟨Nat.mul_ne_zero some_ (by decide), far⟩

theorem launchOne_late (new : f.lateDone = false)
    (late : s.launchTime port f + ((s.rd .GTE_PROF_lt_tol (s.gprof f.egress f.queue) * tuNs : Nat) : Int) < s.base port) : s.launchOne port f =
    if s.on .GTE_PROF_late_act (s.gprof f.egress f.queue) then (false, s.launchLate f) else (true, s.launchDrop f 1 0x0C) := by
  unfold State.launchOne
  extract_lets h q p base l
  have stamped : ¬ (f.launch.isNone ∧ f.lMiss.isNone) := by simp [hl]
  have close : ¬ (s.rd .GTE_PROF_lt_max (s.gprof f.egress f.queue) * 1000 ≠ 0
      ∧ ((s.rd .GTE_PROF_lt_max (s.gprof f.egress f.queue) * 1000 * tuNs : Nat) : Int) < s.launchTime port f - s.base port) := by
    omega
  rw [if_neg stamped]
  exact (if_neg close).trans (if_pos ⟨new, late⟩)

end

/-- One copy stands in the queue, and no rule keeps it from its test. -/
theorem launchQueue_of_single {s : State} {port q : Nat} {f : Frame} (hq : s.queueIds (portHalf port) q = [f.id]) (hf : s.fr? f.id = some f)
    (hs : s.stale f = false) : s.launchQueue port q 1 = (s.launchOne port f).2 := by
  unfold State.launchQueue
  rw [hq]
  simp only [List.head?_cons, Option.bind_some, hf, hs]
  exact (if_neg Bool.false_ne_true).trans (ite_self _)

/-- A fold in which one element acts, before and after the others. -/
theorem foldl_of_single {α β : Type} {op : α → β → α} {l : List β} {s : α} {b : β} (hn : l.Nodup) (hb : b ∈ l)
    (before : ∀ c ∈ l, c ≠ b → op s c = s) (after : ∀ c ∈ l, c ≠ b → op (op s b) c = op s b) : l.foldl op s = op s b := by
  obtain ⟨front, rest, rfl⟩ := List.append_of_mem hb
  have stays {x : α} {m : List β} (h : ∀ c ∈ m, op x c = x) : m.foldl op x = x := 
    List.foldlRecOn (motive := (· = x)) m op rfl (fun y hy c hc => by rw [hy, h c hc])
  rw [List.nodup_append, List.nodup_cons] at hn
  obtain ⟨-, ⟨hr, -⟩, apart⟩ := hn
  rw [List.foldl_append, stays fun c hc => before c (by simp [hc]) (apart c hc b (by simp)), List.foldl_cons]
  exact stays fun c hc => after c (by simp [hc]) (fun e => hr (e ▸ hc))

/-- A launch test of a port one of whose queues has one: the copy at its head is tested. -/
theorem launchPort_of_single {s : State} {port i : Nat} {f : Frame} (hi : i < 16) (on : s.on .GTE_Q_CFG_lt_en [(portHalf port).n, 16 * localIdx port + i] = true)
    (off : ∀ j, j < 16 → j ≠ i → s.on .GTE_Q_CFG_lt_en [(portHalf port).n, 16 * localIdx port + j] = false)
    (hq : s.queueIds (portHalf port) (16 * localIdx port + i) = [f.id]) (hf : s.fr? f.id = some f) (hs : s.stale f = false)
    (kept : ∀ q, (s.launchOne port f).2.rd .GTE_Q_CFG_lt_en [(portHalf port).n, q] = s.rd .GTE_Q_CFG_lt_en [(portHalf port).n, q]) :
    s.launchPort port = (s.launchOne port f).2 := by
  unfold State.launchPort
  dsimp only
  have acts : (if s.on .GTE_Q_CFG_lt_en [(portHalf port).n, 16 * localIdx port + i]
      then s.launchQueue port (16 * localIdx port + i) (s.queueIds (portHalf port) (16 * localIdx port + i)).length else s) = (s.launchOne port f).2 := by
    rw [if_pos on, hq]
    exact launchQueue_of_single hq hf hs
  refine (foldl_of_single List.nodup_range (List.mem_range.mpr hi) ?before ?after).trans acts
  case before =>
    intro j hj ne
    rw [off j (List.mem_range.mp hj) ne]
    rfl
  case after =>
    intro j hj ne
    rw [acts]
    have still : (s.launchOne port f).2.on .GTE_Q_CFG_lt_en [(portHalf port).n, 16 * localIdx port + j] = false := by
      unfold State.on
      rw [kept]
      exact off j (List.mem_range.mp hj) ne
    rw [still]
    rfl

end Sys2Proof.Machine

namespace Sys2Proof.Machine

/-- The one copy of a timed port's only launch-time queue, which carries a launch value and waits for no purge. -/
structure LaunchHead (s : State) (port i : Nat) (f : Frame) (v : Nat) : Prop where
  few : i < 16
  timed : s.timedPort port = true
  on : s.on .GTE_Q_CFG_lt_en [(portHalf port).n, 16 * localIdx port + i] = true
  off : ∀ j, j < 16 → j ≠ i → s.on .GTE_Q_CFG_lt_en [(portHalf port).n, 16 * localIdx port + j] = false
  alone : s.queueIds (portHalf port) (16 * localIdx port + i) = [f.id]
  found : s.fr? f.id = some f
  half : f.egress = portHalf port
  queue : f.queue = 16 * localIdx port + i
  stamp : f.launch = some v
  fresh : s.stale f = false

namespace LaunchHead

variable {s : State} {port i : Nat} {f : Frame} {v : Nat}

/-- LAUNCH_TEST is the test of that copy. -/
theorem runs (k : LaunchHead s port i f v) {b : Bool} {t : State} (one : s.launchOne port f = (b, t)) {ps : List Part} {fs : List Fld}
    (left : Within ps fs s t) (hf : Fld.GTE_Q_CFG_lt_en ∉ fs) : exec (.launchTest port) s = .next (settle t) := by
  have run : exec (.launchTest port) s = .next (settle (doLaunchTest port s)) := rfl
  have tested := launchPort_of_single k.few k.on k.off k.alone k.found k.fresh fun q => by
    rw [one]
    exact left.rd _ _ hf
  rw [run]
  unfold doLaunchTest
  rw [if_pos k.timed, tested, one]

/-- A copy that its launch test drops (R217). -/
theorem drops (k : LaunchHead s port i f v) {n cause : Nat} (one : s.launchOne port f = (true, s.launchDrop f n cause)) :
    ∃ t, exec (.launchTest port) s = .next t ∧ dropped s t f.id f.egress cause ∧ t.queueIds f.egress f.queue = []
      ∧ t.rd .GTE_CNT_v [f.egress.n, f.queue, n] = (s.rd .GTE_CNT_v [f.egress.n, f.queue, n] + 1) % 2 ^ 64 ∧ partsBut leaveParts s t := by
  have left := Within.launchDrop s f n cause
  have alone : s.queueIds f.egress f.queue = [f.id] := by
    rw [k.half, k.queue]
    exact k.alone
  exact ⟨_, k.runs one left (by decide), dropped_launchDrop s f n cause, queueIds_launchDrop alone n cause, rd_launchDrop s f n cause, left.settle.parts⟩

/-- A late copy that is sent counts once (R217). -/
theorem marks (k : LaunchHead s port i f v) (one : s.launchOne port f = (false, s.launchLate f)) :
    ∃ t, exec (.launchTest port) s = .next t ∧ became s t f.id { f with lateDone := true }
      ∧ t.rd .GTE_CNT_v [f.egress.n, f.queue, 2] = (s.rd .GTE_CNT_v [f.egress.n, f.queue, 2] + 1) % 2 ^ 64 ∧ partsBut [.frames] s t ∧ fieldsBut [.GTE_CNT_v] s t := by
  have all := Within.launchLate s f
  have marked : became s (s.launchLate f) f.id { f with lateDone := true } := became_congr (became_setFr k.found rfl) rfl rfl
  exact ⟨_, k.runs one all (by decide), marked, rd_bump_self .., all.settle.parts, all.settle.fields⟩

end LaunchHead

/-- Settles O34 (R208, R209, R210, R213, R217, R411): the load and the start of a list, and the three ends of a launch test. -/
theorem gateListsAndLaunchTimes : Obligations.GateListsAndLaunchTimes := by
  unfold Obligations.GateListsAndLaunchTimes
  refine ⟨?load, ?start, ?launch⟩
  case load =>
    rintro s u d port entries bsec bns cycle c es served few long front configured list same rfl
    have fits : LoadFits s d port entries bns cycle c es := ⟨served, few, long, front, configured, list, same⟩
    exact ⟨gateLoad_stores fits, gateLoad_full fits⟩
  case start =>
    intro s port p hp
    exact ⟨gateListStart_unseen, gateListStart_starts hp⟩
  case launch =>
    rintro s port q i h f v p rfl few rfl timed on off alone found half queue stamp fresh rfl
    have head : LaunchHead s port i f v := ⟨few, timed, on, off, alone, found, half, queue, stamp, fresh⟩
    rw [← queue, ← half]
    refine ⟨fun some_ far => head.drops (launchOne_far stamp some_ far), fun _ new late => ?_⟩
    have one := launchOne_late stamp new late
    refine ⟨fun sent => ?_, fun unsent => ?_⟩
    · rw [if_pos sent] at one
      exact head.marks one
    · rw [if_neg (by simp [unsent])] at one
      exact head.drops one

end Sys2Proof.Machine

/-! SUPPORT. The epoch grid: a purge that finds no stale copy (O35). -/

namespace Sys2Proof.Machine

/-- A purge that finds no stale copy in its half does nothing (R223). -/
theorem purgeHalf_of_none {s : State} {h : Half} (none_ : s.frames.filter (fun f => f.loc = .queued && f.egress = h && s.stale f) = []) :
    s.purgeHalf h = (0, s) := by
  unfold State.purgeHalf
  dsimp only
  rw [none_]
  rfl

/-- No frame stands anywhere, and the East half's drop counter of the cause "stale epoch" holds one more than its 64 bits can. -/
def overfullCount : State :=
  { State.reset with frames := [], regs := [(Fld.TEL_DROP_CNT_v.ctorIdx :: [Half.E.n, 0x0E], 2 ^ 64)] }

/-- A field is read as its entry in the register file gives it. -/
theorem rd_overfullCount : overfullCount.rd .TEL_DROP_CNT_v [Half.E.n, 0x0E] = 2 ^ 64 := by
  decide +kernel

/-- Refutes O35: the clause of EPOCH_PURGE reduces the counter to 64 bits, but a purge that finds no stale copy writes no counter, and no premise of the clause says that the counter fits its field. -/
theorem not_epochGrid : ¬ Obligations.EpochGrid := by
  unfold Obligations.EpochGrid
  intro h
  obtain ⟨-, -, -, -, purge⟩ := h
  obtain ⟨t, run, -, -, -, count, -⟩ := purge overfullCount .E (fun f hf => absurd hf List.not_mem_nil)
  have idle : doEpochPurge .E overfullCount = overfullCount := congrArg Prod.snd (purgeHalf_of_none rfl)
  have same : settle (doEpochPurge .E overfullCount) = t := Host.Outcome.next.inj run
  rw [← same, rd_settle, idle, rd_overfullCount] at count
  cases count

end Sys2Proof.Machine
